-- ==== Sys2Proof/Word.lean ====
section
/-! DEFINITION. The plain types of the model: bytes, sparse maps and byte strings. -/

namespace Sys2Proof

/-- A byte. -/
abbrev Byte := BitVec 8

/-- A byte string, lowest address first (R3). -/
abbrev Bytes := List Byte

/-- A sparse map in canonical form: keys strictly rising, no entry equal to the map's default. -/
abbrev SMap (α : Type) := List (Nat × α)

end Sys2Proof
end

