-- ==== Sys2Proof/Syntax.lean ====
section
/-! DEFINITION. The commands of the block: one constructor per row of spec/opcode_table.json, with the row's operands. -/

namespace Sys2Proof

/-- A command. Operands are what comes from outside the block with the event: the function and address of a host
access, the queue of an order, the core of a plan command, what a pin, a link, a camera or an antenna delivered, and what
the host's memory returned to the reads the command makes (`host`). The commands without operands come last. -/
inductive Instr where
  /-- REGISTER_WRITE (R6): A host write to a BAR0 register field that has no row of its own acts by the field's access code, with reserved bits ignored and unassigned offsets ignored. -/
  | registerWrite (fn off size data hwSet : Nat)
  /-- RC_FIELD_READ (R7): A read of a clear-on-read field returns its value and clears it when the reader is the physical function, resolving a same-cycle hardware set. -/
  | rcFieldRead (fn off size : Nat) (bar4 : Bool) (hits : List (Nat × Nat))
  /-- HIGH_HALF_LATCH (R11): A 4-byte read of bits [31:0] of a 64-bit register latches bits [63:32] for the next high-half read by the same function. -/
  | highHalfLatch (fn off : Nat)
  /-- TIME_SOURCE_SET (R24): The order sets the enabled time sources, their priorities, the marker port and the PLL reference. -/
  | timeSourceSet (q : Nat)
  /-- PPS_EDGE (R26): A filtered rising edge on REF_PPS_IN is time-stamped and judged against its pulse-width and prediction window. -/
  | ppsEdge (high : Nat) (seen : Int) (tie : Bool)
  /-- REF_WINDOW_CLOSE (R28): A reference prediction window closes with no event, counting as a reject. -/
  | refWindowClose (src : Nat)
  /-- REF_10M_FREQ_CHECK (R30): The per-second frequency measurement of REF_10M_IN makes source 2 doubtful when it is off by more than ±10 ppm. -/
  | ref10mFreqCheck (ppb : Int)
  /-- FREQ_CHECK_WINDOW (R45): Each 16 µs window compares the core clock with the lagoon clock and raises clock-frequency doubt beyond ±500 ppm. -/
  | freqCheckWindow (ppb : Int)
  /-- TIME_HOST_SET (R37): The order sets water-clock time in FREE_RUN or DOUBT, applied in a fallow turn. -/
  | timeHostSet (q : Nat)
  /-- TIME_EPOCH_SET (R39): The fallow-only order sets the turn epoch and the rate anchor to (E, 0). -/
  | timeEpochSet (q : Nat)
  /-- PLL_LOCK_CONFIRM (R54): The PLL has held lock for 64 µs and the checker confirms the frequency, so the core returns to the PLL at the next boundary. -/
  | pllLockConfirm (tie : Bool)
  /-- TURN_SET (R42): The order sets the turn rate and N_turn, applied in a fallow turn ending at a whole second. -/
  | turnSet (q : Nat)
  /-- TIME_FALLOW (R52): The order makes a named turn fallow without any change. -/
  | timeFallow (q : Nat)
  /-- GUARD_OPEN (R46): At g = 0 units holding staged changes report ready, readiness is sampled, and drain fences are confirmed. -/
  | guardOpen (tie : Bool)
  /-- ORDER_TAIL (R96): A write of the ORDER_TAIL doorbell publishes order units, halting the queue on overrun. -/
  | orderTail (fn q skew size v : Nat)
  /-- TALLY_HEAD (R98): A write of the TALLY_HEAD doorbell frees tally entries when the value is in range, else it is logged DOORBELL_RANGE. -/
  | tallyHead (fn q skew size v : Nat)
  /-- CANCEL (R116): A write of the CANCEL doorbell captures a cancel mark that cancels its target at or before grant, or yields TOO_LATE after. -/
  | cancel (fn q skew size v : Nat)
  /-- ORDER_FETCH (R96): The Ditch Rider fetches a published order whole from its ring, making the queue eligible. -/
  | orderFetch (q : Nat) (data : Bytes)
  /-- PARTIAL_TIMEOUT (R97): Published units end inside an order for 1 ms and the queue halts with BAD_LENGTH, PARTIAL. -/
  | partialTimeout (q : Nat) (tie : Bool)
  /-- QUEUE_RESUME (R97): A write of 1 to DR_QCTL.RESUME restarts a halted queue with head set to tail. -/
  | queueResume (fn q : Nat)
  /-- BUSY_UNIT_START (R112): An order waiting for a busy unit starts when the unit becomes free, in grant order. -/
  | busyUnitStart (agree : Bool)
  /-- ORDER_DEADLINE_TIMEOUT (R112): An order still waiting for a busy unit at the guard of its deadline turn ends TIMEOUT. -/
  | orderDeadlineTimeout (q : Nat) (tie : Bool)
  /-- NOP (R104): The order does nothing and tallies DONE after its checks. -/
  | nop (q : Nat)
  /-- DEV_INFO (R498): The order returns the 256-byte device information reply. -/
  | devInfo (q : Nat)
  /-- DEV_STATUS (R498): The order returns the 256-byte device status reply. -/
  | devStatus (q : Nat)
  /-- QUEUE_CREATE (R95): The order creates queue 1 to 63, binds it to an allotment and zeroes its counts. -/
  | queueCreate (q : Nat)
  /-- QUEUE_DESTROY (R95): The order removes a queue and its pending cancel marks. -/
  | queueDestroy (q : Nat)
  /-- QUEUE_WEIGHT_SET (R150): The staged order changes a queue's arbitration weight at the headgate commit. -/
  | queueWeightSet (q : Nat)
  /-- ALT_CLAIM (R134): The staged order claims an allotment with tiles, function, seal and party, committing at the headgate. -/
  | altClaim (q : Nat)
  /-- ALT_RELEASE (R140): The order unloads plans, cancels orders, retires keys, revokes rights with scrub and zeroes and frees tiles. -/
  | altRelease (q : Nat) (host : Bytes)
  /-- ALT_RELEASE_END (R140): Every teardown step completes, the release tallies DONE and the allotment becomes EMPTY. -/
  | altReleaseEnd (a : Nat)
  /-- ALT_STATUS (R141): The order returns the 192-byte allotment status reply. -/
  | altStatus (q : Nat)
  /-- SCHED_LOAD (R74): The order streams a plan image, checks and translates it into the standby banks. -/
  | schedLoad (q : Nat) (host : Bytes)
  /-- PLAN_LOAD_END (R180): The plan stream ends; the standby bank is marked valid with its measurement, or discarded on failure. -/
  | planLoadEnd (a : Nat)
  /-- SCHED_ARM (R63): The order arms a loaded plan to start at turn T0. -/
  | schedArm (q : Nat)
  /-- SCHED_STOP (R139): The order names the last turn a plan executes, after which the allotment drains. -/
  | schedStop (q : Nat)
  /-- SCHED_UNLOAD (R139): The order unloads the loaded plan and releases its reservations. -/
  | schedUnload (q : Nat)
  /-- DRAIN_COMPLETE (R139): Every delivery of a draining allotment has its ledger outcome, so it returns to LOADED and SCHED_ARM tallies DONE. -/
  | drainComplete (a : Nat)
  /-- RIGHTS_SET (R144): The staged order grants, narrows or revokes water rights on granules. -/
  | rightsSet (q : Nat)
  /-- TURNOUT_SET (R154): The staged order sets the turnout-table root and level count and empties the BAR2 translation cache at commit. -/
  | turnoutSet (q : Nat)
  /-- REFRESH_CLASS_SET (R305): The fallow-only order sets the chip's memory refresh class. -/
  | refreshClassSet (q : Nat)
  /-- MOD_TABLE_LOAD (R250): The order checks and writes modulus-table entries into every core of the allotment. -/
  | modTableLoad (q : Nat)
  /-- KEY_LOAD (R281): The order writes a key bundle with tags at DEST and stages its key-table entry. -/
  | keyLoad (q : Nat)
  /-- KEY_RETIRE (R284): The staged order invalidates a key entry and clears its spent bits at commit. -/
  | keyRetire (q : Nat)
  /-- SLOT_DEFINE (R430): The big-number operation defines a zeroed slot of 4 to 128 words owned by the requester. -/
  | slotDefine (q : Nat)
  /-- BNE_LOAD (R434): The big-number operation loads payload data into a slot. -/
  | bneLoad (q : Nat)
  /-- BNE_STORE (R434): The big-number operation writes a slot to allotment memory with CLEAR tags. -/
  | bneStore (q : Nat)
  /-- BNE_COPY (R434): The big-number operation copies one slot to another of equal length. -/
  | bneCopy (q : Nat)
  /-- RNG_FILL (R434): The big-number operation fills a slot from well instance 0. -/
  | rngFill (q : Nat)
  /-- MODADD (R434): The big-number operation computes (A + B) mod C. -/
  | modadd (q : Nat)
  /-- MODSUB (R434): The big-number operation computes (A − B) mod C. -/
  | modsub (q : Nat)
  /-- MODMUL (R434): The big-number operation computes A × B mod C. -/
  | modmul (q : Nat)
  /-- MODEXP (R434): The big-number operation computes A^B mod C processing every exponent bit. -/
  | modexp (q : Nat)
  /-- MODINV (R434): The big-number operation computes A^(C − 2) mod C. -/
  | modinv (q : Nat)
  /-- EC_MUL (R434): The big-number operation multiplies a point by a scalar. -/
  | ecMul (q : Nat)
  /-- EC_MUL_BASE (R434): The big-number operation multiplies the base point by a scalar. -/
  | ecMulBase (q : Nat)
  /-- EC_KEYGEN (R434): The big-number operation draws a uniform scalar from well instance 0. -/
  | ecKeygen (q : Nat)
  /-- ECDH (R434): The big-number operation computes a shared x-coordinate or X25519 output. -/
  | ecdh (q : Nat)
  /-- SIGN (R434): The big-number operation produces an ECDSA or Ed25519 signature. -/
  | sign (q : Nat)
  /-- VERIFY (R436): The big-number operation checks a signature and writes 1 or 0. -/
  | verify (q : Nat)
  /-- BNE_OP_END (R437): A big-number operation ends after its fixed time, both computations are compared, and D is written or zeroed. -/
  | bneOpEnd (agree : Bool)
  /-- SLOT_CLEAR (R433): The order zeroes and undefines a range of slots. -/
  | slotClear (q : Nat)
  /-- ATTEST (R448): The order returns a signed attestation report with measurements of the grant cycle. -/
  | attest (q : Nat) (agree : Bool)
  /-- SESSION_OPEN (R444): The order performs a key agreement, derives a session key, stages the session and returns a signed reply. -/
  | sessionOpen (q : Nat) (agree : Bool)
  /-- GCM_ENCRYPT (R439): SYM_OP encrypts with AES-256-GCM and writes the tag to a slot. -/
  | gcmEncrypt (q : Nat)
  /-- GCM_DECRYPT (R439): SYM_OP decrypts with AES-256-GCM, zeroing DST on a tag mismatch. -/
  | gcmDecrypt (q : Nat)
  /-- SHA_384 (R439): SYM_OP computes a SHA-384 digest. -/
  | sha_384 (q : Nat)
  /-- SHA3_256 (R439): SYM_OP computes a SHA3-256 digest. -/
  | sha3_256 (q : Nat)
  /-- SHA3_384 (R439): SYM_OP computes a SHA3-384 digest. -/
  | sha3_384 (q : Nat)
  /-- SHAKE128 (R439): SYM_OP produces SHAKE128 output. -/
  | shake128 (q : Nat)
  /-- SHAKE256 (R439): SYM_OP produces SHAKE256 output. -/
  | shake256 (q : Nat)
  /-- HMAC_SHA_384 (R439): SYM_OP computes HMAC-SHA-384 with a slot key. -/
  | hmacSha384 (q : Nat)
  /-- RNG_READ (R441): The order returns random bytes from well instance 2. -/
  | rngRead (q : Nat)
  /-- DRBG_RESEED (R441): A DRBG instance is reseeded after 4,096 requests or once a second. -/
  | drbgReseed (inst : Nat)
  /-- ING_PORT_CONFIG (R360): The order binds and configures a camera port. -/
  | ingPortConfig (q : Nat)
  /-- ING_START (R361): The order walks the buffers and tables and moves the port to SEEK. -/
  | ingStart (q : Nat)
  /-- ING_STOP (R358): The order aborts any frame, clears valid bits and returns the port to READY or OFF. -/
  | ingStop (q : Nat)
  /-- ING_KEY_SET (R371): The sealed order copies and verifies an ingress public key and stages a key slot. -/
  | ingKeySet (q : Nat)
  /-- GNSS_CONFIG (R418): The order configures the GNSS baseband, restarting it for most fields. -/
  | gnssConfig (q : Nat)
  /-- BSN_LOAD (R398): The order walks and checks a problem and binds it to a basin. -/
  | bsnLoad (q : Nat)
  /-- BSN_LOAD_CHECK_END (R398): The problem check completes and the problem is bound or refused. -/
  | bsnLoadCheckEnd (b : Nat)
  /-- BSN_RUN (R406): The order schedules an annealing run on a bound problem. -/
  | bsnRun (q : Nat)
  /-- BSN_RUN_START (R406): A run starts at its START_TURN cycle, drawing its seed and clearing the result valid bit. -/
  | bsnRunStart (b : Nat)
  /-- BSN_SWEEP_END (R401): A sweep over all spins ends; the best state and noise offset update and the run may end. -/
  | bsnSweepEnd (b : Nat)
  /-- BSN_READ (R409): The order returns the result area of the last completed run. -/
  | bsnRead (q : Nat)
  /-- VIS_GRAPH_LOAD (R386): The order loads a frame graph into a vision pipeline. -/
  | visGraphLoad (q : Nat)
  /-- VIS_RUN (R383): The order walks the run's areas and schedules its frames on a vision pipeline. -/
  | visRun (q : Nat)
  /-- VIS_FRAME_START (R385): A frame starts at its named cycle or the previous frame's end, clearing its region bits and sampling the threshold. -/
  | visFrameStart (p : Nat)
  /-- VIS_STAGE_END (R385): A stage or graph node ends, starting the next, and the last one ends the frame and sets its region bits. -/
  | visStageEnd (p : Nat)
  /-- GPIO_CONFIG (R504): The staged order sets pin records, all taking effect at the commit. -/
  | gpioConfig (q : Nat)
  /-- MGT_I2C_XFER (R515): The order requests an I²C controller transfer on the management port or a camera bus. -/
  | mgtI2cXfer (q : Nat)
  /-- I2C_TRANSFER_START (R516): Once the bus is free, the transfer starts with a START and the address. -/
  | i2cTransferStart (bus : Nat)
  /-- LOST_ARB (R517): The Yiliq sends 1 and samples 0 on SDA, releases the bus, logs LOST_ARB and retries or fails ARB_LIMIT. -/
  | lostArb (bus sent : Nat)
  /-- NACK_ADDR (R518): No ACK to the address ends the order FAILED_LINK with no retry. -/
  | nackAddr (bus : Nat) (again : Bool)
  /-- NACK_DATA (R518): No ACK to a write byte ends the order FAILED_LINK with a STOP. -/
  | nackData (bus n : Nat)
  /-- BUS_STUCK (R518): SCL low or the bus busy for 25 ms ends the order FAILED_LINK. -/
  | busStuck (bus : Nat) (tie : Bool)
  /-- I2C_TRANSFER_END (R518): The STOP completes and the order tallies DONE with bytes and retries. -/
  | i2cTransferEnd (bus : Nat) (data : Bytes)
  /-- GAU_SAMPLE (R513): The order samples the named analog pins and returns their codes. -/
  | gauSample (q : Nat)
  /-- GAUGE_SAMPLE_END (R514): The last 1 µs conversion of a GAU_SAMPLE ends and the reply is written. -/
  | gaugeSampleEnd (volts : List Nat)
  /-- PWR_DOMAIN_SET (R482): The fallow-only order switches a power domain on or off. -/
  | pwrDomainSet (q : Nat)
  /-- TILE_GATE (R485): The fallow-only order gates or ungates a tile. -/
  | tileGate (q : Nat)
  /-- DOMAIN_SWITCH (R482): In the fallow turn a domain ramp begins, paced at 8 per 4 µs. -/
  | domainSwitch (unit : Nat)
  /-- DOMAIN_RAMP_END (R483): A domain ramp confirms, or fails to within twice its On time and is switched off with DOMAIN_FAILED. -/
  | domainRampEnd (unit : Nat) (ok tie : Bool)
  /-- UNIT_FOLLOWUP_END (R482): A switched-on unit finishes zeroing, training or quick test and joins the working units or is switched off. -/
  | unitFollowupEnd (unit : Nat) (ok tie : Bool)
  /-- SLUICE_REOPEN (R476): The order reopens a tile or allotment sluice whose clearing conditions are met, obtaining a fallow turn. -/
  | sluiceReopen (q : Nat)
  /-- LOG_READ (R472): The order returns entries of the error log or of the allotment's ledger. -/
  | logRead (q : Nat)
  /-- SELFTEST_RUN (R497): The order runs the quick or full self-test on a unit or on every idle unit. -/
  | selftestRun (q : Nat)
  /-- SELFTEST_END (R497): The self-test completes, units rejoin or leave the working set and the order tallies DONE. -/
  | selftestEnd (failed : List Nat)
  /-- SELFTEST_RESULT (R498): The order returns the self-test result reply. -/
  | selftestResult (q : Nat)
  /-- VF_FLR (R138): A Function Level Reset of a virtual function halts its allotment's queues and drops its BAR2 accesses. -/
  | vfFlr (fn : Nat)
  /-- BAR2_READ (R158): A host BAR2 read is walked and returns data, zeros for sealed granules, or Completer Abort on a fault. -/
  | bar2Read (fn addr len : Nat)
  /-- BAR2_WRITE (R158): A host BAR2 write is walked on every page and written block by block, or dropped on a fault. -/
  | bar2Write (fn addr : Nat) (data : Bytes)
  /-- GRANULE_SCRUB_END (R148): A granule finishes its scrub to zero and may be granted again. -/
  | granuleScrubEnd (stack : Nat)
  /-- SETS (R168): The sequencer sets an S register from the immediate. -/
  | sets (core : Nat)
  /-- SEQ_ADD (R162): The sequencer adds into an S register modulo 2^32. -/
  | seqAdd (core : Nat)
  /-- SEQ_SUB (R162): The sequencer subtracts into an S register modulo 2^32. -/
  | seqSub (core : Nat)
  /-- SEQ_AND (R162): The sequencer ANDs into an S register. -/
  | seqAnd (core : Nat)
  /-- SEQ_OR (R162): The sequencer ORs into an S register. -/
  | seqOr (core : Nat)
  /-- SEQ_XOR (R162): The sequencer XORs into an S register. -/
  | seqXor (core : Nat)
  /-- SEQ_SHL (R162): The sequencer shifts an S register left. -/
  | seqShl (core : Nat)
  /-- SEQ_SHR (R162): The sequencer shifts an S register right logically. -/
  | seqShr (core : Nat)
  /-- SEQ_SRA (R162): The sequencer shifts an S register right arithmetically. -/
  | seqSra (core : Nat)
  /-- SEQ_MIN (R162): The sequencer takes the signed minimum into an S register. -/
  | seqMin (core : Nat)
  /-- SEQ_MAX (R162): The sequencer takes the signed maximum into an S register. -/
  | seqMax (core : Nat)
  /-- SETA (R166): The sequencer sets an A register from the immediate. -/
  | seta (core : Nat)
  /-- ADDA (R165): The sequencer adds a signed offset to an A register's address field. -/
  | adda (core : Nat)
  /-- MOVA (R166): The sequencer copies one A register to another. -/
  | mova (core : Nat)
  /-- LDA (R168): The sequencer loads an A register from a narrow scratchpad word, visible 3 cycles later. -/
  | lda (core : Nat)
  /-- LDS (R168): The sequencer loads an S register from a narrow scratchpad word, visible 3 cycles later. -/
  | lds (core : Nat)
  /-- SETZ (R167): The sequencer sets a stride register. -/
  | setz (core : Nat)
  /-- SETK (R173): The sequencer sets a loop-count register. -/
  | setk (core : Nat)
  /-- SETP (R168): The sequencer sets a parameter slot, visible 3 cycles later. -/
  | setp (core : Nat)
  /-- LOOP (R172): At its base stamp the loop unit samples k and runs the body, breaching LOOP_BOUND when k exceeds M. -/
  | loop (core : Nat)
  /-- MM (R226): The matrix array accumulates a 32×32 product of depth K into an accumulator bank. -/
  | mm (core : Nat)
  /-- ACC_STORE (R234): The drain converts and writes the drain bank's 32 rows through a view. -/
  | accStore (core : Nat)
  /-- ACC_SWAP (R234): The drain exchanges the drain-bank role. -/
  | accSwap (core : Nat)
  /-- RNE_ADD (R255): The ring engine adds residues modulo q. -/
  | rneAdd (core : Nat)
  /-- RNE_SUB (R255): The ring engine subtracts residues modulo q, or opens a share against a mask. -/
  | rneSub (core : Nat)
  /-- RNE_NEG (R255): The ring engine negates residues modulo q. -/
  | rneNeg (core : Nat)
  /-- RNE_MUL (R255): The ring engine multiplies residues modulo q by fold reduction. -/
  | rneMul (core : Nat)
  /-- RNE_MAC (R255): The ring engine multiplies and adds residues modulo q. -/
  | rneMac (core : Nat)
  /-- NTT (R256): The ring engine applies an in-core negacyclic forward transform. -/
  | ntt (core : Nat)
  /-- INTT (R256): The ring engine applies an in-core inverse transform with N^−1 scaling. -/
  | intt (core : Nat)
  /-- NTT4 (R258): The tile applies a four-step forward transform across its 32 cores. -/
  | ntt4 (core : Nat)
  /-- INTT4 (R258): The tile applies a four-step inverse transform across its 32 cores. -/
  | intt4 (core : Nat)
  /-- AUTO (R260): The ring engine permutes evaluations by a Galois element. -/
  | auto (core : Nat)
  /-- BCONV (R247): The ring engine converts limbs between RNS bases. -/
  | bconv (core : Nat)
  /-- RESCALE (R247): The ring engine drops the last limb and divides by its modulus, lowering the level. -/
  | rescale (core : Nat)
  /-- MODDOWN (R247): The ring engine drops the last limb with rescale arithmetic, keeping the level. -/
  | moddown (core : Nat)
  /-- GDECOMP (R247): The ring engine decomposes a limb into signed gadget digits. -/
  | gdecomp (core : Nat)
  /-- EXTPROD (R247): The ring engine forms the external product with evaluation-key polynomials. -/
  | extprod (core : Nat)
  /-- VXE_ADD (R238): The vector engine adds element-wise in the mode's format. -/
  | vxeAdd (core : Nat)
  /-- VXE_SUB (R238): The vector engine subtracts element-wise, or opens a share against a mask. -/
  | vxeSub (core : Nat)
  /-- VXE_MUL (R238): The vector engine multiplies element-wise. -/
  | vxeMul (core : Nat)
  /-- FMA (R238): The vector engine computes X × Y + Z with one rounding. -/
  | fma (core : Nat)
  /-- VXE_MIN (R238): The vector engine takes the element-wise minimum. -/
  | vxeMin (core : Nat)
  /-- VXE_MAX (R238): The vector engine takes the element-wise maximum. -/
  | vxeMax (core : Nat)
  /-- ABS (R238): The vector engine takes absolute values. -/
  | abs (core : Nat)
  /-- VXE_NEG (R238): The vector engine negates elements. -/
  | vxeNeg (core : Nat)
  /-- RELU (R238): The vector engine applies MAX(X, 0). -/
  | relu (core : Nat)
  /-- CLAMP (R238): The vector engine clamps X between Y and Z. -/
  | clamp (core : Option Nat)
  /-- VXE_SHL (R238): The vector engine shifts integer elements left. -/
  | vxeShl (core : Nat)
  /-- VXE_SHR (R238): The vector engine shifts integer elements right. -/
  | vxeShr (core : Nat)
  /-- VXE_AND (R238): The vector engine ANDs whole lanes. -/
  | vxeAnd (core : Nat)
  /-- VXE_OR (R238): The vector engine ORs whole lanes. -/
  | vxeOr (core : Nat)
  /-- VXE_XOR (R238): The vector engine XORs whole lanes. -/
  | vxeXor (core : Nat)
  /-- SELECT (R238): The vector engine selects X or Y by Z. -/
  | select (core : Nat)
  /-- CMPLT (R238): The vector engine compares less-than into all-ones or zero. -/
  | cmplt (core : Nat)
  /-- CMPLE (R238): The vector engine compares less-or-equal into all-ones or zero. -/
  | cmple (core : Nat)
  /-- CMPEQ (R238): The vector engine compares equal into all-ones or zero. -/
  | cmpeq (core : Nat)
  /-- ZIP0 (R240): The vector engine interleaves the low halves of two sources. -/
  | zip0 (core : Nat)
  /-- ZIP1 (R240): The vector engine interleaves the high halves of two sources. -/
  | zip1 (core : Nat)
  /-- UNZIP0 (R240): The vector engine de-interleaves even slots. -/
  | unzip0 (core : Nat)
  /-- UNZIP1 (R240): The vector engine de-interleaves odd slots. -/
  | unzip1 (core : Nat)
  /-- RECIP (R239): The vector engine computes correctly rounded FP32 reciprocals. -/
  | recip (core : Nat)
  /-- RSQRT (R239): The vector engine computes correctly rounded FP32 reciprocal square roots. -/
  | rsqrt (core : Nat)
  /-- EXP2 (R239): The vector engine computes correctly rounded FP32 powers of two. -/
  | exp2 (core : Nat)
  /-- LOG2 (R239): The vector engine computes correctly rounded FP32 base-2 logarithms. -/
  | log2 (core : Nat)
  /-- CVT (R241): The vector engine converts between formats, including residues, by Table 9-8. -/
  | cvt (core : Nat)
  /-- MOV_LOCAL (R207): The move engine copies bytes within one scratchpad. -/
  | movLocal (core : Nat)
  /-- MOV_REMOTE (R324): The move engine sends lines to another core's scratchpad or to an aqueduct gate. -/
  | movRemote (core : Nat)
  /-- MEM_RD (R298): The move engine reads external memory into a landing slot under a memory reservation. -/
  | memRd (core : Nat)
  /-- MEM_WR (R300): The move engine writes lines to external memory under a memory reservation. -/
  | memWr (core : Nat)
  /-- HOST_RD (R272): The move engine fetches host memory into a landing slot with CLEAR tags. -/
  | hostRd (core : Nat)
  /-- FILL (R212): The move engine fills lines with a parameter-slot word and CLEAR tags. -/
  | fill (core : Nat)
  /-- COPY (R214): The move engine copies lines with selectable source and destination views. -/
  | copy (core : Nat)
  /-- REFRESH_APPROX (R287): The macro unit runs the approximate-arithmetic bootstrap across its tile group. -/
  | refreshApprox (core : Nat)
  /-- REFRESH_EXACT (R287): The macro unit runs the exact-scheme bootstrap across its tile group. -/
  | refreshExact (core : Nat)
  /-- BIT_REFRESH (R289): The macro unit refreshes 32 LWE bit ciphertexts through a lookup table. -/
  | bitRefresh (core : Nat)
  /-- KEYSWITCH_HYBRID (R287): The macro unit switches the key of one polynomial in one tile. -/
  | keyswitchHybrid (core : Nat)
  /-- TRANSFER_LANDING (R77): The landing merger writes an arriving line through port U and sets the slot's valid bit on the last line. -/
  | transferLanding (core slot : Nat) (data : Bytes)
  /-- FLUME_TRANSFER_START (R311): A FLUME record's transfer starts at its stamp, reading, expanding and distributing key lines. -/
  | flumeTransferStart (a record : Nat)
  /-- HBM_REWRITE (R307): A queued corrected block is read, corrected and rewritten in one host-share access. -/
  | hbmRewrite (stack : Nat)
  /-- STACK_TEMP_SAMPLE (R306): Each 1 ms stack temperature sample drives the thermal notice, refresh insertion and temperature doubt. -/
  | stackTempSample (stack temp : Nat)
  /-- DELIVERY_START (R92): A delivery begins at its start stamp, after a tag scan for sealed sources. -/
  | deliveryStart (a record : Nat)
  /-- DELIVERY_COMPLETE (R92): A delivery's last byte is written and the ledger records DELIVERED. -/
  | deliveryComplete (a id : Nat) (tie shut : Bool)
  /-- DELIVERY_RELEASE_POINT (R92): The release point passes first, sending stops and the ledger records WITHHELD. -/
  | deliveryReleasePoint (a id sent : Nat)
  /-- SLU_LEDGER_ACK (R470): A write of SLU_LEDGER.ACK acknowledges ledger entries when in range, else it is logged REG_RANGE. -/
  | sluLedgerAck (fn a v : Nat)
  /-- AQD_PORT_ENABLE (R335): A write of 1 to AQD_PORT_CTL.ENABLE moves the port from DOWN to TRAIN. -/
  | aqdPortEnable (p : Nat)
  /-- AQD_PORT_DISABLE (R338): A write of 0 to ENABLE moves the port to DOWN unless a loaded plan names it. -/
  | aqdPortDisable (p : Nat)
  /-- AQD_PORT_RESTART (R335): A write of 1 to RESTART moves a FAULT port to TRAIN. -/
  | aqdPortRestart (p : Nat)
  /-- LANE_TRAINING_DONE (R335): All four lanes train and the port enters ALIGN. -/
  | laneTrainingDone (p : Nat)
  /-- TRAIN_TIMEOUT (R335): Training does not complete in 500 ms and the port faults. -/
  | trainTimeout (p : Nat)
  /-- ALIGN_DONE (R335): Codeword lock, deskew and 256 correctable frames move the port to RANGE. -/
  | alignDone (p : Nat)
  /-- ALIGN_TIMEOUT (R335): Alignment does not complete in 10 ms and the port faults. -/
  | alignTimeout (p : Nat)
  /-- RANGING_DONE (R336): After 1,024 round trips D_L and V_L are latched and the port goes UP or faults. -/
  | rangingDone (p : Nat)
  /-- AQD_FRAME_RECEIVE (R332): A received frame is decoded and its flits used, or discarded as uncorrectable. -/
  | aqdFrameReceive (p : Nat) (frame : Bytes) (tie : Bool)
  /-- MARKER_RECEIVE (R347): A received MARKER flit gives the peer's turn boundary as a source-3 event. -/
  | markerReceive (p : Nat) (flit : Bytes) (tie : Bool)
  /-- RANGE_FLIT_RECEIVE (R336): A received RANGE flit is echoed or completes a ranging sample, faulting on drift. -/
  | rangeFlitReceive (p : Nat) (flit : Bytes)
  /-- DATA_QUAD_RECEIVE (R344): A received DATA quad lands its lines in the matching RECV slot or is counted stray. -/
  | dataQuadReceive (p : Nat) (flit : Bytes)
  /-- SLUICE_FLIT_RECEIVE (R351): A received SLUICE flit closes allotment sluices on matching receivers with PEER_SLUICED. -/
  | sluiceFlitReceive (p : Nat) (flit : Bytes)
  /-- RECV_OPEN (R344): At OPEN a RECV record clears its slot's valid bit. -/
  | recvOpen (a record : Nat)
  /-- CSI_FRAME_START (R357): A frame-start packet begins a frame and chooses its buffer. -/
  | csiFrameStart (p vc ecc : Nat)
  /-- CSI_LONG_PACKET (R362): A long packet delivers one line of an exposure, checked for ECC, CRC and length. -/
  | csiLongPacket (p vc dt ecc : Nat) (crcOk : Bool) (data : Bytes)
  /-- CSI_FRAME_END (R362): A frame-end packet ends the frame, which passes its checks or is bad. -/
  | csiFrameEnd (p vc ecc : Nat) (tie : Bool)
  /-- CSI_OTHER_PACKET (R355): An unsupported or unconfigured packet is discarded and counted. -/
  | csiOtherPacket (p vc ecc : Nat)
  /-- FRAME_TIMEOUT (R363): A frame without its end by FRAME_TIMEOUT turns becomes bad. -/
  | frameTimeout (p : Nat)
  /-- PIPELINE_ROW_OUT (R364): An output row leaves the image pipeline to memory or to the encryptor's staging. -/
  | pipelineRowOut (p : Nat)
  /-- GNSS_CLK_WINDOW (R415): Each 1 ms window checks GNSS_CLK and raises or clears a front-end fault. -/
  | gnssClkWindow (freq : Nat) (gap : Bool) (pins : List Nat)
  /-- CHANNEL_LOSS (R423): A tracking channel returns to IDLE on low C/N0, low lock or side-peak lock. -/
  | channelLoss (n : Nat)
  /-- NAV_PAGE_DECODE (R424): A decoded navigation subframe or page updates ephemeris, offsets and week, or is discarded. -/
  | navPageDecode (n tow : Nat) (ok : Bool) (week : Option Nat) (eph : Option (List Int)) (clk offset : Option Int) (iono : Option (List Int)) (utc : Nat)
  /-- SOLUTION_DELIVERY (R427): A valid time solution is delivered as the GNSS event for the water clock. -/
  | solutionDelivery (tie edge : Bool)
  /-- REF_OSC_CHECK (R429): REF_OSC_IN is checked against REF_XTAL, raising clock doubt when it is the PLL reference. -/
  | refOscCheck (freq : Nat) (gap : Bool)
  /-- RAIL_MONITOR_EXPIRY (R451): A rail outside ±7 % for 1 µs raises the VOLTAGE doubt, closing the chip. -/
  | railMonitorExpiry (rail : Nat)
  /-- DIE_TEMP_SAMPLE (R538): Each 1 ms die sample updates PWR_DIE_TEMP and raises TEMPERATURE doubt at 110 °C. -/
  | dieTempSample (die temp : Nat)
  /-- WALKER_EXPIRY (R461): A Ditch Rider stage not live for PERIOD expires the walker, a chip doubt that resets three stages. -/
  | walkerExpiry (tie : Bool)
  /-- COLD_RESET (R487): A power-good input low for 50 ns or more resets the whole device with fuses reloaded. -/
  | coldReset (vsel smb : Nat) (io : Bool)
  /-- PWR_RESET (R490): A write of 0xA5 to PWR_RESET.KEY starts a warm reset holding the link; other values are logged REG_RANGE. -/
  | pwrReset (fn key : Nat)
  /-- FUSE_LOAD (R491): The fuse array is read, groups chosen from primary or shadow copies, and integrity judged. -/
  | fuseLoad (fuses : Nat)
  /-- STACK_TRAINING_END (R494): A stack's training passes, or fails and is retried or switched off. -/
  | stackTrainingEnd (stack time : Nat) (pass tie : Bool)
  /-- GPIO_OUT (R510): A write to GPIO_OUT drives owned GPIO output pins within 8 lagoon cycles. -/
  | gpioOut (fn v : Nat)
  /-- MGT_CCI (R520): A write to MGT_CCI enables a camera bus and sets its owner, moving pins next cycle. -/
  | mgtCci (fn k v : Nat)
  /-- TURN_STROBE_RISE (R511): TURN_STROBE rises at core cycle OFFSET of every turn. -/
  | turnStrobeRise (k : Nat)
  /-- TURN_STROBE_FALL (R511): TURN_STROBE falls WIDTH lagoon cycles after its rise. -/
  | turnStrobeFall (k : Nat)
  /-- STAMP_EDGE (R512): A filtered rising edge on a STAMP signal is captured with its cycle and turn. -/
  | stampEdge (mv : List Nat) (held : Nat)
  /-- ALERT_CLEAR (R522): The SMBus Send Byte clears SLU_STATUS.ALERT, or is discarded on a PEC mismatch. -/
  | alertClear (pec : Nat) (tie : Bool)
  /-- SAMPLE_PRELOAD (R524): The JTAG instruction samples or preloads the boundary register. -/
  | samplePreload (pins v : Nat)
  /-- EXTEST (R525): The JTAG instruction drives pins from the boundary register while PERST_N is asserted, else acts as BYPASS. -/
  | extest (pins v : Nat)
  /-- BIT_SYNCHRONISATION (R422): A tracking channel in PULL_IN achieves bit synchronisation and enters TRACK, switching its integration from 1 ms to one data bit or pilot period. -/
  | bitSynchronisation (n : Nat)
  /-- CONFIGURATION_REQUEST (R495): A PCIe configuration request to the function is completed with Request Retry Status until READY, and normally afterwards. -/
  | configurationRequest (fn : Nat) (reg vfs : Option Nat)
  /-- MISALIGNED_BAR0_READ (R10): A BAR0 read that is neither 4 bytes at 4-byte alignment nor 8 bytes at 8-byte alignment completes with Completer Abort and is logged REG_ALIGN. -/
  | misalignedBar0Read (fn off size : Nat)
  /-- REF_10M_LOSS (R30): REF_10M_IN shows no edge for 1 µs and source 2 becomes doubtful at once. -/
  | ref10mLoss
  /-- WCK_LOCK (R34): After 16 consecutive seconds within the lock window with no step pending, ACQUIRE moves to LOCKED and PPS_OUT is enabled. -/
  | wckLock
  /-- TRIM_LIMIT_EXCEEDED (R44): Holding phase needs more than ±150 ppm for 3 consecutive seconds and the selected source is made doubtful. -/
  | trimLimitExceeded
  /-- HOLDOVER_END (R59): Elapsed holdover or the error estimate passes its limit and the water clock enters DOUBT with cause HOLDOVER_END. -/
  | holdoverEnd
  /-- XTAL_LOSS (R58): REF_XTAL shows no edge for 100 ns and clock-frequency doubt is raised. -/
  | xtalLoss
  /-- TIME_STEP_APPLY (R35): A pending time step or host-set time is applied at cycle 0 of a fallow turn, or at a boundary when nothing runs. -/
  | timeStepApply
  /-- FALLOW_CHANGE_APPLY (R52): At cycle 0 of a fallow turn the fallow-only changes due in it are applied in order of acceptance. -/
  | fallowChangeApply
  /-- TURN_BOUNDARY (R40): The core cycle counter wraps, the turn number advances by 1, and plans, fallow state and phase trim move to the next turn. -/
  | turnBoundary
  /-- PLL_RELOCK_START (R54): At cycle 0 of a relock fallow turn the core domain switches to the lagoon clock and the PLL is reprogrammed. -/
  | pllRelockStart
  /-- RELOCK_TIMEOUT (R56): Relock is not complete by g = 0, so another fallow turn follows, or the previous frequency is restored, or clock doubt is raised. -/
  | relockTimeout
  /-- HEADGATE_COMMIT (R47): At g = 64 every staged change whose units reported ready commits, RWL fields lock and the rights epoch advances. -/
  | headgateCommit
  /-- BANK_SWAP (R181): At g = 1,024 command banks swap in every allotment armed for the next turn, registers reset and cursors return to entry 0. -/
  | bankSwap
  /-- TALLY_FLUSH (R99): At g = 2,048 every tally produced in the turn is written to its ring and MSI-X vectors are raised. -/
  | tallyFlush
  /-- SPM_GUARD_REWRITE (R217): After the tally flush each core rereads recorded lines and rewrites words still holding a correctable error. -/
  | spmGuardRewrite
  /-- DRY_CHECK (R329): At g = 4,095 every link is checked for lines in transit, each wet lateral breaching its owner. -/
  | dryCheck
  /-- ROUTE_SWITCH (R328): The route program of the next turn takes effect right after the dry check. -/
  | routeSwitch
  /-- CRC_BUCKET_DECAY (R107): Every 1,024 turns each queue's CRC bucket falls by 1, never below 0. -/
  | crcBucketDecay
  /-- QUEUE0_ENABLE (R95): A write of 1 to DR_QCTL(0).ENABLE enables queue 0 with all counts reset to 0. -/
  | queue0Enable
  /-- QUEUE0_DISABLE (R95): A write of 0 to DR_QCTL(0).ENABLE stops fetching, discards unconsumed units and starts draining. -/
  | queue0Disable
  /-- QUEUE0_DRAIN_END (R95): The last order and tally of a draining queue 0 are done and its state reads 0. -/
  | queue0DrainEnd
  /-- SYM_OP_END (R440): A symmetric operation completes after its length-determined time plus memory waits. -/
  | symOpEnd
  /-- WELL_HEALTH_FAIL (R442): A continuous health test fails, SEC_WELL.FAILED sets and all four instances stop until warm reset. -/
  | wellHealthFail
  /-- REOPEN_FALLOW_START (R477): In the reopen's fallow turn the subject's scratchpads, accumulators, slots and registers are zeroed. -/
  | reopenFallowStart
  /-- VF_ENABLE_CLEAR (R138): Clearing VF Enable halts the bound allotments' queues and drops the functions' BAR2 accesses. -/
  | vfEnableClear
  /-- LINK_SLOT_SEND (R342): In each 128 cc link slot a port sends the quads of the SEND records it serves. -/
  | linkSlotSend
  /-- CIPHERTEXT_WRITTEN (R369): The encryptor finishes one ciphertext and, for the last, sets the buffer's valid bit. -/
  | ciphertextWritten
  /-- MEASUREMENT_EPOCH (R425): At each whole second every navigating channel latches its measurements. -/
  | measurementEpoch
  /-- ACQ_CANDIDATE_DONE (R420): A candidate's search ends and a detection is handed to the lowest idle channel. -/
  | acqCandidateDone
  /-- SOLUTION_TIMEOUT (R427): No solution by 500 ms after the epoch is a reject. -/
  | solutionTimeout
  /-- PPS_OUT_RISE (R428): PPS_OUT rises at each whole second plus PPS_OFFSET when driven. -/
  | ppsOutRise
  /-- PPS_OUT_FALL (R428): PPS_OUT falls PPS_WIDTH after its rise. -/
  | ppsOutFall
  /-- CHIP_SLUICE_FLUSH (R460): While the chip is closed, tallies are flushed and vectors raised every 65,536 lagoon cycles. -/
  | chipSluiceFlush
  /-- PERST_N_ASSERT (R487): PERST_N asserted with power good starts a warm reset that retrains the link. -/
  | perstNAssert (tie : Bool)
  /-- HOT_RESET (R487): A PCIe Hot Reset or Disabled starts a warm reset with link retraining. -/
  | hotReset (tie : Bool)
  /-- PF_FLR (R487): A Function Level Reset of the physical function starts a warm reset holding the link. -/
  | pfFlr (tie : Bool)
  /-- BRINGUP_START (R493): With PERST_N high and power good for 1 ms, the hardware sequencer begins bring-up. -/
  | bringupStart
  /-- CORE_CLOCK_SWITCH (R493): At the end of DOMAINS the core switches to the PLL and turn 0 begins. -/
  | coreClockSwitch
  /-- READY (R495): INIT ends, the function becomes ready, scrubbing begins and a fuse failure closes the chip. -/
  | ready
  /-- THERM_TRIP (R540): A die reaching 115 °C asserts THERM_TRIP_N and stops every core clock. -/
  | thermTrip
  /-- SMB_DEVICE (R522): The SMBus Block Read returns the device identity. -/
  | smbDevice
  /-- SMB_STATUS (R522): The SMBus Block Read returns bring-up and sluice status. -/
  | smbStatus
  /-- SMB_TEMPS (R522): The SMBus Block Read returns die and stack temperatures. -/
  | smbTemps
  /-- SMB_ALERT_CAUSE (R522): The SMBus Block Read returns the chip cause and the last sluice notice. -/
  | smbAlertCause
  /-- ALERT_RESPONSE (R523): The target answers the Alert Response Address while ALERT_N is asserted. -/
  | alertResponse
  /-- SMB_CLOCK_TIMEOUT (R522): SMBus clock low for 25 ms makes the target release the bus and discard the transaction. -/
  | smbClockTimeout
  /-- BYPASS (R524): The JTAG instruction selects the bypass register. -/
  | bypass
  /-- IDCODE (R524): The JTAG instruction returns 0xB964_09AB. -/
  | idcode
  /-- HIGHZ (R525): The JTAG instruction floats pins while PERST_N is asserted, else acts as BYPASS. -/
  | highz
  deriving DecidableEq, Repr

end Sys2Proof
end

