-- ==== Sys2Proof/Config.lean ====
section
/-! DEFINITION. What the spec leaves open: free values. Each is a constant without a body, so that nothing can be
proved of its value; it is applied to a counter of State (`State.free`), or to the operands it may depend on. -/

namespace Sys2Proof.Config

/-- A byte drawn from the randomness well (R441: the DRBG outputs are not predictable). Log entry 3. -/
opaque wellByte : Nat → BitVec 8

/-- The rounding and noise term the encryptor adds to one coefficient (R369: the spec bounds it, and does not fix it).
The model clamps it to the bound. Log entry 3. -/
opaque noise : Nat → Int

/-- Whether a read of a block that a write is changing finds the new contents (R300): a function of the plan, the plan turn, the
place in a page, the cycles of both, and what the block may hold, so that it is the same on every run. Log entry 13. -/
opaque seesEarly : List Nat → Bool

/-- A 32-bit word that a macro writes, a function of its parameter set, its inputs, its table, its key and the word's place (R288,
R289). The spec does not state it. Log entry 14. -/
opaque macroWord : List Nat → BitVec 32

/-- The block, within the home stack's device region, that holds an entry of a ledger book or of the error log; the spec does not
state where. Log entry 92. -/
opaque deviceBlock : Nat → Nat

/-- Bytes of a delivery that the host has accepted (edge arbitration, R88: outside the contract). Log entry 15. -/
opaque hostTook : Nat → Nat

/-- DETAIL [31:0] of a tally whose cause has no stated value. Log entry 19. -/
opaque openDetail : Nat → Nat

/-- A chip of a primary code (Table 17-1): signal code, PRN, place. The spec names the codes and does not state them. Log entry 95. -/
opaque chip : Nat → Nat → Nat → Bool

/-- A sample of the snapshot memory (R421): the captured samples, the rate and intermediate frequency they stand at, the rate of 2
samples per chip, the place. The spec does not state how samples are resampled. Log entry 95. -/
opaque resample : List (Int × Int) → List Int → Nat → Int × Int

/-- The loops of a tracking channel (R422), whose coefficients the spec does not state. The code loop: DLL_BW, the integration in
milliseconds, the discriminator's numerator and denominator; the correction of the code phase. Log entry 95. -/
opaque codeLoop : List Int → Int

/-- The carrier loop: PLL_BW, the integration, whether the FLL assists it, the prompt of this integration and of the last, the loop's
phase, Doppler and rate; the new phase, Doppler and rate by place. Log entry 95. -/
opaque carrierLoop : List Int → Nat → Int

/-- A satellite's signal path in eighths of a nanosecond, from its ephemeris, the broadcast ionosphere parameters, the GPS time of
transmission and a position: 0 the time of flight, 1 the ionosphere's delay, 2 the troposphere's; 3 its elevation in 0.1°. The spec
names these models and does not state them. Log entry 96. -/
opaque path : Nat → List Int → List Int → Int → List Int → Int

/-- The offset of a solution, from the offsets its satellites give; the spec does not state how they are combined. Log entry 96. -/
opaque timeFix : List Int → Int

/-- A coordinate of the position solved with the time, from the times of transmission and ephemerides of the satellites. Log entry 96. -/
opaque posFix : List (List Int) → Nat → Int

/-- A number the spec leaves open, drawn afresh. Log entry 3. -/
opaque anyNat : Nat → Nat

end Sys2Proof.Config
end

