-- ==== Sys2Proof/Machine/State.lean ====
section
/-! DEFINITION. The state of the block: every register, buffer, counter, mode and pin the spec gives it, as plain data,
with the queue of waiting commands; the machine right after a cold reset; the reasons a step can stop. -/

namespace Sys2Proof.Machine

/-- Why a step stops with a fault. Both are safe: the machine stops where the hardware has no such unit. -/
inductive Fault where
  /-- Raised by every meaning whose command names a unit that does not exist (port 12 of 12, core 4,608 of 4,608, a
  function above 31). Safe: the spec gives no such unit, and the command says nothing about the part. -/
  | noSuchUnit
  deriving DecidableEq, Repr

/-- Why a step is refused. Safe: nothing is claimed of a command that has no meaning. -/
inductive Refusal where
  /-- Raised by the dispatch alone, for a command without a meaning. -/
  | notModelled (mnemonic : String)
  deriving DecidableEq, Repr

/-! ## Orders, tallies, log -/

/-- An order the Ditch Rider has consumed (R101): its bytes as fetched, its payload (opened when it was sealed), what
the host's memory returned to the reads it makes, and the turns that bound it. -/
structure Ord where
  id : Nat
  q : Nat
  bytes : Bytes
  payload : Bytes
  host : Bytes
  turn : Nat
  deadline : Nat
  /-- the order has taken effect (R128) -/
  took : Bool
  /-- its ACCEPTED tally has been produced (R104) -/
  acc : Bool
  /-- an arrival tied the timer the order waited under (R119) -/
  margin : Bool
  /-- what R38 has added to the turn numbers in its bytes since its grant -/
  shift : Int
  deriving DecidableEq, Repr

/-- A tally (Table 4-3), before its PHASE bit is set at the flush (R98). -/
structure Tally where
  seq : Nat
  op : Nat
  status : Nat
  cxl : Bool
  margin : Bool
  notice : Bool
  item : Nat
  cycle : Nat
  detail : Nat
  turn : Nat
  allot : Nat
  deriving DecidableEq, Repr

/-- An order queue: what its registers do not show (R94 to R118). -/
structure Queue where
  /-- the allotment it is bound to; 255 when none (queue 0 is bound to none) -/
  bound : Nat
  tallyHead : Nat
  written : Nat
  credit : Int
  marks : List Nat
  /-- tallies produced and not yet written (R99) -/
  out : List Tally
  /-- the next order, fetched whole (R113) -/
  fetched : Option Bytes
  /-- the published units end inside the order at the head (R97) -/
  short : Bool
  /-- the arrival that completed the order at the head tied the PARTIAL timer (R119) -/
  tied : Bool
  /-- OPCODE and ALLOT of consumed orders by sequence number, for cancels that come late (R117) -/
  past : SMap (Nat × Nat)
  /-- QUEUE_DESTROY has been executed; tallies are still to be written -/
  closing : Bool
  /-- while queue 0 drains: the first entries of `out` that are no notices produced since (R95) -/
  before : Nat
  deriving DecidableEq, Repr

/-- An entry of the error log (Table 19-6). -/
structure LogEntry where
  seq : Nat
  cycle : Nat
  turn : Nat
  allot : Nat
  scope : Nat
  sluice : Bool
  margin : Bool
  cause : Nat
  subject : Nat
  origin : Nat
  value : Nat
  deriving DecidableEq, Repr

/-- An entry of a delivery ledger (R468). -/
structure Ledger where
  seq : Nat
  devId : Nat
  outcome : Nat
  poisoned : Bool
  notify : Bool
  margin : Bool
  reason : Nat
  bytes : Nat
  cycle : Nat
  turn : Nat
  planTurn : Nat
  meas : Bytes
  deriving DecidableEq, Repr

/-- What the controller of an I²C bus sends (R516): a START, a repeated START, a byte, the ACK or NACK of a byte it has read, a STOP. -/
inductive I2cItem where
  | start
  | again
  | byte (v : Byte)
  | ack
  | nack
  | stop
  deriving DecidableEq, Repr

/-- What has left the device: the host link's write queue, completions, interrupts, flits, bus replies. -/
inductive Sent where
  /-- a memory write to the host with the requester id of a function; `ep` is the poisoned-data indication -/
  | hostWrite (fn addr : Nat) (data : Bytes) (ep : Bool)
  | msix (fn vector : Nat)
  /-- completions of host reads: data, Completer Abort, Unsupported Request, Request Retry Status -/
  | completion (fn : Nat) (data : Bytes)
  | completionEp (fn : Nat) (data : Bytes)
  | completerAbort (fn : Nat)
  | unsupported (fn : Nat)
  | retryStatus (fn : Nat)
  | configDone (fn : Nat) (data : Bytes)
  /-- a frame sent by an aqueduct port: 2,720 bytes, lane c's codeword in bytes 680 c to 680 c + 679 -/
  | frame (port : Nat) (data : Bytes)
  /-- an edge of PPS_OUT, placed at an eighth of its lagoon cycle -/
  | ppsOut (level : Bool) (eighth : Nat)
  | i2c (bus : Nat) (items : List I2cItem)
  | smbus (data : Bytes)
  | jtag (bits : Nat) (value : Nat)
  deriving DecidableEq, Repr

/-- What a running command has written to external memory: one byte, or a range of zeros. -/
inductive Store where
  | byte (a : Nat) (v : Byte)
  | zero (first n : Nat)
  deriving DecidableEq, Repr

/-! ## Changes that wait -/

/-- A loaded ingress key slot (Table 14-8): where the copied key stands, its shape and its tag fields. -/
structure IngKeySlot where
  dest : Nat
  pages : SMap Nat
  keyId : Nat
  logN : Nat
  limbs : Nat
  modslot : Nat
  level : Nat
  scale : Nat
  form : Nat
  deriving DecidableEq, Repr

/-- A change staged for a headgate commit (R47), or due in a fallow turn (R51). -/
inductive Change where
  | claim (a fn party : Nat) (sealed : Bool) (tiles : List Nat)
  | rights (a : Nat) (entries : List (Nat × Nat × Nat × Bool))
  | turnout (a root levels : Nat)
  | weight (q w : Nat)
  | sources (enable prio port : Nat)
  | pllRef (ref : Nat)
  | keyEntry (a key kind src dst : Nat)
  | keyRetire (a key : Nat)
  | session (a id : Nat) (key : Bytes)
  | ingKey (p slot a : Nat) (key : IngKeySlot) (activate : Bool)
  | pins (first : Nat) (recs : List Nat)
  | hostTime (sec ns : Nat)
  | epoch (e : Nat)
  | turnSet (r n : Nat)
  | fallowOnly
  | refresh (cls : Nat)
  | power (unit : Nat) (on : Bool)
  | reopen (scope subject a : Nat)
  deriving DecidableEq, Repr

/-- A staged change with its order, the readiness sampled at g = 0 of the running guard, and the core cycle since reset in which it was
accepted (R48). -/
structure Staged where
  ord : Ord
  change : Change
  ready : Bool
  at_ : Nat
  deriving DecidableEq, Repr

/-- A change due in a fallow turn, in order of acceptance (R52). -/
structure FallowDue where
  ord : Ord
  turn : Nat
  change : Change
  deriving DecidableEq, Repr

/-! ## Clock -/

/-- What the water clock keeps of one reference source (R28 to R30). -/
structure Src where
  rejects : Nat
  accepts : Nat
  /-- a prediction stands (R29: the first event in FREE_RUN or DOUBT sets it) -/
  pred : Bool
  /-- the last disagreement with the clock, in eighths of a nanosecond -/
  dis : Int
  jumps : Nat
  /-- consecutive events accepted since the source is good, at most 16 -/
  goodFor : Nat
  deriving DecidableEq, Repr

/-- A relock of the core PLL under way (R54, R56). -/
structure Relock where
  /-- the orders that share it, in order of acceptance (R52) -/
  ords : List Ord
  /-- one of them is a TURN_SET -/
  turnSet : Bool
  newR : Nat
  newN : Nat
  newRef : Nat
  oldR : Nat
  oldN : Nat
  oldRef : Nat
  /-- 0 waiting for its turn, 1 target programmed, 2 previous frequency programmed, 3 waiting for a whole second with
  the previous frequency confirmed, 4 waiting for a whole second unconfirmed -/
  phase : Nat
  /-- fallow turns used in this phase -/
  used : Nat
  /-- step 3 of R54 is complete; it was so only after g = 0, so that one more turn is fallow (R56) -/
  confirmed : Bool
  late : Bool
  deriving DecidableEq, Repr

/-- The water clock beside its registers. Time is `sec`, `ns` and the fraction `frac` of a nanosecond in units of
1 / (4 r N_turn). -/
structure Wck where
  turn : Nat
  cycle : Nat
  now : Nat
  lagoon : Nat
  sec : Nat
  ns : Nat
  frac : Nat
  /-- turns have begun (R493) -/
  running : Bool
  prio : Nat
  port : Nat
  pllRef : Nat
  gnss : Src
  pps : Src
  marker : Src
  /-- STRATUM of the marker last accepted (R346) -/
  stratum : Nat
  /-- good seconds of REF_10M_IN that source 2 still needs (R30) -/
  good10M : Nat
  /-- the state ACQUIRE was entered from (Table 2-3), and the source selected there -/
  cameFrom : Nat
  cameSource : Nat
  /-- the pending time step, in nanoseconds (R34, R35) -/
  step : Option Int
  /-- writes of limit registers that take effect at the next turn boundary (R61): register offset, value -/
  limits : List (Nat × Nat)
  /-- phase error (0.125 ns) and frequency uncertainty (parts per 10^15) at entry into HOLDOVER (R59), the second and nanosecond
  of that entry -/
  holdE0 : Nat
  holdY0 : Nat
  holdFrom : Nat
  holdNs : Nat
  relock : Option Relock
  fallow : List Nat
  /-- the current turn is fallow -/
  isFallow : Bool
  deriving DecidableEq, Repr

/-! ## Cores -/

/-- One level of the loop stack (R172, R173). -/
structure Loop where
  base : Nat
  period : Nat
  count : Nat
  iter : Nat
  /-- entry after the LOOP -/
  body : Nat
  deriving DecidableEq, Repr

/-- The ECC state of a stored codeword as its next read finds it. -/
inductive Ecc where
  | clean
  | correctable
  | uncorrectable
  /-- external memory only: decodes, with its POISON flag set (R294) -/
  | poisoned
  deriving DecidableEq, Repr

/-- A command-store entry: the 128-bit native command, what its 9 check bits say of it (R182; the spec gives no code for them:
log entry 91) and its 32-bit origin field (R180). -/
structure Entry where
  word : BitVec 128
  ecc : Ecc
  index : BitVec 32
  deriving DecidableEq, Repr

/-- A register write that is not visible yet (R168): kind 0 S, 1 A, 2 P, 3 Z, 4 K; visible from cycle `at_`. -/
structure LateWrite where
  at_ : Nat
  kind : Nat
  idx : Nat
  val : Nat
  deriving DecidableEq, Repr

/-- One word that a write supplies: the bits of `mask`, whether it is written poisoned (R218, R219), and the codeword itself where
the word has crossed the canal network with its check bits (R320). -/
structure PutWord where
  line : Nat
  bank : Nat
  mask : Nat
  val : Nat
  poison : Bool
  raw : Option (BitVec 39)
  deriving DecidableEq, Repr

/-- A scratchpad write in flight: its cycle, its port (4 W, 5 L, 6 U; 7 one that its command's hold covers), the access
that books the port (view and line, Table 8-1), the words it supplies, the lines whose tags it writes, the tag, the
issue cycle and Acnik index of its command, and the position of the lateral that carries it (0xFFFFFFFF when none). -/
structure LineWrite where
  at_ : Nat
  port : Nat
  view : Nat
  line : Nat
  words : List PutWord
  lines : List Nat
  tag : BitVec 64
  from_ : Nat
  origin : Nat
  route : Nat
  deriving DecidableEq, Repr

/-- The content that a write replaced, which reads of the same and the next cycle still see (R209, R273). -/
structure OldLine where
  /-- the last cycle whose reads see it: the one after the write's -/
  last : Nat
  line : Nat
  words : List (BitVec 39)
  tag : BitVec 64
  deriving DecidableEq, Repr

/-- A command that has issued and still makes accesses (Table 8-3): its word and Acnik index, its issue cycle, its
addresses, count and parameter as sampled there (R170), its occupancy and latency, its output tag, the index of its
next access, the lines a macro or move has to say where they go (`dst`, `route`), and what it has read so far. -/
structure Run where
  cmd : BitVec 128
  origin : Nat
  s : Nat
  da : Nat
  sa : Nat
  sb : Nat
  sc : Nat
  n : Nat
  par : Nat
  occ : Nat
  lat : Nat
  tag : BitVec 64
  i : Nat
  /-- the accumulator bank an ACC_STORE reads -/
  bank : Nat
  route : Nat
  poison : Bool
  /-- lines read so far: words with their poison, and the line's tag -/
  xs : List (List (Nat × Bool))
  ys : List (List (Nat × Bool))
  zs : List (List (Nat × Bool))
  tags : List (BitVec 64)
  deriving DecidableEq, Repr

/-- A transfer into a landing slot that has not landed: its kind (0 memory, 1 flume, 2 link, 3 host), its source (memory:
the physical address; flume and link: the position of the plan's record; host: the bus address), the first cycle of its
service, its lines, how many have landed and, of exchange lines, which (bit i: line i), and the lines that wait for the merger: index,
words and tag. -/
structure Transfer where
  kind : Nat
  src : Nat
  sigma : Nat
  /-- the line its first line lands in -/
  dest : Nat
  lines : Nat
  landed : Nat
  seen_ : Nat
  data : List (Nat × List (BitVec 39) × BitVec 64)
  deriving DecidableEq, Repr

/-- The stored codeword of a block of external memory beside its data and its tag copy (R294): POISON of the flag byte, and the
erroneous symbols: position 0 to 80, and what is added to it; each position once, none with 0. -/
structure BlockCode where
  poison : Bool
  errors : List (Nat × Nat)
  deriving DecidableEq, Repr

/-- What a block held before a plan's write, and the cycle from which the write is visible (Table 3-2, R300). -/
structure OldBlock where
  blk : Nat
  data : Bytes
  tag : BitVec 64
  code : BlockCode
  seen_ : Nat
  deriving DecidableEq, Repr

/-- A landing-slot tracker (R77). Instants are core cycles since reset, plus 1; 0 when there is none. -/
structure Slot where
  declared : Bool
  kind : Nat
  base : Nat
  len : Nat
  valid : Bool
  flying : Option Transfer
  /-- the instant its last byte landed, for R79 -/
  landedAt : Nat
  /-- the instant a transfer was issued into it, and its valid bit before that -/
  clearedAt : Nat
  was : Bool
  deriving DecidableEq, Repr

/-- A result of an MM that is not complete yet: the cycle it is ready in, its values, its format, its poison. -/
structure AccPend where
  at_ : Nat
  vals : SMap (BitVec 32)
  fp : Bool
  poison : Bool
  deriving DecidableEq, Repr

/-- An accumulator bank (R225): 32 by 32 words (format and poison stand in MXE_ACC), results not ready yet, its tag. -/
structure AccBank where
  vals : SMap (BitVec 32)
  pends : List AccPend
  tag : BitVec 64
  deriving DecidableEq, Repr

/-- The cursor and the issue window of a core (R175). -/
structure Window where
  /-- the next entry to be read, and the plan turn it is read for -/
  read : Nat
  turn : Nat
  /-- entries held, in fetch order -/
  held : List Nat
  /-- loops open at the cursor, innermost first: the first entry of the body, and the iterations to be read after the present
  one; none while the count is not sampled -/
  loops : List (Nat × Option Nat)
  /-- depth in a loop that does not apply, whose entries are discarded as they are read -/
  skip : Nat
  /-- the ENDLOOP of a loop whose count is not sampled has been read -/
  stop : Bool
  /-- the cycle of the next reads, while there are any to make -/
  at_ : Nat
  busy : Bool
  deriving DecidableEq, Repr

/-- One use of a port: its view (0 to 2 as Table 8-1, 3 a quad, 4 every bank port, 5 one word), its line (for one word,
32 × line + bank), the issue cycle and Acnik index of its command. -/
structure Use where
  port : Nat
  view : Nat
  line : Nat
  from_ : Nat
  origin : Nat
  deriving DecidableEq, Repr

/-- The bank-port clashes of a core in one cycle. -/
structure Clashes where
  at_ : Nat
  /-- those recorded: bank, quarter, port, Acnik index of the later command -/
  found : List (Nat × Nat × Nat × Nat)
  /-- the accesses among which they were found, those of commands about to issue with them -/
  uses : List Use
  deriving DecidableEq, Repr

/-- A core: sequencer, command store, engines, scratchpad, tags, accumulators. -/
structure Core where
  s : SMap (BitVec 32)
  a : SMap (BitVec 48)
  z : SMap (BitVec 24)
  k : SMap (BitVec 32)
  p : SMap (BitVec 32)
  /-- registers whose parity bit is wrong (R183): kind (0 S, 1 A, 2 P, 3 Z, 4 K, 5 loop level) and number -/
  parity : List (Nat × Nat)
  late : List LateWrite
  loops : List Loop
  bank0 : List Entry
  bank1 : List Entry
  /-- the next entry that has not issued -/
  cursor : Nat
  win : Window
  /-- cycle from which each engine is free: 1 MXE array, 2 RNE, 3 VXE, 4 MOV, 5 macro unit, 6 MXE drain -/
  busy : SMap Nat
  slots : SMap Slot
  /-- lines that are not all zero codewords -/
  lines : SMap (List (BitVec 39))
  runs : List Run
  writes : List LineWrite
  old : List OldLine
  /-- the bank-port clashes of the last cycle that had any -/
  clashed : Option Clashes
  tags : SMap (BitVec 64)
  acc0 : AccBank
  acc1 : AccBank
  /-- a macro occupies the core until this cycle (R184, R211) -/
  macroEnd : Nat
  /-- lines with a correctable error read this turn (R217) -/
  rewrite : List Nat
  /-- command-store entries with a corrected error, to be rewritten in the guard (R182): entry + 2048 × bank -/
  rewriteStore : List Nat
  /-- key ids whose mask is spent in this core (R285) -/
  spent : List Nat
  deriving DecidableEq, Repr

/-- A plan held by an allotment: its header fields, sections and measurement (Table 7-2, R197). -/
structure Plan where
  meas : Bytes
  l : Nat
  repeat_ : Bool
  cls : Nat
  geo : Nat
  profile : Nat
  nplan : Nat
  tiles : Nat
  /-- section type, record count, section bytes -/
  secs : List (Nat × Nat × Bytes)
  /-- granules the plan relies on, with the permission bits it uses (R146) -/
  uses : List (Nat × Nat)
  /-- physical pages of the allotment pages that its records name -/
  pages : SMap Nat
  /-- modulus indices its commands and records name, limb ranges included (R251) -/
  mods : List Nat
  deriving DecidableEq, Repr

/-- A delivery in flight (R465) -/
structure Delivery where
  rec_ : Bytes
  planTurn : Nat
  startTurn : Nat
  startCycle : Nat
  poisoned : Bool
  meas : Bytes
  /-- physical pages of its source -/
  pages : SMap Nat
  deriving DecidableEq, Repr

/-- A key-table entry (R280). -/
structure KeyEntry where
  kind : Nat
  src : Nat
  dst : Nat
  deriving DecidableEq, Repr

/-- A modulus-table entry beyond RNE_MODTAB's fields (R249). -/
structure Modulus where
  raw : Bytes
  q : Nat
  k : Nat
  terms : List (Bool × Nat)
  psi : Nat
  maxlog : Nat
  deriving DecidableEq, Repr

/-- A session in force (R445). -/
structure Session where
  id : Nat
  key : Bytes
  last : Nat
  deriving DecidableEq, Repr

/-- SCHED_ARM accepted: its order and start turn (R63). -/
structure Armed where
  ord : Ord
  t0 : Nat
  deriving DecidableEq, Repr

/-- Lines of a MOV to a gate in a port's transmit buffer (R341): the LINKS record, the cycle by which all of them stand
there, the lines with their tags, and how many have been sent. -/
structure TxBuf where
  record : Nat
  /-- the position of the lateral that brings them (0xFFFFFFFF when none) -/
  route : Nat
  at_ : Nat
  lines : List (Bytes × BitVec 64)
  sent_ : Nat
  deriving DecidableEq, Repr

/-- A SCHED_LOAD from its grant to its end, with the rights and the turnout table of its grant (R150, R154). -/
structure LoadView where
  ord : Ord
  rights : List (Nat × Nat × Nat)
  root : Nat
  levels : Nat
  deriving DecidableEq, Repr

/-- An allotment beyond its registers (Table 5-1). -/
structure Allot where
  /-- water rights: first granule, count, permissions (Table 5-3 byte 8); rising, disjoint -/
  rights : List (Nat × Nat × Nat)
  keys : SMap KeyEntry
  mods : SMap Modulus
  session : Option Session
  active : Option Plan
  standby : Option Plan
  armed : Option Armed
  /-- the SCHED_ARM of the running plan -/
  runOrd : Option Ord
  /-- pending SCHED_STOPs with the last turn each names -/
  stops : List (Ord × Nat)
  planTurn : Nat
  executed : Nat
  /-- first partial write refused in the running plan: Acnik index and core (R220) -/
  partialPoison : Option (Nat × Nat)
  loading : Option LoadView
  release : Option Ord
  /-- granules whose scrub ALT_RELEASE waits for: first, count -/
  awaits : List (Nat × Nat)
  delivs : List Delivery
  ledger : List Ledger
  ledgerDue : Bool
  txs : List TxBuf
  /-- FLUME records whose transfers have started in this turn: the units their engine has read, plus 1 -/
  flumes : SMap Nat
  /-- the instant (core cycle since reset, plus 1) for which every command due in it has been checked (R84, R455) -/
  checkedAt : Nat
  /-- the instant (core cycle since reset, plus 1) in which its sluice closed while its plan was running: the breaches of that cycle are
  still found and recorded (R84) -/
  shutRunning : Nat
  /-- turn of the last SLUICE flit naming one of its exchanges (Table 19-8) -/
  peerSluice : Option Nat
  deriving DecidableEq, Repr

/-- The SCHED_LOAD that the translator serves (R196): its order; what its checks gave: the failure (status and DETAIL), the
first walk fault (allotment address and cause), the plan and the entries of each physical core. -/
structure PlanLoad where
  ord : Ord
  fail : Option (Nat × Nat)
  walk : Option (Nat × Nat)
  plan : Plan
  banks : SMap (List Entry)
  deriving DecidableEq, Repr
/-- An aqueduct port beyond its registers: the last frames in UP, newest first (true: uncorrectable), the ranging samples in
units of 0.125 ns (count, sum, least, largest), the flits of a quad received so far, the peer id that the last frame
named, the lagoon cycle (plus 1) of its last transition by an awaited event, the last 58 scrambled bits received. -/
structure AqdPort where
  frames : List Bool
  samples : Nat
  sum : Int
  lo : Int
  hi : Int
  quad : List Bytes
  peer : Nat
  moved : Nat
  last58 : Nat
  /-- FRAME_SEQ of the last frame sent, and the last 58 bits of its scrambled body (R331) -/
  txSeq : Nat
  txLast : Nat
  /-- AQD_VL_LIMIT as the present RANGE state found it -/
  vlLimit : Nat
  deriving DecidableEq, Repr

def AqdPort.reset : AqdPort := ⟨[], 0, 0, 0, 0, [], 0, 0, 0, 0, 0, 0⟩
/-- A frame of a camera port from its frame start until it is complete or bad (R357 to R370). -/
structure IngFrame where
  id : Nat
  turn : Nat
  buf : Nat
  key : Option IngKeySlot
  /-- rows received, by exposure: the samples of each row -/
  rows : SMap (List (List Nat))
  /-- the frame end has passed its checks -/
  ended : Bool
  /-- rows that have left the pipeline -/
  out : Nat
  /-- values staged and not yet part of a full ciphertext -/
  vals : List Nat
  /-- ciphertexts staged, ciphertexts written -/
  staged : Nat
  written : Nat
  deriving DecidableEq, Repr

/-- A camera port beyond its registers. -/
structure IngPort where
  cfg : Bytes
  key0 : Option IngKeySlot
  key1 : Option IngKeySlot
  /-- physical pages of the buffers, by allotment page (R361) -/
  pages : SMap Nat
  calib : Bytes
  /-- frames counted from ING_START -/
  count : Nat
  frames : List IngFrame
  /-- bytes in the receive FIFO while the pipeline input stalls (R370) -/
  fifo : Nat
  /-- the turn of the last frame start (R363) -/
  lastStart : Nat
  deriving DecidableEq, Repr

/-- A ciphertext staged for the sealed ingress encryptor. -/
structure EncJob where
  port : Nat
  frame : Nat
  k : Nat
  vals : List Nat
  deriving DecidableEq, Repr

def IngPort.reset : IngPort := ⟨[], none, none, [], [], 0, [], 0, 0⟩
/-- A run of a vision pipeline (R383 to R391). -/
structure VisRun where
  ord : Ord
  mode : Nat
  release : Bool
  t0 : Nat
  c0 : Nat
  descs : List Bytes
  pages : SMap Nat
  /-- the current frame has started -/
  going : Bool
  frame : Nat
  thresh : Nat
  begun : Nat
  /-- the frame has read an uncorrectable block (R390) -/
  poison : Bool
  /-- part of a write of the frame has been refused (R309) -/
  refused : Bool
  /-- stages or nodes ended and running in the current frame -/
  ended : List Nat
  /-- nodes running, with the lagoon cycle in which their stage's time is over (Table 15-5) -/
  running : List (Nat × Nat)
  nr : Nat
  /-- the previous frame built a pyramid -/
  built : Bool
  /-- region bits the frame has cleared -/
  regs : Nat
  deriving DecidableEq, Repr

/-- A vision pipeline beyond its registers. -/
structure Vis where
  graph : List Bytes
  run : Option VisRun
  /-- regions of the last run: index, allotment address, length -/
  regions : List (Nat × Nat × Nat)
  regPages : SMap Nat
  /-- the lagoon cycle of the last write of VIS_REFINE_THRESH and the threshold before that cycle (R387) -/
  threshWas : Option (Nat × Nat)
  deriving DecidableEq, Repr

def Vis.reset : Vis := ⟨[], none, [], [], none⟩
/-- A problem bound to a settling basin (Table 16-1), read in place. -/
structure BsnProblem where
  addr : Nat
  n : Nat
  entries : Nat
  adj : Nat
  pages : SMap Nat
  deriving DecidableEq, Repr

/-- A run of a settling basin (R401 to R407). -/
structure BsnRun where
  ord : Ord
  mode : Nat
  sched : Bytes
  sweeps : Nat
  result : Nat
  pages : SMap Nat
  going : Bool
  seed : Bytes
  draws : Nat
  spins : List Bool
  e : Int
  best : List Bool
  bestE : Int
  bestSweep : Nat
  sweep : Nat
  offset : Nat
  stuck : Nat
  poison : Bool
  deriving DecidableEq, Repr

/-- A settling basin beyond its registers. -/
structure Basin where
  problem : Option BsnProblem
  /-- the problem check under way -/
  loading : Option (Ord × BsnProblem)
  run : Option BsnRun
  /-- the result of the last completed run (Table 16-3) -/
  result : Option Bytes
  /-- the result area as an ingress buffer (R408): address, length, pages -/
  area : Option (Nat × Nat)
  areaPages : SMap Nat
  deriving DecidableEq, Repr

def Basin.reset : Basin := ⟨none, none, none, none, none, []⟩
/-- What a channel latches at an epoch (R425): code phase and carrier phase in 2^-40 chips and cycles, and its time of week: message
periods, and milliseconds of whole code periods since; and the GPS week of that time. -/
structure GnssLatch where
  code : Int
  carrier : Int
  tow : Nat
  since : Nat
  week : Option Nat
  deriving DecidableEq, Repr

/-- A tracking channel beyond its register: its replicas and correlators (R422), what its loss is decided by (R423), what its
messages have given (R424). -/
structure GnssChan where
  /-- phase of the prompt code replica at the next sample, in 2^-40 chips -/
  code : Int
  /-- phase (2^-40 cycles), Doppler (2^-40 Hz) and Doppler rate of the carrier replica -/
  carrier : Int × Int × Int
  /-- sums of the correlators of Table 17-3 in the integration under way, its milliseconds so far and in all -/
  sums : List (Int × Int)
  ms : Nat
  integ : Nat
  /-- the prompt of the last integration -/
  prompt : Int × Int
  /-- milliseconds that C/N0 has stayed low and the carrier unlocked; consecutive integrations with a high side peak -/
  weak : Nat
  unlocked : Nat
  sidePeak : Nat
  /-- the next time of week it expects, in message periods, and milliseconds of code since the last page -/
  tow : Option Nat
  since : Nat
  /-- the full GPS week, the ephemeris, the clock correction and the system offset (0.125 ns), once decoded -/
  week : Option Nat
  eph : Option (List Int)
  clk : Option Int
  offset : Option Int
  latched : Option GnssLatch
  deriving DecidableEq, Repr

def GnssChan.reset : GnssChan := ⟨0, (0, 0, 0), [], 0, 1, (0, 0), 0, 0, 0, none, 0, none, none, none, none, none⟩

/-- A cell of the search grid with its sum: the sum, the code offset in half chips, the Doppler bin. -/
structure GnssCell where
  sum : Nat
  offset : Nat
  bin : Int
  deriving DecidableEq, Repr

/-- The search of the present candidate (R420, R421). -/
structure GnssAcq where
  /-- passes the correlator bank has made, and the best cell of each with the power of the samples it saw -/
  pass : Nat
  found : List (GnssCell × Nat)
  /-- live samples of the pass or capture under way, and their milliseconds -/
  got : List (Int × Int)
  ms : Nat
  /-- the snapshot memory, and the signal code it was captured for -/
  snap : List (Int × Int)
  snapFor : Option Nat
  /-- milliseconds since the search has had all its samples -/
  age : Nat
  /-- the lagoon cycle in which the FFT engine is done -/
  until_ : Nat
  deriving DecidableEq, Repr

def GnssAcq.reset : GnssAcq := ⟨0, [], [], 0, [], none, 0, 0⟩

/-- The GNSS baseband beyond its registers. -/
structure Gnss where
  /-- the record in force (Table 17-2); none before the first GNSS_CONFIG -/
  cfg : Option Bytes
  /-- GNSS_CONFIGs whose fields wait for the next whole second (R419), in order -/
  wait : List (Ord × Bytes)
  /-- a front-end fault, and the good windows since its last bad one (R415) -/
  fault : Bool
  goodWindows : Nat
  /-- the candidate being searched: signal code, PRN (R420) -/
  cand : Nat × Nat
  acq : GnssAcq
  chans : SMap GnssChan
  /-- parameters of the broadcast ionosphere model -/
  iono : List Int
  /-- an epoch whose solution is neither delivered nor late, and its second -/
  epochOpen : Bool
  epochAt : Nat
  /-- consecutive valid seconds of the survey, and the sums of their positions (R426) -/
  survey : Nat
  sum : Int × Int × Int
  deriving DecidableEq, Repr

def Gnss.reset : Gnss := ⟨none, [], false, 0, (0, 1), GnssAcq.reset, [], [], false, 0, 0, (0, 0, 0)⟩

/-- An operation of the big-number engine in progress. -/
structure BneJob where
  ord : Ord
  op : Nat
  /-- STORE: the physical pieces of its destination -/
  dst : List (Nat × Nat × Nat)
  /-- lagoon cycle of its end (R435) -/
  due : Nat
  deriving DecidableEq, Repr

/-- A symmetric operation in progress, with the physical pieces of its source, additional data and destination. -/
structure SymJob where
  ord : Ord
  src : List (Nat × Nat × Nat)
  aad : List (Nat × Nat × Nat)
  dst : List (Nat × Nat × Nat)
  /-- lagoon cycle of its end, memory waits apart (R440) -/
  due : Nat
  deriving DecidableEq, Repr
/-- A sluice in force: scope 0 core, 1 tile, 2 allotment, 3 chip; the doubt recorded under R454 and its detection. -/
structure Closed where
  scope : Nat
  subj : Nat
  cause : Nat
  index : Nat
  core : Nat
  queue : Nat
  turn : Nat
  cycle : Nat
  deriving DecidableEq, Repr

/-- A SLUICE_REOPEN accepted (R476, R477), with its fallow turn. -/
structure Reopen where
  ord : Ord
  scope : Nat
  subj : Nat
  turn : Nat
  /-- its zeroing from cycle 0 of that turn is done -/
  zeroed : Bool
  deriving DecidableEq, Repr
/-- A domain switch under way (R482, R483): `stage` 0 its ramp runs, 1 its follow-up runs, 2 its stack is being scrubbed (R486) or its
identity checked (R443), 3 switched off and waiting for the guard, 4 its follow-up has passed and a self-test of the unit decides. -/
structure Ramp where
  unit : Nat
  on : Bool
  ord : Option Ord
  stage : Nat
  deriving DecidableEq, Repr

/-- A SELFTEST_RUN under way (R497): its order, the units under test, whether it is a full test. -/
structure TestRun where
  ord : Ord
  units : List Nat
  full : Bool
  deriving DecidableEq, Repr
/-- An I²C bus whose transfer waits for the bus or executes (R516). -/
structure I2cBus where
  ord : Option Ord
  started : Bool
  retries : Nat
  deriving DecidableEq, Repr

def I2cBus.reset : I2cBus := ⟨none, false, 0⟩

/-- A GAU_SAMPLE in progress: the turn and cycle of its first sample's start, and the lagoon cycle in which its last sample ends
(R513, R514). -/
structure GauJob where
  ord : Ord
  turn : Nat
  cycle : Nat
  due : Nat
  deriving DecidableEq, Repr

/-! ## The whole state -/

/-- The state of the block. -/
structure State where
  /-- commands that wait, first in, first out (the model's own) -/
  pending : List Instr
  /-- what the running command has written to external memory, newest first (the model's own: `settle` drains it) -/
  stores : List Store
  /-- external memory: canonical, an unlisted byte reads 0 -/
  mem : List Host.Cell
  /-- draws made of free values so far (the model's own) -/
  free : Nat
  /-- BAR0 register fields, by register offset; an unlisted register holds its reset value -/
  regs : SMap (BitVec 64)
  /-- high-half latches of 64-bit registers (R11): the value plus 1 at key 32 × offset of the high half + function -/
  latch : SMap Nat
  /-- scratchpad counts by core since the physical function cleared them (chapter 8), at key 8 × core + 0 corrected, 1
  uncorrectable, 2 refused, 3 rewritten, 4 not recorded, 5 highest merger occupancy; and as they stood at its latch -/
  spmCounts : SMap Nat
  spmLatch : SMap Nat
  wck : Wck
  queues : SMap Queue
  /-- orders granted so far (the next order's id) -/
  granted : Nat
  /-- orders granted whose final tally is not decided (R114) -/
  inflight : List Ord
  /-- orders waiting for a busy unit, in grant order (R112) -/
  waiting : List Ord
  staged : List Staged
  fallowDue : List FallowDue
  allots : SMap Allot
  load : Option PlanLoad
  /-- revoked or re-sealed granules whose drain fence is not confirmed: first, count, must be scrubbed -/
  fences : List (Nat × Nat × Bool)
  /-- granules to scrub, in order: first, count -/
  scrubs : List (Nat × Nat)
  /-- BAR2 translation cache: allotment, page, physical page, permissions walked with -/
  tcache : List (Nat × Nat × Nat)
  /-- virtual functions the host has enabled -/
  vfEnabled : List Nat
  cores : SMap Core
  /-- external memory: tag copy and stored codeword of each 64-byte block -/
  blkTag : SMap (BitVec 64)
  blkCode : SMap BlockCode
  /-- the instant (core cycle since reset) up to which each key flume engine serves its record -/
  fluUntil : SMap Nat
  /-- blocks that plans wrote in this turn, as they were before, oldest first -/
  early : List OldBlock
  /-- the instant (core cycle since reset, plus 1) at which the valid bit of an ingress buffer was last set: 16 p + b for
  buffer b of port p, 128 + 4 p + r for region r of pipeline p, 160 + b for the result area of basin b (R79, R368) -/
  bufSet : SMap Nat
  rewriteQ : SMap (List Nat)
  /-- stacks above 95 °C, dies at or above 110 °C in their present excursion -/
  hotStacks : List Nat
  hotDies : List Nat
  log : List LogEntry
  sent : List Sent
  /-- cores (0) and stacks (1) whose correctable-error entry of this turn is logged (R475) -/
  corrLogged : List (Nat × Nat)
  aqds : SMap AqdPort
  /-- link slots of this turn that have been served -/
  linkSlots : Nat
  /-- the route program in force (R328): allotment, route position, whether it is there for its last line alone (R329) -/
  routesNow : List (Nat × Nat × Bool)
  ings : SMap IngPort
  encQ : List EncJob
  viss : SMap Vis
  basins : SMap Basin
  gnss : Gnss
  /-- slot memory: the integer each slot holds -/
  slotMem : SMap Nat
  bne : Option BneJob
  /-- the symmetric operation in progress -/
  sym : Option SymJob
  /-- the next SESSION_ID of the chip (R444) -/
  nextSession : Nat
  /-- generate requests since the last reseed, by DRBG instance (R441) -/
  drbg : SMap Nat
  /-- the randomness well has failed since the last reset, and all four instances stand (R442) -/
  wellStopped : Bool
  /-- the fused identity private key (R443): no register, slot or memory holds it -/
  idKey : Nat
  closed : List Closed
  reopens : List Reopen
  /-- lagoon cycle of the chip sluice's detection, then of the latest flush counted from it (R460) -/
  chipSince : Nat
  /-- DETAIL of the last SLUICE_NOTICE (Table 21-6, ALERT_CAUSE) -/
  lastSluice : Nat
  /-- the bring-up sequencer runs (R493) -/
  bringingUp : Bool
  ramps : List Ramp
  /-- units still to be switched on in the DOMAINS phase, in order -/
  bringup : List Nat
  /-- lagoon cycles in which the latest ramps began (R482) -/
  rampStarts : List Nat
  /-- units whose last test or training failed -/
  failedUnits : List Nat
  test : Option TestRun
  /-- granted SELFTEST_RUNs that wait, each with the units its grant has taken out of the working units (R497) -/
  testsWaiting : List TestRun
  testRuns : Nat
  testTurn : Nat
  testUnit : Nat
  /-- a fuse integrity failure of the present bring-up closes the chip at READY (R492) -/
  fuseFault : Bool
  /-- TRIM, SPM_REPAIR and HBM_REPAIR fuse groups as loaded (Table 20-5) -/
  fuseTrim : Nat
  fuseSpm : Nat
  fuseHbm : Nat
  /-- VSEL as sampled at cold reset (R531) -/
  vsel : Nat
  /-- pin records (Table 21-4), as 128-bit numbers -/
  pinRecs : SMap Nat
  i2cs : SMap I2cBus
  gau : Option GauJob
  /-- GPIO_STROBE in force since the last turn boundary (R511); strobes that are high, each with the lagoon cycle of its fall -/
  strobes : SMap Nat
  strobeHigh : List (Nat × Nat)
  /-- the present sample of every pin, bit n for GPIO n (R505) -/
  pinRaw : Nat
  /-- the lagoon cycle from which each pin has stood at its present sample (R505) -/
  pinSince : SMap Int
  /-- cycles of the turn before the present one, and its clock in Hz (R512) -/
  prevLength : Nat
  /-- the clock of the turn before the present one, in Hz (R512) -/
  prevHz : Nat
  /-- the number of the turn before the present one, as it bore it then (R512) -/
  prevTurn : Nat
  /-- PPS_OUT is high, and the instant of its fall in eighths of a lagoon cycle -/
  ppsHigh : Bool
  ppsDue : Nat
  /-- PERST_N is asserted -/
  perst : Bool
  /-- THERM_TRIP_N is asserted (R540) -/
  tripped : Bool
  /-- the ditch walker has expired since the last reset: its next expiry halts every queue (R462) -/
  walkerOnce : Bool
  /-- the power-good inputs are high, as known from BRINGUP_START until COLD_RESET (R487, R493; log entry 104) -/
  powerGood : Bool
  /-- the instruction in the debug port: 0 IDCODE, 1 BYPASS, 2 SAMPLE/PRELOAD, 3 EXTEST, 4 CLAMP, 5 HIGHZ; its boundary
  register -/
  jtagIr : Nat
  boundary : Nat
  deriving DecidableEq, Repr

def Src.reset : Src := ⟨0, 0, false, 0, 0, 0⟩

def Wck.reset : Wck where
  turn := 0
  cycle := 0
  now := 0
  lagoon := 0
  sec := 0
  ns := 0
  frac := 0
  running := false
  prio := 0x3214
  port := 0
  pllRef := 0
  gnss := Src.reset
  pps := Src.reset
  marker := Src.reset
  stratum := 15
  good10M := 0
  cameFrom := 0
  cameSource := 0
  step := none
  limits := []
  holdE0 := 0
  holdY0 := 0
  holdFrom := 0
  holdNs := 0
  relock := none
  fallow := []
  isFallow := false

def Queue.reset : Queue := ⟨255, 0, 0, 0, [], [], none, false, false, [], false, 0⟩

def AccBank.reset : AccBank := ⟨[], [], 0⟩

def Slot.reset : Slot := ⟨false, 0, 0, 0, false, none, 0, 0, false⟩

def Window.reset : Window := ⟨0, 0, [], [], 0, false, 0, false⟩

def Core.reset : Core where
  s := []
  a := []
  z := []
  k := []
  p := []
  parity := []
  late := []
  loops := []
  bank0 := []
  bank1 := []
  cursor := 0
  win := Window.reset
  busy := []
  slots := []
  lines := []
  runs := []
  writes := []
  old := []
  clashed := none
  tags := []
  acc0 := AccBank.reset
  acc1 := AccBank.reset
  macroEnd := 0
  rewrite := []
  rewriteStore := []
  spent := []

def Allot.reset : Allot where
  rights := []
  keys := []
  mods := []
  session := none
  active := none
  standby := none
  armed := none
  runOrd := none
  stops := []
  planTurn := 0
  executed := 0
  partialPoison := none
  loading := none
  release := none
  awaits := []
  delivs := []
  ledger := []
  ledgerDue := false
  txs := []
  flumes := []
  checkedAt := 0
  shutRunning := 0
  peerSluice := none

/-- The block right after a cold reset (Table 20-4): every register at the reset value of its table, bring-up in its
FUSE phase, nothing stored, nothing pending. -/
def State.reset : State where
  pending := []
  stores := []
  mem := []
  free := 0
  regs := []
  latch := []
  spmCounts := []
  spmLatch := []
  wck := Wck.reset
  queues := []
  granted := 0
  inflight := []
  waiting := []
  staged := []
  fallowDue := []
  allots := []
  load := none
  fences := []
  scrubs := []
  tcache := []
  vfEnabled := []
  cores := []
  blkTag := []
  blkCode := []
  fluUntil := []
  early := []
  bufSet := []
  rewriteQ := []
  hotStacks := []
  hotDies := []
  log := []
  sent := []
  corrLogged := []
  aqds := []
  linkSlots := 0
  routesNow := []
  ings := []
  encQ := []
  viss := []
  basins := []
  gnss := Gnss.reset
  slotMem := []
  bne := none
  sym := none
  nextSession := 0
  drbg := []
  wellStopped := false
  idKey := 0
  closed := []
  reopens := []
  chipSince := 0
  lastSluice := 0
  bringingUp := false
  ramps := []
  bringup := []
  rampStarts := []
  failedUnits := []
  test := none
  testsWaiting := []
  testRuns := 0
  testTurn := 0
  testUnit := 0
  fuseTrim := 0
  fuseFault := false
  fuseSpm := 0
  fuseHbm := 0
  vsel := 0
  pinRecs := []
  i2cs := []
  gau := none
  strobes := []
  strobeHigh := []
  pinRaw := 0
  pinSince := []
  prevLength := 0
  prevHz := 1
  prevTurn := 0
  ppsHigh := false
  ppsDue := 0
  perst := false
  tripped := false
  walkerOnce := false
  powerGood := false
  jtagIr := 0
  boundary := 0

end Sys2Proof.Machine
end

