-- ==== Sys2Proof/Machine/Regs.lean ====
section
/-! DEFINITION. The registers of BAR0: every register header and field table of the chapters, as one table, and one
named field constant per field (the manual's own name, REGISTER_FIELD). The table is the manual's own; the access codes
are those of Table 0-2 (R6). -/

namespace Sys2Proof.Machine

/-- The access codes of Table 0-2 (R6). -/
inductive Access where
  | rw | ro | wo | w1c | rc | rs
  deriving DecidableEq, Repr

/-- One field of a register: lowest bit, width, access code. -/
structure RField where
  lo : Nat
  w : Nat
  acc : Access
  deriving DecidableEq, Repr

/-- One register header: name, first offset, the two index strides and counts (0 where the register is not indexed),
width in bits, reset value (0 where the field is loaded from fuses or a pin), and its fields. -/
structure RegRow where
  name : String
  base : Nat
  s1 : Nat
  n1 : Nat
  s2 : Nat
  n2 : Nat
  width : Nat
  reset : Nat
  fields : List RField
  deriving DecidableEq, Repr

/-- The WCK_ registers. -/
def regsWck : List RegRow := [
  ⟨"WCK_TURN_CYCLES", 0x20000, 0x0, 0, 0, 0, 32, 0xe4e1c0, [⟨0, 32, .ro⟩]⟩,
  ⟨"WCK_TURN_RATE", 0x20004, 0x0, 0, 0, 0, 32, 0x78, [⟨0, 11, .ro⟩]⟩,
  ⟨"WCK_TURN_NUMBER", 0x20008, 0x0, 0, 0, 0, 64, 0x0, [⟨0, 48, .ro⟩]⟩,
  ⟨"WCK_CYCLE_OFFSET", 0x20010, 0x0, 0, 0, 0, 32, 0x0, [⟨0, 32, .ro⟩]⟩,
  ⟨"WCK_TIME", 0x20018, 0x0, 0, 0, 0, 64, 0x0, [⟨0, 30, .ro⟩, ⟨32, 32, .ro⟩]⟩,
  ⟨"WCK_STATE", 0x20020, 0x0, 0, 0, 0, 32, 0x0, [⟨0, 3, .ro⟩, ⟨3, 3, .ro⟩, ⟨6, 1, .ro⟩, ⟨7, 1, .w1c⟩, ⟨8, 1, .rs⟩, ⟨9, 1, .w1c⟩, ⟨10, 1, .ro⟩, ⟨11, 12, .ro⟩]⟩,
  ⟨"WCK_SRC_STATUS", 0x20024, 0x0, 0, 0, 0, 32, 0x11, [⟨0, 4, .ro⟩, ⟨4, 4, .ro⟩, ⟨8, 1, .w1c⟩]⟩,
  ⟨"WCK_REJECTS", 0x20028, 0x0, 0, 0, 0, 32, 0x0, [⟨0, 8, .rc⟩, ⟨8, 8, .rc⟩, ⟨16, 8, .rc⟩]⟩,
  ⟨"WCK_PHASE", 0x20030, 0x0, 0, 0, 0, 64, 0x0, [⟨0, 32, .ro⟩, ⟨32, 32, .ro⟩]⟩,
  ⟨"WCK_HOLDOVER", 0x20038, 0x0, 0, 0, 0, 64, 0x0, [⟨0, 17, .ro⟩, ⟨32, 32, .ro⟩]⟩,
  ⟨"WCK_HOLDOVER_LIMIT", 0x20040, 0x0, 0, 0, 0, 32, 0x3840, [⟨0, 17, .rw⟩]⟩,
  ⟨"WCK_TERR_LIMIT", 0x20044, 0x0, 0, 0, 0, 32, 0x5dc, [⟨0, 20, .rw⟩]⟩,
  ⟨"WCK_JUMP_LIMIT", 0x20048, 0x0, 0, 0, 0, 32, 0x7d0, [⟨0, 20, .rw⟩]⟩,
  ⟨"WCK_SLEW", 0x2004c, 0x0, 0, 0, 0, 32, 0xc8, [⟨0, 14, .rw⟩]⟩,
  ⟨"WCK_OSC_MODEL", 0x20050, 0x0, 0, 0, 0, 64, 0x0, [⟨0, 32, .rw⟩, ⟨32, 32, .rw⟩]⟩,
  ⟨"WCK_PIN_FILTER", 0x20058, 0x0, 0, 0, 0, 32, 0x8, [⟨0, 8, .rw⟩]⟩,
  ⟨"WCK_ANCHOR_SEC", 0x20060, 0x0, 0, 0, 0, 32, 0x0, [⟨0, 32, .ro⟩]⟩,
  ⟨"WCK_ANCHOR_TURN", 0x20068, 0x0, 0, 0, 0, 64, 0x0, [⟨0, 48, .ro⟩]⟩,
  ⟨"WCK_STEP", 0x20070, 0x0, 0, 0, 0, 64, 0x0, [⟨0, 48, .ro⟩, ⟨63, 1, .w1c⟩]⟩]

/-- The DR_ registers. -/
def regsDr : List RegRow := [
  ⟨"DR_CRC_LIMIT", 0x30000, 0x0, 0, 0, 0, 32, 0x8, [⟨0, 8, .rw⟩]⟩,
  ⟨"DR_DEADLINE_DEFAULT", 0x30004, 0x0, 0, 0, 0, 32, 0x10, [⟨0, 16, .rw⟩]⟩,
  ⟨"DR_INFLIGHT", 0x30008, 0x0, 0, 0, 0, 32, 0x0, [⟨0, 10, .ro⟩]⟩,
  ⟨"DR_COUNTS", 0x30010, 0x0, 0, 0, 0, 64, 0x0, [⟨0, 32, .rc⟩, ⟨32, 16, .rc⟩, ⟨48, 16, .rc⟩]⟩,
  ⟨"DR_QBASE", 0x31000, 0x40, 64, 0, 0, 64, 0x0, [⟨0, 1, .rw⟩, ⟨6, 58, .rw⟩]⟩,
  ⟨"DR_QSIZE", 0x31008, 0x40, 64, 0, 0, 32, 0x406, [⟨0, 5, .rw⟩, ⟨8, 4, .rw⟩, ⟨16, 11, .rw⟩]⟩,
  ⟨"DR_TBASE", 0x31010, 0x40, 64, 0, 0, 64, 0x0, [⟨6, 58, .rw⟩]⟩,
  ⟨"DR_QPTR", 0x31018, 0x40, 64, 0, 0, 64, 0x0, [⟨0, 32, .ro⟩, ⟨32, 32, .ro⟩]⟩,
  ⟨"DR_QCTL", 0x31020, 0x40, 64, 0, 0, 32, 0x0, [⟨0, 1, .rw⟩, ⟨1, 1, .wo⟩]⟩,
  ⟨"DR_QSTAT", 0x31024, 0x40, 64, 0, 0, 32, 0x0, [⟨0, 2, .ro⟩, ⟨8, 8, .ro⟩, ⟨16, 8, .ro⟩, ⟨24, 4, .ro⟩]⟩,
  ⟨"DR_QSEQ", 0x31028, 0x40, 64, 0, 0, 32, 0x0, [⟨0, 32, .ro⟩]⟩,
  ⟨"DR_QLOAD", 0x3102c, 0x40, 64, 0, 0, 32, 0x10, [⟨0, 8, .ro⟩, ⟨8, 6, .ro⟩, ⟨16, 9, .ro⟩]⟩]

/-- The ALT_ registers. -/
def regsAlt : List RegRow := [
  ⟨"ALT_EPOCH", 0x40000, 0x0, 0, 0, 0, 32, 0x0, [⟨0, 32, .ro⟩]⟩,
  ⟨"ALT_PF_WINDOW", 0x40008, 0x0, 0, 0, 0, 32, 0x1f, [⟨0, 5, .rw⟩]⟩,
  ⟨"ALT_SCRUB", 0x40010, 0x0, 0, 0, 0, 64, 0x0, [⟨0, 18, .ro⟩, ⟨32, 32, .rc⟩]⟩,
  ⟨"ALT_STATE", 0x40100, 0x100, 16, 0, 0, 32, 0x0, [⟨0, 3, .ro⟩, ⟨3, 1, .ro⟩, ⟨4, 4, .ro⟩, ⟨8, 5, .ro⟩, ⟨13, 1, .ro⟩, ⟨14, 1, .ro⟩, ⟨16, 8, .ro⟩]⟩,
  ⟨"ALT_TILE_MAP", 0x40108, 0x100, 16, 8, 3, 64, 0x0, [⟨0, 64, .ro⟩]⟩,
  ⟨"ALT_RIGHTS", 0x40120, 0x100, 16, 0, 0, 32, 0x0, [⟨0, 9, .ro⟩, ⟨9, 1, .ro⟩, ⟨10, 1, .ro⟩]⟩,
  ⟨"ALT_TURNOUT", 0x40128, 0x100, 16, 0, 0, 64, 0x0, [⟨0, 2, .ro⟩, ⟨12, 36, .ro⟩]⟩,
  ⟨"ALT_WALK_FAULT", 0x40130, 0x100, 16, 0, 0, 64, 0x0, [⟨0, 48, .ro⟩, ⟨48, 8, .ro⟩, ⟨56, 2, .ro⟩, ⟨63, 1, .w1c⟩]⟩,
  ⟨"ALT_BAR2_COUNTS", 0x40138, 0x100, 16, 0, 0, 64, 0x0, [⟨0, 32, .rc⟩, ⟨32, 32, .rc⟩]⟩]

/-- The TIL_ registers. -/
def regsTil : List RegRow := [
  ⟨"TIL_ENABLE_MAP", 0x50000, 0x8, 3, 0, 0, 64, 0x0, [⟨0, 64, .ro⟩]⟩,
  ⟨"TIL_GATED_MAP", 0x50018, 0x8, 3, 0, 0, 64, 0x0, [⟨0, 64, .ro⟩]⟩,
  ⟨"TIL_STORE_ECC", 0x50030, 0x0, 0, 0, 0, 64, 0x0, [⟨0, 32, .rc⟩, ⟨32, 13, .ro⟩, ⟨45, 11, .ro⟩, ⟨56, 1, .ro⟩, ⟨57, 1, .ro⟩, ⟨63, 1, .w1c⟩]⟩,
  ⟨"TIL_CORE_STATE", 0x51000, 0x10, 4608, 0, 0, 64, 0x0, [⟨0, 1, .ro⟩, ⟨1, 1, .ro⟩, ⟨2, 1, .ro⟩, ⟨3, 3, .ro⟩, ⟨6, 1, .ro⟩, ⟨8, 11, .ro⟩, ⟨19, 4, .ro⟩, ⟨24, 8, .ro⟩, ⟨32, 32, .rc⟩]⟩]

/-- The SPM_ registers. -/
def regsSpm : List RegRow := [
  ⟨"SPM_ECC_COUNTS", 0x70000, 0x0, 0, 0, 0, 64, 0x0, [⟨0, 32, .rc⟩, ⟨32, 16, .rc⟩, ⟨48, 16, .rc⟩]⟩,
  ⟨"SPM_ECC_FIRST", 0x70008, 0x0, 0, 0, 0, 64, 0x0, [⟨0, 13, .ro⟩, ⟨13, 10, .ro⟩, ⟨23, 5, .ro⟩, ⟨28, 2, .ro⟩, ⟨30, 32, .ro⟩, ⟨63, 1, .w1c⟩]⟩,
  ⟨"SPM_SCRUB", 0x70010, 0x0, 0, 0, 0, 32, 0x0, [⟨0, 16, .rc⟩, ⟨16, 16, .rc⟩]⟩,
  ⟨"SPM_CLASH", 0x70018, 0x0, 0, 0, 0, 64, 0x0, [⟨0, 13, .ro⟩, ⟨13, 5, .ro⟩, ⟨18, 2, .ro⟩, ⟨20, 3, .ro⟩, ⟨23, 32, .ro⟩, ⟨63, 1, .w1c⟩]⟩,
  ⟨"SPM_MERGE_PEAK", 0x70020, 0x0, 0, 0, 0, 32, 0x0, [⟨0, 7, .rc⟩, ⟨7, 13, .rc⟩]⟩]

/-- The MXE_ registers. -/
def regsMxe : List RegRow := [
  ⟨"MXE_ACC", 0x80000, 0x4, 4608, 0, 0, 32, 0x1, [⟨0, 1, .ro⟩, ⟨1, 1, .ro⟩, ⟨2, 1, .ro⟩, ⟨3, 1, .ro⟩, ⟨4, 1, .ro⟩]⟩]

/-- The VXE_ registers. -/
def regsVxe : List RegRow := [
  ⟨"VXE_EXC", 0x88000, 0x8, 16, 0, 0, 32, 0x0, [⟨0, 1, .w1c⟩, ⟨1, 1, .w1c⟩, ⟨2, 1, .w1c⟩, ⟨3, 1, .w1c⟩, ⟨4, 1, .w1c⟩]⟩]

/-- The RNE_ registers. -/
def regsRne : List RegRow := [
  ⟨"RNE_MODTAB", 0x90000, 0x200, 16, 8, 64, 64, 0x0, [⟨0, 32, .ro⟩, ⟨32, 6, .ro⟩, ⟨38, 5, .ro⟩, ⟨63, 1, .ro⟩]⟩,
  ⟨"RNE_EVENTS", 0x92000, 0x8, 16, 0, 0, 64, 0x0, [⟨0, 32, .rc⟩, ⟨32, 16, .rc⟩]⟩,
  ⟨"RNE_FIRST", 0x92080, 0x0, 0, 0, 0, 64, 0x0, [⟨0, 13, .ro⟩, ⟨13, 2, .ro⟩, ⟨15, 32, .ro⟩, ⟨63, 1, .w1c⟩]⟩]

/-- The HBM_ registers. -/
def regsHbm : List RegRow := [
  ⟨"HBM_CLASS", 0xa0000, 0x0, 0, 0, 0, 32, 0x1, [⟨0, 1, .ro⟩]⟩,
  ⟨"HBM_STACK", 0xa0100, 0x20, 8, 0, 0, 64, 0x100, [⟨0, 8, .ro⟩, ⟨8, 1, .ro⟩, ⟨9, 1, .ro⟩, ⟨10, 1, .ro⟩, ⟨32, 32, .rc⟩]⟩,
  ⟨"HBM_ECC", 0xa0108, 0x20, 8, 0, 0, 64, 0x0, [⟨0, 32, .rc⟩, ⟨32, 16, .rc⟩, ⟨48, 8, .rc⟩, ⟨56, 8, .rc⟩]⟩,
  ⟨"HBM_ECC_FIRST", 0xa0110, 0x20, 8, 0, 0, 64, 0x0, [⟨0, 33, .ro⟩, ⟨33, 2, .ro⟩, ⟨63, 1, .w1c⟩]⟩]

/-- The FLU_ registers. -/
def regsFlu : List RegRow := [
  ⟨"FLU_ENGINE", 0xa8000, 0x10, 16, 0, 0, 64, 0x0, [⟨0, 1, .ro⟩, ⟨1, 5, .ro⟩, ⟨32, 32, .rc⟩]⟩]

/-- The CAN_ registers. -/
def regsCan : List RegRow := [
  ⟨"CAN_ROUTERS", 0xb0000, 0x0, 0, 0, 0, 32, 0x0, [⟨0, 9, .ro⟩, ⟨9, 8, .ro⟩]⟩,
  ⟨"CAN_WET", 0xb0008, 0x0, 0, 0, 0, 64, 0x0, [⟨0, 4, .ro⟩, ⟨4, 8, .ro⟩, ⟨12, 32, .ro⟩, ⟨63, 1, .w1c⟩]⟩,
  ⟨"CAN_BRIDGE", 0xb0010, 0x0, 0, 0, 0, 64, 0x0, [⟨0, 32, .rc⟩, ⟨32, 32, .rc⟩]⟩]

/-- The AQD_ registers. -/
def regsAqd : List RegRow := [
  ⟨"AQD_CHIP", 0xb8000, 0x0, 0, 0, 0, 32, 0x6f000, [⟨0, 9, .rw⟩, ⟨12, 4, .ro⟩, ⟨16, 4, .ro⟩]⟩,
  ⟨"AQD_VL_LIMIT", 0xb8004, 0x0, 0, 0, 0, 32, 0xc, [⟨0, 16, .rw⟩]⟩,
  ⟨"AQD_ASYM", 0xb8008, 0x0, 0, 0, 0, 32, 0x4, [⟨0, 16, .rw⟩]⟩,
  ⟨"AQD_PORT_CTL", 0xb8100, 0x100, 12, 0, 0, 32, 0x0, [⟨0, 1, .rw⟩, ⟨1, 1, .wo⟩]⟩,
  ⟨"AQD_PORT_STATE", 0xb8104, 0x100, 12, 0, 0, 32, 0x0, [⟨0, 3, .ro⟩, ⟨8, 8, .ro⟩, ⟨16, 1, .w1c⟩, ⟨17, 1, .ro⟩, ⟨18, 1, .ro⟩]⟩,
  ⟨"AQD_PEER", 0xb8108, 0x100, 12, 0, 0, 32, 0x0, [⟨0, 9, .ro⟩, ⟨9, 4, .ro⟩, ⟨13, 3, .ro⟩]⟩,
  ⟨"AQD_RANGE", 0xb8110, 0x100, 12, 0, 0, 64, 0x0, [⟨0, 32, .ro⟩, ⟨32, 16, .ro⟩]⟩,
  ⟨"AQD_FEC", 0xb8118, 0x100, 12, 0, 0, 64, 0x0, [⟨0, 32, .rc⟩, ⟨32, 16, .rc⟩]⟩,
  ⟨"AQD_STRAY", 0xb8120, 0x100, 12, 0, 0, 32, 0x0, [⟨0, 16, .rc⟩, ⟨16, 16, .rc⟩]⟩]

/-- The ING_ registers. -/
def regsIng : List RegRow := [
  ⟨"ING_ENC", 0xc0000, 0x0, 0, 0, 0, 64, 0x0, [⟨0, 1, .ro⟩, ⟨1, 5, .ro⟩, ⟨32, 32, .rc⟩]⟩,
  ⟨"ING_PORT_STATE", 0xc0100, 0x80, 8, 0, 0, 32, 0xf8, [⟨0, 3, .ro⟩, ⟨3, 5, .ro⟩, ⟨8, 1, .ro⟩, ⟨9, 1, .w1c⟩, ⟨10, 3, .ro⟩, ⟨16, 8, .ro⟩, ⟨24, 4, .ro⟩]⟩,
  ⟨"ING_FRAMES", 0xc0108, 0x80, 8, 0, 0, 64, 0x0, [⟨0, 32, .rc⟩, ⟨32, 32, .rc⟩]⟩,
  ⟨"ING_ERRORS", 0xc0110, 0x80, 8, 0, 0, 64, 0x0, [⟨0, 16, .rc⟩, ⟨16, 16, .rc⟩, ⟨32, 16, .rc⟩, ⟨48, 16, .rc⟩]⟩,
  ⟨"ING_KEY", 0xc0120, 0x80, 8, 8, 2, 64, 0x0, [⟨0, 12, .ro⟩, ⟨12, 5, .ro⟩, ⟨17, 4, .ro⟩, ⟨21, 6, .ro⟩, ⟨27, 8, .ro⟩, ⟨63, 1, .ro⟩]⟩]

/-- The VIS_ registers. -/
def regsVis : List RegRow := [
  ⟨"VIS_STATE", 0xd0000, 0x40, 4, 0, 0, 32, 0xf8, [⟨0, 2, .ro⟩, ⟨2, 1, .ro⟩, ⟨3, 5, .ro⟩, ⟨8, 4, .ro⟩, ⟨12, 4, .ro⟩, ⟨16, 10, .ro⟩, ⟨26, 1, .ro⟩]⟩,
  ⟨"VIS_REFINE_THRESH", 0xd0004, 0x40, 4, 0, 0, 32, 0x80, [⟨0, 8, .rw⟩]⟩,
  ⟨"VIS_COUNTS", 0xd0008, 0x40, 4, 0, 0, 64, 0x0, [⟨0, 32, .rc⟩, ⟨32, 32, .rc⟩]⟩,
  ⟨"VIS_LAST", 0xd0010, 0x40, 4, 0, 0, 64, 0x0, [⟨0, 32, .ro⟩, ⟨32, 18, .ro⟩]⟩]

/-- The BSN_ registers. -/
def regsBsn : List RegRow := [
  ⟨"BSN_STATE", 0xd8000, 0x40, 2, 0, 0, 32, 0x1f0, [⟨0, 2, .ro⟩, ⟨2, 1, .ro⟩, ⟨3, 1, .ro⟩, ⟨4, 5, .ro⟩, ⟨9, 1, .ro⟩]⟩,
  ⟨"BSN_SWEEP", 0xd8008, 0x40, 2, 0, 0, 64, 0x0, [⟨0, 32, .ro⟩, ⟨32, 32, .ro⟩]⟩,
  ⟨"BSN_ENERGY", 0xd8010, 0x40, 2, 0, 0, 64, 0x0, [⟨0, 64, .ro⟩]⟩,
  ⟨"BSN_RUNS", 0xd8018, 0x40, 2, 0, 0, 32, 0x0, [⟨0, 32, .rc⟩]⟩]

/-- The GNS_ registers. -/
def regsGns : List RegRow := [
  ⟨"GNS_STATE", 0xe0000, 0x0, 0, 0, 0, 32, 0x0, [⟨0, 1, .ro⟩, ⟨1, 1, .ro⟩, ⟨2, 1, .ro⟩, ⟨3, 1, .w1c⟩, ⟨4, 1, .ro⟩, ⟨5, 1, .ro⟩, ⟨6, 6, .ro⟩, ⟨12, 7, .ro⟩]⟩,
  ⟨"GNS_SOLUTION", 0xe0008, 0x0, 0, 0, 0, 64, 0x0, [⟨0, 32, .ro⟩, ⟨32, 16, .ro⟩]⟩,
  ⟨"GNS_POS_XY", 0xe0010, 0x0, 0, 0, 0, 64, 0x0, [⟨0, 32, .ro⟩, ⟨32, 32, .ro⟩]⟩,
  ⟨"GNS_POS_Z", 0xe0018, 0x0, 0, 0, 0, 32, 0x0, [⟨0, 32, .ro⟩]⟩,
  ⟨"GNS_UTC", 0xe0020, 0x0, 0, 0, 0, 64, 0x0, [⟨0, 8, .ro⟩, ⟨8, 8, .ro⟩, ⟨16, 16, .ro⟩, ⟨32, 3, .ro⟩, ⟨63, 1, .ro⟩]⟩,
  ⟨"GNS_CLK", 0xe0028, 0x0, 0, 0, 0, 32, 0x0, [⟨0, 27, .ro⟩]⟩,
  ⟨"GNS_COUNTS", 0xe0030, 0x0, 0, 0, 0, 64, 0x0, [⟨0, 16, .rc⟩, ⟨16, 16, .rc⟩, ⟨32, 16, .rc⟩, ⟨48, 16, .rc⟩]⟩,
  ⟨"GNS_CHAN", 0xe0100, 0x8, 64, 0, 0, 64, 0x0, [⟨0, 3, .ro⟩, ⟨3, 3, .ro⟩, ⟨6, 8, .ro⟩, ⟨14, 8, .ro⟩, ⟨22, 1, .ro⟩, ⟨23, 1, .ro⟩, ⟨24, 1, .ro⟩]⟩]

/-- The BNE_ registers. -/
def regsBne : List RegRow := [
  ⟨"BNE_STATE", 0xf0000, 0x0, 0, 0, 0, 32, 0x80001e0, [⟨0, 1, .ro⟩, ⟨4, 5, .ro⟩, ⟨14, 14, .ro⟩]⟩,
  ⟨"BNE_FAULTS", 0xf0008, 0x0, 0, 0, 0, 64, 0x0, [⟨0, 16, .rs⟩, ⟨16, 8, .rs⟩]⟩,
  ⟨"BNE_SLOT", 0xf0100, 0x4, 256, 0, 0, 32, 0x0, [⟨0, 1, .ro⟩, ⟨1, 5, .ro⟩, ⟨6, 8, .ro⟩]⟩]

/-- The SEC_ registers. -/
def regsSec : List RegRow := [
  ⟨"SEC_SERIAL", 0xf8000, 0x0, 0, 0, 0, 64, 0x0, [⟨0, 64, .ro⟩]⟩,
  ⟨"SEC_ID_PUB", 0xf8010, 0x8, 12, 0, 0, 64, 0x0, [⟨0, 64, .ro⟩]⟩,
  ⟨"SEC_WELL", 0xf8080, 0x0, 0, 0, 0, 32, 0x0, [⟨0, 1, .ro⟩, ⟨1, 1, .rs⟩, ⟨16, 16, .rc⟩]⟩,
  ⟨"SEC_SESSION", 0xf8100, 0x8, 16, 0, 0, 64, 0x0, [⟨0, 48, .ro⟩, ⟨48, 1, .ro⟩]⟩]

/-- The SLU_ registers. -/
def regsSlu : List RegRow := [
  ⟨"SLU_STATUS", 0x100000, 0x0, 0, 0, 0, 32, 0x0, [⟨0, 1, .ro⟩, ⟨1, 8, .ro⟩, ⟨9, 1, .w1c⟩, ⟨10, 1, .ro⟩]⟩,
  ⟨"SLU_LIMITS", 0x100004, 0x0, 0, 0, 0, 32, 0x3, [⟨0, 8, .rw⟩]⟩,
  ⟨"SLU_WALKER", 0x100008, 0x0, 0, 0, 0, 32, 0x10000, [⟨0, 24, .rw⟩, ⟨24, 1, .w1c⟩]⟩,
  ⟨"SLU_LOG", 0x100010, 0x0, 0, 0, 0, 64, 0x0, [⟨0, 32, .ro⟩, ⟨32, 32, .rc⟩]⟩,
  ⟨"SLU_TILE_CLOSED", 0x100020, 0x8, 3, 0, 0, 64, 0x0, [⟨0, 64, .ro⟩]⟩,
  ⟨"SLU_ALLOT", 0x100100, 0x20, 16, 0, 0, 64, 0x0, [⟨0, 2, .ro⟩, ⟨2, 1, .ro⟩, ⟨8, 8, .ro⟩, ⟨32, 32, .rc⟩]⟩,
  ⟨"SLU_LEDGER", 0x100108, 0x20, 16, 0, 0, 64, 0x0, [⟨0, 32, .ro⟩, ⟨32, 32, .rw⟩]⟩,
  ⟨"SLU_LEDGER_CFG", 0x100110, 0x20, 16, 0, 0, 32, 0x0, [⟨0, 11, .rw⟩]⟩,
  ⟨"SLU_LEDGER_COUNTS", 0x100118, 0x20, 16, 0, 0, 64, 0x0, [⟨0, 32, .rc⟩, ⟨32, 32, .rc⟩]⟩]

/-- The PWR_ registers. -/
def regsPwr : List RegRow := [
  ⟨"PWR_STATUS", 0x110000, 0x0, 0, 0, 0, 32, 0xf00, [⟨0, 3, .ro⟩, ⟨3, 3, .rs⟩, ⟨6, 1, .ro⟩, ⟨7, 1, .ro⟩, ⟨8, 4, .ro⟩, ⟨12, 1, .ro⟩]⟩,
  ⟨"PWR_RESET", 0x110004, 0x0, 0, 0, 0, 32, 0x0, [⟨0, 8, .wo⟩]⟩,
  ⟨"PWR_ON_MAP", 0x110010, 0x8, 4, 0, 0, 64, 0x0, [⟨0, 64, .ro⟩]⟩,
  ⟨"PWR_WORKING", 0x110030, 0x8, 5, 0, 0, 64, 0x0, [⟨0, 64, .ro⟩]⟩,
  ⟨"PWR_FUSE", 0x110058, 0x0, 0, 0, 0, 32, 0x0, [⟨0, 8, .ro⟩, ⟨8, 8, .ro⟩, ⟨16, 1, .rs⟩]⟩,
  ⟨"PWR_DIE_TEMP", 0x110060, 0x0, 0, 0, 0, 32, 0x0, [⟨0, 8, .ro⟩, ⟨8, 8, .ro⟩, ⟨16, 8, .ro⟩]⟩,
  ⟨"PWR_TRAIN", 0x110080, 0x8, 8, 0, 0, 64, 0x0, [⟨0, 16, .ro⟩, ⟨16, 1, .ro⟩, ⟨17, 1, .ro⟩]⟩]

/-- The GPIO_ registers. -/
def regsGpio : List RegRow := [
  ⟨"GPIO_IN", 0x120000, 0x0, 0, 0, 0, 64, 0x0, [⟨0, 48, .ro⟩]⟩,
  ⟨"GPIO_OUT", 0x120008, 0x0, 0, 0, 0, 64, 0x0, [⟨0, 48, .rw⟩]⟩,
  ⟨"GPIO_CONFLICT", 0x120010, 0x0, 0, 0, 0, 32, 0x0, [⟨0, 4, .w1c⟩]⟩,
  ⟨"GPIO_STROBE", 0x120020, 0x8, 2, 0, 0, 64, 0x0, [⟨0, 32, .rw⟩, ⟨32, 16, .rw⟩, ⟨48, 1, .rw⟩]⟩,
  ⟨"GPIO_STAMP", 0x120040, 0x8, 4, 0, 0, 64, 0x0, [⟨0, 32, .ro⟩, ⟨32, 16, .ro⟩, ⟨62, 1, .w1c⟩, ⟨63, 1, .w1c⟩]⟩,
  ⟨"GPIO_STATUS", 0x120100, 0x4, 48, 0, 0, 32, 0x100, [⟨0, 3, .ro⟩, ⟨3, 1, .ro⟩, ⟨4, 5, .ro⟩]⟩]

/-- The MGT_ registers. -/
def regsMgt : List RegRow := [
  ⟨"MGT_RETRY", 0x128000, 0x0, 0, 0, 0, 32, 0x3, [⟨0, 4, .rw⟩]⟩,
  ⟨"MGT_I2C_CFG", 0x128004, 0x0, 0, 0, 0, 32, 0x0, [⟨0, 2, .rw⟩, ⟨16, 16, .rc⟩]⟩,
  ⟨"MGT_CCI", 0x128010, 0x4, 4, 0, 0, 32, 0xf8, [⟨0, 1, .rw⟩, ⟨1, 2, .rw⟩, ⟨3, 5, .rw⟩, ⟨8, 1, .ro⟩]⟩,
  ⟨"MGT_SMB", 0x128020, 0x0, 0, 0, 0, 32, 0x0, [⟨0, 7, .ro⟩, ⟨8, 16, .rc⟩]⟩,
  ⟨"MGT_JTAG", 0x128028, 0x0, 0, 0, 0, 32, 0x0, [⟨0, 1, .ro⟩, ⟨1, 1, .w1c⟩]⟩]

/-- The GAU_ registers. -/
def regsGau : List RegRow := [
  ⟨"GAU_LAST", 0x12c000, 0x4, 8, 0, 0, 32, 0x0, [⟨0, 12, .ro⟩, ⟨12, 16, .ro⟩]⟩]

/-- Every register of BAR0. -/
def regTable : List RegRow :=
  regsWck ++ regsDr ++ regsAlt ++ regsTil ++ regsSpm ++ regsMxe ++ regsVxe ++ regsRne ++ regsHbm ++ regsFlu ++ regsCan ++ regsAqd ++ regsIng ++ regsVis ++ regsBsn ++ regsGns ++ regsBne ++ regsSec ++ regsSlu ++ regsPwr ++ regsGpio ++ regsMgt ++ regsGau

/-- A field of a register at a BAR0 offset: what a rule names as REGISTER.FIELD. -/
structure Fld where
  reg : Nat
  lo : Nat
  w : Nat
  deriving DecidableEq, Repr

/-! WCK_TURN_CYCLES (spec/02_water_clock.md) -/
def F.WCK_TURN_CYCLES_COUNT : Fld := ⟨0x20000, 0, 32⟩
/-! WCK_TURN_RATE (spec/02_water_clock.md) -/
def F.WCK_TURN_RATE_RATE : Fld := ⟨0x20004, 0, 11⟩
/-! WCK_TURN_NUMBER (spec/02_water_clock.md) -/
def F.WCK_TURN_NUMBER_TURN : Fld := ⟨0x20008, 0, 48⟩
/-! WCK_CYCLE_OFFSET (spec/02_water_clock.md) -/
def F.WCK_CYCLE_OFFSET_OFFSET : Fld := ⟨0x20010, 0, 32⟩
/-! WCK_TIME (spec/02_water_clock.md) -/
def F.WCK_TIME_NS : Fld := ⟨0x20018, 0, 30⟩
def F.WCK_TIME_SEC : Fld := ⟨0x20018, 32, 32⟩
/-! WCK_STATE (spec/02_water_clock.md) -/
def F.WCK_STATE_STATE : Fld := ⟨0x20020, 0, 3⟩
def F.WCK_STATE_SOURCE : Fld := ⟨0x20020, 3, 3⟩
def F.WCK_STATE_STEP_PENDING : Fld := ⟨0x20020, 6, 1⟩
def F.WCK_STATE_SRC_DISAGREE : Fld := ⟨0x20020, 7, 1⟩
def F.WCK_STATE_DOUBT_SEEN : Fld := ⟨0x20020, 8, 1⟩
def F.WCK_STATE_MARGIN0 : Fld := ⟨0x20020, 9, 1⟩
def F.WCK_STATE_ON_LAGOON : Fld := ⟨0x20020, 10, 1⟩
def F.WCK_STATE_FALLOW_EXT : Fld := ⟨0x20020, 11, 12⟩
/-! WCK_SRC_STATUS (spec/02_water_clock.md) -/
def F.WCK_SRC_STATUS_GOOD : Fld := ⟨0x20024, 0, 4⟩
def F.WCK_SRC_STATUS_ENABLED : Fld := ⟨0x20024, 4, 4⟩
def F.WCK_SRC_STATUS_MARGIN0 : Fld := ⟨0x20024, 8, 1⟩
/-! WCK_REJECTS (spec/02_water_clock.md) -/
def F.WCK_REJECTS_GNSS : Fld := ⟨0x20028, 0, 8⟩
def F.WCK_REJECTS_PPS : Fld := ⟨0x20028, 8, 8⟩
def F.WCK_REJECTS_MARKER : Fld := ⟨0x20028, 16, 8⟩
/-! WCK_PHASE (spec/02_water_clock.md) -/
def F.WCK_PHASE_PHASE_ERR : Fld := ⟨0x20030, 0, 32⟩
def F.WCK_PHASE_FREQ_OFS : Fld := ⟨0x20030, 32, 32⟩
/-! WCK_HOLDOVER (spec/02_water_clock.md) -/
def F.WCK_HOLDOVER_ELAPSED : Fld := ⟨0x20038, 0, 17⟩
def F.WCK_HOLDOVER_TERR_EST : Fld := ⟨0x20038, 32, 32⟩
/-! WCK_HOLDOVER_LIMIT (spec/02_water_clock.md) -/
def F.WCK_HOLDOVER_LIMIT_SECONDS : Fld := ⟨0x20040, 0, 17⟩
/-! WCK_TERR_LIMIT (spec/02_water_clock.md) -/
def F.WCK_TERR_LIMIT_NS : Fld := ⟨0x20044, 0, 20⟩
/-! WCK_JUMP_LIMIT (spec/02_water_clock.md) -/
def F.WCK_JUMP_LIMIT_NS : Fld := ⟨0x20048, 0, 20⟩
/-! WCK_SLEW (spec/02_water_clock.md) -/
def F.WCK_SLEW_MAX_PPB : Fld := ⟨0x2004c, 0, 14⟩
/-! WCK_OSC_MODEL (spec/02_water_clock.md) -/
def F.WCK_OSC_MODEL_AGEING : Fld := ⟨0x20050, 0, 32⟩
def F.WCK_OSC_MODEL_TEMP : Fld := ⟨0x20050, 32, 32⟩
/-! WCK_PIN_FILTER (spec/02_water_clock.md) -/
def F.WCK_PIN_FILTER_PPS_GLITCH : Fld := ⟨0x20058, 0, 8⟩
/-! WCK_ANCHOR_SEC (spec/02_water_clock.md) -/
def F.WCK_ANCHOR_SEC_SEC : Fld := ⟨0x20060, 0, 32⟩
/-! WCK_ANCHOR_TURN (spec/02_water_clock.md) -/
def F.WCK_ANCHOR_TURN_TURN : Fld := ⟨0x20068, 0, 48⟩
/-! WCK_STEP (spec/02_water_clock.md) -/
def F.WCK_STEP_DELTA : Fld := ⟨0x20070, 0, 48⟩
def F.WCK_STEP_VALID : Fld := ⟨0x20070, 63, 1⟩
/-! DR_CRC_LIMIT (spec/04_orders_and_tallies.md) -/
def F.DR_CRC_LIMIT_COUNT : Fld := ⟨0x30000, 0, 8⟩
/-! DR_DEADLINE_DEFAULT (spec/04_orders_and_tallies.md) -/
def F.DR_DEADLINE_DEFAULT_TURNS : Fld := ⟨0x30004, 0, 16⟩
/-! DR_INFLIGHT (spec/04_orders_and_tallies.md) -/
def F.DR_INFLIGHT_ORDERS : Fld := ⟨0x30008, 0, 10⟩
/-! DR_COUNTS (spec/04_orders_and_tallies.md) -/
def F.DR_COUNTS_GRANTS : Fld := ⟨0x30010, 0, 32⟩
def F.DR_COUNTS_CANCELLED : Fld := ⟨0x30010, 32, 16⟩
def F.DR_COUNTS_TOO_LATE : Fld := ⟨0x30010, 48, 16⟩
/-! DR_QBASE (spec/04_orders_and_tallies.md) -/
def F.DR_QBASE_LOC (i : Nat) : Fld := ⟨0x31000 + 0x40 * i, 0, 1⟩
def F.DR_QBASE_BASE (i : Nat) : Fld := ⟨0x31000 + 0x40 * i, 6, 58⟩
/-! DR_QSIZE (spec/04_orders_and_tallies.md) -/
def F.DR_QSIZE_ORDER_LOG2 (i : Nat) : Fld := ⟨0x31008 + 0x40 * i, 0, 5⟩
def F.DR_QSIZE_TALLY_LOG2 (i : Nat) : Fld := ⟨0x31008 + 0x40 * i, 8, 4⟩
def F.DR_QSIZE_VECTOR (i : Nat) : Fld := ⟨0x31008 + 0x40 * i, 16, 11⟩
/-! DR_TBASE (spec/04_orders_and_tallies.md) -/
def F.DR_TBASE_BASE (i : Nat) : Fld := ⟨0x31010 + 0x40 * i, 6, 58⟩
/-! DR_QPTR (spec/04_orders_and_tallies.md) -/
def F.DR_QPTR_HEAD (i : Nat) : Fld := ⟨0x31018 + 0x40 * i, 0, 32⟩
def F.DR_QPTR_TAIL (i : Nat) : Fld := ⟨0x31018 + 0x40 * i, 32, 32⟩
/-! DR_QCTL (spec/04_orders_and_tallies.md) -/
def F.DR_QCTL_ENABLE (i : Nat) : Fld := ⟨0x31020 + 0x40 * i, 0, 1⟩
def F.DR_QCTL_RESUME (i : Nat) : Fld := ⟨0x31020 + 0x40 * i, 1, 1⟩
/-! DR_QSTAT (spec/04_orders_and_tallies.md) -/
def F.DR_QSTAT_STATE (i : Nat) : Fld := ⟨0x31024 + 0x40 * i, 0, 2⟩
def F.DR_QSTAT_HALT_CAUSE (i : Nat) : Fld := ⟨0x31024 + 0x40 * i, 8, 8⟩
def F.DR_QSTAT_CRC_BUCKET (i : Nat) : Fld := ⟨0x31024 + 0x40 * i, 16, 8⟩
def F.DR_QSTAT_MARKS (i : Nat) : Fld := ⟨0x31024 + 0x40 * i, 24, 4⟩
/-! DR_QSEQ (spec/04_orders_and_tallies.md) -/
def F.DR_QSEQ_EXPECT (i : Nat) : Fld := ⟨0x31028 + 0x40 * i, 0, 32⟩
/-! DR_QLOAD (spec/04_orders_and_tallies.md) -/
def F.DR_QLOAD_WEIGHT (i : Nat) : Fld := ⟨0x3102c + 0x40 * i, 0, 8⟩
def F.DR_QLOAD_INFLIGHT (i : Nat) : Fld := ⟨0x3102c + 0x40 * i, 8, 6⟩
def F.DR_QLOAD_HELD (i : Nat) : Fld := ⟨0x3102c + 0x40 * i, 16, 9⟩
/-! ALT_EPOCH (spec/05_allotments_and_rights.md) -/
def F.ALT_EPOCH_EPOCH : Fld := ⟨0x40000, 0, 32⟩
/-! ALT_PF_WINDOW (spec/05_allotments_and_rights.md) -/
def F.ALT_PF_WINDOW_ALLOT : Fld := ⟨0x40008, 0, 5⟩
/-! ALT_SCRUB (spec/05_allotments_and_rights.md) -/
def F.ALT_SCRUB_PENDING : Fld := ⟨0x40010, 0, 18⟩
def F.ALT_SCRUB_DONE : Fld := ⟨0x40010, 32, 32⟩
/-! ALT_STATE (spec/05_allotments_and_rights.md) -/
def F.ALT_STATE_STATE (i : Nat) : Fld := ⟨0x40100 + 0x100 * i, 0, 3⟩
def F.ALT_STATE_SEALED (i : Nat) : Fld := ⟨0x40100 + 0x100 * i, 3, 1⟩
def F.ALT_STATE_PARTY (i : Nat) : Fld := ⟨0x40100 + 0x100 * i, 4, 4⟩
def F.ALT_STATE_FUNCTION (i : Nat) : Fld := ⟨0x40100 + 0x100 * i, 8, 5⟩
def F.ALT_STATE_BUSY (i : Nat) : Fld := ⟨0x40100 + 0x100 * i, 13, 1⟩
def F.ALT_STATE_CHIP_SLUICED (i : Nat) : Fld := ⟨0x40100 + 0x100 * i, 14, 1⟩
def F.ALT_STATE_TILES (i : Nat) : Fld := ⟨0x40100 + 0x100 * i, 16, 8⟩
/-! ALT_TILE_MAP (spec/05_allotments_and_rights.md) -/
def F.ALT_TILE_MAP_MAP (i : Nat) (k : Nat) : Fld := ⟨0x40108 + 0x100 * i + 8 * k, 0, 64⟩
/-! ALT_RIGHTS (spec/05_allotments_and_rights.md) -/
def F.ALT_RIGHTS_RANGES (i : Nat) : Fld := ⟨0x40120 + 0x100 * i, 0, 9⟩
def F.ALT_RIGHTS_STAGED (i : Nat) : Fld := ⟨0x40120 + 0x100 * i, 9, 1⟩
def F.ALT_RIGHTS_WAITING (i : Nat) : Fld := ⟨0x40120 + 0x100 * i, 10, 1⟩
/-! ALT_TURNOUT (spec/05_allotments_and_rights.md) -/
def F.ALT_TURNOUT_LEVELS (i : Nat) : Fld := ⟨0x40128 + 0x100 * i, 0, 2⟩
def F.ALT_TURNOUT_ROOT (i : Nat) : Fld := ⟨0x40128 + 0x100 * i, 12, 36⟩
/-! ALT_WALK_FAULT (spec/05_allotments_and_rights.md) -/
def F.ALT_WALK_FAULT_ADDR (i : Nat) : Fld := ⟨0x40130 + 0x100 * i, 0, 48⟩
def F.ALT_WALK_FAULT_CAUSE (i : Nat) : Fld := ⟨0x40130 + 0x100 * i, 48, 8⟩
def F.ALT_WALK_FAULT_SOURCE (i : Nat) : Fld := ⟨0x40130 + 0x100 * i, 56, 2⟩
def F.ALT_WALK_FAULT_VALID (i : Nat) : Fld := ⟨0x40130 + 0x100 * i, 63, 1⟩
/-! ALT_BAR2_COUNTS (spec/05_allotments_and_rights.md) -/
def F.ALT_BAR2_COUNTS_SEALED (i : Nat) : Fld := ⟨0x40138 + 0x100 * i, 0, 32⟩
def F.ALT_BAR2_COUNTS_FAULTS (i : Nat) : Fld := ⟨0x40138 + 0x100 * i, 32, 32⟩
/-! TIL_ENABLE_MAP (spec/06_core_and_native_commands.md) -/
def F.TIL_ENABLE_MAP_MAP (i : Nat) : Fld := ⟨0x50000 + 0x8 * i, 0, 64⟩
/-! TIL_GATED_MAP (spec/06_core_and_native_commands.md) -/
def F.TIL_GATED_MAP_MAP (i : Nat) : Fld := ⟨0x50018 + 0x8 * i, 0, 64⟩
/-! TIL_STORE_ECC (spec/06_core_and_native_commands.md) -/
def F.TIL_STORE_ECC_CORRECTED : Fld := ⟨0x50030, 0, 32⟩
def F.TIL_STORE_ECC_CORE : Fld := ⟨0x50030, 32, 13⟩
def F.TIL_STORE_ECC_ENTRY : Fld := ⟨0x50030, 45, 11⟩
def F.TIL_STORE_ECC_BANK : Fld := ⟨0x50030, 56, 1⟩
def F.TIL_STORE_ECC_PARITY : Fld := ⟨0x50030, 57, 1⟩
def F.TIL_STORE_ECC_VALID : Fld := ⟨0x50030, 63, 1⟩
/-! TIL_CORE_STATE (spec/06_core_and_native_commands.md) -/
def F.TIL_CORE_STATE_ACTIVE_BANK (i : Nat) : Fld := ⟨0x51000 + 0x10 * i, 0, 1⟩
def F.TIL_CORE_STATE_STANDBY_VALID (i : Nat) : Fld := ⟨0x51000 + 0x10 * i, 1, 1⟩
def F.TIL_CORE_STATE_RUNNING (i : Nat) : Fld := ⟨0x51000 + 0x10 * i, 2, 1⟩
def F.TIL_CORE_STATE_LOOP_DEPTH (i : Nat) : Fld := ⟨0x51000 + 0x10 * i, 3, 3⟩
def F.TIL_CORE_STATE_SLUICED (i : Nat) : Fld := ⟨0x51000 + 0x10 * i, 6, 1⟩
def F.TIL_CORE_STATE_CURSOR (i : Nat) : Fld := ⟨0x51000 + 0x10 * i, 8, 11⟩
def F.TIL_CORE_STATE_WINDOW (i : Nat) : Fld := ⟨0x51000 + 0x10 * i, 19, 4⟩
def F.TIL_CORE_STATE_LAST_BREACH (i : Nat) : Fld := ⟨0x51000 + 0x10 * i, 24, 8⟩
def F.TIL_CORE_STATE_ISSUED (i : Nat) : Fld := ⟨0x51000 + 0x10 * i, 32, 32⟩
/-! SPM_ECC_COUNTS (spec/08_scratchpad_and_layout.md) -/
def F.SPM_ECC_COUNTS_CORRECTED : Fld := ⟨0x70000, 0, 32⟩
def F.SPM_ECC_COUNTS_UNCORRECTABLE : Fld := ⟨0x70000, 32, 16⟩
def F.SPM_ECC_COUNTS_REFUSED : Fld := ⟨0x70000, 48, 16⟩
/-! SPM_ECC_FIRST (spec/08_scratchpad_and_layout.md) -/
def F.SPM_ECC_FIRST_CORE : Fld := ⟨0x70008, 0, 13⟩
def F.SPM_ECC_FIRST_LINE : Fld := ⟨0x70008, 13, 10⟩
def F.SPM_ECC_FIRST_BANK : Fld := ⟨0x70008, 23, 5⟩
def F.SPM_ECC_FIRST_KIND : Fld := ⟨0x70008, 28, 2⟩
def F.SPM_ECC_FIRST_ORIGIN : Fld := ⟨0x70008, 30, 32⟩
def F.SPM_ECC_FIRST_VALID : Fld := ⟨0x70008, 63, 1⟩
/-! SPM_SCRUB (spec/08_scratchpad_and_layout.md) -/
def F.SPM_SCRUB_REWRITTEN : Fld := ⟨0x70010, 0, 16⟩
def F.SPM_SCRUB_OVERFLOW : Fld := ⟨0x70010, 16, 16⟩
/-! SPM_CLASH (spec/08_scratchpad_and_layout.md) -/
def F.SPM_CLASH_CORE : Fld := ⟨0x70018, 0, 13⟩
def F.SPM_CLASH_BANK : Fld := ⟨0x70018, 13, 5⟩
def F.SPM_CLASH_QUARTER : Fld := ⟨0x70018, 18, 2⟩
def F.SPM_CLASH_PORT : Fld := ⟨0x70018, 20, 3⟩
def F.SPM_CLASH_ORIGIN : Fld := ⟨0x70018, 23, 32⟩
def F.SPM_CLASH_VALID : Fld := ⟨0x70018, 63, 1⟩
/-! SPM_MERGE_PEAK (spec/08_scratchpad_and_layout.md) -/
def F.SPM_MERGE_PEAK_LINES : Fld := ⟨0x70020, 0, 7⟩
def F.SPM_MERGE_PEAK_CORE : Fld := ⟨0x70020, 7, 13⟩
/-! MXE_ACC (spec/09_matrix_vector_formats.md) -/
def F.MXE_ACC_DRAIN (i : Nat) : Fld := ⟨0x80000 + 0x4 * i, 0, 1⟩
def F.MXE_ACC_FMT0 (i : Nat) : Fld := ⟨0x80000 + 0x4 * i, 1, 1⟩
def F.MXE_ACC_FMT1 (i : Nat) : Fld := ⟨0x80000 + 0x4 * i, 2, 1⟩
def F.MXE_ACC_POISON0 (i : Nat) : Fld := ⟨0x80000 + 0x4 * i, 3, 1⟩
def F.MXE_ACC_POISON1 (i : Nat) : Fld := ⟨0x80000 + 0x4 * i, 4, 1⟩
/-! VXE_EXC (spec/09_matrix_vector_formats.md) -/
def F.VXE_EXC_INVALID (i : Nat) : Fld := ⟨0x88000 + 0x8 * i, 0, 1⟩
def F.VXE_EXC_OVERFLOW (i : Nat) : Fld := ⟨0x88000 + 0x8 * i, 1, 1⟩
def F.VXE_EXC_UNDERFLOW (i : Nat) : Fld := ⟨0x88000 + 0x8 * i, 2, 1⟩
def F.VXE_EXC_SATURATED (i : Nat) : Fld := ⟨0x88000 + 0x8 * i, 3, 1⟩
def F.VXE_EXC_DIV_ZERO (i : Nat) : Fld := ⟨0x88000 + 0x8 * i, 4, 1⟩
/-! RNE_MODTAB (spec/10_ring_engine.md) -/
def F.RNE_MODTAB_Q (i : Nat) (k : Nat) : Fld := ⟨0x90000 + 0x200 * i + 8 * k, 0, 32⟩
def F.RNE_MODTAB_K (i : Nat) (k : Nat) : Fld := ⟨0x90000 + 0x200 * i + 8 * k, 32, 6⟩
def F.RNE_MODTAB_MAXLOG (i : Nat) (k : Nat) : Fld := ⟨0x90000 + 0x200 * i + 8 * k, 38, 5⟩
def F.RNE_MODTAB_VALID (i : Nat) (k : Nat) : Fld := ⟨0x90000 + 0x200 * i + 8 * k, 63, 1⟩
/-! RNE_EVENTS (spec/10_ring_engine.md) -/
def F.RNE_EVENTS_RANGE (i : Nat) : Fld := ⟨0x92000 + 0x8 * i, 0, 32⟩
def F.RNE_EVENTS_GALOIS (i : Nat) : Fld := ⟨0x92000 + 0x8 * i, 32, 16⟩
/-! RNE_FIRST (spec/10_ring_engine.md) -/
def F.RNE_FIRST_CORE : Fld := ⟨0x92080, 0, 13⟩
def F.RNE_FIRST_KIND : Fld := ⟨0x92080, 13, 2⟩
def F.RNE_FIRST_ORIGIN : Fld := ⟨0x92080, 15, 32⟩
def F.RNE_FIRST_VALID : Fld := ⟨0x92080, 63, 1⟩
/-! HBM_CLASS (spec/12_memory_and_key_flume.md) -/
def F.HBM_CLASS_CLASS : Fld := ⟨0xa0000, 0, 1⟩
/-! HBM_STACK (spec/12_memory_and_key_flume.md) -/
def F.HBM_STACK_TEMP (i : Nat) : Fld := ⟨0xa0100 + 0x20 * i, 0, 8⟩
def F.HBM_STACK_NOTICE_ARMED (i : Nat) : Fld := ⟨0xa0100 + 0x20 * i, 8, 1⟩
def F.HBM_STACK_INSERTING (i : Nat) : Fld := ⟨0xa0100 + 0x20 * i, 9, 1⟩
def F.HBM_STACK_TRAINED (i : Nat) : Fld := ⟨0xa0100 + 0x20 * i, 10, 1⟩
def F.HBM_STACK_INSERTED (i : Nat) : Fld := ⟨0xa0100 + 0x20 * i, 32, 32⟩
/-! HBM_ECC (spec/12_memory_and_key_flume.md) -/
def F.HBM_ECC_CORRECTED (i : Nat) : Fld := ⟨0xa0108 + 0x20 * i, 0, 32⟩
def F.HBM_ECC_UNCORRECTABLE (i : Nat) : Fld := ⟨0xa0108 + 0x20 * i, 32, 16⟩
def F.HBM_ECC_REFUSED (i : Nat) : Fld := ⟨0xa0108 + 0x20 * i, 48, 8⟩
def F.HBM_ECC_OVERFLOW (i : Nat) : Fld := ⟨0xa0108 + 0x20 * i, 56, 8⟩
/-! HBM_ECC_FIRST (spec/12_memory_and_key_flume.md) -/
def F.HBM_ECC_FIRST_BLOCK (i : Nat) : Fld := ⟨0xa0110 + 0x20 * i, 0, 33⟩
def F.HBM_ECC_FIRST_KIND (i : Nat) : Fld := ⟨0xa0110 + 0x20 * i, 33, 2⟩
def F.HBM_ECC_FIRST_VALID (i : Nat) : Fld := ⟨0xa0110 + 0x20 * i, 63, 1⟩
/-! FLU_ENGINE (spec/12_memory_and_key_flume.md) -/
def F.FLU_ENGINE_BUSY (i : Nat) : Fld := ⟨0xa8000 + 0x10 * i, 0, 1⟩
def F.FLU_ENGINE_ALLOT (i : Nat) : Fld := ⟨0xa8000 + 0x10 * i, 1, 5⟩
def F.FLU_ENGINE_LINES (i : Nat) : Fld := ⟨0xa8000 + 0x10 * i, 32, 32⟩
/-! CAN_ROUTERS (spec/13_canals_and_aqueducts.md) -/
def F.CAN_ROUTERS_PEAK : Fld := ⟨0xb0000, 0, 9⟩
def F.CAN_ROUTERS_ROUTER : Fld := ⟨0xb0000, 9, 8⟩
/-! CAN_WET (spec/13_canals_and_aqueducts.md) -/
def F.CAN_WET_ALLOT : Fld := ⟨0xb0008, 0, 4⟩
def F.CAN_WET_ROUTER : Fld := ⟨0xb0008, 4, 8⟩
def F.CAN_WET_RECORD : Fld := ⟨0xb0008, 12, 32⟩
def F.CAN_WET_VALID : Fld := ⟨0xb0008, 63, 1⟩
/-! CAN_BRIDGE (spec/13_canals_and_aqueducts.md) -/
def F.CAN_BRIDGE_NS : Fld := ⟨0xb0010, 0, 32⟩
def F.CAN_BRIDGE_SN : Fld := ⟨0xb0010, 32, 32⟩
/-! AQD_CHIP (spec/13_canals_and_aqueducts.md) -/
def F.AQD_CHIP_ID : Fld := ⟨0xb8000, 0, 9⟩
def F.AQD_CHIP_STRATUM : Fld := ⟨0xb8000, 12, 4⟩
def F.AQD_CHIP_Q_SLOT : Fld := ⟨0xb8000, 16, 4⟩
/-! AQD_VL_LIMIT (spec/13_canals_and_aqueducts.md) -/
def F.AQD_VL_LIMIT_LIMIT : Fld := ⟨0xb8004, 0, 16⟩
/-! AQD_ASYM (spec/13_canals_and_aqueducts.md) -/
def F.AQD_ASYM_ASYM : Fld := ⟨0xb8008, 0, 16⟩
/-! AQD_PORT_CTL (spec/13_canals_and_aqueducts.md) -/
def F.AQD_PORT_CTL_ENABLE (i : Nat) : Fld := ⟨0xb8100 + 0x100 * i, 0, 1⟩
def F.AQD_PORT_CTL_RESTART (i : Nat) : Fld := ⟨0xb8100 + 0x100 * i, 1, 1⟩
/-! AQD_PORT_STATE (spec/13_canals_and_aqueducts.md) -/
def F.AQD_PORT_STATE_STATE (i : Nat) : Fld := ⟨0xb8104 + 0x100 * i, 0, 3⟩
def F.AQD_PORT_STATE_FAULT_CAUSE (i : Nat) : Fld := ⟨0xb8104 + 0x100 * i, 8, 8⟩
def F.AQD_PORT_STATE_MARGIN0 (i : Nat) : Fld := ⟨0xb8104 + 0x100 * i, 16, 1⟩
def F.AQD_PORT_STATE_PEER_SLUICED (i : Nat) : Fld := ⟨0xb8104 + 0x100 * i, 17, 1⟩
def F.AQD_PORT_STATE_PEER_FALLOW_NEXT (i : Nat) : Fld := ⟨0xb8104 + 0x100 * i, 18, 1⟩
/-! AQD_PEER (spec/13_canals_and_aqueducts.md) -/
def F.AQD_PEER_PEER_ID (i : Nat) : Fld := ⟨0xb8108 + 0x100 * i, 0, 9⟩
def F.AQD_PEER_STRATUM (i : Nat) : Fld := ⟨0xb8108 + 0x100 * i, 9, 4⟩
def F.AQD_PEER_WCK (i : Nat) : Fld := ⟨0xb8108 + 0x100 * i, 13, 3⟩
/-! AQD_RANGE (spec/13_canals_and_aqueducts.md) -/
def F.AQD_RANGE_DL (i : Nat) : Fld := ⟨0xb8110 + 0x100 * i, 0, 32⟩
def F.AQD_RANGE_VL (i : Nat) : Fld := ⟨0xb8110 + 0x100 * i, 32, 16⟩
/-! AQD_FEC (spec/13_canals_and_aqueducts.md) -/
def F.AQD_FEC_CORRECTED (i : Nat) : Fld := ⟨0xb8118 + 0x100 * i, 0, 32⟩
def F.AQD_FEC_UNCORRECTABLE (i : Nat) : Fld := ⟨0xb8118 + 0x100 * i, 32, 16⟩
/-! AQD_STRAY (spec/13_canals_and_aqueducts.md) -/
def F.AQD_STRAY_STRAY (i : Nat) : Fld := ⟨0xb8120 + 0x100 * i, 0, 16⟩
def F.AQD_STRAY_FALLOW (i : Nat) : Fld := ⟨0xb8120 + 0x100 * i, 16, 16⟩
/-! ING_ENC (spec/14_camera_and_sealed_ingress.md) -/
def F.ING_ENC_BUSY : Fld := ⟨0xc0000, 0, 1⟩
def F.ING_ENC_STAGED : Fld := ⟨0xc0000, 1, 5⟩
def F.ING_ENC_CIPHERTEXTS : Fld := ⟨0xc0000, 32, 32⟩
/-! ING_PORT_STATE (spec/14_camera_and_sealed_ingress.md) -/
def F.ING_PORT_STATE_STATE (i : Nat) : Fld := ⟨0xc0100 + 0x80 * i, 0, 3⟩
def F.ING_PORT_STATE_ALLOT (i : Nat) : Fld := ⟨0xc0100 + 0x80 * i, 3, 5⟩
def F.ING_PORT_STATE_ACTIVE_KEY (i : Nat) : Fld := ⟨0xc0100 + 0x80 * i, 8, 1⟩
def F.ING_PORT_STATE_MARGIN0 (i : Nat) : Fld := ⟨0xc0100 + 0x80 * i, 9, 1⟩
def F.ING_PORT_STATE_NEXT_BUF (i : Nat) : Fld := ⟨0xc0100 + 0x80 * i, 10, 3⟩
def F.ING_PORT_STATE_VALID (i : Nat) : Fld := ⟨0xc0100 + 0x80 * i, 16, 8⟩
def F.ING_PORT_STATE_LAST_BAD (i : Nat) : Fld := ⟨0xc0100 + 0x80 * i, 24, 4⟩
/-! ING_FRAMES (spec/14_camera_and_sealed_ingress.md) -/
def F.ING_FRAMES_GOOD (i : Nat) : Fld := ⟨0xc0108 + 0x80 * i, 0, 32⟩
def F.ING_FRAMES_BAD (i : Nat) : Fld := ⟨0xc0108 + 0x80 * i, 32, 32⟩
/-! ING_ERRORS (spec/14_camera_and_sealed_ingress.md) -/
def F.ING_ERRORS_ECC_CORR (i : Nat) : Fld := ⟨0xc0110 + 0x80 * i, 0, 16⟩
def F.ING_ERRORS_ECC_UNCORR (i : Nat) : Fld := ⟨0xc0110 + 0x80 * i, 16, 16⟩
def F.ING_ERRORS_CRC (i : Nat) : Fld := ⟨0xc0110 + 0x80 * i, 32, 16⟩
def F.ING_ERRORS_OTHER (i : Nat) : Fld := ⟨0xc0110 + 0x80 * i, 48, 16⟩
/-! ING_KEY (spec/14_camera_and_sealed_ingress.md) -/
def F.ING_KEY_KEY_ID (i : Nat) (k : Nat) : Fld := ⟨0xc0120 + 0x80 * i + 8 * k, 0, 12⟩
def F.ING_KEY_LOG_N (i : Nat) (k : Nat) : Fld := ⟨0xc0120 + 0x80 * i + 8 * k, 12, 5⟩
def F.ING_KEY_LIMBS (i : Nat) (k : Nat) : Fld := ⟨0xc0120 + 0x80 * i + 8 * k, 17, 4⟩
def F.ING_KEY_LEVEL (i : Nat) (k : Nat) : Fld := ⟨0xc0120 + 0x80 * i + 8 * k, 21, 6⟩
def F.ING_KEY_SCALE (i : Nat) (k : Nat) : Fld := ⟨0xc0120 + 0x80 * i + 8 * k, 27, 8⟩
def F.ING_KEY_VALID (i : Nat) (k : Nat) : Fld := ⟨0xc0120 + 0x80 * i + 8 * k, 63, 1⟩
/-! VIS_STATE (spec/15_vision_engines.md) -/
def F.VIS_STATE_STATE (i : Nat) : Fld := ⟨0xd0000 + 0x40 * i, 0, 2⟩
def F.VIS_STATE_MODE (i : Nat) : Fld := ⟨0xd0000 + 0x40 * i, 2, 1⟩
def F.VIS_STATE_ALLOT (i : Nat) : Fld := ⟨0xd0000 + 0x40 * i, 3, 5⟩
def F.VIS_STATE_BUSY (i : Nat) : Fld := ⟨0xd0000 + 0x40 * i, 8, 4⟩
def F.VIS_STATE_REGIONS (i : Nat) : Fld := ⟨0xd0000 + 0x40 * i, 12, 4⟩
def F.VIS_STATE_FRAME (i : Nat) : Fld := ⟨0xd0000 + 0x40 * i, 16, 10⟩
def F.VIS_STATE_GRAPH (i : Nat) : Fld := ⟨0xd0000 + 0x40 * i, 26, 1⟩
/-! VIS_REFINE_THRESH (spec/15_vision_engines.md) -/
def F.VIS_REFINE_THRESH_THRESH (i : Nat) : Fld := ⟨0xd0004 + 0x40 * i, 0, 8⟩
/-! VIS_COUNTS (spec/15_vision_engines.md) -/
def F.VIS_COUNTS_FRAMES (i : Nat) : Fld := ⟨0xd0008 + 0x40 * i, 0, 32⟩
def F.VIS_COUNTS_REFINED (i : Nat) : Fld := ⟨0xd0008 + 0x40 * i, 32, 32⟩
/-! VIS_LAST (spec/15_vision_engines.md) -/
def F.VIS_LAST_CYCLES (i : Nat) : Fld := ⟨0xd0010 + 0x40 * i, 0, 32⟩
def F.VIS_LAST_NR (i : Nat) : Fld := ⟨0xd0010 + 0x40 * i, 32, 18⟩
/-! BSN_STATE (spec/16_settling_basin.md) -/
def F.BSN_STATE_STATE (i : Nat) : Fld := ⟨0xd8000 + 0x40 * i, 0, 2⟩
def F.BSN_STATE_BOUND (i : Nat) : Fld := ⟨0xd8000 + 0x40 * i, 2, 1⟩
def F.BSN_STATE_VALID (i : Nat) : Fld := ⟨0xd8000 + 0x40 * i, 3, 1⟩
def F.BSN_STATE_ALLOT (i : Nat) : Fld := ⟨0xd8000 + 0x40 * i, 4, 5⟩
def F.BSN_STATE_MODE (i : Nat) : Fld := ⟨0xd8000 + 0x40 * i, 9, 1⟩
/-! BSN_SWEEP (spec/16_settling_basin.md) -/
def F.BSN_SWEEP_SWEEP (i : Nat) : Fld := ⟨0xd8008 + 0x40 * i, 0, 32⟩
def F.BSN_SWEEP_TEMP (i : Nat) : Fld := ⟨0xd8008 + 0x40 * i, 32, 32⟩
/-! BSN_ENERGY (spec/16_settling_basin.md) -/
def F.BSN_ENERGY_BEST (i : Nat) : Fld := ⟨0xd8010 + 0x40 * i, 0, 64⟩
/-! BSN_RUNS (spec/16_settling_basin.md) -/
def F.BSN_RUNS_RUNS (i : Nat) : Fld := ⟨0xd8018 + 0x40 * i, 0, 32⟩
/-! GNS_STATE (spec/17_gnss_and_time_references.md) -/
def F.GNS_STATE_FRONT_END : Fld := ⟨0xe0000, 0, 1⟩
def F.GNS_STATE_VALID : Fld := ⟨0xe0000, 1, 1⟩
def F.GNS_STATE_SURVEYED : Fld := ⟨0xe0000, 2, 1⟩
def F.GNS_STATE_MARGIN0 : Fld := ⟨0xe0000, 3, 1⟩
def F.GNS_STATE_OSC_OK : Fld := ⟨0xe0000, 4, 1⟩
def F.GNS_STATE_CONFIGURED : Fld := ⟨0xe0000, 5, 1⟩
def F.GNS_STATE_USED : Fld := ⟨0xe0000, 6, 6⟩
def F.GNS_STATE_TRACKING : Fld := ⟨0xe0000, 12, 7⟩
/-! GNS_SOLUTION (spec/17_gnss_and_time_references.md) -/
def F.GNS_SOLUTION_OFFSET : Fld := ⟨0xe0008, 0, 32⟩
def F.GNS_SOLUTION_RESID_RMS : Fld := ⟨0xe0008, 32, 16⟩
/-! GNS_POS_XY (spec/17_gnss_and_time_references.md) -/
def F.GNS_POS_XY_X : Fld := ⟨0xe0010, 0, 32⟩
def F.GNS_POS_XY_Y : Fld := ⟨0xe0010, 32, 32⟩
/-! GNS_POS_Z (spec/17_gnss_and_time_references.md) -/
def F.GNS_POS_Z_Z : Fld := ⟨0xe0018, 0, 32⟩
/-! GNS_UTC (spec/17_gnss_and_time_references.md) -/
def F.GNS_UTC_LS : Fld := ⟨0xe0020, 0, 8⟩
def F.GNS_UTC_LSF : Fld := ⟨0xe0020, 8, 8⟩
def F.GNS_UTC_WN_LSF : Fld := ⟨0xe0020, 16, 16⟩
def F.GNS_UTC_DN : Fld := ⟨0xe0020, 32, 3⟩
def F.GNS_UTC_VALID : Fld := ⟨0xe0020, 63, 1⟩
/-! GNS_CLK (spec/17_gnss_and_time_references.md) -/
def F.GNS_CLK_FREQ : Fld := ⟨0xe0028, 0, 27⟩
/-! GNS_COUNTS (spec/17_gnss_and_time_references.md) -/
def F.GNS_COUNTS_VALID : Fld := ⟨0xe0030, 0, 16⟩
def F.GNS_COUNTS_INVALID : Fld := ⟨0xe0030, 16, 16⟩
def F.GNS_COUNTS_RAIM : Fld := ⟨0xe0030, 32, 16⟩
def F.GNS_COUNTS_FRONT : Fld := ⟨0xe0030, 48, 16⟩
/-! GNS_CHAN (spec/17_gnss_and_time_references.md) -/
def F.GNS_CHAN_STATE (i : Nat) : Fld := ⟨0xe0100 + 0x8 * i, 0, 3⟩
def F.GNS_CHAN_SIGNAL (i : Nat) : Fld := ⟨0xe0100 + 0x8 * i, 3, 3⟩
def F.GNS_CHAN_PRN (i : Nat) : Fld := ⟨0xe0100 + 0x8 * i, 6, 8⟩
def F.GNS_CHAN_CN0 (i : Nat) : Fld := ⟨0xe0100 + 0x8 * i, 14, 8⟩
def F.GNS_CHAN_USED (i : Nat) : Fld := ⟨0xe0100 + 0x8 * i, 22, 1⟩
def F.GNS_CHAN_EXCLUDED (i : Nat) : Fld := ⟨0xe0100 + 0x8 * i, 23, 1⟩
def F.GNS_CHAN_LOW_ELEV (i : Nat) : Fld := ⟨0xe0100 + 0x8 * i, 24, 1⟩
/-! BNE_STATE (spec/18_bignum_and_security.md) -/
def F.BNE_STATE_BUSY : Fld := ⟨0xf0000, 0, 1⟩
def F.BNE_STATE_ALLOT : Fld := ⟨0xf0000, 4, 5⟩
def F.BNE_STATE_FREE : Fld := ⟨0xf0000, 14, 14⟩
/-! BNE_FAULTS (spec/18_bignum_and_security.md) -/
def F.BNE_FAULTS_COUNT : Fld := ⟨0xf0008, 0, 16⟩
def F.BNE_FAULTS_LAST_OP : Fld := ⟨0xf0008, 16, 8⟩
/-! BNE_SLOT (spec/18_bignum_and_security.md) -/
def F.BNE_SLOT_DEFINED (i : Nat) : Fld := ⟨0xf0100 + 0x4 * i, 0, 1⟩
def F.BNE_SLOT_OWNER (i : Nat) : Fld := ⟨0xf0100 + 0x4 * i, 1, 5⟩
def F.BNE_SLOT_WORDS (i : Nat) : Fld := ⟨0xf0100 + 0x4 * i, 6, 8⟩
/-! SEC_SERIAL (spec/18_bignum_and_security.md) -/
def F.SEC_SERIAL_SERIAL : Fld := ⟨0xf8000, 0, 64⟩
/-! SEC_ID_PUB (spec/18_bignum_and_security.md) -/
def F.SEC_ID_PUB_WORD (i : Nat) : Fld := ⟨0xf8010 + 0x8 * i, 0, 64⟩
/-! SEC_WELL (spec/18_bignum_and_security.md) -/
def F.SEC_WELL_HEALTHY : Fld := ⟨0xf8080, 0, 1⟩
def F.SEC_WELL_FAILED : Fld := ⟨0xf8080, 1, 1⟩
def F.SEC_WELL_RESEEDS : Fld := ⟨0xf8080, 16, 16⟩
/-! SEC_SESSION (spec/18_bignum_and_security.md) -/
def F.SEC_SESSION_SESSION_ID (i : Nat) : Fld := ⟨0xf8100 + 0x8 * i, 0, 48⟩
def F.SEC_SESSION_ACTIVE (i : Nat) : Fld := ⟨0xf8100 + 0x8 * i, 48, 1⟩
/-! SLU_STATUS (spec/19_sluices_and_accounting.md) -/
def F.SLU_STATUS_CHIP_CLOSED : Fld := ⟨0x100000, 0, 1⟩
def F.SLU_STATUS_CHIP_CAUSE : Fld := ⟨0x100000, 1, 8⟩
def F.SLU_STATUS_ALERT : Fld := ⟨0x100000, 9, 1⟩
def F.SLU_STATUS_WALKER_HALT : Fld := ⟨0x100000, 10, 1⟩
/-! SLU_LIMITS (spec/19_sluices_and_accounting.md) -/
def F.SLU_LIMITS_PK : Fld := ⟨0x100004, 0, 8⟩
/-! SLU_WALKER (spec/19_sluices_and_accounting.md) -/
def F.SLU_WALKER_PERIOD : Fld := ⟨0x100008, 0, 24⟩
def F.SLU_WALKER_MARGIN0 : Fld := ⟨0x100008, 24, 1⟩
/-! SLU_LOG (spec/19_sluices_and_accounting.md) -/
def F.SLU_LOG_NEXT : Fld := ⟨0x100010, 0, 32⟩
def F.SLU_LOG_WRAPPED : Fld := ⟨0x100010, 32, 32⟩
/-! SLU_TILE_CLOSED (spec/19_sluices_and_accounting.md) -/
def F.SLU_TILE_CLOSED_MAP (i : Nat) : Fld := ⟨0x100020 + 0x8 * i, 0, 64⟩
/-! SLU_ALLOT (spec/19_sluices_and_accounting.md) -/
def F.SLU_ALLOT_STATE (i : Nat) : Fld := ⟨0x100100 + 0x20 * i, 0, 2⟩
def F.SLU_ALLOT_CHIP (i : Nat) : Fld := ⟨0x100100 + 0x20 * i, 2, 1⟩
def F.SLU_ALLOT_CAUSE (i : Nat) : Fld := ⟨0x100100 + 0x20 * i, 8, 8⟩
def F.SLU_ALLOT_DOUBTS (i : Nat) : Fld := ⟨0x100100 + 0x20 * i, 32, 32⟩
/-! SLU_LEDGER (spec/19_sluices_and_accounting.md) -/
def F.SLU_LEDGER_NEXT (i : Nat) : Fld := ⟨0x100108 + 0x20 * i, 0, 32⟩
def F.SLU_LEDGER_ACK (i : Nat) : Fld := ⟨0x100108 + 0x20 * i, 32, 32⟩
/-! SLU_LEDGER_CFG (spec/19_sluices_and_accounting.md) -/
def F.SLU_LEDGER_CFG_VECTOR (i : Nat) : Fld := ⟨0x100110 + 0x20 * i, 0, 11⟩
/-! SLU_LEDGER_COUNTS (spec/19_sluices_and_accounting.md) -/
def F.SLU_LEDGER_COUNTS_DELIVERED (i : Nat) : Fld := ⟨0x100118 + 0x20 * i, 0, 32⟩
def F.SLU_LEDGER_COUNTS_WITHHELD (i : Nat) : Fld := ⟨0x100118 + 0x20 * i, 32, 32⟩
/-! PWR_STATUS (spec/20_power_reset_bringup.md) -/
def F.PWR_STATUS_PHASE : Fld := ⟨0x110000, 0, 3⟩
def F.PWR_STATUS_RESET_CAUSE : Fld := ⟨0x110000, 3, 3⟩
def F.PWR_STATUS_MINIMAL : Fld := ⟨0x110000, 6, 1⟩
def F.PWR_STATUS_SELFTEST_BUSY : Fld := ⟨0x110000, 7, 1⟩
def F.PWR_STATUS_HOME_STACK : Fld := ⟨0x110000, 8, 4⟩
def F.PWR_STATUS_ID_VERIFIED : Fld := ⟨0x110000, 12, 1⟩
/-! PWR_RESET (spec/20_power_reset_bringup.md) -/
def F.PWR_RESET_KEY : Fld := ⟨0x110004, 0, 8⟩
/-! PWR_ON_MAP (spec/20_power_reset_bringup.md) -/
def F.PWR_ON_MAP_MAP (i : Nat) : Fld := ⟨0x110010 + 0x8 * i, 0, 64⟩
/-! PWR_WORKING (spec/20_power_reset_bringup.md) -/
def F.PWR_WORKING_MAP (i : Nat) : Fld := ⟨0x110030 + 0x8 * i, 0, 64⟩
/-! PWR_FUSE (spec/20_power_reset_bringup.md) -/
def F.PWR_FUSE_PRIMARY_OK : Fld := ⟨0x110058, 0, 8⟩
def F.PWR_FUSE_SHADOW_USED : Fld := ⟨0x110058, 8, 8⟩
def F.PWR_FUSE_INTEGRITY_FAIL : Fld := ⟨0x110058, 16, 1⟩
/-! PWR_DIE_TEMP (spec/20_power_reset_bringup.md) -/
def F.PWR_DIE_TEMP_NORTH : Fld := ⟨0x110060, 0, 8⟩
def F.PWR_DIE_TEMP_SOUTH : Fld := ⟨0x110060, 8, 8⟩
def F.PWR_DIE_TEMP_GATEHOUSE : Fld := ⟨0x110060, 16, 8⟩
/-! PWR_TRAIN (spec/20_power_reset_bringup.md) -/
def F.PWR_TRAIN_TIME (i : Nat) : Fld := ⟨0x110080 + 0x8 * i, 0, 16⟩
def F.PWR_TRAIN_PASS (i : Nat) : Fld := ⟨0x110080 + 0x8 * i, 16, 1⟩
def F.PWR_TRAIN_RETRIED (i : Nat) : Fld := ⟨0x110080 + 0x8 * i, 17, 1⟩
/-! GPIO_IN (spec/21_pins_gpio_management.md) -/
def F.GPIO_IN_IN : Fld := ⟨0x120000, 0, 48⟩
/-! GPIO_OUT (spec/21_pins_gpio_management.md) -/
def F.GPIO_OUT_OUT : Fld := ⟨0x120008, 0, 48⟩
/-! GPIO_CONFLICT (spec/21_pins_gpio_management.md) -/
def F.GPIO_CONFLICT_SIG : Fld := ⟨0x120010, 0, 4⟩
/-! GPIO_STROBE (spec/21_pins_gpio_management.md) -/
def F.GPIO_STROBE_OFFSET (i : Nat) : Fld := ⟨0x120020 + 0x8 * i, 0, 32⟩
def F.GPIO_STROBE_WIDTH (i : Nat) : Fld := ⟨0x120020 + 0x8 * i, 32, 16⟩
def F.GPIO_STROBE_ENABLE (i : Nat) : Fld := ⟨0x120020 + 0x8 * i, 48, 1⟩
/-! GPIO_STAMP (spec/21_pins_gpio_management.md) -/
def F.GPIO_STAMP_CYCLE (i : Nat) : Fld := ⟨0x120040 + 0x8 * i, 0, 32⟩
def F.GPIO_STAMP_TURN (i : Nat) : Fld := ⟨0x120040 + 0x8 * i, 32, 16⟩
def F.GPIO_STAMP_OVERRUN (i : Nat) : Fld := ⟨0x120040 + 0x8 * i, 62, 1⟩
def F.GPIO_STAMP_VALID (i : Nat) : Fld := ⟨0x120040 + 0x8 * i, 63, 1⟩
/-! GPIO_STATUS (spec/21_pins_gpio_management.md) -/
def F.GPIO_STATUS_FUNC (i : Nat) : Fld := ⟨0x120100 + 0x4 * i, 0, 3⟩
def F.GPIO_STATUS_SAFE_HELD (i : Nat) : Fld := ⟨0x120100 + 0x4 * i, 3, 1⟩
def F.GPIO_STATUS_OWNER (i : Nat) : Fld := ⟨0x120100 + 0x4 * i, 4, 5⟩
/-! MGT_RETRY (spec/21_pins_gpio_management.md) -/
def F.MGT_RETRY_COUNT : Fld := ⟨0x128000, 0, 4⟩
/-! MGT_I2C_CFG (spec/21_pins_gpio_management.md) -/
def F.MGT_I2C_CFG_SPEED : Fld := ⟨0x128004, 0, 2⟩
def F.MGT_I2C_CFG_LOST_ARB : Fld := ⟨0x128004, 16, 16⟩
/-! MGT_CCI (spec/21_pins_gpio_management.md) -/
def F.MGT_CCI_ENABLE (i : Nat) : Fld := ⟨0x128010 + 0x4 * i, 0, 1⟩
def F.MGT_CCI_SPEED (i : Nat) : Fld := ⟨0x128010 + 0x4 * i, 1, 2⟩
def F.MGT_CCI_OWNER (i : Nat) : Fld := ⟨0x128010 + 0x4 * i, 3, 5⟩
def F.MGT_CCI_BUSY (i : Nat) : Fld := ⟨0x128010 + 0x4 * i, 8, 1⟩
/-! MGT_SMB (spec/21_pins_gpio_management.md) -/
def F.MGT_SMB_ADDR : Fld := ⟨0x128020, 0, 7⟩
def F.MGT_SMB_PEC_ERRORS : Fld := ⟨0x128020, 8, 16⟩
/-! MGT_JTAG (spec/21_pins_gpio_management.md) -/
def F.MGT_JTAG_LOCKED : Fld := ⟨0x128028, 0, 1⟩
def F.MGT_JTAG_REFUSED : Fld := ⟨0x128028, 1, 1⟩
/-! GAU_LAST (spec/21_pins_gpio_management.md) -/
def F.GAU_LAST_CODE (i : Nat) : Fld := ⟨0x12c000 + 0x4 * i, 0, 12⟩
def F.GAU_LAST_TURN (i : Nat) : Fld := ⟨0x12c000 + 0x4 * i, 12, 16⟩

end Sys2Proof.Machine
end

