-- ==== Sys2Proof/Machine/Ops.lean ====
section
/-! DEFINITION. The named operations over the state: sparse maps, register fields, external memory, free values, the
clock's position, the error log, tallies and notices, and `settle`, which ends every meaning. -/

namespace Sys2Proof.Machine

/-! ## Sparse maps -/

/-- The value of a key; `d` where the map lists none. -/
def smGet {α : Type} (d : α) : SMap α → Nat → α
  | [], _ => d
  | (i, v) :: r, k => if i = k then v else smGet d r k

/-- The map without a key: it reads the default there. -/
def smErase {α : Type} (m : SMap α) (k : Nat) : SMap α := m.filter fun e => decide (e.1 ≠ k)

/-- The map with a value at one key, in its place among rising keys. -/
def smPut {α : Type} : SMap α → Nat → α → SMap α
  | [], k, v => [(k, v)]
  | (i, w) :: r, k, v =>
    if k < i then (k, v) :: (i, w) :: r
    else if k = i then (k, v) :: r
    else (i, w) :: smPut r k v

/-- The map with one key changed, in canonical form: keys rising, no entry equal to `d`. -/
def smSet {α : Type} [DecidableEq α] (d : α) (m : SMap α) (k : Nat) (v : α) : SMap α :=
  if v = d then smErase m k else smPut m k v

/-- Keys strictly rising. -/
def smRising {α : Type} : SMap α → Bool
  | [] => true
  | (i, _) :: r => r.all (fun e => decide (i < e.1)) && smRising r

/-- Canonical form with default `d`. -/
def smWf {α : Type} [DecidableEq α] (d : α) (m : SMap α) : Bool :=
  smRising m && m.all (fun e => decide (e.2 ≠ d))

/-! ## Bytes (R3: least significant byte first) -/

/-- The number a byte string spells. -/
def leNat : Bytes → Nat
  | [] => 0
  | b :: r => b.toNat + 256 * leNat r

/-- `n` bytes of a number. -/
def toLe : Nat → Nat → Bytes
  | 0, _ => []
  | n + 1, v => BitVec.ofNat 8 v :: toLe n (v / 256)

/-- `n` bytes from an offset of a byte string; bytes beyond its end read 0. -/
def slice (b : Bytes) (off n : Nat) : Bytes :=
  (List.range n).map fun i => b.getD (off + i) 0

/-- The number in bytes `off` to `off + n - 1`. -/
def fieldAt (b : Bytes) (off n : Nat) : Nat := leNat (slice b off n)

/-- Bits `lo` to `lo + w - 1` of a number. -/
def bits (v lo w : Nat) : Nat := v / 2 ^ lo % 2 ^ w

/-- One bit of a number. -/
def bit (v i : Nat) : Bool := decide (v / 2 ^ i % 2 = 1)

/-- A number of `w` bits read as two's complement. -/
def signed (w v : Nat) : Int := if v % 2 ^ w < 2 ^ (w - 1) then (v % 2 ^ w : Nat) else ((v % 2 ^ w : Nat) : Int) - 2 ^ w

/-- An integer as a two's complement number of `w` bits. -/
def unsigned (w : Nat) (v : Int) : Nat := (v % (2 ^ w : Int)).toNat

/-- ceil(a / b) -/
def cdiv (a b : Nat) : Nat := (a + b - 1) / b

def b2n (b : Bool) : Nat := if b then 1 else 0

/-! ## Register fields -/

/-- The offset lies in a register of the row: the register's own offset. -/
def RegRow.offsetOf (r : RegRow) (off : Nat) : Option Nat :=
  let size := r.width / 8
  let d1 := (off - r.base) / (if r.n1 = 0 then 1 else r.s1)
  let i := if r.n1 = 0 then 0 else d1
  let rest := off - r.base - i * r.s1
  let k := if r.n2 = 0 then 0 else rest / r.s2
  let o := r.base + i * r.s1 + k * r.s2
  if decide (r.base ≤ off) && decide (i < max 1 r.n1) && decide (k < max 1 r.n2) && decide (off < o + size) then some o else none

/-- The row whose registers hold a BAR0 offset. -/
def regRowAt (off : Nat) : Option RegRow := regTable.find? fun r => (r.offsetOf off).isSome

/-- The reset value of the register at an offset (its header line). -/
def regReset (off : Nat) : BitVec 64 :=
  match regRowAt off with
  | some r => BitVec.ofNat 64 r.reset
  | none => 0

/-- A register's whole value. -/
def State.reg (s : State) (off : Nat) : BitVec 64 := smGet (regReset off) s.regs off

/-- The state with a register's whole value set. -/
def State.setReg (s : State) (off : Nat) (v : BitVec 64) : State :=
  { s with regs := smSet (regReset off) s.regs off v }

/-- Write bits `lo` to `lo + w - 1` of a word. -/
def insertBits (v : BitVec 64) (lo w x : Nat) : BitVec 64 :=
  let m := BitVec.ofNat 64 (2 ^ w - 1) <<< lo
  (v &&& ~~~m) ||| (BitVec.ofNat 64 (x % 2 ^ w) <<< lo)

/-- REGISTER.FIELD -/
def State.get (s : State) (f : Fld) : Nat := bits (s.reg f.reg).toNat f.lo f.w

/-- REGISTER.FIELD ← v, modulo its width. -/
def State.put (s : State) (f : Fld) (v : Nat) : State := s.setReg f.reg (insertBits (s.reg f.reg) f.lo f.w v)

/-- REGISTER.FIELD + n, saturating at its largest value. -/
def State.bump (s : State) (f : Fld) (n : Nat := 1) : State := s.put f (min (2 ^ f.w - 1) (s.get f + n))

/-- REGISTER.FIELD = 1 -/
def State.on (s : State) (f : Fld) : Bool := decide (s.get f = 1)

/-! ## Records of arrays -/

def State.queue (s : State) (q : Nat) : Queue := smGet Queue.reset s.queues q

def State.setQueue (s : State) (q : Nat) (x : Queue) : State := { s with queues := smSet Queue.reset s.queues q x }

def State.allot (s : State) (a : Nat) : Allot := smGet Allot.reset s.allots a

def State.setAllot (s : State) (a : Nat) (x : Allot) : State := { s with allots := smSet Allot.reset s.allots a x }

def State.core (s : State) (c : Nat) : Core := smGet Core.reset s.cores c

def State.setCore (s : State) (c : Nat) (x : Core) : State := { s with cores := smSet Core.reset s.cores c x }

/-! ## External memory -/

/-- What an unlisted byte reads as (log entry 7). -/
def memDefault : Byte := 0

/-- The canonical form of external memory. -/
def memWf (m : List Host.Cell) : Bool := smWf memDefault m

/-- Drain one store into memory. -/
def memStore (m : List Host.Cell) : Store → List Host.Cell
  | .byte a v => smSet memDefault m a v
  | .zero first n => m.filter fun c => !(decide (first ≤ c.1) && decide (c.1 < first + n))

/-- Drain a command's stores, the newest first in the list, oldest first in time. -/
def memDrain (m : List Host.Cell) (l : List Store) : List Host.Cell := l.foldr (fun x m => memStore m x) m

/-- The byte that the newest store to an address left. -/
def storedByte (a : Nat) : List Store → Option Byte
  | [] => none
  | .byte b v :: r => if a = b then some v else storedByte a r
  | .zero first n :: r => if first ≤ a ∧ a < first + n then some 0 else storedByte a r

/-- One byte of external memory, as the running command sees it. -/
def State.rd (s : State) (a : Nat) : Byte := (storedByte a s.stores).getD (smGet memDefault s.mem a)

/-- `n` bytes of external memory. -/
def State.rdBytes (s : State) (a n : Nat) : Bytes := (List.range n).map fun i => s.rd (a + i)

/-- Write bytes to external memory, the side information (tags, ECC) aside. -/
def State.wrRaw (s : State) (a : Nat) : Bytes → State
  | [] => s
  | b :: r => State.wrRaw { s with stores := .byte a b :: s.stores } (a + 1) r

/-! ## Ending a meaning -/

/-- The outcome of a meaning: the state its effect gives, with the queue as the step left it and the command's stores
drained into external memory. Every meaning that answers a next state ends here. -/
def settle (s t : State) : Host.Outcome State Fault Refusal :=
  .next { t with pending := s.pending, mem := memDrain s.mem t.stores, stores := [] }

/-- The effect of a command that names no unit. -/
def run (s : State) (f : State → State) : Host.Outcome State Fault Refusal := settle s (f { s with stores := [] })

/-- The effect of a command that names unit `i` of `n`; a unit that does not exist stops the machine. -/
def unit (n i : Nat) (s : State) (f : State → State) : Host.Outcome State Fault Refusal :=
  if i < n then run s f else .fault .noSuchUnit

/-! ## Free values -/

/-- Draw `n` bytes from the randomness well. -/
def State.draw (s : State) (n : Nat) : Bytes × State :=
  ((List.range n).map fun i => Config.wellByte (s.free + i), { s with free := s.free + n })

/-- Output of a DRBG instance: a generate request for each 65,536 bytes begun, and a reseed after every 4,096 of them (R441). -/
def State.generate (s : State) (inst n : Nat) : Bytes × State :=
  let d := s.draw n
  let made := smGet 0 d.2.drbg inst + cdiv n 65536
  let t := { d.2 with drbg := smSet 0 d.2.drbg inst (made % 4096) }
  (d.1, if made < 4096 then t else t.bump F.SEC_WELL_RESEEDS (made / 4096))

/-- The well has failed and stopped, until a warm reset (R442); SEC_WELL.FAILED outlasts that reset. -/
def State.wellFailed (s : State) : Bool := s.wellStopped

/-! ## The clock's position -/

/-- r × N_turn, never 0. -/
def State.freq (s : State) : Nat := max 1 (s.get F.WCK_TURN_RATE_RATE * s.get F.WCK_TURN_CYCLES_COUNT)

/-- The clock that counts the cycles of a turn, in Hz (R54). -/
def State.coreHz (s : State) : Nat := if s.on F.WCK_STATE_ON_LAGOON then 800000000 else s.freq

/-- Water-clock time since the rate anchor, in units of 1 / (4 r N_turn) of a nanosecond. -/
def State.sinceAnchor (s : State) : Int :=
  (signed 32 (s.wck.sec + 2 ^ 32 - s.get F.WCK_ANCHOR_SEC_SEC) * 1000000000 + s.wck.ns) * (4 * s.freq : Nat) + s.wck.frac

/-- Lagoon cycles (1.25 ns, 5 r N_turn units) of a turn: from its first cycle, `c` cycles ago, to the first one that begins at or
after the next boundary instant of R39 (R57). Boundary instants are 4 × 10^9 N_turn units apart. After a change of time in the turn, which moves no
boundary (R543), the turn ends at the next such instant of the new time (DESIGN CHOICE, log entry 106). -/
def State.lagoonTurn (s : State) : Nat :=
  let period := 4000000000 * max 1 (s.get F.WCK_TURN_CYCLES_COUNT)
  let start := s.sinceAnchor - (5 * s.freq * s.wck.cycle : Nat)
  cdiv (period - (start % (period : Int)).toNat) (5 * s.freq)

/-- Cycles the current turn holds: N_turn, or the lagoon cycles up to its end (R57). -/
def State.turnLength (s : State) : Nat :=
  if s.on F.WCK_STATE_ON_LAGOON then s.lagoonTurn else s.get F.WCK_TURN_CYCLES_COUNT

/-- Nanoseconds and fraction (of 4 r N_turn) that `n` clock cycles add to water-clock time. -/
def State.addCycles (s : State) (n : Nat) : State :=
  let den := 4 * s.freq
  let per := if s.on F.WCK_STATE_ON_LAGOON then 5 * s.freq else 4000000000
  let f := s.wck.frac + n * per
  let ns := s.wck.ns + f / den
  let lag := if s.on F.WCK_STATE_ON_LAGOON then n
    else (s.wck.ns * den + f) * 4 / (den * 5) - (s.wck.ns * den + s.wck.frac) * 4 / (den * 5)
  if s.wck.running then
    { s with wck := { s.wck with
        cycle := s.wck.cycle + n, now := s.wck.now + n, lagoon := s.wck.lagoon + lag,
        frac := f % den, ns := ns % 1000000000, sec := (s.wck.sec + ns / 1000000000) % 2 ^ 32 } }
  else { s with wck := { s.wck with now := s.wck.now + n, lagoon := s.wck.lagoon + n } }

/-- Carry the clock forward to a cycle of the current turn; never back (log entry 1). -/
def State.advanceTo (s : State) (c : Nat) : State :=
  let c := min c (s.turnLength - 1)
  if s.wck.cycle < c then s.addCycles (c - s.wck.cycle) else s

/-- Core cycles to the first in which the lagoon clock has counted `d` cycles more. -/
def State.lagoonSteps (s : State) (d : Nat) : Nat :=
  let x := s.wck.ns * (4 * s.freq) + s.wck.frac
  cdiv (20 * s.freq * (x * 4 / (20 * s.freq) + d) - 4 * x) 16000000000

/-- The clock is carried forward to a lagoon cycle, within the turn. -/
def State.toLagoon (s : State) (l : Nat) : State :=
  if s.wck.lagoon < l then
    let d := l - s.wck.lagoon
    if s.wck.running && !s.on F.WCK_STATE_ON_LAGOON then s.advanceTo (s.wck.cycle + s.lagoonSteps d)
    else if s.wck.running then s.advanceTo (s.wck.cycle + d)
    else s.addCycles d
  else s

/-- The present turn reaches a lagoon cycle. -/
def State.reaches (s : State) (l : Nat) : Bool := decide (l ≤ (s.toLagoon l).wck.lagoon)

/-- What happens in a lagoon cycle that is named: nothing yet where it lies beyond the turn, which no command but TURN_BOUNDARY ends
(log entry 100). -/
def State.atLagoon (s : State) (l : Nat) (f : State → State) : State := if s.reaches l then f (s.toLagoon l) else s

/-- The cycle of a guard offset (Table 2-4). -/
def State.guardCycle (s : State) (g : Nat) : Nat := s.turnLength - 4096 + g

/-- Carry the clock forward to a guard offset. -/
def State.atGuard (s : State) (g : Nat) : State := s.advanceTo (s.guardCycle g)

/-- A limit register of the clock, whose writes wait for the turn boundary (R61). -/
def limitReg (o : Nat) : Bool := o == 0x20040 || o == 0x20044 || o == 0x20048 || o == 0x2004C

/-- The valid bit of an ingress buffer is set now (R79): the instant is kept. -/
def State.noteBuf (s : State) (code : Nat) : State := { s with bufSet := smSet 0 s.bufSet code (s.wck.now + 1) }

/-! ## Error log, tallies, notices -/

/-- Retained entries of the error log (R473; R494 where no stack works). -/
def State.logCap (s : State) : Nat := if s.get F.PWR_STATUS_HOME_STACK = 15 then 2048 else 262144

/-- Add an entry to the error log (R473). -/
def State.logEntry (s : State) (e : LogEntry) : State :=
  let n := s.get F.SLU_LOG_NEXT
  let e := { e with seq := n, cycle := s.wck.cycle, turn := s.wck.turn }
  let s := s.put F.SLU_LOG_NEXT (n + 1)
  if s.log.length < s.logCap then { s with log := s.log ++ [e] }
  else { s.bump F.SLU_LOG_WRAPPED with log := s.log.drop (s.log.length + 1 - s.logCap) ++ [e] }

/-- A log entry that closes no sluice; `tie`: of an arrival that tied its timer (R119, Table 19-6). -/
def State.logCause (s : State) (cause value : Nat) (allot : Nat := 255) (subject : Nat := 0xFFFF)
    (origin : Nat := 0xFFFFFFFF) (tie : Bool := false) : State :=
  s.logEntry ⟨0, 0, 0, allot, 0, false, tie, cause, subject, origin, value⟩

/-- Add a tally to a queue's produced tallies (R99: none is ever dropped). -/
def State.pushTally (s : State) (q : Nat) (t : Tally) : State :=
  let x := s.queue q
  s.setQueue q { x with out := x.out ++ [{ t with cycle := s.wck.cycle, turn := s.wck.turn }] }

/-- A notice on queue 0 (R129). -/
def State.notice (s : State) (code detail allot : Nat) : State :=
  s.pushTally 0 ⟨0, code, 0, false, false, true, 0, 0, detail, 0, allot⟩

/-- What leaves the device. -/
def State.emit (s : State) (x : Sent) : State := { s with sent := s.sent ++ [x] }

end Sys2Proof.Machine
end

