-- ==== Sys2Proof/Machine/Clock.lean ====
section
/-! DEFINITION. The water clock. -/

namespace Sys2Proof.Machine

/-- One clock cycle on an empty queue (log entry 2). -/
def tick (s : State) : State :=
  if s.wck.running then s.advanceTo (s.wck.cycle + 1) else s.addCycles 1

end Sys2Proof.Machine
end

