-- ==== Sys2Proof/Machine/Operands.lean ====
section
/-! DEFINITION. Operand forms: the fields of an order header (Table 4-2), CRC-32C (R102), tally encoding (Table 4-3),
reply buffers (R121), deadlines and named turns (R111), the reasons an order is refused (Tables 4-4 and 4-5). -/

namespace Sys2Proof.Machine

/-! ## CRC-32C -/

/-- One bit of CRC-32C, reflected. -/
def crcBit (c : Nat) : Nat := if c % 2 = 1 then Nat.xor (c / 2) 0x82F63B78 else c / 2

/-- One byte of CRC-32C. -/
def crcByte (c : Nat) (b : Byte) : Nat :=
  crcBit (crcBit (crcBit (crcBit (crcBit (crcBit (crcBit (crcBit (Nat.xor c b.toNat))))))))

/-- CRC-32C of a byte string (R102). -/
def crc32c (b : Bytes) : Nat := Nat.xor (b.foldl crcByte 0xFFFFFFFF) 0xFFFFFFFF

/-! ## The order header -/

def hdrOp (b : Bytes) : Nat := fieldAt b 0 2
def hdrLength (b : Bytes) : Nat := bits (fieldAt b 2 2) 0 12
def hdrSeq (b : Bytes) : Nat := fieldAt b 4 4
def hdrAllot (b : Bytes) : Nat := fieldAt b 8 1

def Ord.op (o : Ord) : Nat := hdrOp o.bytes
def Ord.length (o : Ord) : Nat := hdrLength o.bytes
def Ord.rspAlways (o : Ord) : Bool := bit (fieldAt o.bytes 2 2) 12
def Ord.fence (o : Ord) : Bool := bit (fieldAt o.bytes 2 2) 13
def Ord.isSealed (o : Ord) : Bool := bit (fieldAt o.bytes 2 2) 14
def Ord.deadlineValid (o : Ord) : Bool := bit (fieldAt o.bytes 2 2) 15
def Ord.seq (o : Ord) : Nat := hdrSeq o.bytes
def Ord.allot (o : Ord) : Nat := hdrAllot o.bytes
def Ord.queueField (o : Ord) : Nat := fieldAt o.bytes 9 1
def Ord.deadlineField (o : Ord) : Nat := fieldAt o.bytes 12 4
/-- `n` bytes of the order at byte `off` (PARAM and payload); a sealed payload is read as opened. -/
def Ord.field (o : Ord) (off n : Nat) : Nat :=
  if off < 32 then fieldAt o.bytes off n else fieldAt o.payload (off - 32) n
/-- Payload bytes at byte `off` of the order. -/
def Ord.data (o : Ord) (off n : Nat) : Bytes := slice o.payload (off - 32) n
/-- The FALLOW bit (R125). -/
def Ord.fallow (o : Ord) : Bool := bit (o.field 27 1) 7

/-- The CRC the Ditch Rider computes over an order (R102). -/
def orderCrc (b : Bytes) : Nat :=
  let n := hdrLength b
  let len := if 1 ≤ n ∧ n ≤ 2048 then n * 32 else 32
  crc32c (slice b 0 28 ++ [0, 0, 0, 0] ++ slice b 32 (len - 32))

/-! ## Why an order ends as it does -/

/-- A final status with its cause, DETAIL value and item (Tables 4-4 and 4-5). -/
structure Why where
  status : Nat
  cause : Nat
  value : Nat
  item : Nat
  deriving DecidableEq, Repr

/-- What an order's checks and effect give: a state, or the refusal that decides its tally. -/
abbrev Res := Except Why State

/-- Go on unless a check fails. -/
def refuseIf (bad : Bool) (w : Why) (k : Res) : Res := if bad then .error w else k

/-- The first check that fails refuses. -/
def checks : List (Bool × Why) → Option Why
  | [] => none
  | (bad, w) :: r => if bad then some w else checks r

def stDone : Nat := 0x00
def stAccepted : Nat := 0x01
def stCancelled : Nat := 0x02
def stTooLate : Nat := 0x03
def stBadOpcode : Nat := 0x10
def stBadLength : Nat := 0x11
def stBadField : Nat := 0x12
def stBadCrc : Nat := 0x13
def stState : Nat := 0x14
def stNoRight : Nat := 0x15
def stTimeout : Nat := 0x16
def stQuota : Nat := 0x17
def stSluice : Nat := 0x20
def stEcc : Nat := 0x21
def stContract : Nat := 0x22
def stLevel : Nat := 0x23
def stWalk : Nat := 0x24
def stPk : Nat := 0x25
def stTime : Nat := 0x26
def stLink : Nat := 0x27
def stWithheld : Nat := 0x28

/-- BAD_FIELD, FIELD_RANGE: byte offset and bit of the field's least significant bit. -/
def rangeAt (off : Nat) (b : Nat := 0) : Why := ⟨stBadField, 0x20, off + 65536 * b, 0⟩
/-- BAD_FIELD, RESERVED_SET. -/
def resvAt (off : Nat) (b : Nat := 0) : Why := ⟨stBadField, 0x21, off + 65536 * b, 0⟩
/-- BAD_LENGTH, LENGTH_SHORT: the count or length field that the order or its buffer cannot hold. -/
def shortAt (off : Nat) (b : Nat := 0) : Why := ⟨stBadLength, 0x24, off + 65536 * b, 0⟩
/-- A refusal whose cause has no stated value in DETAIL (log entry 19). -/
def whyOpen (status cause : Nat) : Why := ⟨status, cause, Config.openDetail cause, 0⟩
/-- An uncorrectable error in data an order used: cause and value are not stated (log entry 19). -/
def whyEcc : Why := ⟨stEcc, Config.openDetail 0x101 % 256, Config.openDetail 0x102, 0⟩
def whyState (cause value : Nat) : Why := ⟨stState, cause, value, 0⟩
def whyQuota (cause value : Nat) : Why := ⟨stQuota, cause, value, 0⟩
def whyRight (cause value : Nat) : Why := ⟨stNoRight, cause, value, 0⟩
def unitMissing (u : Nat) : Why := ⟨stState, 0x2C, u, 0⟩

/-! ## Turns -/

/-- Turns from turn `g` to a named turn, as R111 judges it: none in the past. -/
def turnsAhead (g named : Nat) : Option Nat :=
  let d := (named + 2 ^ 48 - g % 2 ^ 48) % 2 ^ 48
  if d < 2 ^ 47 then some d else none

/-- A named turn less than 2 turns ahead, or in the past, is refused (R111). -/
def namedTurn (s : State) (named : Nat) : Option Why :=
  match turnsAhead s.wck.turn named with
  | some d => if d < 2 then some ⟨stTooLate, 0x30, s.wck.turn % 2 ^ 32, 0⟩ else none
  | none => some ⟨stTooLate, 0x30, s.wck.turn % 2 ^ 32, 0⟩

/-- The deadline turn of an order granted now (R111, R112); none when it has passed. -/
def deadlineOf (s : State) (b : Bytes) : Option Nat :=
  if bit (fieldAt b 2 2) 15 then
    let d := (fieldAt b 12 4 + 2 ^ 32 - s.wck.turn % 2 ^ 32) % 2 ^ 32
    if d < 2 ^ 31 then some ((s.wck.turn + d) % 2 ^ 48) else none
  else some ((s.wck.turn + s.get F.DR_DEADLINE_DEFAULT_TURNS) % 2 ^ 48)

/-- A turn has passed. -/
def turnPassed (s : State) (t : Nat) : Bool := (turnsAhead s.wck.turn t).isNone

/-! ## Tallies -/

/-- The 32 bytes of a tally (Table 4-3). -/
def Tally.encode (t : Tally) (q phase : Nat) : Bytes :=
  toLe 4 t.seq ++ toLe 2 t.op ++ toLe 1 t.status
    ++ toLe 1 (phase + 2 * b2n t.cxl + 4 * b2n t.margin + 8 * b2n t.notice)
    ++ toLe 4 t.item ++ toLe 4 t.cycle ++ toLe 8 t.detail ++ toLe 6 t.turn ++ toLe 1 q ++ toLe 1 t.allot

/-- The tally of an order with a status. -/
def Ord.tally (o : Ord) (status item detail : Nat) (cxl margin : Bool) : Tally :=
  ⟨o.seq, o.op, status, cxl, margin, false, item, 0, detail, 0, o.allot⟩

/-- DETAIL of an order-level cause (R108). -/
def detailOf (cause value : Nat) : Nat := value % 2 ^ 32 + 2 ^ 32 * cause

/-- DETAIL of an order that a doubt ends without a stated value (log entry 19). -/
def openCause (cause : Nat) : Nat := detailOf cause (Config.openDetail cause)

/-- DETAIL of a TIMEOUT, whose cause and value are not stated; bits [63:40] are reserved (R108; log entry 19). -/
def openTimeout : Nat := Config.openDetail 0x100 % 2 ^ 40

/-- DETAIL of a plan-level or breach cause (R75): index, cause and core, or 0xFFFF. -/
def planDetail (cause index core : Nat) : Nat := index % 2 ^ 32 + 2 ^ 32 * cause + 2 ^ 48 * core

/-- A SCHED_LOAD that ends leaves the translator, and its allotment is no longer BUSY (R115). -/
def State.freeLoad (s : State) (o : Ord) : State :=
  let x := s.allot o.allot
  match x.loading with
  | some v => if v.ord.id = o.id then
      ({ s with load := s.load.filter fun l => l.ord.id != o.id }.setAllot o.allot { x with loading := none }).put (F.ALT_STATE_BUSY o.allot) 0
    else s
  | none => s

/-- An order leaves the orders in flight (R114). -/
def State.endOrder (s : State) (o : Ord) : State :=
  if s.inflight.any (fun x => x.id == o.id) then
    let s := s.freeLoad o
    let s := { s with inflight := s.inflight.filter (fun x => x.id != o.id) }
    let s := s.put F.DR_INFLIGHT_ORDERS (s.get F.DR_INFLIGHT_ORDERS - 1)
    s.put (F.DR_QLOAD_INFLIGHT o.q) (s.get (F.DR_QLOAD_INFLIGHT o.q) - 1)
  else s

/-- The final tally of an order (R104): exactly one, when it is still in flight. -/
def State.finish (s : State) (o : Ord) (status item detail : Nat) (margin : Bool := false) : State :=
  match s.inflight.find? (fun x => x.id == o.id) with
  | some x => (s.endOrder o).pushTally o.q (o.tally status item detail false (margin || x.margin))
  | none => s

/-- DONE. -/
def State.done (s : State) (o : Ord) (item : Nat := 0) (detail : Nat := 0) : State := s.finish o stDone item detail

/-- A refusal or failure. -/
def State.fail (s : State) (o : Ord) (w : Why) : State := s.finish o w.status w.item (detailOf w.cause w.value)

/-- An order has taken effect (R128). -/
def State.took (s : State) (o : Ord) : State :=
  { s with inflight := s.inflight.map fun x => if x.id == o.id then { x with took := true } else x }

/-- The arrival that orders await ties their timer and wins (R119): their final tallies carry MARGIN0. -/
def State.tieOrders (s : State) (l : List Ord) : State :=
  { s with inflight := s.inflight.map fun x => if l.any (·.id == x.id) then { x with margin := true } else x }

/-! ## Reply buffers (R121) -/

/-- The function whose requester id an order's replies carry: its allotment's, or the physical function's on queue 0. -/
def State.fnOf (s : State) (q : Nat) : Nat :=
  if q = 0 then 0 else s.get (F.ALT_STATE_FUNCTION (s.queue q).bound)

/-- The length check of a reply buffer whose length field is at byte `off`. -/
def replyShort (len size off : Nat) : Option Why := if len < size then some (shortAt off) else none

/-- The field checks of a reply buffer: 64-byte alignment of the address, a multiple of 64 of the length. -/
def replyFields (addr len addrOff lenOff : Nat) : List (Bool × Why) :=
  [(decide (addr % 64 ≠ 0), rangeAt addrOff), (decide (len % 64 ≠ 0), rangeAt lenOff)]

/-- Write a reply of an order. -/
def State.reply (s : State) (o : Ord) (addr : Nat) (data : Bytes) : State :=
  s.emit (.hostWrite (s.fnOf o.q) addr data false)

/-- Pad a reply with zeros. -/
def padTo (n : Nat) (b : Bytes) : Bytes := b ++ List.replicate (n - b.length) 0

end Sys2Proof.Machine
end

