-- ==== Sys2Proof/Machine/Crypto.lean ====
section
/-! DEFINITION. The cryptographic functions the spec names by their standards (R439, R434, R444, log entry 11): SHA-384
and SHA-512 (FIPS 180-4), SHA-3 and SHAKE (FIPS 202), HMAC (FIPS 198-1), HKDF (RFC 5869), AES-256-GCM (SP 800-38D),
ECDSA over P-256, P-384 and P-521 (FIPS 186-5), X25519 (RFC 7748), Ed25519 (RFC 8032). -/

namespace Sys2Proof.Machine

/-! ## SHA-512 and SHA-384 -/

def m64 (x : Nat) : Nat := x % 2 ^ 64
def rotl64 (x n : Nat) : Nat := if n = 0 then x else Nat.lor (m64 (x <<< n)) (x >>> (64 - n))
def xor3 (a b c : Nat) : Nat := Nat.xor (Nat.xor a b) c

/-- The number a byte string spells, most significant byte first. -/
def beNat (b : Bytes) : Nat := b.foldl (fun a x => a * 256 + x.toNat) 0
/-- `n` bytes of a number, most significant first. -/
def toBe (n v : Nat) : Bytes := (toLe n v).reverse

/-- Consecutive pieces of `n` items. -/
def chunks {α : Type} (n : Nat) (l : List α) : List (List α) :=
  (List.range (cdiv l.length n)).map fun i => (l.drop (i * n)).take n

/-- The first eighty primes. -/
def shaPrimes : List Nat := (List.range 410).filter fun p => decide (2 ≤ p) && (List.range p).all fun d => decide (d < 2) || p % d != 0

/-- The largest number whose `k`-th power is at most `v`, built from bit `n - 1` down on top of `r`. -/
def rootOf (k v : Nat) : Nat → Nat → Nat
  | 0, r => r
  | n + 1, r => rootOf k v n (if (r + 2 ^ n) ^ k ≤ v then r + 2 ^ n else r)

/-- The first 64 bits of the fraction of the `k`-th root of a number below 512. -/
def rootBits (k p : Nat) : BitVec 64 := BitVec.ofNat 64 (rootOf k (p * 2 ^ (64 * k)) 69 0)

/-- The constants of FIPS 180-4: fractions of cube roots of the first eighty primes; of square roots of the first eight, and of the
next eight. -/
def shaK : List (BitVec 64) := shaPrimes.map (rootBits 3)
def sha512Start : List (BitVec 64) := (shaPrimes.take 8).map (rootBits 2)
def sha384Start : List (BitVec 64) := ((shaPrimes.drop 8).take 8).map (rootBits 2)

/-- The sum of three rotations. -/
def turned (i j k : Nat) (x : BitVec 64) : BitVec 64 := x.rotateRight i ^^^ x.rotateRight j ^^^ x.rotateRight k

/-- The message schedule, newest word first: `n` words more. -/
def shaWords : Nat → List (BitVec 64) → List (BitVec 64)
  | 0, w => w
  | n + 1, w =>
    let back (i : Nat) : BitVec 64 := w.getD (i - 1) 0
    let low (i j k : Nat) (x : BitVec 64) : BitVec 64 := x.rotateRight i ^^^ x.rotateRight j ^^^ (x >>> k)
    shaWords n ((back 16 + low 1 8 7 (back 15) + back 7 + low 19 61 6 (back 2)) :: w)

/-- The rounds as two sequences, newest first: the values that variable a has had, and those of variable e. -/
def shaRounds (as es : List (BitVec 64)) : List (BitVec 64) → List (BitVec 64) × List (BitVec 64)
  | [] => (as, es)
  | kw :: r =>
    let a (i : Nat) : BitVec 64 := as.getD i 0
    let e (i : Nat) : BitVec 64 := es.getD i 0
    let choice := e 2 ^^^ (e 0 &&& (e 1 ^^^ e 2))
    let majority := (a 0 &&& (a 1 ||| a 2)) ||| (a 1 &&& a 2)
    let x := e 3 + turned 14 18 41 (e 0) + choice + kw
    shaRounds ((x + turned 28 34 39 (a 0) + majority) :: as) ((a 3 + x) :: es) r

/-- One block of 128 bytes. -/
def shaBlock (h : List (BitVec 64)) (b : Bytes) : List (BitVec 64) :=
  let w := shaWords 64 ((chunks 8 b).map fun x => BitVec.ofNat 64 (beNat x)).reverse
  let r := shaRounds (h.take 4) (h.drop 4) ((shaK.zip w.reverse).map fun x => x.1 + x.2)
  (h.zip (r.1.take 4 ++ r.2.take 4)).map fun x => x.1 + x.2

/-- The digest from a starting value: a 1 bit, zeros, and the length in bits in the last 16 bytes of a block. -/
def shaFrom (start : List (BitVec 64)) (m : Bytes) : Bytes :=
  let zeros := ((111 - m.length : Int) % 128).toNat
  let h := (chunks 128 (m ++ 0x80 :: List.replicate zeros 0 ++ toBe 16 (8 * m.length))).foldl shaBlock start
  h.flatMap fun x => toBe 8 x.toNat

def sha384 (m : Bytes) : Bytes := (shaFrom sha384Start m).take 48
def sha512 (m : Bytes) : Bytes := shaFrom sha512Start m

def xorBytes (a b : Bytes) : Bytes := (a.zip b).map fun p => p.1 ^^^ p.2

/-- HMAC-SHA-384 (FIPS 198-1). -/
def hmac384 (key m : Bytes) : Bytes :=
  let k := padTo 128 (if key.length > 128 then sha384 key else key)
  sha384 (xorBytes k (List.replicate 128 0x5C) ++ sha384 (xorBytes k (List.replicate 128 0x36) ++ m))

/-- HKDF-SHA-384 with 32 bytes of output (RFC 5869). -/
def hkdf384 (salt ikm info : Bytes) : Bytes := (hmac384 (hmac384 salt ikm) (info ++ [1])).take 32

/-! ## Keccak -/

def keccakRc : List Nat := [
  0x1, 0x8082, 0x800000000000808A, 0x8000000080008000, 0x808B, 0x80000001, 0x8000000080008081, 0x8000000000008009,
  0x8A, 0x88, 0x80008009, 0x8000000A, 0x8000808B, 0x800000000000008B, 0x8000000000008089, 0x8000000000008003,
  0x8000000000008002, 0x8000000000000080, 0x800A, 0x800000008000000A, 0x8000000080008081, 0x8000000000008080,
  0x80000001, 0x8000000080008008]

/-- Rotation of lane x + 5 y. -/
def keccakRot : List Nat := [
  0, 1, 62, 28, 27, 36, 44, 6, 55, 20, 3, 10, 43, 25, 39, 41, 45, 15, 21, 8, 18, 2, 61, 56, 14]

def keccakRound (a : List Nat) (rc : Nat) : List Nat :=
  let g := fun i => a.getD i 0
  let c := (List.range 5).map fun x => Nat.xor (xor3 (g x) (g (x + 5)) (g (x + 10))) (Nat.xor (g (x + 15)) (g (x + 20)))
  let d := (List.range 5).map fun x => Nat.xor (c.getD ((x + 4) % 5) 0) (rotl64 (c.getD ((x + 1) % 5) 0) 1)
  let t := (List.range 25).map fun i => rotl64 (Nat.xor (g i) (d.getD (i % 5) 0)) (keccakRot.getD i 0)
  -- b at (y, 2x + 3y) is t at (x, y): lane (X, Y) comes from x = (X + 3 Y) mod 5, y = X
  let b := (List.range 25).map fun i => t.getD ((i % 5 + 3 * (i / 5)) % 5 + 5 * (i % 5)) 0
  let h := fun i => b.getD i 0
  let r := (List.range 25).map fun i =>
    Nat.xor (h i) (Nat.land (2 ^ 64 - 1 - h ((i + 1) % 5 + i / 5 * 5)) (h ((i + 2) % 5 + i / 5 * 5)))
  r.mapIdx fun i x => if i = 0 then Nat.xor x rc else x

def keccakF (a : List Nat) : List Nat := keccakRc.foldl keccakRound a

def keccakAbsorb (rate : Nat) (m : Bytes) : List Nat :=
  (chunks rate m).foldl (fun st blk =>
    keccakF (st.mapIdx fun i x => if i < rate / 8 then Nat.xor x (fieldAt blk (8 * i) 8) else x)) (List.replicate 25 0)

def keccakSqueeze (rate : Nat) : Nat → List Nat → Bytes
  | 0, _ => []
  | n + 1, st => ((st.take (rate / 8)).flatMap (toLe 8)) ++ keccakSqueeze rate n (keccakF st)

/-- A sponge of the FIPS 202 family: rate in bytes, domain suffix byte, output bytes. -/
def sponge (rate suffix out : Nat) (m : Bytes) : Bytes :=
  let z := rate - 1 - m.length % rate
  let pad := if z = 0 then [BitVec.ofNat 8 (suffix + 0x80)] else BitVec.ofNat 8 suffix :: List.replicate (z - 1) 0 ++ [0x80]
  (keccakSqueeze rate (cdiv out rate) (keccakAbsorb rate (m ++ pad))).take out

def sha3x256 (m : Bytes) : Bytes := sponge 136 0x06 32 m
def sha3x384 (m : Bytes) : Bytes := sponge 104 0x06 48 m
def shake128x (out : Nat) (m : Bytes) : Bytes := sponge 168 0x1F out m
def shake256x (out : Nat) (m : Bytes) : Bytes := sponge 136 0x1F out m

/-! ## AES-256 and GCM -/

def aesDouble (a : Nat) : Nat := if a ≥ 128 then Nat.xor (2 * a - 256) 0x1B else 2 * a
def aesSbox0 : List Nat := [
  0x63, 0x7c, 0x77, 0x7b, 0xf2, 0x6b, 0x6f, 0xc5, 0x30, 0x01, 0x67, 0x2b, 0xfe, 0xd7, 0xab, 0x76,
  0xca, 0x82, 0xc9, 0x7d, 0xfa, 0x59, 0x47, 0xf0, 0xad, 0xd4, 0xa2, 0xaf, 0x9c, 0xa4, 0x72, 0xc0,
  0xb7, 0xfd, 0x93, 0x26, 0x36, 0x3f, 0xf7, 0xcc, 0x34, 0xa5, 0xe5, 0xf1, 0x71, 0xd8, 0x31, 0x15,
  0x04, 0xc7, 0x23, 0xc3, 0x18, 0x96, 0x05, 0x9a, 0x07, 0x12, 0x80, 0xe2, 0xeb, 0x27, 0xb2, 0x75]
def aesSbox1 : List Nat := [
  0x09, 0x83, 0x2c, 0x1a, 0x1b, 0x6e, 0x5a, 0xa0, 0x52, 0x3b, 0xd6, 0xb3, 0x29, 0xe3, 0x2f, 0x84,
  0x53, 0xd1, 0x00, 0xed, 0x20, 0xfc, 0xb1, 0x5b, 0x6a, 0xcb, 0xbe, 0x39, 0x4a, 0x4c, 0x58, 0xcf,
  0xd0, 0xef, 0xaa, 0xfb, 0x43, 0x4d, 0x33, 0x85, 0x45, 0xf9, 0x02, 0x7f, 0x50, 0x3c, 0x9f, 0xa8,
  0x51, 0xa3, 0x40, 0x8f, 0x92, 0x9d, 0x38, 0xf5, 0xbc, 0xb6, 0xda, 0x21, 0x10, 0xff, 0xf3, 0xd2]
def aesSbox2 : List Nat := [
  0xcd, 0x0c, 0x13, 0xec, 0x5f, 0x97, 0x44, 0x17, 0xc4, 0xa7, 0x7e, 0x3d, 0x64, 0x5d, 0x19, 0x73,
  0x60, 0x81, 0x4f, 0xdc, 0x22, 0x2a, 0x90, 0x88, 0x46, 0xee, 0xb8, 0x14, 0xde, 0x5e, 0x0b, 0xdb,
  0xe0, 0x32, 0x3a, 0x0a, 0x49, 0x06, 0x24, 0x5c, 0xc2, 0xd3, 0xac, 0x62, 0x91, 0x95, 0xe4, 0x79,
  0xe7, 0xc8, 0x37, 0x6d, 0x8d, 0xd5, 0x4e, 0xa9, 0x6c, 0x56, 0xf4, 0xea, 0x65, 0x7a, 0xae, 0x08]
def aesSbox3 : List Nat := [
  0xba, 0x78, 0x25, 0x2e, 0x1c, 0xa6, 0xb4, 0xc6, 0xe8, 0xdd, 0x74, 0x1f, 0x4b, 0xbd, 0x8b, 0x8a,
  0x70, 0x3e, 0xb5, 0x66, 0x48, 0x03, 0xf6, 0x0e, 0x61, 0x35, 0x57, 0xb9, 0x86, 0xc1, 0x1d, 0x9e,
  0xe1, 0xf8, 0x98, 0x11, 0x69, 0xd9, 0x8e, 0x94, 0x9b, 0x1e, 0x87, 0xe9, 0xce, 0x55, 0x28, 0xdf,
  0x8c, 0xa1, 0x89, 0x0d, 0xbf, 0xe6, 0x42, 0x68, 0x41, 0x99, 0x2d, 0x0f, 0xb0, 0x54, 0xbb, 0x16]
/-- The S-box (FIPS 197). -/
def aesSbox : List Nat := aesSbox0 ++ aesSbox1 ++ aesSbox2 ++ aesSbox3
def subByte (x : Nat) : Nat := aesSbox.getD x 0

/-- The key schedule of AES-256: words newest first. -/
def aesExpand : Nat → Nat → List (List Nat) → List (List Nat)
  | 0, _, w => w
  | n + 1, i, w =>
    let t := w.getD 0 []
    let t := if i % 8 = 0 then
        let r := (t.drop 1 ++ t.take 1).map subByte
        r.mapIdx fun j x => if j = 0 then Nat.xor x (2 ^ (i / 8 - 1)) else x
      else if i % 8 = 4 then t.map subByte else t
    aesExpand n (i + 1) (((w.getD 7 []).zip t).map (fun p => Nat.xor p.1 p.2) :: w)

def aesRoundKeys (key : Bytes) : List (List Nat) :=
  let w := (aesExpand 52 8 ((chunks 4 (key.map BitVec.toNat)).reverse)).reverse
  (chunks 4 w).map List.flatten

def aesShiftRows (s : List Nat) : List Nat :=
  (List.range 16).map fun i => s.getD ((i + 4 * (i % 4)) % 16) 0

def aesMixCol (c : List Nat) : List Nat :=
  (List.range 4).map fun i =>
    Nat.xor (xor3 (aesDouble (c.getD i 0)) (Nat.xor (aesDouble (c.getD ((i + 1) % 4) 0)) (c.getD ((i + 1) % 4) 0))
      (c.getD ((i + 2) % 4) 0)) (c.getD ((i + 3) % 4) 0)

def xorNats (a b : List Nat) : List Nat := (a.zip b).map fun p => Nat.xor p.1 p.2

/-- One block through AES-256 with its round keys. -/
def aesBlock (ks : List (List Nat)) (blk : Bytes) : Bytes :=
  let s0 := xorNats (blk.map BitVec.toNat) (ks.getD 0 [])
  let s := ((ks.drop 1).take 13).foldl (fun s k =>
    xorNats ((chunks 4 (aesShiftRows (s.map subByte))).flatMap aesMixCol) k) s0
  (xorNats (aesShiftRows (s.map subByte)) (ks.getD 14 [])).map (BitVec.ofNat 8)

/-- Product in the GCM field: bit 127 of the number is the coefficient of 1. -/
def ghashMul : Nat → Nat → Nat → Nat → Nat
  | 0, _, _, z => z
  | n + 1, x, v, z =>
    let z := if x / 2 ^ n % 2 = 1 then Nat.xor z v else z
    ghashMul n x (if v % 2 = 1 then Nat.xor (v / 2) (0xE1 * 2 ^ 120) else v / 2) z

def pad16 (b : Bytes) : Bytes := b ++ List.replicate ((16 - b.length % 16) % 16) 0

def ghash (h : Nat) (b : Bytes) : Nat :=
  (chunks 16 b).foldl (fun y blk => ghashMul 128 (Nat.xor y (beNat blk)) h 0) 0

def gcmCtr (ks : List (List Nat)) (iv : Bytes) (n : Nat) : Bytes :=
  (List.range (cdiv n 16)).flatMap fun i => aesBlock ks (iv ++ toBe 4 (i + 2))

def gcmTag (ks : List (List Nat)) (iv aad ct : Bytes) : Bytes :=
  let h := beNat (aesBlock ks (List.replicate 16 0))
  let s := ghash h (pad16 aad ++ pad16 ct ++ toBe 8 (8 * aad.length) ++ toBe 8 (8 * ct.length))
  xorBytes (toBe 16 s) (aesBlock ks (iv ++ toBe 4 1))

/-- AES-256-GCM encryption: ciphertext and tag. -/
def gcmSeal (key iv aad pt : Bytes) : Bytes × Bytes :=
  let ks := aesRoundKeys key
  let ct := xorBytes pt (gcmCtr ks iv pt.length)
  (ct, gcmTag ks iv aad ct)

/-- AES-256-GCM decryption; none when the tag does not match. -/
def gcmOpen (key iv aad ct tag : Bytes) : Option Bytes :=
  let ks := aesRoundKeys key
  if gcmTag ks iv aad ct = tag then some (xorBytes ct (gcmCtr ks iv ct.length)) else none

/-! ## Modular arithmetic and curves -/

/-- b^e mod m over the low `n` bits of e, most significant first: every bit is processed (R434). -/
def powBits : Nat → Nat → Nat → Nat → Nat → Nat
  | 0, _, _, _, acc => acc
  | n + 1, b, e, m, acc =>
    let sq := acc * acc % m
    powBits n b e m (if e / 2 ^ n % 2 = 1 then sq * b % m else sq)

def powMod (n b e m : Nat) : Nat := powBits n b e m (1 % m)

def subMod (a b m : Nat) : Nat := (a + (m - b % m)) % m
/-- x^(m - 2) mod m -/
def invMod (x m : Nat) : Nat := powMod 522 x (m - 2) m

/-- A short Weierstrass curve y² = x³ - 3x + b over p, with its order, base point and scalar words. -/
structure Curve where
  p : Nat
  b : Nat
  n : Nat
  gx : Nat
  gy : Nat
  words : Nat
  deriving DecidableEq, Repr

def curveP256 : Curve where
  p := 0xFFFFFFFF00000001000000000000000000000000FFFFFFFFFFFFFFFFFFFFFFFF
  b := 0x5AC635D8AA3A93E7B3EBBD55769886BC651D06B0CC53B0F63BCE3C3E27D2604B
  n := 0xFFFFFFFF00000000FFFFFFFFFFFFFFFFBCE6FAADA7179E84F3B9CAC2FC632551
  gx := 0x6B17D1F2E12C4247F8BCE6E563A440F277037D812DEB33A0F4A13945D898C296
  gy := 0x4FE342E2FE1A7F9B8EE7EB4A7C0F9E162BCE33576B315ECECBB6406837BF51F5
  words := 4

def curveP384 : Curve where
  p := 2 ^ 384 - 2 ^ 128 - 2 ^ 96 + 2 ^ 32 - 1
  b := 0xB3312FA7E23EE7E4988E056BE3F82D19181D9C6EFE8141120314088F5013875AC656398D8A2ED19D2A85C8EDD3EC2AEF
  n := 0xFFFFFFFFFFFFFFFFFFFFFFFFFFFFFFFFFFFFFFFFFFFFFFFFC7634D81F4372DDF581A0DB248B0A77AECEC196ACCC52973
  gx := 0xAA87CA22BE8B05378EB1C71EF320AD746E1D3B628BA79B9859F741E082542A385502F25DBF55296C3A545E3872760AB7
  gy := 0x3617DE4A96262C6F5D9E98BF9292DC29F8F41DBD289A147CE9DA3113B5F0B8C00A60B1CE1D7E819D7A431D7C90EA0E5F
  words := 6

def curveP521 : Curve where
  p := 2 ^ 521 - 1
  b := 0x51953EB9618E1C9A1F929A21A0B68540EEA2DA725B99B315F3B8B489918EF109E156193951EC7E937B1652C0BD3BB1BF073573DF883D2C34F1EF451FD46B503F00
  n := 0x1FFFFFFFFFFFFFFFFFFFFFFFFFFFFFFFFFFFFFFFFFFFFFFFFFFFFFFFFFFFFFFFFFA51868783BF2F966B7FCC0148F709A5D03BB5C9B8899C47AEBB6FB71E91386409
  gx := 0xC6858E06B70404E9CD9E3ECB662395B4429C648139053FB521F828AF606B4D3DBAA14B5E77EFE75928FE1DC127A2FFA8DE3348B3C1856A429BF97E7E31C2E5BD66
  gy := 0x11839296A789A3BC0045C8A5FB42C7D1BD998F54449579B446817AFBD17273E662C97EE72995EF42640C550B9013FAD0761353C7086A272C24088BE94769FD16650
  words := 9

/-- A point of a curve; none is the identity. -/
abbrev Point := Option (Nat × Nat)

def ecOn (c : Curve) (x y : Nat) : Bool :=
  decide (x < c.p) && decide (y < c.p) && decide (y * y % c.p = (x * x * x + (c.p - 3) * x + c.b) % c.p)

def ecAdd (c : Curve) : Point → Point → Point
  | none, b => b
  | a, none => a
  | some (x1, y1), some (x2, y2) =>
    if x1 = x2 ∧ (y1 + y2) % c.p = 0 then none
    else
      let l := if x1 = x2 then (3 * x1 * x1 + (c.p - 3)) % c.p * invMod (2 * y1) c.p % c.p
        else subMod y2 y1 c.p * invMod (subMod x2 x1 c.p) c.p % c.p
      let x3 := subMod (l * l) (x1 + x2) c.p
      some (x3, subMod (l * subMod x1 x3 c.p) y1 c.p)

/-- k × P over the low `n` bits of k. -/
def ecMulBits (c : Curve) (k : Nat) (pt : Point) : Nat → Point → Point
  | 0, acc => acc
  | n + 1, acc =>
    let d := ecAdd c acc acc
    ecMulBits c k pt n (if k / 2 ^ n % 2 = 1 then ecAdd c d pt else d)

def ecMul (c : Curve) (k : Nat) (pt : Point) : Point := ecMulBits c k pt (64 * c.words) none

/-- ECDSA over an integer hash with private key d and per-message k: (r, s). -/
def ecdsaSign (c : Curve) (z d k : Nat) : Nat × Nat :=
  match ecMul c k (some (c.gx, c.gy)) with
  | none => (0, 0)
  | some (x, _) =>
    let r := x % c.n
    (r, invMod k c.n * (z + r * d) % c.n)

def ecdsaVerify (c : Curve) (z r s qx qy : Nat) : Bool :=
  if r = 0 ∨ r ≥ c.n ∨ s = 0 ∨ s ≥ c.n ∨ ecOn c qx qy = false then false
  else
    let w := invMod s c.n
    match ecAdd c (ecMul c (z * w % c.n) (some (c.gx, c.gy))) (ecMul c (r * w % c.n) (some (qx, qy))) with
    | none => false
    | some (x, _) => decide (x % c.n = r)

/-! ## X25519 and Ed25519 -/

def p25519 : Nat := 2 ^ 255 - 19

/-- The Montgomery ladder of RFC 7748. -/
def x25519Ladder (u k : Nat) : Nat → (Nat × Nat × Nat × Nat) → (Nat × Nat × Nat × Nat)
  | 0, s => s
  | n + 1, (x2, z2, x3, z3) =>
    let p := p25519
    let sw := k / 2 ^ n % 2 = 1
    let (x2, z2, x3, z3) := if sw then (x3, z3, x2, z2) else (x2, z2, x3, z3)
    let a := (x2 + z2) % p
    let aa := a * a % p
    let b := subMod x2 z2 p
    let bb := b * b % p
    let e := subMod aa bb p
    let c := (x3 + z3) % p
    let d := subMod x3 z3 p
    let da := d * a % p
    let cb := c * b % p
    let nx3 := (da + cb) % p * ((da + cb) % p) % p
    let dif := subMod da cb p
    let nz3 := u * (dif * dif % p) % p
    let nx2 := aa * bb % p
    let nz2 := e * ((aa + 121665 * e) % p) % p
    x25519Ladder u k n (if sw then (nx3, nz3, nx2, nz2) else (nx2, nz2, nx3, nz3))

/-- X25519 (RFC 7748) on numbers. -/
def x25519 (k u : Nat) : Nat :=
  let k := k % 2 ^ 254 / 8 * 8 + 2 ^ 254
  let u := u % 2 ^ 255
  match x25519Ladder u k 255 (1, 0, u, 1) with
  | (x2, z2, _, _) => x2 * invMod z2 p25519 % p25519

def edD : Nat := subMod 0 (121665 * invMod 121666 p25519) p25519
def edL : Nat := 2 ^ 252 + 27742317777372353535851937790883648493

/-- Addition on edwards25519, affine. -/
def edAdd (a b : Nat × Nat) : Nat × Nat :=
  let p := p25519
  let t := edD * (a.1 * b.1 % p * (a.2 * b.2 % p) % p) % p
  ((a.1 * b.2 + a.2 * b.1) % p * invMod (1 + t) p % p, (a.2 * b.2 + a.1 * b.1) % p * invMod (subMod 1 t p) p % p)

def edMulBits (k : Nat) (pt : Nat × Nat) : Nat → Nat × Nat → Nat × Nat
  | 0, acc => acc
  | n + 1, acc =>
    let d := edAdd acc acc
    edMulBits k pt n (if k / 2 ^ n % 2 = 1 then edAdd d pt else d)

def edMul (k : Nat) (pt : Nat × Nat) : Nat × Nat := edMulBits k pt 256 (0, 1)

/-- The x of a y with a sign bit; none when y is not on the curve. -/
def edRecover (y sign : Nat) : Option Nat :=
  let p := p25519
  if y ≥ p then none
  else
    let x2 := subMod (y * y) 1 p * invMod ((edD * (y * y % p) + 1) % p) p % p
    let x := powMod 255 x2 ((p + 3) / 8) p
    let x := if x * x % p = x2 then x else x * powMod 255 2 ((p - 1) / 4) p % p
    if x * x % p ≠ x2 then none
    else if x = 0 ∧ sign = 1 then none
    else some (if x % 2 = sign then x else p - x)

def edBase : Nat × Nat :=
  let y := 4 * invMod 5 p25519 % p25519
  ((edRecover y 0).getD 0, y)

def edEncode (a : Nat × Nat) : Bytes := toLe 32 (a.2 + 2 ^ 255 * (a.1 % 2))

def edDecode (b : Bytes) : Option (Nat × Nat) :=
  let v := leNat b
  match edRecover (v % 2 ^ 255) (v / 2 ^ 255 % 2) with
  | some x => some (x, v % 2 ^ 255)
  | none => none

def edClamp (h : Bytes) : Nat := leNat (h.take 32) % 2 ^ 254 / 8 * 8 + 2 ^ 254

def edPublic (key : Bytes) : Bytes := edEncode (edMul (edClamp (sha512 key)) edBase)

/-- Ed25519 signature (RFC 8032). -/
def edSign (key msg : Bytes) : Bytes :=
  let h := sha512 key
  let a := edClamp h
  let pub := edEncode (edMul a edBase)
  let r := leNat (sha512 (h.drop 32 ++ msg)) % edL
  let rb := edEncode (edMul r edBase)
  let k := leNat (sha512 (rb ++ pub ++ msg)) % edL
  rb ++ toLe 32 ((r + k * a) % edL)

def edVerify (pub sig msg : Bytes) : Bool :=
  match edDecode pub, edDecode (sig.take 32) with
  | some a, some r =>
    let s := leNat (sig.drop 32)
    let k := leNat (sha512 (sig.take 32 ++ pub ++ msg)) % edL
    decide (s < edL) && decide (edMul s edBase = edAdd r (edMul k a))
  | _, _ => false

end Sys2Proof.Machine
end

