-- ==== Sys2Proof/Machine/Codes.lean ====
section
/-! DEFINITION. The Reed and Solomon codes of the part: of a block of external memory (R294) and of a frame (R331). -/

namespace Sys2Proof.Machine

/-! ## Fields of 2^w elements, by their polynomial -/

def gfDouble (w poly a : Nat) : Nat := if a < 2 ^ (w - 1) then 2 * a else Nat.xor (2 * a) poly

/-- Product, over the `n` low bits of the second factor. -/
def gfMulBits (w poly : Nat) : Nat → Nat → Nat → Nat
  | 0, _, _ => 0
  | n + 1, a, b => Nat.xor (if b % 2 = 1 then a else 0) (gfMulBits w poly n (gfDouble w poly a) (b / 2))

def gfMul (w poly a b : Nat) : Nat := gfMulBits w poly w a b

/-- Powers of the primitive element: α^n. -/
def gfAlpha (w poly : Nat) : Nat → Nat
  | 0 => 1
  | n + 1 => gfDouble w poly (gfAlpha w poly n)

/-- The product of (x - α^i) for i below `n`, highest coefficient first. -/
def rsGenerator (w poly : Nat) : Nat → List Nat
  | 0 => [1]
  | n + 1 =>
    let g := rsGenerator w poly n
    ((g ++ [0]).zip (0 :: g)).map fun (c : Nat × Nat) => Nat.xor c.1 (gfMul w poly (gfAlpha w poly n) c.2)

/-- The check symbols of a systematic codeword: the remainder by the generator, highest degree first. -/
def rsCheck (w poly n : Nat) (info : List Nat) : List Nat :=
  let g := (rsGenerator w poly n).drop 1
  info.foldl (fun (r : List Nat) m =>
    let f := Nat.xor m (r.headD 0)
    ((r.drop 1 ++ [0]).zip g).map fun (c : Nat × Nat) => Nat.xor c.1 (gfMul w poly f c.2)) (List.replicate n 0)

/-! ## A block of external memory: RS(81,73) over GF(2^8), polynomial x^8 + x^4 + x^3 + x^2 + 1 (R294) -/

/-- The codeword of a block: data, tag copy, flag byte, check symbols. -/
def blockWord (data : Bytes) (tag : BitVec 64) (poison : Bool) : List Nat :=
  let info := (List.range 64).map (fun i => (data.getD i 0).toNat) ++ (toLe 8 tag.toNat).map (·.toNat) ++ [b2n poison]
  info ++ rsCheck 8 0x11D 8 info

/-- What the decoder finds in a stored codeword: up to four erroneous symbols are corrected. -/
def BlockCode.ecc (x : BlockCode) : Ecc :=
  if 4 < x.errors.length then .uncorrectable
  else if x.poison then .poisoned
  else if x.errors = [] then .clean
  else .correctable

def BlockCode.good : BlockCode := ⟨false, []⟩
/-- Written poisoned: POISON = 1 in a codeword without errors. -/
def BlockCode.bad : BlockCode := ⟨true, []⟩

/-- A symbol list with errors added. -/
def withErrors (l : List Nat) (e : List (Nat × Nat)) : List Nat :=
  l.zipIdx.map fun x => match e.find? fun y => y.1 == x.2 with | some y => Nat.xor x.1 y.2 | none => x.1

/-! ## A frame: RS(544,514) over GF(2^10), polynomial x^10 + x^3 + 1 (R331, log entry 36) -/

def frMul (a b : Nat) : Nat := gfMul 10 0x409 a b
def frAlpha (n : Nat) : Nat := gfAlpha 10 0x409 n

/-- The inverse, a^1022: squares and products over nine bits. -/
def frInv (a : Nat) : Nat :=
  (List.range 9).foldl (fun (x : Nat × Nat) _ => let q := frMul x.1 x.1; (q, frMul x.2 q)) (a, 1) |>.2

/-- Value of a polynomial, coefficients from the lowest degree. -/
def frEval (p : List Nat) (x : Nat) : Nat := p.foldr (fun c v => Nat.xor c (frMul x v)) 0

def frScale (k : Nat) (p : List Nat) : List Nat := p.map (frMul k)

def frAdd (p q : List Nat) : List Nat := (List.range (max p.length q.length)).map fun i => Nat.xor (p.getD i 0) (q.getD i 0)

/-- The error locator of a list of syndromes (Berlekamp and Massey): the polynomial and its length. -/
def locator (syn : List Nat) : List Nat × Nat :=
  let r := (List.range syn.length).foldl (fun (x : List Nat × List Nat × Nat × Nat × Nat) n =>
    let (c, b, l, m, last) := x
    let d := (List.range (l + 1)).foldl (fun v i => Nat.xor v (frMul (c.getD i 0) (if i ≤ n then syn.getD (n - i) 0 else 0))) 0
    if d = 0 then (c, b, l, m + 1, last)
    else
      let c' := frAdd c (frScale (frMul d (frInv last)) (List.replicate m 0 ++ b))
      if 2 * l ≤ n then (c', c, n + 1 - l, 1, d) else (c', b, l, m + 1, last)) ([1], [1], 0, 1, 1)
  (r.1, r.2.2.1)

/-- A codeword corrected: its symbols and how many were wrong; none when more than 15 are. Symbol 0 has degree 543. -/
def rsCorrect (w : List Nat) : Option (List Nat × Nat) :=
  let low := w.reverse
  let syn := (List.range 30).map fun j => frEval low (frAlpha j)
  if syn.all (· == 0) then some (w, 0)
  else
    let lam := locator syn
    -- α has order 1,023
    let inv (pos : Nat) : Nat := frAlpha ((1023 - pos) % 1023)
    let bad := (List.range 544).filter fun pos => frEval lam.1 (inv pos) == 0
    if 15 < lam.2 ∨ bad.length ≠ lam.2 then none
    else
      let omega := (List.range 30).map fun k =>
        (List.range (k + 1)).foldl (fun v i => Nat.xor v (frMul (lam.1.getD i 0) (syn.getD (k - i) 0))) 0
      let diff := (List.range lam.1.length).map fun i => if i % 2 = 0 then lam.1.getD (i + 1) 0 else 0
      let fix (pos : Nat) : Nat := frMul (frAlpha pos) (frMul (frEval omega (inv pos)) (frInv (frEval diff (inv pos))))
      some ((low.zipIdx.map fun c => if bad.contains c.2 then Nat.xor c.1 (fix c.2) else c.1).reverse, bad.length)

end Sys2Proof.Machine
end

