-- ==== Sys2Proof/Machine/Mem.lean ====
section
/-! DEFINITION. External memory as the block uses it: blocks with their ECC state and tag copies (R293 to R310), the
water rights tables (R142 to R146), the turnout walk (R153 to R158). -/

namespace Sys2Proof.Machine

/-! ## Addresses -/

def stackSize : Nat := 0xC00000000
def apertureBase : Nat := 0x6000000000
def pageSize : Nat := 2 ^ 21

/-- The stack of a physical address. -/
def stackOf (p : Nat) : Nat := p / stackSize
/-- A physical address lies in a device region (R142). -/
def inDevice (p : Nat) : Bool := decide (p < apertureBase) && decide (p % stackSize ≥ 0xBFC000000)
/-- A granule lies in a device region. -/
def granuleDevice (g : Nat) : Bool := inDevice (g * pageSize)
/-- The block number of an address within its stack (R293). -/
def blockIn (p : Nat) : Nat := p % stackSize / 64
/-- The channel that holds a physical address (R293). -/
def channelOf (p : Nat) : Nat := Nat.xor (bits (blockIn p) 0 5) (bits (blockIn p) 5 5)

/-! ## Tags of units and ECC of blocks -/

def State.blockTag (s : State) (b : Nat) : BitVec 64 := smGet 0 s.blkTag b
def State.blockCode (s : State) (b : Nat) : BlockCode := smGet .good s.blkCode b
/-- What a read of a block finds. -/
def State.blockEcc (s : State) (b : Nat) : Ecc := (s.blockCode b).ecc
def State.setBlock (s : State) (b : Nat) (tag : BitVec 64) (e : BlockCode) : State :=
  { s with blkTag := smSet 0 s.blkTag b tag, blkCode := smSet .good s.blkCode b e }

/-- The 81 symbols that a stack holds for a block (R294). -/
def State.codeword (s : State) (b : Nat) : List Nat :=
  withErrors (blockWord (s.rdBytes (64 * b) 64) (s.blockTag b) (s.blockCode b).poison) (s.blockCode b).errors

/-- The tag of the unit of a physical address (R295): CLEAR when its two blocks' copies differ. -/
def State.unitTag (s : State) (p : Nat) : BitVec 64 :=
  let b := p / 128 * 2
  if s.blockTag b = s.blockTag (b + 1) then s.blockTag b else 0

/-- The codeword of a block decodes, so that its data or at least its tag copy is valid (R294). -/
def Ecc.decodes : Ecc → Bool
  | .uncorrectable => false
  | _ => true

/-- The data of a block can be used. -/
def Ecc.usable : Ecc → Bool
  | .clean => true
  | .correctable => true
  | _ => false

/-- A correctable-error entry, at most one per core or stack per turn (R475). -/
def State.logCorrected (s : State) (kind idx cause value allot subject origin : Nat) : State :=
  if (kind, idx) ∈ s.corrLogged then s
  else { s.logCause cause value allot subject origin with corrLogged := s.corrLogged ++ [(kind, idx)] }

/-- What a read of a block does beside returning its data: counts, log, rewrite queue, first event (R307, R308).
`of_` is the code of HBM_ECC_FIRST.KIND for a block outside the device regions. -/
def State.readEvent (s : State) (b of_ allot : Nat) : State :=
  let kind := if inDevice (b * 64) then 3 else of_
  let st := b * 64 / stackSize
  let bn := blockIn (b * 64)
  match s.blockEcc b with
  | .clean => s
  | .correctable =>
    let s := (s.bump (F.HBM_ECC_CORRECTED st)).logCorrected 1 st 0x10A bn allot st 0xFFFFFFFF
    let q := smGet [] s.rewriteQ st
    if q.contains b then s
    else if q.length < 64 then { s with rewriteQ := smSet [] s.rewriteQ st (q ++ [b]) }
    else s.bump (F.HBM_ECC_OVERFLOW st)
  | _ =>
    let s := (s.bump (F.HBM_ECC_UNCORRECTABLE st)).logCause 0x10B bn allot st
    if s.on (F.HBM_ECC_FIRST_VALID st) then s
    else ((s.put (F.HBM_ECC_FIRST_BLOCK st) bn).put (F.HBM_ECC_FIRST_KIND st) kind).put (F.HBM_ECC_FIRST_VALID st) 1

/-- The blocks that a range of bytes touches. -/
def blocksOf (p n : Nat) : List Nat :=
  if n = 0 then [] else (List.range ((p + n - 1) / 64 - p / 64 + 1)).map fun i => p / 64 + i

/-- A read for an order or a gatehouse unit: the bytes, whether every block was usable, and the state with the events
of the blocks it touched. -/
def State.readFor (s : State) (p n kind allot : Nat) : Bytes × Bool × State :=
  let bs := blocksOf p n
  (s.rdBytes p n, bs.all (fun b => (s.blockEcc b).usable), bs.foldl (fun s b => s.readEvent b kind allot) s)

/-- Write the bytes of one block, or part of it (R309), with the tag the writer gives the block: whether the write was
refused, and the state. -/
def State.writeBlock (s : State) (p : Nat) (data : Bytes) (tag : BitVec 64) (allot : Nat) : Bool × State :=
  let b := p / 64
  let st := stackOf p
  if data.length = 64 then (false, (s.wrRaw p data).setBlock b tag .good)
  else
    match s.blockEcc b with
    | .clean => (false, (s.wrRaw p data).setBlock b tag .good)
    | .correctable =>
      (false, (((s.bump (F.HBM_ECC_CORRECTED st)).logCorrected 1 st 0x10A (blockIn p) allot st 0xFFFFFFFF).wrRaw p data).setBlock b tag .good)
    | _ =>
      let s := (s.bump (F.HBM_ECC_REFUSED st)).logCause 0x10C (blockIn p) allot st
      (true, if s.on (F.HBM_ECC_FIRST_VALID st) then s
        else ((s.put (F.HBM_ECC_FIRST_BLOCK st) (blockIn p)).put (F.HBM_ECC_FIRST_KIND st) 2).put (F.HBM_ECC_FIRST_VALID st) 1)

/-- The pieces of a byte range, cut at 64-byte boundaries: address, offset in the range, length. -/
def pieces (p n : Nat) : List (Nat × Nat × Nat) :=
  (blocksOf p n).map fun b =>
    let lo := max p (b * 64)
    let hi := min (p + n) (b * 64 + 64)
    (lo, lo - p, hi - lo)

/-- Write bytes block by block with one tag (CLEAR for a host, a BAR2 access and most orders: R274). A refused block
does not stop the others. -/
def State.write (s : State) (p : Nat) (data : Bytes) (tag : BitVec 64) (allot : Nat) : Bool × State :=
  (pieces p data.length).foldl (fun r x =>
    let w := r.2.writeBlock x.1 (slice data x.2.1 x.2.2) tag allot
    (r.1 || w.1, w.2)) (false, s)

/-! ## Water rights -/

def permPlanRead : Nat := 0
def permPlanWrite : Nat := 1
def permHostRead : Nat := 2
def permHostWrite : Nat := 3
def permTable : Nat := 4
def permSealed : Nat := 5
def permIngress : Nat := 6

/-- The permission byte of a granule in a rights table; none when it is not held. -/
def permIn (l : List (Nat × Nat × Nat)) (g : Nat) : Option Nat :=
  match l with
  | [] => none
  | (f, n, p) :: r => if f ≤ g ∧ g < f + n then some p else permIn r g

def State.permOf (s : State) (a g : Nat) : Option Nat := permIn (s.allot a).rights g

/-- The allotment, other than `a`, that holds a granule. -/
def State.heldByOther (s : State) (a g : Nat) : Option Nat :=
  (List.range 16).find? fun x => x != a && (s.permOf x g).isSome

/-- Merge neighbouring ranges of equal permissions. -/
def mergeRanges : List (Nat × Nat × Nat) → List (Nat × Nat × Nat)
  | [] => []
  | (f, n, p) :: r =>
    if n = 0 then mergeRanges r
    else match mergeRanges r with
      | (f2, n2, p2) :: t => if f + n = f2 ∧ p = p2 then (f, n + n2, p) :: t else (f, n, p) :: (f2, n2, p2) :: t
      | [] => [(f, n, p)]

/-- A rights table with `n` granules from `f` set to a permission byte, or revoked. -/
def setRange (l : List (Nat × Nat × Nat)) (f n : Nat) (p : Option Nat) : List (Nat × Nat × Nat) :=
  if n = 0 then l
  else
    let before := l.filterMap fun x => if x.1 < f then some (x.1, min x.2.1 (f - x.1), x.2.2) else none
    let after := l.filterMap fun x =>
      let e := x.1 + x.2.1
      if e > f + n then some (max x.1 (f + n), e - max x.1 (f + n), x.2.2) else none
    mergeRanges (before ++ (match p with | some v => [(f, n, v)] | none => []) ++ after)

/-- The granule waits for its fence or its scrub. -/
def State.scrubWait (s : State) (g : Nat) : Bool :=
  s.fences.any (fun x => decide (x.1 ≤ g) && decide (g < x.1 + x.2.1))
    || s.scrubs.any (fun x => decide (x.1 ≤ g) && decide (g < x.1 + x.2))

/-- Granules that wait for fence or scrub, chip-wide. -/
def State.scrubCount (s : State) : Nat :=
  (s.fences.map fun x => x.2.1).sum + (s.scrubs.map fun x => x.2).sum

def State.noteScrub (s : State) : State := s.put F.ALT_SCRUB_PENDING s.scrubCount

/-! ## Walks -/

def wfNotPresent : Nat := 0x50
def wfOutOfSpace : Nat := 0x51
def wfReserved : Nat := 0x52
def wfTableRight : Nat := 0x53
def wfDevice : Nat := 0x54
def wfForeign : Nat := 0x55
def wfPermission : Nat := 0x56
def wfTableEcc : Nat := 0x57

/-- The permission test of a walk at its end. `ok` says whether a permission byte passes. -/
def State.walkEnd (s : State) (a p : Nat) (ok : Nat → Bool) : Except Nat Nat :=
  let g := p / pageSize
  if p ≥ apertureBase then .error wfDevice
  else if inDevice p then .error wfDevice
  else if (s.heldByOther a g).isSome then .error wfForeign
  else match s.permOf a g with
    | none => .error wfPermission
    | some v => if ok v && !s.scrubWait g then .ok p else .error wfPermission

/-- The levels of a walk: `k` levels left, table at `t` (R153, R154). A table granule whose SEALED bit has changed is refused until
its scrub completes (R148). -/
def State.walkLevels (s : State) (a addr : Nat) : Nat → Nat → Except Nat Nat
  | 0, t => .ok t
  | k + 1, t =>
    if (match s.permOf a (t / pageSize) with | some v => !(bit v permTable) | none => true) || decide (t ≥ apertureBase) then
      .error wfTableRight
    else if s.scrubWait (t / pageSize) then .error wfPermission
    else
      let ea := t + 8 * bits addr (21 + 9 * k) 9
      if !(s.blockEcc (ea / 64)).usable then .error wfTableEcc
      else
        let e := leNat (s.rdBytes ea 8)
        if !(bit e 0) then .error wfNotPresent
        else if bits e 1 11 ≠ 0 ∨ bits e 48 16 ≠ 0 ∨ (k = 0 ∧ bits e 12 9 ≠ 0) then .error wfReserved
        else s.walkLevels a addr k (if k = 0 then bits e 21 27 * pageSize else bits e 12 36 * 4096)

/-- A turnout walk of an allotment address with a root and a level count (R154). -/
def State.walk (s : State) (a root n addr : Nat) (ok : Nat → Bool) : Except Nat Nat :=
  if n = 0 then .error wfNotPresent
  else if addr ≥ 2 ^ (21 + 9 * n) then .error wfOutOfSpace
  else match s.walkLevels a addr n root with
    | .error c => .error c
    | .ok page => s.walkEnd a (page + addr % pageSize) ok

/-- The blocks whose entries a walk reads, level by level up to its first fault. -/
def State.levelBlocks (s : State) (a addr : Nat) : Nat → Nat → List Nat
  | 0, _ => []
  | k + 1, t =>
    if (match s.permOf a (t / pageSize) with | some v => !(bit v permTable) | none => true) || decide (t ≥ apertureBase)
      || s.scrubWait (t / pageSize) then []
    else
      let ea := t + 8 * bits addr (21 + 9 * k) 9
      let e := leNat (s.rdBytes ea 8)
      ea / 64 :: if (s.blockEcc (ea / 64)).usable && bit e 0 && decide (bits e 1 11 = 0) && decide (bits e 48 16 = 0) then
        s.levelBlocks a addr k (bits e 12 36 * 4096) else []

def State.walkBlocks (s : State) (a root n addr : Nat) : List Nat :=
  if n = 0 ∨ addr ≥ 2 ^ (21 + 9 * n) then [] else s.levelBlocks a addr n root

/-- The root and level count in force. -/
def State.turnoutRoot (s : State) (a : Nat) : Nat := s.get (F.ALT_TURNOUT_ROOT a) * 4096
def State.turnoutLevels (s : State) (a : Nat) : Nat := s.get (F.ALT_TURNOUT_LEVELS a)

/-- Walk with the table in force. -/
def State.walkNow (s : State) (a addr : Nat) (ok : Nat → Bool) : Except Nat Nat :=
  s.walk a (s.turnoutRoot a) (s.turnoutLevels a) addr ok

/-- A permission test that asks for one permission bit. -/
def needs (b : Nat) (v : Nat) : Bool := bit v b

/-- The pages a range of allotment addresses touches: first address in the page, offset in the range, length. -/
def pagesOf (addr n : Nat) : List (Nat × Nat × Nat) :=
  if n = 0 then []
  else (List.range ((addr + n - 1) / pageSize - addr / pageSize + 1)).map fun i =>
    let lo := max addr ((addr / pageSize + i) * pageSize)
    let hi := min (addr + n) ((addr / pageSize + i + 1) * pageSize)
    (lo, lo - addr, hi - lo)

/-- Translate a range, page by page: the physical pieces, or the first faulting address with its cause. -/
def State.translateWith (s : State) (a root n : Nat) (ok : Nat → Bool) : List (Nat × Nat × Nat) → Except (Nat × Nat) (List (Nat × Nat × Nat))
  | [] => .ok []
  | (lo, off, len) :: r =>
    match s.walk a root n lo ok with
    | .error c => .error (lo, c)
    | .ok p => match s.translateWith a root n ok r with
      | .error e => .error e
      | .ok l => .ok ((p, off, len) :: l)

/-- What the walks of a range's pages do beside translating: every entry read, up to the first fault, is a read of its block
(R307, R308). -/
def State.readTables (s : State) (a root n : Nat) (ok : Nat → Bool) : List (Nat × Nat × Nat) → State
  | [] => s
  | (lo, _, _) :: r =>
    let t := (s.walkBlocks a root n lo).foldl (fun t b => t.readEvent b 1 a) s
    match s.walk a root n lo ok with
    | .error _ => t
    | .ok _ => t.readTables a root n ok r

/-- The same, with the table in force. -/
def State.readTable (s : State) (a addr n : Nat) (ok : Nat → Bool) : State :=
  s.readTables a (s.turnoutRoot a) (s.turnoutLevels a) ok (pagesOf addr n)

def State.translate (s : State) (a addr n : Nat) (ok : Nat → Bool) : Except (Nat × Nat) (List (Nat × Nat × Nat)) :=
  s.translateWith a (s.turnoutRoot a) (s.turnoutLevels a) ok (pagesOf addr n)

/-- Record a walk fault (R155): the log entry, and the first fault in ALT_WALK_FAULT. `src`: 0 plan load, 1 order,
2 BAR2 read, 3 BAR2 write. -/
def State.walkFault (s : State) (a addr cause src : Nat) : State :=
  let s := s.logCause 0x105 (addr % 2 ^ 48 + cause * 2 ^ 48) a
  if s.on (F.ALT_WALK_FAULT_VALID a) then s
  else (((s.put (F.ALT_WALK_FAULT_ADDR a) addr).put (F.ALT_WALK_FAULT_CAUSE a) cause).put (F.ALT_WALK_FAULT_SOURCE a) src).put (F.ALT_WALK_FAULT_VALID a) 1

/-- The permission test of an order's access (R152, R157): the permission, or a sealed granule reached by a sealed order. -/
def orderMay (sealed : Bool) (b : Nat) (v : Nat) : Bool := bit v b || (bit v permSealed && sealed)

/-- A walk of an order's range: the pieces, or the refusal (SEAL_NEEDED when only the seal is missing). -/
def State.orderWalk (s : State) (o : Ord) (a addr n b : Nat) : Except Why (List (Nat × Nat × Nat)) :=
  match s.translate a addr n (orderMay o.isSealed b) with
  | .ok l => .ok l
  | .error (at_, c) =>
    match s.walkNow a at_ (fun v => bit v permSealed) with
    | .ok _ => if o.isSealed then .error ⟨stWalk, c, at_ / pageSize, 0⟩ else .error (whyRight 0x2A 0)
    | .error _ => .error ⟨stWalk, c, at_ / pageSize, 0⟩

/-- The reads of turnout entries that an order's walk makes. -/
def State.orderTable (s : State) (o : Ord) (a addr n b : Nat) : State := s.readTable a addr n (orderMay o.isSealed b)

/-- An order's read of allotment memory through its pieces. -/
def State.orderRead (s : State) (l : List (Nat × Nat × Nat)) (a : Nat) : Bytes × Bool × State :=
  l.foldl (fun r x =>
    let y := r.2.2.readFor x.1 x.2.2 1 a
    (r.1 ++ y.1, r.2.1 && y.2.1, y.2.2)) ([], true, s)

/-- An order's write of allotment memory through its pieces, with a tag. -/
def State.orderWrite (s : State) (l : List (Nat × Nat × Nat)) (data : Bytes) (tag : BitVec 64) (a : Nat) : Bool × State :=
  l.foldl (fun r x =>
    let w := r.2.write x.1 (slice data x.2.1 x.2.2) tag a
    (r.1 || w.1, w.2)) (false, s)

/-- A walk fault of an order is recorded before its tally: DETAIL holds the address divided by 2 MiB (R157), and the log and
ALT_WALK_FAULT the base of that page (log entry 90). -/
def State.orderFault (s : State) (a : Nat) (w : Why) : State :=
  if w.status = stWalk then s.walkFault a (w.value * pageSize) w.cause 1 else s

/-! ## Pages held as physical by a unit (R361, R388, R399) -/

/-- The page map of a range that translated: allotment page to physical page base, physical page 0 listed like any other. -/
def pageMap (addr : Nat) : List (Nat × Nat × Nat) → SMap Nat → SMap Nat
  | [], m => m
  | (p, off, _) :: r, m => pageMap addr r (smPut m ((addr + off) / pageSize) (p / pageSize * pageSize))

/-- The physical address of an allotment address under a page map. -/
def xl (m : SMap Nat) (addr : Nat) : Nat := smGet 0 m (addr / pageSize) + addr % pageSize

/-- Read `n` bytes at an allotment address through a page map, for a gatehouse unit. -/
def State.readVia (s : State) (m : SMap Nat) (addr n kind allot : Nat) : Bytes × Bool × State :=
  (pagesOf addr n).foldl (fun r x =>
    let y := r.2.2.readFor (xl m x.1) x.2.2 kind allot
    (r.1 ++ y.1, r.2.1 && y.2.1, y.2.2)) ([], true, s)

/-- Write bytes at an allotment address through a page map, with a tag: whether part was refused, and the state. -/
def State.writeVia (s : State) (m : SMap Nat) (addr : Nat) (data : Bytes) (tag : BitVec 64) (allot : Nat) : Bool × State :=
  (pagesOf addr data.length).foldl (fun r x =>
    let w := r.2.write (xl m x.1) (slice data x.2.1 x.2.2) tag allot
    (r.1 || w.1, w.2)) (false, s)

/-- A physical address lies in an allotment range under a page map. -/
def inVia (m : SMap Nat) (addr n p : Nat) : Bool :=
  (pagesOf addr n).any fun x => decide (xl m x.1 ≤ p) && decide (p < xl m x.1 + x.2.2)

/-! ## A block as a plan reads it -/

/-- A block as a plan's read with its first served slot in cycle `t` finds it (R300): writes visible by then are seen; of later ones
the newest that is seen is free, the same on every run (log entry 13). -/
def State.planBlock (s : State) (key : List Nat) (b t : Nat) : OldBlock :=
  let now : OldBlock := ⟨b, s.rdBytes (64 * b) 64, s.blockTag b, s.blockCode b, 0⟩
  let sees (o : OldBlock) : Bool := decide (o.seen_ ≤ t)
    || Config.seesEarly (key ++ [b % 32768, t, o.seen_] ++ (o.data ++ now.data).map (·.toNat))
  ((s.early.reverse.filter fun o => o.blk == b).foldl (fun (acc : OldBlock × Bool) o =>
    if acc.2 || sees o then (acc.1, true) else (o, false)) (now, false)).1

/-- The events of reading a block with the content found (R307, R308). -/
def State.planEvent (s : State) (x : OldBlock) (allot : Nat) : State :=
  let tag := s.blockTag x.blk
  let e := s.blockCode x.blk
  ((s.setBlock x.blk tag x.code).readEvent x.blk 0 allot).setBlock x.blk tag e

def OldBlock.ecc (x : OldBlock) : Ecc := x.code.ecc

end Sys2Proof.Machine
end

