-- ==== Sys2Proof/Machine/Harmless.lean ====
section
/-! DEFINITION. The harmless states (Table 19-4): what a sluice closing on a holder does to its deliveries, camera
ports, vision pipelines, basins, big-number slots, session and I²C transfers; the delivery ledger (R468); who owns a
pin (R501, R508). -/

namespace Sys2Proof.Machine

/-! ## Who owns what -/

/-- Bit `t` of a map of 64-bit words. -/
def State.mapBit (s : State) (f : Nat → Fld) (t : Nat) : Bool := bit (s.get (f (t / 64))) (t % 64)

def State.setMapBit (s : State) (f : Nat → Fld) (t : Nat) (b : Bool) : State :=
  let v := s.get (f (t / 64))
  if bit v (t % 64) = b then s else s.put (f (t / 64)) (if b then v + 2 ^ (t % 64) else v - 2 ^ (t % 64))

def State.tileEnabled (s : State) (t : Nat) : Bool := s.mapBit F.TIL_ENABLE_MAP_MAP t
def State.tileGated (s : State) (t : Nat) : Bool := s.mapBit F.TIL_GATED_MAP_MAP t
def State.tileClosed (s : State) (t : Nat) : Bool := s.mapBit F.SLU_TILE_CLOSED_MAP t
def State.ownsTile (s : State) (a t : Nat) : Bool := s.mapBit (F.ALT_TILE_MAP_MAP a) t
def State.tileOwner (s : State) (t : Nat) : Option Nat := (List.range 16).find? fun a => s.ownsTile a t
def State.tilesOf (s : State) (a : Nat) : List Nat := (List.range 144).filter fun t => s.ownsTile a t
def State.coresOf (s : State) (a : Nat) : List Nat := (s.tilesOf a).flatMap fun t => (List.range 32).map fun i => t * 32 + i
def State.coreOwner (s : State) (c : Nat) : Option Nat := s.tileOwner (c / 32)

def State.altState (s : State) (a : Nat) : Nat := s.get (F.ALT_STATE_STATE a)
def State.isEmpty (s : State) (a : Nat) : Bool := decide (s.altState a = 0)
def State.isSealed (s : State) (a : Nat) : Bool := s.on (F.ALT_STATE_SEALED a)
def State.chipClosed (s : State) : Bool := s.on F.SLU_STATUS_CHIP_CLOSED
def State.sluiceOf (s : State) (a : Nat) : Nat := s.get (F.SLU_ALLOT_STATE a)
/-- The allotment subject is CLOSED or REOPENING. -/
def State.held (s : State) (a : Nat) : Bool := decide (s.sluiceOf a ≠ 0)

/-- An allotment number as ALT or owner fields hold it names an allotment that is closed. -/
def State.ownerClosed (s : State) (o : Nat) : Bool := s.chipClosed || (decide (o < 16) && !s.isEmpty o && s.held o)

/-! ## Deliveries: records (Table 3-5), what they send, the ledger -/

def dvId (r : Bytes) : Nat := fieldAt r 0 2
def dvSealed (r : Bytes) : Bool := bit (fieldAt r 2 1) 0
def dvNotify (r : Bytes) : Bool := bit (fieldAt r 2 1) 1
def dvHold (r : Bytes) : Nat := bits (fieldAt r 3 1) 0 4
def dvTurn (r : Bytes) : Nat := fieldAt r 4 2
def dvStamp (r : Bytes) : Nat := fieldAt r 8 4
def dvSrc (r : Bytes) : Nat := fieldAt r 12 6
def dvLen (r : Bytes) : Nat := fieldAt r 20 4
def dvDest (r : Bytes) : Nat := fieldAt r 24 8

/-- What the free choices of a delivery's reads may depend on: the measurement of its plan and its plan turn. -/
def Delivery.key (d : Delivery) : List Nat := d.meas.map (·.toNat) ++ [d.planTurn]


/-- Unacknowledged entries (R470). -/
def State.unacked (s : State) (a : Nat) : Nat := (s.get (F.SLU_LEDGER_NEXT a) + 2 ^ 32 - s.get (F.SLU_LEDGER_ACK a)) % 2 ^ 32

/-- Write a ledger entry (R468). The book holds 65,536 entries; none that is unacknowledged is overwritten (R470). -/
def State.ledgerPut (s : State) (a : Nat) (e : Ledger) : State :=
  let n := s.get (F.SLU_LEDGER_NEXT a)
  let x := s.allot a
  let l := x.ledger ++ [{ e with seq := n, cycle := s.wck.cycle, turn := s.wck.turn }]
  let s := s.setAllot a { x with ledger := l.drop (l.length - max 65536 (s.unacked a + 1)), ledgerDue := x.ledgerDue || e.notify }
  let s := s.put (F.SLU_LEDGER_NEXT a) (n + 1)
  if e.outcome = 0 then s.bump (F.SLU_LEDGER_COUNTS_DELIVERED a) else s.bump (F.SLU_LEDGER_COUNTS_WITHHELD a)

/-- The ledger entry of a delivery with an outcome (Table 19-5). -/
def Delivery.entry (d : Delivery) (outcome reason bytes : Nat) (margin : Bool) : Ledger :=
  ⟨0, dvId d.rec_, outcome, d.poisoned, dvNotify d.rec_, margin, reason, bytes, 0, 0, d.planTurn, d.meas.take 8⟩

/-- The first `n` bytes of a delivery go to the host, block by block; a block that cannot be read goes as zeros with EP
(R469). -/
def State.sendBlocks (s : State) (a : Nat) (d : Delivery) (n : Nat) : Delivery × State :=
  let fn := s.get (F.ALT_STATE_FUNCTION a)
  (List.range (n / 64)).foldl (fun (acc : Delivery × State) i =>
    let (d, s) := acc
    let b := xl d.pages (dvSrc d.rec_ + 64 * i) / 64
    let x := s.planBlock d.key b s.wck.cycle
    let ok := x.ecc.usable
    let s := s.planEvent x a
    ({ d with poisoned := d.poisoned || !ok },
     s.emit (.hostWrite fn (dvDest d.rec_ + 64 * i) (if ok then x.data else List.replicate 64 0) (!ok)))) (d, s)

/-- Bytes of the oldest delivery that have left by now: host acceptance is not the device's, so a free value of whole blocks below the
length and the 40 bytes a cycle of the host link's delivery capacity (R303; log entry 15). -/
def State.bytesSent (s : State) (d : Delivery) : Nat :=
  let since := if s.wck.turn = d.startTurn then s.wck.cycle - d.startCycle else dvLen d.rec_
  Config.hostTook s.free % (min (dvLen d.rec_ / 64 - 1) (since * 40 / 64) + 1) * 64

/-- R465: every delivery in flight of an allotment stops and is recorded WITHHELD, reason SLUICE. Deliveries go in start-stamp order,
so only the oldest has sent anything (R304). -/
def State.withholdAll (s : State) (a : Nat) : State :=
  let ds := (s.allot a).delivs
  let s := s.setAllot a { s.allot a with delivs := [] }
  ds.zipIdx.foldl (fun s x =>
    let n := if x.2 = 0 then s.bytesSent x.1 else 0
    let r := { s with free := s.free + 1 }.sendBlocks a x.1 n
    r.2.ledgerPut a (r.1.entry 1 3 n false)) s

/-! ## Camera ports (R357, R359, R373) -/

def State.ing (s : State) (p : Nat) : IngPort := smGet IngPort.reset s.ings p
def State.setIng (s : State) (p : Nat) (x : IngPort) : State := { s with ings := smSet IngPort.reset s.ings p x }

/-- The frame a port is receiving: its last frame, while not ended. -/
def IngPort.receiving (x : IngPort) : Option IngFrame :=
  match x.frames.getLast? with
  | some f => if f.ended then none else some f
  | none => none

/-- ING_ENC.BUSY and STAGED: the encryptor computes the oldest staged ciphertext, whose staging buffer stays full until it
is written (log entry 93). -/
def State.noteEnc (s : State) : State :=
  (s.put F.ING_ENC_BUSY (b2n (decide (s.encQ ≠ [])))).put F.ING_ENC_STAGED (min 16 s.encQ.length)

/-- The frame in progress becomes bad (R359): its values are overwritten, its staged ciphertexts dropped. -/
def State.frameBad (s : State) (p cause : Nat) : State :=
  let x := s.ing p
  match x.receiving with
  | none => s
  | some f =>
    let s := s.setIng p { x with frames := x.frames.dropLast, fifo := 0 }
    let s := { s with encQ := s.encQ.filter fun j => !(j.port == p && j.frame == f.id) }
    ((s.noteEnc.bump (F.ING_FRAMES_BAD p)).put (F.ING_PORT_STATE_LAST_BAD p) cause)

/-- Every frame a port has not completed is aborted (Table 14-2). -/
def State.abortFrames (s : State) (p : Nat) : State :=
  let x := s.ing p
  let s := s.setIng p { x with frames := [], fifo := 0 }
  let s := { s with encQ := s.encQ.filter fun j => j.port != p }.noteEnc
  if x.frames = [] then s else (s.bump (F.ING_FRAMES_BAD p) x.frames.length).put (F.ING_PORT_STATE_LAST_BAD p) 7

/-- R373: the port enters HOLD; a frame in progress is bad with cause ABORT. -/
def State.portHold (s : State) (p : Nat) : State :=
  let st := s.get (F.ING_PORT_STATE_STATE p)
  if 1 ≤ st ∧ st ≤ 4 then (s.abortFrames p).put (F.ING_PORT_STATE_STATE p) 5 else s

/-- HOLD ends: SLUICE_REOPEN of the owner has ended DONE (Table 14-2). -/
def State.portRelease (s : State) (p : Nat) : State :=
  if s.get (F.ING_PORT_STATE_STATE p) = 5 then s.put (F.ING_PORT_STATE_STATE p) 1 else s

/-- A port returns to OFF: binding, configuration and key slots cleared (Table 14-2). -/
def State.portOff (s : State) (p : Nat) : State :=
  let s := (s.abortFrames p).setIng p IngPort.reset
  let s := ((s.put (F.ING_PORT_STATE_STATE p) 0).put (F.ING_PORT_STATE_ALLOT p) 31).put (F.ING_PORT_STATE_ACTIVE_KEY p) 0
  let s := (s.put (F.ING_PORT_STATE_VALID p) 0).put (F.ING_PORT_STATE_NEXT_BUF p) 0
  (s.setReg (0xC0120 + 0x80 * p) 0).setReg (0xC0128 + 0x80 * p) 0

/-! ## Vision and basins -/

def State.vis (s : State) (p : Nat) : Vis := smGet Vis.reset s.viss p
def State.setVis (s : State) (p : Nat) (x : Vis) : State := { s with viss := smSet Vis.reset s.viss p x }
def State.basin (s : State) (b : Nat) : Basin := smGet Basin.reset s.basins b
def State.setBasin (s : State) (b : Nat) (x : Basin) : State := { s with basins := smSet Basin.reset s.basins b x }

/-- R391: the run ends at once with FAILED_SLUICE; the pipeline stays held. -/
def State.visSluice (s : State) (p cause : Nat) : State :=
  match (s.vis p).run with
  | none => s
  | some r =>
    let s := s.setVis p { s.vis p with run := none }
    let s := (s.put (F.VIS_STATE_STATE p) 1).put (F.VIS_STATE_BUSY p) 0
    s.finish r.ord stSluice r.frame (openCause cause)

/-- R412: the run ends at once with FAILED_SLUICE; problem and hold stay. A load check under way is dropped. -/
def State.bsnSluice (s : State) (b cause : Nat) : State :=
  let x := s.basin b
  let s := match x.run with
    | some r => s.finish r.ord stSluice r.sweep (openCause cause)
    | none => s
  if x.run.isSome || x.loading.isSome then
    (s.setBasin b { x with run := none, loading := none }).put (F.BSN_STATE_STATE b) 1
  else s

/-! ## Big-number slots and sessions -/

/-- The owner code of BNE_SLOT and BNE_STATE: an allotment, or 0x1F for the device. -/
def ownerCode (allot : Nat) : Nat := if allot = 255 then 31 else allot

def State.slotOn (s : State) (i : Nat) : Bool := s.on (F.BNE_SLOT_DEFINED i)
def State.slotOwner (s : State) (i : Nat) : Nat := s.get (F.BNE_SLOT_OWNER i)
def State.slotWords (s : State) (i : Nat) : Nat := s.get (F.BNE_SLOT_WORDS i)
def State.slotVal (s : State) (i : Nat) : Nat := smGet 0 s.slotMem i
def State.setSlot (s : State) (i v : Nat) : State := { s with slotMem := smSet 0 s.slotMem i (v % 2 ^ (64 * s.slotWords i)) }

/-- Zero and undefine a slot (R432, R433). -/
def State.undefineSlot (s : State) (i : Nat) : State :=
  if s.slotOn i then
    let w := s.slotWords i
    let s := { s with slotMem := smSet 0 s.slotMem i 0 }
    (((s.put (F.BNE_SLOT_DEFINED i) 0).put (F.BNE_SLOT_OWNER i) 0).put (F.BNE_SLOT_WORDS i) 0).put F.BNE_STATE_FREE (s.get F.BNE_STATE_FREE + w)
  else s

/-- Clear the slots of an owner. -/
def State.clearSlots (s : State) (p : Nat → Bool) : State :=
  (List.range 256).foldl (fun s i => if s.slotOn i && p (s.slotOwner i) then s.undefineSlot i else s) s

/-- The engine is idle. -/
def State.bneIdle (s : State) : State := ({ s with bne := none }.put F.BNE_STATE_BUSY 0).put F.BNE_STATE_ALLOT 0x1E

/-- R438: an executing operation of an owner stops; D is not written. -/
def State.bneStop (s : State) (p : Nat → Bool) (cause : Nat) : State :=
  let s := match s.bne with
    | some j => if p (ownerCode j.ord.allot) then s.bneIdle.finish j.ord stSluice 0 (openCause cause) else s
    | none => s
  match s.sym with
  | some j => if p (ownerCode j.ord.allot) then { s with sym := none }.finish j.ord stSluice 0 (openCause cause) else s
  | none => s

/-- A session ends (R445). -/
def State.endSession (s : State) (a : Nat) : State :=
  (s.setAllot a { s.allot a with session := none }).put (F.SEC_SESSION_ACTIVE a) 0 |>.put (F.SEC_SESSION_SESSION_ID a) 0

/-! ## I²C -/

def State.i2c (s : State) (b : Nat) : I2cBus := smGet I2cBus.reset s.i2cs b
def State.setI2c (s : State) (b : Nat) (x : I2cBus) : State :=
  let s := { s with i2cs := smSet I2cBus.reset s.i2cs b x }
  if b = 0 then s else s.put (F.MGT_CCI_BUSY (b - 1)) (b2n (x.ord.isSome && x.started))

/-- R519: the transfer of a bus whose owner closes ends. -/
def State.i2cSluice (s : State) (b cause : Nat) : State :=
  match (s.i2c b).ord with
  | some o => (s.setI2c b I2cBus.reset).finish o stSluice 0 (openCause cause)
  | none => s

/-! ## Pins (R501, R508, R509) -/

def State.pinRec (s : State) (n : Nat) : Nat := smGet 0 s.pinRecs n
def State.pinSafe (s : State) (n : Nat) : Nat := bits (s.pinRec n) 32 2

/-- The camera bus of pins 8 to 15. -/
def pinBus (n : Nat) : Nat := (n - 8) / 2

/-- The function in force: 0 GPIO, 1 ING_PWR_EN, 2 camera bus, 3 TURN_STROBE, 4 GAUGE. A strobe that is disabled keeps its pin until its
pulse in progress completes (R511). -/
def State.pinFunc (s : State) (n : Nat) : Nat :=
  if n < 8 then (if s.get (F.ING_PORT_STATE_STATE n) ≠ 0 then 1 else 0)
  else if n < 16 then
    if s.on (F.MGT_CCI_ENABLE (pinBus n)) then 2
    else if 14 ≤ n ∧ (bit (smGet 0 s.strobes (n - 14)) 48 ∨ s.strobeHigh.any (·.1 == n - 14)) then 3 else 0
  else if 40 ≤ n ∧ bit (s.pinRec n) 2 then 4 else 0

/-- The owner of a pin: an allotment, or 0x1F. -/
def State.pinOwner (s : State) (n : Nat) : Nat :=
  match s.pinFunc n with
  | 1 => s.get (F.ING_PORT_STATE_ALLOT n)
  | 2 => s.get (F.MGT_CCI_OWNER (pinBus n))
  | 3 => 31
  | _ => bits (s.pinRec n) 40 5

/-- The pin is held at its safe level. -/
def State.pinHeld (s : State) (n : Nat) : Bool := s.ownerClosed (s.pinOwner n)

/-- The drive of a pin: 0 drives 0, 1 drives 1, 2 high impedance, 3 weak pull-down, 4 weak pull-up. At LEVEL 0 a pin is open-drain
whatever drives it (Table 22-3). -/
def State.pinDrive (s : State) (n : Nat) : Nat :=
  let r := s.pinRec n
  let released := match bits r 3 2 with | 1 => 3 | 2 => 4 | _ => 2
  let high (openDrain : Bool) : Nat := if openDrain || bits r 5 2 == 0 then released else 1
  let level (b openDrain : Bool) : Nat := if b then high openDrain else 0
  let inv (b : Bool) : Bool := b != bit r 8
  let safe := match s.pinSafe n with | 0 => 3 | 1 => 0 | 2 => high false | _ => 2
  if s.perst ∧ s.jtagIr = 5 then 2
  else if s.perst ∧ (s.jtagIr = 3 ∨ s.jtagIr = 4) then level (bit s.boundary n) false
  else if s.get F.PWR_STATUS_PHASE ≠ 4 then 3
  else if s.pinHeld n then safe
  else match s.pinFunc n with
    | 1 => if s.get (F.ING_PORT_STATE_STATE n) = 5 then safe else level (inv true) (bit r 1)
    | 2 => released
    | 3 => level (s.strobeHigh.any (·.1 == n - 14)) (bit r 1)
    | 4 => 2
    | _ => if bit r 0 then level (inv (bit (s.get F.GPIO_OUT_OUT) n)) (bit r 1) else released

/-- The drive of the outputs that are no GPIO pins, by their boundary cell (log entry 23): 0 drives 0, 1 drives 1, 2 releases. PPS_OUT
(cell 51) is push-pull; SLUICE_N (67), ALERT_N (68) and THERM_TRIP_N (69) are open-drain and asserted at 0 (R527, R540). -/
def State.outDrive (s : State) (cell : Nat) : Nat :=
  if s.tripped ∧ (cell = 67 ∨ cell = 69) then 0
  else if s.perst ∧ s.jtagIr = 5 then 2
  else if s.perst ∧ (s.jtagIr = 3 ∨ s.jtagIr = 4) then (if !bit s.boundary cell then 0 else if cell = 51 then 1 else 2)
  else match cell with
    | 51 => b2n s.ppsHigh
    | 67 => if s.chipClosed then 0 else 2
    | 68 => if s.on F.SLU_STATUS_ALERT then 0 else 2
    | _ => 2

/-! ## Together -/

/-- PPS_OUT is low (R428). -/
def State.ppsLow (s : State) : State := if s.ppsHigh then { s with ppsHigh := false }.emit (.ppsOut false 0) else s

/-- The units an allotment holds take their harmless states. -/
def State.harmless (s : State) (a cause : Nat) : State :=
  let s := s.withholdAll a
  let s := (List.range 8).foldl (fun s p => if s.get (F.ING_PORT_STATE_ALLOT p) = a then s.portHold p else s) s
  let s := (List.range 4).foldl (fun s p => if s.get (F.VIS_STATE_ALLOT p) = a then s.visSluice p cause else s) s
  let s := (List.range 2).foldl (fun s b => if s.get (F.BSN_STATE_ALLOT b) = a then s.bsnSluice b cause else s) s
  let s := (s.bneStop (fun o => o == a) cause).clearSlots (fun o => o == a)
  let s := s.endSession a
  (List.range 4).foldl (fun s k => if s.get (F.MGT_CCI_OWNER k) = a then s.i2cSluice (k + 1) cause else s) s

/-- The same for the whole chip, beside what its allotments do. -/
def State.harmlessChip (s : State) (cause : Nat) : State :=
  let s := (List.range 8).foldl (fun s p => s.portHold p) s
  let s := (List.range 4).foldl (fun s p => s.visSluice p cause) s
  let s := (List.range 2).foldl (fun s b => s.bsnSluice b cause) s
  let s := (s.bneStop (fun _ => true) cause).clearSlots (fun _ => true)
  let s := (List.range 5).foldl (fun s b => s.i2cSluice b cause) s
  s.ppsLow

end Sys2Proof.Machine
end

