-- ==== Sys2Proof/Machine/Links.lean ====
section
/-! DEFINITION. Plan sections and the LINKS records of a plan (Table 13-8); flits (Tables 13-4 and 13-5), frames as they are sent (R331) and the harmless
state of the aqueducts (R350). -/

namespace Sys2Proof.Machine

/-- The bytes of a section of a plan (Table 7-4). -/
def Plan.sec (p : Plan) (ty : Nat) : Bytes :=
  match p.secs.find? fun x => x.1 == ty with
  | some x => x.2.2
  | none => []

/-- Cut a byte string into records of a size. -/
def recs (size : Nat) (b : Bytes) : List Bytes := (List.range (b.length / size)).map fun i => slice b (i * size) size

/-- The loaded plans of an allotment: active and standby. -/
def Allot.plans (x : Allot) : List Plan := x.active.toList ++ x.standby.toList

/-! ## LINKS records -/

def Plan.links (p : Plan) : List Bytes := recs 32 (p.sec 7)
def lkKind (r : Bytes) : Nat := bits (fieldAt r 0 1) 0 2
def lkEvery (r : Bytes) : Bool := bit (fieldAt r 0 1) 2
def lkDir (r : Bytes) : Nat := bits (fieldAt r 0 1) 3 1
def lkPort (r : Bytes) : Nat := bits (fieldAt r 1 1) 0 4
def lkShare (r : Bytes) : Nat := bits (fieldAt r 1 1) 4 4
def lkTurn (r : Bytes) : Nat := fieldAt r 2 2
def lkExch (r : Bytes) : Nat := fieldAt r 4 2
def lkPeer (r : Bytes) : Nat := bits (fieldAt r 6 2) 0 9
def lkA (r : Bytes) : Nat := fieldAt r 8 4
def lkB (r : Bytes) : Nat := fieldAt r 12 4
def lkChannel (r : Bytes) : Nat := bits (fieldAt r 16 1) 0 4
def lkSlot (r : Bytes) : Nat := bits (fieldAt r 17 1) 0 6
def lkCore (r : Bytes) : Nat := bits (fieldAt r 18 2) 0 13
def lkLines (r : Bytes) : Nat := fieldAt r 20 2
/-- The record applies in a plan turn. -/
def lkApplies (r : Bytes) (j : Nat) : Bool := lkEvery r || lkTurn r == j

/-- A port is named by a LINKS record of a loaded plan. -/
def State.portUsers (s : State) (p : Nat) : List Nat :=
  (List.range 16).filter fun a => (s.allot a).plans.any fun x => x.links.any fun r => lkPort r == p

/-! ## Flits -/

/-- A flit: header, body, CRC (R333). `b1` is byte 1. -/
def mkFlit (kind b1 exch base src dst : Nat) (body : Bytes) : Bytes :=
  let h := toLe 1 kind ++ toLe 1 b1 ++ toLe 2 exch ++ toLe 4 base ++ toLe 2 src ++ toLe 2 dst
  let body := padTo 240 body
  h ++ toLe 4 (crc32c (h ++ [0, 0, 0, 0] ++ body)) ++ body

/-- The CRC of a received flit holds. -/
def flitOk (f : Bytes) : Bool :=
  f.length == 256 && fieldAt f 12 4 == crc32c (slice f 0 12 ++ [0, 0, 0, 0] ++ slice f 16 240)

/-! ## Frames as sent (R331) -/

def State.aqd (s : State) (p : Nat) : AqdPort := smGet AqdPort.reset s.aqds p
def State.setAqd (s : State) (p : Nat) (x : AqdPort) : State := { s with aqds := smSet AqdPort.reset s.aqds p x }

/-- The body of a frame: FRAME_SEQ, the sender's chip id, ten flits. -/
def frameBits (seq chip : Nat) (flits : List Bytes) : Nat := leNat (toLe 2 seq ++ toLe 2 chip ++ List.replicate 6 0 ++ flits.flatten)

/-- The scrambler x^58 + x^39 + 1 over `n` steps of at most 39 bits from bit `at_` of a body: the last 58 bits sent before it, the
bits sent. -/
def scrambleFrom (body : Nat) : Nat → Nat → Nat → Nat → Nat × Nat
  | 0, _, last, out => (last, out)
  | n + 1, at_, last, out =>
    let k := min 39 (20560 - at_)
    let y := Nat.xor (bits body at_ k) (Nat.xor (bits last 19 k) (bits last 0 k))
    scrambleFrom body n (at_ + k) ((last + 2 ^ 58 * y) / 2 ^ k) (out + 2 ^ at_ * y)

/-- A body scrambled after the 58 bits `last`: the last 58 bits it ends with, and its bits. -/
def scramble (last body : Nat) : Nat × Nat := scrambleFrom body 528 0 last 0

/-- A scrambled body as four codewords, each in its lane's 680 bytes. -/
def frameCode (body : Nat) : Bytes :=
  (List.range 4).flatMap fun c =>
    let info := (List.range 514).map fun k => bits body (10 * (4 * k + c)) 10
    toLe 680 ((info ++ rsCheck 10 0x409 30 info).foldr (fun x v => x + 1024 * v) 0)

/-- A flit that a port sends, with the ids of both ends. -/
def State.flitOn (s : State) (p kind b1 exch base : Nat) (body : Bytes) : Bytes :=
  mkFlit kind b1 exch base (s.get F.AQD_CHIP_ID) (s.get (F.AQD_PEER_PEER_ID p)) body

/-- IDLE, with CHIP_SLUICED under a chip sluice. -/
def State.idleFlit (s : State) (p : Nat) : Bytes := s.flitOn p 0 (8 * b2n s.chipClosed) 0 0 []

/-- The next frame of a port, `gap` frames without a flit of this model after the one before it, and the bits `last` sent before. -/
def State.sendFrame (s : State) (p gap last : Nat) (flits : List Bytes) : State :=
  let x := s.aqd p
  let seq := (x.txSeq + 1 + gap) % 2 ^ 16
  let y := scramble last (frameBits seq (s.get F.AQD_CHIP_ID) (flits ++ List.replicate (10 - flits.length) (s.idleFlit p)))
  (s.setAqd p { x with txSeq := seq, txLast := y.1 }).emit (.frame p (frameCode y.2))

/-- The frames that flits fill, ten in each. -/
def State.sendFull (s : State) (p : Nat) : List (List Bytes) → State
  | [] => s
  | l :: r => (s.sendFrame p 0 (s.aqd p).txLast l).sendFull p r

/-- Flits leave on a port in consecutive frames, IDLE flits in the places left. How many frames of IDLE flits went before is a matter
of timing: that number and, after it, the scrambler's state are free (log entry 84). Under a chip sluice only IDLE flits with
CHIP_SLUICED = 1 leave (R350). -/
def State.sendFlits (s : State) (p : Nat) (l : List Bytes) : State :=
  let l := if s.chipClosed then [] else l
  let gap := Config.anyNat s.free
  let last := if gap = 0 then (s.aqd p).txLast else Config.anyNat (s.free + 1) % 2 ^ 58
  let s := { s with free := s.free + 2 }
  (s.sendFrame p gap last (l.take 10)).sendFull p ((List.range (cdiv (l.length - 10) 10)).map fun i => (l.drop (10 + 10 * i)).take 10)

/-- The body of a SLUICE flit that lists exchange ids. -/
def sluiceBody (ids : List Nat) : Bytes := toLe 1 1 ++ toLe 1 ids.length ++ List.replicate 14 0 ++ ids.flatMap (toLe 2 ·)

/-- The SLUICE flits of an allotment (R350): on each UP port that carries a SEND record of a loaded plan, as many as its ids fill. -/
def State.aqdSluice (s : State) (a : Nat) : State :=
  (List.range 12).foldl (fun s p =>
    let ids := (((s.allot a).plans.flatMap fun x => x.links.filter fun r => lkKind r == 1 && lkPort r == p).map lkExch).dedup
    if ids ≠ [] ∧ s.get (F.AQD_PORT_STATE_STATE p) = 4 then
      s.sendFlits p ((List.range (cdiv ids.length 112)).map fun i => s.flitOn p 4 0 0 0 (sluiceBody ((ids.drop (112 * i)).take 112)))
    else s) s

/-- Every UP port sends an IDLE flit with CHIP_SLUICED = 1 (R350). -/
def State.aqdChipSluice (s : State) : State :=
  (List.range 12).foldl (fun s p => if s.get (F.AQD_PORT_STATE_STATE p) = 4 then s.sendFlits p [] else s) s

end Sys2Proof.Machine
end

