-- ==== Sys2Proof/Machine/Units.lean ====
section
/-! DEFINITION. The working units (R21 to R23, R481, R491, R544), the ramps of their switches, and the self-tests that hold them
out of work (R497). -/

namespace Sys2Proof.Machine

/-! ## Working units (R21 to R23, R544) -/

def State.working (s : State) (u : Nat) : Bool := s.mapBit F.PWR_WORKING_MAP u
def State.setWorking (s : State) (u : Nat) (b : Bool) : State := s.setMapBit F.PWR_WORKING_MAP u b

/-- The first of a list of units that is not working. -/
def State.firstMissing (s : State) (l : List Nat) : Option Nat := l.find? fun u => !s.working u

/-- Working tiles of a die (0 North, 1 South). -/
def State.dieTiles (s : State) (d : Nat) : Nat := ((List.range 72).filter fun i => s.working (72 * d + i)).length

/-- A die with eight working tiles and its fabric. -/
def State.dieServes (s : State) (d : Nat) : Bool := decide (8 ≤ s.dieTiles d) && s.working (168 + d)

/-- The first missing member of the minimal service set (R23). -/
def State.missingMinimal (s : State) : Option Nat :=
  match s.firstMissing [263, 256, 257, 258] with
  | some u => some u
  | none =>
    if !((List.range 8).any fun i => s.working (144 + i)) then some 144
    else if !(s.dieServes 0 || s.dieServes 1) then
      let d := if s.dieTiles 0 < s.dieTiles 1 then 1 else 0
      if !s.working (168 + d) then some (168 + d)
      else some (((List.range 72).find? fun i => s.tileEnabled (72 * d + i) && !s.working (72 * d + i)).getD 0 + 72 * d)
    else if !s.working 259 then some 259 else none

/-! ## Joining and leaving -/

/-- PWR_STATUS.MINIMAL follows the working units (R495). -/
def State.noteMinimal (s : State) : State :=
  s.put F.PWR_STATUS_MINIMAL (b2n (s.missingMinimal.isNone && decide (s.get F.PWR_STATUS_PHASE = 4)))

/-- The fused public key: x in words 0 to 5, y in words 6 to 11. -/
def State.idPub (s : State) : Nat × Nat :=
  let w (i : Nat) : Nat := s.get (F.SEC_ID_PUB_WORD i)
  let v (k : Nat) : Nat := ((List.range 6).map fun i => w (k + i) * 2 ^ (64 * i)).sum
  (v 0, v 6)

/-- R443: the public key computed from the private key is the fused one. -/
def State.identityOk (s : State) : Bool := decide (ecMul curveP384 s.idKey (some (curveP384.gx, curveP384.gy)) = some s.idPub)

/-- A unit joins the working units; unit 200 with its identity, verified or not (R491; after a self-test: log entry 104). -/
def State.unitUp (s : State) (u : Nat) : State :=
  let s := (s.setWorking u true).noteMinimal
  if u = 200 then s.put F.PWR_STATUS_ID_VERIFIED (b2n s.identityOk) else s

/-- A unit leaves the working units; while unit 200 is not working, ID_VERIFIED is 0 (R491). -/
def State.unitDown (s : State) (u : Nat) : State :=
  let s := (s.setWorking u false).noteMinimal
  if u = 200 then s.put F.PWR_STATUS_ID_VERIFIED 0 else s

def State.powered (s : State) (u : Nat) : Bool := decide (200 < u) || s.mapBit F.PWR_ON_MAP_MAP u

/-- A unit is under self-test: of the run under way, or of one that waits for it (R497). -/
def State.underTest (s : State) (u : Nat) : Bool := (s.test.toList ++ s.testsWaiting).any fun t => t.units.contains u

/-! ## Ramps -/

/-- The ramp of a unit at a stage. -/
def State.rampOf (s : State) (u stage : Nat) : Option Ramp := s.ramps.find? fun r => r.unit == u && r.stage == stage
/-- The ramps of a unit in a direction: those of the orders that share one switch. -/
def Ramp.isOf (r : Ramp) (u : Nat) (on : Bool) : Bool := r.unit == u && r.on == on
def State.dropRamp (s : State) (u : Nat) (on : Bool) : State := { s with ramps := s.ramps.filter fun r => !r.isOf u on }
def State.setRamp (s : State) (u : Nat) (on : Bool) (stage : Nat) : State :=
  { s with ramps := s.ramps.map fun r => if r.isOf u on then { r with stage := stage } else r }
/-- The orders that a switch of a unit serves. -/
def State.rampOrds (s : State) (u : Nat) (on : Bool) : List Ord := (s.ramps.filter fun r => r.isOf u on).filterMap (·.ord)

/-- A switch on is complete: the unit joins the working units, unless a self-test of it still decides (R497). -/
def State.switchDone (s : State) (u : Nat) : State :=
  if s.underTest u then s.setRamp u true 4
  else
    let l := s.rampOrds u true
    l.foldl (fun s o => s.done o) ((s.unitUp u).dropRamp u true)

/-- A unit that has passed its test joins the working units when it is powered and trained and no switch of it is under way (R481). -/
def State.mayWork (s : State) (u : Nat) : Bool :=
  s.powered u && (decide (u < 144) || decide (152 ≤ u) || s.on (F.PWR_TRAIN_PASS (u - 144))) && !(s.ramps.any fun r => r.unit == u)

/-- A unit whose self-test is over, or will not take place, works again, unless another run holds it; a switch on that waited for it is
complete. -/
def State.unitBack (s : State) (u : Nat) : State :=
  if 200 < u ∨ s.underTest u ∨ s.failedUnits.contains u then s
  else if (s.rampOf u 4).isSome then s.switchDone u
  else if s.mayWork u then s.unitUp u
  else s

/-- A self-test that waits does not take place: its order has ended. -/
def State.leaveTest (s : State) (o : Ord) : State :=
  let l := s.testsWaiting.filter fun t => t.ord.id == o.id
  let s := { s with testsWaiting := s.testsWaiting.filter fun t => t.ord.id != o.id }
  l.foldl (fun s t => t.units.foldl State.unitBack s) s

end Sys2Proof.Machine
end

