-- ==== Sys2Proof/Machine/Sluice.lean ====
section
/-! DEFINITION. Doubts and sluices (chapter 19): the doubt catalogue, escalation, the closing of a subject, the final
tallies it decides, the ledger-full doubt. -/

namespace Sys2Proof.Machine

/-! ## The doubt catalogue (Table 19-1) -/

def cCtrlEcc : Nat := 0xF7
def cTime : Nat := 0xF8
def cVoltage : Nat := 0xF9
def cTemperature : Nat := 0xFA
def cClock : Nat := 0xFB
def cWalker : Nat := 0xFC
def cOrderCrc : Nat := 0xFD
def cFuse : Nat := 0xFE
def cLedgerFull : Nat := 0xFF
def cPk : Nat := 0xEB
def cLink : Nat := 0xB6

/-- The status a doubt's cause sets. -/
def statusOf (cause : Nat) : Nat :=
  if cause ≤ 0x0C then stContract
  else if 0x90 ≤ cause ∧ cause ≤ 0x9B then stLevel
  else if cause = cLink then stLink
  else if cause = cTime then stTime
  else if cause = cPk then stPk
  else if cause = cCtrlEcc then stEcc
  else stSluice

/-- The rank of a status (R454). -/
def rankOf (status : Nat) : Nat :=
  ([stContract, stLevel, stLink, stTime, stPk, stSluice, stEcc].findIdx? (· == status)).getD 7

/-- A doubt: its cause, the command it was found at, what its log entry names. -/
structure Doubt where
  cause : Nat
  index : Nat := 0xFFFFFFFF
  core : Nat := 0xFFFF
  subject : Nat := 0xFFFF
  value : Nat := 0xFFFFFFFF
  queue : Nat := 0xFF
  deriving DecidableEq, Repr

/-- A doubt outranks a recorded one (R454): status, then code, then core. -/
def Doubt.outranks (d : Doubt) (c : Closed) : Bool :=
  let a := rankOf (statusOf d.cause)
  let b := rankOf (statusOf c.cause)
  decide (a < b) || (a == b && (decide (d.cause < c.cause) || (d.cause == c.cause && decide (d.core < c.core))))

/-! ## Recording -/

/-- The record of a subject that is closed. -/
def State.closedRec (s : State) (scope subj : Nat) : Option Closed :=
  s.closed.find? fun c => c.scope == scope && c.subj == subj

/-- DETAIL of a SLUICE_NOTICE (R467); only a core or a tile has a number. -/
def noticeDetail (scope cause allot subj : Nat) : Nat :=
  scope + 256 * cause + 65536 * allot + 2 ^ 32 * (if scope ≤ 1 then subj else 0xFFFF)

/-- The SLUICE_NOTICE of a closing (R467). -/
def State.closeNotice (s : State) (scope cause allot subj : Nat) : State :=
  let d := noticeDetail scope cause allot subj
  { s.notice 0x0CF1 d allot with lastSluice := d }.put F.SLU_STATUS_ALERT 1

/-- The log entry of a doubt: `closes` when it closed the subject's sluice. -/
def State.doubtLog (s : State) (d : Doubt) (allot scope : Nat) (closes : Bool) : State :=
  s.logEntry ⟨0, 0, 0, allot, if closes then scope else 0, closes, false, d.cause, d.subject, d.index, d.value⟩

/-- A sluice closes on a subject: recorded. -/
def State.markClosed (s : State) (scope subj : Nat) (d : Doubt) : State :=
  { s with closed := s.closed ++ [⟨scope, subj, d.cause, d.index, d.core, d.queue, s.wck.turn, s.wck.cycle⟩] }

/-- Its log entry and its notice, after what the closing ended (Table 19-9). -/
def State.announce (s : State) (scope subj allot : Nat) (d : Doubt) : State :=
  (s.doubtLog d allot scope true).closeNotice scope d.cause allot subj

/-- A subject opens: its record is dropped. -/
def State.markOpen (s : State) (scope subj : Nat) : State :=
  { s with closed := s.closed.filter fun c => !(c.scope == scope && c.subj == subj) }

/-- Tallies produced in the detection cycle that name the recorded doubt name the higher-ranked one (R454). -/
def amendTally (c : Closed) (d : Doubt) (a : Nat) (t : Tally) : Tally :=
  if t.turn = c.turn ∧ t.cycle = c.cycle ∧ (c.scope = 3 ∨ t.allot = a) then
    if t.notice ∧ t.op = 0x0CF1 ∧ t.detail = noticeDetail c.scope c.cause a c.subj then
      { t with detail := noticeDetail c.scope d.cause a c.subj }
    else if t.op = 0x0201 ∧ t.status = statusOf c.cause ∧ bits t.detail 32 8 = c.cause then
      { t with status := statusOf d.cause, detail := planDetail d.cause d.index d.core }
    else if t.status = stSluice ∧ bits t.detail 32 8 = c.cause then { t with detail := openCause d.cause }
    else t
  else t

/-- A doubt that reaches a closed subject in the cycle it closed: the higher-ranked cause is recorded, and its notice carries it (R454,
R84, R467); ALERT_CAUSE shows that notice if it is the last (Table 21-6). -/
def State.amend (s : State) (scope subj a : Nat) (d : Doubt) : State :=
  match s.closedRec scope subj with
  | none => s
  | some c =>
    if c.turn = s.wck.turn ∧ c.cycle = s.wck.cycle ∧ d.outranks c then
      let s := { s with
        closed := s.closed.map fun x => if x.scope == scope && x.subj == subj then
          { x with cause := d.cause, index := d.index, core := d.core, queue := d.queue } else x
        queues := s.queues.map fun q => (q.1, { q.2 with out := q.2.out.map (amendTally c d a) })
        lastSluice := if s.lastSluice = noticeDetail scope c.cause a subj then noticeDetail scope d.cause a subj else s.lastSluice }
      if scope = 2 then s.put (F.SLU_ALLOT_CAUSE subj) d.cause
      else if scope = 3 then s.put F.SLU_STATUS_CHIP_CAUSE d.cause else s
    else s

/-! ## Discarding what has not taken effect (R128, R455) -/

/-- Once cycle 0 of its fallow turn has passed, a domain switch has taken effect (R483). -/
def State.switchesBegun (s : State) : State :=
  if s.wck.cycle = 0 ∨ ¬ s.wck.isFallow then s
  else s.fallowDue.foldl (fun s x => match x.change with
    | .power _ _ => if x.turn = s.wck.turn then s.took x.ord else s
    | _ => s) s

/-- Orders in flight that satisfy `p` and have not taken effect end FAILED_SLUICE; what they staged is discarded. -/
def State.discard (s : State) (p : Ord → Bool) (cause : Nat) : State :=
  let s := s.switchesBegun
  let late (o : Ord) : Bool := p o && (s.inflight.any fun x => x.id == o.id && !x.took)
  let s := (s.waiting.filter late).foldl State.leaveTest s
  let s := { s with
    staged := s.staged.filter fun x => !late x.ord
    fallowDue := s.fallowDue.filter fun x => !late x.ord
    waiting := s.waiting.filter fun o => !late o
    gau := s.gau.filter fun j => !late j.ord
    gnss := { s.gnss with wait := s.gnss.wait.filter fun x => !late x.1 } }
  (s.inflight.filter fun o => !o.took && p o).foldl (fun s o => s.finish o stSluice 0 (openCause cause)) s

/-- A SLUICE_REOPEN of a subject ends FAILED_SLUICE (Table 19-3). -/
def State.failReopen (s : State) (p : Reopen → Bool) (cause : Nat) : State :=
  let l := s.reopens.filter p
  let s := { s with reopens := s.reopens.filter fun r => !p r }
  l.foldl (fun s r => s.finish r.ord stSluice 0 (openCause cause)) s

/-! ## Closing -/

/-- R464: the final tally of every SCHED_ARM of the allotment that has not ended. A SCHED_STOP that has taken effect ends DONE, as the
allotment leaves DRAINING (R463). -/
def State.armFinals (s : State) (a : Nat) (d : Doubt) : State :=
  let x := s.allot a
  let s := match x.runOrd with
    | some o => s.finish o (statusOf d.cause) (x.executed % 2 ^ 32) (planDetail d.cause d.index d.core)
    | none => s
  let s := match x.armed with
    | some m => s.finish m.ord (statusOf d.cause) 0 (planDetail d.cause d.index d.core)
    | none => s
  let s := x.stops.foldl (fun s m => s.done m.1) s
  s.setAllot a { s.allot a with runOrd := none, armed := none, stops := [] }

/-- A SCHED_ARM of the allotment: its final tally is that of `armFinals`. -/
def Allot.isArm (x : Allot) (o : Ord) : Bool :=
  (x.runOrd.toList ++ x.armed.toList.map (·.ord)).any fun r => r.id == o.id

/-- The allotment's plan runs in this turn: the allotment is RUNNING, turns run, the turn is not fallow, the chip's sluice is open. -/
def State.planRuns (s : State) (a : Nat) : Bool :=
  s.altState a == 4 && s.wck.running && !s.wck.isFallow && !s.chipClosed

/-- Its sluice closed in this very cycle, while the plan was running: what else the cycle's checks find is recorded (R84). -/
def State.shutNow (s : State) (a : Nat) : Bool := (s.allot a).shutRunning == s.wck.now + 1

/-- What is due in cycle `t` of the turn has its checks: the plan runs, or its sluice has closed in that cycle. -/
def State.judges (s : State) (a t : Nat) : Bool := s.planRuns a || (s.shutNow a && s.wck.cycle == t)

/-- An open allotment closes: recorded, its outputs harmless, its orders ended (R457, R465, R128). -/
def State.shutAllot (s : State) (a : Nat) (d : Doubt) (chip : Bool) : State :=
  let s := if s.altState a = 4 ∧ s.wck.running = true ∧ s.wck.isFallow = false then s.setAllot a { s.allot a with shutRunning := s.wck.now + 1 } else s
  let s := s.markClosed 2 a d
  let s := ((s.put (F.SLU_ALLOT_STATE a) 1).put (F.SLU_ALLOT_CAUSE a) d.cause).put (F.ALT_STATE_STATE a) 6
  let s := s.harmless a d.cause
  let s := if chip then s else s.aqdSluice a
  s.discard (fun o => o.allot == a && !(s.allot a).isArm o) d.cause

/-- Its SCHED_ARM tallies, its log entry and its notice. -/
def State.endAllot (s : State) (a : Nat) (d : Doubt) : State := (s.armFinals a d).announce 2 a a d

/-- The WITHHELD entries of a closing have filled the book of an allotment (R470): the doubt reaches the closed subject (R454). -/
def State.bookFilled (s : State) (a before : Nat) : State :=
  if before < 61440 ∧ 61440 ≤ s.unacked a then
    let d : Doubt := { cause := cLedgerFull }
    ((s.bump (F.SLU_ALLOT_DOUBTS a)).doubtLog d a 2 false).amend 2 a a d
  else s

/-- A doubt reaches a closed allotment: its reopening fails (Table 19-3). Callers have counted and logged the doubt. -/
def State.reachAllot (s : State) (a : Nat) (d : Doubt) : State :=
  let s := if s.sluiceOf a = 2 then
      (s.failReopen (fun r => r.scope == 2 && r.subj == a) d.cause).put (F.SLU_ALLOT_STATE a) 1
    else s
  s.amend 2 a a d

/-- An allotment that is not EMPTY and that no sluice holds. -/
def State.mayClose (s : State) (a : Nat) : Bool := !s.isEmpty a && s.sluiceOf a == 0

/-- A doubt of allotment scope. -/
def State.doubtAllot (s : State) (a : Nat) (d : Doubt) : State :=
  if s.isEmpty a then s.doubtLog d a 2 false
  else
    let s := s.bump (F.SLU_ALLOT_DOUBTS a)
    if s.mayClose a then ((s.shutAllot a d false).endAllot a d).bookFilled a (s.unacked a)
    else (if s.held a then s.doubtLog d a 2 false else s).reachAllot a d

/-- A switch of a unit that an order asks for and that waits for its fallow turn. -/
def State.switchWaits (s : State) (u : Nat) (o : Ord) : Bool :=
  s.fallowDue.any fun x => x.ord.id == o.id && (match x.change with | .power v _ => v == u | _ => false)

/-- A tile's sluice closes, or a doubt reaches it (R453). A switch of the tile that has not taken effect ends FAILED_SLUICE (R483). -/
def State.closeTile (s : State) (t : Nat) (d : Doubt) : State :=
  if s.tileClosed t then
    (s.failReopen (fun r => r.scope == 1 && r.subj == t) d.cause).amend 1 t ((s.tileOwner t).getD 255) d
  else ((s.markClosed 1 t d).setMapBit F.SLU_TILE_CLOSED_MAP t true).discard (s.switchWaits t) d.cause

/-- A doubt of core scope: core, tile and owner close in one cycle, each that is open (R453, Table 19-3). -/
def State.doubtCore (s : State) (c : Nat) (d : Doubt) : State :=
  let t := c / 32
  let a := (s.tileOwner t).getD 255
  let book := s.unacked a
  let shutCore := (s.closedRec 0 c).isSome
  let shut := s.tileClosed t
  let s := if shutCore then (s.doubtLog d a 0 false).amend 0 c a d else s.markClosed 0 c d
  let s := s.closeTile t d
  let s := if a = 255 then s else s.bump (F.SLU_ALLOT_DOUBTS a)
  let closes := a != 255 && s.mayClose a
  let s := if closes then s.shutAllot a d false else s
  let s := if shutCore then s else s.announce 0 c a d
  let s := if shut then s else s.announce 1 t a d
  if closes then (s.endAllot a d).bookFilled a book else if a = 255 ∨ s.isEmpty a then s else s.reachAllot a d

/-- A doubt of chip scope (R453, R454, R457). -/
def State.doubtChip (s : State) (d : Doubt) : State :=
  let live := (List.range 16).filter fun a => !s.isEmpty a
  let s := live.foldl (fun s a => s.bump (F.SLU_ALLOT_DOUBTS a)) s
  if s.chipClosed then
    let s := s.doubtLog d 255 3 false
    let s := (List.range 144).foldl (fun s t => s.amend 1 t ((s.tileOwner t).getD 255) d) s
    let s := live.foldl (fun s a => s.amend 2 a a d) s
    s.amend 3 0 255 d
  else
    let opened := live.filter s.mayClose
    let tiles := (List.range 144).filter fun t => !s.tileClosed t
    let books := opened.map fun a => (a, s.unacked a)
    let s := s.markClosed 3 0 d
    let s := { (s.put F.SLU_STATUS_CHIP_CLOSED 1).put F.SLU_STATUS_CHIP_CAUSE d.cause with chipSince := s.wck.lagoon }
    let s := s.failReopen (fun _ => true) d.cause
    let s := (List.range 144).foldl (fun s t => s.closeTile t d) s
    let s := live.foldl (fun s a =>
      let s := if opened.contains a then s.shutAllot a d true else s.reachAllot a d
      ((s.put (F.SLU_ALLOT_CHIP a) 1).put (F.ALT_STATE_CHIP_SLUICED a) 1).put (F.SLU_ALLOT_STATE a) 1) s
    let s := s.harmlessChip d.cause
    let s := s.aqdChipSluice
    let s := s.discard (fun o => !opened.any fun a => (s.allot a).isArm o) d.cause
    let s := s.announce 3 0 255 d
    let s := tiles.foldl (fun s t => s.announce 1 t ((s.tileOwner t).getD 255) d) s
    books.foldl (fun s x => (s.endAllot x.1 d).bookFilled x.1 x.2) s

/-- A breach or tag refusal at a command: index and core named (R83, R279). -/
def State.breach (s : State) (a cause index core : Nat) : State :=
  s.doubtAllot a { cause := cause, index := index, core := core, subject := core, value := index }

/-- Link doubt on every allotment whose loaded plans name the port (R352). -/
def State.linkDoubt (s : State) (p : Nat) : State :=
  (s.portUsers p).foldl (fun s a => s.doubtAllot a { cause := cLink, index := p, subject := p, value := p }) s

/-! ## The ledger -/

/-- The block of the home stack's device region that holds entry `n` of the ledger book of an allotment, or (none) of the error log (R468,
R473, R494): two entries to a block; where the books stand is open (log entry 92). -/
def State.bookBlock (s : State) (book : Option Nat) (n : Nat) : Nat :=
  let place := match book with
    | some a => (1 + a) * 2 ^ 18 + n % 65536 / 2
    | none => n % 262144 / 2
  (s.get F.PWR_STATUS_HOME_STACK * stackSize + 0xBFC000000) / 64 + Config.deviceBlock place % 2 ^ 20

/-- Entry `n` is written to its book: part of its block (R309), of which an uncorrectable one is an uncorrectable error in control state
(R308). -/
def State.appendBook (s : State) (book : Option Nat) (n : Nat) : State :=
  let b := s.bookBlock book n
  if s.get F.PWR_STATUS_HOME_STACK = 15 ∨ s.blockEcc b = .clean then s
  else
    let w := s.writeBlock (64 * b) [] (s.blockTag b) (book.getD 255)
    if w.1 then w.2.doubtChip { cause := cCtrlEcc, subject := s.get F.PWR_STATUS_HOME_STACK } else w.2

/-- The log entries of a turn, and the ledger entries that a sluice wrote in it, reach their blocks in its last cycle: the spec states no
cycle for it (log entry 92). -/
def State.appendBooks (s : State) : State :=
  let t := s.wck.turn
  let s := (s.log.filter fun e => e.turn == t).foldl (fun s e => s.appendBook none e.seq) s
  (List.range 16).foldl (fun s a =>
    ((s.allot a).ledger.filter fun e => e.turn == t && e.reason == 3).foldl (fun s e => s.appendBook (some a) e.seq) s) s

/-- Record a delivery's outcome, and the doubt LEDGER_FULL when the book reaches 61,440 unacknowledged (R470), or stands there with the
allotment open. -/
def State.recordDelivery (s : State) (a : Nat) (e : Ledger) : State :=
  let before := s.unacked a
  let s := (s.ledgerPut a e).appendBook (some a) (s.get (F.SLU_LEDGER_NEXT a))
  if (before < 61440 ∨ s.mayClose a) ∧ 61440 ≤ s.unacked a then s.doubtAllot a { cause := cLedgerFull } else s

/-- An allotment that opens with 61,440 entries or more unacknowledged, as one whose record named another cause may, suffers the doubt at
once: no entry would be safe from being overwritten otherwise (R470; log entry 107). -/
def State.bookTest (s : State) (a : Nat) : State :=
  if a < 16 ∧ s.mayClose a ∧ 61440 ≤ s.unacked a then s.doubtAllot a { cause := cLedgerFull } else s

end Sys2Proof.Machine
end

