-- ==== Sys2Proof/Machine/Order.lean ====
section
/-! DEFINITION. Orders: arbitration and grants (R113, R114), the fixed sequence of checks (R105), sealed envelopes
(R446), cancel marks (R116), staging (R47) and fallow-only changes (R51, R52). -/

namespace Sys2Proof.Machine

/-! ## Allotments ARMED or RUNNING, fallow turns -/

def State.anyRunning (s : State) : Bool := (List.range 16).any fun a => s.altState a == 3 || s.altState a == 4

/-- The turn is made fallow. -/
def State.addFallow (s : State) (t : Nat) : State :=
  if s.wck.fallow.contains t then s else { s with wck := { s.wck with fallow := s.wck.fallow ++ [t] } }

/-- The fallow turn a change accepted now obtains (R52). -/
def State.fallowTurn (s : State) : Nat := (s.wck.turn + if s.anyRunning then 2 else 1) % 2 ^ 48

/-- A fallow-only change is accepted (R52). -/
def State.acceptFallow (s : State) (o : Ord) (c : Change) : State :=
  let t := s.fallowTurn
  { s.addFallow t with fallowDue := s.fallowDue ++ [(⟨o, t, c⟩ : FallowDue)] }

/-- A change is staged (R47). -/
def State.stage (s : State) (o : Ord) (c : Change) : State := { s with staged := s.staged ++ [(⟨o, c, false, s.wck.now⟩ : Staged)] }

/-! ## Arbitration (R113, R114) -/

/-- The queue may be granted its next order. -/
def State.eligible (s : State) (q : Nat) : Bool :=
  match (s.queue q).fetched with
  | none => false
  | some b =>
    s.get (F.DR_QSTAT_STATE q) == 1 && decide (s.get (F.DR_QLOAD_INFLIGHT q) < 32) && decide (s.get (F.DR_QLOAD_HELD q) < 256)
      && decide (s.get F.DR_INFLIGHT_ORDERS < 512) && !s.on F.SLU_STATUS_WALKER_HALT
      && (!bit (fieldAt b 2 2) 13 || !(s.inflight.any fun o => o.q == q))

def State.eligibleTenants (s : State) : List Nat := ((List.range 63).map (· + 1)).filter fun q => s.eligible q

/-- Credit a queue stands at in this cycle. -/
def State.creditNow (s : State) (q : Nat) : Int := (s.queue q).credit + s.get (F.DR_QLOAD_WEIGHT q)

/-- The queue with the largest credit, the lowest number on a tie. -/
def State.bestCredit (s : State) : List Nat → Option Nat
  | [] => none
  | q :: r => match s.bestCredit r with
    | some g => if s.creditNow g > s.creditNow q then some g else some q
    | none => some q

/-- The queue that the arbitration stage grants now. -/
def State.arbWinner (s : State) : Option Nat := if s.eligible 0 then some 0 else s.bestCredit s.eligibleTenants

/-- The credits after a grant. -/
def State.settleCredits (s : State) (g : Nat) : State :=
  if g = 0 then s
  else
    let l := s.eligibleTenants
    let total := (l.map fun q => s.get (F.DR_QLOAD_WEIGHT q)).sum
    l.foldl (fun t q => t.setQueue q { t.queue q with credit := s.creditNow q - if q = g then total else 0 }) s

/-! ## What an order is checked against -/

/-- The contract of one opcode: Tables 4-8 to 4-11 and the checks of its chapter, each list in its order. -/
structure Spec where
  op : Nat
  /-- which orders of the opcode this row serves (sub-operation codes) -/
  sub : Bytes → Bool := fun _ => true
  q0 : Bool := false
  /-- ALLOT: 0 an allotment, 1 0xFF only, 2 either -/
  allot : Nat := 0
  /-- fallow-only (R51) -/
  fallow : Bool := false
  /-- states of Table 4-11 marked Y -/
  permit : List Nat := [0, 1, 2, 3, 4, 5, 6]
  /-- changes the allotment's state (R115) -/
  changes : Bool := false
  /-- accepted on queue 0 under a chip sluice (R459) and below the minimal set (R23) -/
  underChip : Bool := false
  underMinimal : Bool := false
  /-- units the payload needs at least -/
  units : Nat := 1
  need : State → Ord → List (Bool × Why) := fun _ _ => []
  right : State → Ord → List (Bool × Why) := fun _ _ => []
  state : State → Ord → List (Bool × Why) := fun _ _ => []
  fields : State → Ord → List (Bool × Why) := fun _ _ => []
  quota : State → Ord → List (Bool × Why) := fun _ _ => []
  late : State → Ord → List (Bool × Why) := fun _ _ => []
  /-- the effect, once every check has passed -/
  body : State → Ord → State

/-- A reserved field of `n` bytes. -/
def rz (o : Ord) (off n : Nat) : Bool × Why := (decide (o.field off n ≠ 0), resvAt off)
/-- Reserved bits `lo` to `lo + w - 1` counted from byte `off`. -/
def rzb (o : Ord) (off lo w : Nat) : Bool × Why :=
  (decide (bits (o.field off 8) lo w ≠ 0), resvAt (off + lo / 8) (lo % 8))
/-- The checks of item `k` of an order that processes several (R104). -/
def itemChecks (k : Nat) (l : List (Bool × Why)) : List (Bool × Why) := l.map fun c => (c.1, { c.2 with item := k })
/-- A check that each item of a list must pass: the first that does not is named (R104). -/
def firstItem (l : List Nat) (bad : Nat → Bool) (w : Why) : Bool × Why :=
  match l.findIdx? bad with
  | some k => (true, { w with item := k })
  | none => (false, w)
/-- A field out of range. -/
def rg (bad : Bool) (off : Nat) (b : Nat := 0) : Bool × Why := (bad, rangeAt off b)

/-- Units of the order once its envelope is open: a sealed order is one unit longer (R446). -/
def Ord.units (o : Ord) : Nat := o.length - b2n o.isSealed

/-! ## Sealed envelopes (R122, R446) -/

/-- COUNTER of a sealed order. -/
def envCounter (b : Bytes) : Nat := fieldAt b 32 8

/-- The envelope opened under the allotment's session key. -/
def State.openEnvelope (s : State) (b : Bytes) : Option Bytes :=
  match (s.allot (hdrAllot b)).session with
  | none => none
  | some k => gcmOpen k.key (slice b 32 12) (b.take 28) (b.drop 64) (slice b 48 16)

/-- Why the envelope is refused, if it is. -/
def State.envelope (s : State) (o : Ord) : List (Bool × Why) :=
  if !o.isSealed then []
  else match (if o.allot < 16 then (s.allot o.allot).session else none) with
    | none => [(true, whyRight 0xED 0)]
    | some k => [(decide (fieldAt o.bytes 40 4 ≠ k.id % 2 ^ 32) || decide (envCounter o.bytes ≤ k.last)
        || (s.openEnvelope o.bytes).isNone, whyRight 0x29 0)]

/-- COUNTER is accepted with the order (R446). -/
def State.acceptCounter (s : State) (o : Ord) : State :=
  if !o.isSealed then s
  else match (s.allot o.allot).session with
    | none => s
    | some k => s.setAllot o.allot { s.allot o.allot with session := some { k with last := envCounter o.bytes } }

/-! ## Checks in their fixed sequence (R105) -/

def Spec.lengthChecks (sp : Spec) (s : State) (o : Ord) : List (Bool × Why) :=
  (decide (o.units < sp.units), shortAt 2) :: sp.need s o

def Spec.rightChecks (sp : Spec) (s : State) (o : Ord) : List (Bool × Why) :=
  [(decide (o.queueField ≠ o.q), whyRight 0x28 o.q),
   (decide (o.q ≠ 0) && decide (o.allot ≠ (s.queue o.q).bound), whyRight 0x28 o.q),
   (sp.q0 && decide (o.q ≠ 0), whyRight 0x28 o.q)] ++ s.envelope o ++ sp.right s o

/-- The order that holds an allotment busy (R115). -/
def State.busyWith (s : State) (a : Nat) : Option Nat :=
  match (s.allot a).loading, (s.allot a).release with
  | some v, _ => some v.ord.op
  | none, some o => some o.op
  | none, none => none

/-- An ALT_RELEASE tears the allotment down. -/
def State.releasing (s : State) (a : Nat) : Bool := (s.allot a).release.isSome

/-- Orders that leave nothing with an allotment they name: NOP, DEV_INFO, DEV_STATUS, ALT_STATUS, ATTEST, RNG_READ, BSN_READ,
MGT_I2C_XFER, GAU_SAMPLE, LOG_READ. Every other order naming an allotment that an ALT_RELEASE tears down counts as one that changes its
state, and tallies ALLOT_BUSY: the model's choice where R115 names none of them (log entry 102). -/
def standsApart : List Nat := [0x0100, 0x0101, 0x0102, 0x0122, 0x0502, 0x0520, 0x0802, 0x0A01, 0x0A02, 0x0C01]

def Spec.stateChecks (sp : Spec) (s : State) (o : Ord) : List (Bool × Why) :=
  [(s.chipClosed && !(sp.underChip && o.q == 0), whyState 0xF6 0),
   ((s.missingMinimal).isSome && !(sp.underMinimal && o.q == 0), unitMissing (s.missingMinimal.getD 0)),
   (decide (o.allot < 16) && (s.busyWith o.allot).isSome && (sp.changes || (s.releasing o.allot && !standsApart.contains o.op)),
     whyState 0x2F ((s.busyWith o.allot).getD 0)),
   (decide (o.allot < 16) && !sp.permit.contains (s.altState o.allot), whyState 0x2B (s.altState o.allot)),
   (sp.fallow && !o.fallow && s.anyRunning, whyState 0x2D 0)] ++ sp.state s o

/-- A field check of PARAM: a byte below 32. -/
def Why.inParam (w : Why) : Bool := (w.cause == 0x20 || w.cause == 0x21) && decide (w.value % 65536 < 32)

/-- The reserved bytes of a sealed order's envelope (R5, R446) stand after PARAM and before the payload: the first nonzero reserved field is
reported (R108). -/
def Ord.withEnvelope (o : Ord) (l : List (Bool × Why)) : List (Bool × Why) :=
  if o.isSealed then
    l.takeWhile (fun c => c.2.inParam) ++ (decide (fieldAt o.bytes 44 4 ≠ 0), resvAt 44) :: l.dropWhile (fun c => c.2.inParam)
  else l

def Spec.fieldChecks (sp : Spec) (s : State) (o : Ord) : List (Bool × Why) :=
  [(decide (o.seq ≠ s.get (F.DR_QSEQ_EXPECT o.q)), ⟨stBadField, 0x22, s.get (F.DR_QSEQ_EXPECT o.q), 0⟩),
   rg (match sp.allot with
     | 0 => decide (16 ≤ o.allot)
     | 1 => decide (o.allot ≠ 255)
     | _ => decide (16 ≤ o.allot) && decide (o.allot ≠ 255)) 8,
   rz o 10 2] ++ o.withEnvelope (sp.fields s o) ++ sp.quota s o

def Spec.lateChecks (sp : Spec) (s : State) (o : Ord) : List (Bool × Why) :=
  (decide ((deadlineOf s o.bytes) = none), ⟨stTooLate, 0x30, s.wck.turn % 2 ^ 32, 0⟩) :: sp.late s o

/-- The first failure, in the fixed sequence. -/
def Spec.verdict (sp : Spec) (s : State) (o : Ord) : Option Why :=
  match checks (sp.lengthChecks s o) with
  | some w => some w
  | none => match checks (sp.rightChecks s o) with
    | some w => some w
    | none => match checks (sp.stateChecks s o) with
      | some w => some w
      | none => match checks (sp.fieldChecks s o) with
        | some w => some w
        | none => checks (sp.lateChecks s o)

/-! ## The grant -/

/-- Units by which the head advances past an order (R106). -/
def unitsOf (b : Bytes) : Nat := if 1 ≤ hdrLength b ∧ hdrLength b ≤ 2048 then hdrLength b else 1

/-- The order passes its CRC check and the range check of LENGTH (R105). -/
def State.wellFormed (s : State) (q : Nat) (b : Bytes) : Bool :=
  orderCrc b == fieldAt b 28 4 && decide (1 ≤ hdrLength b) && decide (hdrLength b ≤ 2048)
    && decide (hdrLength b ≤ 2 ^ s.get (F.DR_QSIZE_ORDER_LOG2 q))

/-- The order at the head of queue `q`, when the arbitration stage grants it now and it is of this row. -/
def State.grantable (s : State) (sp : Spec) (q : Nat) : Option Bytes :=
  if s.arbWinner = some q then
    match (s.queue q).fetched with
    | some b => if hdrOp b = sp.op ∧ sp.sub b = true ∧ s.wellFormed q b = true then some b else none
    | none => none
  else none

/-- The granted order as the checks read it. The payload of a sealed order stands opened from the length check on, though its envelope is
tested only among the rights, and where it does not open the length check reads the ciphertext in its place (log entry 61). -/
def State.mkOrd (s : State) (q : Nat) (b host : Bytes) : Ord :=
  { id := s.granted, q := q, bytes := b,
    payload := if bit (fieldAt b 2 2) 14 then (s.openEnvelope b).getD (b.drop 64) else b.drop 32,
    host := host, turn := s.wck.turn, deadline := (deadlineOf s b).getD s.wck.turn, took := false, acc := false,
    margin := (s.queue q).tied, shift := 0 }

/-- The order is consumed: head, credits, grant count, expected number (R109). -/
def State.consume (s : State) (q : Nat) (b : Bytes) : State :=
  let s := s.settleCredits q
  let x := s.queue q
  let s := s.setQueue q { x with fetched := none, tied := false, past := smSet (0, 255) x.past (hdrSeq b) (hdrOp b, hdrAllot b) }
  let s := s.put (F.DR_QPTR_HEAD q) (s.get (F.DR_QPTR_HEAD q) + unitsOf b)
  (s.put (F.DR_QSEQ_EXPECT q) (s.get (F.DR_QSEQ_EXPECT q) + 1)).bump F.DR_COUNTS_GRANTS

/-- A pending mark cancels the order granted now (R116). -/
def State.marked (s : State) (q : Nat) : Bool := (s.queue q).marks.contains (s.get (F.DR_QSEQ_EXPECT q))

/-- R116: the target is consumed without any check. It counts as a grant, in DR_COUNTS.GRANTS and for the credits of arbitration (log
entry 89). -/
def State.cancelled (s : State) (q : Nat) (b : Bytes) : State :=
  let e := s.get (F.DR_QSEQ_EXPECT q)
  let x := s.queue q
  let s := s.setQueue q { x with marks := x.marks.filter fun m => m != e }
  let s := s.put (F.DR_QSTAT_MARKS q) (s.queue q).marks.length
  let o := s.mkOrd q b []
  ((s.consume q b).bump F.DR_COUNTS_CANCELLED).pushTally q (o.tally stCancelled 0 (detailOf 0x32 0) true o.margin)

/-- The order enters flight (R114). -/
def State.launch (s : State) (o : Ord) : State :=
  let s := { s with inflight := s.inflight ++ [o], granted := s.granted + 1 }
  let s := s.put F.DR_INFLIGHT_ORDERS (s.get F.DR_INFLIGHT_ORDERS + 1)
  s.put (F.DR_QLOAD_INFLIGHT o.q) (s.get (F.DR_QLOAD_INFLIGHT o.q) + 1)

/-- A queue halts: nothing more is fetched from it (R97). -/
def State.haltQueue (s : State) (q cause : Nat) : State :=
  let x := s.queue q
  let s := s.setQueue q { x with fetched := none, short := false, tied := false }
  (s.put (F.DR_QSTAT_STATE q) 2).put (F.DR_QSTAT_HALT_CAUSE q) cause

/-- The failure is LENGTH's own (R106): LENGTH is below what the opcode takes. -/
def Why.ofLength (w : Why) : Bool := decide (w = shortAt 2)

/-- A consumed order's checks and effect. A BAD_LENGTH caused by LENGTH halts the queue after the order's tally (R106). -/
def Spec.apply (sp : Spec) (s : State) (o : Ord) (v : Option Why) : State :=
  match v with
  | some w => if w.ofLength then (s.fail o w).haltQueue o.q w.cause else s.fail o w
  | none => sp.body (s.acceptCounter o) o

/-- The command of an order's row: the order at the head of queue `q` is granted, cancelled, refused or executed. Where
the arbitration stage would not grant an order of this row from this queue now, nothing happens (log entry 16). -/
def order (sp : Spec) (q : Nat) (host : Bytes) (s : State) : State :=
  match s.grantable sp q with
  | none => s
  | some b =>
    if s.marked q then s.cancelled q b
    else
      let o := s.mkOrd q b host
      sp.apply ((s.consume q b).launch o) o (sp.verdict s o)

/-! ## Busy units (R112) -/

/-- The unit an order may wait for: the translator, the relock, the converter, the self-test, the symmetric engine, a
basin, a pipeline, a bus, or the big-number engine. -/
def Ord.waitsOn (o : Ord) : Nat × Nat :=
  match o.op with
  | 0x0200 => (1, 0)
  | 0x0510 => (2, 0)
  | 0x0703 => (3, 0)
  | 0x0800 => (4, o.field 16 1)
  | 0x0801 => (4, o.field 16 1)
  | 0x0802 => (4, o.field 16 1)
  | 0x0900 => (5, o.field 16 1)
  | 0x0901 => (5, o.field 16 1)
  | 0x0A01 => (6, o.field 16 1)
  | 0x0A02 => (7, 0)
  | 0x0D00 => (8, 0)
  | _ => (9, 0)

/-- An order granted earlier waits for the same unit: waiting orders start in grant order. -/
def State.queued (s : State) (o : Ord) : Bool := s.waiting.any fun w => w.waitsOn == o.waitsOn

/-- The order waits for a busy unit. -/
def State.park (s : State) (o : Ord) : State := { s with waiting := s.waiting ++ [o] }

/-- The order executes, or waits while its unit is busy or others wait for it. -/
def State.serve (s : State) (o : Ord) (busy : Bool) (f : State → State) : State := if busy || s.queued o then s.park o else f s

/-- A turn number that the order's payload names, as moved by the time changes since its grant (R38). -/
def Ord.turnNow (o : Ord) (t : Nat) : Nat := unsigned 48 (t + o.shift)

/-- A walk fault of an order: recorded, and its tally. -/
def State.failWalk (s : State) (o : Ord) (w : Why) : State := (s.orderFault o.allot w).fail o w

end Sys2Proof.Machine
end

