-- ==== Sys2Proof/Machine/Refs.lean ====
section
/-! DEFINITION. Reference sources and the water clock's state machine (R24 to R38, R44, R45, R58 to R60, R429). A
disagreement is the time by which a source's second precedes the clock's, in eighths of a nanosecond (R425). -/

namespace Sys2Proof.Machine

def wckFreeRun : Nat := 0
def wckAcquire : Nat := 1
def wckLocked : Nat := 2
def wckHoldover : Nat := 3
def wckDoubt : Nat := 4

def State.wckState (s : State) : Nat := s.get F.WCK_STATE_STATE
def State.wckSource (s : State) : Nat := s.get F.WCK_STATE_SOURCE

/-! ## Sources -/

/-- What is kept of source 1, 2 or 3. -/
def State.src (s : State) (n : Nat) : Src :=
  match n with
  | 1 => s.wck.gnss
  | 2 => s.wck.pps
  | _ => s.wck.marker

def State.setSrc (s : State) (n : Nat) (x : Src) : State :=
  match n with
  | 1 => { s with wck := { s.wck with gnss := x } }
  | 2 => { s with wck := { s.wck with pps := x } }
  | 3 => { s with wck := { s.wck with marker := x } }
  | _ => s

def State.srcGood (s : State) (n : Nat) : Bool := bit (s.get F.WCK_SRC_STATUS_GOOD) n
def State.srcEnabled (s : State) (n : Nat) : Bool := bit (s.get F.WCK_SRC_STATUS_ENABLED) n

def State.setGood (s : State) (n : Nat) (b : Bool) : State :=
  let v := s.get F.WCK_SRC_STATUS_GOOD
  if bit v n = b then s else s.put F.WCK_SRC_STATUS_GOOD (if b then v + 2 ^ n else v - 2 ^ n)

/-- The priority of a source, 1 the highest (R24). -/
def State.srcPrio (s : State) (n : Nat) : Nat := bits s.wck.prio (4 * n) 4

/-- The enabled good source of the highest priority (R25); none when it is host-set time, to which no transition of Table 2-3
leads from a state that has another source (log entry 43). -/
def State.bestSource (s : State) : Option Nat :=
  match [1, 2, 3].foldl (fun b n => if s.srcGood n && s.srcEnabled n && decide (s.srcPrio n < s.srcPrio b) then n else b) 0 with
  | 0 => none
  | n => some n

/-- A source disagrees by more than WCK_JUMP_LIMIT. -/
def State.jumps (s : State) (d : Int) : Bool := decide (8 * s.get F.WCK_JUMP_LIMIT_NS < d.natAbs)

/-- Source `n` is enabled and good. -/
def State.serves (s : State) (n : Nat) : Bool := s.srcGood n && s.srcEnabled n

/-- The enabled good sources of a higher priority than the selected one and than host-set time, the highest first. -/
def State.higher (s : State) : List Nat :=
  ([1, 2, 3, 4].filterMap fun p => [1, 2, 3].find? fun n => s.srcPrio n == p).filter fun n =>
    s.serves n && n != s.wckSource && decide (s.srcPrio n < s.srcPrio s.wckSource) && decide (s.srcPrio n < s.srcPrio 0)

/-! ## Time doubt -/

/-- PPS_OUT may be driven (R428). -/
def State.ppsDriven (s : State) : Bool :=
  let st := s.wckState
  !s.chipClosed && (st == wckLocked || st == wckHoldover ||
    (st == wckAcquire && (s.wck.cameFrom == wckLocked || s.wck.cameFrom == wckHoldover)))

/-- A change to a held-low condition ends the pulse (R428). -/
def State.ppsHold (s : State) : State := if s.ppsDriven then s else s.ppsLow

/-- Every source's next event is accepted without a window (R29). -/
def State.dropPredictions (s : State) : State :=
  { s with wck := { s.wck with
      gnss := { s.wck.gnss with pred := false }, pps := { s.wck.pps with pred := false },
      marker := { s.wck.marker with pred := false } } }

/-- The allotment's loaded plans declare aqueduct exchanges. -/
def State.exchanges (s : State) (a : Nat) : Bool := (s.allot a).plans.any fun p => p.links ≠ []

/-- R36: time doubt closes every allotment with exchanges, holds PPS_OUT low and sets DOUBT_SEEN. -/
def State.timeDoubt (s : State) : State :=
  let s := ((s.put F.WCK_STATE_STATE wckDoubt).put F.WCK_STATE_DOUBT_SEEN 1).dropPredictions.ppsLow
  (List.range 16).foldl (fun s a => if !s.isEmpty a && s.exchanges a then s.doubtAllot a { cause := cTime } else s) s

/-! ## Transitions (Table 2-3) -/

def State.dropStep (s : State) : State := { s.put F.WCK_STATE_STEP_PENDING 0 with wck := { s.wck with step := none } }

/-- FREE_RUN is entered, without the step that was pending for the source given up (Table 2-3 lists no action on it in its last row: log
entry 43). -/
def State.freeRun (s : State) : State :=
  (((s.put F.WCK_STATE_STATE wckFreeRun).put F.WCK_STATE_SOURCE 0).dropStep.dropPredictions).ppsHold

/-- Entry into ACQUIRE with a source. -/
def State.acquire (s : State) (n from_ : Nat) (mayStep : Bool) : State :=
  let d := (s.src n).dis
  let s := { s with wck := { s.wck with cameFrom := from_, cameSource := s.wckSource } }
  let s := (s.put F.WCK_STATE_STATE wckAcquire).put F.WCK_STATE_SOURCE n
  let s := if mayStep && s.jumps d then { s.put F.WCK_STATE_STEP_PENDING 1 with wck := { s.wck with step := some (d / 8) } } else s
  s.ppsHold

/-- Entry into HOLDOVER: timer and estimate start at 0; phase error and frequency uncertainty at entry are not stated
(log entry 3). A limit of 0 raises time doubt at once (R59). -/
def State.holdover (s : State) : State :=
  let s := (s.put F.WCK_STATE_STATE wckHoldover).put F.WCK_HOLDOVER_ELAPSED 0
  let s := s.put F.WCK_HOLDOVER_TERR_EST 0
  let s := { s with
    free := s.free + 1
    wck := { s.wck with holdE0 := (s.get F.WCK_PHASE_PHASE_ERR |> signed 32).natAbs, holdY0 := Config.anyNat s.free, holdFrom := s.wck.sec, holdNs := s.wck.ns } }
  if s.get F.WCK_HOLDOVER_LIMIT_SECONDS = 0 then s.timeDoubt else s.ppsHold

/-- The selected source is no longer good and enabled. -/
def State.lost (s : State) : Bool :=
  let n := s.wckSource
  n == 0 || !(s.srcGood n && s.srcEnabled n)

/-- Nanoseconds of the present holdover (R59). -/
def State.holdTime (s : State) : Nat :=
  (s.wck.sec + 2 ^ 32 - s.wck.holdFrom) % 2 ^ 32 * 1000000000 + s.wck.ns - s.wck.holdNs

/-- The estimate e(t) = e0 + |y0| t + a t² / 2 + y_T t (R59), in 10^-27 / 2 ns, with t to the nanosecond. -/
def State.holdError (s : State) : Nat :=
  let t := s.holdTime
  let y := s.wck.holdY0 + s.get F.WCK_OSC_MODEL_TEMP
  s.wck.holdE0 * (25 * 10 ^ 25) + 2 * y * t * 10 ^ 12 + s.get F.WCK_OSC_MODEL_AGEING * t * t

/-- A holdover limit is exceeded now (R59): the elapsed time, or the estimate. -/
def State.pastHoldLimit (s : State) : Bool :=
  decide (s.get F.WCK_HOLDOVER_LIMIT_SECONDS * 1000000000 < s.holdTime) ||
    decide (s.get F.WCK_TERR_LIMIT_NS * (2 * 10 ^ 27) < s.holdError)

/-- A loss of the selected source in ACQUIRE: back to the state and the source it came from (Table 2-3); a former source that
is lost too takes the LOCKED row at once. A return to HOLDOVER goes on with the holdover it left: the time in ACQUIRE counts as elapsed
(DESIGN CHOICE, log entry 106). -/
def State.backFromAcquire (s : State) : State :=
  let s := s.dropStep
  if s.wck.cameFrom = wckLocked then
    let s := (s.put F.WCK_STATE_STATE wckLocked).put F.WCK_STATE_SOURCE s.wck.cameSource
    if s.lost then s.holdover else s.ppsHold
  else if s.wck.cameFrom = wckHoldover then
    ((s.put F.WCK_STATE_STATE wckHoldover).put F.WCK_STATE_SOURCE s.wck.cameSource).ppsHold
  else s.freeRun

/-- HOLDOVER with a good source's event captured: in the cycle in which a limit is exceeded, the event goes first (R59). The row of Table
2-3 is decided by the last disagreement of the highest good source, whose event this need not be (DESIGN CHOICE, log entry 106). -/
def State.leaveHoldover (s : State) (n : Nat) : State :=
  let s := if s.pastHoldLimit then s.put F.WCK_SRC_STATUS_MARGIN0 1 else s
  if s.jumps (s.src n).dis then s.timeDoubt else s.acquire n wckHoldover false

/-- The transitions that a change of the sources' condition brings. In LOCKED a source has been good for 16 events once 16 in a row were
accepted since it became good, and the highest of the sources that agree is taken (log entry 43). `ev` is the source whose event was captured, `rose` says
that an enabled source became good (or a good one enabled) now. -/
def State.review (s : State) (ev : Nat) (rose : Bool) : State :=
  let st := s.wckState
  if st = wckFreeRun ∨ st = wckDoubt then
    match (if rose then s.bestSource else none) with
    | some n => s.acquire n st true
    | none => s
  else if st = wckAcquire then
    if s.lost then s.backFromAcquire else s
  else if st = wckLocked then
    if s.lost then s.holdover
    else
      let l := s.higher
      let s := if l.any fun n => s.jumps (s.src n).dis then s.put F.WCK_STATE_SRC_DISAGREE 1 else s
      match l.find? fun n => !s.jumps (s.src n).dis && decide (16 ≤ (s.src n).goodFor) with
      | some n => s.acquire n wckLocked false
      | none => s
  else if st = wckHoldover then
    if s.srcGood ev && s.srcEnabled ev && ev != 0 then
      match s.bestSource with
      | some n => s.leaveHoldover n
      | none => s
    else s
  else s

/-- A source that reaches 16 accepted events is good; source 2 also needs its 16 seconds of REF_10M_IN (R29, R30). -/
def State.settleGood (s : State) (n : Nat) : State :=
  if 16 ≤ (s.src n).accepts ∧ (n ≠ 2 ∨ s.wck.good10M = 0) then s.setGood n true else s

/-- An accepted event, or a good second of REF_10M_IN, of source `n`: it may become good, and the clock may change state. -/
def State.reviewGood (s : State) (n : Nat) : State :=
  let t := s.settleGood n
  t.review n (t.serves n && !s.serves n)

/-- A source becomes doubtful. -/
def State.srcDoubtful (s : State) (n : Nat) : State :=
  ((s.setSrc n { s.src n with accepts := 0, goodFor := 0 }).setGood n false).review 0 false

/-- A reject is counted; the third in a row makes the source doubtful (R28, R29). -/
def State.countReject (s : State) (n : Nat) : State :=
  let x := s.src n
  let s := match n with
    | 1 => s.bump F.WCK_REJECTS_GNSS
    | 2 => s.bump F.WCK_REJECTS_PPS
    | 3 => s.bump F.WCK_REJECTS_MARKER
    | _ => s
  let s := s.setSrc n { x with rejects := min 3 (x.rejects + 1), accepts := 0, goodFor := 0 }
  if 3 ≤ x.rejects + 1 then s.setGood n false else s

/-- A reject (R28, R32). -/
def State.srcReject (s : State) (n : Nat) : State :=
  let t := s.countReject n
  if 3 ≤ (s.src n).rejects + 1 then t.review 0 false else t

/-- The jump test of the selected source (R34, R427): true when its third consecutive event jumps while LOCKED. -/
def State.jumpTest (s : State) (n : Nat) (d : Int) : State × Bool :=
  let x := s.src n
  let j := if s.jumps d then x.jumps + 1 else 0
  (s.setSrc n { x with jumps := j }, decide (3 ≤ j) && s.wckSource == n && s.wckState == wckLocked)

/-- What an event of a source is predicted by (R28): the clock's own second for the source it is locked to (R427), else the
disagreement that the source was last accepted with (log entry 41). -/
def State.prediction (s : State) (n : Nat) : Int :=
  if (s.src n).pred && !(s.wckState == wckLocked && s.wckSource == n) then (s.src n).dis else 0

/-- An event of a source with its disagreement; `tie` when the window closes in its cycle (R28 to R31). A third jumping event is
counted as the reject or accepted event it is, and time doubt goes before the source's own transition (log entry 43). -/
def State.srcEvent (s : State) (n : Nat) (d : Int) (tie : Bool) : State :=
  let x := s.src n
  let open_ := !x.pred && (s.wckState == wckFreeRun || s.wckState == wckDoubt)
  let ok := open_ || tie || decide ((d - s.prediction n).natAbs ≤ 1600)
  let s := if s.wckSource = n then s.put F.WCK_PHASE_PHASE_ERR (unsigned 32 d) else s
  let (s, jumped) := s.jumpTest n d
  if ok then
    let s := if tie then s.put F.WCK_SRC_STATUS_MARGIN0 1 else s
    let more := if s.srcGood n then min 16 (x.goodFor + 1) else 0
    let s := s.setSrc n { s.src n with rejects := 0, accepts := min 16 (x.accepts + 1), pred := true, dis := d, goodFor := more }
    if jumped then (s.settleGood n).timeDoubt else s.reviewGood n
  else if jumped then (s.countReject n).timeDoubt
  else s.srcReject n

/-! ## Events -/

/-- The disagreement of an edge that the filter lets be seen `seen` eighths of a lagoon cycle (156.25 ps) before the clock's
second (R26): the filter length is subtracted from its stamp, and the difference is reckoned in eighths of a nanosecond, rounded down (DESIGN CHOICE, log
entry 106). -/
def State.ppsDis (s : State) (seen : Int) : Int := (seen + 8 * s.get F.WCK_PIN_FILTER_PPS_GLITCH) * 5 / 4

/-- A rising edge on REF_PPS_IN whose level persists for `high` lagoon cycles: one shorter than the filter is not seen (R26); one
below 100 ns or above 900 ms is rejected (R27). -/
def ppsEdge (high : Nat) (seen : Int) (tie : Bool) (s : State) : State :=
  if high < s.get F.WCK_PIN_FILTER_PPS_GLITCH then s
  else if high < 80 ∨ 720000000 < high then s.srcReject 2
  else s.srcEvent 2 (s.ppsDis seen) tie

def execPpsEdge (high : Nat) (seen : Int) (tie : Bool) (s : State) : Host.Outcome State Fault Refusal :=
  run s (ppsEdge high seen tie)

/-- A prediction window closes with no event: a reject (R28). A second without a GNSS solution is judged by R32. -/
def execRefWindowClose (src : Nat) (s : State) : Host.Outcome State Fault Refusal :=
  unit 4 src s fun s => if src = 2 ∨ src = 3 then s.srcReject src else s

/-- REF_10M_IN shows no edge for 1 µs (R30). -/
def lose10M (s : State) : State := { s with wck := { s.wck with good10M := 16 } }.srcDoubtful 2

def execRef10mLoss (s : State) : Host.Outcome State Fault Refusal := run s lose10M

/-- The frequency of REF_10M_IN over one second, in parts per 10^9 from the clock's estimate (R30). -/
def check10M (ppb : Int) (s : State) : State :=
  if 10000 < ppb.natAbs then lose10M s
  else if s.wck.good10M = 0 then s
  else
    let s := { s with wck := { s.wck with good10M := s.wck.good10M - 1 } }
    if s.wck.good10M = 0 then s.reviewGood 2 else s

def execRef10mFreqCheck (ppb : Int) (s : State) : Host.Outcome State Fault Refusal := run s (check10M ppb)

/-- ACQUIRE has held the lock window for 16 seconds (R34). -/
def execWckLock (s : State) : Host.Outcome State Fault Refusal :=
  run s fun s => if s.wckState = wckAcquire ∧ s.wck.step = none then s.put F.WCK_STATE_STATE wckLocked else s

/-- Holding phase needs more than ±150 ppm for 3 seconds (R44). -/
def execTrimLimitExceeded (s : State) : Host.Outcome State Fault Refusal :=
  run s fun s => if s.wckSource = 0 then s else s.srcDoubtful s.wckSource

/-- A holdover limit is exceeded (R59). -/
def execHoldoverEnd (s : State) : Host.Outcome State Fault Refusal :=
  run s fun s => if s.wckState = wckHoldover ∧ s.pastHoldLimit = true then s.timeDoubt else s

/-- The frequency checker's window (R45); inactive while the core runs on the lagoon clock, and in a tripped device (R540). -/
def execFreqCheckWindow (ppb : Int) (s : State) : Host.Outcome State Fault Refusal :=
  run s fun s => if 500000 < ppb.natAbs ∧ ¬ s.on F.WCK_STATE_ON_LAGOON ∧ s.tripped = false then s.doubtChip { cause := cClock } else s

/-- No edge of REF_XTAL for 100 ns (R58). -/
def execXtalLoss (s : State) : Host.Outcome State Fault Refusal :=
  run s fun s => if s.tripped then s else s.doubtChip { cause := cClock }

/-- REF_OSC_IN, of which a second has shown `freq` edges, is within 50 ppm of the nominal frequency that PLL_REF names (R24); of
either one where it is not the PLL reference (log entry 44). -/
def State.oscOk (s : State) (freq : Nat) (gap : Bool) : Bool :=
  let near (n : Nat) : Bool := decide ((freq : Int) - n ≤ n / 20000) && decide ((n : Int) - freq ≤ n / 20000)
  !gap && (match s.wck.pllRef with | 0 => near 10000000 || near 100000000 | 1 => near 10000000 | _ => near 100000000)

/-- The comparison of REF_OSC_IN with REF_XTAL over a second (R429); `gap`: no edge for 1 µs. -/
def checkOsc (freq : Nat) (gap : Bool) (s : State) : State :=
  let ok := s.oscOk freq gap
  let s := s.put F.GNS_STATE_OSC_OK (b2n ok)
  if !ok && s.wck.pllRef != 0 && !s.tripped then s.doubtChip { cause := cClock } else s

def execRefOscCheck (freq : Nat) (gap : Bool) (s : State) : Host.Outcome State Fault Refusal := run s (checkOsc freq gap)

/-! ## Orders -/

/-- TIME_SOURCE_SET (R24). Whether it changes the PLL reference is judged against the reference in force, also while an earlier change of
it is pending (DESIGN CHOICE, log entry 106). -/
def specTimeSourceSet : Spec where
  op := 0x0700
  q0 := true
  allot := 1
  state := fun s o => [(decide (o.field 20 1 ≠ s.wck.pllRef) && !o.fallow && s.anyRunning, whyState 0x2D 0)]
  fields := fun _ o =>
    [rg (decide (bits (o.field 16 1) 4 4 ≠ 0)) 16 4,
     rg (!([1, 2, 3, 4].all fun p => (List.range 4).any fun n => bits (o.field 17 2) (4 * n) 4 == p)) 17,
     rg (decide (11 < o.field 19 1)) 19, rg (decide (2 < o.field 20 1)) 20,
     rg (decide (o.field 21 6 ≠ 0)) 21, rg (decide (bits (o.field 27 1) 0 7 ≠ 0)) 27]
  body := fun s o =>
    let s := s.stage o (.sources (bits (o.field 16 1) 0 4) (o.field 17 2) (o.field 19 1))
    if o.field 20 1 = s.wck.pllRef then s else s.acceptFallow o (.pllRef (o.field 20 1))

def execTimeSourceSet (q : Nat) (s : State) : Host.Outcome State Fault Refusal := unit 64 q s (order specTimeSourceSet q [])

/-- The sources of a committed TIME_SOURCE_SET (R24, Table 2-3). Enabling a source leaves the count of its accepted events as it stands:
those of a disabled source have counted (DESIGN CHOICE, log entry 43). -/
def State.commitSources (s : State) (enable prio port : Nat) : State :=
  let rose := [1, 2, 3].any fun n => s.srcGood n && bit enable n && !s.srcEnabled n
  let s := s.put F.WCK_SRC_STATUS_ENABLED (enable / 2 * 2 + 1)
  let s := { s with wck := { s.wck with prio := prio, port := port } }
  if enable / 2 % 8 = 0 then s.freeRun else s.review 0 rose

/-- TIME_HOST_SET (R37). -/
def specTimeHostSet : Spec where
  op := 0x0701
  q0 := true
  allot := 1
  fallow := true
  state := fun s _ => [(s.wckState != wckFreeRun && s.wckState != wckDoubt, whyState 0x2E s.wckState)]
  fields := fun _ o =>
    [rg (decide (999999999 < bits (o.field 16 4) 0 30)) 16, rzb o 19 6 2, rz o 24 3, rzb o 27 0 7]
  body := fun s o => s.acceptFallow o (.hostTime (o.field 20 4) (bits (o.field 16 4) 0 30))

def execTimeHostSet (q : Nat) (s : State) : Host.Outcome State Fault Refusal := unit 64 q s (order specTimeHostSet q [])

/-- TIME_EPOCH_SET (R39). -/
def specTimeEpochSet : Spec where
  op := 0x0702
  q0 := true
  allot := 1
  fallow := true
  fields := fun _ o => [rz o 20 7, rzb o 27 0 7]
  body := fun s o => s.acceptFallow o (.epoch (o.field 16 4))

def execTimeEpochSet (q : Nat) (s : State) : Host.Outcome State Fault Refusal := unit 64 q s (order specTimeEpochSet q [])

/-- TIME_FALLOW (R52, R111). -/
def specTimeFallow : Spec where
  op := 0x0704
  q0 := true
  allot := 1
  fields := fun _ o => [rz o 22 6]
  late := fun s o => match namedTurn s (o.field 16 6) with
    | some w => [(true, w)]
    | none => []
  body := fun s o =>
    { s.addFallow (o.field 16 6) with fallowDue := s.fallowDue ++ [(⟨o, o.field 16 6, .fallowOnly⟩ : FallowDue)] }

def execTimeFallow (q : Nat) (s : State) : Host.Outcome State Fault Refusal := unit 64 q s (order specTimeFallow q [])

/-! ## TURN_SET (R41, R42) -/

/-- A turn number relative to the anchor, signed (R543). -/
def State.fromAnchor (s : State) (k : Nat) : Int := signed 48 (k + 2 ^ 48 - s.get F.WCK_ANCHOR_TURN_TURN)

/-- The turn ends at a whole second (R543). -/
def State.endsSecond (s : State) (k : Nat) : Bool :=
  (s.fromAnchor ((k + 1) % 2 ^ 48)) % (max 1 (s.get F.WCK_TURN_RATE_RATE) : Nat) == 0

/-- The first turn at or after `k` that ends at a whole second. -/
def State.nextSecondTurn (s : State) (k : Nat) : Nat :=
  let r := max 1 (s.get F.WCK_TURN_RATE_RATE)
  (k + ((-(s.fromAnchor ((k + 1) % 2 ^ 48))) % (r : Int)).toNat) % 2 ^ 48

/-- An earlier TURN_SET's final tally is not decided (R42): its fallow turn is pending, or its relock waits for the new or the
previous frequency. -/
def State.turnSetBusy (s : State) : Bool :=
  (s.fallowDue.any fun x => match x.change with | .turnSet _ _ => true | _ => false) ||
    match s.wck.relock with
    | some k => k.turnSet && decide (k.phase ≤ 2)
    | none => false

/-- TURN_SET is accepted now: its fallow turn is named (R42). -/
def State.acceptTurnSet (s : State) (o : Ord) : State :=
  let t := s.nextSecondTurn ((s.wck.turn + if s.anyRunning then 2 else 1) % 2 ^ 48)
  { s.addFallow t with fallowDue := s.fallowDue ++ [(⟨o, t, .turnSet (o.field 16 2) (o.field 20 4)⟩ : FallowDue)] }

/-- TURN_SET (R51, R68, R531). Of an order that meets both conditions of R68, whose order is not stated, N_TURN is named (DESIGN CHOICE, log
entry 106). -/
def specTurnSet : Spec where
  op := 0x0703
  q0 := true
  allot := 1
  fallow := true
  state := fun s o =>
    let loaded := (List.range 16).filter fun a => decide (2 ≤ s.altState a ∧ s.altState a ≤ 4)
    let linked := loaded.filter s.exchanges
    [(o.field 20 4 != s.get F.WCK_TURN_CYCLES_COUNT && !loaded.isEmpty, whyState (0x43 + 0xFFFF * 2 ^ 16) (loaded.headD 0)),
     (decide (s.freq < o.field 16 2 * o.field 20 4) && !linked.isEmpty, whyState (0x3A + 0xFFFF * 2 ^ 16) (linked.headD 0)),
     (s.vsel == 0 && decide (1800000000 < o.field 16 2 * o.field 20 4), whyOpen stState 0xE3)]
  fields := fun _ o =>
    let r := o.field 16 2
    let n := o.field 20 4
    [rg (decide (r < 24) || decide (2000 < r)) 16, rz o 18 2,
     rg (decide (n < 400000) || decide (87500000 < n) || decide (r * n < 800000000) || decide (2100000000 < r * n)) 20,
     rz o 24 3, rzb o 27 0 7]
  body := fun s o => s.serve o s.turnSetBusy (·.acceptTurnSet o)

def execTurnSet (q : Nat) (s : State) : Host.Outcome State Fault Refusal := unit 64 q s (order specTurnSet q [])

/-! ## Changes of turn numbering (R38, R543) -/

/-- A held turn number moves by Δ. -/
def moved (d : Int) (t : Nat) : Nat := unsigned 48 (t + d)

def Ord.moved (d : Int) (o : Ord) : Ord := { o with deadline := Machine.moved d o.deadline, shift := o.shift + d }

def Allot.moved (d : Int) (x : Allot) : Allot :=
  { x with
    armed := x.armed.map fun m => ⟨m.ord.moved d, Machine.moved d m.t0⟩
    stops := x.stops.map fun m => (m.1.moved d, Machine.moved d m.2)
    delivs := x.delivs.map fun m => { m with startTurn := Machine.moved d m.startTurn }
    peerSluice := x.peerSluice.map (Machine.moved d) }

/-- Only a pending TURN_SET has made the turn fallow: nothing else is due in it. -/
def State.onlyTurnSet (s : State) (t : Nat) : Bool :=
  let ofSet (x : FallowDue) : Bool := match x.change with
    | .turnSet _ _ => true
    | _ => false
  (s.fallowDue.any fun x => x.turn == t && ofSet x) && !(s.fallowDue.any fun x => x.turn == t && !ofSet x)
    && !(s.reopens.any fun x => x.turn == t)

/-- Every turn number held for a future action moves by Δ. -/
def State.moveTurns (s : State) (d : Int) : State :=
  let due (x : FallowDue) : FallowDue :=
    match x.change with
    | .turnSet _ _ => { x with ord := x.ord.moved d, turn := s.nextSecondTurn (moved d x.turn) }
    | _ => { x with ord := x.ord.moved d, turn := moved d x.turn }
  { s with
    inflight := s.inflight.map (·.moved d)
    waiting := s.waiting.map (·.moved d)
    staged := s.staged.map fun x => { x with ord := x.ord.moved d }
    fallowDue := s.fallowDue.map due
    reopens := s.reopens.map fun x => { x with ord := x.ord.moved d, turn := moved d x.turn }
    allots := s.allots.map fun x => (x.1, x.2.moved d)
    ings := s.ings.map fun x => (x.1, { x.2 with
      lastStart := moved d x.2.lastStart, frames := x.2.frames.map fun f => { f with turn := moved d f.turn } })
    viss := s.viss.map fun x => (x.1, { x.2 with run := x.2.run.map fun r => if r.going || decide (r.frame ≠ 0) then r else { r with t0 := moved d r.t0 } })
    basins := s.basins.map fun x => (x.1, { x.2 with run := x.2.run.map fun r => if r.going then r else { r with ord := r.ord.moved d } })
    wck := { s.wck with fallow := ((s.wck.fallow.filter (!s.onlyTurnSet ·)).map (moved d)) ++ (s.fallowDue.filterMap fun x =>
      match x.change with
      | .turnSet _ _ => some (s.nextSecondTurn (moved d x.turn))
      | _ => none) } }

/-- The turn that begins now has number `n` in place of the current one (R38). -/
def State.renumber (s : State) (n : Nat) : State :=
  let d := signed 48 (n + 2 ^ 48 - s.wck.turn)
  if d = 0 then s
  else
    let s := s.moveTurns d
    let s := { s with wck := { s.wck with turn := n } }
    let s := (s.put F.WCK_STEP_DELTA (unsigned 48 d)).put F.WCK_STEP_VALID 1
    s.notice 0x0CF3 s.wckState 255

/-- The number of the turn of R39 that holds the present time (R543). Seconds are counted modulo 2^32, and how the difference of the
time and the anchor is resolved is not stated: it is read as a signed number of 32 bits (DESIGN CHOICE, log entry 106). -/
def State.turnAt (s : State) : Nat :=
  let r := s.get F.WCK_TURN_RATE_RATE
  let sec := signed 32 (s.wck.sec + 2 ^ 32 - s.get F.WCK_ANCHOR_SEC_SEC)
  unsigned 48 (s.get F.WCK_ANCHOR_TURN_TURN + sec * r + ((4 * s.freq * s.wck.ns + s.wck.frac) * r / (4000000000 * s.freq) : Nat))

/-- Time is set, and the turn renumbered. -/
def State.setTime (s : State) (sec ns frac : Nat) : State :=
  let s := { s with wck := { s.wck with sec := sec, ns := ns, frac := frac } }
  s.renumber s.turnAt

/-- Time moves by `d` nanoseconds: what the sources' events are predicted by moves with it, so that an event at the predicted
instant stays within its window (R28, R35; log entry 43: for a host-set time too, which R35 calls a step of the same kind). -/
def State.shiftSources (s : State) (d : Int) : State :=
  let shift (x : Src) : Src := { x with dis := x.dis - 8 * d }
  { s with wck := { s.wck with gnss := shift s.wck.gnss, pps := shift s.wck.pps, marker := shift s.wck.marker } }

/-- The pending step moves time (R35). -/
def State.stepTime (s : State) (d : Int) : State :=
  let t : Int := s.wck.sec * 1000000000 + s.wck.ns + d
  (s.dropStep.shiftSources d).setTime (unsigned 32 (t / 1000000000)) ((t % 1000000000).toNat) s.wck.frac

/-- The host's time, by R35 a step of the same kind. -/
def State.hostTime (s : State) (sec ns : Nat) : State :=
  (s.shiftSources ((sec * 1000000000 + ns : Nat) - (s.wck.sec * 1000000000 + s.wck.ns : Nat) : Int)).setTime sec ns 0

/-- Fallow-only changes due in this turn that satisfy a test, in order of acceptance. -/
def State.dueNow (s : State) (p : Change → Bool) : List FallowDue :=
  s.fallowDue.filter fun x => x.turn == s.wck.turn && p x.change

/-- The changes are done with. -/
def State.dropDue (s : State) (l : List FallowDue) : State :=
  { s with fallowDue := s.fallowDue.filter fun x => !(l.any fun y => y.ord.id == x.ord.id && decide (y.change = x.change)) }

/-- A TIME_HOST_SET or a TIME_EPOCH_SET due now (R35, R37, R39). -/
def State.applyNumbering (s : State) (x : FallowDue) : State :=
  match x.change with
  | .hostTime sec ns =>
    if s.wckState = wckFreeRun ∨ s.wckState = wckDoubt then (s.hostTime sec ns).done x.ord
    else s.fail x.ord (whyState 0x2E s.wckState)
  | .epoch e =>
    let s := ((s.put F.WCK_ANCHOR_SEC_SEC e).put F.WCK_ANCHOR_TURN_TURN 0)
    (s.renumber s.turnAt).done x.ord
  | _ => s

/-- Changes of time and of the epoch: they do not commute, so both rows that apply them take them in order of acceptance (R52). -/
def Change.numbers : Change → Bool
  | .hostTime _ _ => true
  | .epoch _ => true
  | _ => false

/-- Rate, cycle count and PLL reference that a due change asks for. -/
def Change.target (c : Change) (x : Nat × Nat × Nat) : Nat × Nat × Nat :=
  match c with
  | .turnSet a b => (a, b, x.2.2)
  | .pllRef r => (x.1, x.2.1, r)
  | _ => x

/-- A change that relocks the PLL. -/
def Change.relocks : Change → Bool
  | .turnSet _ _ => true
  | .pllRef _ => true
  | _ => false

/-- A TURN_SET. -/
def Change.setsTurn : Change → Bool
  | .turnSet _ _ => true
  | _ => false

/-- A due relock can be taken up: none is under way; one was begun in this very turn, which it shares (R52); or the one under way has
decided its orders' tallies and a TURN_SET, whose fallow turn ends at the whole second that one waits for, takes its place (R42,
R56). -/
def State.relockFree (s : State) (c : Change) : Bool :=
  match s.wck.relock with
  | none => true
  | some k => (k.phase == 1 && k.used == 1 && !k.confirmed) || (c.setsTurn && decide (3 ≤ k.phase))

/-- The relock that a due change begins or shares: it goes from `old` to what the change asks for. -/
def State.relockOf (s : State) (x : FallowDue) : Relock :=
  let fresh (r n ref : Nat) : Relock :=
    let new := x.change.target (r, n, ref)
    { ords := [x.ord], turnSet := x.change.setsTurn, newR := new.1, newN := new.2.1, newRef := new.2.2, oldR := r, oldN := n,
      oldRef := ref, phase := 1, used := 1, confirmed := false, late := false }
  match s.wck.relock with
  | none => fresh (s.get F.WCK_TURN_RATE_RATE) (s.get F.WCK_TURN_CYCLES_COUNT) s.wck.pllRef
  | some k =>
    if 3 ≤ k.phase then fresh k.oldR k.oldN k.oldRef
    else
      let new := x.change.target (k.newR, k.newN, k.newRef)
      { k with ords := k.ords ++ [x.ord], turnSet := k.turnSet || x.change.setsTurn, newR := new.1, newN := new.2.1, newRef := new.2.2 }

/-- A TURN_SET or a change of PLL reference due now takes the core to the lagoon clock (R54). -/
def State.beginRelock (s : State) (x : FallowDue) : State :=
  let k := s.relockOf x
  let s := (s.dropDue [x]).took x.ord
  let s := { s with wck := { s.wck with relock := some k, pllRef := k.newRef } }
  (s.put F.WCK_STATE_ON_LAGOON 1).put F.WCK_STATE_FALLOW_EXT 1

/-- The first change of time, epoch, rate or PLL reference that is due now and can be made. -/
def State.nextDue (s : State) : Option FallowDue :=
  (s.dueNow fun c => c.numbers || c.relocks).find? fun x => x.change.numbers || s.relockFree x.change

/-- These changes are made one by one in order of acceptance (R52), each on what those before it left due: a change of numbering may move
a TURN_SET out of this turn (R38). They end when none that satisfies `p` is due, or none that is can be made. -/
def State.makeDue (p : Change → Bool) : Nat → State → State
  | 0, s => s
  | n + 1, s =>
    if s.dueNow p = [] then s
    else match s.nextDue with
      | none => s
      | some x => State.makeDue p n (if x.change.numbers then (s.dropDue [x]).applyNumbering x else s.beginRelock x)

def State.makeAll (s : State) (p : Change → Bool) : State := State.makeDue p s.fallowDue.length s

/-- PLL_RELOCK_START at cycle 0: every relock due now begins, and what was accepted before it is made first. -/
def relockStart (s : State) : State := if s.wck.cycle ≠ 0 then s else s.makeAll Change.relocks

/-- At cycle 0 of a fallow turn, or at a boundary when nothing is ARMED or RUNNING (R35). No rule orders a pending step and a TURN_SET
due in one turn: they come in the order in which TIME_STEP_APPLY and PLL_RELOCK_START do (DESIGN CHOICE, log entry 106). -/
def applyTime (s : State) : State :=
  if s.wck.cycle ≠ 0 then s
  else
    let s := s.makeAll Change.numbers
    match s.wck.step with
    | some d => if s.wck.isFallow || !s.anyRunning then s.stepTime d else s
    | none => s

def execTimeStepApply (s : State) : Host.Outcome State Fault Refusal := run s applyTime

/-! ## Fallow turns -/

/-- The lowest-numbered allotment with a loaded plan that declares another refresh class (R305). -/
def State.classConflict (s : State) (c : Nat) : Option Nat :=
  (List.range 16).find? fun a => (s.allot a).plans.any fun p => p.cls != c

/-- REFRESH_CLASS_SET (R305). -/
def specRefreshClassSet : Spec where
  op := 0x0302
  q0 := true
  allot := 1
  fallow := true
  state := fun s o =>
    let c := o.field 16 1
    match (if c ≤ 1 then s.classConflict c else none) with
    | some a => [(true, whyState 0x45 a)]
    | none => []
  fields := fun _ o => [rg (decide (1 < o.field 16 1)) 16, rz o 17 10, rzb o 27 0 7]
  body := fun s o => s.acceptFallow o (.refresh (o.field 16 1))

def execRefreshClassSet (q : Nat) (s : State) : Host.Outcome State Fault Refusal := unit 64 q s (order specRefreshClassSet q [])

/-- One change due at cycle 0 of this fallow turn (R52). Time and epoch are changed by `makeAll`, the PLL is relocked by
PLL_RELOCK_START, domains are switched by DOMAIN_SWITCH, a reopening begins with REOPEN_FALLOW_START. -/
def State.applyFallow (s : State) (x : FallowDue) : State :=
  match x.change with
  | .fallowOnly => s.done x.ord
  | .refresh c =>
    match s.classConflict c with
    | some a => s.fail x.ord (whyState 0x45 a)
    | none => (s.put F.HBM_CLASS_CLASS c).done x.ord
  | _ => s

def applyFallows (s : State) : State :=
  if s.wck.cycle ≠ 0 ∨ ¬ s.wck.isFallow then s
  else
    let s := s.makeAll Change.numbers
    let l := s.dueNow fun c => match c with | .fallowOnly => true | .refresh _ => true | _ => false
    l.foldl State.applyFallow (s.dropDue l)

def execFallowChangeApply (s : State) : Host.Outcome State Fault Refusal := run s applyFallows

/-! ## Relock (R54 to R57) -/

def execPllRelockStart (s : State) : Host.Outcome State Fault Refusal := run s relockStart

/-- The PLL has held lock for 64 µs at the frequency it is programmed for. At the previous frequency the orders end TIMEOUT (R24,
R56). A confirmation that comes after g = 0 leaves the next turn fallow too (R56), although the core returns to the PLL at its
boundary (R54). `tie`: it comes in the cycle in which the relock's time is judged, and is captured first (R119). -/
def lockConfirm (tie : Bool) (s : State) : State :=
  match s.wck.relock with
  | some k =>
    if k.confirmed || k.phase == 4 then s
    else
      let ords := if tie then k.ords.map fun o => { o with margin := true } else k.ords
      let s : State := if tie then s.tieOrders k.ords else s
      let s : State := { s with wck := { s.wck with relock := some { k with
        ords := ords, confirmed := true, phase := if k.phase = 2 then 3 else k.phase, late := decide (s.guardCycle 0 < s.wck.cycle) } } }
      let s := if s.guardCycle 0 < s.wck.cycle then s.addFallow ((s.wck.turn + 1) % 2 ^ 48) else s
      if k.phase = 2 then ords.foldl (fun s o => s.finish o stTimeout 0 openTimeout) s else s
  | none => s

def execPllLockConfirm (tie : Bool) (s : State) : Host.Outcome State Fault Refusal := run s (lockConfirm tie)

/-- g = 0 of a relock turn without confirmation (R56). -/
def relockTimeout (s : State) : State :=
  match s.wck.relock with
  | some k =>
    if k.confirmed || k.phase == 4 then s
    else if k.phase = 1 then
      if 16 ≤ k.used then
        { s with wck := { s.wck with relock := some { k with phase := 2, used := 16 }, pllRef := k.oldRef } }
      else s
    else if 32 ≤ k.used then
      let s := { s with wck := { s.wck with relock := some { k with phase := 4 } } }
      (k.ords.foldl (fun s o => s.finish o stSluice 0 (openCause cClock)) s).doubtChip { cause := cClock }
    else s
  | none => s

def execRelockTimeout (s : State) : Host.Outcome State Fault Refusal := run s relockTimeout

/-- The frequency in force changes at a boundary; the fraction of a nanosecond is carried over. -/
def State.setRate (s : State) (r n : Nat) : State :=
  let f := s.freq
  let s := ((s.put F.WCK_TURN_RATE_RATE r).put F.WCK_TURN_CYCLES_COUNT n).put F.AQD_CHIP_Q_SLOT (min 15 (12480000000 / max 1 (r * n)))
  { s with wck := { s.wck with frac := s.wck.frac * s.freq / f } }

/-- The boundary just passed is a whole second and becomes the anchor (R42, R543). Where a change of time or epoch made after the TURN_SET
in the same turn leaves it no whole second, its second is the floor (DESIGN CHOICE, log entry 106). -/
def State.setAnchor (s : State) (k : Nat) : State :=
  let r := max 1 (s.get F.WCK_TURN_RATE_RATE)
  let sec := s.get F.WCK_ANCHOR_SEC_SEC + s.fromAnchor k / (r : Int)
  (s.put F.WCK_ANCHOR_SEC_SEC (unsigned 32 sec)).put F.WCK_ANCHOR_TURN_TURN k

/-- Changes that found a relock under way in their turn take the next one that can hold them. -/
def State.rebook (s : State) (k : Nat) : State :=
  let late (x : FallowDue) : Bool := (turnsAhead k x.turn).isNone
  let to_ (x : FallowDue) : Nat := match x.change with
    | .turnSet _ _ => s.nextSecondTurn k
    | .pllRef _ => k
    | _ => x.turn
  let l := s.fallowDue.map fun x => if late x then { x with turn := to_ x } else x
  (s.fallowDue.filter late).foldl (fun s x => s.addFallow (to_ x)) { s with fallowDue := l }

/-- Relock at a turn boundary: `k` is the number of the turn that begins. -/
def State.relockBoundary (s : State) (k : Nat) : State :=
  match s.wck.relock with
  | none => s
  | some x =>
    let whole := s.fromAnchor k % (max 1 (s.get F.WCK_TURN_RATE_RATE) : Nat) == 0
    let isTurn := x.turnSet
    -- the new rate takes effect at the end of the first relock turn (R42)
    let s := if isTurn ∧ x.used = 1 ∧ x.phase = 1 then (s.setAnchor k).setRate x.newR x.newN else s
    let more (s : State) (y : Relock) : State :=
      { s.bump F.WCK_STATE_FALLOW_EXT with wck := { s.wck with relock := some { y with used := y.used + 1, late := false } } }
    let s := if x.late && (x.phase != 3 || !isTurn || whole) then s.bump F.WCK_STATE_FALLOW_EXT else s
    if x.phase = 3 then
      if isTurn ∧ ¬ whole then more s x
      else
        let s := if isTurn then (s.setAnchor k).setRate x.oldR x.oldN else s
        { s.put F.WCK_STATE_ON_LAGOON 0 with wck := { s.wck with relock := none } }.rebook k
    else if x.phase = 4 then
      if isTurn ∧ ¬ whole then more s x
      else
        let s := if isTurn then (s.setAnchor k).setRate x.oldR x.oldN else s
        { s with wck := { s.wck with relock := none } }.rebook k
    else if x.confirmed then
      let s := { s.put F.WCK_STATE_ON_LAGOON 0 with wck := { s.wck with relock := none } }.rebook k
      x.ords.foldl (fun s o => if s.staged.any (fun y => y.ord.id == o.id) then s else s.done o) s
    else more s x

end Sys2Proof.Machine
end

