-- ==== Sys2Proof/Machine/Trig.lean ====
section
/-! DEFINITION. The cosine in fixed point, for the encoder (R369) and the baseband's carrier replica (R422). -/

namespace Sys2Proof.Machine

/-- π with 160 fraction bits. -/
def piFix : Nat := 0x3243F6A8885A308D313198A2E03707344A4093822

/-- Terms of the cosine series at x (160 fraction bits), from term `n`. -/
def cosTerms (x2 : Int) : Nat → Nat → Int → Int
  | 0, _, t => t
  | fuel + 1, n, t => t + cosTerms x2 fuel (n + 1) (-(t * x2 / 2 ^ 160 / ((2 * n + 1) * (2 * n + 2) : Nat)))

/-- cos(π a / N) with 160 fraction bits, for any a. -/
def cosFix (bigN a : Nat) : Int :=
  let a := a % (2 * bigN)
  let a := if a ≤ bigN then a else 2 * bigN - a
  let (b, neg) := if 2 * a ≤ bigN then (a, false) else (bigN - a, true)
  let x : Int := (piFix * b / bigN : Nat)
  let v := cosTerms (x * x / 2 ^ 160) 40 0 (2 ^ 160)
  if neg then -v else v

/-- sin(π a / N) with 160 fraction bits, for even N. -/
def sinFix (bigN a : Nat) : Int := cosFix bigN (a + 2 * bigN - bigN / 2)

end Sys2Proof.Machine
end

