-- ==== Sys2Proof/Machine/Baseband.lean ====
section
/-! DEFINITION. The signal path of the GNSS baseband: the sample interface (R414), the signals (R416), the search of a candidate by the
correlator bank or the FFT engine (R420, R421), the tracking correlators, their discriminators and loops (R422, R423). -/

namespace Sys2Proof.Machine

/-! ## The configuration record (Table 17-2) -/

/-- The record in force; zeros before the first GNSS_CONFIG. -/
def Gnss.record (g : Gnss) : Bytes := g.cfg.getD []
def gcReal (b : Bytes) : Bool := bit (fieldAt b 0 1) 0
def gcFour (b : Bytes) : Bool := bit (fieldAt b 0 1) 1
def gcFalling (b : Bytes) : Bool := bit (fieldAt b 0 1) 2
def gcFft (b : Bytes) : Bool := bit (fieldAt b 0 1) 3
def gcFixed (b : Bytes) : Bool := bit (fieldAt b 0 1) 4
def gcSystems (b : Bytes) : Nat := bits (fieldAt b 1 1) 0 5
def gcMinSats (b : Bytes) : Nat := bits (fieldAt b 2 1) 0 5
def gcNc (b : Bytes) : Nat := bits (fieldAt b 3 1) 0 5
def gcFs (b : Bytes) : Nat := fieldAt b 4 4
/-- The intermediate frequency of a signal code (R416). -/
def gcIf (b : Bytes) (code : Nat) : Int := signed 32 (fieldAt b (if code = 2 then 12 else 8) 4)
def gcSpan (b : Bytes) : Nat := fieldAt b 16 2
def gcMask (b : Bytes) : Nat := fieldAt b 18 2
def gcRaim (b : Bytes) : Nat := fieldAt b 20 2
def gcWeekBase (b : Bytes) : Nat := fieldAt b 22 2
def gcCable (b : Bytes) : Int := signed 32 (fieldAt b 24 4)
def gcSurveyTime (b : Bytes) : Nat := fieldAt b 36 4
def gcPos (b : Bytes) : Bytes := slice b 40 12
def gcPll (b : Bytes) : Nat := bits (fieldAt b 52 1) 0 6
def gcDll (b : Bytes) : Nat := bits (fieldAt b 53 1) 0 6
def gcDouble (b : Bytes) : Bool := bit (fieldAt b 54 1) 0

/-! ## Samples (R414) -/

/-- The level of a sample's four bits; a sign bit of 1 is the negative one (log entry 95). -/
def gnssLevel (four : Bool) (v : Nat) : Int :=
  if four then 2 * v - 15 else (if bit v 1 then -1 else 1) * (if bit v 0 then 3 else 1)

/-- One period of GNSS_CLK: GNSS_I and GNSS_Q at its rising edge in bits [3:0] and [7:4], at its falling edge in [11:8] and [15:12]. -/
def gnssSample (b : Bytes) (pins : Nat) : Int × Int :=
  let e := if gcFalling b then 8 else 0
  (gnssLevel (gcFour b) (bits pins e 4), if gcReal b then 0 else gnssLevel (gcFour b) (bits pins (e + 4) 4))

/-! ## Signals (Table 17-1) -/

/-- Chips and milliseconds of a primary code, its chips and its carrier's cycles a second. -/
def codeChips (code : Nat) : Nat := match code with | 1 => 4092 | 2 => 2046 | 3 => 10230 | _ => 1023
def codeMs (code : Nat) : Nat := match code with | 1 => 4 | 3 => 10 | _ => 1
def chipRate (code : Nat) : Nat := if code = 2 then 2046000 else 1023000
def carrierHz (code : Nat) : Nat := if code = 2 then 1561098000 else 1575420000

/-- The PRNs of a signal code: first and last. -/
def prnRange : Nat → Nat × Nat
  | 0 => (1, 32)
  | 1 => (1, 36)
  | 2 => (1, 63)
  | 3 => (19, 63)
  | _ => (193, 202)

/-- 40 fraction bits of a phase. -/
def one40 : Nat := 2 ^ 40

/-- The code replica at a phase in 2^-40 chips: the chip, and for codes 1 and 3 the BOC(1,1) subcarrier on it (R416). -/
def codeReplica (code prn : Nat) (phase : Int) : Int :=
  let p := (phase % (codeChips code * one40 : Nat)).toNat
  let c : Int := if Config.chip code prn (p / one40) then -1 else 1
  if (code = 1 ∨ code = 3) ∧ one40 / 2 ≤ p % one40 then -c else c

/-- A sample turned back by a carrier phase in 2^-40 cycles; 160 fraction bits. -/
def derotate (x : Int × Int) (phase : Int) : Int × Int :=
  let a := (phase % (one40 : Int)).toNat
  let c := cosFix (one40 / 2) a
  let s := sinFix (one40 / 2) a
  (x.1 * c + x.2 * s, x.2 * c - x.1 * s)

def cAdd (x y : Int × Int) : Int × Int := (x.1 + y.1, x.2 + y.2)
def power (x : Int × Int) : Nat := (x.1 * x.1 + x.2 * x.2).toNat

/-- Samples at rate `fs` against a code replica that starts at phase `code` and runs at `rate`, and a carrier replica that starts at
`car` and runs at `freq`, both in 2^-40 a second. -/
def correlate (sig prn fs : Nat) (xs : List (Int × Int)) (code rate car freq : Int) : Int × Int :=
  xs.zipIdx.foldl (fun z x =>
    let r := codeReplica sig prn (code + x.2 * rate / fs)
    let y := derotate x.1 (car + x.2 * freq / fs)
    cAdd z (r * y.1, r * y.2)) (0, 0)

/-- The code rate that goes with a Doppler: the code is aided by the carrier (R422). -/
def aidedRate (sig : Nat) (doppler : Int) : Int := chipRate sig * one40 + doppler * chipRate sig / carrierHz sig

/-! ## The search grid (R420, R421) -/

def binHz (code : Nat) : Nat := 500 / codeMs code
/-- Bins on each side of zero. -/
def sideBins (b : Bytes) (code : Nat) : Nat := cdiv (gcSpan b) (binHz code)
def gridBins (b : Bytes) (code : Nat) : Nat := 2 * sideBins b code + 1
def gridCells (b : Bytes) (code : Nat) : Nat := 2 * codeChips code * gridBins b code
def bankCells : Nat := 16384
/-- Passes of the correlator bank, each of T_c × NC. -/
def bankPasses (b : Bytes) (code : Nat) : Nat := cdiv (gridCells b code) bankCells
def fftCycles : Nat := 66560
/-- Lagoon cycles of the FFT engine for a candidate: a transform, product and inverse for each bin and each sum. -/
def fftTime (b : Bytes) (code : Nat) : Nat := gridBins b code * gcNc b * fftCycles

/-- Cell `i` of the grid, code offsets first: offset in half chips, Doppler bin. -/
def cellAt (b : Bytes) (code i : Nat) : Nat × Int := (i % (2 * codeChips code), (i / (2 * codeChips code) : Nat) - (sideBins b code : Int))

/-- The non-coherent sum of a cell: NC coherent sums over one primary code period each. -/
def cellSum (b : Bytes) (code prn : Nat) (xs : List (Int × Int)) (fs : Nat) (ifHz : Int) (cell : Nat × Int) : Nat :=
  let m := xs.length / max 1 (gcNc b)
  ((List.range (gcNc b)).map fun k =>
    power (correlate code prn fs ((xs.drop (k * m)).take m) (cell.1 * (one40 / 2) : Nat) (chipRate code * one40 : Nat) 0
      ((ifHz + cell.2 * binHz code) * one40))).sum

/-- The better of two cells: the higher sum, then the lower code offset, then the lower Doppler (R420). -/
def GnssCell.better (x y : GnssCell) : GnssCell :=
  if x.sum < y.sum ∨ (x.sum = y.sum ∧ (y.offset < x.offset ∨ (y.offset = x.offset ∧ y.bin < x.bin))) then y else x

/-- The best of the cells from `first`, `n` of them. -/
def bestCell (b : Bytes) (code prn : Nat) (xs : List (Int × Int)) (fs : Nat) (ifHz : Int) (first n : Nat) : Option GnssCell :=
  (List.range n).foldl (fun r i =>
    let c := cellAt b code (first + i)
    let x : GnssCell := ⟨cellSum b code prn xs fs ifHz c, c.1, c.2⟩
    match r with | some y => some (y.better x) | none => some x) none

/-- The power of samples, in the scale of a coherent sum. -/
def samplePower (xs : List (Int × Int)) : Nat := (xs.map power).sum * 2 ^ 320

/-- The terms t^k / k! for k below `n`, with 256 fraction bits; t has 64. -/
def expTerms (t : Nat) : Nat → Nat → Nat → List Nat
  | 0, _, _ => []
  | n + 1, k, x => x :: expTerms t n (k + 1) (x * t / 2 ^ 64 / (k + 1))

/-- The detection threshold (R420): after `nc` sums of noise whose coherent sums have the samples' power, a cell comes this high with
a probability below 10^-6. The sum over its mean is then of the gamma distribution of order `nc`, whose tail at t is e^-t times the
first `nc` terms of e^t (log entry 95). -/
def exceeds (nc sum pow : Nat) : Bool :=
  let l := expTerms (sum * nc * 2 ^ 64 / max 1 pow) (nc + 400) 0 (2 ^ 256)
  decide (999999 * (l.take nc).sum < (l.drop nc).sum)

/-! ## The search of a candidate -/

/-- The first enabled signal code at or after `c`, going round. -/
def enabledFrom (sys c : Nat) : Nat :=
  ((List.range 5).map fun i => (c + i) % 5).find? (fun k => bit sys k) |>.getD 0

/-- The candidate as the search takes it: the stored one, or the first of the next enabled signal. -/
def Gnss.candidate (g : Gnss) : Nat × Nat :=
  let c := g.cand.1
  if bit (gcSystems g.record) c then (c, max g.cand.2 (prnRange c).1)
  else
    let k := enabledFrom (gcSystems g.record) c
    (k, (prnRange k).1)

/-- The candidate after it. -/
def Gnss.advance (g : Gnss) : Nat × Nat :=
  let (c, p) := g.candidate
  if p < (prnRange c).2 then (c, p + 1)
  else
    let k := enabledFrom (gcSystems g.record) ((c + 1) % 5)
    (k, (prnRange k).1)

/-- The search has seen all its samples: every pass made, or the snapshot captured for the candidate's signal. -/
def Gnss.searched (g : Gnss) : Bool :=
  let c := g.candidate.1
  if gcFft g.record then g.acq.snapFor == some c else decide (bankPasses g.record c ≤ g.acq.pass)

/-- A millisecond of samples reaches the search engine; `lagoon`: the present lagoon cycle. -/
def Gnss.search (g : Gnss) (xs : List (Int × Int)) (lagoon : Nat) : GnssAcq :=
  let a := g.acq
  let b := g.record
  let (c, p) := g.candidate
  if g.searched then { a with age := a.age + 1 }
  else
    let got := a.got ++ xs
    if a.ms + 1 < codeMs c * gcNc b then { a with got := got, ms := a.ms + 1 }
    else if gcFft b then
      { a with
        snap := (List.range (2 * codeChips c * gcNc b)).map (Config.resample got [gcFs b, gcIf b c, 2 * chipRate c])
        snapFor := some c, got := [], ms := 0, age := 0, until_ := lagoon + fftTime b c }
    else
      let first := bankCells * a.pass
      let cell := bestCell b c p got (gcFs b) (gcIf b c) first (min bankCells (gridCells b c - first))
      { a with pass := a.pass + 1, found := a.found ++ cell.toList.map (fun x => (x, samplePower got)), got := [], ms := 0, age := 0 }

/-- The best cell of a search that has seen all its samples, when it exceeds the threshold. The FFT engine's transforms form, over a
block of one primary code period at 2 samples per chip, the sums of every code offset of a bin at once. -/
def Gnss.detection (g : Gnss) : Option GnssCell :=
  let b := g.record
  let (c, p) := g.candidate
  let l := if gcFft b then
      (bestCell b c p g.acq.snap (2 * chipRate c) 0 0 (gridCells b c)).toList.map fun x => (x, samplePower g.acq.snap)
    else g.acq.found
  match l with
  | [] => none
  | y :: r =>
    let best := r.foldl (fun x y => if (x.1.better y.1) = x.1 then x else y) y
    if exceeds (gcNc b) best.1.sum best.2 then some best.1 else none

/-- The engine as the next candidate finds it: a snapshot serves every candidate of its signal in a round (Table 17-4). -/
def Gnss.nextAcq (g : Gnss) (lagoon : Nat) : GnssAcq :=
  let n := g.advance
  if gcFft g.record && g.acq.snapFor == some n.1 && decide (g.candidate.2 < n.2) then
    { g.acq with until_ := lagoon + fftTime g.record n.1 }
  else GnssAcq.reset

/-! ## Tracking (R422, R423) -/

/-- Correlator offsets (Table 17-3), in 2^-40 chips: early, prompt, late, narrow pairs A and B, very early, very late. -/
def corrOffsets (sig : Nat) : List Int :=
  let u (n d : Nat) : Int := (one40 * n / d : Nat)
  let far : Int := if sig = 1 ∨ sig = 3 then u 1 2 else u 1 1
  [-u 1 2, 0, u 1 2, -u 1 16, u 1 16, -u 1 8, u 1 8, -far, far]

def GnssChan.corr (x : GnssChan) (i : Nat) : Int × Int := x.sums.getD i (0, 0)
def GnssChan.pow (x : GnssChan) (i : Nat) : Int := power (x.corr i)

/-- The code discriminator (R422): numerator, denominator. -/
def discriminator (double : Bool) (x : GnssChan) : Int × Int :=
  if double then (2 * (x.pow 3 - x.pow 4) - (x.pow 5 - x.pow 6), 2 * x.pow 1)
  else (x.pow 0 - x.pow 2, x.pow 0 + x.pow 2)

/-- Milliseconds of an integration after bit synchronisation: a data bit or a pilot code period, whichever is shorter (R422; the
lengths of a data bit are the signals' own, log entry 24). -/
def integMs (sig prn : Nat) : Nat :=
  match sig with
  | 1 => 4
  | 2 => if prn ≤ 5 ∨ 59 ≤ prn then 2 else 20
  | 3 => 10
  | _ => 20

/-- An integration ends: the loops act, the side peaks are looked at (R423), the next one begins. `pullIn`: the FLL assists. -/
def GnssChan.integrated (x : GnssChan) (b : Bytes) (sig : Nat) (pullIn : Bool) : GnssChan :=
  let d := discriminator (gcDouble b) x
  let p := x.corr 1
  let loop := Config.carrierLoop [gcPll b, x.integ, if pullIn then 1 else 0, p.1, p.2, x.prompt.1, x.prompt.2, x.carrier.1, x.carrier.2.1, x.carrier.2.2]
  let side := (sig == 1 || sig == 3) && (decide (x.pow 1 < x.pow 7) || decide (x.pow 1 < x.pow 8))
  { x with
    code := x.code + Config.codeLoop [gcDll b, x.integ, d.1, d.2], carrier := (loop 0, loop 1, loop 2)
    sums := [], ms := 0, prompt := p, sidePeak := if side then x.sidePeak + 1 else 0 }

/-- A millisecond of samples passes a channel's correlators. -/
def GnssChan.window (x : GnssChan) (b : Bytes) (sig prn : Nat) (pullIn : Bool) (xs : List (Int × Int)) : GnssChan :=
  let fs := gcFs b
  let rate := aidedRate sig x.carrier.2.1
  let freq := gcIf b sig * one40 + x.carrier.2.1
  let new := (corrOffsets sig).map fun o => correlate sig prn fs xs (x.code + o) rate x.carrier.1 freq
  let code := x.code + xs.length * rate / fs
  let all : Int := (codeChips sig * one40 : Nat)
  let x := { x with
    sums := if x.sums = [] then new else (x.sums.zip new).map fun y => cAdd y.1 y.2
    ms := x.ms + 1, code := code % all, since := x.since + codeMs sig * (code / all).toNat
    carrier := ((x.carrier.1 + xs.length * freq / fs) % one40, x.carrier.2) }
  if x.ms < x.integ then x else x.integrated b sig pullIn

/-- The channel is lost (R423): C/N0 below 22 dB-Hz for 2 s, the carrier-lock indicator below 0.5 for 2 s, or a side peak above the
prompt for 100 consecutive integrations. -/
def GnssChan.lost (x : GnssChan) : Bool := decide (2000 ≤ x.weak) || decide (2000 ≤ x.unlocked) || decide (100 ≤ x.sidePeak)

end Sys2Proof.Machine
end

