-- ==== Sys2Proof/Machine/Gnss.lean ====
section
/-! DEFINITION. The GNSS baseband (chapter 17): configuration, front end, acquisition, tracking channels, navigation data,
the time solution. The samples come with the 1 ms windows, the fields of navigation pages with their decodes. -/

namespace Sys2Proof.Machine

def unitGnss : Nat := 199

/-! ## Configuration (R418, R419) -/

/-- The bytes whose change waits for the next whole second (R419): MIN_SATS, ELEV_MASK, RAIM_LIMIT, CABLE_DELAY,
PPS_OFFSET, PPS_WIDTH. -/
def gcLate (i : Nat) : Bool := i == 2 || (decide (18 ≤ i) && decide (i ≤ 21)) || (decide (24 ≤ i) && decide (i ≤ 35))

/-- The record with the bytes that satisfy `p` taken from another. -/
def gcTake (p : Nat → Bool) (old new : Bytes) : Bytes :=
  (List.range 64).map fun i => if p i then new.getD i 0 else old.getD i 0

/-- The band of an enabled signal does not fit (R418). -/
def gcBandBad (b : Bytes) (off : Nat) : Bool :=
  let f := signed 32 (fieldAt b off 4)
  let fs : Int := gcFs b
  if bit (fieldAt b 0 1) 0 then decide (f < 2046000) || decide (fs < 2 * (f + 2046000))
  else decide (fs < 2 * ((f.natAbs : Int) + 2046000))

/-- GNSS_CONFIG's checks: every field of the record, reserved ones too, is FIELD_RANGE (R418); the record stands at bytes 32 to 95. -/
def gnssChecks (o : Ord) : List (Bool × Why) :=
  let b := o.data 32 64
  let f (off n : Nat) : Nat := fieldAt b off n
  let out (off n lo hi : Nat) : Bool × Why := rg (decide (f off n < lo) || decide (hi < f off n)) (32 + off)
  let resv (off lo : Nat) : Bool × Why := rg (decide (f off 1 / 2 ^ lo ≠ 0)) (32 + off) lo
  [rz o 16 12, resv 0 5, rg (f 1 1 % 32 == 0) 33, resv 1 5, rg (decide (f 2 1 % 32 < 1) || decide (16 < f 2 1 % 32)) 34, resv 2 5,
   rg (decide (f 3 1 % 32 < 1) || decide (16 < f 3 1 % 32)) 35, resv 3 5, out 4 4 4000000 65000000,
   rg (decide (bits (f 1 1) 0 5 &&& 0x1B ≠ 0) && gcBandBad b 8) 40,
   rg (bit (f 1 1) 2 && gcBandBad b 12) 44,
   out 16 2 500 20000, out 18 2 0 900, out 20 2 10 1000,
   rg (decide (8000000 < (signed 32 (f 28 4)).natAbs)) 60, out 32 4 1 900000, out 36 4 60 86400,
   rg (!gcFixed b && f 40 4 != 0) 72, rg (!gcFixed b && f 44 4 != 0) 76, rg (!gcFixed b && f 48 4 != 0) 80,
   rg (decide (f 52 1 % 64 < 1) || decide (50 < f 52 1 % 64)) 84, resv 52 6,
   rg (decide (f 53 1 % 64 < 1) || decide (40 < f 53 1 % 64)) 85, resv 53 6, resv 54 1,
   rg (decide (fieldAt b 55 9 ≠ 0)) 87]

/-- The baseband restarts (R419): every channel goes to IDLE, acquisition restarts; a surveyed position is kept only when POS_MODE
and the position are unchanged. The second under way stays open: without a solution it is a reject (R32). -/
def State.gnssRestart (s : State) (new : Bytes) : State :=
  let old := s.gnss.record
  let keep := s.gnss.cfg.isSome && gcFixed old == gcFixed new && gcPos old == gcPos new
  let s := (List.range 64).foldl (fun s n => s.setReg (0xE0100 + 8 * n) 0) s
  let s := (s.put F.GNS_STATE_TRACKING 0).put F.GNS_STATE_CONFIGURED 1
  let s := { s with gnss := { s.gnss with
    cfg := some (gcTake (fun i => !gcLate i) old new), chans := [], cand := (0, 1), acq := GnssAcq.reset, iono := []
    survey := if keep then s.gnss.survey else 0
    sum := if keep then s.gnss.sum else (0, 0, 0) } }
  if keep then s
  else (((s.put F.GNS_STATE_SURVEYED (b2n (gcFixed new))).put F.GNS_POS_XY_X (fieldAt new 40 4)).put F.GNS_POS_XY_Y
    (fieldAt new 44 4)).put F.GNS_POS_Z_Z (fieldAt new 48 4)

/-- GNSS_CONFIG takes effect: at once for the fields that restart the baseband, at the next whole second for the others. An order
with nothing to wait for is done; one that waits takes its turn behind those already waiting. -/
def gnssApply (s : State) (o : Ord) : State :=
  let new := o.data 32 64
  let old := s.gnss.record
  let first := s.gnss.cfg.isNone
  let changed (p : Nat → Bool) : Bool := (List.range 64).any fun i => p i && new.getD i 0 != old.getD i 0
  let waits := first || changed gcLate || s.gnss.wait != []
  let s := if first || changed (fun i => !gcLate i) then (s.took o).gnssRestart new else s
  if waits then { s with gnss := { s.gnss with wait := s.gnss.wait ++ [(o, new)] } } else s.done o

/-- GNSS_CONFIG (R418, R419). -/
def specGnssConfig : Spec where
  op := 0x0710
  q0 := true
  allot := 1
  units := 3
  state := fun s o =>
    let d := gcCable (o.data 32 64) - gcCable s.gnss.record
    [(!s.working unitGnss, unitMissing unitGnss),
     (decide (s.wckSource = 1) && decide (s.wckState = wckLocked) && decide (800 < d.natAbs), whyOpen stState 0xE0)]
  fields := fun _ o => gnssChecks o
  body := gnssApply

def execGnssConfig (q : Nat) (s : State) : Host.Outcome State Fault Refusal := unit 64 q s (order specGnssConfig q [])

/-- The baseband runs: on, configured. -/
def State.gnssOn (s : State) : Bool := s.working unitGnss && s.gnss.cfg.isSome

/-! ## Channels -/

def State.chan (s : State) (n : Nat) : GnssChan := smGet GnssChan.reset s.gnss.chans n
def State.setChan (s : State) (n : Nat) (x : GnssChan) : State :=
  { s with gnss := { s.gnss with chans := smSet GnssChan.reset s.gnss.chans n x } }
def State.chanState (s : State) (n : Nat) : Nat := s.get (F.GNS_CHAN_STATE n)

/-- Channels not IDLE. -/
def State.noteTracking (s : State) : State :=
  s.put F.GNS_STATE_TRACKING ((List.range 64).filter fun n => s.chanState n != 0).length

/-- A channel returns to IDLE. -/
def State.chanIdle (s : State) (n : Nat) : State := ((s.setReg (0xE0100 + 8 * n) 0).setChan n GnssChan.reset).noteTracking

/-- Every channel goes to IDLE. -/
def State.chansIdle (s : State) : State :=
  let s := (List.range 64).foldl (fun s n => s.setReg (0xE0100 + 8 * n) 0) s
  { s with gnss := { s.gnss with chans := [] } }.noteTracking

/-! ## The sample clock and the samples (R414, R415) -/

/-- A millisecond of samples passes a channel: its correlators, its C/N0 estimate and carrier-lock indicator, whose values the spec
does not state (log entry 3). -/
def State.trackWindow (s : State) (xs : List (Int × Int)) (n : Nat) : State :=
  if s.chanState n = 0 then s
  else
    let x := (s.chan n).window s.gnss.record (s.get (F.GNS_CHAN_SIGNAL n)) (s.get (F.GNS_CHAN_PRN n)) (s.chanState n == 1) xs
    let cn0 := Config.anyNat s.free % 256
    let locked := decide (Config.anyNat (s.free + 1) % 2 = 0)
    let x := { x with weak := if cn0 < 88 then x.weak + 1 else 0, unlocked := if locked then 0 else x.unlocked + 1 }
    ({ s with free := s.free + 2 }.put (F.GNS_CHAN_CN0 n) cn0).setChan n x

/-- The samples of a good window reach the search and the channels. -/
def State.samples (s : State) (pins : List Nat) : State :=
  let xs := pins.map (gnssSample s.gnss.record)
  let s := { s with gnss := { s.gnss with acq := s.gnss.search xs s.wck.lagoon } }
  (List.range 64).foldl (fun s n => s.trackWindow xs n) s

/-- The 1 ms window of GNSS_CLK (R415). `gap`: no edge for 1 µs; `pins`: the periods of GNSS_CLK in it. -/
def clkWindow (freq : Nat) (gap : Bool) (pins : List Nat) (s : State) : State :=
  if !s.gnssOn then s
  else
    let s := s.put F.GNS_CLK_FREQ (min freq (2 ^ 27 - 1))
    let fs := gcFs s.gnss.record
    let bad := gap || decide (500 * fs < 1000000 * ((freq : Int) - fs).natAbs)
    if bad then
      let s := { s with gnss := { s.gnss with goodWindows := 0 } }
      if s.gnss.fault then s
      else
        let s := { s with gnss := { s.gnss with fault := true } }.chansIdle
        (s.put F.GNS_STATE_FRONT_END 0).bump F.GNS_COUNTS_FRONT
    else if s.gnss.fault then
      if 1000 ≤ s.gnss.goodWindows + 1 then
        { s.put F.GNS_STATE_FRONT_END 1 with
          gnss := { s.gnss with fault := false, goodWindows := 0, cand := (0, 1), acq := GnssAcq.reset } }
      else { s with gnss := { s.gnss with goodWindows := s.gnss.goodWindows + 1 } }
    else (s.put F.GNS_STATE_FRONT_END 1).samples pins

def execGnssClkWindow (freq : Nat) (gap : Bool) (pins : List Nat) (s : State) : Host.Outcome State Fault Refusal :=
  run s (clkWindow freq gap pins)

/-! ## Acquisition (R420, R421) -/

/-- A channel takes up a detection: PULL_IN, its replicas at the cell's code offset and Doppler; whole code periods lie between the
samples of a search and its end, and `age` milliseconds since. -/
def acquired (code age : Nat) (cell : GnssCell) : GnssChan :=
  { GnssChan.reset with
    code := ((cell.offset * (one40 / 2) + age * (chipRate code / 1000) * one40) % (codeChips code * one40) : Nat)
    carrier := (0, cell.bin * binHz code * one40, 0)
    offset := if code = 0 ∨ code = 4 then some 0 else none }

/-- A candidate's search ends; a detection goes to the lowest-numbered IDLE channel, and the next candidate is taken up. -/
def candidateDone (s : State) : State :=
  if !s.gnssOn || s.gnss.fault || !s.gnss.searched then s
  else
    s.atLagoon (if gcFft s.gnss.record then s.gnss.acq.until_ else s.wck.lagoon) fun s =>
    let (c, p) := s.gnss.candidate
    let t := { s with gnss := { s.gnss with cand := s.gnss.advance, acq := s.gnss.nextAcq s.wck.lagoon } }
    match s.gnss.detection, (List.range 64).find? fun n => s.chanState n == 0 with
    | some cell, some n =>
      ((((t.setReg (0xE0100 + 8 * n) 0).put (F.GNS_CHAN_STATE n) 1).put (F.GNS_CHAN_SIGNAL n) c).put (F.GNS_CHAN_PRN n) p
        |>.setChan n (acquired c s.gnss.acq.age cell)).noteTracking
    | _, _ => t

def execAcqCandidateDone (s : State) : Host.Outcome State Fault Refusal := run s candidateDone

/-! ## Tracking (R422, R423) -/

/-- Bit synchronisation: PULL_IN to TRACK, and integrations of a data bit or pilot code period from here on (R422). -/
def bitSync (n : Nat) (s : State) : State :=
  if s.chanState n = 1 then
    (s.put (F.GNS_CHAN_STATE n) 2).setChan n { s.chan n with
      integ := integMs (s.get (F.GNS_CHAN_SIGNAL n)) (s.get (F.GNS_CHAN_PRN n)), sums := [], ms := 0 }
  else s

def execBitSynchronisation (n : Nat) (s : State) : Host.Outcome State Fault Refusal := unit 64 n s (bitSync n)

/-- A channel returns to IDLE in the three cases of R423. -/
def chanLoss (n : Nat) (s : State) : State := if s.chanState n ≠ 0 ∧ (s.chan n).lost = true then s.chanIdle n else s

def execChannelLoss (n : Nat) (s : State) : Host.Outcome State Fault Refusal := unit 64 n s (chanLoss n)

/-! ## Navigation data (R417, R424) -/

/-- Message periods in a week (the messages' own rule, log entry 24), and the milliseconds of one. -/
def towPeriods (code prn : Nat) : Nat :=
  match code with
  | 1 => 302400
  | 2 => if prn ≤ 5 ∨ 59 ≤ prn then 1008000 else 100800
  | 3 => 33600
  | _ => 100800
def towMs (code prn : Nat) : Nat := 604800000 / towPeriods code prn

/-- The full GPS week of a broadcast number (R424). -/
def fullWeek (base w : Nat) : Nat := base + (w % 1024 + 1024 - base % 1024) % 1024

/-- What a page brings (R424): week number, ephemeris, clock correction, system offset (0.125 ns), ionosphere parameters, and the
leap-second fields as GNS_UTC lays them out (bit 63: present). -/
structure NavData where
  week : Option Nat
  eph : Option (List Int)
  clk : Option Int
  offset : Option Int
  iono : Option (List Int)
  utc : Nat
  deriving DecidableEq, Repr

/-- The channel's time goes on by one message period; after the last one of a week the next week begins. -/
def GnssChan.nextTow (x : GnssChan) (m : Nat) : GnssChan :=
  match x.tow with
  | some t => { x with tow := some ((t + 1) % m), since := 0, week := if t + 1 < m then x.week else x.week.map (· + 1) }
  | none => x

/-- A page passed its checks: what it carries is held (R424). The channel is in NAVIGATE once it holds ephemeris and offset. -/
def State.navAccept (s : State) (n tow m c : Nat) (d : NavData) : State :=
  let base := gcWeekBase s.gnss.record
  let x := s.chan n
  let x := { { x with tow := some tow, week := d.week.map (fullWeek base) <|> x.week }.nextTow m with
    eph := d.eph <|> x.eph, clk := d.clk <|> x.clk
    offset := if c = 0 ∨ c = 4 then some 0 else d.offset <|> x.offset }
  let s := { s.setChan n x with gnss := { (s.setChan n x).gnss with iono := d.iono.getD s.gnss.iono } }
  let s := if x.eph.isSome && x.offset.isSome then s.put (F.GNS_CHAN_STATE n) 3 else s
  if bit d.utc 63 ∧ (c = 0 ∨ c = 4) then
    ((((s.put F.GNS_UTC_LS (bits d.utc 0 8)).put F.GNS_UTC_LSF (bits d.utc 8 8)).put F.GNS_UTC_WN_LSF
      (fullWeek base (bits d.utc 16 16))).put F.GNS_UTC_DN (bits d.utc 32 3)).put F.GNS_UTC_VALID 1
  else s

/-- A subframe or page ends: its time of week in message periods, whether parity or CRC passed, what it brings. One that fails, or
whose time of week is not one period after the channel's previous one, is discarded, and the channel's time goes on by itself. -/
def navPage (n tow : Nat) (ok : Bool) (d : NavData) (s : State) : State :=
  if !s.gnssOn || decide (s.chanState n < 2) then s
  else
    let x := s.chan n
    let c := s.get (F.GNS_CHAN_SIGNAL n)
    let m := towPeriods c (s.get (F.GNS_CHAN_PRN n))
    match x.tow with
    | some t =>
      if ok ∧ tow % m = t then s.navAccept n (tow % m) m c d
      else s.setChan n (x.nextTow m)
    | none => if ok then s.navAccept n (tow % m) m c d else s

def execNavPageDecode (n tow : Nat) (ok : Bool) (week : Option Nat) (eph : Option (List Int)) (clk offset : Option Int)
    (iono : Option (List Int)) (utc : Nat) (s : State) : Host.Outcome State Fault Refusal :=
  unit 64 n s (navPage n tow ok ⟨week, eph, clk, offset, iono, utc⟩)

/-! ## The time solution (R425 to R427) -/

/-- The GNSS_CONFIGs that wait for a whole second take effect, in order (R419). -/
def State.gnssLate (s : State) : State :=
  s.gnss.wait.foldl (fun s w =>
    { s with gnss := { s.gnss with cfg := some (gcTake gcLate s.gnss.record w.2) } }.done w.1) { s with gnss := { s.gnss with wait := [] } }

/-- A measurement epoch: navigating channels latch code phase, carrier phase and time of week. Every second without a valid
solution is a reject (R32), so the second opens whatever the baseband's state. -/
def epoch (s : State) : State :=
  let s := s.gnssLate
  let s := { s with gnss := { s.gnss with epochOpen := true, epochAt := s.wck.sec } }
  if !s.gnssOn then s
  else (List.range 64).foldl (fun s n =>
    let x := s.chan n
    if s.chanState n = 0 then s
    else s.setChan n { x with
      latched := if s.chanState n = 3 then x.tow.map fun t => ⟨x.code, x.carrier.1, t, x.since, x.week⟩ else none }) s

def execMeasurementEpoch (s : State) : Host.Outcome State Fault Refusal := run s epoch

/-- A second without a valid solution (R32). -/
def State.badSecond (s : State) : State :=
  let s := { s with gnss := { s.gnss with epochOpen := false, survey := 0, sum := (0, 0, 0) } }
  ((s.put F.GNS_STATE_VALID 0).bump F.GNS_COUNTS_INVALID).srcReject 1

/-- Survey progress of a valid second (R426): a mean that is no whole centimetre rounds either way (log entry 3). -/
def State.surveyed (s : State) (pos : List Int) : State :=
  let b := s.gnss.record
  if gcFixed b || s.on F.GNS_STATE_SURVEYED then s
  else
    let (x, y, z) := (pos.getD 0 0, pos.getD 1 0, pos.getD 2 0)
    let n := s.gnss.survey + 1
    let t : Int × Int × Int := (s.gnss.sum.1 + x, s.gnss.sum.2.1 + y, s.gnss.sum.2.2 + z)
    let set (s : State) (x y z : Int) : State :=
      ((s.put F.GNS_POS_XY_X (unsigned 32 x)).put F.GNS_POS_XY_Y (unsigned 32 y)).put F.GNS_POS_Z_Z (unsigned 32 z)
    if n = gcSurveyTime b then
      let mean (v : Int) (i : Nat) : Int := v / n + if v % n = 0 then 0 else ((Config.anyNat (s.free + i) % 2 : Nat) : Int)
      let s := set s (mean t.1 0) (mean t.2.1 1) (mean t.2.2 2)
      { s.put F.GNS_STATE_SURVEYED 1 with free := s.free + 3, gnss := { s.gnss with survey := 0, sum := (0, 0, 0) } }
    else { set s x y z with gnss := { s.gnss with survey := n, sum := t } }

/-- A satellite's time of transmission as GPS time, in eighths of a nanosecond: code phase and time of week, corrected for its clock
and its system offset; BeiDou time is GPS time less 14 s (R417). -/
def GnssChan.sentAt (x : GnssChan) (code prn : Nat) : Option Int :=
  match x.latched, x.latched.bind (·.week), x.clk, x.offset with
  | some l, some w, some clk, some off =>
    let ms : Nat := w * 604800000 + l.tow * towMs code prn + l.since
    some (ms * 8000000 + l.code * 8000000000 / (chipRate code * one40 : Nat) - clk + off + if code = 2 ∨ code = 3 then 112000000000 else 0)
  | _, _, _, _ => none

/-- A satellite of a solution: its channel, ephemeris, GPS time of transmission. -/
structure Sat where
  n : Nat
  eph : List Int
  sent : Int
  deriving DecidableEq, Repr

/-- The satellites measured at the epoch. -/
def State.sats (s : State) : List Sat :=
  (List.range 64).filterMap fun n =>
    let x := s.chan n
    if s.chanState n = 3 then
      match x.eph, x.sentAt (s.get (F.GNS_CHAN_SIGNAL n)) (s.get (F.GNS_CHAN_PRN n)) with
      | some e, some t => some ⟨n, e, t⟩
      | _, _ => none
    else none

/-- The position a solution uses (R425): the configured or surveyed one, else one solved with the time. -/
def State.posOf (s : State) (l : List Sat) : List Int :=
  if gcFixed s.gnss.record || s.on F.GNS_STATE_SURVEYED then
    [F.GNS_POS_XY_X, F.GNS_POS_XY_Y, F.GNS_POS_Z_Z].map fun f => signed 32 (s.get f)
  else (List.range 3).map (Config.posFix (l.map fun x => x.sent :: x.eph))

def State.path (s : State) (k : Nat) (pos : List Int) (x : Sat) : Int := Config.path k x.eph s.gnss.iono x.sent pos

/-- The offset a satellite gives. What reaches the pins at the epoch was sent for GPS time `R`; the GNSS second of the epoch's number
stood `R` less that number before it on the water clock (R425, R427). -/
def State.satOffset (s : State) (pos : List Int) (x : Sat) : Int :=
  x.sent + s.path 0 pos x + s.path 1 pos x + s.path 2 pos x + gcCable s.gnss.record - (s.gnss.epochAt : Int) * 8000000000

/-- A solution: its position, its offset Δ, and the time residual of each satellite. -/
def State.solve (s : State) (l : List Sat) : List Int × Int × List (Nat × Int) :=
  let pos := s.posOf l
  let d := Config.timeFix (l.map (s.satOffset pos))
  (pos, d, l.map fun x => (x.n, s.satOffset pos x - d))

/-- The residual lies beyond RAIM_LIMIT. -/
def State.raimBad (s : State) (x : Nat × Int) : Bool := decide (8 * gcRaim s.gnss.record < x.2.natAbs)

/-- The satellite with the largest residual. -/
def worst : List (Nat × Int) → Option Nat
  | [] => none
  | x :: r => some (r.foldl (fun (b : Nat × Int) y => if b.2.natAbs < y.2.natAbs then y else b) x).1

/-- Satellites a solution needs: MIN_SATS, and at least 4 in survey mode (R425). -/
def Gnss.need (g : Gnss) : Nat := if gcFixed g.record then gcMinSats g.record else max 4 (gcMinSats g.record)

/-- The satellites at and above ELEV_MASK, and those below it. -/
def State.inView (s : State) : List Sat × List Sat :=
  let pos := s.posOf s.sats
  s.sats.partition fun x => decide ((gcMask s.gnss.record : Int) ≤ s.path 3 pos x)

/-- The solution of the open epoch (R425): the excluded satellite, the satellites used, and what they solve to. -/
def State.solution (s : State) : Option Nat × List Sat × List Int × Int × List (Nat × Int) :=
  let l := s.inView.1
  let a := s.solve l
  match (if a.2.2.any s.raimBad then worst a.2.2 else none) with
  | some n =>
    let l := l.filter fun x => x.n != n
    (some n, l, s.solve l)
  | none => (none, l, a)

/-- The solution is valid (R425); none is while the front end is at fault (R415). -/
def State.solutionOk (s : State) : Bool :=
  let v := s.solution
  !s.gnss.fault && decide (s.gnss.need ≤ v.2.1.length) && !v.2.2.2.2.any s.raimBad

/-- The registers a delivered solution writes. -/
def State.reportSolution (s : State) : State :=
  let v := s.solution
  let low := s.inView.2
  let put (s : State) (f : Nat → Fld) (l : List Nat) : State := l.foldl (fun s n => s.put (f n) 1) s
  let t := (List.range 64).foldl (fun s n => (s.put (F.GNS_CHAN_USED n) 0).put (F.GNS_CHAN_EXCLUDED n) 0) s
  let t := s.sats.foldl (fun s x => s.put (F.GNS_CHAN_LOW_ELEV x.n) 0) t
  let t := put t F.GNS_CHAN_LOW_ELEV (low.map (·.n))
  let t := put t F.GNS_CHAN_USED (v.2.1.map (·.n))
  let t := match v.1 with
    | some n => (t.put (F.GNS_CHAN_EXCLUDED n) 1).bump F.GNS_COUNTS_RAIM
    | none => t
  let sq := (v.2.2.2.2.map fun x => x.2.natAbs * x.2.natAbs).sum / max 1 v.2.1.length
  let t := (t.put F.GNS_STATE_USED (min 63 v.2.1.length)).put F.GNS_SOLUTION_OFFSET (unsigned 32 v.2.2.2.1)
  { t.put F.GNS_SOLUTION_RESID_RMS (min 65535 (Nat.sqrt sq + if Nat.sqrt sq * Nat.sqrt sq = sq then 0 else Config.anyNat s.free % 2)) with
    free := t.free + 1 }

/-- The solution of the open epoch is delivered. `tie`: in the lagoon cycle of the 500 ms limit; `edge`: its time stamp lies in the
cycle in which the window closes (R31). -/
def deliver (tie edge : Bool) (s : State) : State :=
  if !s.gnssOn || !s.gnss.epochOpen then s
  else
    let s := if tie then s.put F.GNS_STATE_MARGIN0 1 else s
    let t := s.reportSolution
    if s.solutionOk then
      let t := { t with gnss := { t.gnss with epochOpen := false } }
      (((t.put F.GNS_STATE_VALID 1).bump F.GNS_COUNTS_VALID).surveyed s.solution.2.2.1).srcEvent 1 s.solution.2.2.2.1 edge
    else t.badSecond

def execSolutionDelivery (tie edge : Bool) (s : State) : Host.Outcome State Fault Refusal := run s (deliver tie edge)

/-- No solution by 500 ms after the epoch (R427). -/
def execSolutionTimeout (s : State) : Host.Outcome State Fault Refusal :=
  run s fun s => if s.gnss.epochOpen then s.badSecond else s

/-! ## PPS_OUT (R428) -/

def gcPpsOffset (b : Bytes) : Int := signed 32 (fieldAt b 28 4)
def gcPpsWidth (b : Bytes) : Nat := fieldAt b 32 4

/-- The next whole second of water-clock time plus PPS_OFFSET, in 1/8 lagoon cycles (R428). Lagoon cycles begin at the multiples of 1.25 ns. -/
def State.nextPps (s : State) : Nat :=
  let now := (s.wck.sec * 1000000000 + s.wck.ns) * 8 + s.wck.frac * 8 / (4 * s.freq)
  let at_ := now + ((gcPpsOffset s.gnss.record - now) % 8000000000).toNat
  8 * (s.wck.lagoon + (at_ / 10 - now / 10)) + at_ % 10 * 4 / 5

/-- PPS_OUT rises at its instant, for PPS_WIDTH. -/
def ppsRise (s : State) : State :=
  let l := s.nextPps
  if s.ppsDriven && !s.ppsHigh then s.atLagoon (l / 8) fun s =>
    { s with ppsHigh := true, ppsDue := l + 6400 * gcPpsWidth s.gnss.record }.emit (.ppsOut true (l % 8))
  else s

def execPpsOutRise (s : State) : Host.Outcome State Fault Refusal := run s ppsRise

/-- It falls PPS_WIDTH later. -/
def ppsFall (s : State) : State :=
  if s.ppsHigh then s.atLagoon (s.ppsDue / 8) fun s => { s with ppsHigh := false }.emit (.ppsOut false (s.ppsDue % 8)) else s

def execPpsOutFall (s : State) : Host.Outcome State Fault Refusal := run s ppsFall

end Sys2Proof.Machine
end

