-- ==== Sys2Proof/Machine/Records.lean ====
section
/-! DEFINITION. The fields of a plan's records: landing slots (Table 7-5), apertures, deliveries (Table 3-5),
reservations (Table 12-2), routes (Table 13-2); which units loaded plans use (Table 20-3). -/

namespace Sys2Proof.Machine

/-! ## Reservation records -/

def Plan.resv (p : Plan) : List Bytes := recs 64 (p.sec 5)
def rvKind (r : Bytes) : Nat := bits (fieldAt r 0 1) 0 2
def rvEvery (r : Bytes) : Bool := bit (fieldAt r 0 1) 2
def rvUnit (r : Bytes) : Nat := bits (fieldAt r 1 1) 0 4
def rvShare (r : Bytes) : Nat := bits (fieldAt r 1 1) 4 4
def rvTurn (r : Bytes) : Nat := fieldAt r 2 2
def rvFirst (r : Bytes) : Nat := fieldAt r 4 4
def rvSlots (r : Bytes) : Nat := fieldAt r 8 2
def rvPeriod (r : Bytes) : Nat := fieldAt r 10 2
def rvRepeat (r : Bytes) : Nat := fieldAt r 12 4
def rvFirstTile (r : Bytes) : Nat := fieldAt r 16 2
def rvTiles (r : Bytes) : Nat := fieldAt r 18 2
def rvBytes (r : Bytes) : Nat := fieldAt r 20 4
def rvSrc (r : Bytes) : Nat := fieldAt r 24 6
def rvStamp (r : Bytes) : Nat := fieldAt r 32 4
def rvLslot (r : Bytes) : Nat := bits (fieldAt r 36 1) 0 6
def rvSeeded (r : Bytes) : Bool := bit (fieldAt r 36 1) 6
def rvMacro (r : Bytes) : Bool := bit (fieldAt r 36 1) 7
def rvScatter (r : Bytes) : Bool := bit (fieldAt r 37 1) 0
def rvModslot (r : Bytes) : Nat := bits (fieldAt r 38 1) 0 6
def rvGroups (r : Bytes) : Nat := fieldAt r 40 4
def rvP (r : Bytes) : Nat := fieldAt r 44 2
def rvLimbLines (r : Bytes) : Nat := fieldAt r 46 2
def rvMask (r : Bytes) : Nat := fieldAt r 48 4
/-- A record applies in a plan turn. -/
def rvApplies (r : Bytes) (j : Nat) : Bool := rvEvery r || rvTurn r == j
/-- Lines stored per group, its seed line counted (R312). -/
def rvStored (r : Bytes) : Nat := rvP r + b2n (rvSeeded r)
/-- Lines a FLUME record sends (R312). -/
def rvSent (r : Bytes) : Nat := rvGroups r * rvP r * (if rvSeeded r then 2 else 1)
/-- Bytes a FLUME record reads. -/
def rvRead (r : Bytes) : Nat := rvGroups r * rvStored r * 128

/-! ## Service of a transfer (R298) -/

/-- The k-th served slot of a record. -/
def rvSlot (r : Bytes) (k : Nat) : Nat := rvFirst r + k / max 1 (rvSlots r) * rvPeriod r + k % max 1 (rvSlots r)

/-- The number, among its served slots, of the first that starts at or after cycle `c`. -/
def rvSigma (r : Bytes) (c : Nat) : Option Nat :=
  let q := cdiv c 16
  let d := q - rvFirst r
  let b := if rvPeriod r = 0 then 0 else d / rvPeriod r
  let off := d - b * rvPeriod r
  let k := if q ≤ rvFirst r then 0 else if off < rvSlots r then b * rvSlots r + off else (b + 1) * rvSlots r
  if k < rvSlots r * rvRepeat r then some k else none

/-- Slots that `n` blocks from a physical address need at a share per channel: u. -/
def slotsFor (p n share : Nat) : Nat :=
  let chans := (List.range n).map fun i => channelOf (p + 64 * i)
  ((List.range 32).map fun c => cdiv (chans.count c) (max 1 share)).foldl max 0

/-- σ and λ of a transfer of `n` blocks from `p` under a record, at issue cycle `c`; none when the record has too few
served slots. -/
def rvServe (r : Bytes) (c p n : Nat) : Option (Nat × Nat) :=
  match rvSigma r c with
  | none => none
  | some k =>
    let u := slotsFor p n (rvShare r)
    if k + u ≤ rvSlots r * rvRepeat r then some (rvSlot r k, rvSlot r (k + u - 1)) else none

/-- The value D of Table 3-2. -/
def rvD (r : Bytes) (c p n : Nat) : Option Nat := (rvServe r c p n).map fun x => 16 * (x.2 + 1) - c

/-- The MEM records of a plan that match a transfer: plan turn, stack, logical tile, a served slot at or after `c`. -/
def Plan.memRecs (pl : Plan) (j stack tile c : Nat) : List Bytes :=
  pl.resv.filter fun r => rvKind r == 0 && rvApplies r j && rvUnit r == stack && decide (rvFirstTile r ≤ tile)
    && decide (tile < rvFirstTile r + rvTiles r) && (rvSigma r c).isSome

/-! ## Routes -/

def Plan.routes (p : Plan) : List Bytes := recs 32 (p.sec 6)
def rtKind (r : Bytes) : Nat := bits (fieldAt r 0 1) 0 2
def rtEvery (r : Bytes) : Bool := bit (fieldAt r 0 1) 2
def rtBridge (r : Bytes) : Nat := bits (fieldAt r 0 1) 3 3
def rtUnit (r : Bytes) : Nat := bits (fieldAt r 1 1) 0 4
def rtTurn (r : Bytes) : Nat := fieldAt r 2 2
def rtSrc (r : Bytes) : Nat := fieldAt r 4 2
def rtDst (r : Bytes) : Nat := fieldAt r 6 2
def rtFirst (r : Bytes) : Nat := fieldAt r 8 4
def rtCycles (r : Bytes) : Nat := fieldAt r 12 4
def rtPeriod (r : Bytes) : Nat := fieldAt r 16 4
def rtRepeat (r : Bytes) : Nat := fieldAt r 20 4
def rtApplies (r : Bytes) (j : Nat) : Bool := rtEvery r || rtTurn r == j
/-- A cycle lies in a record's window set. -/
def rtCovers (r : Bytes) (c : Nat) : Bool :=
  decide (rtFirst r ≤ c) &&
    (let d := c - rtFirst r
     let k := if rtPeriod r = 0 then 0 else min (d / rtPeriod r) (rtRepeat r - 1)
     decide (d - k * rtPeriod r < rtCycles r))
/-- Every cycle from `a` to `b` lies in the window set. -/
def rtSpan (r : Bytes) (a b : Nat) : Bool :=
  decide (rtFirst r ≤ a) &&
    (let d := a - rtFirst r
     let k := if rtPeriod r = 0 then 0 else min (d / rtPeriod r) (rtRepeat r - 1)
     if rtPeriod r = rtCycles r then decide (b - rtFirst r < rtCycles r * rtRepeat r)
     else decide (d - k * rtPeriod r + (b - a) < rtCycles r))

/-! ## Tiles of a plan (R189) -/

/-- The physical tile of a logical tile. -/
def State.phyTile (s : State) (a i : Nat) : Nat := (s.tilesOf a).getD i 0
/-- The physical core of a logical core. -/
def State.phyCore (s : State) (a c : Nat) : Nat := s.phyTile a (c / 32) * 32 + c % 32
/-- The logical core of an owned physical core. -/
def State.logCore (s : State) (a c : Nat) : Nat := (s.tilesOf a).findIdx (· == c / 32) * 32 + c % 32

/-- A tile stands on the South die. -/
def south (t : Nat) : Bool := decide (72 ≤ t)

/-- Row and column of a tile's router on its die (R319). -/
def tileRow (t : Nat) : Nat := t % 72 / 8
def tileCol (t : Nat) : Nat := t % 8

def absDiff (a b : Nat) : Nat := (a - b) + (b - a)

/-- Mesh links and bridge crossings between two tiles through bridge channel `b` (R322). -/
def hopsOf (x y b : Nat) : Nat × Nat :=
  if x = y then (0, 0)
  else if south x = south y then (absDiff (tileCol x) (tileCol y) + absDiff (tileRow x) (tileRow y), 0)
  else (absDiff (tileCol x) b + tileRow x + tileRow y + absDiff b (tileCol y), 1)

/-- The path of a route record crosses the bridge (c = 1). -/
def State.rtCross (s : State) (a : Nat) (r : Bytes) : Bool :=
  let t (i : Nat) : Bool := south (s.phyTile a i)
  match rtKind r with
  | 0 => t (rtSrc r) != t (rtDst r)
  | 1 => (List.range (rtDst r)).any fun i => t (rtSrc r + i) != decide (8 ≤ rtUnit r)
  | 2 => t (rtSrc r) != decide (8 ≤ rtUnit r)
  | _ => t (rtDst r) != decide (8 ≤ rtUnit r)

/-! ## Use by loaded plans (Table 20-3) -/

/-- Loaded plans with their allotments. -/
def State.loadedPlans (s : State) : List (Nat × Plan) :=
  (List.range 16).flatMap fun a => (s.allot a).plans.map fun p => (a, p)

/-- A plan names key flume engine `e`, by a FLUME record or by a lateral of it (Tables 12-2 and 13-2, R485). -/
def Plan.flumeNamed (p : Plan) (e : Nat) : Bool :=
  (p.resv.any fun r => rvKind r == 1 && rvUnit r == e) || p.routes.any fun r => rtKind r == 1 && rtUnit r == e

/-- A flume engine is named by a loaded plan. -/
def State.flumeUsed (s : State) (e : Nat) : Bool :=
  s.loadedPlans.any fun x => x.2.flumeNamed e

/-- A bridge half is used by a loaded plan. -/
def State.bridgeUsed (s : State) : Bool :=
  s.loadedPlans.any fun x =>
    x.2.routes.any (s.rtCross x.1) ||
      (x.2.geo == 1 && (s.tilesOf x.1).any south && (s.tilesOf x.1).any fun t => !south t)

/-- A loaded plan of the allotment relies on a granule's permission bits (R146). -/
def State.planUses (s : State) (a g perms : Nat) : Bool :=
  (s.allot a).plans.any fun p => p.uses.any fun u => u.1 == g && decide (Nat.land u.2 perms ≠ 0)

end Sys2Proof.Machine
end

