-- ==== Sys2Proof/Machine/Queues.lean ====
section
/-! DEFINITION. Queues, doorbells, cancels and the management orders of queues (chapter 4). -/

namespace Sys2Proof.Machine

/-! ## Functions -/

/-- The PCIe link is in reset, or lost with the clocks of a thermal trip: requests get no answer (R487, R540). -/
def State.linkLost (s : State) : Bool := s.perst || s.tripped

/-- READY has been reached and the chip has not tripped: memory requests are served (R495). -/
def State.isReady (s : State) : Bool := decide (s.get F.PWR_STATUS_PHASE = 4) && !s.linkLost

/-- The allotment of a function: for a virtual function, the one bound to it. -/
def State.allotOfFn (s : State) (fn : Nat) : Option Nat :=
  (List.range 16).find? fun a => !s.isEmpty a && s.get (F.ALT_STATE_FUNCTION a) == fn

/-- A queue is enabled or created. -/
def State.queueLive (s : State) (q : Nat) : Bool := s.on (F.DR_QCTL_ENABLE q)

/-- A function's BAR4 presents the page of queue `q` (R100). -/
def State.ownsPage (s : State) (fn q : Nat) : Bool :=
  fn == 0 || (q != 0 && (match s.allotOfFn fn with | some a => (s.queue q).bound == a | none => false))

/-- The allotment a log entry of a function's access names. -/
def State.fnAllot (s : State) (fn : Nat) : Nat := if fn = 0 then 255 else (s.allotOfFn fn).getD 255

/-! ## Halting (R97) -/

/-- A halt that is no order's own refusal writes one tally: SEQ and OPCODE 0, ALLOT the one that the queue is bound to, 255 for
queue 0 (log entry 17). -/
def State.haltTally (s : State) (q cause value : Nat) : State :=
  s.pushTally q ⟨0, 0, stBadLength, false, false, false, 0, 0, detailOf cause value, 0, (s.queue q).bound⟩

/-- Order units the ring of a queue holds. -/
def State.ringSize (s : State) (q : Nat) : Nat := 2 ^ s.get (F.DR_QSIZE_ORDER_LOG2 q)

/-- Units published and not consumed. -/
def State.published (s : State) (q : Nat) : Nat := (s.get (F.DR_QPTR_TAIL q) + 2 ^ 32 - s.get (F.DR_QPTR_HEAD q)) % 2 ^ 32

/-- The ring slots of `n` units from the head, as runs: offset in the ring, units. -/
def ringRuns (size head n : Nat) : List (Nat × Nat) :=
  let i := head % size
  if i + n ≤ size then [(i, n)] else [(i, size - i), (0, min size (n - (size - i)))]

/-- Read `n` units from the head of a ring in allotment memory (R157). -/
def State.ringRead (s : State) (q n : Nat) : Except Why Bytes × State :=
  let a := (s.queue q).bound
  let o := s.mkOrd q (List.replicate 32 0) []
  (ringRuns (s.ringSize q) (s.get (F.DR_QPTR_HEAD q)) n).foldl (fun (acc : Except Why Bytes × State) r =>
    match acc with
    | (.error w, t) => (.error w, t)
    | (.ok d, t) =>
      let addr := s.get (F.DR_QBASE_BASE q) * 64 + 32 * r.1
      let u := t.orderTable o a addr (32 * r.2) permHostRead
      match u.orderWalk o a addr (32 * r.2) permHostRead with
      | .error w => (.error w, u)
      | .ok l => let y := u.orderRead l a; (.ok (d ++ y.1), y.2.2)) (.ok [], s)

/-! ## Doorbells (Table 4-1) -/

/-- A write to doorbell `off` of a page, `skew` bytes above its first (modulo 4). A write that is not 4 bytes long and aligned is
dropped and logged whatever page it names (R100, log entry 89); another reaches the queue when the function presents its page
and the queue is enabled or created. -/
def State.doorbell (s : State) (fn q off skew size : Nat) (live : Bool) (f : State → State) : State :=
  if !s.isReady then s
  else if size ≠ 4 ∨ skew % 4 ≠ 0 then s.logCause 0x101 (q * 0x1000 + off + skew % 4 + size * 2 ^ 56) (s.fnAllot fn)
  else if s.ownsPage fn q && live then f s else s

/-- ORDER_TAIL (R96, R97). -/
def ringTail (q v : Nat) (s : State) : State :=
  let v := v % 2 ^ 32
  if v = s.get (F.DR_QPTR_TAIL q) then s
  else
    let s := (s.put (F.DR_QPTR_TAIL q) v).setQueue q { s.queue q with short := false }
    if s.get (F.DR_QSTAT_STATE q) = 1 ∧ s.ringSize q < s.published q then (s.haltTally q 0x26 v).haltQueue q 0x26 else s

def execOrderTail (fn q skew size v : Nat) (s : State) : Host.Outcome State Fault Refusal :=
  if q < 64 then unit 32 fn s fun s => s.doorbell fn q 0 skew size (s.queueLive q) (ringTail q v) else .fault .noSuchUnit

/-- TALLY_HEAD (R98); a queue that QUEUE_DESTROY has ended keeps it until its last tally is written (R99; log entry 18). -/
def freeTallies (q v : Nat) (s : State) : State :=
  let v := v % 2 ^ 32
  let x := s.queue q
  let d (n : Nat) : Nat := (n + 2 ^ 32 - x.tallyHead) % 2 ^ 32
  if d v ≤ d (x.written % 2 ^ 32) then s.setQueue q { x with tallyHead := v }
  else s.logCause 0x103 v x.bound q

def execTallyHead (fn q skew size v : Nat) (s : State) : Host.Outcome State Fault Refusal :=
  if q < 64 then unit 32 fn s fun s => s.doorbell fn q 4 skew size (s.queueLive q || (s.queue q).closing) (freeTallies q v) else .fault .noSuchUnit

/-- CANCEL (R116 to R118): a mark for a target not yet granted waits; one that comes late is reported. A mark that repeats a
pending one changes nothing (log entry 89). A number that no order of the queue consumed gives OPCODE 0, ALLOT 255 and value 1 (DESIGN
CHOICE, log entry 106). -/
def cancelMark (q v : Nat) (s : State) : State :=
  let v := v % 2 ^ 32
  let x := s.queue q
  if 2 ^ 31 ≤ (v + 2 ^ 32 - s.get (F.DR_QSEQ_EXPECT q)) % 2 ^ 32 then
    let running := s.inflight.any fun o => o.q == q && o.seq == v
    let s := s.bump F.DR_COUNTS_TOO_LATE
    let target := smGet (0, 255) x.past v
    s.pushTally q ⟨v, target.1, stTooLate, true, false, false, 0, 0, detailOf 0x31 (b2n (!running)), 0, target.2⟩
  else if x.marks.contains v then s
  else if x.marks.length < 8 then
    (s.setQueue q { x with marks := x.marks ++ [v] }).put (F.DR_QSTAT_MARKS q) (x.marks.length + 1)
  else s.logCause 0x104 v x.bound q

def execCancel (fn q skew size v : Nat) (s : State) : Host.Outcome State Fault Refusal :=
  if q < 64 then unit 32 fn s fun s => s.doorbell fn q 8 skew size (s.queueLive q) (cancelMark q v) else .fault .noSuchUnit

/-- The published units have ended inside an order for 1 ms (R97). On a tie the arrival wins, and the order's tally carries
MARGIN0 (R119). -/
def partialHalt (q : Nat) (tie : Bool) (s : State) : State :=
  if s.get (F.DR_QSTAT_STATE q) = 1 ∧ (s.queue q).short = true then
    if tie then s.setQueue q { s.queue q with tied := true }
    else (s.haltTally q 0x25 (s.published q)).haltQueue q 0x25
  else s

def execPartialTimeout (q : Nat) (tie : Bool) (s : State) : Host.Outcome State Fault Refusal :=
  unit 64 q s (partialHalt q tie)

/-- Every CRC bucket falls by 1 (R107). -/
def execCrcBucketDecay (s : State) : Host.Outcome State Fault Refusal :=
  run s fun s => (List.range 64).foldl (fun s q => s.put (F.DR_QSTAT_CRC_BUCKET q) (s.get (F.DR_QSTAT_CRC_BUCKET q) - 1)) s

/-- A BAD_CRC raises the bucket; at the threshold the queue's CRC errors are a doubt (R107). -/
def State.crcError (s : State) (q : Nat) : State :=
  let s := s.bump (F.DR_QSTAT_CRC_BUCKET q)
  if s.get F.DR_CRC_LIMIT_COUNT ≤ s.get (F.DR_QSTAT_CRC_BUCKET q) then
    let d : Doubt := { cause := cOrderCrc, subject := q, queue := q }
    if q = 0 then s.doubtChip d else s.doubtAllot (s.queue q).bound d
  else s

/-! ## Queue 0 (R95) -/

/-- A queue starts: its counts, credit, marks and expected number are 0 (R95). -/
def State.startQueue (s : State) (q bound : Nat) : State :=
  let s := s.setQueue q { Queue.reset with bound := bound, out := (s.queue q).out }
  let s := ((s.put (F.DR_QPTR_HEAD q) 0).put (F.DR_QPTR_TAIL q) 0).put (F.DR_QSEQ_EXPECT q) 0
  let s := (s.put (F.DR_QSTAT_MARKS q) 0).put (F.DR_QSTAT_STATE q) 1
  s.put (F.DR_QCTL_ENABLE q) 1

/-- A write of 1 to DR_QCTL(0).ENABLE. -/
def enableQueue0 (s : State) : State :=
  if s.get (F.DR_QSTAT_STATE 0) = 3 then s.logCause 0x100 0x31020
  else if s.queueLive 0 then s else s.startQueue 0 255

/-- A write of 0 to DR_QCTL(0).ENABLE: fetching stops, unconsumed units are discarded, queue 0 drains. -/
def disableQueue0 (s : State) : State :=
  if s.get (F.DR_QSTAT_STATE 0) = 3 then s.logCause 0x100 0x31020
  else if s.queueLive 0 then
    let x := s.queue 0
    let s := s.setQueue 0 { x with fetched := none, short := false, tied := false, before := x.out.length }
    (s.put (F.DR_QCTL_ENABLE 0) 0).put (F.DR_QSTAT_STATE 0) 3
  else s

def execQueue0Enable (s : State) : Host.Outcome State Fault Refusal :=
  run s fun s => if s.isReady then enableQueue0 s else s
def execQueue0Disable (s : State) : Host.Outcome State Fault Refusal :=
  run s fun s => if s.isReady then disableQueue0 s else s

/-- The tallies that a flush may write, and those that it keeps back: notices that queue 0 has produced since the write
of 0 that it drains after (R95). -/
def State.dueTallies (s : State) (q : Nat) : List Tally × List Tally :=
  let x := s.queue q
  if q = 0 ∧ s.get (F.DR_QSTAT_STATE 0) = 3 then
    let l := x.out.drop x.before
    (x.out.take x.before ++ l.filter (fun t => !t.notice), l.filter (fun t => t.notice))
  else (x.out, [])

/-- Draining ends when no order of queue 0 is in flight and no tally of it is held. -/
def execQueue0DrainEnd (s : State) : Host.Outcome State Fault Refusal :=
  run s fun s =>
    if s.get (F.DR_QSTAT_STATE 0) = 3 ∧ s.get (F.DR_QLOAD_INFLIGHT 0) = 0 ∧ (s.dueTallies 0).1 = [] then
      s.put (F.DR_QSTAT_STATE 0) 0
    else s

/-- A write of 1 to DR_QCTL(q).RESUME (R97): the head takes the tail; credit and marks are dropped (R113, R118). -/
def resumeQueue (q : Nat) (s : State) : State :=
  if s.get (F.DR_QSTAT_STATE q) = 2 ∧ ¬ s.on F.SLU_STATUS_WALKER_HALT then
    let x := s.queue q
    let s := s.setQueue q { x with fetched := none, short := false, tied := false, credit := 0, marks := [] }
    ((s.put (F.DR_QPTR_HEAD q) (s.get (F.DR_QPTR_TAIL q))).put (F.DR_QSTAT_MARKS q) 0).put (F.DR_QSTAT_STATE q) 1
  else s

def execQueueResume (fn q : Nat) (s : State) : Host.Outcome State Fault Refusal :=
  if q < 64 then unit 32 fn s fun s => if s.isReady && s.ownsPage fn q then resumeQueue q s else s else .fault .noSuchUnit

/-! ## Deadlines of waiting orders (R112) -/

/-- The guard of its deadline turn finds an order still waiting: TIMEOUT. On a tie the unit's release wins (R119). -/
def deadlineTimeout (q : Nat) (tie : Bool) (s : State) : State :=
  match s.waiting.find? fun o => o.q == q && (turnPassed s o.deadline || o.deadline == s.wck.turn) with
  | none => s
  | some o =>
    if tie then s.tieOrders [o]
    else ({ s with waiting := s.waiting.filter fun x => x.id != o.id }.leaveTest o).finish o stTimeout 0 openTimeout

def execOrderDeadlineTimeout (q : Nat) (tie : Bool) (s : State) : Host.Outcome State Fault Refusal :=
  unit 64 q s (deadlineTimeout q tie)

/-! ## Management orders -/

/-- NOP. -/
def specNop : Spec where
  op := 0x0100
  allot := 2
  underChip := true
  underMinimal := true
  fields := fun _ o => [rz o 16 12]
  body := fun s o => s.done o

def execNop (q : Nat) (s : State) : Host.Outcome State Fault Refusal := unit 64 q s (order specNop q [])

/-- A queue is bound to the allotment and not being destroyed. -/
def State.boundTo (s : State) (q a : Nat) : Bool :=
  decide (1 ≤ q) && decide (q < 64) && s.queueLive q && (s.queue q).bound == a

/-- QUEUE_CREATE (R95). No rule states what a queue already in use, or a byte 17 that differs from ALLOT, tallies (log
entry 89). -/
def createQueue (s : State) (o : Ord) : State :=
  let q := o.field 16 1
  let s := s.startQueue q (o.field 17 1)
  let s := (s.put (F.DR_QBASE_LOC q) (o.field 19 1)).put (F.DR_QBASE_BASE q) (o.field 32 8 / 64)
  let s := (s.put (F.DR_QSIZE_ORDER_LOG2 q) (o.field 20 1)).put (F.DR_QSIZE_TALLY_LOG2 q) (o.field 21 1)
  let s := (s.put (F.DR_QSIZE_VECTOR q) (o.field 22 2)).put (F.DR_TBASE_BASE q) (o.field 40 8 / 64)
  (s.put (F.DR_QLOAD_WEIGHT q) (o.field 18 1)).done o

def specQueueCreate : Spec where
  op := 0x0110
  q0 := true
  permit := [1, 2, 3, 4, 5, 6]
  units := 2
  fields := fun _ o =>
    [rg (o.field 16 1 == 0 || decide (63 < o.field 16 1)) 16,
     rg (decide (15 < o.field 17 1) || o.field 17 1 != o.allot) 17,
     rg (o.field 18 1 == 0) 18, rzb o 19 1 7,
     rg (decide (o.field 20 1 < 6) || decide (16 < o.field 20 1)) 20,
     rg (decide (o.field 21 1 < 4) || decide (14 < o.field 21 1)) 21,
     rg (decide (2047 < o.field 22 2)) 22, rz o 24 4,
     rg (o.field 32 8 % 64 != 0) 32, rg (o.field 40 8 % 64 != 0) 40, rz o 48 16]
  quota := fun s o => [(s.queueLive (o.field 16 1) || (s.queue (o.field 16 1)).closing, whyQuota 0x33 4)]
  body := createQueue

def execQueueCreate (q : Nat) (s : State) : Host.Outcome State Fault Refusal := unit 64 q s (order specQueueCreate q [])

/-- A queue stops being fetched; its orders in flight and tallies end as they would (R99; log entry 18). -/
def State.destroyQueue (s : State) (q : Nat) : State :=
  let x := s.queue q
  let s := s.setQueue q { x with fetched := none, short := false, tied := false, marks := [], closing := true }
  ((s.put (F.DR_QCTL_ENABLE q) 0).put (F.DR_QSTAT_STATE q) 0).put (F.DR_QSTAT_MARKS q) 0

/-- A destroyed queue with nothing left to write is unused again: its whole DR_ block reads its reset values (log entry 18). -/
def State.reapQueue (s : State) (q : Nat) : State :=
  let x := s.queue q
  if x.closing ∧ x.out = [] ∧ s.get (F.DR_QLOAD_INFLIGHT q) = 0 then
    let s := s.setQueue q Queue.reset
    let s := { s with regs := s.regs.filter fun r => !(decide (0x31000 + 0x40 * q ≤ r.1) && decide (r.1 < 0x31040 + 0x40 * q)) }
    s
  else s

/-- A queue that is not bound to the order's ALLOT is out of range (log entry 89). -/
def specQueueDestroy : Spec where
  op := 0x0111
  q0 := true
  permit := [1, 2, 3, 4, 5, 6]
  fields := fun s o => [rg (!s.boundTo (o.field 16 1) o.allot) 16, rz o 17 11]
  body := fun s o => (s.destroyQueue (o.field 16 1)).done o

def execQueueDestroy (q : Nat) (s : State) : Host.Outcome State Fault Refusal := unit 64 q s (order specQueueDestroy q [])

/-- QUEUE_WEIGHT_SET is staged; the arbitration stage is its unit (Table 5-4). A queue that is not bound to the order's ALLOT is
out of range (log entry 89). -/
def specQueueWeightSet : Spec where
  op := 0x0112
  q0 := true
  permit := [1, 2, 3, 4, 5, 6]
  fields := fun s o => [rg (!s.boundTo (o.field 16 1) o.allot) 16, rg (o.field 17 1 == 0) 17, rz o 18 10]
  body := fun s o => s.stage o (.weight (o.field 16 1) (o.field 17 1))

def execQueueWeightSet (q : Nat) (s : State) : Host.Outcome State Fault Refusal := unit 64 q s (order specQueueWeightSet q [])

end Sys2Proof.Machine
end

