-- ==== Sys2Proof/Machine/Bne.lean ====
section
/-! DEFINITION. The big-number engine: slots, operations, duplicate and compare (R430 to R438). -/

namespace Sys2Proof.Machine

def unitBne : Nat := 200

/-! ## The randomness well (R441, R442) -/

/-- A uniform number from 1 to n - 1. -/
def State.scalar (s : State) (n : Nat) : Nat × State :=
  let d := s.generate 0 80
  (leNat d.1 % (n - 1) + 1, d.2)

/-! ## Operands of BNE_OP -/

def bneD (o : Ord) : Nat := o.field 17 1
def bneA (o : Ord) : Nat := o.field 18 1
def bneB (o : Ord) : Nat := o.field 19 1
def bneC (o : Ord) : Nat := o.field 32 1
def bneCurve (o : Ord) : Nat := o.field 33 1
def bneWords (o : Ord) : Nat := o.field 34 2
def bneAddr (o : Ord) : Nat := o.field 40 8

/-- Which fields an operation uses. -/
structure BneUse where
  a : Bool := false
  b : Bool := false
  c : Bool := false
  curve : Bool := false
  words : Bool := false
  addr : Bool := false
  deriving DecidableEq, Repr

/-- Scalar, point and signature words of Table 18-2. -/
def curveWords (c : Nat) : Nat × Nat × Nat :=
  match c with
  | 0 => (4, 8, 8)
  | 1 => (6, 12, 12)
  | 2 => (9, 18, 18)
  | 3 => (4, 4, 0)
  | _ => (4, 4, 8)

def curveOf (c : Nat) : Curve := match c with | 0 => curveP256 | 1 => curveP384 | _ => curveP521

/-- The slots an operation names, D included. -/
def BneUse.slots (u : BneUse) (o : Ord) : List Nat :=
  bneD o :: ((if u.a then [bneA o] else []) ++ (if u.b then [bneB o] else []) ++ (if u.c then [bneC o] else []))

/-- R431: a slot of another owner. -/
def State.foreignSlot (s : State) (o : Ord) (i : Nat) : Bool := s.slotOn i && s.slotOwner i != ownerCode o.allot

/-- R434: operand lengths. -/
def State.bneLengths (s : State) (op : Nat) (o : Ord) : Bool :=
  let d := s.slotWords (bneD o)
  let a := s.slotWords (bneA o)
  let b := s.slotWords (bneB o)
  let c := s.slotWords (bneC o)
  let (sc, pt, sg) := curveWords (bneCurve o)
  let ed := bneCurve o == 4
  match op with
  | 0x01 => bneWords o == d
  | 0x03 => a == d
  | 0x10 | 0x11 | 0x12 | 0x13 => d == c && decide (a ≤ 2 * c) && decide (b ≤ 2 * c)
  | 0x14 => d == c && decide (a ≤ 2 * c)
  | 0x20 => d == pt && a == sc && b == pt
  | 0x21 => d == pt && a == sc
  | 0x22 => d == sc
  | 0x23 => d == sc && a == sc && b == pt
  | 0x28 => d == sg && (ed || a == sc) && b == sc
  | 0x29 => a == sg && (ed || b == sc) && c == pt
  | _ => true

/-- The curves an operation offers (Table 18-2). -/
def curveOffered (op c : Nat) : Bool :=
  decide (c < 5) && (match op with
    | 0x20 | 0x23 => c != 4
    | 0x28 | 0x29 => c != 3
    | _ => true)

/-- Lagoon cycles of EC_MUL, EC_MUL_BASE, SIGN and VERIFY (Table 18-2); Ed25519 adds 200 for each word of its message. -/
def curveTimes (c : Nat) : Nat × Nat × Nat × Nat :=
  match c with
  | 0 => (160000, 120000, 130000, 300000)
  | 1 => (360000, 270000, 290000, 660000)
  | 2 => (760000, 570000, 610000, 1400000)
  | 3 => (130000, 100000, 0, 0)
  | _ => (0, 100000, 110000, 280000)

/-- Lagoon cycles an operation takes, STORE's waits for memory apart (Tables 18-1 and 18-2, R435): a function of the operation, the
operand lengths and the curve. -/
def State.bneTime (s : State) (op : Nat) (o : Ord) : Nat :=
  let d := s.slotWords (bneD o)
  let c := s.slotWords (bneC o)
  let mul := 40 + cdiv (c ^ 2) 2
  let (em, eb, sg, vf) := curveTimes (bneCurve o)
  let msg (i : Nat) : Nat := if bneCurve o = 4 then 200 * s.slotWords i else 0
  match op with
  | 0x00 => 40 + bneWords o
  | 0x01 | 0x02 | 0x03 => 40 + d
  | 0x04 => 60 + 2 * d
  | 0x10 | 0x11 => 20 + c
  | 0x12 => mul
  | 0x13 => 200 + 128 * s.slotWords (bneB o) * mul
  | 0x14 => 200 + 128 * c * mul
  | 0x20 | 0x23 => em
  | 0x21 => eb
  | 0x22 => 2000
  | 0x28 => sg + msg (bneA o)
  | _ => vf + msg (bneB o)

/-- The operation draws from the well (R442). -/
def bneDraws (op : Nat) (o : Ord) : Bool := op == 4 || op == 0x22 || (op == 0x28 && bneCurve o != 4)

/-! ## Results (Table 18-1) -/

/-- The point a slot value holds. -/
def pointOf (words v : Nat) : Nat × Nat := (v % 2 ^ (32 * words), v / 2 ^ (32 * words))
def ofPoint (words : Nat) (x y : Nat) : Nat := x + y * 2 ^ (32 * words)

/-- An ECDSA signature: k is drawn anew while r or s is 0 (FIPS 186-5), up to `n` times; then what it gives is open, as for a private key
and a digest of 0, which no k serves (log entry 98). -/
def State.ecdsa (s : State) (e : Curve) (z d : Nat) : Nat → (Nat × Nat) × State
  | 0 => ((Config.anyNat s.free, Config.anyNat (s.free + 1)), { s with free := s.free + 2 })
  | n + 1 =>
    let k := s.scalar e.n
    let g := ecdsaSign e z d k.1
    if g.1 = 0 ∨ g.2 = 0 then k.2.ecdsa e z d n else (g, k.2)

/-- What an operation gives: RESULT_OK, the value of D, and the state after its draws. The coordinates of an identity
result are not stated: a free value (log entry 3). -/
def State.bneResult (s : State) (op : Nat) (o : Ord) : Bool × Nat × State :=
  let a := s.slotVal (bneA o)
  let b := s.slotVal (bneB o)
  let c := s.slotVal (bneC o)
  let dw := s.slotWords (bneD o)
  let cv := bneCurve o
  let e := curveOf cv
  let modOk := decide (1 < c) && decide (c % 2 = 1)
  let free : Nat × State := (Config.anyNat s.free, { s with free := s.free + 1 })
  match op with
  | 0x00 => (true, 0, s)
  | 0x01 => (true, leNat (o.data 64 (8 * bneWords o)), s)
  | 0x02 => (true, s.slotVal (bneD o), s)
  | 0x03 => (true, a, s)
  | 0x04 => let d := s.generate 0 (8 * dw); (true, leNat d.1, d.2)
  | 0x10 => if modOk then (true, (a + b) % c, s) else (false, 0, s)
  | 0x11 => if modOk then (true, subMod (a % c) (b % c) c, s) else (false, 0, s)
  | 0x12 => if modOk then (true, a % c * (b % c) % c, s) else (false, 0, s)
  | 0x13 => if modOk then (true, powMod (64 * s.slotWords (bneB o)) (a % c) b c, s) else (false, 0, s)
  | 0x14 => if modOk then (true, powMod (64 * s.slotWords (bneC o)) (a % c) (c - 2) c, s) else (false, 0, s)
  | 0x20 =>
    if cv = 3 then let z := x25519 a b; (decide (z ≠ 0), z, s)
    else
      let (x, y) := pointOf (s.slotWords (bneB o)) b
      if !ecOn e x y then (false, 0, s)
      else match ecMul e a (some (x, y)) with
        | some (u, v) => (true, ofPoint dw u v, s)
        | none => (true, free.1, free.2)
  | 0x21 =>
    if cv = 3 then (true, x25519 a 9, s)
    else if cv = 4 then (true, leNat (edEncode (edMul a edBase)), s)
    else match ecMul e a (some (e.gx, e.gy)) with
      | some (u, v) => (true, ofPoint dw u v, s)
      | none => (true, free.1, free.2)
  | 0x22 => let d := s.scalar (if cv < 3 then e.n else edL); (true, d.1, d.2)
  | 0x23 =>
    if cv = 3 then let z := x25519 a b; (decide (z ≠ 0), z, s)
    else
      let (x, y) := pointOf (s.slotWords (bneB o)) b
      if !ecOn e x y then (false, 0, s)
      else match ecMul e a (some (x, y)) with
        | some (u, _) => (decide (u ≠ 0), u, s)
        | none => (false, 0, s)
  | 0x28 =>
    if cv = 4 then (true, leNat (edSign (toLe 32 b) (toLe (8 * s.slotWords (bneA o)) a)), s)
    else
      let g := s.ecdsa e a b 16
      (true, ofPoint dw g.1.1 g.1.2, g.2)
  | _ =>
    if cv = 4 then
      let ok := edVerify (toLe 32 c) (toLe 64 a) (toLe (8 * s.slotWords (bneB o)) b)
      (ok, b2n ok, s)
    else
      let (qx, qy) := pointOf (s.slotWords (bneC o)) c
      let (r, w) := pointOf (s.slotWords (bneA o)) a
      let ok := ecdsaVerify e b r w qx qy
      (ok, b2n ok, s)

/-! ## Starting and ending -/

/-- The engine takes an operation. -/
def State.bneBegin (s : State) (o : Ord) (op : Nat) (dst : List (Nat × Nat × Nat)) : State :=
  let s := { s with bne := some (⟨o, op, dst, s.wck.lagoon + s.bneTime op o⟩ : BneJob) }
  (s.put F.BNE_STATE_BUSY 1).put F.BNE_STATE_ALLOT (ownerCode o.allot)

/-- R447: the destination of a sealed allotment lies in SEALED granules. -/
def State.sealedOut (s : State) (o : Ord) (l : List (Nat × Nat × Nat)) : Bool :=
  decide (o.allot < 16) && s.isSealed o.allot &&
    l.any fun x => match s.permOf o.allot (x.1 / pageSize) with | some v => !bit v permSealed | none => true

/-- A BNE_OP starts on the idle engine: STORE walks its destination (R157); a failed well refuses what it would draw (R442). -/
def startBne (s : State) (o : Ord) : State :=
  let op := o.field 16 1
  if bneDraws op o && s.wellFailed then s.fail o (whyOpen stState 0xEE)
  else if op = 2 then
    let s := s.orderTable o o.allot (bneAddr o) (cdiv (8 * s.slotWords (bneD o)) 64 * 64) permHostWrite
    match s.orderWalk o o.allot (bneAddr o) (cdiv (8 * s.slotWords (bneD o)) 64 * 64) permHostWrite with
    | .error w => s.failWalk o w
    | .ok l => if s.sealedOut o l then s.fail o (whyOpen stNoRight 0xF0) else s.bneBegin o op l
  else s.bneBegin o op []

/-- A BNE_OP that passed its checks starts, or waits for the engine (R112). -/
def bneBody (s : State) (o : Ord) : State := s.serve o s.bne.isSome (startBne · o)

/-- A mismatch is a doubt (R437, Table 19-1). -/
def State.pkMismatch (s : State) (o : Ord) (op : Nat) : State :=
  let s := (s.bump F.BNE_FAULTS_COUNT).put F.BNE_FAULTS_LAST_OP op
  let s := s.fail o (whyOpen stPk 0xEB)
  let d : Doubt := { cause := cPk }
  if o.allot ≥ 16 ∨ s.get F.SLU_LIMITS_PK ≤ s.get F.BNE_FAULTS_COUNT then s.doubtChip d else s.doubtAllot o.allot d

/-- SLOT_DEFINE takes effect. -/
def State.defineSlot (s : State) (o : Ord) : State :=
  let i := bneD o
  let s := ((s.put (F.BNE_SLOT_DEFINED i) 1).put (F.BNE_SLOT_OWNER i) (ownerCode o.allot)).put (F.BNE_SLOT_WORDS i) (bneWords o)
  (s.put F.BNE_STATE_FREE (s.get F.BNE_STATE_FREE - bneWords o)).setSlot i 0

/-- An operation ends, at its time: the two computations are compared, D is written or zeroed (R435 to R437). One that draws from
a well that failed meanwhile is refused (R442; log entry 98). -/
def bneEnd (agree : Bool) (s : State) : State :=
  match s.bne with
  | none => s
  | some j => s.atLagoon j.due fun s =>
    let o := j.ord
    let s := s.bneIdle
    if bneDraws j.op o && s.wellFailed then s.fail o (whyOpen stState 0xEE)
    else if !agree then
      let s := if s.slotOn (bneD o) then s.setSlot (bneD o) 0 else s
      s.pkMismatch o j.op
    else if j.op = 0 then
      if s.slotOn (bneD o) then s.fail o (whyOpen stState 0xEF)
      else if s.get F.BNE_STATE_FREE < bneWords o then s.fail o (whyQuota 0x33 5)
      else (s.defineSlot o).done o 0 1
    else
      let r := s.bneResult j.op o
      let s := r.2.2.took o
      let s := if j.op = 2 then
          (s.orderWrite j.dst (padTo (cdiv (8 * s.slotWords (bneD o)) 64 * 64) (toLe (8 * s.slotWords (bneD o)) (s.slotVal (bneD o)))) 0 o.allot).2
        else s.setSlot (bneD o) (if r.1 then r.2.1 else 0)
      s.done o 0 (b2n r.1)

def execBneOpEnd (agree : Bool) (s : State) : Host.Outcome State Fault Refusal := run s (bneEnd agree)

/-! ## The orders -/

/-- The contract of one big-number operation. -/
def bneSpec (op : Nat) (sub : Bytes → Bool) (u : BneUse) : Spec where
  op := 0x0500
  sub := sub
  allot := 2
  permit := [1, 2, 3, 4]
  units := 2
  need := fun _ o => [(op == 1 && decide (o.units < 2 + cdiv (8 * bneWords o) 32), shortAt 34)]
  right := fun s o => [((u.slots o).any fun i => s.foreignSlot o i, whyOpen stNoRight 0xE8)]
  state := fun s o =>
    [(!s.working unitBne, unitMissing unitBne),
     (op == 0 && s.slotOn (bneD o), whyOpen stState 0xEF),
     (op != 0 && (u.slots o).any (fun i => !s.slotOn i), whyOpen stState 0xE9),
     (bneDraws op o && s.wellFailed, whyOpen stState 0xEE)]
  fields := fun s o =>
    [rg (op == 2 && decide (16 ≤ o.allot)) 8,
     (!u.a && bneA o != 0, resvAt 18), (!u.b && bneB o != 0, resvAt 19), rz o 20 8,
     (!u.c && bneC o != 0, resvAt 32),
     if u.curve then rg (!curveOffered op (bneCurve o)) 33 else (bneCurve o != 0, resvAt 33),
     if op = 0 then rg (decide (bneWords o < 4) || decide (128 < bneWords o)) 34 else (!u.words && bneWords o != 0, resvAt 34),
     rz o 36 4,
     if u.addr then rg (bneAddr o % 64 != 0 || decide (2 ^ 48 ≤ bneAddr o)) 40 else rz o 40 8,
     rz o 48 16,
     (op != 0 && !s.bneLengths op o, whyOpen stBadField 0xEA)]
  quota := fun s o => [(op == 0 && decide (s.get F.BNE_STATE_FREE < bneWords o), whyQuota 0x33 5)]
  body := bneBody

/-- BNE_OP with operation code `c`. -/
def isOp (c : Nat) (b : Bytes) : Bool := fieldAt b 16 1 == c

def specSlotDefine : Spec := bneSpec 0x00 (isOp 0x00) { words := true }
def specBneLoad : Spec := bneSpec 0x01 (isOp 0x01) { words := true }
def specBneStore : Spec := bneSpec 0x02 (isOp 0x02) { addr := true }
def specBneCopy : Spec := bneSpec 0x03 (isOp 0x03) { a := true }
def specRngFill : Spec := bneSpec 0x04 (isOp 0x04) {}
def specModadd : Spec := bneSpec 0x10 (isOp 0x10) { a := true, b := true, c := true }
def specModsub : Spec := bneSpec 0x11 (isOp 0x11) { a := true, b := true, c := true }
def specModmul : Spec := bneSpec 0x12 (isOp 0x12) { a := true, b := true, c := true }
def specModexp : Spec := bneSpec 0x13 (isOp 0x13) { a := true, b := true, c := true }
def specModinv : Spec := bneSpec 0x14 (isOp 0x14) { a := true, c := true }
def specEcMul : Spec := bneSpec 0x20 (isOp 0x20) { a := true, b := true, curve := true }
def specEcMulBase : Spec := bneSpec 0x21 (isOp 0x21) { a := true, curve := true }
def specEcKeygen : Spec := bneSpec 0x22 (isOp 0x22) { curve := true }
def specEcdh : Spec := bneSpec 0x23 (isOp 0x23) { a := true, b := true, curve := true }
def specSign : Spec := bneSpec 0x28 (isOp 0x28) { a := true, b := true, curve := true }
def specVerify : Spec := bneSpec 0x29 (isOp 0x29) { a := true, b := true, c := true, curve := true }

def execSlotDefine (q : Nat) (s : State) : Host.Outcome State Fault Refusal := unit 64 q s (order specSlotDefine q [])
def execBneLoad (q : Nat) (s : State) : Host.Outcome State Fault Refusal := unit 64 q s (order specBneLoad q [])
def execBneStore (q : Nat) (s : State) : Host.Outcome State Fault Refusal := unit 64 q s (order specBneStore q [])
def execBneCopy (q : Nat) (s : State) : Host.Outcome State Fault Refusal := unit 64 q s (order specBneCopy q [])
def execRngFill (q : Nat) (s : State) : Host.Outcome State Fault Refusal := unit 64 q s (order specRngFill q [])
def execModadd (q : Nat) (s : State) : Host.Outcome State Fault Refusal := unit 64 q s (order specModadd q [])
def execModsub (q : Nat) (s : State) : Host.Outcome State Fault Refusal := unit 64 q s (order specModsub q [])
def execModmul (q : Nat) (s : State) : Host.Outcome State Fault Refusal := unit 64 q s (order specModmul q [])
def execModexp (q : Nat) (s : State) : Host.Outcome State Fault Refusal := unit 64 q s (order specModexp q [])
def execModinv (q : Nat) (s : State) : Host.Outcome State Fault Refusal := unit 64 q s (order specModinv q [])
def execEcMul (q : Nat) (s : State) : Host.Outcome State Fault Refusal := unit 64 q s (order specEcMul q [])
def execEcMulBase (q : Nat) (s : State) : Host.Outcome State Fault Refusal := unit 64 q s (order specEcMulBase q [])
def execEcKeygen (q : Nat) (s : State) : Host.Outcome State Fault Refusal := unit 64 q s (order specEcKeygen q [])
def execEcdh (q : Nat) (s : State) : Host.Outcome State Fault Refusal := unit 64 q s (order specEcdh q [])
def execSign (q : Nat) (s : State) : Host.Outcome State Fault Refusal := unit 64 q s (order specSign q [])
def execVerify (q : Nat) (s : State) : Host.Outcome State Fault Refusal := unit 64 q s (order specVerify q [])

/-- BNE_OP with a code outside Table 18-1: refused in the field check. -/
def specBneUnknown : Spec where
  op := 0x0500
  allot := 2
  permit := [1, 2, 3, 4]
  units := 2
  state := fun s _ => [(!s.working unitBne, unitMissing unitBne)]
  fields := fun _ _ => [rg true 16]
  body := fun s _ => s

/-- SLOT_CLEAR's effect (R433). -/
def startClear (s : State) (o : Ord) : State :=
  ((List.range (o.field 18 2)).foldl (fun s i => s.undefineSlot (o.field 16 2 + i)) s).done o (o.field 18 2)

/-- SLOT_CLEAR is served by the engine. -/
def clearBody (s : State) (o : Ord) : State := s.serve o s.bne.isSome (startClear · o)

def specSlotClear : Spec where
  op := 0x0501
  allot := 2
  permit := [1, 2, 3, 4, 5, 6]
  right := fun s o =>
    [((List.range 256).any fun i => decide (o.field 16 2 ≤ i) && decide (i < o.field 16 2 + o.field 18 2) && s.foreignSlot o i,
      whyOpen stNoRight 0xE8)]
  state := fun s _ => [(!s.working unitBne, unitMissing unitBne)]
  fields := fun _ o =>
    [rg (decide (256 < o.field 16 2)) 16, rg (decide (256 < o.field 16 2 + o.field 18 2)) 18, rz o 20 8]
  body := clearBody

def execSlotClear (q : Nat) (s : State) : Host.Outcome State Fault Refusal := unit 64 q s (order specSlotClear q [])

end Sys2Proof.Machine
end

