-- ==== Sys2Proof/Machine/Sym.lean ====
section
/-! DEFINITION. Symmetric services, the randomness well, attestation and sessions (R439 to R449). -/

namespace Sys2Proof.Machine

/-! ## SYM_OP (Table 18-3) -/

def symSrc (o : Ord) : Nat := o.field 32 8
def symDst (o : Ord) : Nat := o.field 40 8
def symLen (o : Ord) : Nat := o.field 48 4
def symAadLen (o : Ord) : Nat := o.field 52 4
def symAad (o : Ord) : Nat := o.field 56 8
def symKey (o : Ord) : Nat := o.field 76 1
def symTagSlot (o : Ord) : Nat := o.field 77 1
def symToSlot (o : Ord) : Bool := bit (o.field 78 1) 0
def symOutLen (o : Ord) : Nat := o.field 80 4

/-- Algorithm and operation of a SYM_OP: 0 GCM encrypt, 1 GCM decrypt, 2 SHA-384, 3 SHA3-256, 4 SHA3-384, 5 SHAKE128,
6 SHAKE256, 7 HMAC; none otherwise. -/
def symKind (b : Bytes) : Option Nat :=
  match fieldAt b 16 1, fieldAt b 17 1 with
  | 0, 0 => some 0
  | 0, 1 => some 1
  | 1, 0 => some 2
  | 2, 0 => some 3
  | 3, 0 => some 4
  | 4, 0 => some 5
  | 5, 0 => some 6
  | 6, 0 => some 7
  | _, _ => none

def symIs (k : Nat) (b : Bytes) : Bool := symKind b == some k

/-- Bytes an operation writes to DST. -/
def symOutBytes (k : Nat) (o : Ord) : Nat :=
  match k with
  | 0 => symLen o
  | 1 => cdiv (symLen o) 64 * 64
  | 3 => 32
  | 5 | 6 => symOutLen o
  | _ => 48

/-- Lagoon cycles an operation takes, its waits for memory apart: a function of its lengths (R440; log entry 98). -/
def symTime (k : Nat) (o : Ord) : Nat :=
  let n := symLen o
  let sha := cdiv (n + 17) 128
  let sponge (rate out : Nat) : Nat := 24 * (n / rate + 1 + cdiv out rate)
  match k with
  | 0 | 1 => cdiv (symAadLen o) 16 + cdiv n 16
  | 2 => 20 * sha
  | 3 => sponge 136 32
  | 4 => sponge 104 48
  | 5 => sponge 168 (symOutLen o)
  | 6 => sponge 136 (symOutLen o)
  | _ => 20 * (1 + sha + 2)

/-- The slots an operation names. -/
def symSlots (k : Nat) (o : Ord) : List Nat :=
  (if k ≤ 1 ∨ k = 7 then [symKey o] else []) ++ (if k = 0 ∨ (2 ≤ k ∧ symToSlot o) then [symTagSlot o] else [])

/-- Slot lengths an operation needs. -/
def State.symLengths (s : State) (k : Nat) (o : Ord) : Bool :=
  (decide (1 < k) || s.slotWords (symKey o) == 4)
    && (k != 0 || decide (4 ≤ s.slotWords (symTagSlot o)))
    && (decide (k < 2) || !symToSlot o || decide (symOutBytes k o ≤ 8 * s.slotWords (symTagSlot o)))

/-- The walks of an operation, then the symmetric unit takes it (R157, R440). -/
def startSym (k : Nat) (s : State) (o : Ord) : State :=
  let a := o.allot
  let s := s.orderTable o a (symSrc o) (symLen o) permHostRead
  match s.orderWalk o a (symSrc o) (symLen o) permHostRead with
  | .error w => s.failWalk o w
  | .ok src =>
    let s := if k ≤ 1 then s.orderTable o a (symAad o) (symAadLen o) permHostRead else s
    match (if k ≤ 1 then s.orderWalk o a (symAad o) (symAadLen o) permHostRead else .ok []) with
    | .error w => s.failWalk o w
    | .ok aad =>
      let s := s.orderTable o a (symDst o) (symOutBytes k o) permHostWrite
      match s.orderWalk o a (symDst o) (symOutBytes k o) permHostWrite with
      | .error w => s.failWalk o w
      | .ok dst =>
        if s.sealedOut o dst then s.fail o (whyOpen stNoRight 0xF0)
        else { s with sym := some (⟨o, src, aad, dst, s.wck.lagoon + symTime k o⟩ : SymJob) }

def symBody (k : Nat) (s : State) (o : Ord) : State := s.serve o s.sym.isSome (startSym k · o)

/-- The key bytes a slot holds. -/
def State.slotBytes (s : State) (i : Nat) : Bytes := toLe (8 * s.slotWords i) (s.slotVal i)

/-- The digest of a hash or HMAC. -/
def State.symDigest (s : State) (k : Nat) (o : Ord) (m : Bytes) : Bytes :=
  match k with
  | 2 => sha384 m
  | 3 => sha3x256 m
  | 4 => sha3x384 m
  | 5 => shake128x (symOutLen o) m
  | 6 => shake256x (symOutLen o) m
  | _ => hmac384 (s.slotBytes (symKey o)) m

/-- The pieces of the first `n` bytes of a range. -/
def clipPieces (n : Nat) (l : List (Nat × Nat × Nat)) : List (Nat × Nat × Nat) :=
  (l.filter fun x => decide (x.2.1 < n)).map fun x => (x.1, x.2.1, min x.2.2 (n - x.2.1))

/-- A symmetric operation completes, at its time (R440). A GCM decrypt writes its LEN bytes, or zeros to the end of their last block when
its tag does not match (R439). -/
def symEnd (s : State) : State :=
  match s.sym with
  | none => s
  | some j => s.atLagoon j.due fun s =>
    let o := j.ord
    let k := (symKind o.bytes).getD 2
    let s := { s with sym := none }
    let m := s.orderRead j.src o.allot
    let d := m.2.2.orderRead j.aad o.allot
    let s := d.2.2
    if !(m.2.1 && d.2.1) then s.fail o whyEcc
    else
      let s := s.took o
      let out (b : Bytes) : Bool × State := s.orderWrite j.dst b 0 o.allot
      -- a refused partial write ends the order FAILED_ECC (R309)
      let end_ (refused : Bool) (s : State) : State := if refused then s.fail o whyEcc else s.done o
      match k with
      | 0 =>
        let r := gcmSeal (s.slotBytes (symKey o)) (o.data 64 12) d.1 m.1
        let v := s.slotVal (symTagSlot o)
        let w := out r.1
        end_ w.1 (w.2.setSlot (symTagSlot o) (v - v % 2 ^ 128 + leNat r.2))
      | 1 =>
        match gcmOpen (s.slotBytes (symKey o)) (o.data 64 12) d.1 m.1 (o.data 80 16) with
        | some p => let w := s.orderWrite (clipPieces (symLen o) j.dst) p 0 o.allot; end_ w.1 w.2
        | none => (out (List.replicate (symOutBytes 1 o) 0)).2.fail o (whyOpen stNoRight 0xEC)
      | _ =>
        let g := s.symDigest k o m.1
        let w := out g
        end_ w.1 (if symToSlot o then
          let v := w.2.slotVal (symTagSlot o)
          w.2.setSlot (symTagSlot o) (v - v % 2 ^ (8 * g.length) + leNat g)
        else w.2)

def execSymOpEnd (s : State) : Host.Outcome State Fault Refusal := run s symEnd

/-- The contract of one symmetric operation. -/
def symSpec (k : Nat) (sub : Bytes → Bool) : Spec where
  op := 0x0510
  sub := sub
  permit := [1, 2, 3, 4]
  units := 3
  right := fun s o => [((symSlots k o).any fun i => s.foreignSlot o i, whyOpen stNoRight 0xE8)]
  state := fun s o =>
    [(!s.working unitBne, unitMissing unitBne), ((symSlots k o).any (fun i => !s.slotOn i), whyOpen stState 0xE9)]
  fields := fun s o =>
    [rz o 18 10, rg (symSrc o % 64 != 0 || decide (2 ^ 48 ≤ symSrc o)) 32, rg (symDst o % 64 != 0 || decide (2 ^ 48 ≤ symDst o)) 40,
     rg (decide (0x10000000 < symLen o)) 48] ++
    (if k ≤ 1 then [rg (decide (65536 < symAadLen o)) 52, rg (symAad o % 64 != 0 || decide (2 ^ 48 ≤ symAad o)) 56]
     else [rz o 52 4, rz o 56 8, rz o 64 12]) ++
    (if k ≤ 1 ∨ k = 7 then [] else [rz o 76 1]) ++
    (if k = 1 then [rz o 77 1] else []) ++
    (if k ≤ 1 then [rz o 78 1] else (if symToSlot o then [] else [rz o 77 1]) ++ [rzb o 78 1 7]) ++ [rz o 79 1] ++
    (if k = 1 then [] else if k = 5 ∨ k = 6 then [rg (symOutLen o == 0 || decide (65536 < symOutLen o)) 80, rz o 84 12] else [rz o 80 16]) ++
    [(!s.symLengths k o, whyOpen stBadField 0xEA)]
  body := symBody k

def specGcmEncrypt : Spec := symSpec 0 (symIs 0)
def specGcmDecrypt : Spec := symSpec 1 (symIs 1)
def specSha384 : Spec := symSpec 2 (symIs 2)
def specSha3x256 : Spec := symSpec 3 (symIs 3)
def specSha3x384 : Spec := symSpec 4 (symIs 4)
def specShake128 : Spec := symSpec 5 (symIs 5)
def specShake256 : Spec := symSpec 6 (symIs 6)
def specHmacSha384 : Spec := symSpec 7 (symIs 7)

def execGcmEncrypt (q : Nat) (s : State) : Host.Outcome State Fault Refusal := unit 64 q s (order specGcmEncrypt q [])
def execGcmDecrypt (q : Nat) (s : State) : Host.Outcome State Fault Refusal := unit 64 q s (order specGcmDecrypt q [])
def execSha_384 (q : Nat) (s : State) : Host.Outcome State Fault Refusal := unit 64 q s (order specSha384 q [])
def execSha3_256 (q : Nat) (s : State) : Host.Outcome State Fault Refusal := unit 64 q s (order specSha3x256 q [])
def execSha3_384 (q : Nat) (s : State) : Host.Outcome State Fault Refusal := unit 64 q s (order specSha3x384 q [])
def execShake128 (q : Nat) (s : State) : Host.Outcome State Fault Refusal := unit 64 q s (order specShake128 q [])
def execShake256 (q : Nat) (s : State) : Host.Outcome State Fault Refusal := unit 64 q s (order specShake256 q [])
def execHmacSha384 (q : Nat) (s : State) : Host.Outcome State Fault Refusal := unit 64 q s (order specHmacSha384 q [])

/-- SYM_OP with a code R439 does not list: refused in the field check, at the algorithm or at the operation. -/
def specSymUnknown : Spec where
  op := 0x0510
  permit := [1, 2, 3, 4]
  units := 3
  state := fun s _ => [(!s.working unitBne, unitMissing unitBne)]
  fields := fun _ o => [rg (decide (6 < o.field 16 1)) 16, rg true 17]
  body := fun s _ => s

/-! ## Random output -/

/-- The checks of a reply buffer of R121 that holds at least `n` bytes. -/
def replyNeed (n : Nat) (o : Ord) : Bool × Why := (decide (o.field 24 4 < n), shortAt 24)
def replyForm (o : Ord) : List (Bool × Why) := [rg (o.field 16 8 % 64 != 0) 16, rg (o.field 24 4 % 64 != 0) 24]

def specRngRead : Spec where
  op := 0x0520
  allot := 2
  permit := [1, 2, 3, 4]
  need := fun _ o => [(o.field 24 4 % 64 != 0 || decide (65536 < o.field 24 4), shortAt 24)]
  state := fun s _ => [(s.wellFailed, whyOpen stState 0xEE)]
  fields := fun _ o => [rg (o.field 16 8 % 64 != 0) 16]
  body := fun s o =>
    let d := s.generate 2 (o.field 24 4)
    (d.2.reply o (o.field 16 8) d.1).done o

def execRngRead (q : Nat) (s : State) : Host.Outcome State Fault Refusal := unit 64 q s (order specRngRead q [])

/-- A DRBG instance is reseeded (R441); a failed well reseeds nothing. -/
def execDrbgReseed (inst : Nat) (s : State) : Host.Outcome State Fault Refusal :=
  unit 4 inst s fun s =>
    if s.wellFailed then s else { s.bump F.SEC_WELL_RESEEDS with drbg := smSet 0 s.drbg inst 0 }

/-- The sealed frames that a port has not completed become bad with cause ABORT; the port discards the rest of the one it receives. -/
def State.sealedFramesBad (s : State) (p : Nat) : State :=
  let s := match (s.ing p).receiving with
    | some f => if f.key.isSome then
        let st := s.get (F.ING_PORT_STATE_STATE p)
        (s.frameBad p 7).put (F.ING_PORT_STATE_STATE p) (if st = 3 then 4 else st)
      else s
    | none => s
  let x := s.ing p
  let l := x.frames.filter fun f => f.key.isSome
  if l.isEmpty then s
  else
    let s := { s.setIng p { x with frames := x.frames.filter fun f => f.key.isNone } with
      encQ := s.encQ.filter fun j => !(j.port == p && l.any fun f => f.id == j.frame) }
    (s.noteEnc.bump (F.ING_FRAMES_BAD p) l.length).put (F.ING_PORT_STATE_LAST_BAD p) 7

/-- A continuous health test fails (R442): the well leaves the working units; sealed frames in progress are bad. -/
def wellFail (s : State) : State :=
  let s := (s.put F.SEC_WELL_FAILED 1).put F.SEC_WELL_HEALTHY 0
  let s := { s with wellStopped := true }.setWorking 260 false
  (List.range 8).foldl State.sealedFramesBad s

def execWellHealthFail (s : State) : Host.Outcome State Fault Refusal := run s wellFail

/-! ## Measurements (R448, R449) -/

/-- The rights measurement of an allotment. -/
def State.rightsMeas (s : State) (a : Nat) : Bytes :=
  sha384 ((s.allot a).rights.flatMap fun r => toLe 4 r.1 ++ toLe 4 r.2.1 ++ toLe 1 r.2.2 ++ [0, 0, 0])

/-- The modulus-table measurement: 64 entries, invalid ones as zeros. -/
def State.modMeas (s : State) (a : Nat) : Bytes :=
  sha384 ((List.range 64).flatMap fun i => match (s.allot a).mods.find? (fun m => m.1 == i) with
    | some m => padTo 16 (m.2.raw.take 16)
    | none => List.replicate 16 0)

def measOf (p : Option Plan) : Bytes := match p with | some x => padTo 48 x.meas | none => List.replicate 48 0

/-- The identity key's ECDSA P-384 signature over SHA-384 of a message: r, then s. -/
def State.idSign (s : State) (m : Bytes) : Bytes × State :=
  let g := s.ecdsa curveP384 (beNat (sha384 m)) s.idKey 16
  (toLe 48 g.1.1 ++ toLe 48 g.1.2, g.2)

/-- Bytes 0 to 415 of the attestation report (Table 18-6), as of the grant cycle. -/
def State.report (s : State) (o : Ord) : Bytes :=
  let a := o.allot
  let z (n : Nat) : Bytes := List.replicate n 0
  let dev := decide (16 ≤ a)
  let g (n : Nat) (b : Bytes) : Bytes := if dev then z n else b
  toLe 4 0x54514341 ++ toLe 2 1 ++ toLe 1 a ++
    g 1 (toLe 1 (s.get (F.ALT_STATE_SEALED a) + 16 * s.get (F.ALT_STATE_PARTY a))) ++ g 1 (toLe 1 (s.altState a)) ++
    toLe 1 (s.get F.WCK_STATE_STATE) ++ toLe 6 s.wck.turn ++ toLe 8 (s.get F.SEC_SERIAL_SERIAL) ++
    toLe 4 (s.get F.ALT_EPOCH_EPOCH) ++ z 4 ++ g 48 (measOf (s.allot a).active) ++ g 48 (measOf (s.allot a).standby) ++
    g 48 (s.rightsMeas a) ++ g 48 (s.modMeas a) ++ o.data 32 32 ++
    g 6 (toLe 6 (if s.on (F.SEC_SESSION_ACTIVE a) then s.get (F.SEC_SESSION_SESSION_ID a) else 0)) ++ z 154

/-- ATTEST executes on the idle engine: the report measured at the grant is signed and written. -/
def runAttest (agree : Bool) (s : State) (o : Ord) : State :=
  if s.wellFailed then s.fail o (whyOpen stState 0xEE)
  else if !agree then s.pkMismatch o (Config.openDetail 0x103 % 256)
  else
    let g := s.idSign o.host
    (g.2.reply o (o.field 16 8) (o.host ++ g.1)).done o

def attestBody (agree : Bool) (s : State) (o : Ord) : State :=
  let o := { o with host := s.report o }
  s.serve o s.bne.isSome (runAttest agree · o)

def specAttest (agree : Bool) : Spec where
  op := 0x0502
  allot := 2
  permit := [1, 2, 3, 4]
  units := 2
  need := fun _ o => [replyNeed 512 o]
  state := fun s _ => [(!s.working unitBne, unitMissing unitBne), (s.wellFailed, whyOpen stState 0xEE)]
  fields := fun _ o => replyForm o
  body := attestBody agree

def execAttest (q : Nat) (agree : Bool) (s : State) : Host.Outcome State Fault Refusal :=
  unit 64 q s (order (specAttest agree) q [])

/-! ## Sessions (R444, R445) -/

/-- The ASCII bytes of the HKDF info string. -/
def sessionInfo : Bytes := [0x59, 0x51, 0x39, 0x36, 0x34, 0x30, 0x20, 0x73, 0x65, 0x73, 0x73, 0x69, 0x6F, 0x6E]

/-- The key agreement of SESSION_OPEN: the device's public key and Z; none when the client key is invalid or Z is 0. -/
def State.agree (s : State) (curve : Nat) (client : Bytes) : Option (Bytes × Bytes) × State :=
  if curve = 1 then
    let k := s.scalar curveP384.n
    let x := leNat (client.take 48)
    let y := leNat (client.drop 48)
    if !ecOn curveP384 x y then (none, k.2)
    else match ecMul curveP384 k.1 (some (curveP384.gx, curveP384.gy)), ecMul curveP384 k.1 (some (x, y)) with
      | some p, some z => (if z.1 = 0 then none else some (toLe 48 p.1 ++ toLe 48 p.2, toLe 48 z.1), k.2)
      | _, _ => (none, k.2)
  else
    let d := s.generate 0 32
    let z := x25519 (leNat d.1) (leNat (client.take 32))
    (if z = 0 then none else some (padTo 96 (toLe 32 (x25519 (leNat d.1) 9)), toLe 32 z), d.2)

/-- SESSION_OPEN executes on the idle engine. -/
def runSession (agree : Bool) (s : State) (o : Ord) : State :=
  let a := o.allot
  let curve := o.field 16 1
  let client := o.data 64 (if curve = 1 then 96 else 32)
  if s.wellFailed then s.fail o (whyOpen stState 0xEE)
  else match s.agree curve client with
  | (none, s) => s.fail o (whyOpen stNoRight 0xF1)
  | (some (pub, z), s) =>
    let id := s.nextSession
    let s := { s with nextSession := (id + 1) % 2 ^ 48 }
    let key := hkdf384 (toLe 8 id) z (sessionInfo ++ toLe 1 a ++ toLe 1 (s.get (F.ALT_STATE_PARTY a)))
    if !agree then s.pkMismatch o (Config.openDetail 0x103 % 256)
    else
      let body := pub ++ toLe 6 id ++ toLe 1 a ++ toLe 1 curve ++ toLe 1 (s.get (F.ALT_STATE_PARTY a)) ++ List.replicate 7 0
        ++ measOf (s.allot a).active
      let g := s.idSign (body ++ client)
      (g.2.reply o (o.field 32 8) (body ++ g.1)).stage o (.session a id key)

def sessionBody (agree : Bool) (s : State) (o : Ord) : State :=
  s.serve o s.bne.isSome (runSession agree · o)

def specSessionOpen (agree : Bool) : Spec where
  op := 0x0503
  permit := [1, 2, 3, 4]
  units := 3
  need := fun _ o => [(o.field 16 1 == 1 && decide (o.units < 5), shortAt 2), (decide (o.field 40 4 < 256), shortAt 40)]
  state := fun s o =>
    [(!s.working unitBne, unitMissing unitBne),
     (decide (o.allot < 16) && !s.isSealed o.allot, whyState 0x2B (s.altState o.allot)), (s.wellFailed, whyOpen stState 0xEE)]
  fields := fun _ o =>
    [rg (o.field 16 1 != 1 && o.field 16 1 != 3) 16, rz o 17 11, rg (o.field 32 8 % 64 != 0) 32, rg (o.field 40 4 % 64 != 0) 40,
     rz o 44 20]
  body := sessionBody agree

def execSessionOpen (q : Nat) (agree : Bool) (s : State) : Host.Outcome State Fault Refusal :=
  unit 64 q s (order (specSessionOpen agree) q [])

end Sys2Proof.Machine
end

