-- ==== Sys2Proof/Machine/Power.lean ====
section
/-! DEFINITION. Units, power domains, self-test, resets and bring-up (chapter 20); temperature and supply monitors. -/

namespace Sys2Proof.Machine

/-! ## Units -/

/-- Tile `t` is zeroed: scratchpads, tag stores, accumulators, landing slots, registers (R202, R477). Spent bits stay: they go with
the key table (R280, R285). -/
def State.zeroTile (s : State) (t : Nat) : State :=
  (List.range 32).foldl (fun s i =>
    let c := 32 * t + i
    let x := s.core c
    (s.setCore c { Core.reset with bank0 := x.bank0, bank1 := x.bank1, cursor := x.cursor, spent := x.spent }).setReg (0x80000 + 4 * c) 1) s

/-- Tile `t` has its command stores cleared as well. -/
def State.blankTile (s : State) (t : Nat) : State :=
  (List.range 32).foldl (fun u i =>
    (u.setCore (32 * t + i) { Core.reset with spent := (s.core (32 * t + i)).spent }).setReg (0x51000 + 0x10 * (32 * t + i)) 0) (s.zeroTile t)

/-- Registers from `lo` to `hi - 1` take their reset values. -/
def State.clearRegs (s : State) (lo hi : Nat) : State :=
  { s with regs := s.regs.filter fun r => !(decide (lo ≤ r.1) && decide (r.1 < hi)) }

/-- Bytes of external memory are lost or scrubbed: data, tags, ECC state. -/
def State.zeroMem (s : State) (first n : Nat) : State :=
  let out (b : Nat) : Bool := !(decide (first ≤ b * 64) && decide (b * 64 < first + n))
  { s with
    stores := .zero first n :: s.stores
    blkTag := s.blkTag.filter fun x => out x.1
    blkCode := s.blkCode.filter fun x => out x.1 }

/-- The internal memories of a unit are zeroed (Tables 20-4 and 20-7). What routers and bridge halves hold belongs to plans, which Table
20-3 keeps from them (log entry 104). -/
def State.blankUnit (s : State) (u : Nat) : State :=
  if u < 144 then s.blankTile u
  else if u < 152 then { s.zeroMem ((u - 144) * stackSize) stackSize with rewriteQ := smSet [] s.rewriteQ (u - 144) [] }
  else if u < 172 then s
  else if u < 184 then { s with aqds := smSet AqdPort.reset s.aqds (u - 172) AqdPort.reset }
  else if u < 192 then s.portOff (u - 184)
  else if u < 193 then { s with encQ := [] }
  else if u < 197 then { s with viss := smSet Vis.reset s.viss (u - 193) Vis.reset }
  else if u < 199 then { s with basins := smSet Basin.reset s.basins (u - 197) Basin.reset }
  else if u = 199 then { s with gnss := Gnss.reset }
  else s

/-- The registers of a unit, from the first to the one after the last. The bridge's counts have a half each, and what outlasts a cold
reset alone (BNE_FAULTS) is none of them. -/
def unitRegs (u : Nat) : Nat × Nat :=
  if u < 144 then (0, 0)
  else if u < 152 then (0xA0100 + 0x20 * (u - 144), 0xA0120 + 0x20 * (u - 144))
  else if u < 168 then (0xA8000 + 0x10 * (u - 152), 0xA8010 + 0x10 * (u - 152))
  else if u < 172 then (0, 0)
  else if u < 184 then (0xB8100 + 0x100 * (u - 172), 0xB8200 + 0x100 * (u - 172))
  else if u < 192 then (0xC0100 + 0x80 * (u - 184), 0xC0180 + 0x80 * (u - 184))
  else if u = 192 then (0xC0000, 0xC0100)
  else if u < 197 then (0xD0000 + 0x40 * (u - 193), 0xD0040 + 0x40 * (u - 193))
  else if u < 199 then (0xD8000 + 0x40 * (u - 197), 0xD8040 + 0x40 * (u - 197))
  else if u = 199 then (0xE0000, 0xE0300)
  else if u = 200 then (0xF0000, 0xF0008)
  else (0, 0)

/-- What a unit holds is lost (the Domain reset of Table 20-4). -/
def State.domainReset (s : State) (u : Nat) : State :=
  let s := (s.blankUnit u).clearRegs (unitRegs u).1 (unitRegs u).2
  if u = 170 then s.put F.CAN_BRIDGE_NS 0 else if u = 171 then s.put F.CAN_BRIDGE_SN 0 else s

/-- A unit is in use (Table 20-3). -/
def State.inUse (s : State) (u : Nat) : Bool :=
  if u < 144 then s.tileClosed u || (match s.tileOwner u with | some a => (s.allot a).plans ≠ [] | none => false)
  else if u < 152 then
    let st := u - 144
    let here (f n : Nat) : Bool := decide (f * pageSize / stackSize ≤ st) && decide (0 < n) && decide (st ≤ (f + n - 1) * pageSize / stackSize)
    ((List.range 16).any fun a => (s.allot a).rights.any fun r => here r.1 r.2.1)
      || (s.fences.any fun x => x.2.2 && here x.1 x.2.1) || (s.scrubs.any fun x => here x.1 x.2) || s.get F.PWR_STATUS_HOME_STACK == st
  else if u < 168 then s.flumeUsed (u - 152)
  else if u < 170 then (List.range 72).any fun i => s.tileEnabled (72 * (u - 168) + i) && !s.tileGated (72 * (u - 168) + i)
  else if u < 172 then s.bridgeUsed
  else if u < 184 then s.get (F.AQD_PORT_STATE_STATE (u - 172)) != 0
  else if u < 192 then s.get (F.ING_PORT_STATE_STATE (u - 184)) != 0
  else if u = 192 then (List.range 8).any fun p => s.get (F.ING_PORT_STATE_STATE p) != 0
  else if u < 197 then s.get (F.VIS_STATE_ALLOT (u - 193)) != 31
  else if u < 199 then s.get (F.BSN_STATE_ALLOT (u - 197)) != 31
  else if u = 199 then s.srcEnabled 1
  else if u = 200 then ((List.range 256).any fun i => s.slotOn i) || (List.range 16).any fun a => (s.allot a).session.isSome
  else false

/-! ## Ramps (R482, R483) -/

/-- The order of a switch on that has failed (R483). -/
def State.domainFailed (s : State) (u : Nat) (o : Option Ord) : State :=
  match o with
  | some o => s.fail o (whyState 0xE2 u)
  | none => s

/-- A ramp begins: at most 8 in any 4 µs. A switch off isolates its unit at once; a switch on of that unit whose work still runs has
failed (log entry 104). -/
def State.startRamp (s : State) (u : Nat) (on : Bool) (o : Option Ord) : State :=
  let s := match s.rampStarts with
    | [] => s
    | l => if 8 ≤ l.length then s.toLagoon (l.headD 0 + 3200) else s
  let cut (r : Ramp) : Bool := !on && r.unit == u && r.on
  let lost := s.ramps.filter cut
  let s := { s with
    rampStarts := (s.rampStarts ++ [s.wck.lagoon]).drop (s.rampStarts.length - 7)
    ramps := s.ramps.filter (fun r => !cut r) ++ [(⟨u, on, o, 0⟩ : Ramp)] }
  let s := lost.foldl (fun s r => s.domainFailed u r.ord) s
  let s := match o with
    | some o => s.took o
    | none => s
  if on then s else s.unitDown u

/-- A switch takes effect in its fallow turn. A second switch of a unit to a state that an earlier one is taking it to ends with that
one, and a unit already in its state needs no ramp (log entry 104). -/
def State.startSwitch (s : State) (u : Nat) (on : Bool) (o : Ord) : State :=
  match s.ramps.find? fun r => r.unit == u && r.on == on with
  | some r => { s with ramps := s.ramps ++ [{ r with ord := some o }] }.took o
  | none => if s.powered u = on ∧ ¬ s.ramps.any (fun r => r.unit == u) then s.done o else s.startRamp u on (some o)

def domainSwitch (u : Nat) (s : State) : State :=
  if s.get F.PWR_STATUS_PHASE = 1 ∧ s.bringup.head? = some u then
    { s with bringup := s.bringup.drop 1 }.startRamp u true none
  else if s.wck.isFallow then
    match s.dueNow fun c => match c with | .power _ _ => true | _ => false with
    | x :: _ => match x.change with
      | .power v on => if v = u then (s.dropDue [x]).startSwitch u on x.ord else s
      | _ => s
    | [] => s
  else s

def execDomainSwitch (unit : Nat) (s : State) : Host.Outcome State Fault Refusal := Machine.unit 264 unit s (domainSwitch unit)

/-- A unit loses its power; a port that leaves UP so is link doubt (R352). -/
def State.powerOff (s : State) (u : Nat) : State :=
  let up := decide (172 ≤ u) && decide (u < 184) && s.get (F.AQD_PORT_STATE_STATE (u - 172)) == 4
  let s := ((s.unitDown u).domainReset u).setMapBit F.PWR_ON_MAP_MAP u false
  let s := if u < 144 then s.setMapBit F.TIL_GATED_MAP_MAP u true else s
  if up then s.linkDoubt (u - 172) else s

/-- A switch on has failed: the unit is switched off again (R483, R496). `tested`: a test or training of it has failed. -/
def State.switchFailed (s : State) (u : Nat) (tested : Bool) : State :=
  let l := s.rampOrds u true
  let s := (s.powerOff u).dropRamp u true
  let s := if tested ∧ ¬ s.failedUnits.contains u then { s with failedUnits := s.failedUnits ++ [u] } else s
  l.foldl (fun s o => s.domainFailed u (some o)) s

/-- Ports and the GNSS baseband have no follow-up (Table 20-2). -/
def followUp (u : Nat) : Bool := !((decide (172 ≤ u) && decide (u < 192)) || u == 199)

/-- A ramp ends: a switch off holds until the guard, a switch on goes on to its follow-up. A training that begins clears what PWR_TRAIN
says of the one before it (R499). `tie`: the confirmation came in the cycle in which its timer expires, and wins (R119). -/
def rampEnd (u : Nat) (ok tie : Bool) (s : State) : State :=
  match s.rampOf u 0 with
  | none => s
  | some r =>
    let s := if tie && ok then s.tieOrders (s.rampOrds u r.on) else s
    if !r.on then (s.powerOff u).setRamp u false 3
    else if !ok then s.switchFailed u false
    else
      let s := s.setMapBit F.PWR_ON_MAP_MAP u true
      let s := if u < 144 then s.setMapBit F.TIL_GATED_MAP_MAP u false else s
      let s := if 144 ≤ u ∧ u < 152 then s.setReg (0x110080 + 8 * (u - 144)) 0 else s
      if followUp u then s.setRamp u true 1 else s.switchDone u

def execDomainRampEnd (unit : Nat) (ok tie : Bool) (s : State) : Host.Outcome State Fault Refusal :=
  Machine.unit 264 unit s (rampEnd unit ok tie)

/-- A fuse integrity failure (R492): before READY it waits for it, from then on it is a doubt. -/
def State.fuseFail (s : State) : State :=
  let s := s.put F.PWR_FUSE_INTEGRITY_FAIL 1
  if s.get F.PWR_STATUS_PHASE = 4 then s.doubtChip { cause := cFuse } else { s with fuseFault := true }

/-- The granules of a stack outside its device region. -/
def stackGranules (st : Nat) : Nat × Nat := (24576 * st, 24576 - 32)

/-- TRAIN ends with its last training and the identity check: the home stack is settled, INIT begins (R493, R494). -/
def State.trainDone (s : State) : State :=
  if s.get F.PWR_STATUS_PHASE = 2 ∧ s.ramps.any (fun r => (decide (144 ≤ r.unit) && decide (r.unit < 152)) || r.unit == 200) = false then
    let s := s.put F.PWR_STATUS_PHASE 3
    match (List.range 8).find? fun i => s.working (144 + i) with
    | some h => s.put F.PWR_STATUS_HOME_STACK h
    | none => s
  else s

/-- A bridge half is tested once both halves are on (Table 20-2). -/
def State.testable (s : State) (u : Nat) : Bool := !(u == 170 || u == 171) || (s.powered 170 && s.powered 171)

/-- A unit passes its quick test, and a stack its training before it: the failed map forgets it (R498). -/
def State.testPassed (s : State) (u : Nat) : State := { s with failedUnits := s.failedUnits.filter (· != u) }

/-- The follow-up of Table 20-2 ends; unit 200's has two parts, its quick test and its identity check. `tie`: it ended in the cycle in
which its timer expires (R119). -/
def endFollowup (u : Nat) (ok tie : Bool) (s : State) : State :=
  let trained := decide (u < 144) || decide (152 ≤ u) || s.on (F.PWR_TRAIN_PASS (u - 144))
  let tied (s : State) : State := if tie && ok then s.tieOrders (s.rampOrds u true) else s
  match s.rampOf u 1 with
  | none =>
    if u = 200 ∧ (s.rampOf u 2).isSome then
      let s := tied s
      if !ok then s.switchFailed u true
      else if s.identityOk then s.switchDone u
      else (s.switchFailed u true).fuseFail
    else s
  | some r =>
    if !s.testable u then s
    else
      let s := tied s
      if !ok || !trained then s.switchFailed u true
      else
        let s := s.testPassed u
        if u = 200 then s.setRamp u true 2
        else if 144 ≤ u ∧ u < 152 ∧ r.ord.isSome then
          { s.setRamp u true 2 with scrubs := s.scrubs.filter (fun (x : Nat × Nat) => x.1 / 24576 != u - 144) ++ [stackGranules (u - 144)] }.noteScrub
        else if u < 144 then (s.zeroTile u).switchDone u
        else s.switchDone u

def followupEnd (u : Nat) (ok tie : Bool) (s : State) : State := (endFollowup u ok tie s).trainDone

def execUnitFollowupEnd (unit : Nat) (ok tie : Bool) (s : State) : Host.Outcome State Fault Refusal :=
  Machine.unit 264 unit s (followupEnd unit ok tie)

/-- A stack's training ends: a failing stack is retried once (Table 20-6). `tie`: it ended in the cycle in which the 48 ms expire
(R119). -/
def endTraining (st time : Nat) (pass tie : Bool) (s : State) : State :=
  match s.rampOf (144 + st) 1 with
  | none => s
  | some _ =>
    let s := (s.put (F.PWR_TRAIN_TIME st) (min 65535 time)).put (F.PWR_TRAIN_PASS st) (b2n pass)
    let s := if tie && pass then s.tieOrders (s.rampOrds (144 + st) true) else s
    if pass then s.put (F.HBM_STACK_TRAINED st) 1
    else if s.on (F.PWR_TRAIN_RETRIED st) then s.switchFailed (144 + st) true
    else s.put (F.PWR_TRAIN_RETRIED st) 1

def trainingEnd (st time : Nat) (pass tie : Bool) (s : State) : State := (endTraining st time pass tie s).trainDone

def execStackTrainingEnd (stack time : Nat) (pass tie : Bool) (s : State) : Host.Outcome State Fault Refusal :=
  unit 8 stack s (trainingEnd stack time pass tie)

/-! ## Switch orders -/

/-- The switch of a domain, accepted: nothing to do, or its fallow turn (R483). -/
def State.switch (s : State) (o : Ord) (u : Nat) (on : Bool) : State :=
  if s.powered u = on then s.done o else s.acceptFallow o (.power u on)

/-- The owner that a switch of a tile must name (R485). -/
def tileRight (s : State) (_o : Ord) (a t : Nat) : Bool × Why :=
  (decide (t < 144) && decide ((s.tileOwner t).getD 255 ≠ a), whyOpen stNoRight 0xE5)

def State.switchState (s : State) (u v : Nat) : List (Bool × Why) :=
  [(decide (u < 144) && !s.tileEnabled u, unitMissing u), (v == 0 && decide (u ≤ 200) && s.powered u && s.inUse u, whyOpen stState 0xE1)]

def specPwrDomainSet : Spec where
  op := 0x0B00
  q0 := true
  allot := 1
  fallow := true
  right := fun s o => [tileRight s o 255 (o.field 16 2)]
  state := fun s o => s.switchState (o.field 16 2) (o.field 18 1)
  fields := fun _ o => [rg (decide (200 < o.field 16 2)) 16, rg (decide (1 < o.field 18 1)) 18, rz o 19 8, rzb o 27 0 7]
  body := fun s o => s.switch o (o.field 16 2) (o.field 18 1 == 1)

def execPwrDomainSet (q : Nat) (s : State) : Host.Outcome State Fault Refusal := unit 64 q s (order specPwrDomainSet q [])

def specTileGate : Spec where
  op := 0x0B01
  allot := 2
  fallow := true
  permit := [1, 2, 3, 4]
  right := fun s o => [tileRight s o o.allot (o.field 16 2)]
  state := fun s o => s.switchState (o.field 16 2) (o.field 18 1)
  fields := fun _ o => [rg (decide (143 < o.field 16 2)) 16, rg (decide (1 < o.field 18 1)) 18, rz o 19 8, rzb o 27 0 7]
  body := fun s o => s.switch o (o.field 16 2) (o.field 18 1 == 1)

def execTileGate (q : Nat) (s : State) : Host.Outcome State Fault Refusal := unit 64 q s (order specTileGate q [])

/-! ## Self-test (R497) -/

/-- The units a SELFTEST_RUN tests. -/
def State.testUnits (s : State) (u : Nat) : List Nat :=
  if u = 0xFFFF then ((List.range 201).filter fun i => s.powered i && !s.inUse i) ++ (List.range 8).map (256 + ·) else [u]

/-- A self-test is granted: its switched units leave the working units, also while it waits. -/
def State.holdTest (s : State) (o : Ord) : State :=
  let l := s.testUnits (o.field 16 2)
  let s := (l.filter (· ≤ 200)).foldl State.unitDown s
  { s with testsWaiting := s.testsWaiting ++ [(⟨o, l, o.field 18 1 == 1⟩ : TestRun)] }

/-- A self-test starts, of the units that its grant has named (R115, R497). -/
def startTest (s : State) (o : Ord) : State :=
  match s.testsWaiting.find? fun t => t.ord.id == o.id with
  | some r => { s.took o with
      test := some r, testsWaiting := s.testsWaiting.filter fun t => t.ord.id != o.id }.put F.PWR_STATUS_SELFTEST_BUSY 1
  | none => s

def validUnit (u : Nat) : Bool := decide (u ≤ 200) || (decide (256 ≤ u) && decide (u ≤ 263)) || u == 0xFFFF

def specSelftestRun : Spec where
  op := 0x0D00
  q0 := true
  allot := 1
  underMinimal := true
  state := fun s o =>
    let u := o.field 16 2
    [(decide (u ≤ 200) && !s.powered u, unitMissing u), (decide (u ≤ 200) && s.inUse u, whyOpen stState 0xE1)]
  fields := fun _ o =>
    let u := o.field 16 2
    [rg (!validUnit u) 16, rg (decide (1 < o.field 18 1) || (decide (256 ≤ u) && decide (u ≤ 263) && o.field 18 1 == 1)) 18, rz o 19 9]
  body := fun s o => (s.holdTest o).serve o s.test.isSome (startTest · o)

def execSelftestRun (q : Nat) (s : State) : Host.Outcome State Fault Refusal := unit 64 q s (order specSelftestRun q [])

/-- A switched unit has passed its test, which leaves a tile zeroed, and after a full test the other memories too (Table 20-7). -/
def State.unitPassed (s : State) (u : Nat) (full : Bool) : State :=
  let s := if full then s.blankUnit u else if u < 144 then s.zeroTile u else s
  s.unitBack u

/-- The test ends with the units that failed (R496, Table 20-7). -/
def testEnd (failed : List Nat) (s : State) : State :=
  match s.test with
  | none => s
  | some t =>
    let bad := t.units.filter fun u => failed.contains u
    let s := { s with test := none }.put F.PWR_STATUS_SELFTEST_BUSY 0
    let s := { s with
      testRuns := (s.testRuns + 1) % 2 ^ 32, testTurn := s.wck.turn, testUnit := t.units.getLast?.getD 0
      failedUnits := (s.failedUnits.filter fun u => !t.units.contains u) ++ bad }
    let s := t.units.foldl (fun s u =>
      if 200 < u then s else if bad.contains u then s.switchFailed u false else s.unitPassed u t.full) s
    s.done t.ord t.units.length (b2n bad.isEmpty)

def execSelftestEnd (failed : List Nat) (s : State) : Host.Outcome State Fault Refusal := run s (testEnd failed)

/-! ## Replies (R498) -/

/-- Bits of a map of 64-bit words, as bytes. -/
def State.mapBytes (s : State) (f : Nat → Fld) (words n : Nat) : Bytes :=
  ((List.range words).flatMap fun k => toLe 8 (s.get (f k))).take n

/-- PWR_WORKING as the replies lay it out: 264 bits, then zeros to byte 40. -/
def State.workingBytes (s : State) : Bytes := padTo 41 (s.mapBytes F.PWR_WORKING_MAP 5 33)

def State.devInfo (s : State) : Bytes :=
  let h := s.get F.PWR_STATUS_HOME_STACK
  let map := s.mapBytes F.TIL_ENABLE_MAP_MAP 3 18
  padTo 256 (toLe 4 0x4F464E49 ++ toLe 2 0x9640 ++ toLe 1 0xB0 ++ toLe 1 (if h = 15 then 255 else h)
    ++ toLe 8 (s.get F.SEC_SERIAL_SERIAL) ++ map ++ toLe 2 ((List.range 144).filter fun t => s.tileEnabled t).length
    ++ toLe 4 (((List.range 8).map fun i => if s.working (144 + i) then 2 ^ i else 0).sum)
    ++ ((List.range 12).flatMap fun k => toLe 8 (s.get (F.SEC_ID_PUB_WORD k))) ++ toLe 1 (s.get F.PWR_STATUS_ID_VERIFIED))

def State.devStatus (s : State) : Bytes :=
  padTo 256 (s.workingBytes ++ padTo 26 (s.mapBytes F.PWR_ON_MAP_MAP 4 26)
    ++ toLe 1 (s.get F.PWR_STATUS_PHASE + 8 * s.get F.PWR_STATUS_RESET_CAUSE + 64 * s.get F.PWR_STATUS_MINIMAL + 128 * b2n s.chipClosed)
    ++ toLe 1 s.wckState ++ toLe 6 s.wck.turn ++ [0] ++ toLe 4 (s.get F.ALT_SCRUB_PENDING)
    ++ toLe 1 (s.get F.PWR_DIE_TEMP_NORTH) ++ toLe 1 (s.get F.PWR_DIE_TEMP_SOUTH) ++ toLe 1 (s.get F.PWR_DIE_TEMP_GATEHOUSE)
    ++ ((List.range 8).flatMap fun i => toLe 1 (s.get (F.HBM_STACK_TEMP i)))
    ++ toLe 1 ((List.range 16).filter fun a => !s.isEmpty a).length)

def State.testResult (s : State) : Bytes :=
  let failed := toLe 33 ((s.failedUnits.map fun u => 2 ^ u).sum)
  padTo 128 (padTo 48 s.workingBytes ++ padTo 48 failed ++ toLe 4 s.testRuns ++ toLe 6 s.testTurn ++ toLe 2 s.testUnit)

/-- A status order of queue 0 that writes a reply into the buffer of R121. Table 4-11 has no row for DEV_INFO and DEV_STATUS: one
that names an allotment is accepted in every state of it (log entry 89). -/
def statusSpec (op size allot : Nat) (f : State → Bytes) : Spec where
  op := op
  q0 := true
  allot := allot
  underChip := true
  underMinimal := true
  need := fun _ o => [replyNeed size o]
  fields := fun _ o => replyForm o
  body := fun s o => (s.reply o (o.field 16 8) (f s)).done o

def specDevInfo : Spec := statusSpec 0x0101 256 2 State.devInfo
def specDevStatus : Spec := statusSpec 0x0102 256 2 State.devStatus
def specSelftestResult : Spec := statusSpec 0x0D01 128 1 State.testResult

def execDevInfo (q : Nat) (s : State) : Host.Outcome State Fault Refusal := unit 64 q s (order specDevInfo q [])
def execDevStatus (q : Nat) (s : State) : Host.Outcome State Fault Refusal := unit 64 q s (order specDevStatus q [])
def execSelftestResult (q : Nat) (s : State) : Host.Outcome State Fault Refusal := unit 64 q s (order specSelftestResult q [])

/-! ## Resets (R487 to R490) -/

/-- The bits of a register that survive a warm reset: its RS fields. -/
def rsMask (r : RegRow) : BitVec 64 :=
  (r.fields.filter fun f => f.acc == .rs).foldl (fun m f => insertBits m f.lo f.w (2 ^ f.w - 1)) 0

/-- What a warm reset leaves in a register: its RS fields as they were. -/
def State.sticky (s : State) (off : Nat) : BitVec 64 :=
  match regRowAt off with
  | some r => (regReset off &&& ~~~rsMask r) ||| (s.reg off &&& rsMask r)
  | none => regReset off

/-- The registers after a warm reset. -/
def State.keepSticky (s : State) : SMap (BitVec 64) :=
  s.regs.foldl (fun m x => smSet (regReset x.1) m x.1 (s.sticky x.1)) []

/-- The reset state with what the model itself keeps: the command queue, free values, what has left the device. -/
def State.cleared (s : State) : State :=
  { State.reset with pending := s.pending, free := s.free, sent := s.sent, perst := s.perst, tripped := s.tripped, powerGood := s.powerGood, stores := [.zero 0 (2 ^ 48)], mem := s.mem }

/-- A warm reset with its cause; none while the power-good inputs are not high (R487). -/
def State.warmReset (s : State) (cause : Nat) : State :=
  if s.tripped || !s.powerGood then s
  else
    let t := { s.cleared with regs := s.keepSticky, vsel := s.vsel }
    (t.put F.PWR_STATUS_RESET_CAUSE cause).put F.MGT_SMB_ADDR (s.get F.MGT_SMB_ADDR)

/-- R488: of the triggers of one lagoon cycle, the one whose cause comes first decides; it is the widest too. `tie`: this trigger falls in
the cycle of the reset before it, whose cause RESET_CAUSE holds. -/
def State.outranked (s : State) (cause : Nat) (tie : Bool) : Bool := tie && decide (s.get F.PWR_STATUS_RESET_CAUSE ≤ cause)

/-- A warm reset that the reset of the same cycle does not outrank. -/
def State.triggered (s : State) (cause : Nat) (tie : Bool) : State := if s.outranked cause tie then s else s.warmReset cause

/-- Bring-up begins (R493). The always-on units are never switched. -/
def State.beginBringup (s : State) : State :=
  let s := { s with bringingUp := true, perst := false, powerGood := true }.put F.WCK_STATE_ON_LAGOON 1
  let s := [256, 257, 258, 259, 260, 261, 262, 263].foldl State.unitUp s
  s.put F.SEC_WELL_HEALTHY 1

/-- A power-good input has fallen; VSEL and the SMBus address pins are sampled; `io`: PWRGD_IO fell, which ends a
thermal trip (R487, R531, R521, R540). -/
def coldReset (vsel smb : Nat) (io : Bool) (s : State) : State :=
  ({ s.cleared with vsel := vsel % 2, tripped := s.tripped && !io, powerGood := false }).put F.MGT_SMB_ADDR (0x4C + smb % 4)

def execColdReset (vsel smb : Nat) (io : Bool) (s : State) : Host.Outcome State Fault Refusal := run s (coldReset vsel smb io)
def execPerstNAssert (tie : Bool) (s : State) : Host.Outcome State Fault Refusal :=
  run s fun s => { s.triggered 1 tie with perst := true }
def execHotReset (tie : Bool) (s : State) : Host.Outcome State Fault Refusal := run s fun s => s.triggered 2 tie
def execPfFlr (tie : Bool) (s : State) : Host.Outcome State Fault Refusal :=
  run s fun s => if s.tripped || s.perst || !s.powerGood || s.outranked 3 tie then s else (s.warmReset 3).beginBringup

/-- A write of PWR_RESET.KEY (R490, R499). -/
def writeReset (fn key : Nat) (s : State) : State :=
  if !s.isReady || fn != 0 then s
  else if key % 256 = 0xA5 then (s.warmReset 4).beginBringup
  else s.logCause 0x102 (0x110004 + key * 2 ^ 32)

def execPwrReset (fn key : Nat) (s : State) : Host.Outcome State Fault Refusal := unit 32 fn s (writeReset fn key)

def execBringupStart (s : State) : Host.Outcome State Fault Refusal :=
  run s fun s => if s.tripped || s.bringingUp || decide (s.get F.PWR_STATUS_PHASE ≠ 0) then s else { s with jtagIr := 0 }.beginBringup

/-! ## Fuses (Table 20-5, R491) -/

/-- The CRC-32C of a group's data bits, as bytes. -/
def fuseCopyOk (fuses off n : Nat) : Bool := crc32c (toLe (n / 8) (bits fuses off n)) == bits fuses (off + n) 32

/-- Groups: offset, data bits. -/
def fuseGroups : List (Nat × Nat) :=
  [(0, 32), (64, 64), (160, 160), (352, 768), (1152, 384), (1568, 1024), (2624, 8192), (10848, 4096)]

/-- One group: its data, whether the primary copy holds, whether the shadow is used. Where both copies fail, what is
loaded is open (log entry 3). -/
def fuseGroup (fuses draw : Nat) (g : Nat × Nat) : Nat × Bool × Bool :=
  if fuseCopyOk fuses g.1 g.2 then (bits fuses g.1 g.2, true, false)
  else if fuseCopyOk fuses (g.1 + 16384) g.2 then (bits fuses (g.1 + 16384) g.2, false, true)
  else (Config.anyNat draw % 2 ^ g.2, false, false)

def popcount : Nat → Nat → Nat
  | 0, _ => 0
  | n + 1, v => v % 2 + popcount n (v / 2)

/-- Fuse load: 32,768 lagoon cycles (R491). -/
def fuseLoad (fuses : Nat) (s : State) : State :=
  if !s.bringingUp || decide (s.get F.PWR_STATUS_PHASE ≠ 0) then s
  else
    let l := fuseGroups.zipIdx.map fun x => fuseGroup fuses (s.free + x.2) x.1
    let s := { s.addCycles 32768 with free := s.free + 8 }
    let d (g : Nat) : Nat := (l.getD g (0, false, false)).1
    let mapOf (p : Nat × Bool × Bool → Bool) : Nat := (l.zipIdx.map fun x => if p x.1 then 2 ^ x.2 else 0).sum
    let s := (s.put F.PWR_FUSE_PRIMARY_OK (mapOf fun x => x.2.1)).put F.PWR_FUSE_SHADOW_USED (mapOf fun x => x.2.2)
    let s := s.put F.SEC_SERIAL_SERIAL (d 1)
    let s := (List.range 3).foldl (fun s k => (s.put (F.TIL_ENABLE_MAP_MAP k) (bits (d 2 % 2 ^ 144) (64 * k) 64)).put
      (F.TIL_GATED_MAP_MAP k) (if k = 2 then 0xFFFF else 2 ^ 64 - 1)) s
    let s := (List.range 12).foldl (fun s k => s.put (F.SEC_ID_PUB_WORD k) (bits (d 3) (64 * k) 64)) s
    let s := { s with idKey := d 4, fuseTrim := d 5, fuseSpm := d 6, fuseHbm := d 7 }
    let s := s.put F.MGT_JTAG_LOCKED (b2n (bits (d 0) 8 8 != 0))
    let bad := (l.any fun x => !x.2.1 && !x.2.2) || decide (bits (d 0) 0 8 ≠ 0xB0) || decide (bits (d 0) 16 16 ≠ 0)
      || decide (bits (d 2) 144 16 ≠ 0) || decide (popcount 144 (d 2) < 136)
    let s := if bad then s.fuseFail else s
    { s.put F.PWR_STATUS_PHASE 1 with
      bringup := (List.range 57).map (144 + ·) ++ ((List.range 144).filter fun t => bit (d 2) t) }

def execFuseLoad (fuses : Nat) (s : State) : Host.Outcome State Fault Refusal := run s (fuseLoad fuses)

/-- A unit whose work has not ended by the limit of its phase has failed (R493); a training so cut has taken the 48 ms (R499). -/
def State.failLate (s : State) (late : Ramp → Bool) : State :=
  (s.ramps.filter late).foldl (fun s r =>
    let st := r.unit - 144
    let s := if 144 ≤ r.unit ∧ r.unit < 152 ∧ r.stage = 1 ∧ ¬ s.on (F.PWR_TRAIN_PASS st) then s.put (F.PWR_TRAIN_TIME st) 48000 else s
    s.switchFailed r.unit true) s

/-- The end of DOMAINS: turn 0 begins (R493). -/
def clockSwitch (s : State) : State :=
  if s.get F.PWR_STATUS_PHASE ≠ 1 then s
  else
    let s := s.failLate fun r => !(decide (144 ≤ r.unit) && decide (r.unit < 152)) && !(r.unit == 200 && r.stage == 2)
    let s := s.bringup.foldl (fun s u => s.switchFailed u true) s
    let s := { s with
      bringup := []
      wck := { s.wck with running := true, turn := 0, cycle := 0, sec := 0, ns := 0, frac := 0 } }
    (s.put F.WCK_STATE_ON_LAGOON 0).put F.PWR_STATUS_PHASE 2

def execCoreClockSwitch (s : State) : Host.Outcome State Fault Refusal := run s clockSwitch

/-- INIT ends: the home stack, its device region zeroed; service and scrubbing begin (R494, R495, R149). -/
def ready (s : State) : State :=
  if s.get F.PWR_STATUS_PHASE ≠ 2 ∧ s.get F.PWR_STATUS_PHASE ≠ 3 then s
  else
    let s := (s.failLate fun _ => true).trainDone
    let h := s.get F.PWR_STATUS_HOME_STACK
    let s := if h < 8 then s.zeroMem (h * stackSize + 0xBFC000000) 0x4000000 else s
    let bad := s.fuseFault
    let s := { s with
      bringingUp := false
      fuseFault := false
      scrubs := (List.range 8).map stackGranules }
    let s := (s.put F.PWR_STATUS_PHASE 4).noteScrub.noteMinimal
    if bad then s.doubtChip { cause := cFuse } else s

def execReady (s : State) : Host.Outcome State Fault Refusal := run s ready

/-- A die reaches 115 °C (R540). -/
def execThermTrip (s : State) : Host.Outcome State Fault Refusal :=
  run s fun s => { s.cleared with tripped := true, vsel := s.vsel }

/-- A doubleword of a function's configuration space: Vendor ID 0x1C1E and Device ID 0x9640 at 0, Revision ID 0xB0 in byte 8 (R1), the
same in the physical function and in every virtual function. The spec does not state the rest (log entry 97). -/
def State.configWord (s : State) (reg : Nat) : Nat :=
  let any := Config.anyNat s.free % 2 ^ 32
  if reg / 4 = 0 then 0x96401C1E else if reg / 4 = 2 then any / 256 * 256 + 0xB0 else any

/-- A configuration request (R495). A function whose link is down answers nothing. `reg`: it reads the doubleword at that offset;
`vfs`: it writes the SR-IOV capability of the physical function, with VF Enable 1 and that many virtual functions (R135). -/
def configRequest (fn : Nat) (reg vfs : Option Nat) (s : State) : State :=
  if s.linkLost then s
  else if s.isReady then
    let s := match vfs with
      | some n => if fn = 0 then { s with vfEnabled := (List.range (min n 31)).map (· + 1) } else s
      | none => s
    match reg with
    | some r => { s.emit (.configDone fn (toLe 4 (s.configWord r))) with free := s.free + 1 }
    | none => s.emit (.configDone fn [])
  else s.emit (.retryStatus fn)

def execConfigurationRequest (fn : Nat) (reg vfs : Option Nat) (s : State) : Host.Outcome State Fault Refusal :=
  unit 32 fn s (configRequest fn reg vfs)

/-! ## Monitors -/

/-- A die's 1 ms sample (R538, Table 19-1). A tripped device samples nothing (R540). -/
def dieTemp (die temp : Nat) (s : State) : State :=
  if s.tripped then s
  else
    let s := match die with
      | 0 => s.put F.PWR_DIE_TEMP_NORTH temp
      | 1 => s.put F.PWR_DIE_TEMP_SOUTH temp
      | _ => s.put F.PWR_DIE_TEMP_GATEHOUSE temp
    if 110 ≤ temp then
      if s.hotDies.contains die then s else { s with hotDies := s.hotDies ++ [die] }.doubtChip { cause := cTemperature }
    else { s with hotDies := s.hotDies.filter (· != die) }

def execDieTempSample (die temp : Nat) (s : State) : Host.Outcome State Fault Refusal := unit 3 die s (dieTemp die temp)

/-- A stack's 1 ms sample (R306). The number of refreshes inserted since the last sample is not stated (log entry 3). -/
def stackTemp (st temp : Nat) (s : State) : State :=
  if s.tripped then s
  else
    let s := if s.on (F.HBM_STACK_INSERTING st) then
      { s.bump (F.HBM_STACK_INSERTED st) (Config.anyNat s.free % 2 ^ 32) with free := s.free + 1 } else s
    let s := s.put (F.HBM_STACK_TEMP st) temp
    let s := if 80 ≤ temp ∧ s.on (F.HBM_STACK_NOTICE_ARMED st) then (s.notice 0x0CF0 st 255).put (F.HBM_STACK_NOTICE_ARMED st) 0
      else if temp < 75 then s.put (F.HBM_STACK_NOTICE_ARMED st) 1 else s
    let s := if s.on F.HBM_CLASS_CLASS then s.put (F.HBM_STACK_INSERTING st) 0
      else if 85 < temp then s.put (F.HBM_STACK_INSERTING st) 1
      else if temp < 83 then s.put (F.HBM_STACK_INSERTING st) 0 else s
    if 95 < temp then
      if s.hotStacks.contains st then s
      else { s with hotStacks := s.hotStacks ++ [st] }.doubtChip { cause := cTemperature, subject := st }
    else { s with hotStacks := s.hotStacks.filter (· != st) }

def execStackTempSample (stack temp : Nat) (s : State) : Host.Outcome State Fault Refusal := unit 8 stack s (stackTemp stack temp)

/-- External memory loses its contents, with it the books of the ledgers and the error log, which stand in the device region of the home
stack (R494). -/
def State.loseMem (s : State) : State :=
  let s := s.zeroMem 0 (8 * stackSize)
  { s with
    log := if s.get F.PWR_STATUS_HOME_STACK = 15 then s.log else []
    allots := s.allots.map fun x => (x.1, { x.2 with ledger := [] }) }

/-- A rail has been outside ±7 % for 1 µs (Table 19-1). Rails are numbered in the order of Table 22-2 (log entry 104); no monitor watches
rail 0, VDD_AON (R530). External memory loses its contents with VDD_HBM or VPP_HBM, rails 6 and 7 (R534; what it reads then, log entry 7). A rail
is a doubt only while its power-good input stays high (R534). A tripped device has no clock to judge by (R540). -/
def railExpiry (rail : Nat) (s : State) : State :=
  if s.tripped || rail == 0 then s
  else
    let s := if rail = 6 ∨ rail = 7 then s.loseMem else s
    if s.powerGood then s.doubtChip { cause := cVoltage } else s

def execRailMonitorExpiry (rail : Nat) (s : State) : Host.Outcome State Fault Refusal := unit 10 rail s (railExpiry rail)

/-! ## The ditch walker (R461, R462) -/

/-- A stage has not been live for PERIOD; on a tie it has been captured first. A tripped device has no clock (R540). -/
def walker (tie : Bool) (s : State) : State :=
  if s.tripped then s
  else if tie then s.put F.SLU_WALKER_MARGIN0 1
  else
    let again := s.walkerOnce && s.chipClosed
    let s := { s with walkerOnce := true }.doubtChip { cause := cWalker }
    let s := (s.inflight.filter fun o => !o.took).foldl (fun s o => s.finish o stSluice 0 (openCause cWalker)) s
    let s := { s with waiting := s.waiting.filter fun o => s.inflight.any fun x => x.id == o.id }
    let s := (s.testsWaiting.filter fun t => !(s.inflight.any fun x => x.id == t.ord.id)).foldl (fun s t => s.leaveTest t.ord) s
    if again then
      let s := (List.range 64).foldl (fun s q => if s.get (F.DR_QSTAT_STATE q) = 1 then s.put (F.DR_QSTAT_STATE q) 2 else s) s
      s.put F.SLU_STATUS_WALKER_HALT 1
    else s

def execWalkerExpiry (tie : Bool) (s : State) : Host.Outcome State Fault Refusal := run s (walker tie)

end Sys2Proof.Machine
end

