-- ==== Sys2Proof/Machine/Vision.lean ====
section
/-! DEFINITION. The vision pipelines (chapter 15): runs, frames, frame graphs and the four stages. -/

namespace Sys2Proof.Machine

/-! ## Run header, frame descriptor, graph node (Tables 15-2 to 15-4) -/

def vrFrames (h : Bytes) : Nat := fieldAt h 0 2
def vrRelease (h : Bytes) : Bool := bit (fieldAt h 2 1) 0
def vrTurn (h : Bytes) : Nat := fieldAt h 4 6
def vrCycle (h : Bytes) : Nat := fieldAt h 12 4
/-- The used regions: index, base, length. -/
def vrRegions (h : Bytes) : List (Nat × Nat × Nat) :=
  (List.range 4).filterMap fun k =>
    let n := fieldAt h (24 + 12 * k) 4
    if n = 0 then none else some (k, fieldAt h (16 + 12 * k) 8, n)

def fdCur (d : Bytes) : Nat := fieldAt d 0 8
def fdRef (d : Bytes) : Nat := fieldAt d 8 8
def fdField (d : Bytes) : Nat := fieldAt d 16 8
def fdWarp (d : Bytes) : Nat := fieldAt d 24 8
def fdPyr (d : Bytes) : Nat := fieldAt d 32 8
def fdW (d : Bytes) : Nat := bits (fieldAt d 40 2) 0 13
def fdH (d : Bytes) : Nat := bits (fieldAt d 42 2) 0 13
def fdPitch (d : Bytes) : Nat := fieldAt d 44 4
def fdFieldPitch (d : Bytes) : Nat := fieldAt d 48 4
def fdDelta (d : Bytes) : Nat := fieldAt d 52 2
def fdFmt (d : Bytes) : Nat := bits (fieldAt d 54 1) 0 1
def fdBytes (d : Bytes) : Nat := 1 + fdFmt d
def fdBlock (d : Bytes) : Nat := if bit (fieldAt d 54 1) 1 then 16 else 8
def fdStages (d : Bytes) : Nat := bits (fieldAt d 54 1) 2 4
def fdLevels (d : Bytes) : Nat := fieldAt d 55 1
def fdRange (d : Bytes) : Nat := fieldAt d 56 1
/-- Block columns and rows of a field. -/
def fdCols (d : Bytes) : Nat := cdiv (fdW d) (fdBlock d)
def fdRows (d : Bytes) : Nat := cdiv (fdH d) (fdBlock d)
def fdFieldBytes (d : Bytes) : Nat := fdRows d * fdFieldPitch d
def fdImageBytes (d : Bytes) : Nat := fdH d * fdPitch d

/-- Row bytes and size of a pyramid level (R384). -/
def pyrPitch (d : Bytes) (l : Nat) : Nat := cdiv (fdW d / 2 ^ l * fdBytes d) 128 * 128
def pyrLevel (d : Bytes) (l : Nat) : Nat := fdH d / 2 ^ l * pyrPitch d l
def pyrSlot (d : Bytes) : Nat := ((List.range (fdLevels d)).map fun i => pyrLevel d (i + 1)).sum

def ndStage (n : Bytes) : Nat := bits (fieldAt n 0 1) 0 2
def ndBack (n : Bytes) : Bool := bit (fieldAt n 0 1) 2
def ndPhase (n : Bytes) : Nat := bits (fieldAt n 1 1) 0 5
def ndDeps (n : Bytes) : Nat := fieldAt n 2 2
def ndOut (n : Bytes) : Nat := fieldAt n 4 4
def ndIn (n : Bytes) : Nat := fieldAt n 8 4

/-- A frame's nodes: the graph, or in chained mode the enabled stages, each after its predecessor, with PHASE 16. -/
def frameNodes (mode : Nat) (graph : List Bytes) (d : Bytes) : List Bytes :=
  if mode = 1 then graph
  else
    let st := (List.range 4).filter fun k => bit (fdStages d) k
    st.zipIdx.map fun x =>
      toLe 1 x.1 ++ toLe 1 (if x.1 = 3 then 16 else 0) ++ toLe 2 (if x.2 = 0 then 0 else 2 ^ (x.2 - 1)) ++ List.replicate 28 0

/-- The area a node writes as a field or a warped image: address and bytes. -/
def nodeWrites (d n : Bytes) : Option (Nat × Nat) :=
  match ndStage n with
  | 0 => none
  | 3 => some (fdWarp d + ndOut n, fdImageBytes d)
  | _ => some (fdField d + ndOut n, fdFieldBytes d)

/-- The areas a frame uses, in the order R388 names them: CUR, REF, FIELD, WARP, PYR; address, bytes, written. -/
def frameAreas (mode : Nat) (graph : List Bytes) (d : Bytes) : List (Nat × Nat × Bool) :=
  let ns := frameNodes mode graph d
  let out (p : Nat → Bool) : List (Nat × Nat × Bool) :=
    (ns.filter fun n => p (ndStage n)).flatMap fun n => (nodeWrites d n).toList.map fun x => (x.1, x.2, true)
  (if ns.any fun n => ndStage n != 3 then [(fdCur d, fdImageBytes d, false)] else []) ++ [(fdRef d, fdImageBytes d, false)] ++
  ((ns.filter fun n => decide (2 ≤ ndStage n)).map fun n => (fdField d + ndIn n, fdFieldBytes d, true)) ++
  out (fun k => k == 1 || k == 2) ++ out (· == 3) ++
  (if ns.any fun n => decide (ndStage n ≤ 1) then [(fdPyr d, 2 * pyrSlot d, true)] else [])

/-- An area lies in a region. -/
def inRegion (l : List (Nat × Nat × Nat)) (a n : Nat) : Option Nat :=
  (l.find? fun r => decide (r.2.1 ≤ a) && decide (a + n ≤ r.2.1 + r.2.2)).map (·.1)

def overlap (a n b m : Nat) : Bool := decide (a < b + m) && decide (b < a + n)

/-- R388: VIS_REGION. -/
def regionBad (mode : Nat) (graph : List Bytes) (h : Bytes) (ds : List Bytes) : Bool :=
  let rs := vrRegions h
  rs.any (fun r => rs.any fun t => r.1 != t.1 && overlap r.2.1 r.2.2 t.2.1 t.2.2) ||
  ds.any fun d =>
    let ns := frameNodes mode graph d
    ns.any (fun n => match nodeWrites d n with | some (a, k) => (inRegion rs a k).isNone | none => false) ||
    ((ns.any fun n => decide (ndStage n ≤ 1)) && rs.any fun r => overlap (fdPyr d) (2 * pyrSlot d) r.2.1 r.2.2)

/-! ## VIS_GRAPH_LOAD (R386) -/

def vpPipe (o : Ord) : Nat := o.field 16 1
def vpState (s : State) (p : Nat) : Nat := s.get (F.VIS_STATE_STATE p)

/-- A pyramid node among the ancestors of node `i`. -/
def hasPyramid (g : List Bytes) : Nat → Nat → Bool
  | 0, _ => false
  | fuel + 1, i => (List.range i).any fun j =>
      bit (ndDeps (g.getD i [])) j && (ndStage (g.getD j []) == 0 || hasPyramid g fuel j)

/-- R386: VIS_GRAPH at the first node that breaks it. -/
def graphBad (g : List Bytes) : Option Nat :=
  g.zipIdx.findSome? fun x => if decide (ndDeps x.1 / 2 ^ x.2 ≠ 0) || (ndStage x.1 == 1 && !hasPyramid g 16 x.2) || decide (16 < ndPhase x.1) then some x.2 else none

/-- R375: held by another allotment. -/
def visForeign (s : State) (o : Ord) : Bool :=
  decide (vpPipe o < 4) && vpState s (vpPipe o) != 0 && s.get (F.VIS_STATE_ALLOT (vpPipe o)) != o.allot

/-- The pipeline is held from the grant. -/
def State.visHold (s : State) (o : Ord) : State :=
  if vpState s (vpPipe o) = 0 then
    (s.put (F.VIS_STATE_STATE (vpPipe o)) 1).put (F.VIS_STATE_ALLOT (vpPipe o)) o.allot
  else s

def visUnits (s : State) (o : Ord) : Bool × Why :=
  (decide (vpPipe o < 4) && !s.working (193 + vpPipe o), unitMissing (193 + vpPipe o))

/-- A waiting order whose pipeline another allotment holds by now (R375). -/
def State.visTurnedAway (s : State) (o : Ord) (f : State → State) : State :=
  if visForeign s o then s.fail o (whyOpen stState 0xD0) else f (s.visHold o)

/-- VIS_GRAPH_LOAD executes on the idle pipeline. -/
def startGraph (s : State) (o : Ord) : State :=
  s.visTurnedAway o fun s =>
    let p := vpPipe o
    let s := s.setVis p { s.vis p with graph := recs 32 (o.data 32 (32 * o.field 17 1)) }
    (s.put (F.VIS_STATE_GRAPH p) 1).done o (o.field 17 1)

def State.visBusy (s : State) (p : Nat) : Bool := (s.vis p).run.isSome

def graphBody (s : State) (o : Ord) : State := (s.visHold o).serve o (s.visBusy (vpPipe o)) (startGraph · o)

def nodeChecks (o : Ord) (i : Nat) : List (Bool × Why) :=
  let b := 32 + 32 * i
  let st := bits (o.field b 1) 0 2
  [(decide (st ≠ 1 ∧ st ≠ 2) && bit (o.field b 1) 2, rangeAt b 2), rzb o b 3 5,
   (decide (st ≠ 3) && bits (o.field (b + 1) 1) 0 5 != 0, rangeAt (b + 1)), rzb o (b + 1) 5 3,
   rg (o.field (b + 4) 4 % 128 != 0) (b + 4), rg (decide (st < 2) && o.field (b + 8) 4 != 0) (b + 8), rz o (b + 12) 20]

def specVisGraphLoad : Spec where
  op := 0x0900
  permit := [1, 2, 3, 4]
  need := fun _ o => [(decide (o.field 17 1 ≤ 16) && decide (o.units < 1 + o.field 17 1), shortAt 17)]
  state := fun s o => [visUnits s o, (visForeign s o, whyOpen stState 0xD0)]
  fields := fun _ o =>
    [rg (decide (3 < vpPipe o)) 16, rg (o.field 17 1 == 0 || decide (16 < o.field 17 1)) 17, rz o 18 10] ++
    (List.range (min 16 (o.field 17 1))).flatMap (fun k => itemChecks k (nodeChecks o k)) ++
    (let bad := graphBad (recs 32 (o.data 32 (32 * o.field 17 1)))
     itemChecks (bad.getD 0) [(bad.isSome, whyOpen stBadField 0xD2)])
  body := graphBody

def execVisGraphLoad (q : Nat) (s : State) : Host.Outcome State Fault Refusal := unit 64 q s (order specVisGraphLoad q [])

/-! ## VIS_RUN (R383, R388) -/

def vrHeader (o : Ord) : Bytes := o.data 32 64
def vrDescs (o : Ord) : List Bytes := recs 64 (o.data 96 (64 * vrFrames (vrHeader o)))

/-- R383: the stage masks of chained mode. -/
def chainMask (m : Nat) : Bool := [0b0001, 0b0011, 0b0111, 0b1111, 0b1011, 0b1000].contains m

def descChecks (o : Ord) (mode : Nat) (i : Nat) : List (Bool × Why) :=
  let b := 96 + 64 * i
  let d := o.data b 64
  let addr (k : Nat) : List (Bool × Why) := [rg (o.field (b + 8 * k) 6 % 128 != 0) (b + 8 * k), rz o (b + 8 * k + 6) 2]
  let size (v : Nat) : Bool := decide (v < 64) || decide (4096 < v) || v % 8 != 0
  (List.range 5).flatMap addr ++
  [rg (size (fdW d)) (b + 40), rzb o (b + 40) 13 3, rg (size (fdH d)) (b + 42), rzb o (b + 42) 13 3,
   rg (fdPitch d % 128 != 0 || decide (fdPitch d < fdW d * fdBytes d)) (b + 44),
   rg (fdFieldPitch d % 128 != 0 || decide (fdFieldPitch d < 8 * fdCols d)) (b + 48),
   rg (decide (0 < i) && decide (fdDelta d < fdDelta (o.data (b - 64) 64))) (b + 52),
   rg (if mode = 1 then fdStages d != 0 else !chainMask (fdStages d)) (b + 54) 2, rzb o (b + 54) 6 2,
   rg (decide (fdLevels d < 2) || decide (5 < fdLevels d)) (b + 55), rg (decide (fdRange d < 2) || decide (64 < fdRange d)) (b + 56),
   rz o (b + 57) 7]

/-- The permissions of an area: SEALED is reported by its own cause (R388). -/
def visMay (w : Bool) (v : Nat) : Bool := bit v permSealed || (bit v permHostRead && (!w || bit v permHostWrite))

/-- Walk a list of areas: the page map, or the refusal; a SEALED granule refuses (R388). -/
def State.visWalk (s : State) (a : Nat) : List (Nat × Nat × Bool) → SMap Nat → Except Why (SMap Nat)
  | [], m => .ok m
  | (addr, n, w) :: r, m =>
    match s.translate a addr n (visMay w) with
    | .error (at_, c) => .error ⟨stWalk, c, at_ / pageSize, 0⟩
    | .ok l =>
      if l.any fun x => match s.permOf a (x.1 / pageSize) with | some v => bit v permSealed | none => false then
        .error (whyOpen stNoRight 0xD1)
      else s.visWalk a r (pageMap addr l m)

/-- Walk the areas of one item after the other; a refusal comes with the item it met (R157). -/
def State.visWalks (s : State) (a : Nat) : Nat → List (List (Nat × Nat × Bool)) → SMap Nat → Except Why (SMap Nat)
  | _, [], m => .ok m
  | k, l :: r, m => match s.visWalk a l m with
    | .error w => .error { w with item := k }
    | .ok m => s.visWalks a (k + 1) r m

/-- The reads of turnout entries that the walks make, up to the first that fails. -/
def State.visTables (s : State) (a : Nat) : List (Nat × Nat × Bool) → State
  | [] => s
  | x :: r =>
    let t := s.readTable a x.1 x.2.1 (visMay x.2.2)
    match s.visWalk a [x] [] with
    | .error _ => t
    | .ok _ => t.visTables a r

/-- What VIS_RUN walks: the areas of each frame, an item each, then the regions (log entry 94). -/
def visAreas (mode : Nat) (graph : List Bytes) (h : Bytes) (ds : List Bytes) : List (List (Nat × Nat × Bool)) :=
  ds.map (frameAreas mode graph) ++ [(vrRegions h).map fun r => (r.2.1, r.2.2, true)]

/-- VIS_RUN executes on the idle pipeline. Its checks are those of its grant (R115); one that has waited runs the graph of now, and a
pipeline released meanwhile, with its graph, refuses it as at a grant (log entry 94). -/
def startVis (s : State) (o : Ord) : State :=
  s.visTurnedAway o fun s =>
    let p := vpPipe o
    let x := s.vis p
    let h := vrHeader o
    let ds := vrDescs o
    let mode := o.field 17 1
    let areas := visAreas mode x.graph h ds
    if mode = 1 ∧ x.graph = [] then s.fail o (whyOpen stState 0xD3)
    else
      let s := s.visTables o.allot areas.flatten
      match s.visWalks o.allot 0 areas [] with
      | .error w => if w.status = stWalk then s.failWalk o w else s.fail o w
      | .ok m =>
        let run : VisRun := {
          ord := o, mode := mode, release := vrRelease h, t0 := o.turnNow (vrTurn h), c0 := vrCycle h, descs := ds, pages := m,
          going := false, frame := 0, thresh := 0, begun := 0, poison := false, refused := false, ended := [], running := [], nr := 0, built := false, regs := 0 }
        let s := s.setVis p { x with run := some run, regions := vrRegions h, regPages := m }
        ((s.put (F.VIS_STATE_STATE p) 2).put (F.VIS_STATE_MODE p) mode).put (F.VIS_STATE_FRAME p) 0

def runBody (s : State) (o : Ord) : State := (s.visHold o).serve o (s.visBusy (vpPipe o)) (startVis · o)

def specVisRun : Spec where
  op := 0x0901
  permit := [1, 2, 3, 4]
  units := 3
  need := fun _ o => [(decide (vrFrames (vrHeader o) ≤ 1022) && decide (o.units < 3 + 2 * vrFrames (vrHeader o)), shortAt 32)]
  state := fun s o =>
    [visUnits s o, (visForeign s o, whyOpen stState 0xD0),
     (decide (vpPipe o < 4) && o.field 17 1 == 1 && (s.vis (vpPipe o)).graph == [], whyOpen stState 0xD3)]
  fields := fun s o =>
    let h := vrHeader o
    let n := vrFrames h
    [rg (decide (3 < vpPipe o)) 16, rg (decide (1 < o.field 17 1)) 17, rz o 18 10, rg (n == 0 || decide (1022 < n)) 32, rzb o 34 1 7,
     rz o 35 1, rz o 42 2, rg (decide (s.get F.WCK_TURN_CYCLES_COUNT - 4097 < vrCycle h)) 44] ++
    (List.range 4).flatMap (fun k =>
      [rg (o.field (48 + 12 * k) 6 % 128 != 0) (48 + 12 * k), rz o (54 + 12 * k) 2, rg (o.field (56 + 12 * k) 4 % 128 != 0) (56 + 12 * k)]) ++
    (if n ≤ 1022 then (List.range n).flatMap (fun k => itemChecks k (descChecks o (o.field 17 1) k)) else []) ++
    [(regionBad (o.field 17 1) (if vpPipe o < 4 then (s.vis (vpPipe o)).graph else []) h (vrDescs o), whyOpen stBadField 0xD4)]
  late := fun s o => match namedTurn s (vrTurn (vrHeader o)) with | some w => [(true, w)] | none => []
  body := runBody

def execVisRun (q : Nat) (s : State) : Host.Outcome State Fault Refusal := unit 64 q s (order specVisRun q [])

/-! ## Images -/

/-- An image in allotment memory. -/
structure Img where
  base : Nat
  pitch : Nat
  w : Nat
  h : Nat
  bpp : Nat
  deriving DecidableEq, Repr

/-- The current (0) or reference (1) image of a frame at a pyramid level; DIR = 1 exchanges them (R378). -/
def visImg (d : Bytes) (frame : Nat) (which : Nat) (l : Nat) : Img :=
  if l = 0 then ⟨if which = 0 then fdCur d else fdRef d, fdPitch d, fdW d, fdH d, fdBytes d⟩
  else ⟨fdPyr d + (frame + which) % 2 * pyrSlot d + ((List.range (l - 1)).map fun i => pyrLevel d (i + 1)).sum, pyrPitch d l,
    fdW d / 2 ^ l, fdH d / 2 ^ l, fdBytes d⟩

/-- A coordinate clamped to the nearest edge pixel. -/
def clampTo (n : Nat) (x : Int) : Nat := if x < 0 then 0 else min x.toNat (n - 1)

/-- A byte of an image: 0 in an uncorrectable block (R390). -/
def State.imgByte (s : State) (m : SMap Nat) (a : Nat) : Nat :=
  if (s.blockEcc (xl m a / 64)).usable then (s.rd (xl m a)).toNat else 0

/-- The pixel at clamped coordinates. -/
def State.px (s : State) (m : SMap Nat) (g : Img) (x y : Int) : Nat :=
  let a := g.base + clampTo g.h y * g.pitch + clampTo g.w x * g.bpp
  s.imgByte m a + if g.bpp = 2 then 256 * s.imgByte m (a + 1) else 0

/-- A sample at a position in 1/16 pixel: bilinear under the warp rule (R378). -/
def State.sample (s : State) (m : SMap Nat) (g : Img) (x y : Int) : Nat :=
  let fx := (x % 16).toNat
  let fy := (y % 16).toNat
  let p (i j : Int) : Nat := s.px m g (x / 16 + i) (y / 16 + j)
  ((16 - fx) * (16 - fy) * p 0 0 + fx * (16 - fy) * p 1 0 + (16 - fx) * fy * p 0 1 + fx * fy * p 1 1 + 128) / 256

/-- A coordinate range leaves an axis of `n` pixels. -/
def outside (n : Nat) (x : Int) (f : Nat) : Bool := decide (x < 0) || decide ((n : Int) ≤ x + (if f = 0 then 0 else 1))

/-- Read an image for the events of its blocks: whether all were usable. -/
def State.touchImg (s : State) (m : SMap Nat) (g : Img) (allot : Nat) : Bool × State :=
  (List.range g.h).foldl (fun r y =>
    let v := r.2.readVia m (g.base + y * g.pitch) (g.w * g.bpp) 1 allot
    (r.1 && v.2.1, v.2.2)) (true, s)

def State.touchAll (s : State) (m : SMap Nat) (l : List Img) (allot : Nat) : Bool × State :=
  l.foldl (fun r g => let v := r.2.touchImg m g allot; (r.1 && v.1, v.2)) (true, s)

/-- A pipeline's write; with its POISON flag set when the frame read an uncorrectable block (R390): whether part of it was refused
(R309), and the state. -/
def State.visWrite (s : State) (m : SMap Nat) (addr : Nat) (data : Bytes) (allot : Nat) (poison : Bool) : Bool × State :=
  let r := s.writeVia m addr data 0 allot
  (r.1, if poison then
      (pagesOf addr data.length).foldl (fun s x => (blocksOf (xl m x.1) x.2.2).foldl (fun s b => s.setBlock b 0 .bad) s) r.2
    else r.2)

/-- Rows written one after the other: row `j` at `base + j * pitch`. -/
def State.visRows (s : State) (m : SMap Nat) (base pitch rows allot : Nat) (poison : Bool) (row : Nat → Bytes) : Bool × State :=
  (List.range rows).foldl (fun r j =>
    let w := r.2.visWrite m (base + j * pitch) (row j) allot poison
    (r.1 || w.1, w.2)) (false, s)

/-! ## Costs and choices (R378 to R380) -/

/-- SAD of a block of `n` pixels at (x, y) against the reference displaced by v (1/16 pixel). -/
def State.sad (s : State) (m : SMap Nat) (cur ref : Img) (x y n : Nat) (vx vy : Int) : Nat :=
  ((List.range n).map fun j => ((List.range n).map fun i =>
    let a := s.px m cur (x + i : Nat) (y + j : Nat)
    let b := s.sample m ref (16 * (x + i : Nat) + vx) (16 * (y + j : Nat) + vy)
    (a - b) + (b - a)).sum).sum

/-- The cost of a vector read a clamped pixel. -/
def edgeRead (w h x y n : Nat) (vx vy : Int) : Bool :=
  let fx := (vx % 16).toNat
  let fy := (vy % 16).toNat
  decide (w < x + n) || decide (h < y + n) || outside w ((x : Int) + vx / 16) fx || outside w ((x + n - 1 : Nat) + vx / 16) fx
    || outside h ((y : Int) + vy / 16) fy || outside h ((y + n - 1 : Nat) + vy / 16) fy

/-- R379: the first of two candidates (cost, d_x, d_y) wins. -/
def better (a b : Nat × Int × Int) : Bool :=
  let m (c : Nat × Int × Int) : Nat := c.2.1.natAbs + c.2.2.natAbs
  decide (a.1 < b.1) || (a.1 == b.1 && (decide (m a < m b) || (m a == m b &&
    (decide (a.2.2 < b.2.2) || (a.2.2 == b.2.2 && decide (a.2.1 < b.2.1))))))

def pickBest : List (Nat × Int × Int) → Nat × Int × Int
  | [] => (0, 0, 0)
  | c :: r => r.foldl (fun b x => if better x b then x else b) c

/-- R380: the confidence of the best candidate among integer displacements. -/
def confidence (l : List (Nat × Int × Int)) (b : Nat × Int × Int) (unit_ : Nat) : Nat :=
  let far := l.filter fun c => decide (2 * unit_ ≤ max (c.2.1 - b.2.1).natAbs (c.2.2 - b.2.2).natAbs)
  match far with
  | [] => 0
  | c :: r =>
    let c2 := r.foldl (fun n x => min n x.1) c.1
    if c2 = 0 then 0 else 255 * (c2 - b.1) / c2

/-- Displacements with components from -r to r, in units. -/
def square (r : Nat) (u : Int) : List (Int × Int) :=
  (List.range (2 * r + 1)).flatMap fun j => (List.range (2 * r + 1)).map fun i => (u * ((i : Int) - r), u * ((j : Int) - r))

/-! ## Field entries (Table 15-1) -/

def fieldEntry (vx vy : Int) (conf : Nat) (refined poison edge : Bool) (cost : Nat) : Bytes :=
  toLe 2 (unsigned 16 vx) ++ toLe 2 (unsigned 16 vy) ++ toLe 1 conf ++ toLe 1 (b2n refined + 2 * b2n poison + 4 * b2n edge)
    ++ toLe 2 (min 65535 cost)

/-- The entry of a block, as a stage reads it. -/
def State.readEntry (s : State) (m : SMap Nat) (base : Nat) (d : Bytes) (col row : Nat) : Bytes :=
  (List.range 8).map fun i => BitVec.ofNat 8 (s.imgByte m (base + row * fdFieldPitch d + 8 * col + i))

def entryX (e : Bytes) : Int := signed 16 (fieldAt e 0 2)
def entryY (e : Bytes) : Int := signed 16 (fieldAt e 2 2)
def entryConf (e : Bytes) : Nat := fieldAt e 4 1

/-- Blocks below the threshold (R387). -/
def State.refineCount (s : State) (m : SMap Nat) (base thresh : Nat) (d : Bytes) : Nat :=
  ((List.range (fdRows d)).map fun j => ((List.range (fdCols d)).filter fun i => decide (entryConf (s.readEntry m base d i j) < thresh)).length).sum

/-! ## The stages -/

/-- One pixel of the next pyramid level. -/
def State.pyramidPx (s : State) (m : SMap Nat) (g : Img) (i j : Nat) : Nat :=
  let k : List Nat := [1, 4, 6, 4, 1]
  ((k.zipIdx.map fun b => (k.zipIdx.map fun a =>
    a.1 * b.1 * s.px m g ((2 * i + a.2 : Nat) - 2) ((2 * j + b.2 : Nat) - 2)).sum).sum + 128) / 256

/-- Build levels 1 to LEVELS of one image, each from the one below: whether the frame has read an uncorrectable block by then, `poison` before,
whether a write was refused, and the state. Level 0 has been read. -/
def State.buildPyramid (s : State) (r : VisRun) (d : Bytes) (which allot : Nat) (poison : Bool) : Bool × Bool × State :=
  (List.range (fdLevels d)).foldl (fun (acc : Bool × Bool × State) l =>
    let g := visImg d r.frame which l
    let t := visImg d r.frame which (l + 1)
    let v := if l = 0 then (true, acc.2.2) else acc.2.2.touchImg r.pages g allot
    let bad := acc.1 || !v.1
    let w := v.2.visRows r.pages t.base t.pitch t.h allot bad fun j =>
      (List.range t.w).flatMap fun i => toLe t.bpp (v.2.pyramidPx r.pages g i j)
    (bad, acc.2.1 || w.1, w.2)) (poison, false, s)

/-- Frame f reuses the pyramid its predecessor built (R384). -/
def pyrReuse (r : VisRun) : Bool :=
  let d := r.descs.getD r.frame []
  let e := r.descs.getD (r.frame - 1) []
  decide (0 < r.frame) && fdPyr d == fdPyr e && fdW d == fdW e && fdH d == fdH e && fdFmt d == fdFmt e && fdLevels d == fdLevels e
    && fdRef d == fdCur e && r.built

/-- The coarse result of a superblock: vector in 1/16 pixel and confidence. -/
def State.coarse (s : State) (r : VisRun) (d n : Bytes) (sx sy : Nat) : Int × Int × Nat :=
  let w := b2n (ndBack n)
  let cur := visImg d r.frame w 2
  let ref := visImg d r.frame (1 - w) 2
  let l := (square (fdRange d) 1).map fun v => (s.sad r.pages cur ref (4 * sx) (4 * sy) 4 (16 * v.1) (16 * v.2), v.1, v.2)
  let b := pickBest l
  (64 * b.2.1, 64 * b.2.2, confidence l b 1)

/-- The entry the search writes for a block. -/
def State.searchEntry (s : State) (r : VisRun) (d n : Bytes) (poison : Bool) (col row : Nat) : Bytes :=
  let w := b2n (ndBack n)
  let k := fdBlock d
  let c := s.coarse r d n (col * k / 16) (row * k / 16)
  let cost := s.sad r.pages (visImg d r.frame w 0) (visImg d r.frame (1 - w) 0) (col * k) (row * k) k c.1 c.2.1
  fieldEntry c.1 c.2.1 c.2.2 false poison (edgeRead (fdW d) (fdH d) (col * k) (row * k) k c.1 c.2.1) cost

/-- The entry flow refine writes for a block. -/
def State.refineEntry (s : State) (r : VisRun) (d n : Bytes) (poison : Bool) (col row : Nat) : Bytes :=
  let e := s.readEntry r.pages (fdField d + ndIn n) d col row
  let w := b2n (ndBack n)
  let k := fdBlock d
  let v0x := entryX e
  let v0y := entryY e
  let cost (x y : Int) : Nat :=
    s.sad r.pages (visImg d r.frame w 0) (visImg d r.frame (1 - w) 0) (col * k) (row * k) k (v0x + x) (v0y + y)
  let cand (v : Int × Int) : Nat × Int × Int := (cost v.1 v.2, v.1, v.2)
  let edge (x y : Int) : Bool := edgeRead (fdW d) (fdH d) (col * k) (row * k) k x y
  if entryConf e < r.thresh then
    let l := (square 3 16).map cand
    let b := pickBest l
    let f := [8, 4, 2, 1].foldl (fun (c : Nat × Int × Int) (u : Int) =>
      pickBest ((square 1 u).map fun v => cand (c.2.1 + v.1, c.2.2 + v.2))) b
    fieldEntry (v0x + f.2.1) (v0y + f.2.2) (confidence l b 16) true poison (edge (v0x + f.2.1) (v0y + f.2.2)) f.1
  else fieldEntry v0x v0y (entryConf e) (bit (fieldAt e 5 1) 0) poison (edge v0x v0y) (cost 0 0)

/-- Write a field, row by row. -/
def State.writeField (s : State) (r : VisRun) (d n : Bytes) (allot : Nat) (poison : Bool) (entry : Nat → Nat → Bytes) : Bool × State :=
  s.visRows r.pages (fdField d + ndOut n) (fdFieldPitch d) (fdRows d) allot poison fun row =>
    (List.range (fdCols d)).flatMap fun col => entry col row

/-- One pixel of the warp. -/
def State.warpPx (s : State) (r : VisRun) (d n : Bytes) (x y : Nat) : Nat :=
  let e := s.readEntry r.pages (fdField d + ndIn n) d (x / fdBlock d) (y / fdBlock d)
  let ph : Int := ndPhase n
  s.sample r.pages (visImg d r.frame 1 0) (16 * x + (entryX e * ph + 8) / 16) (16 * y + (entryY e * ph + 8) / 16)

/-- The field a node reads, as an image of bytes. -/
def fieldImg (d n : Bytes) : Img := ⟨fdField d + ndIn n, fdFieldPitch d, 8 * fdCols d, fdRows d, 1⟩

/-- A node's work: whether the frame has read an uncorrectable block by its end, whether a write was refused, and the state. -/
def State.runNode (s : State) (r : VisRun) (d n : Bytes) : Bool × Bool × State :=
  let a := r.ord.allot
  let img (w l : Nat) : Img := visImg d r.frame w l
  let work (l : List Img) (f : State → Bool → Bool × State) : Bool × Bool × State :=
    let t := s.touchAll r.pages l a
    (r.poison || !t.1, f t.2 (r.poison || !t.1))
  match ndStage n with
  | 0 =>
    let t := s.touchAll r.pages ([img 0 0] ++ if pyrReuse r then [] else [img 1 0]) a
    let u := if pyrReuse r then (r.poison || !t.1, false, t.2) else t.2.buildPyramid r d 1 a (r.poison || !t.1)
    let v := u.2.2.buildPyramid r d 0 a u.1
    (v.1, u.2.1 || v.2.1, v.2.2)
  | 1 => work [img 0 2, img 1 2, img 0 0, img 1 0] fun t p => t.writeField r d n a p (s.searchEntry r d n p)
  | 2 => work [fieldImg d n, img 0 0, img 1 0] fun t p => t.writeField r d n a p (s.refineEntry r d n p)
  | _ => work [fieldImg d n, img 1 0] fun t p =>
      t.visRows r.pages (fdWarp d + ndOut n) (fdPitch d) (fdH d) a p fun y =>
        (List.range (fdW d)).flatMap fun x => toLe (fdBytes d) (s.warpPx r d n x y)

/-- Lagoon cycles of a node (Table 15-5). -/
def State.nodeTime (s : State) (r : VisRun) (d n : Bytes) : Nat :=
  let p := fdW d * fdH d
  match ndStage n with
  | 0 => (if pyrReuse r then 1 else 2) * (cdiv p 16 + 2000)
  | 1 => cdiv (fdW d) 16 * cdiv (fdH d) 16 * (cdiv (16 * (2 * fdRange d + 1) ^ 2) 256 + 4)
  | 2 => fdCols d * fdRows d + s.refineCount r.pages (fdField d + ndIn n) r.thresh d * (if fdBlock d = 8 then 24 else 88)
  | _ => cdiv p 8 + 2000

/-! ## Frames -/

/-- Nodes that are ready and whose stage unit is idle start, in node order. -/
def startNodes (s : State) (d : Bytes) (ns : List Bytes) (r : VisRun) : VisRun :=
  ns.zipIdx.foldl (fun r x =>
    let deps := (List.range 16).filter fun j => bit (ndDeps x.1) j
    let busy := r.running.any fun y => ndStage (ns.getD y.1 []) == ndStage x.1
    if r.ended.contains x.2 || r.running.any (fun y => y.1 == x.2) || busy || !deps.all (fun j => r.ended.contains j) then r
    else { r with
      running := r.running ++ [(x.2, s.wck.lagoon + s.nodeTime r d x.1)]
      nr := r.nr + if ndStage x.1 = 2 then s.refineCount r.pages (fdField d + ndIn x.1) r.thresh d else 0 }) r

/-- Store a run with VIS_STATE.BUSY following its running nodes. -/
def State.putRun (s : State) (p : Nat) (ns : List Bytes) (r : VisRun) : State :=
  let busy := ((List.range 4).map fun k => if r.running.any fun y => ndStage (ns.getD y.1 []) == k then 2 ^ k else 0).sum
  (s.setVis p { s.vis p with run := some r }).put (F.VIS_STATE_BUSY p) busy

/-- Bits of the regions that nodes write. -/
def regionBits (rs : List (Nat × Nat × Nat)) (d : Bytes) (ns : List Bytes) : List Nat :=
  (List.range 4).filter fun k => ns.any fun n => match nodeWrites d n with
    | some (a, len) => inRegion rs a len == some k
    | none => false

/-- The threshold a frame samples: a write of the same lagoon cycle applies from the next frame (R387). -/
def State.threshNow (s : State) (p : Nat) : Nat :=
  match (s.vis p).threshWas with
  | some (c, v) => if c = s.wck.lagoon then v else s.get (F.VIS_REFINE_THRESH_THRESH p)
  | none => s.get (F.VIS_REFINE_THRESH_THRESH p)

/-- A frame starts (R385, R387, R389). -/
def visFrame (p : Nat) (s : State) : State :=
  let x := s.vis p
  match x.run with
  | none => s
  | some r =>
    let d := r.descs.getD r.frame []
    let due := (r.t0 + fdDelta d) % 2 ^ 48
    let ahead := turnsAhead s.wck.turn due
    if r.going || !(ahead == none || ahead == some 0) then s
    else
      let s := if ahead == some 0 then s.advanceTo r.c0 else s
      let ns := frameNodes r.mode x.graph d
      let regs := regionBits x.regions d ns
      let s := regs.foldl (fun s k =>
        let v := s.get (F.VIS_STATE_REGIONS p)
        if bit v k then s.put (F.VIS_STATE_REGIONS p) (v - 2 ^ k) else s) s
      let r := { r with
        going := true, thresh := s.threshNow p, begun := s.wck.lagoon, poison := false, refused := false,
        ended := [], running := [], nr := 0, regs := (regs.map fun k => 2 ^ k).sum }
      (s.putRun p ns (startNodes s d ns r)).put (F.VIS_STATE_FRAME p) r.frame

def execVisFrameStart (p : Nat) (s : State) : Host.Outcome State Fault Refusal := unit 4 p s (visFrame p)

/-- Regions whose last write has completed become valid (R389). -/
def finishRegions (rs : List (Nat × Nat × Nat)) (d : Bytes) (ns : List Bytes) (r : VisRun) : List Nat :=
  let left := (ns.zipIdx.filter fun x => !r.ended.contains x.2).map (·.1)
  (List.range 4).filter fun k => bit r.regs k && !(regionBits rs d left).contains k

/-- The pipeline is released (R375): nothing of the holder stays but the region bits, which no rule clears. The first order
that waits for it holds it again, from its grant. -/
def State.visFree (s : State) (p : Nat) : State :=
  let s := s.setVis p { Vis.reset with threshWas := (s.vis p).threshWas }
  let s := ((s.put (F.VIS_STATE_STATE p) 0).put (F.VIS_STATE_ALLOT p) 31).put (F.VIS_STATE_BUSY p) 0
  let s := s.put (F.VIS_STATE_GRAPH p) 0
  match s.waiting.find? fun o => o.waitsOn == (5, p) with
  | some o => s.visHold o
  | none => s

/-- A frame's last node has ended: the run goes on, or is over, as after a frame that read an uncorrectable block (R390) or whose write was
refused in part (R309). -/
def endVisFrame (p : Nat) (r : VisRun) (s : State) : State :=
  let s := (s.bump (F.VIS_COUNTS_FRAMES p)).bump (F.VIS_COUNTS_REFINED p) r.nr
  let s := (s.put (F.VIS_LAST_CYCLES p) (s.wck.lagoon - r.begun)).put (F.VIS_LAST_NR p) r.nr
  let stop (s : State) : State := (s.setVis p { s.vis p with run := none }).put (F.VIS_STATE_STATE p) 1
  if r.poison || r.refused then (stop s).finish r.ord stEcc r.frame (openCause (Config.openDetail 0x101 % 256))
  else if r.frame + 1 = r.descs.length then
    let s := (stop s).done r.ord r.descs.length
    if r.release then s.visFree p else s
  else
    let d := r.descs.getD r.frame []
    let built := (frameNodes r.mode (s.vis p).graph d).any fun n => ndStage n == 0
    s.setVis p { s.vis p with run := some { r with going := false, frame := r.frame + 1, ended := [], running := [], built := built } }

/-- Node `k` of the frame ends. -/
def nodeEnd (p k : Nat) (r : VisRun) (s : State) : State :=
  let x := s.vis p
  let d := r.descs.getD r.frame []
  let ns := frameNodes r.mode x.graph d
  let w := (s.took r.ord).runNode r d (ns.getD k [])
  let s := w.2.2
  let r := { r with
    running := r.running.filter (fun z => z.1 != k), ended := r.ended ++ [k], poison := w.1, refused := r.refused || w.2.1 }
  let fin := finishRegions x.regions d ns r
  let s := s.put (F.VIS_STATE_REGIONS p) (Nat.lor (s.get (F.VIS_STATE_REGIONS p)) (fin.map fun k => 2 ^ k).sum)
  let s := fin.foldl (fun s k => s.noteBuf (128 + 4 * p + k)) s
  let r := { r with regs := r.regs - (fin.map fun k => 2 ^ k).sum }
  let r := startNodes s d ns r
  let s := s.putRun p ns r
  if r.running = [] then endVisFrame p r s else s

/-- The running node whose time is over first ends, at its time (R392; log entry 22). -/
def visEnd (p : Nat) (s : State) : State :=
  match (s.vis p).run with
  | none => s
  | some r =>
    match r.running with
    | [] => s
    | y :: ys =>
      let first := ys.foldl (fun (b : Nat × Nat) z => if z.2 < b.2 then z else b) y
      s.atLagoon first.2 (nodeEnd p first.1 r)

def execVisStageEnd (p : Nat) (s : State) : Host.Outcome State Fault Refusal := unit 4 p s (visEnd p)

end Sys2Proof.Machine
end

