-- ==== Sys2Proof/Machine/Settle.lean ====
section
/-! DEFINITION. The settling basins (chapter 16): problems, sweeps, noise schedules, runs and results. -/

namespace Sys2Proof.Machine

/-! ## The acceptance ROM (R401) -/

/-- The odd powers of the inverse hyperbolic tangent's series, from term `n`, with 128 fraction bits. -/
def atanhTerms (z2 : Nat) : Nat → Nat → Nat → Nat
  | 0, _, _ => 0
  | fuel + 1, n, p => p / (2 * n + 1) + atanhTerms z2 fuel (n + 1) (p * z2 / 2 ^ 128)

/-- 2 atanh(a / b) with 128 fraction bits, for a at most b / 3. -/
def twoAtanh (a b : Nat) : Nat := let z := a * 2 ^ 128 / b; 2 * atanhTerms (z * z / 2 ^ 128) 48 0 z

/-- -ln((2u + 1) / 2^17) with 128 fraction bits: k ln 2 minus the logarithm of the mantissa. -/
def negLn (u : Nat) : Nat :=
  let v := 2 * u + 1
  let k := 17 - v.log2
  let m := v * 2 ^ (17 - v.log2)
  k * twoAtanh 1 3 - twoAtanh (m - 2 ^ 17) (m + 2 ^ 17)

/-- L(u) = floor(-256 ln((u + 0.5) / 65,536) + 0.5). -/
def acceptL (u : Nat) : Nat := (2 * 256 * negLn u + 2 ^ 128) / 2 ^ 129

/-! ## Problems (Table 16-1, R398) -/

def pbN (h : Bytes) : Nat := bits (fieldAt h 0 4) 0 19
def pbEntries (h : Bytes) : Nat := fieldAt h 4 4
def pbAdj (h : Bytes) : Nat := fieldAt h 8 4

/-- The offset of the first failure of the header. -/
def headerFault (h : Bytes) : Option Nat :=
  if pbN h = 0 ∨ 262144 < pbN h then some 0
  else if bits (fieldAt h 0 4) 19 13 ≠ 0 then some 2
  else if pbEntries h % 2 ≠ 0 ∨ 33554432 < pbEntries h then some 4
  else if pbAdj h % 128 ≠ 0 ∨ pbAdj h < 64 + 8 * (pbN h + 1) then some 8
  else (List.range 52).findSome? fun i => if fieldAt h (12 + i) 1 ≠ 0 then some (12 + i) else none

/-- Bytes of a problem. -/
def problemSize (h : Bytes) : Nat := pbAdj h + 8 * pbEntries h

/-- The fields that give a problem its extent are in range. -/
def headerSized (h : Bytes) : Bool :=
  decide (0 < pbN h) && decide (pbN h ≤ 262144) && decide (pbEntries h ≤ 33554432) && decide (64 + 8 * (pbN h + 1) ≤ pbAdj h)

/-- The bytes that a BSN_LOAD walks and reads: the whole problem, or its header alone where that gives no extent (log entry 105). -/
def loadExtent (h : Bytes) : Nat := if headerSized h then problemSize h else 64

def spFirst (b : Bytes) (i : Nat) : Nat := bits (fieldAt b (64 + 8 * i + 4) 4) 0 26
def spH (b : Bytes) (i : Nat) : Int := signed 24 (fieldAt b (64 + 8 * i) 3)
def spInit (b : Bytes) (i : Nat) : Bool := bit (fieldAt b (64 + 8 * i) 4) 24
def adNb (b : Bytes) (k : Nat) : Nat := bits (fieldAt b (pbAdj b + 8 * k) 4) 0 18
def adJ (b : Bytes) (k : Nat) : Int := signed 16 (fieldAt b (pbAdj b + 8 * k + 4) 2)

/-- The adjacency records of spin i. -/
def spinList (b : Bytes) (i : Nat) : List Nat := (List.range (spFirst b (i + 1) - spFirst b i)).map fun k => spFirst b i + k

/-- The failure of spin record i. -/
def spinFault (b : Bytes) (i : Nat) : Option Nat :=
  let o := 64 + 8 * i
  let n := pbN b
  if i = n ∧ fieldAt b o 3 ≠ 0 then some o
  else if i = n ∧ spInit b i then some (o + 3)
  else if bits (fieldAt b o 4) 25 7 ≠ 0 then some (o + 3)
  else if (i = 0 ∧ spFirst b 0 ≠ 0) ∨ (0 < i ∧ spFirst b i < spFirst b (i - 1)) ∨ (i = n ∧ spFirst b n ≠ pbEntries b)
      ∨ (0 < i ∧ 4096 < spFirst b i - spFirst b (i - 1)) then some (o + 4)
  else if bits (fieldAt b (o + 4) 4) 26 6 ≠ 0 then some (o + 7)
  else none

/-- The failure of record k of spin i's list; a record without its partner fails at its own offset (log entry 94). -/
def adjFault (b : Bytes) (i k : Nat) : Option Nat :=
  let o := pbAdj b + 8 * k
  let j := adNb b k
  if j ≥ pbN b ∨ j = i ∨ (spFirst b i < k ∧ j ≤ adNb b (k - 1)) then some o
  else if !((spinList b j).any fun m => adNb b m == i && adJ b m == adJ b k) then some o
  else if bits (fieldAt b o 4) 18 14 ≠ 0 then some (o + 2)
  else if fieldAt b (o + 6) 2 ≠ 0 then some (o + 6)
  else none

/-- The first failure of a problem, in address order. -/
def problemFault (b : Bytes) : Option Nat :=
  match headerFault b with
  | some o => some o
  | none => match (List.range (pbN b + 1)).findSome? (spinFault b) with
    | some o => some o
    | none => (List.range (pbN b)).findSome? fun i => (spinList b i).findSome? (adjFault b i)

/-! ## Basins and orders -/

def bsBasin (o : Ord) : Nat := o.field 16 1
def bsState (s : State) (b : Nat) : Nat := s.get (F.BSN_STATE_STATE b)

/-- R394: held by another allotment. -/
def bsnForeign (s : State) (o : Ord) : Bool :=
  decide (bsBasin o < 2) && bsState s (bsBasin o) != 0 && s.get (F.BSN_STATE_ALLOT (bsBasin o)) != o.allot

def bsnUnits (s : State) (o : Ord) : Bool × Why :=
  (decide (bsBasin o < 2) && !s.working (197 + bsBasin o), unitMissing (197 + bsBasin o))

/-- A load check or a run is in progress (R395). -/
def State.bsnBusy (s : State) (b : Nat) : Bool := (s.basin b).run.isSome || (s.basin b).loading.isSome

/-- The permission of an area: SEALED is reported by its own cause. -/
def bsnMay (perm v : Nat) : Bool := bit v permSealed || bit v perm

/-- A walk of an area for a basin: SEALED granules refuse (R398, R406). -/
def State.bsnWalk (s : State) (a addr n perm : Nat) : Except Why (SMap Nat) :=
  match s.translate a addr n (bsnMay perm) with
  | .error (at_, c) => .error ⟨stWalk, c, at_ / pageSize, 0⟩
  | .ok l =>
    if l.any fun x => match s.permOf a (x.1 / pageSize) with | some v => bit v permSealed | none => false then
      .error (whyOpen stNoRight 0xDA)
    else .ok (pageMap addr l [])

def State.bsnRefuse (s : State) (o : Ord) (w : Why) : State := if w.status = stWalk then s.failWalk o w else s.fail o w

/-- The basin is held from the grant (R394). -/
def State.bsnHold (s : State) (o : Ord) : State :=
  if bsState s (bsBasin o) = 0 then
    (s.put (F.BSN_STATE_STATE (bsBasin o)) 1).put (F.BSN_STATE_ALLOT (bsBasin o)) o.allot
  else s

/-- A waiting order whose basin another allotment holds by now (R394). -/
def State.bsnTurnedAway (s : State) (o : Ord) (f : State → State) : State :=
  if bsnForeign s o then s.fail o (whyOpen stState 0xD8) else f s

/-- BSN_LOAD executes on the idle basin: the walk, then the check. -/
def startLoad (s : State) (o : Ord) : State := s.bsnTurnedAway o fun s =>
  let s := s.bsnHold o
  let b := bsBasin o
  let addr := o.field 20 8
  let s := s.readTable o.allot addr 64 (bsnMay permHostRead)
  match s.bsnWalk o.allot addr 64 permHostRead with
  | .error w => s.bsnRefuse o w
  | .ok m0 =>
    let h := (s.readVia m0 addr 64 1 o.allot).1
    let s := s.readTable o.allot addr (loadExtent h) (bsnMay permHostRead)
    match s.bsnWalk o.allot addr (loadExtent h) permHostRead with
    | .error w => s.bsnRefuse o w
    | .ok m =>
      let p : BsnProblem := ⟨addr, pbN h, pbEntries h, pbAdj h, m⟩
      (s.setBasin b { s.basin b with loading := some (o, p) }).put (F.BSN_STATE_STATE b) 2

def loadBody (s : State) (o : Ord) : State := (s.bsnHold o).serve o (s.bsnBusy (bsBasin o)) (startLoad · o)

def specBsnLoad : Spec where
  op := 0x0800
  permit := [1, 2, 3, 4]
  state := fun s o => [bsnUnits s o, (bsnForeign s o, whyOpen stState 0xD8)]
  fields := fun _ o => [rg (decide (1 < bsBasin o)) 16, rz o 17 3, rg (o.field 20 8 % 128 != 0) 20]
  body := loadBody

def execBsnLoad (q : Nat) (s : State) : Host.Outcome State Fault Refusal := unit 64 q s (order specBsnLoad q [])

/-- The problem check completes (R398). -/
def loadCheckEnd (b : Nat) (s : State) : State :=
  let x := s.basin b
  match x.loading with
  | none => s
  | some (o, p) =>
    let h := s.readVia p.pages p.addr 64 1 o.allot
    let r := s.readVia p.pages p.addr (loadExtent h.1) 1 o.allot
    let s := (r.2.2.setBasin b { x with loading := none }).put (F.BSN_STATE_STATE b) 1
    if !r.2.1 then s.fail o whyEcc
    else match problemFault r.1 with
      | some at_ => s.fail o ⟨stBadField, 0xD9, at_, 0⟩
      | none => ((s.setBasin b { x with loading := none, problem := some p }).put (F.BSN_STATE_BOUND b) 1).done o

def execBsnLoadCheckEnd (b : Nat) (s : State) : Host.Outcome State Fault Refusal := unit 2 b s (loadCheckEnd b)

/-! ## BSN_RUN (R406, Table 16-2) -/

def rsSched (o : Ord) : Bytes := o.data 32 (if o.field 17 1 = 0 then 96 + 1024 else 96)
def rsWell (c : Bytes) : Bool := !bit (fieldAt c 0 1) 0
def rsRelease (c : Bytes) : Bool := bit (fieldAt c 0 1) 1
def rsTarget (c : Bytes) : Bool := bit (fieldAt c 0 1) 2
def rsTurn (c : Bytes) : Nat := fieldAt c 4 6
def rsCycle (c : Bytes) : Nat := fieldAt c 12 4
def rsResult (c : Bytes) : Nat := fieldAt c 16 8
def rsT0 (c : Bytes) : Nat := fieldAt c 64 4
def rsOInit (c : Bytes) : Nat := fieldAt c 68 4
def rsOMax (c : Bytes) : Nat := fieldAt c 72 4
def rsG (c : Bytes) : Nat := fieldAt c 76 2
def rsW (c : Bytes) : Nat := fieldAt c 78 2
def rsCurve (c : Bytes) (k : Nat) : Nat := fieldAt c (96 + 4 * k) 4

/-- Bytes of a result area for N spins. -/
def resultSize (n : Nat) : Nat := 128 + cdiv (cdiv n 8) 128 * 128

/-- BSN_RUN executes on the idle basin. Its checks are those of its grant (R115); a problem unbound while it waited refuses it as at a grant
(log entry 94). -/
def startBasin (s : State) (o : Ord) : State := s.bsnTurnedAway o fun s =>
  let b := bsBasin o
  let x := s.basin b
  let c := rsSched o
  match x.problem with
  | none => s.fail o (whyOpen stState 0xDB)
  | some p =>
    let s := s.readTable o.allot (rsResult c) (resultSize p.n) (bsnMay permHostWrite)
    match s.bsnWalk o.allot (rsResult c) (resultSize p.n) permHostWrite with
    | .error w => s.bsnRefuse o w
    | .ok m =>
      let run : BsnRun := {
        ord := o, mode := o.field 17 1, sched := c, sweeps := o.field 20 4, result := rsResult c, pages := m, going := false, seed := []
        draws := 0, spins := [], e := 0, best := [], bestE := 0, bestSweep := 0, sweep := 0, offset := rsOInit c, stuck := 0
        poison := false }
      ((s.setBasin b { x with run := some run }).put (F.BSN_STATE_STATE b) 3).put (F.BSN_STATE_MODE b) run.mode

def basinBody (s : State) (o : Ord) : State := s.serve o (s.bsnBusy (bsBasin o)) (startBasin · o)

def specBsnRun : Spec where
  op := 0x0801
  permit := [1, 2, 3, 4]
  units := 4
  need := fun _ o => [(o.field 17 1 == 0 && decide (o.units < 36), shortAt 2)]
  state := fun s o =>
    [bsnUnits s o, (bsnForeign s o, whyOpen stState 0xD8),
     (decide (bsBasin o < 2) && (s.basin (bsBasin o)).problem.isNone, whyOpen stState 0xDB),
     (rsWell (rsSched o) && s.wellFailed, whyOpen stState 0xEE)]
  fields := fun s o =>
    let c := rsSched o
    let m := o.field 17 1
    [rg (decide (1 < bsBasin o)) 16, rg (decide (1 < m)) 17, rz o 18 2, rz o 24 4, rzb o 32 3 5, rz o 33 3, rz o 42 2,
     rg (decide (s.get F.WCK_TURN_CYCLES_COUNT - 4097 < rsCycle c)) 44, rg (o.field 48 6 % 128 != 0) 48, rz o 54 2,
     rg (!rsTarget c && o.field 56 8 != 0) 56, rg (rsWell c && leNat (slice c 32 32) != 0) 64] ++
    (if m = 0 then
      [rg (rsT0 c != 0) 96, rg (rsOInit c != 0) 100, rg (rsOMax c != 0) 104, rg (rsG c != 0) 108, rg (rsW c != 0) 110, rz o 112 16] ++
      (List.range 255).map fun k => rg (decide (rsCurve c k < rsCurve c (k + 1))) (132 + 4 * k)
    else
      [rg (rsOInit c == 0 || decide (rsOMax c < rsOInit c)) 100, rg (decide (rsG c < 257)) 108, rg (rsW c == 0) 110, rz o 112 16])
  late := fun s o => match namedTurn s (rsTurn (rsSched o)) with | some w => [(true, w)] | none => []
  body := basinBody

def execBsnRun (q : Nat) (s : State) : Host.Outcome State Fault Refusal := unit 64 q s (order specBsnRun q [])

/-! ## Runs (R401 to R407) -/

/-- The problem as a run reads it: zeros in uncorrectable blocks, and whether every block was usable (R411). -/
def State.readProblem (s : State) (p : BsnProblem) (allot : Nat) : Bytes × Bool × State :=
  let n := p.adj + 8 * p.entries
  let r := s.readVia p.pages p.addr n 1 allot
  (if r.2.1 then r.1 else (List.range n).map fun i => BitVec.ofNat 8 (s.imgByte p.pages (p.addr + i)), r.2)

def spinVal (b : Bool) : Int := if b then 1 else -1

/-- The local field of spin i. -/
def localField (b : Bytes) (sp : List Bool) (i : Nat) : Int :=
  spH b i + ((spinList b i).map fun k => adJ b k * spinVal (sp.getD (adNb b k) false)).sum

/-- The energy: each coupling stands in two lists. -/
def energyOf (b : Bytes) (n : Nat) (sp : List Bool) : Int :=
  let pair : Int := ((List.range n).map fun i => ((spinList b i).map fun k =>
    if i < adNb b k then adJ b k * spinVal (sp.getD i false) * spinVal (sp.getD (adNb b k) false) else 0).sum).sum
  (0 : Int) - pair - ((List.range n).map fun i => spH b i * spinVal (sp.getD i false)).sum

/-- The effective temperature of sweep `k` (R404, R405). -/
def tempOf (r : BsnRun) (k : Nat) : Nat :=
  if r.mode = 0 then rsCurve r.sched (256 * k / max 1 r.sweeps) else min (2 ^ 32 - 1) (rsT0 r.sched + r.offset)

/-- One visit (R401): state of the spins, energy. -/
def visitSpin (b : Bytes) (t : Nat) (us : Bytes) (x : List Bool × Int) (i : Nat) : List Bool × Int :=
  let d := 2 * spinVal (x.1.getD i false) * localField b x.1 i
  let u := fieldAt us (2 * i) 2
  if d ≤ 0 ∨ d * 65536 < t * acceptL u then (x.1.set i (!x.1.getD i false), x.2 + d) else x

/-- The result area (Table 16-3). -/
def resultBytes (r : BsnRun) (n : Nat) (met : Bool) : Bytes :=
  let bitsOf := (List.range (cdiv n 8)).map fun k =>
    BitVec.ofNat 8 ((List.range 8).map fun j => if r.best.getD (8 * k + j) false then 2 ^ j else 0).sum
  toLe 8 (unsigned 64 r.bestE) ++ toLe 8 (unsigned 64 r.e) ++ toLe 4 r.bestSweep ++ toLe 4 r.sweep
    ++ toLe 1 (b2n r.poison + 2 * b2n met) ++ List.replicate 7 0 ++ padTo 32 r.seed ++ List.replicate 64 0
    ++ padTo (resultSize n - 128) bitsOf

/-- The basin is released (R394): nothing of the holder stays but the valid bit, which no rule clears. A BSN_LOAD that waits
for it holds it again, from its grant. -/
def State.bsnFree (s : State) (b : Nat) : State :=
  let s := s.setBasin b Basin.reset
  let s := ((s.put (F.BSN_STATE_STATE b) 0).put (F.BSN_STATE_ALLOT b) 31).put (F.BSN_STATE_BOUND b) 0
  match s.waiting.find? fun o => o.op == 0x0800 && o.waitsOn == (4, b) with
  | some o => s.bsnHold o
  | none => s

/-- A run ends (R407, R411): its result is written, its tally decided. -/
def endBasin (b : Nat) (p : BsnProblem) (r : BsnRun) (met : Bool) (s : State) : State :=
  let res := resultBytes r p.n met
  let s := s.took r.ord
  let w := s.visWrite r.pages r.result res r.ord.allot r.poison
  let s := w.2
  let s := ((s.put (F.BSN_STATE_VALID b) 1).put (F.BSN_STATE_STATE b) 1).noteBuf (160 + b)
  let x := s.basin b
  if r.poison || w.1 then (s.setBasin b { x with run := none }).finish r.ord stEcc (r.sweep - 1) (openCause (Config.openDetail 0x101 % 256))
  else
    let s := (s.setBasin b { x with run := none, result := some res }).bump (F.BSN_RUNS_RUNS b)
    let s := s.done r.ord r.sweep (unsigned 64 r.bestE)
    if rsRelease r.sched then s.bsnFree b else s

/-- A run starts (R406): its seed, its initial state, its result area's valid bit cleared. -/
def basinStart (b : Nat) (s : State) : State :=
  let x := s.basin b
  match x.run, x.problem with
  | some r, some p =>
    let ahead := turnsAhead s.wck.turn (r.ord.turnNow (rsTurn r.sched))
    if r.going || !(ahead == none || ahead == some 0) then s
    else if rsWell r.sched && s.wellFailed then
      ((s.setBasin b { x with run := none }).put (F.BSN_STATE_STATE b) 1).fail r.ord (whyOpen stState 0xEE)
    else
      let s := if ahead == some 0 then s.advanceTo (rsCycle r.sched) else s
      let d := if rsWell r.sched then s.generate 3 32 else (slice r.sched 32 32, s)
      let pb := d.2.readProblem p r.ord.allot
      let s := pb.2.2
      let sp := (List.range p.n).map (spInit pb.1)
      let e := energyOf pb.1 p.n sp
      let r := { r with
        going := true, seed := d.1, spins := sp, e := e, best := sp, bestE := e, poison := !pb.2.1 }
      let s := (s.setBasin b { x with run := some r, area := some (r.result, resultSize p.n), areaPages := r.pages }).put (F.BSN_STATE_VALID b) 0
      let s := ((s.put (F.BSN_SWEEP_SWEEP b) 0).put (F.BSN_SWEEP_TEMP b) (tempOf r 0)).put (F.BSN_ENERGY_BEST b) (unsigned 64 e)
      if r.sweeps = 0 then endBasin b p r (rsTarget r.sched && decide (e ≤ signed 64 (fieldAt r.sched 24 8))) s else s
  | _, _ => s

def execBsnRunStart (b : Nat) (s : State) : Host.Outcome State Fault Refusal := unit 2 b s (basinStart b)

/-- A sweep ends (R401, R403, R405, R407). -/
def sweepEnd (b : Nat) (s : State) : State :=
  let x := s.basin b
  match x.run, x.problem with
  | some r, some p =>
    if !r.going then s
    else
      let pb := s.readProblem p r.ord.allot
      let s := pb.2.2
      let us := (shake128x (2 * (r.draws + p.n)) r.seed).drop (2 * r.draws)
      let v := (List.range p.n).foldl (visitSpin pb.1 (tempOf r r.sweep) us) (r.spins, r.e)
      let r := { r with
        draws := r.draws + p.n, spins := v.1, e := v.2, sweep := r.sweep + 1, poison := r.poison || !pb.2.1 }
      let r := if r.e < r.bestE then
          { r with best := r.spins, bestE := r.e, bestSweep := r.sweep, offset := rsOInit r.sched, stuck := 0 }
        else if r.stuck + 1 = rsW r.sched then
          { r with offset := min (rsOMax r.sched) (r.offset * rsG r.sched / 256), stuck := 0 }
        else { r with stuck := r.stuck + 1 }
      let met := rsTarget r.sched && decide (r.bestE ≤ signed 64 (fieldAt r.sched 24 8))
      let s := (s.put (F.BSN_SWEEP_SWEEP b) r.sweep).put (F.BSN_ENERGY_BEST b) (unsigned 64 r.bestE)
      let s := s.setBasin b { s.basin b with run := some r }
      if r.poison || met || r.sweep == r.sweeps then endBasin b p r met s
      else s.put (F.BSN_SWEEP_TEMP b) (tempOf r r.sweep)
  | _, _ => s

def execBsnSweepEnd (b : Nat) (s : State) : Host.Outcome State Fault Refusal := unit 2 b s (sweepEnd b)

/-! ## BSN_READ (R409) -/

/-- BSN_READ executes on the idle basin. It has met its checks at its grant (R115); it is turned away now only where a release has meanwhile
taken the result away, or a run has left one that its buffer cannot take (DESIGN CHOICE, log entry 94). -/
def startRead (s : State) (o : Ord) : State := s.bsnTurnedAway o fun s =>
  match (s.basin (bsBasin o)).result with
  | none => s.fail o (whyOpen stState 0xDC)
  | some r => if o.field 17 3 < r.length then s.fail o (shortAt 17) else (s.reply o (o.field 20 8) r).done o

def readBody (s : State) (o : Ord) : State := s.serve o (s.bsnBusy (bsBasin o)) (startRead · o)

/-- The result of the basin an order names. -/
def bsnResult (s : State) (o : Ord) : Option Bytes := if bsBasin o < 2 then (s.basin (bsBasin o)).result else none

def specBsnRead : Spec where
  op := 0x0802
  permit := [1, 2, 3, 4]
  need := fun s o => [(!bsnForeign s o && (match bsnResult s o with | some r => decide (o.field 17 3 < r.length) | none => false), shortAt 17)]
  state := fun s o =>
    [bsnUnits s o, (bsnForeign s o, whyOpen stState 0xD8),
     (decide (bsBasin o < 2) && (bsnResult s o).isNone, whyOpen stState 0xDC)]
  fields := fun _ o => [rg (decide (1 < bsBasin o)) 16, rg (o.field 17 3 % 64 != 0) 17, rg (o.field 20 8 % 64 != 0) 20]
  body := readBody

def execBsnRead (q : Nat) (s : State) : Host.Outcome State Fault Refusal := unit 64 q s (order specBsnRead q [])

end Sys2Proof.Machine
end

