-- ==== Sys2Proof/Machine/Allots.lean ====
section
/-! DEFINITION. Allotments (chapter 5): claims, release, status, water rights, the turnout table, functions and BAR2,
scrubbing. -/

namespace Sys2Proof.Machine

/-! ## Tiles and functions that can be claimed (R132 to R135) -/

/-- Claims not yet committed. -/
def State.stagedClaims (s : State) : List (Nat × Nat × List Nat) :=
  s.staged.filterMap fun x => match x.change with
    | .claim a fn _ _ tiles => some (a, fn, tiles)
    | _ => none

/-- A tile is free, staged claims aside (R132). An unowned tile stands zeroed once it works: release leaves it so, and it is the quick test
after a switch on, or a self-test, that leaves it so again (Table 20-2). -/
def State.tileFree (s : State) (t : Nat) : Bool :=
  s.tileEnabled t && !s.tileGated t && s.working t && !s.underTest t && (s.tileOwner t).isNone && !s.tileClosed t

/-- A virtual function is bound to an allotment. -/
def State.fnBound (s : State) (fn : Nat) : Bool := fn != 0 && (s.allotOfFn fn).isSome

/-- A virtual function that no claim may name (R135). -/
def State.fnTaken (s : State) (fn : Nat) : Bool :=
  fn != 0 && (!s.vfEnabled.contains fn || s.fnBound fn || s.stagedClaims.any fun c => c.2.1 == fn)

/-- The lowest-numbered EMPTY allotment that no staged claim names (R126). -/
def State.freeAllot (s : State) : Option Nat :=
  (List.range 16).find? fun a => s.isEmpty a && !(s.stagedClaims.any fun c => c.1 == a)

/-! ## ALT_CLAIM (R126, R131 to R135) -/

def acSealed (o : Ord) : Bool := bit (o.field 16 1) 0
def acParty (o : Ord) : Nat := bits (o.field 16 1) 4 4
def acFn (o : Ord) : Nat := o.field 17 1
def acMap (o : Ord) : Nat := o.field 32 18
def acTiles (o : Ord) : List Nat := (List.range 144).filter fun t => bit (acMap o) t

def claimBody (s : State) (o : Ord) : State :=
  match (if o.allot = 255 then s.freeAllot else some o.allot) with
  | some a => s.stage o (.claim a (acFn o) (acParty o) (acSealed o) (acTiles o))
  | none => s.fail o (whyQuota 0x33 1)

def specAltClaim : Spec where
  op := 0x0120
  q0 := true
  allot := 2
  permit := [0]
  changes := true
  units := 2
  state := fun s o =>
    [(decide (o.allot < 16) && s.stagedClaims.any (fun c => c.1 == o.allot), whyState 0x2B 0),
     (decide (acFn o < 32) && s.fnTaken (acFn o), whyState 0x35 (acFn o)),
     (acSealed o && (s.firstMissing [200, 260]).isSome, unitMissing ((s.firstMissing [200, 260]).getD 0))]
  fields := fun _ o =>
    [rzb o 16 1 3, rg (!acSealed o && acParty o != 0) 16 4, rg (decide (31 < acFn o)) 17,
     rg (o.field 18 2 != popcount 144 (acMap o) || o.field 18 2 == 0) 18, rz o 20 8, rz o 50 14]
  quota := fun s o =>
    [(o.allot == 255 && s.freeAllot.isNone, whyQuota 0x33 1),
     ((acTiles o).any fun t => !s.tileFree t || s.stagedClaims.any fun c => c.2.2.contains t, whyQuota 0x33 2)]
  body := claimBody

def execAltClaim (q : Nat) (s : State) : Host.Outcome State Fault Refusal := unit 64 q s (order specAltClaim q [])

/-- A claim at its headgate commit (R134): bound, its book empty (R468), or refused as at its grant where an earlier claim of the same guard
took what it names. Its numeric flags start clear, those of the allotment that bore its number before being none of its own (R244). -/
def State.commitClaim (s : State) (a fn party : Nat) (sealed_ : Bool) (tiles : List Nat) : Except Why State :=
  if !s.isEmpty a then .error (whyState 0x2B (s.altState a))
  else if s.fnBound fn then .error (whyState 0x35 fn)
  else if tiles.any fun t => !s.tileFree t then .error (whyQuota 0x33 2)
  else
    let s := s.setAllot a Allot.reset
    let s := (s.clearRegs (0x40100 + 0x100 * a) (0x40130 + 0x100 * a)).setReg (0x88000 + 8 * a) 0
    let s := ((s.put (F.ALT_STATE_STATE a) 1).put (F.ALT_STATE_SEALED a) (b2n sealed_)).put (F.ALT_STATE_PARTY a) party
    let s := (s.put (F.ALT_STATE_FUNCTION a) fn).put (F.ALT_STATE_TILES a) tiles.length
    let s := tiles.foldl (fun s t => s.setMapBit (F.ALT_TILE_MAP_MAP a) t true) s
    .ok (((s.put (F.SLU_LEDGER_NEXT a) 0).put (F.SLU_LEDGER_ACK a) 0).put (F.SLU_ALLOT_DOUBTS a) 0)

/-! ## Rights (R143 to R150) -/

/-- A rights entry as staged: first granule, count, permissions, revoke. -/
abbrev RightsEntry := Nat × Nat × Nat × Bool

def enFirst (e : Bytes) : Nat := bits (fieldAt e 0 4) 0 18
def enCount (e : Bytes) : Nat := bits (fieldAt e 4 4) 0 18
def enPerm (e : Bytes) : Nat := fieldAt e 8 1
def enRevoke (e : Bytes) : Bool := bit (fieldAt e 9 1) 0

def rsCount (o : Ord) : Nat := o.field 16 2
/-- The entries of a RIGHTS_SET; none where the count lies above its range. -/
def rsEntries (o : Ord) : List Bytes := if rsCount o ≤ 4094 then recs 16 (o.data 32 (16 * rsCount o)) else []
/-- Entries cut to the granules that exist. -/
def entryOf (e : Bytes) : RightsEntry :=
  (enFirst e, min (enFirst e + enCount e) 196608 - enFirst e, bits (enPerm e) 0 7, enRevoke e)

/-- Entries apply in payload order (R144). -/
def applyEntries (l : List (Nat × Nat × Nat)) (es : List RightsEntry) : List (Nat × Nat × Nat) :=
  es.foldl (fun l e => setRange l e.1 e.2.1 (if e.2.2.2 then none else some e.2.2.1)) l

/-- The granules of a table, rising. -/
def granules (l : List (Nat × Nat × Nat)) : List Nat := l.flatMap fun x => (List.range x.2.1).map (x.1 + ·)

/-- Permissions that a change takes from a granule; a change of its SEALED bit takes them all (R148). -/
def permsLost (old new : Option Nat) : Nat :=
  match old, new with
  | none, _ => 0
  | some p, none => p
  | some p, some n => if bit p permSealed != bit n permSealed then p else Nat.land p (255 - n)

/-- The first granule, in payload order, that an entry would widen beyond what the table grants (R145), whatever a later entry
decides (log entry 90). -/
def widened (old : List (Nat × Nat × Nat)) (es : List RightsEntry) : Option Nat :=
  es.findSome? fun e =>
    if e.2.2.2 then none
    else ((List.range e.2.1).map (e.1 + ·)).find? fun g => match permIn old g with
      | some p => decide (Nat.land e.2.2.1 (255 - p) ≠ 0)
      | none => true

/-- The granules that a range of allotment addresses reaches through the table in force. -/
def State.reliedOn (s : State) (a addr n : Nat) : List Nat :=
  (pagesOf addr n).filterMap fun x => match s.walkNow a x.1 (fun _ => true) with
    | .ok p => some (p / pageSize)
    | .error _ => none

/-- Permissions in use by granule: loaded plans, order rings in allotment memory and started camera ports (R146); every
permission of a granule that a vision run walks (R388) or that a bound problem occupies (R399). -/
def State.inUseBy (s : State) (a : Nat) : List (Nat × Nat) :=
  ((s.allot a).plans.flatMap fun p => p.uses)
    ++ (((List.range 64).filter fun q => s.queueLive q && (s.queue q).bound == a && s.on (F.DR_QBASE_LOC q)).flatMap fun q =>
      (s.reliedOn a (s.get (F.DR_QBASE_BASE q) * 64) (32 * s.ringSize q)).map fun g => (g, 2 ^ permHostRead))
    ++ (((List.range 8).filter fun p => s.get (F.ING_PORT_STATE_ALLOT p) == a && decide (2 ≤ s.get (F.ING_PORT_STATE_STATE p))
        && decide (s.get (F.ING_PORT_STATE_STATE p) ≤ 4)).flatMap fun p =>
      (s.ing p).pages.map fun x => (x.2 / pageSize, 2 ^ permIngress))
    ++ ((List.range 4).flatMap fun p => match (s.vis p).run with
      | some r => if r.ord.allot = a then r.pages.map fun x => (x.2 / pageSize, 255) else []
      | none => [])
    ++ (List.range 2).flatMap fun b => match (s.basin b).problem with
      | some p => if s.get (F.BSN_STATE_ALLOT b) = a then p.pages.map fun x => (x.2 / pageSize, 255) else []
      | none => []

/-- Permissions that the plan the translator checks relies on (R150). -/
def State.loadUses (s : State) (a : Nat) : List (Nat × Nat) :=
  match s.load with
  | some l => if l.ord.allot = a then l.plan.uses else []
  | none => []

/-- A SCHED_LOAD of the allotment executes whose plan the translator has not taken up yet. -/
def State.loadWaits (s : State) (a : Nat) : Bool :=
  (s.allot a).loading.isSome && !(match s.load with | some l => l.ord.allot == a | none => false)

/-- Granules with a listed permission that a change of the table would remove. -/
def lostOf (uses : List (Nat × Nat)) (old new : List (Nat × Nat × Nat)) : List Nat :=
  (uses.filter fun u => decide (Nat.land u.2 (permsLost (permIn old u.1) (permIn new u.1)) ≠ 0)).map (·.1)

/-- The change revokes or narrows something: the granules it takes a permission from. -/
def narrowed (old new : List (Nat × Nat × Nat)) : List Nat := (granules old).filter fun g => permsLost (permIn old g) (permIn new g) != 0

/-- The first of some granules that the entries name, in payload order. -/
def firstNamed (es : List RightsEntry) (l : List Nat) : Option Nat :=
  es.findSome? fun e => (l.filter fun g => decide (e.1 ≤ g) && decide (g < e.1 + e.2.1)).foldl
    (fun m g => match m with | some x => some (min x g) | none => some g) none

/-- The position of the first entry that names a granule (R104). -/
def itemOf (es : List RightsEntry) (g : Nat) : Nat := (es.findIdx? fun e => decide (e.1 ≤ g) && decide (g < e.1 + e.2.1)).getD 0

/-- A refusal of RIGHTS_SET that names a granule, with the entry that brings it. -/
def atGranule (es : List RightsEntry) (g : Option Nat) (w : Nat → Why) : Bool × Why :=
  (g.isSome, { w (g.getD 0) with item := itemOf es (g.getD 0) })

/-- The plan-use checker holds a narrowing (R150): a loaded plan relies on a permission it takes, or a plan being loaded does,
or one that waits for the translator with the rights of its grant might (log entry 90). -/
def State.planUse (s : State) (a : Nat) (new : List (Nat × Nat × Nat)) : Bool :=
  let old := (s.allot a).rights
  (lostOf (s.inUseBy a ++ s.loadUses a) old new).isEmpty && !(s.loadWaits a && narrowed old new != [])

/-- The checks of one entry at byte `off` (R144), each in its place in the order. One whose FIRST lies in a device region and whose granules
reach past the last fails at COUNT (log entry 90). -/
def entryChecks (sealed_ : Bool) (e : Bytes) (off : Nat) : List (Bool × Why) :=
  let f := enFirst e
  let n := enCount e
  let p := enPerm e
  let inDev := (List.range 8).any fun st =>
    decide (f < 24576 * (st + 1)) && decide (24576 * (st + 1) - 32 < f + n) && decide (0 < n)
  [(decide (196607 < f) || (decide (f + n ≤ 196608) && inDev && granuleDevice f), rangeAt off),
   (decide (bits (fieldAt e 0 4) 18 14 ≠ 0), resvAt (off + 2) 2),
   (decide (f ≤ 196607) && (decide (196608 < f + n) || (inDev && !granuleDevice f)), rangeAt (off + 4)),
   (decide (bits (fieldAt e 4 4) 18 14 ≠ 0), resvAt (off + 6) 2),
   (!enRevoke e && bit p permTable && (bit p permPlanWrite || bit p permSealed), rangeAt (off + 8) 4),
   (!enRevoke e && bit p permSealed && (bit p permHostRead || bit p permHostWrite || !sealed_), rangeAt (off + 8) 5),
   (!enRevoke e && bit p 7, resvAt (off + 8) 7),
   (decide (bits (fieldAt e 9 1) 1 7 ≠ 0), resvAt (off + 9) 1),
   (decide (fieldAt e 10 6 ≠ 0), resvAt (off + 10))]

/-- Stacks that the entries name granules of. -/
def rsStacks (o : Ord) : List Nat :=
  let es := (rsEntries o).map entryOf
  (List.range 8).filter fun st => es.any fun e => decide (0 < e.2.1) && decide (e.1 / 24576 ≤ st) && decide (st ≤ (e.1 + e.2.1 - 1) / 24576)

/-- The table as the order would leave it. -/
def State.rsNew (s : State) (o : Ord) : List (Nat × Nat × Nat) := applyEntries (s.allot o.allot).rights ((rsEntries o).map entryOf)

/-- The first granule of the 257th range. -/
def rightsFull (l : List (Nat × Nat × Nat)) : Option Nat := (l.drop 256).head?.map (·.1)

/-- The first granule that the entries set and another allotment holds. -/
def State.rangeHeld (s : State) (a : Nat) (es : List RightsEntry) : Option Nat :=
  ((es.flatMap fun e => (List.range e.2.1).map (e.1 + ·)).find? fun g => (s.heldByOther a g).isSome)

/-- A range meets a granule that awaits its fence or its scrub. -/
def State.waits (s : State) (f n : Nat) : Bool :=
  let meets (g k : Nat) : Bool := decide (f < g + k) && decide (g < f + n)
  s.fences.any (fun x => meets x.1 x.2.1) || s.scrubs.any (fun x => meets x.1 x.2)

/-- Granules that a change of rights grants await their fence or scrub (R149). -/
def grantsWait (s : State) (es : List RightsEntry) : Bool := es.any fun e => !e.2.2.2 && s.waits e.1 e.2.1

/-- ALT_RIGHTS of an allotment follows its table and what is staged. -/
def State.noteRights (s : State) (a : Nat) : State :=
  let mine := s.staged.filterMap fun x => match x.change with
    | .rights b es => if b = a ∧ x.ord.op = 0x0300 then some es else none
    | _ => none
  let s := (s.put (F.ALT_RIGHTS_RANGES a) (s.allot a).rights.length).put (F.ALT_RIGHTS_STAGED a) (b2n (decide (mine ≠ [])))
  s.put (F.ALT_RIGHTS_WAITING a) (b2n (mine.any (grantsWait s) || (s.allot a).rights.any fun r => s.waits r.1 r.2.1))

def State.noteAllRights (s : State) : State := ((List.range 16).foldl State.noteRights s).noteScrub

def specRightsSet : Spec where
  op := 0x0300
  permit := [1, 2, 3, 4]
  need := fun _ o => [(decide (rsCount o ≤ 4094) && decide (o.units < 1 + cdiv (16 * rsCount o) 32), shortAt 16)]
  right := fun s o =>
    let es := (rsEntries o).map entryOf
    [atGranule es (if o.q = 0 ∨ 16 ≤ o.allot then none else widened (s.allot o.allot).rights es) (whyRight 0x39)]
  state := fun s o =>
    if 16 ≤ o.allot then []
    else
      let old := (s.allot o.allot).rights
      let es := (rsEntries o).map entryOf
      let lost := firstNamed es (lostOf (s.inUseBy o.allot) old (s.rsNew o))
      let cut := if (s.allot o.allot).loading.isSome then firstNamed es (narrowed old (s.rsNew o)) else none
      let bad := s.firstMissing ((rsStacks o).map (144 + ·))
      [(bad.isSome, unitMissing (bad.getD 0)), atGranule es lost (whyState 0x36), atGranule es cut (whyState 0x2F)]
  fields := fun s o =>
    rg (decide (4094 < rsCount o)) 16 :: rz o 18 10
      :: ((rsEntries o).zipIdx.flatMap fun x => itemChecks x.2 (entryChecks (s.isSealed o.allot) x.1 (32 + 16 * x.2)))
  quota := fun s o =>
    let es := (rsEntries o).map entryOf
    [atGranule es (s.rangeHeld o.allot es) (whyQuota 0x37), atGranule es (rightsFull (s.rsNew o)) (whyQuota 0x38)]
  body := fun s o => (s.stage o (.rights o.allot ((rsEntries o).map entryOf))).noteRights o.allot

def execRightsSet (q : Nat) (s : State) : Host.Outcome State Fault Refusal := unit 64 q s (order specRightsSet q [])

/-- What a change of tables sends to the drain fence (R148): revoked granules, and those whose SEALED bit changes; the
second list of each granule says whether it must be scrubbed. -/
def toFence (old new : List (Nat × Nat × Nat)) : List (Nat × Nat × Nat) :=
  mergeRanges ((granules old).filterMap fun g => match permIn old g, permIn new g with
    | some p, none => some (g, 1, b2n (bit p permSealed))
    | some p, some n => if bit p permSealed != bit n permSealed then some (g, 1, 1) else none
    | none, _ => none)

/-- Ranges for the drain fence, with whether they must be scrubbed. -/
def asFences (l : List (Nat × Nat × Nat)) : List (Nat × Nat × Bool) := l.map fun x => (x.1, x.2.1, x.2.2 == 1)

/-- Cached walks of an allotment are dropped (R158). -/
def State.dropWalks (s : State) (a : Nat) : State := { s with tcache := s.tcache.filter fun x => x.1 != a }

/-- A change of rights at its headgate commit (R147 to R149). The caller advances the epoch. A table that would exceed 256 ranges
only now is refused as at the grant (log entry 90). -/
def State.commitRights (s : State) (a : Nat) (es : List RightsEntry) : Except Why State :=
  let old := (s.allot a).rights
  let new := applyEntries old es
  match s.rangeHeld a (es.filter fun e => !e.2.2.2) with
  | some g => .error (atGranule es (some g) (whyQuota 0x37)).2
  | none => match rightsFull new with
    | some g => .error (atGranule es (some g) (whyQuota 0x38)).2
    | none =>
      let fs := toFence old new
      let s := s.dropWalks a
      let s := { s with fences := s.fences ++ asFences fs }
      let x := s.allot a
      .ok (s.setAllot a { x with
        rights := new
        awaits := if x.release.isSome then x.awaits ++ (asFences fs).filterMap (fun f => if f.2.2 then some (f.1, f.2.1) else none) else x.awaits })

/-! ## TURNOUT_SET (R154) -/

/-- A table may stand at an address: the allotment holds TABLE there. -/
def State.tableOk (s : State) (a t : Nat) : Bool :=
  match s.permOf a (t / pageSize) with
  | some v => bit v permTable && decide (t < apertureBase)
  | none => false

def specTurnoutSet : Spec where
  op := 0x0301
  permit := [1, 2, 3, 4]
  fields := fun s o =>
    let n := o.field 24 2
    let r := o.field 16 8
    [rg (decide (1 ≤ n) && decide (n ≤ 3) && (r % 4096 != 0 || !s.tableOk o.allot r)) 16, rg (decide (3 < n)) 24, rz o 26 2]
  body := fun s o => s.stage o (.turnout o.allot (o.field 16 8) (o.field 24 2))

def execTurnoutSet (q : Nat) (s : State) : Host.Outcome State Fault Refusal := unit 64 q s (order specTurnoutSet q [])

/-- TURNOUT_SET at its headgate commit: the translation cache is emptied. -/
def State.commitTurnout (s : State) (a root n : Nat) : State :=
  ((s.put (F.ALT_TURNOUT_LEVELS a) n).put (F.ALT_TURNOUT_ROOT a) (root / 4096)).dropWalks a

/-! ## ALT_STATUS (R141) -/

def State.altStatus (s : State) (a : Nat) : Bytes :=
  if s.isEmpty a then padTo 192 (toLe 1 a)
  else
    let x := s.allot a
    let map := (List.range 3).flatMap fun k => toLe 8 (s.get (F.ALT_TILE_MAP_MAP a k))
    padTo 192 (toLe 1 a ++ toLe 1 (s.altState a)
      ++ toLe 1 (s.get (F.ALT_STATE_SEALED a) + 2 * s.get (F.ALT_STATE_BUSY a) + 4 * s.get (F.ALT_STATE_CHIP_SLUICED a)
        + 16 * s.get (F.ALT_STATE_PARTY a))
      ++ toLe 1 (s.get (F.ALT_STATE_FUNCTION a)) ++ toLe 2 (s.get (F.ALT_STATE_TILES a)) ++ map.take 18
      ++ toLe 4 (s.get F.ALT_EPOCH_EPOCH) ++ toLe 2 x.rights.length ++ toLe 1 (s.turnoutLevels a)
      ++ toLe 1 (((List.range 63).filter fun q => s.queueLive (q + 1) && (s.queue (q + 1)).bound == a).length)
      ++ toLe 8 (s.turnoutRoot a) ++ toLe 6 s.wck.turn ++ [0, 0] ++ measOf x.active ++ measOf x.standby
      ++ toLe 4 (s.get (F.SLU_LEDGER_NEXT a)) ++ toLe 4 (s.get (F.SLU_LEDGER_ACK a))
      ++ toLe 1 (s.sluiceOf a) ++ toLe 1 (s.get (F.SLU_ALLOT_CAUSE a)) ++ toLe 2 x.keys.length ++ toLe 1 x.mods.length
      ++ [0, 0, 0] ++ toLe 6 (s.get (F.SEC_SESSION_SESSION_ID a)) ++ toLe 1 (s.get (F.SEC_SESSION_ACTIVE a)))

def specAltStatus : Spec where
  op := 0x0122
  underChip := true
  underMinimal := true
  need := fun _ o => [replyNeed 192 o]
  fields := fun _ o => replyForm o
  body := fun s o => (s.reply o (o.field 16 8) (s.altStatus o.allot)).done o

def execAltStatus (q : Nat) (s : State) : Host.Outcome State Fault Refusal := unit 64 q s (order specAltStatus q [])

/-! ## ALT_RELEASE (R140) -/

/-- Every plan of an allotment leaves the banks; its reservations are released. -/
def State.unloadPlans (s : State) (a : Nat) : State :=
  let s := s.setAllot a { s.allot a with active := none, standby := none, planTurn := 0, executed := 0, partialPoison := none }
  (s.coresOf a).foldl (fun s c => s.put (F.TIL_CORE_STATE_STANDBY_VALID c) 0) s

/-- An order that waits, or whose unit still works for it, is cancelled by the release. -/
def State.cancelOrd (s : State) (o : Ord) (item : Nat := 0) : State := s.finish o stCancelled item (detailOf 0x32 0)

/-- The whole orders among published units. -/
def ordersIn : Nat → Bytes → List Bytes
  | 0, _ => []
  | k + 1, b =>
    let n := 32 * unitsOf b
    if b.length < 32 ∨ b.length < n then [] else b.take n :: ordersIn k (b.drop n)

/-- The orders published and not consumed on a queue (log entry 90): read from its ring in allotment memory, or from `host`,
which begins with the units of a ring in host memory and is handed on without them. -/
def State.pendingOrders (s : State) (q : Nat) (host : Bytes) : List Bytes × Bytes × State :=
  let n := s.published q
  if s.on (F.DR_QBASE_LOC q) then
    match s.ringRead q n with
    | (.ok x, t) => (ordersIn n x, host, t)
    | (.error _, t) => ([], host, t)
  else (ordersIn n (padTo (32 * n) (host.take (32 * n))), host.drop (32 * n), s)

/-- Every pending order of a queue that is torn down is cancelled (R140). -/
def State.cancelPending (s : State) (q : Nat) (host : Bytes) : State × Bytes :=
  let p := s.pendingOrders q host
  (p.1.foldl (fun s b => (s.bump F.DR_COUNTS_CANCELLED).pushTally q ((s.mkOrd q b []).tally stCancelled 0 (detailOf 0x32 0) false false)) p.2.2,
    p.2.1)

/-- The queues of an allotment are torn down, in their order. -/
def State.tearQueues (s : State) (a : Nat) (host : Bytes) : State :=
  (((List.range 63).map (· + 1)).foldl (fun (r : State × Bytes) q =>
    if r.1.boundTo q a then
      let t := r.1.cancelPending q r.2
      (t.1.destroyQueue q, t.2)
    else r) (s, host)).1

/-- The units an allotment holds are released (Tables 14-2, R375, R394, R433, R445). -/
def State.releaseUnits (s : State) (a : Nat) : State :=
  let s := (List.range 8).foldl (fun s p => if s.get (F.ING_PORT_STATE_ALLOT p) = a then s.portOff p else s) s
  let s := (List.range 4).foldl (fun s p => if s.get (F.VIS_STATE_ALLOT p) = a then
      (match (s.vis p).run with | some r => s.cancelOrd r.ord r.frame | none => s).visFree p
    else s) s
  let s := (List.range 2).foldl (fun s b => if s.get (F.BSN_STATE_ALLOT b) = a then
      let s := match (s.basin b).run with | some r => s.cancelOrd r.ord r.sweep | none => s
      (match (s.basin b).loading with | some l => s.cancelOrd l.1 | none => s).bsnFree b
    else s) s
  let s := match s.bne with
    | some j => if j.ord.allot = a then s.bneIdle.cancelOrd j.ord else s
    | none => s
  let s := match s.sym with
    | some j => if j.ord.allot = a then { s with sym := none }.cancelOrd j.ord else s
    | none => s
  (s.clearSlots (fun o => o == a)).endSession a

/-- Orders naming the allotment that wait for a unit, for the headgate or for a fallow turn end CANCELLED (log entry 66); the allotment
whose reopening is so given up is CLOSED again (Table 19-3). -/
def State.cancelWaiting (s : State) (a : Nat) : State :=
  let s := s.switchesBegun
  let late := s.inflight.filter fun x => x.allot == a && !x.took
    && (s.waiting.any (·.id == x.id) || s.staged.any (·.ord.id == x.id) || s.fallowDue.any (·.ord.id == x.id)
      || s.reopens.any (·.ord.id == x.id))
  let out (o : Ord) : Bool := !(late.any fun x => x.id == o.id)
  let s := if s.reopens.any fun r => r.scope == 2 && !out r.ord then s.put (F.SLU_ALLOT_STATE a) 1 else s
  late.foldl (fun s x => s.cancelOrd x) { s with
    waiting := s.waiting.filter out, staged := s.staged.filter fun x => out x.ord
    fallowDue := s.fallowDue.filter fun x => out x.ord, reopens := s.reopens.filter fun x => out x.ord }

/-- ALT_RELEASE takes effect at its grant. Its rights are revoked at the next headgate commit, as every table switches
there (R147). -/
def releaseBody (s : State) (o : Ord) : State :=
  let a := o.allot
  let s := ((s.took o).unloadPlans a).cancelWaiting a
  let s := s.tearQueues a o.host
  let s := s.releaseUnits a
  let s := (s.clearRegs (0x90000 + 0x200 * a) (0x90200 + 0x200 * a)).put (F.ALT_STATE_BUSY a) 1
  let s := s.setAllot a { s.allot a with keys := [], mods := [], release := some o, awaits := [] }
  s.stage o (.rights a [(0, 196608, 0, true)])

def specAltRelease : Spec where
  op := 0x0121
  q0 := true
  permit := [1, 2, 6]
  changes := true
  fields := fun _ o => [rz o 16 12]
  body := releaseBody

/-- `host`: the units published and not consumed in the allotment's rings in host memory, queue by queue. -/
def execAltRelease (q : Nat) (host : Bytes) (s : State) : Host.Outcome State Fault Refusal := unit 64 q s (order specAltRelease q host)

/-- Every step of the teardown is complete: rights revoked, tallies of the queues flushed, sealed granules scrubbed. -/
def State.releaseDone (s : State) (a : Nat) (o : Ord) : Bool :=
  !(s.staged.any fun x => x.ord.id == o.id) && (s.allot a).rights.isEmpty
    && !(((List.range 63).map (· + 1)).any fun q => (s.queue q).bound == a && (s.queue q).closing)
    && !((s.allot a).awaits.any fun x => s.waits x.1 x.2)

/-- The spent bits of a tile's cores end with the allotment (R280). -/
def State.clearSpent (s : State) (t : Nat) : State :=
  (List.range 32).foldl (fun s i => s.setCore (32 * t + i) { s.core (32 * t + i) with spent := [] }) s

/-- The release ends (R140, Table 19-3): the tiles are zeroed and freed with both banks, the allotment is EMPTY, its
sluice and those of its tiles open, unless the chip's holds them (R456). Its book stays until the next claim (R468). -/
def releaseEnd (a : Nat) (s : State) : State :=
  match (s.allot a).release with
  | none => s
  | some o =>
    let s := (List.range 64).foldl (fun s q => if (s.queue q).bound = a then s.reapQueue q else s) s
    if !s.releaseDone a o then s
    else
      let ts := s.tilesOf a
      let s := ts.foldl (fun s t => (s.blankTile t).clearSpent t) s
      let s := if s.chipClosed then s else
        { ts.foldl (fun s t => (s.markOpen 1 t).setMapBit F.SLU_TILE_CLOSED_MAP t false) s with
          closed := s.closed.filter fun c => !(c.scope == 0 && ts.contains (c.subj / 32)) && !(c.scope == 1 && ts.contains c.subj) }
      let s := ((s.setAllot a { Allot.reset with ledger := (s.allot a).ledger }).markOpen 2 a).dropWalks a
      let s := (s.clearRegs (0x40100 + 0x100 * a) (0x40130 + 0x100 * a)).setReg (0x88000 + 8 * a) 0
      let s := ((s.put (F.SLU_ALLOT_STATE a) 0).put (F.SLU_ALLOT_CHIP a) 0).put (F.SLU_ALLOT_CAUSE a) 0
      s.noteScrub.done o

def execAltReleaseEnd (a : Nat) (s : State) : Host.Outcome State Fault Refusal := unit 16 a s (releaseEnd a)

/-! ## Functions (R138) -/

/-- Every queue bound to the allotments of a function halts; no tally is written. -/
def State.functionReset (s : State) (fn : Nat) : State :=
  ((List.range 63).map (· + 1)).foldl (fun s q =>
    if s.queueLive q && decide ((s.queue q).bound < 16) && s.get (F.ALT_STATE_FUNCTION (s.queue q).bound) == fn then s.haltQueue q 0x34 else s) s

def execVfFlr (fn : Nat) (s : State) : Host.Outcome State Fault Refusal :=
  unit 32 fn s fun s => if fn = 0 then s else s.functionReset fn

def execVfEnableClear (s : State) : Host.Outcome State Fault Refusal :=
  run s fun s => { ((List.range 31).map (· + 1)).foldl State.functionReset s with vfEnabled := [] }

/-! ## BAR2 (R136, R137, R151, R158, R310) -/

/-- The allotment whose address space a function's window presents. -/
def State.window (s : State) (fn : Nat) : Option Nat :=
  if fn = 0 then
    let a := s.get F.ALT_PF_WINDOW_ALLOT
    if a < 16 ∧ s.isEmpty a = false then some a else none
  else s.allotOfFn fn

/-- One page of a window: its physical page, from the cache or by a walk; the permissions are tested on each use. -/
def State.bar2Page (s : State) (a addr b : Nat) : Except Nat Nat × State :=
  let page := addr / pageSize
  let hit := s.tcache.find? fun x => x.1 == a && x.2.1 == page
  let w : Except Nat Nat := match hit with
    | some x => .ok x.2.2
    | none => s.walkNow a (page * pageSize) (fun v => bit v b || bit v permSealed)
  let s := if hit.isSome then s else s.readTable a (page * pageSize) 1 (fun v => bit v b || bit v permSealed)
  match w with
  | .error c => (.error c, s)
  | .ok p =>
    match s.walkEnd a p (fun v => bit v b || bit v permSealed) with
    | .error c => (.error c, s)
    | .ok _ => (.ok p, if hit.isSome then s else { s with tcache := s.tcache ++ [(a, page, p)] })

/-- The pieces of a BAR2 access: physical address, offset, length, sealed; or the first fault with its address. -/
def State.bar2Pieces (s : State) (a b : Nat) : List (Nat × Nat × Nat) → Except (Nat × Nat) (List (Nat × Nat × Nat × Bool)) × State
  | [] => (.ok [], s)
  | (lo, off, len) :: r =>
    match s.bar2Page a lo b with
    | (.error c, t) => (.error (lo, c), t)
    | (.ok p, t) =>
      let seal_ := match s.permOf a (p / pageSize) with | some v => bit v permSealed | none => false
      match State.bar2Pieces t a b r with
      | (.error e, u) => (.error e, u)
      | (.ok l, u) => (.ok ((p + lo % pageSize, off, len, seal_) :: l), u)

/-- An access that reaches sealed granules is logged and counted once (R151). -/
def State.noteSealed (s : State) (a addr write : Nat) (l : List (Nat × Nat × Nat × Bool)) : State :=
  match l.find? fun x => x.2.2.2 with
  | some x => (s.logCause 0x106 ((addr + x.2.1) % 2 ^ 48 + write * 2 ^ 56) a).bump (F.ALT_BAR2_COUNTS_SEALED a)
  | none => s

/-- The bytes a BAR2 read returns for one piece: zeros for a block that cannot be used (R310). -/
def State.bar2Bytes (s : State) (p n : Nat) : Bytes :=
  (List.range n).map fun i => if (s.blockEcc ((p + i) / 64)).usable then s.rd (p + i) else 0

/-- The function answers memory requests; else what it completes them with. -/
def State.bar2Up (s : State) (fn : Nat) : Bool := s.isReady && (fn == 0 || s.vfEnabled.contains fn)

def bar2Read (fn addr len : Nat) (s : State) : State :=
  if s.linkLost then s
  else if !s.bar2Up fn then s.emit (.unsupported fn)
  else match s.window fn with
    | none => (s.logCause 0x105 (addr % 2 ^ 48 + 0x50 * 2 ^ 48)).emit (.completerAbort fn)
    | some a =>
      match s.bar2Pieces a permHostRead (pagesOf addr len) with
      | (.error e, s) => ((s.walkFault a e.1 e.2 2).bump (F.ALT_BAR2_COUNTS_FAULTS a)).emit (.completerAbort fn)
      | (.ok l, s) =>
        let s := s.noteSealed a addr 0 l
        let data := l.flatMap fun x => if x.2.2.2 then List.replicate x.2.2.1 0 else s.bar2Bytes x.1 x.2.2.1
        let bad := l.any fun x => !x.2.2.2 && (blocksOf x.1 x.2.2.1).any fun b => !(s.blockEcc b).usable
        let s := l.foldl (fun s x => if x.2.2.2 then s else (s.readFor x.1 x.2.2.1 1 a).2.2) s
        s.emit (if bad then .completionEp fn data else .completion fn data)

def execBar2Read (fn addr len : Nat) (s : State) : Host.Outcome State Fault Refusal := unit 32 fn s (bar2Read fn addr len)

def bar2Write (fn addr : Nat) (data : Bytes) (s : State) : State :=
  if !s.bar2Up fn then s
  else match s.window fn with
    | none => s.logCause 0x105 (addr % 2 ^ 48 + 0x50 * 2 ^ 48)
    | some a =>
      match s.bar2Pieces a permHostWrite (pagesOf addr data.length) with
      | (.error e, s) => (s.walkFault a e.1 e.2 3).bump (F.ALT_BAR2_COUNTS_FAULTS a)
      | (.ok l, s) =>
        let s := s.noteSealed a addr 1 l
        l.foldl (fun s x => if x.2.2.2 then s else (s.write x.1 (slice data x.2.1 x.2.2.1) 0 a).2) s

def execBar2Write (fn addr : Nat) (data : Bytes) (s : State) : Host.Outcome State Fault Refusal := unit 32 fn s (bar2Write fn addr data)

/-! ## Scrubbing (R148, R149) -/

/-- Granules wait for their scrub in stack `st`. -/
def State.scrubsLeft (s : State) (st : Nat) : Bool := s.scrubs.any fun x => x.1 / 24576 == st

/-- The first granule in the order of a stack is scrubbed to zero by the stack's controller. A stack that was switched on joins
the working units once all its granules are scrubbed (R486). -/
def granuleScrubbed (st : Nat) (s : State) : State :=
  match (if s.working (144 + st) || (s.rampOf (144 + st) 2).isSome then s.scrubs.find? fun x => x.1 / 24576 == st else none) with
  | none => s
  | some x =>
    let rest (l : List (Nat × Nat)) : List (Nat × Nat) :=
      l.filterMap fun y => if y = x then (if y.2 ≤ 1 then none else some (y.1 + 1, y.2 - 1)) else some y
    let s := ({ s with scrubs := rest s.scrubs }.zeroMem (x.1 * pageSize) pageSize).bump F.ALT_SCRUB_DONE
    let s := match s.rampOf (144 + st) 2 with
      | some _ => if s.scrubsLeft st then s else s.switchDone (144 + st)
      | none => s
    s.noteAllRights

def execGranuleScrubEnd (stack : Nat) (s : State) : Host.Outcome State Fault Refusal := unit 8 stack s (granuleScrubbed stack)

end Sys2Proof.Machine
end

