-- ==== Sys2Proof/Machine/Ring.lean ====
section
/-! DEFINITION. Ring arithmetic (chapter 10): modulus entries, the fixed reduction, negacyclic transforms,
automorphisms, basis conversions, the digit decomposition; tags and their check byte (Table 11-2). -/

namespace Sys2Proof.Machine

/-! ## Modulus entries (Table 10-1) -/

/-- The entry that 16 bytes spell: terms are (subtracted, exponent). -/
def modulusOf (b : Bytes) : Modulus :=
  let term (t : Nat) : Option (Bool × Nat) :=
    let v := fieldAt b (5 + t) 1
    if bit v 6 then some (bit v 5, bits v 0 5) else none
  { raw := b, q := fieldAt b 0 4, k := bits (fieldAt b 4 1) 0 6, terms := [0, 1, 2].filterMap term, psi := fieldAt b 8 4,
    maxlog := bits (fieldAt b 12 1) 0 5 }

def Modulus.none : Modulus := ⟨[], 0, 0, [], 0, 0⟩

/-- The signed sum of the present terms. -/
def Modulus.net (m : Modulus) : Int := (m.terms.map fun t => if t.1 then -(2 ^ t.2 : Int) else 2 ^ t.2).sum

/-- Table 10-2: the cause that refuses an entry. -/
def modRefusal (b : Bytes) : Option Nat :=
  let m := modulusOf b
  let term (t : Nat) : Nat := fieldAt b (5 + t) 1
  let resv := bits (fieldAt b 4 1) 6 2 != 0 || [0, 1, 2].any (fun t => bit (term t) 7 || (!bit (term t) 6 && term t != 0))
    || bits (fieldAt b 12 1) 5 3 != 0 || bits (fieldAt b 13 1) 6 2 != 0 || fieldAt b 14 2 != 0
  if resv || decide (m.k < 24) || decide (32 < m.k) || !(m.terms.map (·.2)).Nodup || m.terms.any (fun t => decide (m.k - 12 < t.2))
    || decide ((2 : Int) ^ m.k + m.net ≠ m.q) || m.q == 0 then some 0x80
  else if decide (m.maxlog < 10) || decide (17 < m.maxlog) || (m.q - 1) % 2 ^ (m.maxlog + 1) != 0 || decide (m.q ≤ m.psi)
    || powMod 32 m.psi (2 ^ m.maxlog) m.q != m.q - 1 then some 0x81
  else none

/-! ## Reduction (R253) -/

/-- One fold: h × 2^k + l ≡ l − h × t. -/
def foldOnce (k : Nat) (t x : Int) : Int := x % 2 ^ k - x / 2 ^ k * t

/-- The fixed sequence of R253: four folds and both corrections. -/
def reduceLane (m : Modulus) (x : Nat) : Int :=
  let f := foldOnce m.k m.net
  let y := f (f (f (f x)))
  let y := if y < 0 then y + m.q else y
  if (m.q : Int) ≤ y then y - m.q else y

/-- The canonical residue, which R253 names as the result of the sequence. -/
def mulQ (q a b : Nat) : Nat := a * b % q
def addQ (q a b : Nat) : Nat := (a + b) % q
def subQ (q a b : Nat) : Nat := (a + q - b % q) % q
/-- x^(q−2) mod q (R263). -/
def invQ (q x : Nat) : Nat := powMod 32 x (q - 2) q

/-! ## Transforms (R256) -/

/-- `i` with its `m` low bits reversed. -/
def brv : Nat → Nat → Nat
  | 0, _ => 0
  | m + 1, i => i % 2 * 2 ^ m + brv m (i / 2)

/-- ψ_m of an entry. -/
def Modulus.root (md : Modulus) (m : Nat) : Nat := powMod 32 md.psi (2 ^ (md.maxlog - m)) md.q

/-- The values of a polynomial modulo X^(2^m) − ψ^e at the roots of that binomial, in the order of R256; `n2` is the
order of ψ. -/
def nttTree (q psi n2 : Nat) : Nat → Nat → List Nat → List Nat
  | 0, _, a => a
  | m + 1, e, a =>
    let lo := a.take (2 ^ m)
    let hi := (a.drop (2 ^ m)).map (mulQ q (powMod 32 psi (e / 2) q))
    nttTree q psi n2 m (e / 2) ((lo.zip hi).map fun x => addQ q x.1 x.2)
      ++ nttTree q psi n2 m (e / 2 + n2 / 2) ((lo.zip hi).map fun x => subQ q x.1 x.2)

/-- NTT: A(ψ_m^(2 brv(i) + 1)) at position i. -/
def nttQ (md : Modulus) (m : Nat) (a : List Nat) : List Nat := nttTree md.q (md.root m) (2 ^ (m + 1)) m (2 ^ m) a

/-- The inverse of `nttTree`, not scaled. -/
def inttTree (q psi n2 : Nat) : Nat → Nat → List Nat → List Nat
  | 0, _, a => a
  | m + 1, e, a =>
    let l := inttTree q psi n2 m (e / 2) (a.take (2 ^ m))
    let r := inttTree q psi n2 m (e / 2 + n2 / 2) (a.drop (2 ^ m))
    let ci := powMod 32 psi (n2 - e / 2) q
    (l.zip r).map (fun x => addQ q x.1 x.2) ++ (l.zip r).map (fun x => mulQ q ci (subQ q x.1 x.2))

/-- INTT, scaled by N^(q−2). -/
def inttQ (md : Modulus) (m : Nat) (a : List Nat) : List Nat :=
  (inttTree md.q (md.root m) (2 ^ (m + 1)) m (2 ^ m) a).map (mulQ md.q (invQ md.q (2 ^ m % md.q)))

/-- R260: the source position of output position i of AUTO. -/
def autoFrom (m g i : Nat) : Nat := brv m (((2 * brv m i + 1) * g % 2 ^ (m + 1)) / 2)

/-! ## Basis operations (Table 10-4) -/

/-- The centred lift. -/
def centred (q x : Nat) : Int := if x ≤ (q - 1) / 2 then x else (x : Int) - q

/-- An integer modulo q. -/
def modQ (q : Nat) (x : Int) : Nat := (x % (q : Int)).toNat

/-- BCONV of one position: inputs with their moduli, an output modulus. -/
def bconvAt (ins : List (Nat × Nat)) (p : Nat) : Nat :=
  let bigQ := (ins.map (·.1)).prod
  ins.foldl (fun acc x =>
    let qh := bigQ / max 1 x.1
    (acc + mulQ x.1 x.2 (invQ x.1 (qh % x.1)) * (qh % p)) % p) 0

/-- RESCALE of one position and limb i: x_i, the last limb and its modulus. -/
def rescaleAt (qi xi ql xl : Nat) : Nat := mulQ qi (subQ qi xi (modQ qi (centred ql xl))) (invQ qi (ql % qi))

/-- The digits of a centred value in base 2^b: d of them (GDECOMP). -/
def gdigits (b : Nat) : Nat → Int → List Int
  | 0, _ => []
  | 1, v => [v]
  | d + 2, v =>
    let r := v % 2 ^ b
    let δ := if r < 2 ^ (b - 1) then r else r - 2 ^ b
    δ :: gdigits b (d + 1) ((v - δ) / 2 ^ b)

/-! ## Tags (Table 11-2) -/

/-- One bit of CRC-8 with polynomial 0x07. -/
def crc8Bit (c : Nat) : Nat := if 128 ≤ c then Nat.xor (2 * c - 256) 7 else 2 * c

/-- CRC-8 of a byte string. -/
def crc8 (b : Bytes) : Nat :=
  b.foldl (fun c x => crc8Bit (crc8Bit (crc8Bit (crc8Bit (crc8Bit (crc8Bit (crc8Bit (crc8Bit (Nat.xor c x.toNat))))))))) 0

/-- A tag with its check byte from bits [55:0]. -/
def tagOf (v : Nat) : BitVec 64 := BitVec.ofNat 64 (v % 2 ^ 56 + 2 ^ 56 * crc8 (toLe 7 v))

/-- Bits [55:0] of a tag from its fields. -/
def tagBits (scheme level scale key logN limbs party : Nat) (isSealed poison : Bool) : Nat :=
  scheme + 2 ^ 4 * level + 2 ^ 10 * scale + 2 ^ 18 * key + 2 ^ 30 * logN + 2 ^ 35 * limbs + 2 ^ 41 * party
    + 2 ^ 45 * b2n isSealed + 2 ^ 46 * b2n poison

end Sys2Proof.Machine
end

