-- ==== Sys2Proof/Machine/Ingress.lean ====
section
/-! DEFINITION. Camera ports, the image pipeline and the sealed ingress encryptor (chapter 14). -/

namespace Sys2Proof.Machine

/-! ## The configuration record (Table 14-3) -/

def icLanes (c : Bytes) : Nat := bits (fieldAt c 0 1) 0 3
def icSealed (c : Bytes) : Bool := bit (fieldAt c 0 1) 3
def icBind (c : Bytes) : Bool := bit (fieldAt c 0 1) 4
def icNexp (c : Bytes) : Nat := bits (fieldAt c 1 1) 0 2
def icWidth (c : Bytes) : Nat := bits (fieldAt c 2 2) 0 14
def icHeight (c : Bytes) : Nat := bits (fieldAt c 4 2) 0 14
def icVc (c : Bytes) (k : Nat) : Nat := bits (fieldAt c (6 + 2 * k) 1) 0 4
def icDt (c : Bytes) (k : Nat) : Nat := bits (fieldAt c (7 + 2 * k) 1) 0 6
def icMosaic (c : Bytes) : Nat := bits (fieldAt c 12 1) 0 2
def icPhase (c : Bytes) : Nat := bits (fieldAt c 12 1) 4 4
/-- Output bits per component: MOSAIC 3 passes UINT8 (log entry 20). -/
def icOutBits (c : Bytes) : Nat := if bit (fieldAt c 13 1) 0 ∨ icMosaic c = 3 then 8 else 16
def icShift (c : Bytes) : Nat := bits (fieldAt c 14 1) 0 5
def icNbuf (c : Bytes) : Nat := bits (fieldAt c 15 1) 0 4
def icTimeout (c : Bytes) : Nat := fieldAt c 16 1
def icBase (c : Bytes) : Nat := fieldAt c 24 8
def icStride (c : Bytes) : Nat := fieldAt c 32 4
def icPitch (c : Bytes) : Nat := fieldAt c 36 4
def icTables (c : Bytes) : Nat := fieldAt c 40 8
def icDefects (c : Bytes) : Nat := bits (fieldAt c 48 2) 0 13

/-- The mosaic period. -/
def icPeriod (c : Bytes) : Nat := match icMosaic c with | 0 => 2 | 3 => 1 | _ => 4

/-- Bits per sample of a data type; RGB888 and YUV422 carry 24 and 16 bits per pixel (R362). -/
def dtBits (dt : Nat) : Option Nat :=
  match dt with
  | 0x2B => some 10
  | 0x2C => some 12
  | 0x2D => some 14
  | 0x2E => some 16
  | 0x2F => some 20
  | 0x24 => some 24
  | 0x1E => some 16
  | _ => none

def dtRaw (dt : Nat) : Bool := decide (0x2B ≤ dt) && decide (dt ≤ 0x2F)

/-- Components of an output pixel. -/
def icComps (c : Bytes) : Nat :=
  match icMosaic c with
  | 0 => 3
  | 3 => if icDt c 0 = 0x1E then 2 else 3
  | _ => 4

/-- Bytes of one line. -/
def icLineBytes (c : Bytes) : Nat := icWidth c * (dtBits (icDt c 0)).getD 0 / 8

/-! ## ING_PORT_CONFIG (R360) -/

/-- The field checks of Table 14-3, in byte order; the record starts at byte 32 of the order. -/
def icChecks (s : State) (o : Ord) : List (Bool × Why) :=
  let c := o.data 32 96
  let n := icNexp c
  let m := icMosaic c
  let raw (off b lo w : Nat) : Bool × Why := (bits (fieldAt c off b) lo w != 0, resvAt (32 + off + lo / 8) (lo % 8))
  let exps := [0, 1, 2].flatMap fun k =>
    [rg (decide (n ≤ k) && icVc c k != 0) (38 + 2 * k), raw (6 + 2 * k) 1 4 4,
     rg (if k < n then (dtBits (icDt c k)).isNone || (m != 3 && (!dtRaw (icDt c k) || icDt c k != icDt c 0)) else icDt c k != 0)
       (39 + 2 * k), raw (7 + 2 * k) 1 6 2]
  [rg (icLanes c != 1 && icLanes c != 2 && icLanes c != 4) 32, rg (icSealed c != s.isSealed o.allot) 32 3, raw 0 1 5 3,
   rg (n == 0 || (m == 3 && decide (1 < n))) 33, raw 1 1 2 6,
   rg (decide (icWidth c < 16) || decide (8192 < icWidth c) || icWidth c % icPeriod c != 0) 34, raw 2 2 14 2,
   rg (decide (icHeight c < 16) || decide (8192 < icHeight c) || icHeight c % icPeriod c != 0) 36, raw 4 2 14 2] ++ exps ++
  [rg (m == 3 && dtRaw (icDt c 0)) 44, raw 12 1 2 2, rg (m == 0 && decide (4 ≤ icPhase c)) 44 4, raw 13 1 1 7,
   rg (decide (16 < icShift c)) 46, raw 14 1 5 3, rg (icNbuf c == 0 || decide (8 < icNbuf c)) 47, raw 15 1 4 4,
   rg (icTimeout c == 0) 48, rz o 49 7, rg (icBase c % 2 ^ 48 % 128 != 0) 56, rzb o 56 48 16, rg (icStride c % 128 != 0) 64,
   rg (if icSealed c then icPitch c != 0 else icPitch c % 128 != 0) 68,
   rg (if m = 3 then icTables c % 2 ^ 48 != 0 else icTables c % 2 ^ 48 % 128 != 0) 72, rzb o 72 48 16,
   rg (decide (4096 < icDefects c)) 80, raw 48 2 13 3, rz o 82 46]

def ipState (s : State) (p : Nat) : Nat := s.get (F.ING_PORT_STATE_STATE p)
def ipAllot (s : State) (p : Nat) : Nat := s.get (F.ING_PORT_STATE_ALLOT p)
def ipPort (o : Ord) : Nat := o.field 16 1

def whyPortOwned : Why := whyOpen stState 0xC0
def whyPortState : Why := whyOpen stState 0xC1

/-- The port named is bound to another allotment. -/
def ipForeign (s : State) (o : Ord) : Bool :=
  decide (ipPort o < 8) && ipState s (ipPort o) != 0 && ipAllot s (ipPort o) != o.allot

/-- The stack controllers of an allotment's range, as its tables stand; none for a range that does not translate. -/
def State.stacksAt (s : State) (a addr n : Nat) : List Nat :=
  match s.translate a addr n (fun _ => true) with
  | .ok l => ((List.range 8).filter fun k => l.any fun x => stackOf x.1 == k).map (144 + ·)
  | .error _ => []

/-- Units a port needs (R21, R544), in the order of its row of Table 1-3: the receiver and unit 192; when sealed, the well
and the stacks of the sealed extent of external memory that the order names, `n` bytes at `addr` (log entry 93). -/
def ipUnits (s : State) (o : Ord) (isSealed : Bool) (addr n : Nat) : Bool × Why :=
  let l := [184 + ipPort o, 192] ++ if isSealed then 260 :: s.stacksAt o.allot addr n else []
  (decide (ipPort o < 8) && (s.firstMissing l).isSome, unitMissing ((s.firstMissing l).getD 0))

/-- The buffers of a configuration (R361). -/
def icExtent (c : Bytes) : Nat := icNbuf c * icStride c

def portConfig (s : State) (o : Ord) : State :=
  let p := ipPort o
  let s := s.setIng p { s.ing p with cfg := o.data 32 96 }
  ((s.put (F.ING_PORT_STATE_STATE p) 1).put (F.ING_PORT_STATE_ALLOT p) o.allot).done o

def specIngPortConfig : Spec where
  op := 0x0600
  permit := [1, 2, 3, 4]
  units := 4
  state := fun s o =>
    [ipUnits s o (s.isSealed o.allot) (icBase (o.data 32 96)) (icExtent (o.data 32 96)), (ipForeign s o, whyPortOwned),
     (decide (ipPort o < 8) && decide (1 < ipState s (ipPort o)), whyPortState)]
  fields := fun s o => [rg (decide (7 < ipPort o)) 16, rz o 17 11] ++ icChecks s o
  body := portConfig

def execIngPortConfig (q : Nat) (s : State) : Host.Outcome State Fault Refusal := unit 64 q s (order specIngPortConfig q [])

/-! ## ING_START (R361) -/

/-- The active key slot of a port. -/
def State.ipKey (s : State) (p : Nat) : Option IngKeySlot :=
  if s.get (F.ING_PORT_STATE_ACTIVE_KEY p) = 0 then (s.ing p).key0 else (s.ing p).key1

/-- Output values of a frame. -/
def icValues (c : Bytes) : Nat := icWidth c * icHeight c * icComps c

/-- Ciphertexts of a frame under a key. -/
def icCts (c : Bytes) (k : IngKeySlot) : Nat := cdiv (icValues c) (2 ^ (k.logN - 1))

/-- The frame size (R367, R369). -/
def icFrameSize (c : Bytes) (k : Option IngKeySlot) : Nat :=
  if icSealed c then
    match k with
    | some k => icCts c k * (8 * 2 ^ k.logN * k.limbs)
    | none => 0
  else icHeight c * icPitch c

/-- The port is READY and bound to the order's allotment. -/
def ipReady (s : State) (o : Ord) : Bool :=
  decide (ipPort o < 8) && ipState s (ipPort o) == 1 && ipAllot s (ipPort o) == o.allot

/-- R361: lengths that the configuration gives; the field is not one of the order's (log entry 19). -/
def ipShort (s : State) (o : Ord) : Bool :=
  let p := ipPort o
  let c := (s.ing p).cfg
  ipReady s o && !(icSealed c && (s.ipKey p).isNone) &&
    (decide (icStride c < icFrameSize c (s.ipKey p)) || (!icSealed c && decide (icPitch c < icWidth c * (icComps c * icOutBits c / 8))))

def portStart (s : State) (o : Ord) : State :=
  let p := ipPort o
  let x := s.ing p
  let c := x.cfg
  let ok (v : Nat) : Bool := bit v permIngress && (!icSealed c || bit v permSealed)
  let s := s.readTable o.allot (icBase c) (icExtent c) ok
  match s.translate o.allot (icBase c) (icExtent c) ok with
  | .error (at_, w) => s.failWalk o ⟨stWalk, w, at_ / pageSize, 0⟩
  | .ok l =>
    let n := if icMosaic c = 3 then 0 else 0x1400 + 4 * icDefects c
    let s := s.orderTable o o.allot (icTables c) n permHostRead
    match s.orderWalk o o.allot (icTables c) n permHostRead with
    | .error w => s.failWalk o w
    | .ok t =>
      let r := s.orderRead t o.allot
      if !r.2.1 then r.2.2.fail o whyEcc
      else
        let s := r.2.2.setIng p { x with pages := pageMap (icBase c) l [], calib := r.1, count := 0, frames := [], fifo := 0 }
        let s := (s.put (F.ING_PORT_STATE_VALID p) 0).put (F.ING_PORT_STATE_NEXT_BUF p) 0
        (s.put (F.ING_PORT_STATE_STATE p) 2).done o

def specIngStart : Spec where
  op := 0x0601
  permit := [1, 2, 3, 4]
  need := fun s o => [(ipShort s o, whyOpen stBadLength 0x24)]
  state := fun s o =>
    [ipUnits s o (s.isSealed o.allot) (icBase (s.ing (ipPort o)).cfg) (icExtent (s.ing (ipPort o)).cfg),
     (ipForeign s o, whyPortOwned),
     (decide (ipPort o < 8) && ipState s (ipPort o) != 1, whyPortState),
     (ipReady s o && icSealed (s.ing (ipPort o)).cfg && (s.ipKey (ipPort o)).isNone, whyOpen stState 0xC3)]
  fields := fun _ o => [rg (decide (7 < ipPort o)) 16, rz o 17 11]
  body := portStart

def execIngStart (q : Nat) (s : State) : Host.Outcome State Fault Refusal := unit 64 q s (order specIngStart q [])

/-! ## ING_STOP -/

def portStop (s : State) (o : Ord) : State :=
  let p := ipPort o
  if bit (o.field 17 1) 0 then (s.portOff p).done o
  else (((s.abortFrames p).put (F.ING_PORT_STATE_VALID p) 0).put (F.ING_PORT_STATE_STATE p) 1).done o

def specIngStop : Spec where
  op := 0x0602
  permit := [1, 2, 3, 4]
  state := fun s o =>
    [(ipForeign s o, whyPortOwned),
     (decide (ipPort o < 8) && !(decide (2 ≤ ipState s (ipPort o)) && decide (ipState s (ipPort o) ≤ 4)), whyPortState)]
  fields := fun _ o => [rg (decide (7 < ipPort o)) 16, rzb o 17 1 7, rz o 18 10]
  body := portStop

def execIngStop (q : Nat) (s : State) : Host.Outcome State Fault Refusal := unit 64 q s (order specIngStop q [])

/-! ## ING_KEY_SET (R371, R372) -/

def ikLogN (o : Ord) : Nat := bits (o.field 50 1) 0 5
def ikLimbs (o : Ord) : Nat := bits (o.field 51 1) 0 4
def ikModslot (o : Ord) : Nat := bits (o.field 52 1) 0 6
def ikBytes (o : Ord) : Nat := 8 * 2 ^ ikLogN o * ikLimbs o
def ikDest (o : Ord) : Nat := bits (o.field 40 8) 0 48

/-- The modulus entry of an allotment; q = 0 when invalid. -/
def State.modAt (s : State) (a i : Nat) : Modulus := smGet Modulus.none (s.allot a).mods i
/-- A range of modulus indices is valid with transforms of log2 size `m`. -/
def State.modsOk (s : State) (a first n m : Nat) : Bool :=
  decide (first + n ≤ 64) && (List.range n).all fun i => s.on (F.RNE_MODTAB_VALID a (first + i)) && decide (m ≤ (s.modAt a (first + i)).maxlog)

def keySet (s : State) (o : Ord) : State :=
  let p := ipPort o
  let a := o.allot
  let s := s.orderTable o a (bits (o.field 32 8) 0 48) (ikBytes o) permHostRead
  match s.orderWalk o a (bits (o.field 32 8) 0 48) (ikBytes o) permHostRead with
  | .error w => s.failWalk o w
  | .ok src =>
    let s := s.readTable a (ikDest o) (ikBytes o) (fun v => bit v permSealed && bit v permPlanRead)
    match s.translate a (ikDest o) (ikBytes o) (fun v => bit v permSealed && bit v permPlanRead) with
    | .error (at_, c) => s.failWalk o ⟨stWalk, c, at_ / pageSize, 0⟩
    | .ok dst =>
      let r := s.orderRead src a
      let s := r.2.2
      if !r.2.1 then s.fail o whyEcc
      else if sha384 r.1 ≠ o.data 56 48 then
        (s.orderWrite dst (List.replicate (ikBytes o) 0) 0 a).2.fail o (whyOpen stNoRight 0xC2)
      else
        let s := (s.orderWrite dst r.1 0 a).2
        let k : IngKeySlot := ⟨ikDest o, pageMap (ikDest o) dst [], bits (o.field 48 2) 0 12, ikLogN o, ikLimbs o, ikModslot o,
          bits (o.field 53 1) 0 6, o.field 54 1, bits (o.field 55 1) 1 1⟩
        s.stage o (.ingKey p (o.field 17 1) a k (bit (o.field 55 1) 0))

def specIngKeySet : Spec where
  op := 0x0603
  permit := [1, 2, 3, 4]
  units := 4
  right := fun _ o => [(!o.isSealed, whyRight 0x2A 0)]
  state := fun s o =>
    [ipUnits s o true (ikDest o) (ikBytes o), (ipForeign s o, whyPortOwned),
     (decide (ipPort o < 8) && (ipState s (ipPort o) == 0 || ipState s (ipPort o) == 5), whyPortState),
     (decide (ipPort o < 8) && ipState s (ipPort o) != 1 && s.get (F.ING_PORT_STATE_ACTIVE_KEY (ipPort o)) == o.field 17 1,
       whyOpen stState 0xC4)]
  fields := fun s o =>
    [rg (decide (7 < ipPort o)) 16, rg (decide (1 < o.field 17 1)) 17, rz o 18 10,
     rg (o.field 32 6 % 128 != 0) 32, rz o 38 2, rg (o.field 40 6 % 128 != 0) 40, rz o 46 2, rzb o 48 12 4,
     rg (ikLogN o != 15 && ikLogN o != 16) 50, rzb o 50 5 3, rg (ikLimbs o == 0 || decide (12 < ikLimbs o)) 51, rzb o 51 4 4,
     rg (decide (o.allot < 16) && !s.modsOk o.allot (ikModslot o) (ikLimbs o) (ikLogN o)) 52, rzb o 52 6 2, rzb o 53 6 2,
     rg (decide (o.field 54 1 < 8) || decide (60 < o.field 54 1)) 54, rzb o 55 2 6, rz o 104 24]
  body := keySet

def execIngKeySet (q : Nat) (s : State) : Host.Outcome State Fault Refusal := unit 64 q s (order specIngKeySet q [])

/-- The commit of a key slot (R372). A port that has left its allotment keeps nothing. -/
def State.commitIngKey (s : State) (p slot a : Nat) (k : IngKeySlot) (activate : Bool) : State :=
  if ipState s p = 0 ∨ ipAllot s p ≠ a then s
  else
    let x := s.ing p
    let s := s.setIng p (if slot = 0 then { x with key0 := some k } else { x with key1 := some k })
    let s := ((s.put (F.ING_KEY_KEY_ID p slot) k.keyId).put (F.ING_KEY_LOG_N p slot) k.logN).put (F.ING_KEY_LIMBS p slot) k.limbs
    let s := ((s.put (F.ING_KEY_LEVEL p slot) k.level).put (F.ING_KEY_SCALE p slot) k.scale).put (F.ING_KEY_VALID p slot) 1
    if activate then s.put (F.ING_PORT_STATE_ACTIVE_KEY p) slot else s

/-! ## Packets (R355 to R363) -/

/-- Samples of a payload, packed as MIPI CSI-2 packs them (log entry 21): groups of `n` samples, their high bytes first,
then their low `w` bits, lowest sample lowest. -/
def unpackRaw (n w : Nat) (b : Bytes) : List Nat :=
  (recs (n + n * w / 8) b).flatMap fun g =>
    let low := leNat (g.drop n)
    (List.range n).map fun i => fieldAt g i 1 * 2 ^ w + bits low (w * i) w

/-- RAW20 packs each sample as two 10-bit halves, the high half first. -/
def pairUp20 (l : List Nat) : List Nat := (List.range (l.length / 2)).map fun i => l.getD (2 * i) 0 * 1024 + l.getD (2 * i + 1) 0

/-- RGB888 stands B, G, R; YUV422 stands U, Y, V, Y; components in output order. -/
def unpackSwap (n : Nat) (b : Bytes) : List Nat := (recs n b).flatMap fun g => (g.map (·.toNat)).reverse

def unpackLine (dt : Nat) (b : Bytes) : List Nat :=
  match dt with
  | 0x2B => unpackRaw 4 2 b
  | 0x2C => unpackRaw 2 4 b
  | 0x2D => unpackRaw 4 6 b
  | 0x2E => (recs 2 b).map beNat
  | 0x2F => pairUp20 (unpackRaw 4 2 b)
  | 0x24 => unpackSwap 3 b
  | _ => unpackSwap 2 b

/-- A packet reaches a started port. -/
def ipHears (s : State) (p : Nat) : Bool := decide (2 ≤ ipState s p) && decide (ipState s p ≤ 4)

/-- The frame in reception fails a check (Table 14-2: FRAME to DISCARD). -/
def State.checkFails (s : State) (p cause : Nat) : State :=
  if ipState s p = 3 then (s.frameBad p cause).put (F.ING_PORT_STATE_STATE p) 4 else s

/-- The header ECC of a packet (R356): counted; none when the packet is discarded. -/
def State.header (s : State) (p ecc : Nat) : State × Bool :=
  match ecc with
  | 0 => (s, true)
  | 1 => (s.bump (F.ING_ERRORS_ECC_CORR p), true)
  | _ => ((s.bump (F.ING_ERRORS_ECC_UNCORR p)).checkFails p 1, false)

/-- Exposures on a virtual channel. -/
def icExposures (c : Bytes) (vc : Nat) : List Nat := (List.range (icNexp c)).filter fun k => icVc c k == vc

def rowsOf (f : IngFrame) (e : Nat) : List (List Nat) := smGet [] f.rows e

/-- The frame being received is replaced. -/
def State.setReceiving (s : State) (p : Nat) (f : IngFrame) : State :=
  s.setIng p { s.ing p with frames := (s.ing p).frames.dropLast ++ [f] }

/-- Full staging buffers of a port (R370). A buffer stays full until its ciphertext is written (log entry 93). -/
def State.fullBuffers (s : State) (p : Nat) : Nat := (s.encQ.filter fun j => j.port == p).length

/-- The port's image pipeline input stalls (R370): both staging buffers are full. -/
def State.stalled (s : State) (p : Nat) : Bool := decide (2 ≤ s.fullBuffers p)

/-- A buffer's valid bit is cleared: at the frame start that chooses it (Table 14-2), and by a frame's first write into it (R365). -/
def State.clearBuf (s : State) (p b : Nat) : State :=
  let v := s.get (F.ING_PORT_STATE_VALID p)
  if bit v b then s.put (F.ING_PORT_STATE_VALID p) (v - 2 ^ b) else s

/-- Row and column of entry `i` of the defect list (Table 14-7). -/
def calDefect (b : Bytes) (i : Nat) : Nat × Nat :=
  let v := fieldAt b (0x1400 + 4 * i) 4
  (bits v 16 13, bits v 0 13)

/-- The last line that output row `y` needs (R364): row y + 2, and behind it the lines that the mean of a defect within two rows reads. -/
def IngPort.lastLine (x : IngPort) (y : Nat) : Nat :=
  ((List.range (icDefects x.cfg)).map fun i =>
    let r := (calDefect x.calib i).1
    if y ≤ r + 2 ∧ r ≤ y + 2 then min (r + 2) (icHeight x.cfg - 1) else 0).foldl max (y + 2)

/-- Bytes in the receive FIFO (R370): of the first frame whose rows still leave the pipeline, the lines beyond those that its next row
needs; of the frames after it, all (log entry 93). -/
def IngPort.fifoBytes (x : IngPort) : Nat :=
  let lines (f : IngFrame) (taken : Nat) : Nat := ((List.range (icNexp x.cfg)).map fun k => (rowsOf f k).length - taken).sum
  match x.frames.filter fun f => decide (f.out < icHeight x.cfg) with
  | [] => 0
  | f :: r => icLineBytes x.cfg * (lines f (x.lastLine f.out + 1) + (r.map fun g => lines g 0).sum)

def State.noteFifo (s : State) (p : Nat) : State := s.setIng p { s.ing p with fifo := (s.ing p).fifoBytes }

/-- A frame starts (R357, R365, R366). -/
def beginFrame (p : Nat) (s : State) : State :=
  let s := if ipState s p = 3 then s.frameBad p 6 else s
  let x := s.ing p
  let c := x.cfg
  let a := ipAllot s p
  let s := s.setIng p { x with count := x.count + 1, lastStart := s.wck.turn }
  let s' := if icBind c then s else s.put (F.ING_PORT_STATE_NEXT_BUF p) ((x.count + 1) % icNbuf c)
  let bad (cause : Nat) : State :=
    ((s'.bump (F.ING_FRAMES_BAD p)).put (F.ING_PORT_STATE_LAST_BAD p) cause).put (F.ING_PORT_STATE_STATE p) 4
  if icBind c && (s.wck.isFallow || s.altState a != 4) then bad 8
  else
    let b := (if icBind c then (s.allot a).planTurn else x.count) % icNbuf c
    let s' := s'.clearBuf p b
    if icSealed c && s.wellFailed then
      ((s'.bump (F.ING_FRAMES_BAD p)).put (F.ING_PORT_STATE_LAST_BAD p) 7).put (F.ING_PORT_STATE_STATE p) 4
    else
      let f : IngFrame := ⟨x.count, s.wck.turn, b, if icSealed c then s.ipKey p else none, [], false, 0, [], 0, 0⟩
      (s'.setIng p { s'.ing p with frames := (s'.ing p).frames ++ [f] }).put (F.ING_PORT_STATE_STATE p) 3

def frameStart (p vc ecc : Nat) (s : State) : State :=
  if !ipHears s p then s
  else match s.header p ecc with
    | (s, false) => s
    | (s, true) =>
      let c := (s.ing p).cfg
      if vc = icVc c 0 then beginFrame p s
      else if icExposures c vc = [] then s.bump (F.ING_ERRORS_OTHER p) else s

def execCsiFrameStart (p vc ecc : Nat) (s : State) : Host.Outcome State Fault Refusal := unit 8 p s (frameStart p vc ecc)

/-- A line of the frame in reception. -/
def takeLine (p vc : Nat) (data : Bytes) (s : State) : State :=
  match (s.ing p).receiving with
  | none => s
  | some f =>
    let c := (s.ing p).cfg
    let on := icExposures c vc
    let seen := (on.map fun k => (rowsOf f k).length).sum
    let e := on.getD (seen % max 1 on.length) 0
    if data.length ≠ icLineBytes c then s.checkFails p 2
    else if icHeight c ≤ (rowsOf f e).length then s.checkFails p 3
    else
      let t := s.setReceiving p { f with rows := smSet [] f.rows e (rowsOf f e ++ [unpackLine (icDt c e) data]) }
      if 32768 < (t.ing p).fifoBytes then s.checkFails p 4 else t.noteFifo p

def longPacket (p vc dt ecc : Nat) (crcOk : Bool) (data : Bytes) (s : State) : State :=
  if !ipHears s p then s
  else match s.header p ecc with
    | (s, false) => s
    | (s, true) =>
      let c := (s.ing p).cfg
      if !((icExposures c vc).any fun k => icDt c k == dt) then s.bump (F.ING_ERRORS_OTHER p)
      else if !crcOk then (s.bump (F.ING_ERRORS_CRC p)).checkFails p 1
      else if ipState s p = 3 then takeLine p vc data s else s

def execCsiLongPacket (p vc dt ecc : Nat) (crcOk : Bool) (data : Bytes) (s : State) : Host.Outcome State Fault Refusal :=
  unit 8 p s (longPacket p vc dt ecc crcOk data)

/-- Turns since the last frame start pass FRAME_TIMEOUT (R363). -/
def ipLate (s : State) (p : Nat) : Bool :=
  decide (icTimeout (s.ing p).cfg < (s.wck.turn + 2 ^ 48 - (s.ing p).lastStart) % 2 ^ 48)

/-- The frame ends; its remaining checks decide. -/
def endFrame (p : Nat) (tie : Bool) (s : State) : State :=
  if ipState s p = 4 then s.put (F.ING_PORT_STATE_STATE p) 2
  else match (s.ing p).receiving with
    | none => s
    | some f =>
      let c := (s.ing p).cfg
      if (List.range (icNexp c)).any (fun k => (rowsOf f k).length != icHeight c) then
        (s.frameBad p 3).put (F.ING_PORT_STATE_STATE p) 2
      else if ipLate s p && !tie then (s.frameBad p 5).put (F.ING_PORT_STATE_STATE p) 2
      else
        let s := if ipLate s p then s.put (F.ING_PORT_STATE_MARGIN0 p) 1 else s
        (s.setReceiving p { f with ended := true }).put (F.ING_PORT_STATE_STATE p) 2

def frameEnd (p vc ecc : Nat) (tie : Bool) (s : State) : State :=
  if !ipHears s p then s
  else match s.header p ecc with
    | (s, false) => s
    | (s, true) =>
      let c := (s.ing p).cfg
      if vc = icVc c 0 then endFrame p tie s
      else if icExposures c vc = [] then s.bump (F.ING_ERRORS_OTHER p) else s

def execCsiFrameEnd (p vc ecc : Nat) (tie : Bool) (s : State) : Host.Outcome State Fault Refusal :=
  unit 8 p s (frameEnd p vc ecc tie)

/-- A packet that R355 does not support is discarded and counted; one whose header does not decode is of no kind. -/
def otherPacket (p ecc : Nat) (s : State) : State :=
  if !ipHears s p then s
  else match s.header p ecc with
    | (s, false) => s
    | (s, true) => s.bump (F.ING_ERRORS_OTHER p)

def execCsiOtherPacket (p _vc ecc : Nat) (s : State) : Host.Outcome State Fault Refusal := unit 8 p s (otherPacket p ecc)

/-- The frame timeout (R363). -/
def execFrameTimeout (p : Nat) (s : State) : Host.Outcome State Fault Refusal :=
  unit 8 p s fun s =>
    if !ipLate s p then s
    else if ipState s p = 3 then (s.frameBad p 5).put (F.ING_PORT_STATE_STATE p) 2
    else if ipState s p = 4 then s.put (F.ING_PORT_STATE_STATE p) 2 else s

/-! ## The image pipeline (Table 14-6) -/

/-- Linear values are 24 bits. -/
def clamp24 (v : Int) : Nat := if v < 0 then 0 else min v.toNat (2 ^ 24 - 1)

/-- Stage 1. -/
def linearise (lin : Nat → Nat) (s : Nat) : Nat :=
  let i := s / 4096
  clamp24 (lin i + (((lin (i + 1) : Int) - lin i) * (s % 4096 : Nat) + 2048) / 4096)

/-- Stage 2: linearised samples of the exposures, their ratios and thresholds. -/
def mergeExp (n : Nat) (v : Nat → Nat) (r t : Nat → Nat) : Nat :=
  let scaled (k : Nat) : Nat := clamp24 ((v k * r k + 2 ^ 15) / 2 ^ 16 : Nat)
  if n ≤ 1 ∨ v 0 < t 0 then v 0
  else if v 1 < t 1 then scaled 1 else scaled (n - 1)

/-! ### The calibration block (Table 14-7) -/

def calLin (b : Bytes) (k i : Nat) : Nat := bits (fieldAt b (0x410 * k + 4 * i) 4) 0 24
def calR (b : Bytes) (k : Nat) : Nat := bits (fieldAt b (0xC40 + 8 * k) 4) 0 24
def calT (b : Bytes) (k : Nat) : Nat := bits (fieldAt b (0xC44 + 8 * k) 4) 0 24
def calBlack (b : Bytes) (y x : Nat) : Nat := bits (fieldAt b (0xC80 + 4 * (y % 4 * 4 + x % 4)) 4) 0 24
def calIr (b : Bytes) (c : Nat) : Nat := fieldAt b (0xCC0 + 2 * c) 2
def calShade (b : Bytes) (chans gy gx c : Nat) : Nat := fieldAt b (0xD00 + 2 * ((gy * 17 + gx) * chans + c)) 2

/-! ### Mosaics (Table 14-4): channel numbers in output order -/

def mosaicOf (m : Nat) : List (List Nat) :=
  match m with
  | 0 => [[0, 1], [1, 2]]
  | 1 => [[3, 0, 3, 1], [2, 3, 1, 3], [3, 1, 3, 0], [1, 3, 2, 3]]
  | _ => [[2, 1, 0, 1], [1, 3, 1, 3], [0, 1, 2, 1], [1, 3, 1, 3]]

def colourAt (c : Bytes) (y x : Nat) : Nat :=
  let p := icPeriod c
  ((mosaicOf (icMosaic c)).getD ((y + icPhase c / p) % p) []).getD ((x + icPhase c % p) % p) 0

/-- Stages 1 to 3 of one pixel. -/
def blackLevel (x : IngPort) (f : IngFrame) (y col : Nat) : Nat :=
  let c := x.cfg
  let w := (dtBits (icDt c 0)).getD 20
  let lin (k : Nat) : Nat := linearise (calLin x.calib k) (((rowsOf f k).getD y []).getD col 0 * 2 ^ (20 - w))
  mergeExp (icNexp c) lin (calR x.calib) (calT x.calib) - calBlack x.calib y col

/-- The mean of the samples of a colour at the smallest Chebyshev distance, 1 or 2, within the frame, rounded half up. -/
def nearMean (c : Bytes) (v : Nat → Nat → Nat) (colour y x : Nat) : Option Nat :=
  let at_ (d : Nat) : List Nat := (List.range (2 * d + 1)).flatMap fun i => (List.range (2 * d + 1)).filterMap fun j =>
    if (i = 0 ∨ i = 2 * d ∨ j = 0 ∨ j = 2 * d) ∧ d ≤ y + i ∧ d ≤ x + j ∧ y + i - d < icHeight c ∧ x + j - d < icWidth c
        ∧ colourAt c (y + i - d) (x + j - d) = colour then some (v (y + i - d) (x + j - d)) else none
  let mean (l : List Nat) : Nat := (2 * l.sum + l.length) / (2 * l.length)
  if at_ 1 ≠ [] then some (mean (at_ 1)) else if at_ 2 ≠ [] then some (mean (at_ 2)) else none

/-- Stage 4. -/
def defectFix (x : IngPort) (f : IngFrame) (y col : Nat) : Nat :=
  let v := blackLevel x f
  if (List.range (icDefects x.cfg)).any fun i => calDefect x.calib i == (y, col) then
    (nearMean x.cfg v (colourAt x.cfg y col) y col).getD (v y col)
  else v y col

/-- The shading gain: bilinear between the nodes, rounded half up. -/
def shadeGain (c cal : Bytes) (y x : Nat) : Nat :=
  let w := icWidth c - 1
  let h := icHeight c - 1
  let gx := min 15 (16 * x / w)
  let gy := min 11 (12 * y / h)
  let fx := 16 * x - gx * w
  let fy := 12 * y - gy * h
  let g (j i : Nat) : Nat := calShade cal (icComps c) (gy + j) (gx + i) (colourAt c y x)
  let t := (g 0 0 * (w - fx) + g 0 1 * fx) * (h - fy) + (g 1 0 * (w - fx) + g 1 1 * fx) * fy
  (2 * t + w * h) / (2 * w * h)

/-- Stages 1 to 5. -/
def shaded (x : IngPort) (f : IngFrame) (y col : Nat) : Nat :=
  clamp24 ((defectFix x f y col * shadeGain x.cfg x.calib y col + 2048) / 4096 : Nat)

/-- Stages 6 to 8: the output components of one pixel. -/
def pixelOut (x : IngPort) (f : IngFrame) (y col : Nat) : List Nat :=
  let c := x.cfg
  if icMosaic c = 3 then (List.range (icComps c)).map fun i => ((rowsOf f 0).getD y []).getD (col * icComps c + i) 0
  else
    let v := shaded x f
    let comp (k : Nat) : Nat := if colourAt c y col = k then v y col else (nearMean c v k y col).getD 0
    let l := (List.range (icComps c)).map comp
    let l := if icMosaic c = 2 then
        (List.range 4).map fun k => if k = 3 then l.getD 3 0 else l.getD k 0 - (l.getD 3 0 * calIr x.calib k + 2 ^ 15) / 2 ^ 16
      else l
    l.map fun d => min (2 ^ icOutBits c - 1) (d / 2 ^ icShift c)

/-! ## Rows leave the pipeline (R364, R367) -/

/-- The lines that the frame's next output row needs have arrived: of each exposure, as exposures may come on channels of their own. -/
def rowReady (x : IngPort) (f : IngFrame) : Bool :=
  decide (f.out < icHeight x.cfg)
    && (f.ended || (List.range (max 1 (icNexp x.cfg))).all fun k => decide (x.lastLine f.out < (rowsOf f k).length))

/-- Replace a frame by its id, or drop it. -/
def State.putFrame (s : State) (p id : Nat) (f : Option IngFrame) : State :=
  s.setIng p { s.ing p with frames := (s.ing p).frames.flatMap fun g => if g.id == id then f.toList else [g] }

/-- A frame is complete: its buffer's valid bit is set (R365). -/
def State.frameComplete (s : State) (p : Nat) (f : IngFrame) : State :=
  let v := s.get (F.ING_PORT_STATE_VALID p)
  (s.putFrame p f.id none).put (F.ING_PORT_STATE_VALID p) (if bit v f.buf then v else v + 2 ^ f.buf) |>.bump (F.ING_FRAMES_GOOD p)
    |>.noteBuf (16 * p + f.buf)

/-- The first `fuel` full ciphertexts of values that leave the pipeline, from ciphertext `k`; the rest waits. -/
def cutJobs (p id n : Nat) : Nat → Nat → List Nat → List EncJob × List Nat
  | 0, _, l => ([], l)
  | fuel + 1, k, l =>
    if l.length < n ∨ n = 0 then ([], l)
    else
      let r := cutJobs p id n fuel (k + 1) (l.drop n)
      (⟨p, id, k, l.take n⟩ :: r.1, r.2)

/-- A frame's values fill the port's free staging buffers (R370); what does not fit waits in the pipeline. -/
def State.stage_ (s : State) (p : Nat) (f : IngFrame) (k : IngKeySlot) : State :=
  let r := cutJobs p f.id (2 ^ (k.logN - 1)) (2 - s.fullBuffers p) f.staged f.vals
  { s.putFrame p f.id (some { f with vals := r.2, staged := f.staged + r.1.length }) with encQ := s.encQ ++ r.1 }.noteEnc

/-- A staging buffer has become free: the values that wait for it move in. -/
def State.restage (s : State) (p : Nat) : State :=
  (s.ing p).frames.foldl (fun s f => match f.key with | some k => s.stage_ p f k | none => s) s

/-- The oldest frame with a row ready sends it. -/
def rowOut (p : Nat) (s : State) : State :=
  let x := s.ing p
  let c := x.cfg
  match x.frames.find? fun f => rowReady x f with
  | none => s
  | some f =>
    let row := (List.range (icWidth c)).flatMap fun col => pixelOut x f f.out col
    match f.key with
    | none =>
      let data := row.flatMap fun d => toLe (icOutBits c / 8) d
      let s := if f.out = 0 then s.clearBuf p f.buf else s
      let s := (s.writeVia x.pages (icBase c + f.buf * icStride c + f.out * icPitch c) data 0 (ipAllot s p)).2
      let f := { f with out := f.out + 1 }
      (if f.out = icHeight c then s.frameComplete p f else s.putFrame p f.id (some f)).noteFifo p
    | some k =>
      if s.stalled p then s
      else
        let n := 2 ^ (k.logN - 1)
        let last := f.out + 1 == icHeight c
        let vals := f.vals ++ row
        let vals := if last then vals ++ List.replicate ((n - vals.length % n) % n) 0 else vals
        (s.stage_ p { f with out := f.out + 1, vals := vals } k).noteFifo p

def execPipelineRowOut (p : Nat) (s : State) : Host.Outcome State Fault Refusal := unit 8 p s (rowOut p)

/-! ## The encryptor (R369) -/

/-- Coefficient i of the encoded polynomial: the rounding of 2^SCALE × (2 / N) Σ z_j cos(π i 5^j / N), z_j = D_j / 2^w. -/
def encodeCoeff (logN scale w i : Nat) (vals : List Nat) : Int :=
  let bigN := 2 ^ logN
  let sum := (vals.foldl (fun (r : Int × Nat) d => (r.1 + d * cosFix bigN (i * r.2), r.2 * 5 % (2 * bigN))) ((0 : Int), (1 : Nat))).1
  let num := sum * 2 ^ (scale + 1)
  let den : Int := 2 ^ (logN + w + 160)
  (2 * num + den) / (2 * den)

/-- The free rounding term of one coefficient, within ±1. -/
def noiseAt (n : Nat) : Int := max (-1) (min 1 (Config.noise n))

/-- Read `n` words of 4 bytes. -/
def words32 (b : Bytes) : List Nat := (recs 4 b).map leNat

/-- Ciphertext `k` of a job: the two polynomials, limb by limb. -/
def State.encrypt (s : State) (a : Nat) (key : IngKeySlot) (w : Nat) (vals : List Nat) : List (List Nat) × State :=
  let bigN := 2 ^ key.logN
  let m := (List.range bigN).map fun i => encodeCoeff key.logN key.scale w i vals + noiseAt (s.free + i)
  let d := { s with free := s.free + bigN }.generate 1 (11 * bigN)
  let s := d.2
  let rand := (recs 11 d.1).map leNat
  let ones (v lo n : Nat) : Int := ((List.range n).map fun i => bits v (lo + i) 1).sum
  let v := rand.map fun r => ones r 0 1 - ones r 1 1
  let e0 := rand.map fun r => ones r 2 21 - ones r 23 21
  let e1 := rand.map fun r => ones r 44 21 - ones r 65 21
  let rd := s.readVia key.pages key.dest (8 * bigN * key.limbs) 1 a
  let pk := rd.1
  let limb (r l : Nat) : List Nat := words32 (slice pk ((r * key.limbs + l) * 4 * bigN) (4 * bigN))
  let poly (r : Nat) : List (List Nat) := (List.range key.limbs).map fun l =>
    let md := s.modAt a (key.modslot + l)
    let ev (x : List Int) : List Nat := nttQ md key.logN (x.map (modQ md.q))
    let add := if r = 0 then (e0.zip m).map fun x => x.1 + x.2 else e1
    let out := (((ev v).zip (limb r l)).map (fun x => mulQ md.q x.1 x.2) |>.zip (ev add)).map fun x => addQ md.q x.1 x.2
    if key.form = 1 then out else inttQ md key.logN out
  (poly 0 ++ poly 1, rd.2.2)

/-- The encryptor finishes the ciphertext it computes (R369, R370). After a failure of the well it draws nothing more (R442). -/
def encDone (s : State) : State :=
  match s.encQ with
  | [] => s
  | j :: rest =>
    let x := s.ing j.port
    let c := x.cfg
    let a := ipAllot s j.port
    let s := { s with encQ := rest }.noteEnc
    match x.frames.find? fun f => f.id == j.frame with
    | none => s
    | some f => match f.key with
      | none => s
      | some k =>
        if s.wellFailed then s.sealedFramesBad j.port
        else
          let r := s.encrypt a k (icOutBits c) j.vals
          let tag := tagOf (tagBits 2 k.level k.scale k.keyId k.logN k.limbs (s.get (F.ALT_STATE_PARTY a)) true false)
          let addr := icBase c + f.buf * icStride c + j.k * (8 * 2 ^ k.logN * k.limbs)
          let s := if f.written = 0 then r.2.clearBuf j.port f.buf else r.2
          let s := (s.writeVia x.pages addr (r.1.flatMap fun l => l.flatMap (toLe 4)) tag a).2.bump F.ING_ENC_CIPHERTEXTS
          let f := { f with written := f.written + 1 }
          (if f.written = icCts c k then s.frameComplete j.port f else s.putFrame j.port f.id (some f)).restage j.port

def execCiphertextWritten (s : State) : Host.Outcome State Fault Refusal := run s encDone

end Sys2Proof.Machine
end

