-- ==== Sys2Proof/Machine/Flags.lean ====
section
/-! DEFINITION. The numeric exception flags of R244, as a mask whose bits stand as in VXE_EXC. -/

namespace Sys2Proof.Machine

/-- A set of numeric flags: bit 0 INVALID, 1 OVERFLOW, 2 UNDERFLOW, 3 SATURATED, 4 DIV_ZERO. -/
abbrev Flg := Nat

def fNone : Flg := 0
def fInvalid : Flg := 1
def fOverflow : Flg := 2
def fUnderflow : Flg := 4
def fSaturated : Flg := 8
def fDivZero : Flg := 16

/-- The union of two sets of flags. -/
def flgOr (a b : Flg) : Flg := Nat.lor a b

/-- The union over a list. -/
def flgAll (l : List Flg) : Flg := l.foldl flgOr 0

/-- OR flags into VXE_EXC of an allotment; never in a sealed one (R244). -/
def State.raiseFlags (s : State) (a : Nat) (f : Flg) : State :=
  if s.on (F.ALT_STATE_SEALED a) then s
  else
    let r := 0x88000 + 8 * a
    s.setReg r (s.reg r ||| BitVec.ofNat 64 (f % 32))

end Sys2Proof.Machine
end

