-- ==== Sys2Proof/Machine/Formats.lean ====
section
/-! DEFINITION. Number formats (Table 9-1, Table 9-2), rounding (R224), exact values, the element operations of the
vector engine (Table 9-6), the FP32 functions (R239) and conversions (Table 9-8). -/

namespace Sys2Proof.Machine

/-! ## Formats (Table 9-1) -/

/-- The width of a format in bits. -/
def fmtWidth (f : Nat) : Nat := [4, 4, 8, 8, 16, 16, 32, 32, 8, 8, 16, 16, 32, 32].getD f 32

def fmtInt (f : Nat) : Bool := decide (f ≤ 7)
/-- Signed integer formats have even codes. -/
def fmtSigned (f : Nat) : Bool := f % 2 == 0
def fmtFloat (f : Nat) : Bool := decide (8 ≤ f) && decide (f ≤ 12)
def fmtRes : Nat := 13
def fmtFp32 : Nat := 12

/-- Fraction and exponent widths of a floating format. -/
def fracBits (f : Nat) : Nat := [3, 2, 10, 7, 23].getD (f - 8) 23
def expBits (f : Nat) : Nat := [4, 5, 5, 8, 8].getD (f - 8) 8
def fmtBias (f : Nat) : Nat := 2 ^ (expBits f - 1) - 1

/-- The encoding of the largest finite value (Table 9-2). -/
def maxFinite (f : Nat) : Nat :=
  if f = 8 then 0x7E else (2 ^ expBits f - 1) * 2 ^ fracBits f - 1

/-- The canonical NaN (Table 9-2). -/
def canonNaN (f : Nat) : Nat :=
  if f = 8 then 0x7F else (2 ^ expBits f - 1) * 2 ^ fracBits f + 2 ^ (fracBits f - 1)

def signBit (f : Nat) (neg : Bool) : Nat := if neg then 2 ^ (fmtWidth f - 1) else 0

/-! ## Exact values -/

/-- A floating value: a NaN, an infinity, or ± m × 2^e (zero keeps its sign). -/
inductive Num where
  | nan
  | inf (neg : Bool)
  | fin (neg : Bool) (m : Nat) (e : Int)
  deriving DecidableEq, Repr

/-- The value of an encoding. -/
def decodeF (f v : Nat) : Num :=
  let mb := fracBits f
  let mag := v % 2 ^ (fmtWidth f - 1)
  let neg := bit v (fmtWidth f - 1)
  let ex := mag / 2 ^ mb
  let fr := mag % 2 ^ mb
  if f = 8 ∧ mag = 0x7F then .nan
  else if f ≠ 8 ∧ ex = 2 ^ expBits f - 1 then (if fr = 0 then .inf neg else .nan)
  else if ex = 0 then .fin neg fr (1 - (fmtBias f : Int) - mb)
  else .fin neg (2 ^ mb + fr) ((ex : Int) - fmtBias f - mb)

def Num.isNaN : Num → Bool
  | .nan => true
  | _ => false

def Num.neg : Num → Bool
  | .nan => false
  | .inf n => n
  | .fin n _ _ => n

/-- ± m × 2^e as an integer multiple of 2^lo, for lo at most e. -/
def scaled (neg : Bool) (m : Nat) (e lo : Int) : Int :=
  let v : Int := (m * 2 ^ (e - lo).toNat : Nat)
  if neg then 0 - v else v

/-- a < b, with -0 = +0; false with a NaN. -/
def Num.lt : Num → Num → Bool
  | .fin n1 m1 e1, .fin n2 m2 e2 => decide (scaled n1 m1 e1 (min e1 e2) < scaled n2 m2 e2 (min e1 e2))
  | .inf n1, .inf n2 => n1 && !n2
  | .inf n1, .fin _ _ _ => n1
  | .fin _ _ _, .inf n2 => !n2
  | _, _ => false

def Num.eq (a b : Num) : Bool := !a.isNaN && !b.isNaN && !a.lt b && !b.lt a

/-- The lesser: -0 < +0, a NaN gives NaN. -/
def Num.min (a b : Num) : Num :=
  if a.isNaN || b.isNaN then .nan else if a.lt b then a else if b.lt a then b else if a.neg then a else b

def Num.max (a b : Num) : Num :=
  if a.isNaN || b.isNaN then .nan else if a.lt b then b else if b.lt a then a else if a.neg then b else a

def Num.negate : Num → Num
  | .nan => .nan
  | .inf n => .inf !n
  | .fin n m e => .fin (!n) m e

def Num.abs : Num → Num
  | .nan => .nan
  | .inf _ => .inf false
  | .fin _ m e => .fin false m e

/-- The exact sum; an exact zero of unlike signs is -0 toward -∞ and +0 otherwise. -/
def Num.add (rm : Nat) : Num → Num → Num
  | .nan, _ => .nan
  | _, .nan => .nan
  | .inf a, .inf b => if a = b then .inf a else .nan
  | .inf a, .fin _ _ _ => .inf a
  | .fin _ _ _, .inf b => .inf b
  | .fin n1 m1 e1, .fin n2 m2 e2 =>
    let lo := if e1 < e2 then e1 else e2
    let v := scaled n1 m1 e1 lo + scaled n2 m2 e2 lo
    if v = 0 then .fin (if n1 = n2 then n1 else rm == 2) 0 lo else .fin (decide (v < 0)) v.natAbs lo

/-- The exact product. -/
def Num.mul : Num → Num → Num
  | .nan, _ => .nan
  | _, .nan => .nan
  | .inf a, .inf b => .inf (a != b)
  | .inf a, .fin n m _ => if m = 0 then .nan else .inf (a != n)
  | .fin n m _, .inf b => if m = 0 then .nan else .inf (n != b)
  | .fin n1 m1 e1, .fin n2 m2 e2 => .fin (n1 != n2) (m1 * m2) (e1 + e2)

/-! ## Rounding (R224) -/

/-- Whether a magnitude n + rem / unit (`sticky`: and a little more) rounds up. -/
def roundsUp (rm : Nat) (neg : Bool) (n rem unit : Nat) (sticky : Bool) : Bool :=
  match rm with
  | 0 => decide (unit < 2 * rem) || (2 * rem == unit && (sticky || n % 2 == 1))
  | 1 => false
  | 2 => neg && (rem != 0 || sticky)
  | _ => !neg && (rem != 0 || sticky)

/-- An overflow in a format: the result by rounding mode. -/
def overflowTo (f rm : Nat) (neg sat : Bool) : Nat × Flg :=
  if f = 8 then (signBit f neg + maxFinite f, fSaturated)
  else
    let toInf := match rm with | 0 => true | 1 => false | 2 => neg | _ => !neg
    (signBit f neg + (if toInf && !sat then maxFinite f + 1 else maxFinite f), fOverflow)

/-- Round ± (m × 2^e, and a little more when `sticky`) to a floating format. -/
def roundF (f rm : Nat) (sat neg : Bool) (m : Nat) (e : Int) (sticky : Bool) : Nat × Flg :=
  if m = 0 ∧ sticky = false then (signBit f neg, fNone)
  else
    let mb := fracBits f
    let lowest : Int := 1 - (fmtBias f : Int) - mb
    let top : Int := e + (m.log2 : Int) - mb
    let q := if top < lowest then lowest else top
    let n := if q ≤ e then m * 2 ^ (e - q).toNat else m / 2 ^ (q - e).toNat
    let rem := if q ≤ e then 0 else m % 2 ^ (q - e).toNat
    let unit := if q ≤ e then 1 else 2 ^ (q - e).toNat
    let n := if roundsUp rm neg n rem unit sticky then n + 1 else n
    let enc := (q - lowest).toNat * 2 ^ mb + n
    if maxFinite f < enc then overflowTo f rm neg sat
    else (signBit f neg + enc, if enc < 2 ^ mb ∧ (rem ≠ 0 ∨ sticky) then fUnderflow else fNone)

/-- Encode a value in a floating format (R223, R224). -/
def encodeF (f rm : Nat) (sat : Bool) : Num → Nat × Flg
  | .nan => (canonNaN f, fNone)
  | .inf n =>
    if f = 8 then (signBit f n + maxFinite f, fSaturated)
    else (signBit f n + (if sat then maxFinite f else maxFinite f + 1), fNone)
  | .fin n m e => roundF f rm sat n m e false

/-- Encode the result of an operation on inputs: INVALID when it is a NaN and no input is (R244). -/
def encodeOp (f rm : Nat) (sat : Bool) (ins : List Num) (r : Num) : Nat × Flg :=
  let x := encodeF f rm sat r
  (x.1, if r.isNaN && !ins.any Num.isNaN then flgOr x.2 fInvalid else x.2)

/-! ## Integers -/

/-- The range of an integer format. -/
def intLo (f : Nat) : Int := if fmtSigned f then -(2 ^ (fmtWidth f - 1) : Int) else 0
def intHi (f : Nat) : Int := if fmtSigned f then 2 ^ (fmtWidth f - 1) - 1 else 2 ^ fmtWidth f - 1

def decodeI (f v : Nat) : Int := if fmtSigned f then signed (fmtWidth f) v else ((v % 2 ^ fmtWidth f : Nat) : Int)

/-- Wrap or saturate once (R238). -/
def encodeI (f : Nat) (sat : Bool) (v : Int) : Nat × Flg :=
  if v < intLo f then (if sat then (unsigned (fmtWidth f) (intLo f), fSaturated) else (unsigned (fmtWidth f) v, fNone))
  else if intHi f < v then (if sat then (unsigned (fmtWidth f) (intHi f), fSaturated) else (unsigned (fmtWidth f) v, fNone))
  else (unsigned (fmtWidth f) v, fNone)

/-! ## Elementary functions with fixed-point arithmetic of 192 fraction bits -/

def fixP : Nat := 192

/-- The odd powers of the inverse hyperbolic tangent's series. -/
def atanhSum (z2 : Nat) : Nat → Nat → Nat → Nat
  | 0, _, _ => 0
  | fuel + 1, n, p => p / (2 * n + 1) + atanhSum z2 fuel (n + 1) (p * z2 / 2 ^ fixP)

/-- 2 atanh(a / b), for a at most b / 3. -/
def lnRatio (a b : Nat) : Nat := let z := a * 2 ^ fixP / b; 2 * atanhSum (z * z / 2 ^ fixP) 80 0 z

def ln2Fix : Nat := lnRatio 1 3

/-- The exponential series of a fixed-point z. -/
def expSum (z : Nat) : Nat → Nat → Nat → Nat
  | 0, _, _ => 0
  | fuel + 1, k, p => p + expSum z fuel (k + 1) (p * z / 2 ^ fixP / k)

/-- Integer square root, digit by digit in base 4. -/
def isqrt : Nat → Nat → Nat
  | 0, _ => 0
  | fuel + 1, n => let r := 2 * isqrt fuel (n / 4); if (r + 1) * (r + 1) ≤ n then r + 1 else r

/-- RECIP, RSQRT, EXP2, LOG2 (R239): correctly rounded under RNE. -/
def fp32Recip (sat : Bool) (x : Num) : Nat × Flg :=
  match x with
  | .nan => encodeF fmtFp32 0 sat .nan
  | .inf n => encodeF fmtFp32 0 sat (.fin n 0 0)
  | .fin n m e =>
    if m = 0 then let r := encodeF fmtFp32 0 sat (.inf n); (r.1, flgOr r.2 fDivZero)
    else
      let k := m.log2 + 81
      roundF fmtFp32 0 sat n (2 ^ k / m) (0 - (k : Int) - e) (2 ^ k % m != 0)

def fp32Rsqrt (sat : Bool) (x : Num) : Nat × Flg :=
  match x with
  | .nan => encodeF fmtFp32 0 sat .nan
  | .inf true => (canonNaN fmtFp32, fInvalid)
  | .inf false => encodeF fmtFp32 0 sat (.fin false 0 0)
  | .fin n m e =>
    if m = 0 then let r := encodeF fmtFp32 0 sat (.inf n); (r.1, flgOr r.2 fDivZero)
    else if n then (canonNaN fmtFp32, fInvalid)
    else
      let odd := e % 2 ≠ 0
      let m := if odd then 2 * m else m
      let e := if odd then e - 1 else e
      let r := isqrt 160 (2 ^ 256 / m)
      roundF fmtFp32 0 sat false r (-128 - e / 2) (r * r * m != 2 ^ 256)

def fp32Exp2 (sat : Bool) (x : Num) : Nat × Flg :=
  match x with
  | .nan => encodeF fmtFp32 0 sat .nan
  | .inf true => encodeF fmtFp32 0 sat (.fin false 0 0)
  | .inf false => encodeF fmtFp32 0 sat (.inf false)
  | .fin n m e =>
    if m ≠ 0 ∧ 10 ≤ e + (m.log2 : Int) then
      (if n then roundF fmtFp32 0 sat false 1 (-2000) true else overflowTo fmtFp32 0 false sat)
    else
      let v := scaled n m e (-(fixP : Int))
      let i := v / (2 ^ fixP : Int)
      let fr := (v % (2 ^ fixP : Int)).toNat
      if fr = 0 then roundF fmtFp32 0 sat false 1 i false
      else roundF fmtFp32 0 sat false (expSum (fr * ln2Fix / 2 ^ fixP) 80 1 (2 ^ fixP)) (i - fixP) true

def fp32Log2 (sat : Bool) (x : Num) : Nat × Flg :=
  match x with
  | .nan => encodeF fmtFp32 0 sat .nan
  | .inf true => (canonNaN fmtFp32, fInvalid)
  | .inf false => encodeF fmtFp32 0 sat (.inf false)
  | .fin n m e =>
    if m = 0 then let r := encodeF fmtFp32 0 sat (.inf true); (r.1, flgOr r.2 fDivZero)
    else if n then (canonNaN fmtFp32, fInvalid)
    else
      let k := m.log2
      let i := e + (k : Int)
      if m = 2 ^ k then roundF fmtFp32 0 sat (decide (i < 0)) i.natAbs 0 false
      else
        let v := i * (2 ^ fixP : Int) + ((lnRatio (m - 2 ^ k) (m + 2 ^ k) * 2 ^ fixP / ln2Fix : Nat) : Int)
        roundF fmtFp32 0 sat (decide (v < 0)) v.natAbs (-(fixP : Int)) true

/-! ## The element operations (Table 9-6) -/

/-- All ones of a width, or 0. -/
def onesIf (w : Nat) (b : Bool) : Nat := if b then 2 ^ w - 1 else 0

/-- Result of an integer element operation. -/
def intElem (op f : Nat) (sat : Bool) (x y z : Nat) : Nat × Flg :=
  let w := fmtWidth f
  let a := decodeI f x
  let b := decodeI f y
  let c := decodeI f z
  let sh := y % w
  match op with
  | 0x00 => encodeI f sat (a + b)
  | 0x01 => encodeI f sat (a - b)
  | 0x02 => encodeI f sat (a * b)
  | 0x03 => encodeI f sat (a * b + c)
  | 0x04 => encodeI f sat (min a b)
  | 0x05 => encodeI f sat (max a b)
  | 0x06 => encodeI f sat (if a < 0 then 0 - a else a)
  | 0x07 => encodeI f sat (0 - a)
  | 0x08 => encodeI f sat (max a 0)
  | 0x09 => encodeI f sat (min (max a b) c)
  | 0x0A => encodeI f sat (a * 2 ^ sh)
  | 0x0B => encodeI f sat (a / (2 ^ sh : Int))
  | 0x10 => (onesIf w (decide (a < b)), fNone)
  | 0x11 => (onesIf w (decide (a ≤ b)), fNone)
  | _ => (onesIf w (decide (a = b)), fNone)

/-- Result of a floating element operation. -/
def floatElem (op f rm : Nat) (sat : Bool) (x y z : Nat) : Nat × Flg :=
  let w := fmtWidth f
  let a := decodeF f x
  let b := decodeF f y
  let c := decodeF f z
  match op with
  | 0x00 => encodeOp f rm sat [a, b] (a.add rm b)
  | 0x01 => encodeOp f rm sat [a, b] (a.add rm b.negate)
  | 0x02 => encodeOp f rm sat [a, b] (a.mul b)
  | 0x03 => encodeOp f rm sat [a, b, c] ((a.mul b).add rm c)
  | 0x04 => encodeOp f rm sat [a, b] (a.min b)
  | 0x05 => encodeOp f rm sat [a, b] (a.max b)
  | 0x06 => encodeOp f rm sat [a] a.abs
  | 0x07 => encodeOp f rm sat [a] a.negate
  | 0x08 => encodeOp f rm sat [a] (a.max (.fin false 0 0))
  | 0x09 => encodeOp f rm sat [a, b, c] ((a.max b).min c)
  | 0x10 => (onesIf w (a.lt b), fNone)
  | 0x11 => (onesIf w (a.lt b || a.eq b), fNone)
  | 0x12 => (onesIf w (a.eq b), fNone)
  | 0x18 => fp32Recip sat a
  | 0x19 => fp32Rsqrt sat a
  | 0x1A => fp32Exp2 sat a
  | _ => fp32Log2 sat a

/-- The elements of a lane, lowest first (R222). -/
def elems (w v : Nat) : List Nat := (List.range (32 / w)).map fun j => bits v (w * j) w

/-- A lane from its elements. -/
def lane (w : Nat) (l : List Nat) : Nat := l.foldr (fun x r => x + 2 ^ w * r) 0

/-- One lane of an operation 0x00 to 0x1F (R237, R238, R240). -/
def vxeLane (op mode x y z : Nat) : Nat × Flg :=
  let f := bits mode 0 4
  let rm := bits mode 4 2
  let sat := bit mode 6
  let w := fmtWidth f
  let h := 16 / w
  let xs := elems w x
  let ys := elems w y
  let zs := elems w z
  match op with
  | 0x0C => (Nat.land x y, fNone)
  | 0x0D => (Nat.lor x y, fNone)
  | 0x0E => (Nat.xor x y, fNone)
  | 0x0F => (lane w ((List.range (32 / w)).map fun j => if zs.getD j 0 ≠ 0 then xs.getD j 0 else ys.getD j 0), fNone)
  | 0x14 => (lane w ((List.range (2 * h)).map fun j => if j % 2 = 0 then xs.getD (j / 2) 0 else ys.getD (j / 2) 0), fNone)
  | 0x15 => (lane w ((List.range (2 * h)).map fun j => if j % 2 = 0 then xs.getD (h + j / 2) 0 else ys.getD (h + j / 2) 0), fNone)
  | 0x16 => (lane w ((List.range (2 * h)).map fun j => if j < h then xs.getD (2 * j) 0 else ys.getD (2 * (j - h)) 0), fNone)
  | 0x17 => (lane w ((List.range (2 * h)).map fun j => if j < h then xs.getD (2 * j + 1) 0 else ys.getD (2 * (j - h) + 1) 0), fNone)
  | _ =>
    let r := (List.range (32 / w)).map fun j =>
      if fmtFloat f then floatElem op f rm sat (xs.getD j 0) (ys.getD j 0) (zs.getD j 0)
      else intElem op f sat (xs.getD j 0) (ys.getD j 0) (zs.getD j 0)
    (lane w (r.map (·.1)), flgAll (r.map (·.2)))

/-! ## Conversions (Table 9-8) -/

/-- Round a value to an integer; none for NaN. `lo` and `hi` bound infinities. -/
def roundInt (rm : Nat) (lo hi : Int) : Num → Int
  | .nan => 0
  | .inf n => if n then lo else hi
  | .fin n m e =>
    let mag : Nat :=
      if 0 ≤ e then m * 2 ^ e.toNat
      else
        let unit := 2 ^ (0 - e).toNat
        let v := m / unit
        if roundsUp rm n v (m % unit) unit false then v + 1 else v
    if n then -(mag : Int) else mag

/-- The conversion of one element from `src` to `dst`, with the modulus of a residue side. -/
def convert (src dst rm q v : Nat) : Nat × Flg :=
  let ofInt (x : Int) : Nat × Flg :=
    if dst = fmtRes then (modQ' q x, fNone)
    else if fmtFloat dst then encodeF dst rm false (.fin (decide (x < 0)) x.natAbs 0)
    else encodeI dst true x
  if src = fmtRes then
    let x := v % q
    ofInt (if (q - 1) / 2 < x then (x : Int) - q else x)
  else if fmtFloat src then
    let a := decodeF src v
    if fmtFloat dst then encodeF dst rm false a
    else if dst = fmtRes then
      let r := encodeI 6 true (roundInt rm (intLo 6) (intHi 6) a)
      (modQ' q (signed 32 r.1), match a with | .inf _ => fSaturated | _ => r.2)
    else
      let r := encodeI dst true (roundInt rm (intLo dst) (intHi dst) a)
      (r.1, match a with | .inf _ => fSaturated | _ => r.2)
  else ofInt (decodeI src v)
where
  /-- An integer modulo q. -/
  modQ' (q : Nat) (x : Int) : Nat := (x % (q : Int)).toNat

/-- One lane of a CVT (R241): the mask of the bits written, the lane, the flags. -/
def cvtLane (part rm src dst q x : Nat) : Nat × Nat × Flg :=
  let ws := fmtWidth src
  let wd := fmtWidth dst
  let e := 32 / max ws wd
  let r := (List.range e).map fun i =>
    convert src dst rm q (bits x (ws * (if ws < wd then part * e + i else i)) ws)
  let at_ := if wd < ws then wd * part * e else 0
  ((2 ^ (wd * e) - 1) * 2 ^ at_, lane wd (r.map (·.1)) * 2 ^ at_, flgAll (r.map fun y => y.2))

end Sys2Proof.Machine
end

