-- ==== Sys2Proof/Machine/Spm.lean ====
section
/-! DEFINITION. The scratchpad (chapter 8): the SECDED code, views, bank ports, reads with their events, writes with
merging and poison, line tags. -/

namespace Sys2Proof.Machine

/-! ## SECDED (R216) -/

/-- The codeword positions of data bits 0 to 31: those from 3 to 38 that are not powers of two. -/
def dataPos : List Nat := (List.range 39).filter fun p => decide (2 < p) && !([4, 8, 16, 32].contains p)

/-- Check bits c0 to c5: the exclusive-or of the positions of the data bits that are set. -/
def hamming (d : Nat) : Nat := (List.range 32).foldl (fun c i => if bit d i then Nat.xor c (dataPos.getD i 0) else c) 0

/-- The exclusive-or of the low `n` bits. -/
def parityOf (n v : Nat) : Bool := (List.range n).foldl (fun p i => p != bit v i) false

/-- The codeword of a 32-bit word: data in bits [31:0], check bits in [38:32]. -/
def encodeWord (d : Nat) : BitVec 39 :=
  let d := d % 2 ^ 32
  let c := hamming d
  BitVec.ofNat 39 (d + 2 ^ 32 * c + 2 ^ 38 * b2n (parityOf 32 d != parityOf 6 c))

/-- The codeword of a word written poisoned: c0 and c6 inverted. -/
def poisonWord (d : Nat) : BitVec 39 := encodeWord d ^^^ BitVec.ofNat 39 (2 ^ 32 + 2 ^ 38)

/-- The data that a read returns, and what the decoder finds. -/
def decodeWord (w : BitVec 39) : Nat × Ecc :=
  let v := w.toNat
  let d := bits v 0 32
  let syn := Nat.xor (hamming d) (bits v 32 6)
  if syn = 0 ∧ parityOf 39 v = false then (d, .clean)
  else if parityOf 39 v ∧ syn ≤ 38 then
    match dataPos.findIdx? (· == syn) with
    | some i => (Nat.xor d (2 ^ i), .correctable)
    | none => (d, .correctable)
  else (d, .uncorrectable)

/-- The codeword of a word with its poison. -/
def storeWord (x : Nat × Bool) : BitVec 39 := if x.2 then poisonWord x.1 else encodeWord x.1

/-! ## Lines and views -/

def zeroLine : List (BitVec 39) := List.replicate 32 0

def Core.line (x : Core) (l : Nat) : List (BitVec 39) :=
  match smGet [] x.lines l with
  | [] => zeroLine
  | w => w

def Core.setLine (x : Core) (l : Nat) (w : List (BitVec 39)) : Core :=
  { x with lines := smSet [] x.lines l (if w.all (· == 0) then [] else w) }

def Core.tag (x : Core) (l : Nat) : BitVec 64 := smGet 0 x.tags l

/-- A line and its tag as a read in cycle `t` sees them (R209, R273). -/
def Core.seen (x : Core) (t l : Nat) : List (BitVec 39) × BitVec 64 :=
  match x.old.find? fun o => o.line == l && decide (t ≤ o.last) with
  | some o => (o.words, o.tag)
  | none => (x.line l, x.tag l)

/-- The line and bank of word `k` of an access to line number `l` through a view (Table 8-1). -/
def place (view l k : Nat) : Nat × Nat :=
  let l := l % 1024
  if view = 1 then (l, (k + l % 32) % 32)
  else if view = 2 then (l / 32 * 32 + k, (l % 32 + k) % 32)
  else (l, k)

/-- The lines an access reaches. -/
def reached (view l : Nat) : List Nat :=
  if view = 2 then (List.range 32).map fun k => l % 1024 / 32 * 32 + k else [l % 1024]

/-! ## Bank ports (R206, R208) -/

/-- The use needs the port in quarter `q` of bank `b`. -/
def Use.needs (u : Use) (b q : Nat) : Bool :=
  match u.view with
  | 2 => (b + 32 - u.line % 32) % 4 == q
  | 3 => true
  | 4 => true
  | 5 => u.line % 32 == b && u.line / 32 % 4 == q
  | _ => u.line % 4 == q

/-- The first bank port that two uses both need: bank and quarter. -/
def Use.meets (u v : Use) : Option (Nat × Nat) :=
  if u.port = v.port then
    (List.range 32).findSome? fun b => (List.range 4).findSome? fun q => if u.needs b q && v.needs b q then some (b, q) else none
  else none

/-- The later of two commands in fetch order. -/
def Use.later (u v : Use) : Use :=
  if u.from_ < v.from_ ∨ (u.from_ = v.from_ ∧ u.origin < v.origin) then v else u

/-- The clashes among the uses of one cycle: bank, quarter, port, the later command. -/
def clashes : List Use → List (Nat × Nat × Nat × Use)
  | [] => []
  | u :: r => (r.filterMap fun v => (u.meets v).map fun x => (x.1, x.2, u.port, u.later v)) ++ clashes r

/-- What tells one recorded clash from another. -/
def clashKey (y : Nat × Nat × Nat × Use) : Nat × Nat × Nat × Nat := (y.1, y.2.1, y.2.2.1, y.2.2.2.origin)

/-- Record a clash: the first in SPM_CLASH, its cause in LAST_BREACH (R185), and its breach. -/
def State.oneClash (s : State) (a c : Nat) (y : Nat × Nat × Nat × Use) : State :=
  let s := if s.on F.SPM_CLASH_VALID then s
    else (((((s.put F.SPM_CLASH_CORE c).put F.SPM_CLASH_BANK y.1).put F.SPM_CLASH_QUARTER y.2.1).put F.SPM_CLASH_PORT
      y.2.2.1).put F.SPM_CLASH_ORIGIN y.2.2.2.origin).put F.SPM_CLASH_VALID 1
  (s.put (F.TIL_CORE_STATE_LAST_BREACH c) 0x08).breach a 0x08 y.2.2.2.origin c

/-- Accesses of one cycle with those among which a clash was found in it, each as often as either has it. -/
def Core.claims (x : Core) (t : Nat) (us : List Use) : List Use :=
  match x.clashed with
  | some y => if y.at_ = t then y.uses ++ us.diff y.uses else us
  | none => us

/-- Record the clashes among the accesses `us` of core `c` in cycle `t`, each once, the lowest bank first: a breach for each (R84, R208). -/
def State.recordClash (s : State) (a c t : Nat) (us : List Use) : State :=
  let x := s.core c
  let old := match x.clashed with
    | some y => if y.at_ = t then y.found else []
    | none => []
  match ((clashes us).filter fun y => !old.contains (clashKey y)).insertionSort (fun y z => y.1 ≤ z.1) with
  | [] => s
  | y :: r => (y :: r).foldl (fun s z => s.oneClash a c z)
      (s.setCore c { x with clashed := some ⟨t, old ++ (y :: r).map clashKey, x.claims t us⟩ })

/-! ## Reads (R217, R218) -/

/-- An event of a core that a scratchpad counter counts: chip-wide, and for its owner's view (`spmCounts`). -/
def State.bumpSpm (s : State) (f : Fld) (c kind : Nat) : State :=
  let k := 8 * c + kind
  { s.bump f with spmCounts := smSet 0 s.spmCounts k (smGet 0 s.spmCounts k + 1) }


/-- The first uncorrectable event of the scratchpads. `kind`: 0 wide read, 1 narrow read, 2 refused partial write. -/
def State.spmFirst (s : State) (c l b kind origin : Nat) : State :=
  if s.on F.SPM_ECC_FIRST_VALID then s
  else (((((s.put F.SPM_ECC_FIRST_CORE c).put F.SPM_ECC_FIRST_LINE l).put F.SPM_ECC_FIRST_BANK b).put F.SPM_ECC_FIRST_KIND
    kind).put F.SPM_ECC_FIRST_ORIGIN origin).put F.SPM_ECC_FIRST_VALID 1

/-- The owner of a core, or 255. -/
def State.ownerOf (s : State) (c : Nat) : Nat := (s.coreOwner c).getD 255

/-- What reading one word does beside returning it. -/
def State.wordEvent (s : State) (c l b kind origin : Nat) (e : Ecc) : State :=
  match e with
  | .clean => s
  | .correctable =>
    let s := (s.bumpSpm F.SPM_ECC_COUNTS_CORRECTED c 0).logCorrected 0 c 0x107 (l + 1024 * b) (s.ownerOf c) c origin
    let x := s.core c
    if x.rewrite.length < 8 then s.setCore c { x with rewrite := x.rewrite ++ [l] } else s.bumpSpm F.SPM_SCRUB_OVERFLOW c 4
  | _ =>
    let s := (s.bumpSpm F.SPM_ECC_COUNTS_UNCORRECTABLE c 1).spmFirst c l b kind origin
    if kind = 1 then s.logCause 0x108 (l + 1024 * b) (s.ownerOf c) c origin else s

/-- A wide read in cycle `t`: the 32 words with their poison, the tag of the first line reached, and the events. -/
def State.wideRead (s : State) (c t view l origin : Nat) : List (Nat × Bool) × BitVec 64 × State :=
  let x := s.core c
  let tag := (x.seen t (place view l 0).1).2
  let r := (List.range 32).map fun k =>
    let p := place view l k
    (p, decodeWord ((x.seen t p.1).1.getD p.2 0))
  (r.map fun y => (y.2.1, !y.2.2.usable), tag, r.foldl (fun s y => s.wordEvent c y.1.1 y.1.2 0 origin y.2.2) s)

/-- The codewords of a wide read as a MOV REMOTE carries them: as they stand, one with a correctable error corrected (R217, R320). -/
def Core.rawLine (x : Core) (t view l : Nat) : List (BitVec 39) :=
  (List.range 32).map fun k =>
    let p := place view l k
    let w := (x.seen t p.1).1.getD p.2 0
    match decodeWord w with
    | (d, .correctable) => encodeWord d
    | _ => w

/-- A narrow read in cycle `t` (R204): the word's data. -/
def State.narrowRead (s : State) (c t addr origin : Nat) : Nat × State :=
  let l := addr / 128 % 1024
  let b := addr / 4 % 32
  let w := decodeWord (((s.core c).seen t l).1.getD b 0)
  (w.1, s.wordEvent c l b 1 origin w.2)

/-! ## Writes (R209, R210, R219) -/

/-- A tag with POISON set and its check byte recomputed (R273). -/
def poisonTag (t : BitVec 64) : BitVec 64 := if bit t.toNat 46 then t else tagOf (t.toNat % 2 ^ 56 + 2 ^ 46)

/-- Keep what a write replaces, once per line and cycle. -/
def Core.keepOld (x : Core) (t l : Nat) : Core :=
  if x.old.any fun o => o.line == l && o.last == t + 1 then x
  else { x with old := x.old.filter (fun o => decide (t ≤ o.last)) ++ [⟨t + 1, l, x.line l, x.tag l⟩] }

/-- The first partial write that a running plan has refused (R220). -/
def State.notePartial (s : State) (c origin : Nat) : State :=
  match s.coreOwner c with
  | none => s
  | some a =>
    let x := s.allot a
    match x.partialPoison with
    | some _ => s
    | none => s.setAllot a { x with partialPoison := some (origin, c) }

/-- Write one word (R219). -/
def State.putWord (s : State) (c origin : Nat) (w : PutWord) : State :=
  let x := s.core c
  let store (v : BitVec 39) : State := s.setCore c (x.setLine w.line ((x.line w.line).set w.bank v))
  if w.mask = 2 ^ 32 - 1 then store (w.raw.getD (storeWord (w.val, w.poison)))
  else
    let d := decodeWord ((x.line w.line).getD w.bank 0)
    let v := Nat.lor (Nat.land w.val w.mask) (Nat.land d.1 (2 ^ 32 - 1 - w.mask))
    let where_ := w.line + 1024 * w.bank
    match d.2 with
    | .clean => store (storeWord (v, w.poison))
    | .correctable => ((store (storeWord (v, w.poison))).bumpSpm F.SPM_ECC_COUNTS_CORRECTED c 0).logCorrected 0 c 0x107 where_ (s.ownerOf c) c origin
    | _ =>
      let s := ((s.bumpSpm F.SPM_ECC_COUNTS_REFUSED c 2).spmFirst c w.line w.bank 2 origin).logCause 0x109 where_ (s.ownerOf c) c origin
      s.notePartial c origin

/-- Make a write: the words, then the tags of its lines. -/
def State.lineWrite (s : State) (c : Nat) (w : LineWrite) : State :=
  let x := w.lines.foldl (fun x l => Core.keepOld x w.at_ l) (s.core c)
  let s := w.words.foldl (fun s p => s.putWord c w.origin p) (s.setCore c x)
  let x := s.core c
  let tagFor (l : Nat) : BitVec 64 := if w.words.any fun p => p.line == l && p.poison then poisonTag w.tag else w.tag
  s.setCore c { x with tags := w.lines.foldl (fun m l => smSet 0 m l (tagFor l)) x.tags }

/-- A full-word write of 32 words (fewer when the list is shorter) through a view; `raws` are their codewords, where those are
stored as they came (R320). -/
def wideWrite (at_ port view l : Nat) (ws : List (Nat × Bool)) (tag : BitVec 64) (from_ origin : Nat)
    (raws : List (BitVec 39) := []) : LineWrite :=
  { at_ := at_, port := port, view := view, line := l,
    words := (List.range ws.length).map fun k =>
      let p := place view l k
      let w := ws.getD k (0, false)
      { line := p.1, bank := p.2, mask := 2 ^ 32 - 1, val := w.1, poison := w.2, raw := raws[k]? },
    lines := reached view l, tag := tag, from_ := from_, origin := origin, route := 0xFFFFFFFF }

/-- The order in which writes of one cycle are made, so that U wins, then L (R210). -/
def portOrder : List Nat := [4, 7, 5, 6]

/-- Write every line of a tile's scratchpads with zeros and CLEAR tags (R202). -/
def Core.zeroed (x : Core) : Core := { x with lines := [], tags := [], old := [], writes := [], runs := [] }

end Sys2Proof.Machine
end

