-- ==== Sys2Proof/Machine/Store.lean ====
section
/-! DEFINITION. The command store of a core (chapter 6): the fields of a native command (Tables 6-1 to 6-4), its entries with
their check bits (R180, R182), the parity of its registers (R183), and the cursor with the issue window (R175, R177). -/

namespace Sys2Proof.Machine

/-! ## Fields of a native command -/

def cmdEng (w : Nat) : Nat := bits w 0 4
def cmdOp (w : Nat) : Nat := bits w 4 6
def cmdEvery (w : Nat) : Bool := bit w 10
def cmdInd (w : Nat) : Bool := bit w 11
def cmdPi (w : Nat) : Nat := bits w 12 4
def cmdOffset (w : Nat) : Nat := bits w 16 27
def cmdTurn (w : Nat) : Nat := bits w 43 16
/-- The address register of operand field `f`: 0 DA, 1 SA, 2 SB, 3 SC. -/
def cmdField (w f : Nat) : Nat := bits w (64 + 4 * f) 4
def cmdImm16 (w : Nat) : Nat := bits w 80 16
def cmdPsel (w : Nat) : Nat := bits w 96 6
def cmdMode (w : Nat) : Nat := bits w 102 8
def cmdSlot (w : Nat) : Nat := bits w 110 6
def cmdAux (w : Nat) : Nat := bits w 116 6
def cmdImmb (w : Nat) : Bool := bit w 76
def cmdImm (w : Nat) : Nat := bits w 80 48
def cmdKsel (w : Nat) : Nat := bits w 64 3
def cmdPeriod (w : Nat) : Nat := bits w 68 24
def cmdMax (w : Nat) : Nat := bits w 92 32

/-! ## Entries -/

def Entry.w (e : Entry) : Nat := e.word.toNat
/-- The Acnik index that the origin field holds (R180). -/
def Entry.origin (e : Entry) : Nat := e.index.toNat
def Entry.isLoop (e : Entry) : Bool := cmdEng e.w == 0 && cmdOp e.w == 0x20
def Entry.isEnd (e : Entry) : Bool := cmdEng e.w == 0 && cmdOp e.w == 0x21
/-- The entry applies in plan turn `j`, outside loops (R161). -/
def Entry.applies (e : Entry) (j : Nat) : Bool := cmdEvery e.w || cmdTurn e.w == j

/-- The active bank of a core. -/
def State.program (s : State) (c : Nat) : List Entry :=
  if s.on (F.TIL_CORE_STATE_ACTIVE_BANK c) then (s.core c).bank1 else (s.core c).bank0

/-- The index after the ENDLOOP that closes a loop, from the entries at index `i` on, `d` loops deeper. -/
def afterLoop : List Entry → Nat → Nat → Nat
  | [], _, i => i
  | e :: r, d, i =>
    if e.isLoop then afterLoop r (d + 1) (i + 1)
    else if e.isEnd then (if d = 0 then i + 1 else afterLoop r (d - 1) (i + 1))
    else afterLoop r d (i + 1)

/-! ## Errors in control state (R182, R183) -/

/-- An uncorrectable error in control state of a core; `index` is the failing command's, where there is one. -/
def State.controlEcc (s : State) (c i index : Nat) (parity : Bool) : State :=
  let bank := s.get (F.TIL_CORE_STATE_ACTIVE_BANK c)
  let s := if s.on F.TIL_STORE_ECC_VALID then s
    else ((((s.put F.TIL_STORE_ECC_CORE c).put F.TIL_STORE_ECC_ENTRY i).put F.TIL_STORE_ECC_BANK bank).put F.TIL_STORE_ECC_PARITY
      (b2n parity)).put F.TIL_STORE_ECC_VALID 1
  s.doubtCore c { cause := cCtrlEcc, index := index, core := c, subject := c, value := index }

/-- The check bits of an entry that is read (R182); the flag says that it cannot be used. -/
def State.storeRead (s : State) (c i : Nat) (e : Entry) : Bool × State :=
  let at_ := i + 2048 * s.get (F.TIL_CORE_STATE_ACTIVE_BANK c)
  match e.ecc with
  | .clean => (false, s)
  | .correctable =>
    let s := (s.bump F.TIL_STORE_ECC_CORRECTED).logCorrected 0 c 0x10D at_ (s.ownerOf c) c e.origin
    let x := s.core c
    (false, if x.rewriteStore.contains at_ then s else s.setCore c { x with rewriteStore := x.rewriteStore ++ [at_] })
  | _ => (true, s.controlEcc c i e.origin false)

/-- Read several entries. -/
def State.storeReads (s : State) (c : Nat) (p : List Entry) (l : List Nat) : Bool × State :=
  l.foldl (fun r i => match p[i]? with
    | some e => let y := r.2.storeRead c i e; (r.1 || y.1, y.2)
    | none => r) (false, s)

/-- Address-register operand fields that a command uses (Table 6-3). -/
def fieldsUsed (w : Nat) : List Nat :=
  let op := cmdOp w
  match cmdEng w with
  | 1 => if op = 0 then [1, 2] ++ (if bits (cmdMode w) 5 2 = 2 then [3] else []) else if op = 1 then [0] else []
  | 2 => [0, 1] ++ (if 8 ≤ op ∧ op ≠ 0x14 then [] else [2]) ++ (if op = 4 then [3] else [])
  | 3 => [0, 1] ++ (if op < 0x20 ∧ !([6, 7, 8, 0x18, 0x19, 0x1A, 0x1B].contains op) then [2] else [])
      ++ (if op = 3 ∨ op = 9 ∨ op = 0x0F then [3] else [])
  | 4 => if op = 5 then [0] else [0, 1]
  | 5 => [0, 1] ++ (if cmdAux w = 3 then [3] else [])
  | _ => []

/-- The registers a command reads: kind (0 S, 1 A, 2 P, 3 Z, 4 K) and number. -/
def regsRead (w : Nat) : List (Nat × Nat) :=
  let op := cmdOp w
  let imm (r : Nat × Nat) : List (Nat × Nat) := if cmdImmb w then [] else [r]
  let pi := ((List.range 4).filter fun f => bit (cmdPi w) f).flatMap fun f => [(1, cmdField w f), (3, cmdField w f)]
  if cmdEng w = 0 then
    (if op = 0x20 then [(4, cmdKsel w)]
     else if op = 0x11 then (1, cmdField w 1) :: imm (0, cmdField w 2)
     else if op = 0x12 ∨ op = 0x13 ∨ op = 0x14 then [(1, cmdField w 1)]
     else if op = 0x18 ∨ op = 0x19 then imm (0, cmdField w 1)
     else if op = 0x1A then imm (0, bits w 70 4)
     else if 2 ≤ op ∧ op ≤ 0x0B then (0, cmdField w 1) :: imm (0, cmdField w 2)
     else []) ++ (if op = 0x20 then [] else pi)
  else
    (fieldsUsed w).map (fun f => (1, cmdField w f)) ++ pi
      ++ (if cmdInd w ∨ (cmdEng w = 2 ∧ op = 0x0C) ∨ (cmdEng w = 4 ∧ op = 5) ∨ cmdEng w = 5 then [(2, cmdPsel w)] else [])

/-- A register that the command reads, or the loop level its cycle is counted in (kind 5), has wrong parity (R183). -/
def Core.parityError (x : Core) (w : Nat) : Bool :=
  (regsRead w).any x.parity.contains || (x.loops != [] && x.parity.contains (5, x.loops.length))

/-! ## The cursor and the issue window (R175, R177) -/

/-- One read slot of the cursor: the entry read, the window after it, and whether reading stops for the cycle; none where
nothing is read. An ENDLOOP is read and never held: it never issues. One that is discarded, with a loop that does not apply, ends
nothing, and reading goes on behind it (DESIGN CHOICE, log entry 103). -/
def Window.slot (p : List Entry) (w : Window) : Option (Nat × Window × Bool) :=
  if 8 ≤ w.held.length ∨ w.stop = true then none
  else match p[w.read]? with
    | none => none
    | some e =>
      let next := { w with read := w.read + 1 }
      if 0 < w.skip then
        some (w.read, { next with skip := if e.isLoop then w.skip + 1 else if e.isEnd then w.skip - 1 else w.skip }, false)
      else if e.isEnd then
        match w.loops with
        | [] => some (w.read, next, true)
        | (_, none) :: _ => some (w.read, { next with stop := true }, true)
        | (_, some 0) :: r => some (w.read, { next with loops := r }, true)
        | (b, some (n + 1)) :: r => some (w.read, { w with read := b, loops := (b, some n) :: r }, true)
      else if w.loops = [] ∧ e.applies w.turn = false then some (w.read, { next with skip := b2n e.isLoop }, false)
      else some (w.read, { next with
        held := w.held ++ [w.read]
        loops := if e.isLoop then (w.read + 1, none) :: w.loops else w.loops }, false)

/-- The reads of one cycle, at most `n`: the window after them, and the entries read. -/
def Window.reads (p : List Entry) : Nat → Window → List Nat → Window × List Nat
  | 0, w, l => (w, l)
  | n + 1, w, l =>
    match w.slot p with
    | none => (w, l)
    | some (i, v, true) => (v, l ++ [i])
    | some (i, v, false) => Window.reads p n v (l ++ [i])

/-- The count of the outermost loop that is not sampled is `k` (R173): reading goes on behind its ENDLOOP if that has been
read, or resumes there where the body is discarded. `after` is the entry after the ENDLOOP. -/
def Window.sample (w : Window) (i k after : Nat) : Window :=
  let open_ := w.loops.reverse.findIdx? fun x => x.2.isNone
  match open_ with
  | none => w
  | some d =>
    let outer := w.loops.drop (w.loops.length - d)
    let inner := w.loops.take (w.loops.length - d)
    match inner.getLast? with
    | none => w
    | some x =>
      if k = 0 then { w with read := after, loops := outer, stop := false, held := w.held.filter fun h => !(decide (i < h) && decide (h < after)) }
      else
        let rest := inner.dropLast
        let l := rest ++ (x.1, some (k - 1)) :: outer
        if w.stop = true ∧ rest = [] then
          if k = 1 then { w with loops := outer, stop := false }
          else { w with read := x.1, loops := (x.1, some (k - 2)) :: outer, stop := false }
        else { w with loops := l }

/-- The window as the sequencer's own loops place it, when the entry at the cursor is not held (log entry 91). -/
def Core.atCursor (x : Core) : Window :=
  { x.win with
    read := x.cursor, held := [], stop := false, skip := 0,
    loops := x.loops.map fun y => (y.body, some (y.count - 1 - y.iter)) }

/-- The entry at index `i` leaves the window in cycle `t`, as the core `x` passed it: a LOOP tells the cursor its count. -/
def Core.takeEntry (x : Core) (p : List Entry) (i t : Nat) (e : Entry) : Core :=
  let k := (smGet 0 x.k (cmdKsel e.w)).toNat
  let v := if x.win.held.contains i then
      let v := { x.win with held := x.win.held.erase i }
      if e.isLoop then v.sample i (if cmdMax e.w < k then 0 else k) (afterLoop (p.drop (i + 1)) 0 (i + 1)) else v
    else x.atCursor
  { x with win := { v with at_ := t + 1, busy := true } }

/-- CURSOR, WINDOW and LOOP_DEPTH of a core. -/
def State.noteWindow (s : State) (c : Nat) : State :=
  let x := s.core c
  ((s.put (F.TIL_CORE_STATE_CURSOR c) x.win.read).put (F.TIL_CORE_STATE_WINDOW c) x.win.held.length).put (F.TIL_CORE_STATE_LOOP_DEPTH c)
    x.loops.length

/-- The allotment of a core runs and no sluice holds the core's tile. -/
def State.coreRuns (s : State) (c : Nat) : Bool :=
  match s.coreOwner c with
  | some a => s.altState a == 4 && !s.tileClosed (c / 32) && !s.chipClosed
  | none => false

/-- The cursor's reads in cycle `t`: up to 4 entries, each checked as it is read (R175, R182). -/
def State.readWindow (s : State) (c t : Nat) : State :=
  let x := s.core c
  if !s.coreRuns c then s.setCore c { x with win := { x.win with busy := false } }
  else
    let p := s.program c
    let y := Window.reads p 4 x.win []
    let s := s.setCore c { x with win := { y.1 with at_ := t + 1, busy := y.2 != [] } }
    (s.storeReads c p y.2).2.noteWindow c

end Sys2Proof.Machine
end

