-- ==== Sys2Proof/Machine/Engine.lean ====
section
/-! DEFINITION. The engines of a core: occupancies and latencies
(Table 3-1), the access schedule (Table 8-3), what each engine computes (chapters 8, 9 and 10), and `catchUp`, which
carries every issued command's accesses forward to a cycle. -/

namespace Sys2Proof.Machine

/-! ## Address registers -/

/-- A-register fields (Table 6-8). -/
def aSpace (a : Nat) : Nat := bits a 45 3
def aCore (a : Nat) : Nat := bits a 17 13
def aLine (a : Nat) : Nat := bits a 7 10
def aPhys (a : Nat) : Nat := bits a 0 39

/-! ## Occupancy and latency (Table 3-1) -/

/-- The tile count, input limbs per polynomial and shape of a macro's parameter set (Table 11-7): tiles, LOG_N, output
LEVEL (none: the input's), native figure, A1 figure. -/
structure MacroSet where
  op : Nat
  tiles : Nat
  logN : Nat
  scheme : Nat
  keyKind : Nat
  native : Nat
  a1 : Nat
  keyBytes : Nat
  deriving DecidableEq, Repr

def macroSet (aux l : Nat) : Option MacroSet :=
  match aux with
  | 0 => some ⟨0, 16, 16, 2, 1, 11520000, 12960000, 512 * 2 ^ 20⟩
  | 1 => some ⟨0, 8, 15, 2, 1, 5040000, 5670000, 192 * 2 ^ 20⟩
  | 2 => some ⟨1, 16, 15, 3, 2, 9000000, 10125000, 256 * 2 ^ 20⟩
  | 3 => some ⟨2, 1, 11, 4, 3, 1399000, 1574000, 36 * 2 ^ 20⟩
  | 4 => some ⟨3, 1, 16, 2, 0, 2400 + 6000 * l, 3000 + 6750 * l, 2 * l * 2 ^ 20⟩
  | _ => none

/-- Occupancy and latency of a command with count `n` over `h` hops and `c` crossings, under a profile (0 native, 1 A1). -/
def occLat (p w n h c : Nat) : Nat × Nat :=
  let v (occ x y : Nat) : Nat × Nat := (occ, occ + if p = 0 then x else y)
  let aux := cmdAux w
  let mode := cmdMode w
  match cmdEng w with
  | 0 => (1, if p = 0 then 1 else 2)
  | 1 =>
    match cmdOp w with
    | 0 => match bits mode 0 3 with
      | 0 => v (cdiv n 2) 12 16
      | 4 => v (4 * n) 14 18
      | 5 => v (4 * n) 14 18
      | _ => v n 12 16
    | 1 => v 32 8 16
    | _ => v 1 0 1
  | 2 =>
    match cmdOp w with
    | 0x08 => v (aux * 2 ^ (aux - 8) + 8 * aux) 24 32
    | 0x09 => v (aux * 2 ^ (aux - 8) + 8 * aux) 24 32
    | 0x0A => if p = 0 then [(420, 560), (700, 860), (1250, 1430)].getD (aux - 15) (0, 0)
              else [(460, 640), (780, 980), (1400, 1620)].getD (aux - 15) (0, 0)
    | 0x0B => if p = 0 then [(420, 560), (700, 860), (1250, 1430)].getD (aux - 15) (0, 0)
              else [(460, 640), (780, 980), (1400, 1620)].getD (aux - 15) (0, 0)
    | 0x0C => v (2 ^ (aux - 7) + 8) 16 22
    | 0x10 => v (mode * aux * (n / 128)) 20 28
    | 0x11 => v (2 * (aux - 1) * (n / 128)) 12 18
    | 0x12 => v (2 * (aux - 1) * (n / 128)) 12 18
    | 0x13 => v (aux * (n / 128)) 10 14
    | 0x14 => v (2 * aux * mode * (n / 128)) 16 24
    | o => if o < 3 then v (cdiv n 128) 3 5 else v (cdiv n 128) 6 9
  | 3 => v (cdiv n 32) 5 8
  | 4 =>
    match cmdOp w with
    | 0 => v n 8 12
    | 1 => v n (6 + 2 * h + 24 * c) (8 + 3 * h + 32 * c)
    | 5 => v n 2 4
    | 6 => v n 4 6
    | _ => (n, n)
  | _ => match macroSet aux mode with
    | some m => if p = 0 then (m.native, m.native) else (m.a1, m.a1)
    | none => (0, 0)

/-! ## The access schedule (Table 8-3) -/

def Run.w (r : Run) : Nat := r.cmd.toNat
def Run.eng (r : Run) : Nat := cmdEng r.w
def Run.op (r : Run) : Nat := cmdOp r.w

/-- The command holds its ports over its whole latency and reads its operands at issue: transforms, automorphisms,
basis operations, macros (log entry 32). -/
def wholeOp (w : Nat) : Bool := (cmdEng w == 2 && decide (8 ≤ cmdOp w)) || cmdEng w == 5

/-- The cadence of an MM's reads. -/
def mmStep (w : Nat) : Nat := if bits (cmdMode w) 0 3 = 4 ∨ bits (cmdMode w) 0 3 = 5 then 8 else 4

/-- Accesses a command makes in all. -/
def Run.total (r : Run) : Nat :=
  if wholeOp r.w then (if r.eng = 5 then 2 else 1)
  else match r.eng with
    | 1 => if r.op = 0 then cdiv r.occ (mmStep r.w) else 32
    | 2 => r.occ
    | 3 => r.occ
    | _ => r.n

/-- Cycles between two accesses: a macro reads its inputs at issue, and its result is there in its last cycles. -/
def Run.step (r : Run) : Nat :=
  if r.eng = 5 then r.lat - 3 else if r.eng = 1 ∧ r.op = 0 then mmStep r.w else 1

/-- The cycle of the next access; none when all are made. -/
def Run.next (r : Run) : Option Nat := if r.i < r.total then some (r.s + r.step * r.i) else none

/-- VXE operations that read the second and the third source (Table 9-6). -/
def vxeTwo (op : Nat) : Bool := decide (op < 0x20) && !([6, 7, 8, 0x18, 0x19, 0x1A, 0x1B].contains op)
def vxeThree (op : Nat) : Bool := op == 3 || op == 9 || op == 0x0F

/-- The read ports of access `i`: port, view, line. Bits [16:7] of the address name a line of the core's own scratchpad, whatever
the space of the register (log entry 91). -/
def Run.reads (r : Run) (i : Nat) : List (Nat × Nat × Nat) :=
  let xl := aLine r.sa + i
  match r.eng with
  | 1 =>
    if r.op = 0 then
      [(0, 0, xl), (1, 0, aLine r.sb + i)] ++ (if bits (cmdMode r.w) 5 2 = 2 ∧ i < 32 then [(2, 0, aLine r.sc + i)] else [])
    else []
  | 2 =>
    [(0, 3, aLine r.sa + 4 * i), (1, 3, aLine r.sb + 4 * i)]
      ++ (if r.op = 4 then [(2, 3, aLine r.sc + 4 * i)] else [])
  | 3 =>
    [(0, 0, xl)] ++ (if vxeTwo r.op then [(1, 0, aLine r.sb + i)] else []) ++ (if vxeThree r.op then [(2, 0, aLine r.sc + i)] else [])
  | 4 => if r.op = 5 then [] else [(0, if r.op = 6 then bits (cmdMode r.w) 0 3 else 0, xl)]
  | _ => []

/-- The uses of read ports, and of every port a command holds, in cycle `t`. -/
def Run.uses (r : Run) (t : Nat) : List Use :=
  if wholeOp r.w then
    if r.s ≤ t ∧ t < r.s + r.lat then
      ((if r.eng = 5 then [0, 1, 2, 4, 5] else [0, 1, 2, 4]).map fun p => ⟨p, 4, 0, r.s, r.origin⟩)
    else []
  else if r.next = some t then (r.reads r.i).map fun x => ⟨x.1, x.2.1, x.2.2, r.s, r.origin⟩
  else []

def LineWrite.use (w : LineWrite) : Use := ⟨w.port, w.view, w.line, w.from_, w.origin⟩

/-- Every use of a bank port in a core in cycle `t`; a write its command's hold covers books none of its own. -/
def Core.uses (x : Core) (t : Nat) : List Use :=
  x.runs.flatMap (fun r => r.uses t) ++ ((x.writes.filter fun w => w.at_ == t && w.port != 7).map LineWrite.use)

/-- A use that meets another use of the same cycle is not made (R208); two equal uses are two accesses of one line. -/
def barred (us : List Use) (u : Use) : Bool := us.any (fun v => v != u && (u.meets v).isSome) || decide (1 < us.count u)

/-- The write of a result that its command's hold covers is not made when another command uses port W in its cycle (R208). -/
def heldBarred (us : List Use) (w : LineWrite) : Bool := us.any fun v => v.port == 4 && !(v.from_ == w.from_ && v.origin == w.origin)

/-- A write is not made (R208). -/
def LineWrite.barred (us : List Use) (w : LineWrite) : Bool := if w.port = 7 then heldBarred us w else Machine.barred us w.use

/-- A command that holds a port of core `k` makes its reads of cycle `t` through it: no clash of the port has been found there. -/
def State.portClear (s : State) (k t p : Nat) : Bool :=
  match (s.core k).clashed with
  | some y => y.at_ != t || !(y.found.any fun z => z.2.2.1 == p)
  | none => true

/-- The first cycle from which a core has an access to make. -/
def Core.next (x : Core) : Option Nat :=
  let l := x.runs.filterMap Run.next ++ x.writes.map (fun w => w.at_) ++ (if x.win.busy then [x.win.at_] else [])
  match l with
  | [] => none
  | y :: r => some (r.foldl min y)

/-! ## Accumulator banks (R225 to R235) -/

def Core.acc (x : Core) (b : Nat) : AccBank := if b = 0 then x.acc0 else x.acc1
def Core.setAcc (x : Core) (b : Nat) (y : AccBank) : Core := if b = 0 then { x with acc0 := y } else { x with acc1 := y }

def accFmt (c b : Nat) : Fld := if b = 0 then F.MXE_ACC_FMT0 c else F.MXE_ACC_FMT1 c
def accPoison (c b : Nat) : Fld := if b = 0 then F.MXE_ACC_POISON0 c else F.MXE_ACC_POISON1 c

/-- Results whose latency has elapsed by cycle `t` stand in their bank: the latest of them, which carries on from those before
it (R233). -/
def State.settleAcc (s : State) (c t : Nat) : State :=
  [0, 1].foldl (fun s b =>
    let y := (s.core c).acc b
    match y.pends.reverse.findIdx? fun p => decide (p.at_ ≤ t) with
    | none => s
    | some k =>
      match y.pends[y.pends.length - 1 - k]? with
      | none => s
      | some p =>
        let s := s.setCore c ((s.core c).setAcc b { y with vals := p.vals, pends := y.pends.drop (y.pends.length - k) })
        (s.put (accFmt c b) (b2n p.fp)).put (accPoison c b) (b2n p.poison)) s

/-- A map of the nonzero words of a list. -/
def smWords (l : List Nat) : SMap (BitVec 32) :=
  (l.zipIdx.filterMap fun x => if x.1 % 2 ^ 32 = 0 then none else some (x.2, BitVec.ofNat 32 x.1))

/-- Both banks set as in R226: INT32 zero, no poison, bank 1 the drain bank. -/
def State.resetAcc (s : State) (c : Nat) : State :=
  let s := s.setCore c { s.core c with acc0 := AccBank.reset, acc1 := AccBank.reset }
  s.setReg (0x80000 + 4 * c) 1

/-- The element width and format of a panel (Table 9-3). -/
def mmFmt (mode : Nat) (alt : Bool) : Nat :=
  match bits mode 0 3, alt with
  | 0, false => 0
  | 0, true => 1
  | 1, false => 2
  | 1, true => 3
  | 2, false => 8
  | 2, true => 9
  | 3, false => 9
  | 3, true => 8
  | 4, _ => 10
  | _, _ => 11

/-- Element (i, k) of a panel: word i of line k / p, slot k mod p (R228). -/
def panel (l : List (List (Nat × Bool))) (w i k : Nat) : Nat :=
  let p := 32 / w
  bits ((l.getD (k / p) []).getD i (0, false)).1 (w * (k % p)) w

/-- One FP32 accumulation step (R232). -/
def fmaStep (fa fb : Nat) (acc : Nat × Flg) (x : Nat × Nat) : Nat × Flg :=
  let c := decodeF fmtFp32 acc.1
  let a := decodeF fa x.1
  let b := decodeF fb x.2
  let r := encodeOp fmtFp32 0 false [c, a, b] ((a.mul b).add 0 c)
  (r.1, flgOr acc.2 r.2)

/-- Element (row, col) of the result of an MM over `k` steps from the initial value `i0`. -/
def mmElem (mode k : Nat) (xs ys : List (List (Nat × Bool))) (i0 row col : Nat) : Nat × Flg :=
  let fa := mmFmt mode (bit mode 3)
  let fb := mmFmt mode (bit mode 4)
  let wa := fmtWidth fa
  let pairs := (List.range k).map fun j => (panel xs wa row j, panel ys wa col j)
  if bits mode 0 3 < 2 then
    (unsigned 32 ((i0 : Int) + (pairs.map fun x => decodeI fa x.1 * decodeI fb x.2).sum), fNone)
  else pairs.foldl (fmaStep fa fb) (i0, fNone)

/-- The MM has made its last read: its result becomes ready at s + latency. -/
def State.mmDone (s : State) (a c : Nat) (r : Run) : State :=
  let mode := cmdMode r.w
  let b := cmdField r.w 0
  let y := (s.core c).acc b
  let last := match y.pends.getLast? with
    | some p => (p.vals, p.poison)
    | none => (y.vals, s.on (accPoison c b))
  let init := bits mode 5 2
  let i0 (row col : Nat) : Nat :=
    match init with
    | 0 => 0
    | 1 => (smGet 0 last.1 (32 * row + col)).toNat
    | _ => ((r.zs.getD row []).getD col (0, false)).1
  let res := (List.range 1024).map fun k => mmElem mode r.n r.xs r.ys (i0 (k / 32) (k % 32)) (k / 32) (k % 32)
  let poison := [r.xs, r.ys, r.zs].any (fun l => l.any fun ln => ln.any fun w => w.2) || (init == 1 && last.2)
  let p : AccPend := ⟨r.s + r.lat, smWords (res.map (·.1)), decide (2 ≤ bits mode 0 3), poison⟩
  let s := s.setCore c ((s.core c).setAcc b { y with pends := y.pends ++ [p] })
  s.raiseFlags a (flgAll (res.map (·.2)))

/-- Row `i` of an ACC_STORE as it stands in cycle `t`: the words of its line. -/
def State.accRow (s : State) (a c : Nat) (r : Run) (i : Nat) : List (Nat × Bool) × State :=
  let mode := cmdMode r.w
  let f := bits mode 0 4
  let src := if s.on (accFmt c r.bank) then fmtFp32 else 6
  let y := (s.core c).acc r.bank
  let v := (List.range 32).map fun k => convert src f (if bit mode 4 then 1 else 0) 1 (smGet 0 y.vals (32 * i + k)).toNat
  let w := fmtWidth f
  let all := v.map (·.1)
  let p := s.on (accPoison c r.bank)
  ((List.range w).map fun b => (lane w (slice' all (b * (32 / w)) (32 / w)), p), s.raiseFlags a (flgAll (v.map (·.2))))
where
  /-- `n` elements from an offset. -/
  slice' (l : List Nat) (off n : Nat) : List Nat := (l.drop off).take n

/-! ## The ring engine (chapter 10) -/

/-- The modulus entry of an allotment. -/
def State.modOf (s : State) (a i : Nat) : Modulus := smGet Modulus.none (s.allot a).mods i

/-- Count ring-engine events of an open allotment (R254, R261, R266). `kind`: 0 range, 1 Galois element. -/
def State.rneEvent (s : State) (a c kind origin n : Nat) : State :=
  if n = 0 ∨ s.isSealed a then s
  else
    let s := s.bump (if kind = 0 then F.RNE_EVENTS_RANGE a else F.RNE_EVENTS_GALOIS a) n
    if s.on F.RNE_FIRST_VALID then s
    else (((s.put F.RNE_FIRST_CORE c).put F.RNE_FIRST_KIND kind).put F.RNE_FIRST_ORIGIN origin).put F.RNE_FIRST_VALID 1

/-- An input word checked against its modulus: a word of q or more is used as 0 and poisons (R254). -/
def rangeWord (q : Nat) (x : Nat × Bool) : (Nat × Bool) × Nat := if q ≤ x.1 then ((0, true), 1) else (x, 0)

/-- One residue of an element-wise operation (Table 10-3). -/
def rneElem (m : Modulus) (op a b c : Nat) : Nat :=
  match op with
  | 0 => (reduceLane m (a + b)).toNat
  | 1 => (reduceLane m (a + m.q - b)).toNat
  | 2 => (reduceLane m (m.q - a)).toNat
  | 3 => (reduceLane m (a * b)).toNat
  | _ => (reduceLane m (a * b + c)).toNat

/-- Every `n` words of a list. -/
def cut (n : Nat) (l : List Nat) : List (List Nat) := (List.range (l.length / max 1 n)).map fun i => (l.drop (i * n)).take n

/-- The value of limb `l`, position `j` of a cut operand. -/
def at2 (x : List (List Nat)) (l j : Nat) : Nat := (x.getD l []).getD j 0

/-- Words read from each source by an operation that holds its ports: SA, SB. -/
def wholeCounts (w n : Nat) : Nat × Nat :=
  let aux := cmdAux w
  let mode := cmdMode w
  match cmdOp w with
  | 0x08 => (2 ^ aux, 0)
  | 0x09 => (2 ^ aux, 0)
  | 0x0A => (2 ^ (aux - 5), 0)
  | 0x0B => (2 ^ (aux - 5), 0)
  | 0x0C => (2 ^ aux, 0)
  | 0x10 => (mode * n, 0)
  | 0x11 => (aux * n, 0)
  | 0x12 => (aux * n, 0)
  | 0x13 => (n, 0)
  | _ => (aux * mode * n, 2 * aux * mode * n)

/-- The index of the modulus that word `j` of a source is reduced by; none for AUTO. -/
def wholeLimb (w n j : Nat) : Option Nat :=
  match cmdOp w with
  | 0x0C => none
  | 0x10 => some (cmdSlot w + j / max 1 n)
  | 0x11 => some (cmdSlot w + j / max 1 n)
  | 0x12 => some (cmdSlot w + j / max 1 n)
  | 0x14 => some (cmdSlot w + j / max 1 n % max 1 (cmdMode w))
  | _ => some (cmdSlot w)

/-- The output words of an operation that holds its ports (R256, R260, Table 10-4), from its input words. -/
def wholeOut (md : Nat → Modulus) (w n par : Nat) (xs ys : List Nat) : List Nat :=
  let aux := cmdAux w
  let mode := cmdMode w
  let sl := cmdSlot w
  let q (i : Nat) : Nat := (md (sl + i)).q
  let xl := cut n xs
  let yl := cut n ys
  let pos := List.range n
  match cmdOp w with
  | 0x08 => nttQ (md sl) aux xs
  | 0x09 => inttQ (md sl) aux xs
  | 0x0A => nttQ (md sl) aux xs
  | 0x0B => inttQ (md sl) aux xs
  | 0x0C => (List.range (2 ^ aux)).map fun i => xs.getD (autoFrom aux (par % 2 ^ (aux + 1)) i) 0
  | 0x10 => (List.range aux).flatMap fun o => pos.map fun j =>
      bconvAt ((List.range mode).map fun l => (q l, at2 xl l j)) (q (mode + o))
  | 0x13 =>
    let b := cdiv ((md sl).k + 1) (max 1 aux)
    let ds := pos.map fun j => gdigits b aux (centred (q 0) (at2 xl 0 j))
    (List.range aux).flatMap fun o => ds.map fun d => modQ (q 0) (d.getD o 0)
  | 0x14 =>
    (List.range 2).flatMap fun cc => (List.range mode).flatMap fun l => pos.map fun j =>
      ((List.range aux).map fun r => at2 xl (r * mode + l) j * at2 yl ((2 * r + cc) * mode + l) j).sum % q l
  | _ => (List.range (aux - 1)).flatMap fun l => pos.map fun j =>
      rescaleAt (q l) (at2 xl l j) (q (aux - 1)) (at2 xl (aux - 1) j)

/-- The words and the tag of a read that a clash keeps from being made (R208): free (log entry 91). -/
def State.lostRead (s : State) (n : Nat) : List (Nat × Bool) × BitVec 64 × State :=
  ((List.range n).map fun k => (Config.anyNat (s.free + k) % 2 ^ 32, false), BitVec.ofNat 64 (Config.anyNat (s.free + n)),
    { s with free := s.free + n + 1 })

/-- The read of one port in cycle `t`, when it is made. -/
def State.portRead (s : State) (c t view l origin : Nat) (made : Bool) : List (Nat × Bool) × BitVec 64 × State :=
  if made then s.wideRead c t view l origin else s.lostRead 32

/-- Read `n` words in line view from a line on, in cycle `t`: words with poison, the state with the events. -/
def State.readWords (s : State) (c t l n origin : Nat) : List (Nat × Bool) × State :=
  let r := (List.range (cdiv n 32)).foldl (fun (acc : List (List (Nat × Bool)) × State) i =>
    let x := acc.2.wideRead c t 0 (l + i) origin
    (x.1 :: acc.1, x.2.2)) ([], s)
  (r.1.reverse.flatten.take n, r.2)

/-- Those words, or free ones where the read is not made. -/
def State.someWords (s : State) (c t l n origin : Nat) (made : Bool) : List (Nat × Bool) × State :=
  if made then s.readWords c t l n origin else let x := s.lostRead n; (x.1, x.2.2)

/-- Writes of a list of words from a line on, in line view, all made in one cycle under the command's hold. -/
def heldWrites (at_ l : Nat) (ws : List (Nat × Bool)) (tag : BitVec 64) (from_ origin : Nat) : List LineWrite :=
  (List.range (cdiv ws.length 32)).map fun i => wideWrite at_ 7 0 (l + i) ((ws.drop (32 * i)).take 32) tag from_ origin

/-- Book writes in a core. -/
def State.addWrites (s : State) (c : Nat) (l : List LineWrite) : State :=
  s.setCore c { s.core c with writes := (s.core c).writes ++ l }

/-- The cores of a command that spans its tile: NTT4 and INTT4, macros. -/
def spanOf (w c : Nat) : List Nat :=
  if (cmdEng w = 2 ∧ (cmdOp w = 0x0A ∨ cmdOp w = 0x0B)) ∨ cmdEng w = 5 then (List.range 32).map fun i => c / 32 * 32 + i else [c]

/-- An operation of the ring engine that holds its ports reads its operands at issue and writes at s + latency - 2. -/
def State.wholeAccess (s : State) (a c t : Nat) (r : Run) : State :=
  let w := r.w
  let cores := spanOf w c
  let cnt := wholeCounts w r.n
  let rx := cores.foldl (fun (acc : List (Nat × Bool) × State) k =>
    let x := acc.2.someWords k t (aLine r.sa) cnt.1 r.origin (s.portClear k t 0)
    (acc.1 ++ x.1, x.2)) ([], s)
  let ry := rx.2.someWords c t (aLine r.sb) cnt.2 r.origin (s.portClear c t 1)
  let s := ry.2
  let chk (l : List (Nat × Bool)) : List ((Nat × Bool) × Nat) := l.zipIdx.map fun x =>
    match wholeLimb w r.n x.2 with
    | some i => rangeWord (s.modOf a i).q x.1
    | none => (x.1, 0)
  let xs := chk rx.1
  let ys := chk ry.1
  let s := s.rneEvent a c 0 r.origin ((xs.map (·.2)).sum + (ys.map (·.2)).sum)
  let even := cmdOp w == 0x0C && r.par % 2 == 0
  let s := if even then s.rneEvent a c 1 r.origin 1 else s
  let bad := even || xs.any (fun x => x.1.2) || ys.any (fun x => x.1.2)
  let out := (wholeOut (fun i => s.modOf a i) w r.n r.par (xs.map (·.1.1)) (ys.map (·.1.1))).map fun v => (v, bad)
  let per := out.length / cores.length
  cores.zipIdx.foldl (fun s k =>
    s.addWrites k.1 (heldWrites (r.s + r.lat - 2) (aLine r.da) ((out.drop (k.2 * per)).take per) r.tag r.s r.origin)) s

/-! ## Macros (R286 to R289) -/

/-- What the free choices of a plan's run may depend on: its measurement and its plan turn. -/
def State.runKey (s : State) (a : Nat) : List Nat :=
  match (s.allot a).active with
  | some p => p.meas.map (·.toNat) ++ [(s.allot a).planTurn]
  | none => []

/-- Scratchpad lines of one core's shard of a macro's object of `limbs` limbs (log entry 34). -/
def macroLines (m : MacroSet) (polys limbs : Nat) : Nat :=
  if m.keyKind = 3 then 24 else min 1024 (polys * limbs * 2 ^ m.logN / (m.tiles * 32 * 32))

/-- Stored unit `u` of a record is a seed line: of it only the lower block is read (R312). -/
def rvIsSeed (r : Bytes) (u : Nat) : Bool := rvSeeded r && u % max 1 (rvStored r) == rvP r

/-- A block is one that a record with MACRO reads (R314). -/
def rvReads (pages : SMap Nat) (r : Bytes) (b : Nat) : Bool :=
  pages.any fun g =>
    let v := g.1 * pageSize + 64 * b % pageSize
    g.2 == 64 * b / pageSize * pageSize && decide (rvSrc r ≤ v) && decide (v < rvSrc r + rvRead r)
      && !(rvIsSeed r ((v - rvSrc r) / 128) && (v - rvSrc r) % 128 == 64)

/-- The cycle of the first served slot of a FLUME record's transfer. -/
def flStart (pages : SMap Nat) (r : Bytes) : Nat :=
  match rvServe r (rvStamp r) (xl pages (rvSrc r)) (2 * (rvRead r / 128)) with
  | some v => 16 * v.1
  | none => 16 * cdiv (rvStamp r) 16

/-- The blocks of it that plan writes of this turn change: what its reads find there is `planBlock`'s to say (R300). -/
def State.keyEarly (s : State) (pages : SMap Nat) (r : Bytes) : List Nat := ((s.early.map (·.blk)).filter (rvReads pages r)).dedup

/-- Its blocks that hold an error or poison, or may; the others have no event. -/
def State.keyDamage (s : State) (pages : SMap Nat) (r : Bytes) : List Nat :=
  ((s.blkCode.map (·.1)).filter (rvReads pages r) ++ s.keyEarly pages r).dedup

/-- The bytes of the key that a MACRO record streams, as its reads find them (R300), in stored order, the zero ones left out: place and
value. -/
def State.keyCells (s : State) (key : List Nat) (pages : SMap Nat) (r : Bytes) : List Nat :=
  let t := flStart pages r
  let early := s.keyEarly pages r
  let cells := (pagesOf (rvSrc r) (rvRead r)).flatMap fun g =>
    let p := xl pages g.1
    let here (x : Nat) : Bool := decide (p ≤ x) && decide (x < p + g.2.2)
    let still := (s.mem.filter fun c => here c.1 && !early.contains (c.1 / 64)).map fun c => (c.1, c.2.toNat)
    let moved := (early.filter fun b => here (64 * b)).flatMap fun b =>
      ((s.planBlock key b t).data.zipIdx.filter fun x => x.1 != 0).map fun x => (64 * b + x.2, x.1.toNat)
    (still ++ moved).map fun c => (c.1 - p + g.2.1, c.2)
  ((cells.filter fun c => !(rvIsSeed r (c.1 / 128) && decide (32 ≤ c.1 % 128))).mergeSort fun x y => decide (x.1 ≤ y.1)).flatMap
    fun c => [c.1, c.2]

/-- The FLUME records that feed a macro (R314): those with MACRO over its tile whose slots lie in its run. -/
def State.macroFeeds (s : State) (a c : Nat) (r : Run) : List (Nat × Bytes) :=
  match (s.allot a).active with
  | none => []
  | some p => (p.resv.zipIdx.filter fun x =>
      let v := x.1
      let tile := s.logCore a c / 32
      rvKind v == 1 && rvMacro v && rvApplies v (s.allot a).planTurn && decide (rvFirstTile v ≤ tile)
        && decide (tile < rvFirstTile v + rvTiles v) && decide (r.s ≤ 16 * rvFirst v) && decide (16 * rvFirst v < r.s + r.lat)).map
      fun x => (x.2, x.1)

/-- What a macro reads in its issue cycle: its shard in each core of its tile, and for set 3 the table in core 0, whose words are compared with
the modulus at SLOT as every input of the ring engine (R254, R289). -/
def State.macroReads (s : State) (a c t : Nat) (r : Run) (m : MacroSet) : Run × State :=
  let l := max 1 (cmdMode r.w)
  let n := macroLines m (if m.keyKind = 0 then 1 else 2) (if m.keyKind = 0 then l else 1)
  let x := (spanOf r.w c).foldl (fun (acc : List (List (Nat × Bool)) × State) k =>
    let rd := acc.2.someWords k t (aLine r.sa) (32 * n) r.origin (s.portClear k t 0)
    (acc.1 ++ [rd.1], rd.2)) ([], s)
  if m.keyKind = 3 then
    let y := x.2.someWords c t (aLine r.sc) 2048 r.origin (s.portClear c t 2)
    let z := y.1.map (rangeWord (s.modOf a (cmdSlot r.w)).q)
    ({ r with xs := x.1, ys := [z.map (·.1)] }, y.2.rneEvent a c 0 r.origin (z.map (·.2)).sum)
  else ({ r with xs := x.1, ys := [] }, x.2)

/-- What the whole group of a macro has read (R184, R286): the runs of its command, tile by tile. -/
def State.macroGroup (s : State) (c : Nat) (r : Run) : List (Nat × Bool) :=
  (s.cores.map (·.1)).flatMap fun k =>
    let l := if k = c then [r] else (s.core k).runs.filter fun q => q.eng == 5 && q.origin == r.origin && q.s == r.s
    l.flatMap fun q => q.xs.flatten ++ q.ys.flatten

/-- The key of a macro is late at its end (R288, log entry 71): a record that feeds it has not started its transfer, or is served beyond it; a
stack that inserts refreshes may make any line late (R306). -/
def State.macroLate (s : State) (a : Nat) (r : Run) (feeds : List (Nat × Bytes)) : Bool :=
  let pages := match (s.allot a).active with | some p => p.pages | none => []
  feeds.isEmpty || feeds.any fun x =>
    let p := xl pages (rvSrc x.2)
    smGet 0 (s.allot a).flumes x.1 == 0
      || (match rvServe x.2 (rvStamp x.2) p (2 * (rvRead x.2 / 128)) with | some v => decide (r.s + r.lat < 16 * (v.2 + 1)) | none => false)
      || (s.on (F.HBM_STACK_INSERTING (stackOf p)) && Config.anyNat s.free % 2 == 1)

/-- A macro ends: each line of its cores takes values that the spec does not state, a function of parameter set, moduli, inputs, table and
key alone (R288, R289, log entry 14), all poisoned when any of what they depend on is (R218). A key that comes late is a breach. -/
def State.macroWrites (s : State) (a c : Nat) (r : Run) (m : MacroSet) : State :=
  let feeds := s.macroFeeds a c r
  let late := s.macroLate a r feeds
  let s := { s with free := s.free + 1 }
  let ins := s.macroGroup c r
  let pages := match (s.allot a).active with | some p => p.pages | none => []
  let key := s.runKey a
  let bad := ins.any (·.2) || feeds.any fun x => (s.keyDamage pages x.2).any fun b => !(s.planBlock key b (flStart pages x.2)).ecc.usable
  let base := [cmdAux r.w, cmdMode r.w, cmdSlot r.w] ++ ((List.range 64).map fun i => (s.modOf a i).q) ++ ins.map (·.1) ++ feeds.flatMap fun x => s.keyCells key pages x.2
  let outLines := macroLines m 2 (bits r.tag.toNat 35 6)
  let s := if late then (s.put (F.TIL_CORE_STATE_LAST_BREACH c) 2).breach a 2 r.origin c else s
  (spanOf r.w c).foldl (fun s k =>
    let at_ := s.logCore a k
    s.addWrites k ((List.range 1024).map fun i =>
      let tag := if i < outLines then r.tag else tagOf ((Config.macroWord (base ++ [at_, i, 32])).toNat)
      { wideWrite (r.s + r.lat - 2) 7 0 (aLine r.da + i)
          ((List.range 32).map fun b => ((Config.macroWord (base ++ [at_, i, b])).toNat, bad)) tag r.s r.origin with
        lines := [(aLine r.da + i) % 1024] })) s

/-- The two accesses of a macro. -/
def State.macroAccess (s : State) (a c t : Nat) (r : Run) : Run × State :=
  let next (q : Run) : Run := { q with i := q.i + 1 }
  match macroSet (cmdAux r.w) (cmdMode r.w) with
  | none => (next r, s)
  | some m =>
    if r.i = 0 then let x := s.macroReads a c t r m; (next x.1, x.2)
    else (next r, s.macroWrites a c r m)

/-! ## A unit of external memory as a plan reads it -/

/-- The tag that a unit lands with (R295, R308): of two poisoned blocks with different copies, the first's (log entry 92). -/
def unitLandTag (x y : OldBlock) : BitVec 64 :=
  if x.ecc.usable && y.ecc.usable then (if x.tag = y.tag then x.tag else 0)
  else if !x.ecc.usable && x.ecc.decodes then poisonTag x.tag
  else if !y.ecc.usable && y.ecc.decodes then poisonTag y.tag
  else if x.ecc.decodes then poisonTag x.tag
  else if y.ecc.decodes then poisonTag y.tag
  else BitVec.ofNat 64 (2 ^ 64 - 1)

/-- The words and the tag that a unit lands with (R295, R308). -/
def landUnit (x y : OldBlock) : List (Nat × Bool) × BitVec 64 :=
  let words (z : OldBlock) : List (Nat × Bool) := (List.range 16).map fun i => (fieldAt z.data (4 * i) 4, !z.ecc.usable)
  (words x ++ words y, unitLandTag x y)

/-- The unit at a physical address as a plan finds it whose service starts in cycle `t`. -/
def State.peekUnit (s : State) (key : List Nat) (p t : Nat) : List (Nat × Bool) × BitVec 64 :=
  landUnit (s.planBlock key (p / 64) t) (s.planBlock key (p / 64 + 1) t)

/-- The events of reading it. -/
def State.unitEvents (s : State) (key : List Nat) (p t allot : Nat) : State :=
  (s.planEvent (s.planBlock key (p / 64) t) allot).planEvent (s.planBlock key (p / 64 + 1) t) allot

/-! ## Moves -/

/-- The bytes of 32 words. -/
def lineBytes (ws : List (Nat × Bool)) : Bytes := ws.flatMap fun w => toLe 4 w.1

/-- Write one line to a unit of external memory with its tag; a block that holds a poisoned word is poisoned (R309). -/
def State.writeUnit (s : State) (p : Nat) (ws : List (Nat × Bool)) (tag : BitVec 64) : State :=
  let s := s.wrRaw p (lineBytes ws)
  let ecc (k : Nat) : BlockCode := if ((ws.drop (16 * k)).take 16).any (·.2) then .bad else .good
  let tag := if ws.any (·.2) then poisonTag tag else tag
  (s.setBlock (p / 64) tag (ecc 0)).setBlock (p / 64 + 1) tag (ecc 1)

/-- One access of a MOV that reads a line: where the line goes. A MEM_WR carries in `par` the cycle from which its writes
are visible (Table 3-2). -/
def State.movAccess (s : State) (a c : Nat) (r : Run) (ws : List (Nat × Bool)) (raws : List (BitVec 39)) (tag : BitVec 64) : State :=
  let at_ := r.s + r.lat - r.occ - 1 + r.i
  match r.op with
  | 0 => s.addWrites c [wideWrite at_ 4 0 (aLine r.da + r.i) ws tag r.s r.origin]
  | 1 =>
    if 4608 ≤ aCore r.da then
      let x := s.allot a
      let line := (lineBytes ws, if ws.any (·.2) then poisonTag tag else tag)
      s.setAllot a { x with txs := x.txs.map fun b => if b.record == aCore r.da - 4608 then { b with lines := b.lines ++ [line] } else b }
    else s.addWrites (aCore r.da) [{ wideWrite at_ 5 0 (aLine r.da + r.i) ws tag r.s r.origin raws with route := r.route }]
  | 3 =>
    let p := aPhys r.da / 128 * 128 + 128 * r.i
    let old (b : Nat) : OldBlock := ⟨b, s.rdBytes (64 * b) 64, s.blockTag b, s.blockCode b, r.par⟩
    { s with early := s.early ++ [old (p / 64), old (p / 64 + 1)] }.writeUnit p ws tag
  | _ => s.addWrites c [wideWrite at_ 4 (bits (cmdMode r.w) 3 3) (aLine r.da + r.i) ws tag r.s r.origin]

/-! ## One access of a run -/

/-- Words of one quad, four lines from line `l`. -/
def State.quadRead (s : State) (c t l origin : Nat) (made : Bool) : List (Nat × Bool) × State := s.someWords c t l 128 origin made

/-- Access `i` of an element-wise ring operation: a quad from each source, a quad written (R206). NEG reads its second source too (Tables 6-3,
8-3) and takes no value from it. -/
def State.rneAccess (s : State) (a c t : Nat) (r : Run) (made : Nat → Bool) : State :=
  let m := s.modOf a (cmdSlot r.w)
  let x := s.quadRead c t (aLine r.sa + 4 * r.i) r.origin (made 0)
  let y := x.2.quadRead c t (aLine r.sb + 4 * r.i) r.origin (made 1)
  let z := if r.op = 4 then y.2.quadRead c t (aLine r.sc + 4 * r.i) r.origin (made 2) else ([], y.2)
  let k := min 128 (r.n - 128 * r.i)
  let res := (List.range k).map fun j =>
    let wx := rangeWord m.q (x.1.getD j (0, false))
    let wy := if r.op = 2 then ((0, false), 0) else rangeWord m.q (y.1.getD j (0, false))
    let wz := if r.op = 4 then rangeWord m.q (z.1.getD j (0, false)) else ((0, false), 0)
    ((rneElem m r.op wx.1.1 wy.1.1 wz.1.1, wx.1.2 || wy.1.2 || wz.1.2), wx.2 + wy.2 + wz.2)
  let s := z.2.rneEvent a c 0 r.origin (res.map (·.2)).sum
  let l := aLine r.da + 4 * r.i
  let words := (List.range k).map fun j =>
    let v := res.getD j ((0, false), 0)
    { line := (l + j / 32) % 1024, bank := j % 32, mask := 2 ^ 32 - 1, val := v.1.1, poison := v.1.2, raw := none : PutWord }
  s.addWrites c [{ at_ := r.s + r.lat - r.occ - 1 + r.i, port := 4, view := 3, line := l, words := words
                   lines := (List.range (cdiv k 32)).map fun q => (l + q) % 1024, tag := r.tag, from_ := r.s, origin := r.origin
                   route := 0xFFFFFFFF }]

/-- Access `i` of a VXE stream (R236 to R243). -/
def State.vxeAccess (s : State) (a c t : Nat) (r : Run) (made : Nat → Bool) : State :=
  let x := s.portRead c t 0 (aLine r.sa + r.i) r.origin (made 0)
  let y := if vxeTwo r.op then x.2.2.portRead c t 0 (aLine r.sb + r.i) r.origin (made 1) else ([], 0, x.2.2)
  let z := if vxeThree r.op then y.2.2.portRead c t 0 (aLine r.sc + r.i) r.origin (made 2) else ([], 0, y.2.2)
  let k := min 32 (r.n - 32 * r.i)
  let q := (s.modOf a (cmdSlot r.w)).q
  let res := (List.range k).map fun j =>
    let wx := x.1.getD j (0, false)
    let wy := y.1.getD j (0, false)
    let wz := z.1.getD j (0, false)
    let v := if r.op < 0x20 then let u := vxeLane r.op (cmdMode r.w) wx.1 wy.1 wz.1; (2 ^ 32 - 1, u.1, u.2)
      else cvtLane (r.op % 8) (r.op / 8 % 4) (bits (cmdMode r.w) 0 4) (bits (cmdMode r.w) 4 4) q wx.1
    (v, wx.2 || wy.2 || wz.2)
  let s := z.2.2.raiseFlags a (flgAll (res.map fun y => y.1.2.2))
  let l := (aLine r.da + r.i) % 1024
  let words := (List.range k).map fun j =>
    let v := res.getD j ((0, 0, 0), false)
    { line := l, bank := j, mask := v.1.1, val := v.1.2.1, poison := v.2, raw := none : PutWord }
  s.addWrites c [{ at_ := r.s + r.lat - r.occ - 1 + r.i, port := 4, view := 0, line := l, words := words, lines := [l], tag := r.tag,
                   from_ := r.s, origin := r.origin, route := 0xFFFFFFFF }]

/-- Access `i` of an MM: one line of each panel. -/
def State.mmAccess (s : State) (a c t : Nat) (r : Run) (made : Nat → Bool) : Run × State :=
  let x := s.portRead c t 0 (aLine r.sa + r.i) r.origin (made 0)
  let y := x.2.2.portRead c t 0 (aLine r.sb + r.i) r.origin (made 1)
  let useZ := bits (cmdMode r.w) 5 2 = 2 ∧ r.i < 32
  let z := if useZ then y.2.2.portRead c t 0 (aLine r.sc + r.i) r.origin (made 2) else ([], 0, y.2.2)
  let r := { r with
    xs := r.xs ++ [x.1], ys := r.ys ++ [y.1], zs := if useZ then r.zs ++ [z.1] else r.zs, i := r.i + 1 }
  (r, if r.i = r.total then z.2.2.mmDone a c r else z.2.2)

/-- The next access of a run, in cycle `t`; `made` says of each read port whether its access is made. -/
def State.access (s : State) (a c t : Nat) (r : Run) (made : Nat → Bool) : Run × State :=
  if r.eng = 1 ∧ r.op = 0 then s.mmAccess a c t r made
  else
    let r' := { r with i := r.i + 1 }
    match r.eng with
    | 1 =>
      let x := s.accRow a c r r.i
      let v := bits (cmdMode r.w) 5 3
      let l := aLine r.da
      -- COLUMN: column DA[11:7] + i of the block at DA (R215)
      let at_ := if v = 2 then l / 32 * 32 + (l + r.i) % 32 else l + r.i
      (r', x.2.addWrites c [wideWrite (r.s + r.lat - r.occ - 1 + r.i) 4 v at_ x.1 r.tag r.s r.origin])
    | 2 => (r', if wholeOp r.w then s.wholeAccess a c t r else s.rneAccess a c t r made)
    | 3 => (r', s.vxeAccess a c t r made)
    | 4 =>
      if r.op = 5 then
        (r', s.addWrites c [wideWrite (r.s + r.lat - r.occ - 1 + r.i) 4 0 (aLine r.da + r.i) (List.replicate 32 (r.par, false)) 0 r.s r.origin])
      else
        let view := if r.op = 6 then bits (cmdMode r.w) 0 3 else 0
        let x := s.portRead c t view (aLine r.sa + r.i) r.origin (made 0)
        (r', x.2.2.movAccess a c r x.1 (if made 0 then (s.core c).rawLine t view (aLine r.sa + r.i) else []) x.2.1)
    | _ => s.macroAccess a c t r

/-! ## Cycles -/

/-- What core `c` does in cycle `t`: the cursor reads, clashes are recorded, reads are made, then writes. An access that clashes is not
made, be it with one of a command that the clash kept from issuing (R82). -/
def State.coreCycle (s : State) (c t : Nat) : State :=
  let a := s.ownerOf c
  let s := if (s.core c).win.busy && decide ((s.core c).win.at_ ≤ t) then s.readWindow c t else s
  let s := s.settleAcc c t
  let s := s.recordClash a c t ((s.core c).uses t)
  let x := s.core c
  let us := x.claims t (x.uses t)
  let due := x.writes.filter fun w => w.at_ == t
  let runs := x.runs
  let s := s.setCore c { x with runs := [], writes := x.writes.filter fun w => w.at_ != t }
  let s := runs.foldl (fun s r =>
    if r.next = some t then
      let y := s.access a c t r fun p => !((r.uses t).any fun u => u.port == p && barred us u)
      y.2.setCore c { y.2.core c with runs := (y.2.core c).runs ++ [y.1] }
    else s.setCore c { s.core c with runs := (s.core c).runs ++ [r] }) s
  let s := s.setCore c { s.core c with runs := (s.core c).runs.filter fun r =>
    r.next.isSome || (wholeOp r.w && decide (t < r.s + r.lat - 1)) }
  portOrder.foldl (fun s p => (due.filter fun w => w.port == p && !w.barred us).foldl (fun s w => s.lineWrite c w) s) s

/-- The first cycle in which some core has an access to make. -/
def State.coreNext (s : State) : Option Nat :=
  match s.cores.filterMap fun x => x.2.next with
  | [] => none
  | y :: r => some (r.foldl min y)

/-- Make every access that falls before cycle `lim`, cycle by cycle; `fuel` bounds the cycles. -/
def State.catchUp : Nat → Nat → State → State
  | 0, _, s => s
  | fuel + 1, lim, s =>
    match s.coreNext with
    | none => s
    | some t =>
      if t < lim then
        let s := s.advanceTo t
        let cs := (s.cores.filter fun x => x.2.next == some t).map (·.1)
        State.catchUp fuel lim (cs.foldl (fun s c => s.coreCycle c t) s)
      else s

/-- Results that are ready by cycle `t` stand in every core's banks. -/
def State.settleAccs (s : State) (t : Nat) : State :=
  ((s.cores.filter fun x => !(x.2.acc0.pends.isEmpty && x.2.acc1.pends.isEmpty)).map (·.1)).foldl (fun s c => s.settleAcc c t) s

/-- Carry every core to cycle `c` of the current turn; no turn holds 2^27 cycles. -/
def State.coresTo (s : State) (c : Nat) : State := (State.catchUp (2 ^ 27) c s).settleAccs c

end Sys2Proof.Machine
end

