-- ==== Sys2Proof/Machine/Tags.lean ====
section
/-! DEFINITION. Tags (Table 11-2): well-formedness, the general rules of R277, the command rules of Table 11-3, opening
shares (R292), macro inputs (R287), and the output tag of each command. -/

namespace Sys2Proof.Machine

/-! ## Fields -/

def tScheme (t : Nat) : Nat := bits t 0 4
def tLevel (t : Nat) : Nat := bits t 4 6
def tScale (t : Nat) : Nat := bits t 10 8
def tKey (t : Nat) : Nat := bits t 18 12
def tLogN (t : Nat) : Nat := bits t 30 5
def tLimbs (t : Nat) : Nat := bits t 35 6
def tParty (t : Nat) : Nat := bits t 41 4
def tSealed (t : Nat) : Bool := bit t 45
def tPoison (t : Nat) : Bool := bit t 46

/-- A tag with one field replaced. -/
def tWith (t lo w v : Nat) : Nat := t - bits t lo w * 2 ^ lo + v % 2 ^ w * 2 ^ lo

/-- The tag without POISON and check byte, as comparisons "apart from POISON" read it. -/
def tBare (t : Nat) : Nat := tWith (t % 2 ^ 56) 46 1 0

def isCt (s : Nat) : Bool := decide (2 ≤ s) && decide (s ≤ 5)
def isRing (s : Nat) : Bool := decide (1 ≤ s) && decide (s ≤ 5)
def isShare (s : Nat) : Bool := decide (6 ≤ s) && decide (s ≤ 8)
def scEvkey : Nat := 9
def scMask : Nat := 10
def scOpened : Nat := 11

/-- SEALED, or of a share or MASK scheme (R278). -/
def sensitive (t : Nat) : Bool := tSealed t || isShare (tScheme t) || tScheme t == scMask

/-! ## Causes (Table 11-4) -/

def tcLevelDiff : Nat := 0x90
def tcKeyDiff : Nat := 0x91
def tcLevelZero : Nat := 0x92
def tcScheme : Nat := 0x93
def tcShape : Nat := 0x94
def tcScale : Nat := 0x95
def tcParty : Nat := 0x96
def tcSealed : Nat := 0x97
def tcForm : Nat := 0x98
def tcKeyState : Nat := 0x99
def tcSpent : Nat := 0x9A
def tcMacro : Nat := 0x9B

/-- What is wrong with the form of a tag (R270). -/
def tagFault (t : Nat) : Option Nat :=
  if bits t 56 8 ≠ crc8 (toLe 7 t) ∨ bits t 47 9 ≠ 0 then some tcForm
  else if 12 ≤ tScheme t then some tcScheme
  else if tScheme t = 0 then (if t = 0 then none else some tcScheme)
  else if tLimbs t = 0 ∨ tLogN t < 10 ∨ 17 < tLogN t then some tcScheme
  else none

/-- Causes that apply. -/
def causesOf (l : List (Bool × Nat)) : List Nat := l.filterMap fun x => if x.1 then some x.2 else none

/-! ## General rules (R277) -/

/-- The rules every source of a command meets. -/
def generalCauses (isSealed : Bool) (party : Nat) (l : List Nat) : List Nat :=
  let tagged := l.filter fun t => tScheme t != 0
  tagged.flatMap (fun t => causesOf [
    (!isSealed && sensitive t, tcSealed),
    (isSealed && tScheme t != scOpened && !tSealed t, tcSealed),
    (isSealed && tParty t != party, tcParty)]) ++
  causesOf [(tagged.any fun t => tagged.any fun u => tLogN t != tLogN u || tLimbs t != tLimbs u, tcShape)]

/-! ## Ring-engine rules (Table 11-3) -/

/-- A pairing that ADD and SUB, or MUL, admit. -/
def pairOk (mul : Bool) (x y : Nat) : Bool :=
  let a := tScheme x
  let b := tScheme y
  (isCt a && isCt b && a == b) || (isCt a && b == 1) || (a == 1 && isCt b) || (a == 1 && b == 1)
    || (!mul && a == 8 && b == 8) || (a == 8 && b == scOpened) || (a == scOpened && b == 8)

/-- The causes of combining two tags, and the combined tag: of ADD and SUB, or of MUL. -/
def combine (mul : Bool) (x y : Nat) : List Nat × Nat :=
  let tagged := [x, y].filter fun t => tScheme t != 0
  let cts := tagged.filter fun t => isCt (tScheme t)
  let approx := tagged.filter fun t => tScheme t == 2
  let differ (l : List Nat) (f : Nat → Nat) : Bool := l.any fun t => l.any fun u => f t != f u
  let ok := if tagged.length = 2 then pairOk mul x y
    else tagged.all fun t => isRing (tScheme t) || tScheme t == 8 || tScheme t == scOpened
  let total := (tagged.map tScale).sum
  let out := match tagged.find? fun t => tScheme t != scOpened with
    | some t => t
    | none => tagged.getD 0 0
  if !ok then ([tcScheme], 0)
  else
    (causesOf [(mul && cts.any (fun t => tLevel t == 0), tcLevelZero), (differ tagged tLevel, tcLevelDiff),
      (differ cts tKey, tcKeyDiff), (!mul && differ approx tScale, tcScale), (mul && decide (255 < total), tcScale)],
     if mul ∧ out ≠ 0 then tWith out 10 8 total else out)

/-- The key-table entry of a key id (R280). -/
def State.keyOf (s : State) (a id : Nat) : Option KeyEntry := ((s.allot a).keys.find? fun e => e.1 == id).map (·.2)

/-- SHARE_OPEN (R292): `x` a share and `y` a MASK. The OPENED tag, and the key id whose mask is spent. -/
def State.shareOpen (s : State) (a c x y : Nat) (okOp : Bool) : List Nat × Nat × Option Nat :=
  if !okOp then ([tcScheme], 0, none)
  else match s.keyOf a (tKey y) with
    | some e =>
      if e.kind ≠ 4 then ([tcKeyState], 0, none)
      else if (s.core c).spent.contains (tKey y) then ([tcSpent], 0, none)
      else ([], scOpened + 2 ^ 30 * tLogN x + 2 ^ 35 * tLimbs x, some (tKey y))
    | none => ([tcKeyState], 0, none)

/-- Rules of the ring engine: causes, output tag before R277, mask spent. -/
def State.rneRules (s : State) (a c w x y z : Nat) : List Nat × Nat × Option Nat :=
  let aux := cmdAux w
  let mode := cmdMode w
  let sx := tScheme x
  let one (ok : Bool) (l : List (Bool × Nat)) (out : Nat) : List Nat × Nat × Option Nat :=
    if sx = 0 then ([], 0, none) else if ok then (causesOf l, out, none) else ([tcScheme], 0, none)
  let plainCt := isRing sx
  match cmdOp w with
  | 0x00 => let r := combine false x y; (r.1, r.2, none)
  | 0x01 =>
    if isShare sx ∧ tScheme y = scMask then s.shareOpen a c x y (sx == 8)
    else let r := combine false x y; (r.1, r.2, none)
  | 0x02 => one (!([scEvkey, scMask, 6, 7].contains sx)) [] x
  | 0x03 => let r := combine true x y; (r.1, r.2, none)
  | 0x04 =>
    let p := combine true x y
    if p.1 ≠ [] then (p.1, 0, none)
    else let r := combine false p.2 z; (r.1, if p.2 = 0 ∨ tScheme p.2 = scOpened then r.2 else p.2, none)
  | 0x10 => one plainCt [(tLimbs x != mode, tcShape)] (tWith x 35 6 aux)
  | 0x11 =>
    let k := (s.modOf a (cmdSlot w + aux - 1)).k
    one plainCt [(tLevel x == 0, tcLevelZero), (tLimbs x != aux, tcShape), (sx == 2 && decide (tScale x < k), tcScale)]
      (let t := tWith (tWith x 4 6 (tLevel x - 1)) 35 6 (tLimbs x - 1); if sx = 2 then tWith t 10 8 (tScale x - k) else t)
  | 0x12 => one plainCt [(tLimbs x != aux, tcShape)] (tWith x 35 6 (tLimbs x - 1))
  | 0x13 => one plainCt [] (tWith x 35 6 aux)
  | 0x14 =>
    let e := s.keyOf a (tKey y)
    let keyCauses : List Nat :=
      if tScheme y = 0 then []
      else if tScheme y ≠ scEvkey then [tcScheme]
      else match e with
        | some e => if e.kind ≠ 0 then [tcKeyState] else if sx ≠ 0 ∧ e.src ≠ tKey x then [tcKeyDiff] else []
        | none => [tcKeyState]
    if sx = 0 then (keyCauses, 0, none)
    else if !isCt sx then ([tcScheme], 0, none)
    else
      let dst := match e with | some e => if tScheme y = 0 then tKey x else e.dst | none => tKey x
      let t := tWith (tWith x 18 12 dst) 35 6 mode
      (keyCauses ++ causesOf [(decide (63 < mode), tcShape)], if sx = 4 ∨ sx = 5 then tWith t 0 4 5 else t, none)
  | _ => one (plainCt || sx == scEvkey) [(decide (tLogN x < aux), tcShape)] x

/-! ## Vector and matrix rules -/

/-- Rules of a VXE operation over its tagged sources. -/
def State.vxeRules (s : State) (a c w : Nat) (l : List Nat) : List Nat × Nat × Option Nat :=
  let x := l.getD 0 0
  let y := l.getD 1 0
  let tagged := l.filter fun t => tScheme t != 0
  let mode := cmdMode w
  if cmdOp w = 1 ∧ isShare (tScheme x) ∧ tScheme y = scMask then
    s.shareOpen a c x y ((bits mode 0 4 == 6 || bits mode 0 4 == 7) && !bit mode 6)
  else match tagged with
    | [] => ([], 0, none)
    | t :: r =>
      let product := cmdOp w == 2 || cmdOp w == 3
      if product && isShare (tScheme x) && isShare (tScheme y) then ([tcScheme], 0, none)
      else if r.all fun u => tBare u == tBare t then ([], t, none)
      else
        -- a share with OPENED
        match tagged.find? fun u => isShare (tScheme u) with
        | some sh =>
          if tagged.all fun u => tBare u == tBare sh || tScheme u == scOpened then ([], sh, none) else ([tcScheme], 0, none)
        | none => ([tcScheme], 0, none)

/-- Rules of an MM: at most one tagged panel, SHARE32 with an integer format; the accumulator's tag agrees. -/
def mmRules (w x y z bank : Nat) : List Nat × Nat × Option Nat :=
  let mode := cmdMode w
  let tagged := [x, y].filter fun t => tScheme t != 0
  let t := tagged.getD 0 0
  let init := bits mode 5 2
  let prev := if init = 1 then bank else if init = 2 then z else t
  (causesOf [(decide (1 < tagged.length) || tagged.any (fun t => tScheme t != 6) || (tagged != [] && decide (2 ≤ bits mode 0 3))
      || tBare prev != tBare t, tcScheme)], t, none)

/-! ## Moves (R278) -/

/-- Every granule that a range of physical addresses touches holds SEALED. -/
def State.sealedRange (s : State) (a p n : Nat) : Bool :=
  (List.range (if n = 0 then 0 else (p + n - 1) / pageSize - p / pageSize + 1)).all fun i =>
    match s.permOf a (p / pageSize + i) with
    | some v => bit v permSealed
    | none => false

/-- Rules of a move whose first source line has tag `x`. -/
def State.movRules (s : State) (a w da n x : Nat) : List Nat :=
  match cmdOp w with
  | 2 => causesOf [(sensitive x && !s.isSealed a, tcSealed)]
  | 3 => causesOf [(sensitive x && !s.sealedRange a (aPhys da) (128 * n), tcSealed)]
  | 1 => causesOf [(sensitive x && decide (4608 ≤ aCore da), tcSealed)]
  | _ => []

/-! ## Macros (R287) -/

/-- Rules of a macro: input tag `x`, table tag `z`, key id. -/
def State.macroRules (s : State) (a w x z key : Nat) : List Nat × Nat × Option Nat :=
  let aux := cmdAux w
  let l := cmdMode w
  let bad := match aux with
    | 0 => tScheme x != 2 || tLogN x != 16 || tLevel x != 0 || tLimbs x != 1
    | 1 => tScheme x != 2 || tLogN x != 15 || tLevel x != 0 || tLimbs x != 1
    | 2 => tScheme x != 3 || tLogN x != 15 || tLevel x != 0 || tLimbs x != 1
    | 3 => tScheme x != 4 || tLogN x != 11 || tLevel x != 0 || tLimbs x != 1
    | _ => (tScheme x != 2 && tScheme x != 3) || tLogN x != 16 || tLimbs x != l
  let tableBad := aux == 3 && z != 0 && (tScheme z != 1 || tLogN z != 11 || tLimbs z != 1)
  let kind := match macroSet aux l with | some m => m.keyKind | none => 0
  let keyBad : List Nat := match s.keyOf a key with
    | some e => if e.kind ≠ kind then [tcKeyState] else if e.src ≠ tKey x then [tcKeyDiff] else []
    | none => [tcKeyState]
  let dst := match s.keyOf a key with | some e => e.dst | none => 0
  let t := tWith x 18 12 dst
  let t := match aux with
    | 0 => tWith (tWith t 4 6 16) 35 6 17
    | 1 => tWith (tWith t 4 6 12) 35 6 13
    | 2 => tWith (tWith t 4 6 10) 35 6 11
    | _ => t
  (causesOf [(bad || tableBad, tcMacro)] ++ keyBad, t, none)

/-! ## All commands -/

/-- The output tag as it is written (R277): SEALED and PARTY of the allotment, POISON of the sources, check byte. -/
def State.outTag (s : State) (a t : Nat) (poison : Bool) : BitVec 64 :=
  if tScheme t = 0 then 0
  else
    let opened := tScheme t == scOpened
    let t := tWith (tWith (t % 2 ^ 47) 45 1 (b2n (s.isSealed a && !opened))) 41 4 (s.get (F.ALT_STATE_PARTY a))
    tagOf (tWith t 46 1 (b2n poison))

/-- The tag checks of a command with source tags `x`, `y`, `z` (0 where it has none), destination address `da`, count
`n`, parameter `par`, accumulator tag `bank`: the lowest cause, or the output tag and the mask spent. -/
def State.tagCheck (s : State) (a c w da n par bank x y z : Nat) : Except Nat (BitVec 64 × Option Nat) :=
  let eng := cmdEng w
  let srcs := if eng = 1 ∧ cmdOp w = 0 then [x, y] ++ (if bits (cmdMode w) 5 2 = 2 then [z] else []) ++ (if bits (cmdMode w) 5 2 = 1 then [bank] else [])
    else [x, y, z]
  let form := [x, y, z].filterMap tagFault
  let general := generalCauses (s.isSealed a) (s.get (F.ALT_STATE_PARTY a)) [x, y, z]
  let r := match eng with
    | 1 => if cmdOp w = 0 then mmRules w x y z bank else ([], bank, none)
    | 2 => s.rneRules a c w x y z
    | 3 => s.vxeRules a c w [x, y, z]
    | 4 => (s.movRules a w da n x, x, none)
    | _ => s.macroRules a w x z par
  let all := if form ≠ [] then form else general ++ r.1
  match all with
  | [] =>
    let poison := srcs.any tPoison
    if eng = 1 ∧ cmdOp w = 1 then .ok (BitVec.ofNat 64 bank, none)
    else .ok (s.outTag a r.2.1 poison, r.2.2)
  | k :: l => .error (l.foldl min k)

end Sys2Proof.Machine
end

