-- ==== Sys2Proof/Machine/Seq.lean ====
section
/-! DEFINITION. The sequencer (chapter 6): the cursor above the active bank, hardware loops, the checks of an issue cycle
(R78 to R83, R171, R182, R276), and the issue of one command. -/

namespace Sys2Proof.Machine

/-! ## Registers (R163 to R168) -/

/-- Write a register, with its parity bit. -/
def Core.setRegister (x : Core) (w : LateWrite) : Core :=
  let x := { x with parity := x.parity.filter (· != (w.kind, w.idx)) }
  match w.kind with
  | 0 => { x with s := smSet 0 x.s w.idx (BitVec.ofNat 32 w.val) }
  | 1 => { x with a := smSet 0 x.a w.idx (BitVec.ofNat 48 w.val) }
  | 2 => { x with p := smSet 0 x.p w.idx (BitVec.ofNat 32 w.val) }
  | 3 => { x with z := smSet 0 x.z w.idx (BitVec.ofNat 24 w.val) }
  | _ => { x with k := smSet 0 x.k w.idx (BitVec.ofNat 32 w.val) }

/-- The core with every register write visible in cycle `t` made. -/
def Core.visible (x : Core) (t : Nat) : Core :=
  (x.late.filter fun w => decide (w.at_ ≤ t)).foldl Core.setRegister { x with late := x.late.filter fun w => decide (t < w.at_) }

/-- Keep writes in the order of their cycles. -/
def addLate : List LateWrite → LateWrite → List LateWrite
  | [], w => [w]
  | v :: r, w => if v.at_ ≤ w.at_ then v :: addLate r w else w :: v :: r

def Core.addrOf (x : Core) (w f : Nat) : Nat := (smGet 0 x.a (cmdField w f)).toNat

/-- An address with its address field changed (R165). -/
def addField (a : Nat) (d : Int) : Nat := a - a % 2 ^ 39 + unsigned 39 (((a % 2 ^ 39 : Nat) : Int) + d)

/-! ## The sequence of issues (R161, R172 to R176) -/

/-- Move the cursor past entries that do not apply and past ENDLOOPs, to the next entry that issues or opens a loop; the
entries passed above. -/
def Core.toNext (p : List Entry) (j : Nat) : Nat → Core → List Nat → Core × List Nat
  | 0, x, l => (x, l)
  | fuel + 1, x, l =>
    match p[x.cursor]? with
    | none => (x, l)
    | some e =>
      if e.isEnd then
        match x.loops with
        | [] => Core.toNext p j fuel { x with cursor := x.cursor + 1 } (l ++ [x.cursor])
        | y :: r =>
          if y.iter + 1 < y.count ∧ y.body ≠ x.cursor then
            Core.toNext p j fuel { x with loops := { y with iter := y.iter + 1 } :: r, cursor := y.body } (l ++ [x.cursor])
          else Core.toNext p j fuel { x with loops := r, cursor := x.cursor + 1 } (l ++ [x.cursor])
      else if x.loops = [] ∧ e.applies j = false then
        let n := if e.isLoop then afterLoop (p.drop (x.cursor + 1)) 0 (x.cursor + 1) else x.cursor + 1
        Core.toNext p j fuel { x with cursor := n } (l ++ (List.range (n - x.cursor)).map (x.cursor + ·))
      else (x, l)

/-- The cycle in which the entry at the cursor issues (R64, R65). -/
def Core.cycleOf (x : Core) (e : Entry) : Nat :=
  match x.loops with
  | [] => cmdOffset e.w
  | y :: _ => y.base + y.iter * y.period + cmdOffset e.w

/-- The core once the entry at the cursor has had its cycle `t`: a LOOP samples its count (R66, R173). -/
def Core.passed (p : List Entry) (t : Nat) (x : Core) (e : Entry) : Core :=
  if e.isLoop then
    let k := (smGet 0 x.k (cmdKsel e.w)).toNat
    if k = 0 ∨ cmdMax e.w < k then { x with cursor := afterLoop (p.drop (x.cursor + 1)) 0 (x.cursor + 1) }
    else { x with loops := ⟨t, cmdPeriod e.w, k, 0, x.cursor + 1⟩ :: x.loops, cursor := x.cursor + 1,
                     parity := x.parity.filter (· != (5, x.loops.length + 1)) }
  else { x with cursor := x.cursor + 1 }

/-- Steps the cursor can take in one cycle at most. -/
def stepsOf (p : List Entry) : Nat := p.length + 8

/-- The entries of a core due in cycle `t`, in fetch order, with those passed above before each. -/
def Core.due (p : List Entry) (j t : Nat) : Nat → Core → List (Nat × Entry × List Nat)
  | 0, _ => []
  | fuel + 1, x =>
    let y := Core.toNext p j (stepsOf p) x []
    match p[y.1.cursor]? with
    | none => []
    | some e => if y.1.cycleOf e = t then (y.1.cursor, e, y.2) :: Core.due p j t fuel (Core.passed p t y.1 e) else []

/-! ## Counts and source lines -/

/-- The command takes a count: its operation does, or IND = 1 gives it one (R171). -/
def counted (w : Nat) : Bool :=
  (cmdInd w && cmdEng w != 0) || match cmdEng w with
  | 1 => cmdOp w == 0
  | 2 => decide (cmdOp w < 8) || decide (0x10 ≤ cmdOp w)
  | 3 => true
  | 4 => true
  | _ => false

/-- The count: IMM16, or the parameter slot's value (R171). -/
def Core.count (x : Core) (w : Nat) : Nat := if cmdInd w then (smGet 0 x.p (cmdPsel w)).toNat else cmdImm16 w

def Core.param (x : Core) (w : Nat) : Nat := (smGet 0 x.p (cmdPsel w)).toNat

/-- Lines that a command with count `n` reads: every spanned core or the first only, first line, lines. -/
def srcLines (w n sa sb sc : Nat) : List (Bool × Nat × Nat) :=
  let x := aLine sa
  let y := aLine sb
  let z := aLine sc
  let mode := cmdMode w
  let op := cmdOp w
  match cmdEng w with
  | 0 => if op = 0x13 ∨ op = 0x14 then [(false, x, 1)] else []
  | 1 =>
    if op = 0 then
      let k := cdiv (occLat 0 w n 0 0).1 (mmStep w)
      [(false, x, k), (false, y, k)] ++ (if bits mode 5 2 = 2 then [(false, z, min 32 k)] else [])
    else []
  | 2 =>
    if op < 8 then
      let k := 4 * cdiv n 128
      [(false, x, k), (false, y, k)] ++ (if op = 4 then [(false, z, k)] else [])
    else
      let k := wholeCounts w n
      [(true, x, cdiv k.1 32), (false, y, cdiv k.2 32)]
  | 3 =>
    let k := cdiv n 32
    [(false, x, k)] ++ (if vxeTwo op then [(false, y, k)] else []) ++ (if vxeThree op then [(false, z, k)] else [])
  | 4 =>
    if op = 2 ∨ op = 4 ∨ op = 5 then []
    else if op = 6 ∧ bits mode 0 3 = 2 then [(false, x / 32 * 32, cdiv (x % 32 + n) 32 * 32)]
    else [(false, x, n)]
  | _ => match macroSet (cmdAux w) mode with
    | some m =>
      let l := max 1 mode
      (true, x, macroLines m (if m.keyKind = 0 then 1 else 2) (if m.keyKind = 0 then l else 1)) ::
        (if m.keyKind = 3 then [(false, z, 64)] else [])
    | none => []

/-! ## Landing slots and ingress buffers (R78, R79, R368, R389, R408) -/

/-- A line lies in a range of lines that wraps at the end of the scratchpad. -/
def inLines (first n l : Nat) : Bool := decide ((l + 1024 - first % 1024) % 1024 < n)

/-- The slot meets one of the ranges. -/
def Slot.meets (z : Slot) (l : List (Nat × Nat)) : Bool :=
  z.declared && l.any fun r => (List.range (z.len / 128)).any fun i => inLines r.1 r.2 (z.base / 128 + i)

/-- The valid bit as the checks of the present cycle find it: a clear of this cycle comes after them. -/
def Slot.validNow (z : Slot) (now : Nat) : Bool := if z.clearedAt = now + 1 then z.was else z.valid

/-- The breach causes of the slots a core's lines reach, and the slots whose landing ties with the check. -/
def Core.slotCheck (x : Core) (now : Nat) (l : List (Nat × Nat)) : List Nat × List Nat :=
  let hit := x.slots.filter fun z => z.2.meets l
  (hit.filterMap fun z => if z.2.validNow now then none else some ([1, 2, 3, 5].getD z.2.kind 5),
   hit.filterMap fun z => if z.2.validNow now && z.2.landedAt == now + 1 then some z.1 else none)

/-- The ingress buffer that holds a physical address: its number, its valid bit, the instant it was last set. -/
def State.ingressAt (s : State) (a p : Nat) : Option (Nat × Bool × Nat) :=
  let cam := (List.range 8).findSome? fun q =>
    let y := s.ing q
    let st := s.get (F.ING_PORT_STATE_STATE q)
    if s.get (F.ING_PORT_STATE_ALLOT q) = a ∧ 2 ≤ st ∧ st ≤ 4 then
      ((List.range (icNbuf y.cfg)).find? fun b => inVia y.pages (icBase y.cfg + b * icStride y.cfg) (icStride y.cfg) p).map fun b =>
        (b, bit (s.get (F.ING_PORT_STATE_VALID q)) b, smGet 0 s.bufSet (16 * q + b))
    else none
  let vis := (List.range 4).findSome? fun q =>
    let y := s.vis q
    if s.get (F.VIS_STATE_ALLOT q) = a then
      (y.regions.find? fun r => inVia y.regPages r.2.1 r.2.2 p).map fun r =>
        (r.1, bit (s.get (F.VIS_STATE_REGIONS q)) r.1, smGet 0 s.bufSet (128 + 4 * q + r.1))
    else none
  let bsn := (List.range 2).findSome? fun q =>
    let y := s.basin q
    match y.area with
    | some r => if s.get (F.BSN_STATE_ALLOT q) = a ∧ inVia y.areaPages r.1 r.2 p = true then
        some (q, s.on (F.BSN_STATE_VALID q), smGet 0 s.bufSet (160 + q)) else none
    | none => none
  match cam, vis with
  | some x, _ => some x
  | none, some x => some x
  | none, none => bsn

/-! ## The checks of the issue cycle -/

/-- What the checks find: the causes of breaches and tag refusals, the ties, and what the command issues with. -/
structure Verdict where
  causes : List Nat
  margins : List Nat
  n : Nat
  tag : BitVec 64
  spend : Option Nat
  deriving DecidableEq, Repr

/-- Occupancy counters that an engine command loads and must find at 0 (R81, R184, R225). -/
def busyKeys (w : Nat) : List Nat :=
  match cmdEng w with
  | 0 => []
  | 1 => if cmdOp w = 0 then [1] else [6]
  | 5 => [1, 2, 3, 4, 5, 6]
  | e => [e]

/-- The counters a command loads: core and engine. -/
def loads (w c : Nat) : List (Nat × Nat) := (spanOf w c).flatMap fun k => (busyKeys w).map fun e => (k, e)

/-- An engine the command uses is occupied, or an earlier command of this cycle takes it (`taken`). -/
def State.engineBusy (s : State) (c t w : Nat) (taken : List (Nat × Nat)) : Bool :=
  (loads w c).any fun x => decide (t < smGet 0 (s.core x.1).busy x.2) || taken.contains x

/-- Tag of the first line a source reads (R275). -/
def Core.firstTag (x : Core) (t view l : Nat) : Nat := (x.seen t (place view l 0).1).2.toNat

/-- The tag of the unit that a MEM_RD reads first, as its issue cycle finds it (R275, R295): equal copies, or the one that decodes; CLEAR
when none does (log entry 92). That a block is poisoned is found at the landing (R308). -/
def State.sourceTag (s : State) (a t p : Nat) : BitVec 64 :=
  let x := s.planBlock (s.runKey a) (p / 128 * 2) t
  let y := s.planBlock (s.runKey a) (p / 128 * 2 + 1) t
  if x.ecc.decodes && y.ecc.decodes then (if x.tag = y.tag then x.tag else 0)
  else if x.ecc.decodes then x.tag else if y.ecc.decodes then y.tag else 0

/-- The checks of a command with a nonzero count (R78, R80, R81, R171, R276, R368). `x` is the core with the registers
visible in cycle `t`; `taken` are the engines that earlier commands of the cycle take. -/
def State.judge (s : State) (a c t : Nat) (x : Core) (w : Nat) (taken : List (Nat × Nat)) : Verdict :=
  let n := x.count w
  let sa := x.addrOf w 1
  let sb := x.addrOf w 2
  let sc := x.addrOf w 3
  let da := x.addrOf w 0
  let eng := cmdEng w
  let op := cmdOp w
  let above := counted w && cmdInd w && decide (cmdImm16 w < n)
  let busy := s.engineBusy c t w taken
  let slots := if above then [] else (spanOf w c).map fun k =>
    (s.core k).slotCheck s.wck.now (((srcLines w n sa sb sc).filter fun r => r.1 || k == c).map fun r => r.2)
  let ing := if eng = 4 ∧ op = 2 ∧ !above then s.ingressAt a (aPhys sa / 128 * 128) else none
  let reuse := eng == 4 && (op == 2 || op == 4) && !above && (smGet Slot.reset x.slots (cmdSlot w)).flying.isSome
  let src (l : Nat) : Nat := x.firstTag t 0 (aLine l)
  let tx := match eng with
    | 1 => if op = 0 then src sa else 0
    | 4 => if op = 2 then (s.sourceTag a t (aPhys sa)).toNat else if op = 4 ∨ op = 5 then 0
      else x.firstTag t (if op = 6 then bits (cmdMode w) 0 3 else 0) (aLine sa)
    | _ => src sa
  let ty := match eng with
    | 1 => if op = 0 then src sb else 0
    | 2 => if op < 8 ∧ op ≠ 2 ∨ op = 0x14 then src sb else 0
    | 3 => if vxeTwo op then src sb else 0
    | _ => 0
  let tz := match eng with
    | 1 => if op = 0 ∧ bits (cmdMode w) 5 2 = 2 then src sc else 0
    | 2 => if op = 4 then src sc else 0
    | 3 => if vxeThree op then src sc else 0
    | 5 => if cmdAux w = 3 then src sc else 0
    | _ => 0
  let bank := (x.acc (if eng = 1 ∧ op = 0 then cmdField w 0 else s.get (F.MXE_ACC_DRAIN c))).tag.toNat
  let par := if eng = 5 then x.param w % 2 ^ 12 else x.param w
  let tags := if eng = 0 ∨ (eng = 1 ∧ op = 2) then .ok (0, none)
    else s.tagCheck a c w da (if above then cmdImm16 w else n) par bank tx ty tz
  { causes :=
      slots.flatMap (fun r => r.1)
        ++ (match ing with | some b => if b.2.1 then [] else [4] | none => [])
        ++ causesOf [(reuse, 6), (busy, 7), (above, 0x0B)] ++ (match tags with | .error k => [k] | .ok _ => [])
    margins := slots.flatMap (fun r => r.2) ++
      (match ing with | some b => if b.2.1 && b.2.2 == s.wck.now + 1 then [b.1] else [] | none => [])
    n := n
    tag := match tags with | .ok y => y.1 | .error _ => 0
    spend := match tags with | .ok y => y.2 | .error _ => none }

/-- Nothing issues: a count of 0 (R171, R213). -/
def Core.empty (x : Core) (w : Nat) : Bool := counted w && x.count w == 0

/-- Causes in ascending order. -/
def ascending : List Nat → List Nat
  | [] => []
  | x :: r => let l := ascending r; l.filter (fun y => decide (y < x)) ++ x :: l.filter (fun y => decide (x ≤ y))

/-- Breaches and refusals of a command, each recorded (R84, R185, R279). -/
def State.breaches (s : State) (a c origin : Nat) (l : List Nat) : State :=
  (ascending l).foldl (fun s k =>
    (if k ≤ 0x0C then s.put (F.TIL_CORE_STATE_LAST_BREACH c) k else s).breach a k origin c) s

/-- What the checks of a cycle have found: whether one failed, the masks spent in this core and the engines taken by commands that
passed, and those commands with their cores. -/
structure Round where
  bad : Bool
  spends : List Nat
  taken : List (Nat × Nat)
  pass : List (Nat × Entry)
  deriving DecidableEq, Repr

/-- Check one due entry of core `c`, whose registers stand as in `x`; `i` is its index. A MARGIN0 notice names the core that
issues, wherever the slot whose landing ties stands in a command's span (DESIGN CHOICE, log entry 91). -/
def State.checkEntry (a c t : Nat) (x : Core) (r : Round × State) (i : Nat) (e : Entry) : Round × State :=
  let w := e.w
  let (f, s) := r
  let held := x.win.held.contains i
  let y := if held then (e.ecc == .uncorrectable || e.ecc == .poisoned, s) else s.storeRead c i e
  let s := y.2
  if y.1 then ({ f with bad := true }, s)
  else if x.parityError w then ({ f with bad := true }, s.controlEcc c i e.origin true)
  else if e.isLoop then
    if cmdMax w < (smGet 0 x.k (cmdKsel w)).toNat then ({ f with bad := true }, s.breaches a c e.origin [9]) else (f, s)
  else if x.empty w then (f, s)
  else
    let v := s.judge a c t x w f.taken
    let again := match v.spend with | some k => f.spends.contains k | none => false
    let causes := v.causes ++ causesOf [(again, tcSpent)]
    let s := v.margins.foldl (fun s m => s.logCause 0x10E m a c e.origin true) s
    if causes = [] then ({ f with spends := f.spends ++ v.spend.toList, taken := f.taken ++ loads w c, pass := f.pass ++ [(c, e)] }, s)
    else ({ f with bad := true }, s.breaches a c e.origin causes)

/-- Check every entry of core `c` due in cycle `t`, in fetch order. Nothing issues. -/
def State.checkCore (r : Round × State) (a j t c : Nat) : Round × State :=
  let p := r.2.program c
  let x := (r.2.core c).visible t
  (Core.due p j t (stepsOf p) x).foldl (fun r d => State.checkEntry a c t x r d.1 d.2.1) ({ r.1 with spends := [] }, r.2)

/-! ## Issue -/

/-- S-register arithmetic (R162). -/
def sAlu (op x y : Nat) : Nat :=
  let sx := signed 32 x
  let sy := signed 32 y
  match op with
  | 0x02 => (x + y) % 2 ^ 32
  | 0x03 => unsigned 32 (sx - sy)
  | 0x04 => Nat.land x y
  | 0x05 => Nat.lor x y
  | 0x06 => Nat.xor x y
  | 0x07 => x * 2 ^ (y % 32) % 2 ^ 32
  | 0x08 => x / 2 ^ (y % 32)
  | 0x09 => unsigned 32 (sx / (2 ^ (y % 32) : Int))
  | 0x0A => if sx ≤ sy then x else y
  | _ => if sx ≤ sy then y else x

/-- The register write of a sequencer command (Table 6-5): kind, number, value; the state with the events of its read. -/
def State.seqEffect (s : State) (c t : Nat) (x : Core) (w origin : Nat) : Option (Nat × Nat × Nat) × State :=
  let imm := cmdImm w
  let d := cmdField w 0
  let sreg (i : Nat) : Nat := (smGet 0 x.s i).toNat
  let areg (i : Nat) : Nat := (smGet 0 x.a i).toNat
  let sa := cmdField w 1
  let two := if cmdImmb w then imm % 2 ^ 32 else sreg (cmdField w 2)
  let one := if cmdImmb w then imm % 2 ^ 32 else sreg sa
  match cmdOp w with
  | 0x01 => (some (0, d, imm % 2 ^ 32), s)
  | 0x10 => (some (1, d, imm), s)
  | 0x11 => (some (1, d, addField (areg sa) (signed 32 two)), s)
  | 0x12 => (some (1, d, areg sa), s)
  | 0x13 => let r := s.narrowRead c t (areg sa) origin; (some (1, d, r.1 % 2 ^ 17), r.2)
  | 0x14 => let r := s.narrowRead c t (areg sa) origin; (some (0, d, r.1), r.2)
  | 0x18 => (some (3, d, (if cmdImmb w then imm else sreg sa) % 2 ^ 24), s)
  | 0x19 => (some (4, d % 8, one), s)
  | 0x1A => (some (2, bits w 64 6, if cmdImmb w then imm % 2 ^ 32 else sreg (bits w 70 4)), s)
  | o => (some (0, d, sAlu o (sreg sa) two), s)

/-- Cycles from a sequencer write to the first command that sees it (R168). -/
def seqDelay (w : Nat) : Nat := if cmdOp w = 0x13 ∨ cmdOp w = 0x14 ∨ cmdOp w = 0x1A then 3 else 1

/-- The profile of the allotment's active plan. -/
def State.profileOf (s : State) (a : Nat) : Nat := match (s.allot a).active with | some p => p.profile | none => 0

/-- The address registers that post-increment, each once, with their new values (R167). -/
def Core.increments (x : Core) (w : Nat) : List (Nat × Nat) :=
  let l := ((List.range 4).filter fun f => bit (cmdPi w) f).map fun f => cmdField w f
  l.dedup.map fun r => (r, addField (smGet 0 x.a r).toNat (signed 24 (smGet 0 x.z r).toNat))

/-- The lateral that serves a move (Table 13-3): the position of its record, and the record. `unit` is the gatehouse channel of a MOV to
a gate. -/
def Plan.lateral (p : Plan) (j kind unit src dst t : Nat) : Option (Nat × Bytes) :=
  (p.routes.zipIdx.find? fun r => rtKind r.1 == kind && rtUnit r.1 == unit && rtApplies r.1 j && rtSrc r.1 == src && rtDst r.1 == dst
    && rtCovers r.1 t).map fun r => (r.2, r.1)

/-- Lines cross the bridge from a die, or to it. -/
def State.crossBridge (s : State) (fromSouth : Bool) (n : Nat) : State :=
  if fromSouth then s.bump F.CAN_BRIDGE_SN n else s.bump F.CAN_BRIDGE_NS n

/-- Lines go from one die to another, or stay on it. -/
def State.between (s : State) (fromSouth toSouth : Bool) (n : Nat) : State :=
  if fromSouth = toSouth then s else s.crossBridge fromSouth n

/-- The gatehouse channel of a LINKS record stands on the South die (Table 13-1). -/
def lkSouth (r : Bytes) : Bool := decide (8 ≤ lkChannel r)

/-- Route position, hops and crossings of a MOV REMOTE (R321, R322, R324). -/
def State.pathOf (s : State) (a c j t da : Nat) : Nat × Nat × Nat :=
  let to_ := aCore da / 32
  match (s.allot a).active with
  | none => (0xFFFFFFFF, 0, 0)
  | some p =>
    if to_ = c / 32 then (0xFFFFFFFF, 0, 0)
    else
      let r := p.lateral j 0 0 (s.logCore a c / 32) (s.logCore a (aCore da) / 32) t
      let k := (r.map (·.1)).getD 0xFFFFFFFF
      if p.geo = 1 then (k, 23, 1)
      else
        let h := hopsOf (c / 32) to_ (match r with | some x => rtBridge x.2 | none => 0)
        (k, h.1, h.2)

/-- A transfer is issued into a landing slot (R77). -/
def Core.fly (x : Core) (n now : Nat) (tr : Transfer) : Core :=
  let z := smGet Slot.reset x.slots n
  let was := z.validNow now
  { x with slots := smSet Slot.reset x.slots n { z with valid := false, was := was, clearedAt := now + 1, flying := some tr } }

/-- The MEM record that serves a transfer of a core, with its first served slot and D (R298). -/
def State.memService (s : State) (a c j t p n : Nat) : Nat × Nat :=
  match (s.allot a).active with
  | none => (cdiv t 16, 0)
  | some pl => match pl.memRecs j (stackOf p) (s.logCore a c / 32) t with
    | r :: _ => (((rvServe r t p (2 * n)).map (·.1)).getD (cdiv t 16), (rvD r t p (2 * n)).getD 0)
    | [] => (cdiv t 16, 0)

/-- What a MOV does at issue beside its accesses: its run, and the state. -/
def State.startMov (s : State) (a c j t : Nat) (_x : Core) (w _origin n : Nat) (r : Run) : List Run × State :=
  let prof := s.profileOf a
  match cmdOp w with
  | 1 =>
    if 4608 ≤ aCore r.da then
      let y := s.allot a
      let k := aCore r.da - 4608
      let rec_ := match y.active with | some p => p.links.getD k [] | none => []
      let way := match y.active with
        | some p => ((p.lateral j 2 (lkChannel rec_) (s.logCore a c / 32) 0 t).map (·.1)).getD 0xFFFFFFFF
        | none => 0xFFFFFFFF
      ([{ r with route := way }],
       (s.setAllot a { y with txs := y.txs ++ [⟨k, way, t + n + (if prof = 0 then 128 else 160), [], 0⟩] }).between (south (c / 32))
         (lkSouth rec_) n)
    else
      let h := s.pathOf a c j t r.da
      let ol := occLat prof w n h.2.1 h.2.2
      let s := s.between (south (c / 32)) (south (aCore r.da / 32)) n
      ([{ r with occ := ol.1, lat := ol.2, route := h.1 }], s)
  | 2 =>
    let p := aPhys r.sa / 128 * 128
    let v := s.memService a c j t p n
    ([], s.setCore c ((s.core c).fly (cmdSlot w) s.wck.now ⟨0, p, v.1, aLine r.da, n, 0, 0, []⟩))
  | 3 =>
    let p := aPhys r.da / 128 * 128
    let v := s.memService a c j t p n
    ([{ r with par := t + (if prof = 0 then 720 else 960) + v.2 }], s)
  | 4 =>
    let base := match (s.allot a).active with
      | some p => fieldAt (p.sec 3) (16 * bits r.sa 41 4) 8
      | none => 0
    ([], s.setCore c ((s.core c).fly (cmdSlot w) s.wck.now ⟨3, base + r.sa % 2 ^ 41, 0, aLine r.da, n, 0, 0, []⟩))
  | _ => ([r], s)

/-- An engine command issues (R81, R170, R184). -/
def State.startEngine (s : State) (a c j t : Nat) (x : Core) (w origin : Nat) (v : Verdict) : State :=
  let eng := cmdEng w
  let ol := occLat (s.profileOf a) w v.n 0 0
  let cores := spanOf w c
  let s := cores.foldl (fun s k =>
    let y := s.core k
    s.setCore k { y with
      busy := (busyKeys w).foldl (fun m e => smSet 0 m e (t + ol.1)) y.busy
      macroEnd := if eng = 5 then t + ol.2 else y.macroEnd }) s
  let s := match v.spend with
    | some k => s.setCore c { s.core c with spent := (s.core c).spent ++ [k] }
    | none => s
  let drain := s.get (F.MXE_ACC_DRAIN c)
  let r : Run := {
    cmd := BitVec.ofNat 128 w, origin := origin, s := t, da := x.addrOf w 0, sa := x.addrOf w 1, sb := x.addrOf w 2, sc := x.addrOf w 3
    n := v.n, par := if eng = 5 then x.param w % 2 ^ 12 else x.param w, occ := ol.1, lat := ol.2, tag := v.tag, i := 0, bank := drain
    route := 0xFFFFFFFF, poison := false, xs := [], ys := [], zs := [], tags := [] }
  if eng = 1 ∧ cmdOp w = 2 then s.put (F.MXE_ACC_DRAIN c) (1 - drain)
  else
    let y := if eng = 4 then s.startMov a c j t x w origin v.n r else ([r], s)
    let s := y.2
    let s := if eng = 1 ∧ cmdOp w = 0 then
        let b := cmdField w 0
        s.setCore c ((s.core c).setAcc b { (s.core c).acc b with tag := v.tag })
      else s
    cores.foldl (fun s k =>
      let z := s.core k
      s.setCore k { z with runs := z.runs ++ y.1.map fun q => if k = c then q else { q with i := q.total } }) s

/-- One command issues: its register writes, its engine, the core's counts. -/
def State.issue (s : State) (a c j t : Nat) (x : Core) (e : Entry) : State :=
  let w := e.w
  if e.isLoop ∨ x.empty w = true then s
  else
    let v := s.judge a c t x w []
    let s := (s.bump (F.TIL_CORE_STATE_ISSUED c)).put (F.TIL_CORE_STATE_RUNNING c) 1
    let pi := (x.increments w).map fun r => (⟨t + if s.profileOf a = 0 then 1 else 2, 1, r.1, r.2⟩ : LateWrite)
    if cmdEng w = 0 then
      let r := s.seqEffect c t x w e.origin
      let own := r.1.toList.map fun y => (⟨t + seqDelay w, y.1, y.2.1, y.2.2⟩ : LateWrite)
      r.2.setCore c { r.2.core c with late := (own ++ pi).foldl addLate (r.2.core c).late }
    else
      let s := s.startEngine a c j t x w e.origin v
      s.setCore c { s.core c with late := pi.foldl addLate (s.core c).late }

/-- Clashes among the accesses that the allotment's cores make in cycle `t`, as far as they are issued (R82). -/
def State.clashNow (s : State) (a t : Nat) : State :=
  (s.cores.map (·.1)).foldl (fun s c =>
    if s.ownerOf c = a then s.recordClash a c t ((s.core c).uses t) else s) s

/-- The clashes that the accesses of cycle `t` would make if these commands issued too: one is found in the issue cycle, core by core, before
any issues (R84, R185, R208). -/
def State.clashAhead (s : State) (a j t : Nat) (l : List (Nat × Entry)) : State :=
  let u := l.foldl (fun (u : State) y => u.issue a y.1 j t ((s.core y.1).visible t) y.2) s
  (u.cores.map (·.1)).foldl (fun s c => if u.ownerOf c = a then s.recordClash a c t ((u.core c).uses t) else s) s

/-- Check every command of the allotment due in cycle `t`, once, core by core (R83, R84, R455): none issues when one fails or clashes. Of
two commands that want one engine in one cycle, the later core's breaches (log entry 91). -/
def State.checkCycle (s : State) (a j t : Nat) : Bool × State :=
  if (s.allot a).checkedAt = s.wck.now + 1 then (false, s)
  else
    let r := (s.coresOf a).foldl (fun (r : Round × State) c => if s.program c = [] then r else State.checkCore r a j t c)
      (⟨false, [], [], []⟩, s)
    let v := r.2.clashAhead a j t r.1.pass
    (r.1.bad, v.setAllot a { v.allot a with checkedAt := s.wck.now + 1 })

/-- The cursors of the allotment's cores make the reads of cycle `t` before its issues: a place that an issue frees is read into
in the next cycle. -/
def State.readDue (s : State) (a t : Nat) : State :=
  (s.cores.map (·.1)).foldl (fun s c =>
    let v := (s.core c).win
    if s.ownerOf c = a ∧ v.busy = true ∧ v.at_ ≤ t then s.readWindow c t else s) s

/-- Commands of a core can issue: the allotment's plan runs, and no sluice holds the core's tile. -/
def State.mayIssue (s : State) (a c : Nat) : Bool := s.planRuns a && !s.tileClosed (c / 32)

/-- The next command of core `c` has its issue cycle, when it is of engine `eng` and its operation satisfies `p`. Where the
next command is of another row, or its cycle is past, nothing happens (log entry 33). In the cycle in which the allotment's sluice
closed, the commands due in it are checked and none issues (R84). -/
def coreRow (eng : Nat) (p : Nat → Bool) (c : Nat) (s : State) : State :=
  match s.coreOwner c with
  | none => s
  | some a =>
    if !(s.mayIssue a c || s.shutNow a) then s
    else
      let j := (s.allot a).planTurn
      let st := s.program c
      -- the entry whose cycle comes next, and that cycle
      let ahead (s : State) : Option (Entry × Nat) :=
        let y := Core.toNext st j (stepsOf st) (s.core c) []
        st[y.1.cursor]?.map fun e => (e, y.1.cycleOf e)
      match ahead s with
      | none => s
      | some (e, t) =>
        if cmdEng e.w ≠ eng ∨ p (cmdOp e.w) = false ∨ t < s.wck.cycle ∨ s.judges a t = false then s
        else
          let s := (s.coresTo t).advanceTo t
          if !(s.mayIssue a c || s.shutNow a) then s
          else
            let r := ((s.readDue a t).clashNow a t).checkCycle a j t
            let s := r.2
            if r.1 || !s.mayIssue a c then s
            else
              let y := Core.toNext st j (stepsOf st) (s.core c) []
              let x := y.1.visible t
              let s := (s.setCore c ((Core.passed st t x e).takeEntry st x.cursor t e)).issue a c j t x e
              (s.noteWindow c).clashNow a t

end Sys2Proof.Machine
end

