-- ==== Sys2Proof/Machine/Landing.lean ====
section
/-! DEFINITION. Landings: the landing merger (R211), external-memory reads (R300, R308), the key flume (R311 to R314),
host fetches, exchange lines; rewrites of corrected blocks (R307). -/

namespace Sys2Proof.Machine

/-! ## The key flume -/

/-- Cores that a FLUME record feeds, in order: physical core numbers (R313). -/
def State.flumeCores (s : State) (a : Nat) (r : Bytes) : List Nat :=
  (List.range (rvTiles r)).flatMap fun i =>
    ((List.range 32).filter fun k => bit (rvMask r) k).map fun k => s.phyTile a (rvFirstTile r + i) * 32 + k

/-- Lines that the `q`-th of `m` cores receives. -/
def flumeShare (r : Bytes) (q m : Nat) : Nat := if rvScatter r then (rvSent r + m - 1 - q) / max 1 m else rvSent r

/-- The residue words of expanded line `e` of a group with a seed (R312). -/
def State.expandLine (s : State) (a : Nat) (r seed : Bytes) (e : Nat) : List Nat :=
  let ll := max 1 (rvLimbLines r)
  let l := e / ll
  let j0 := e % ll * 32
  let m := s.modOf a (rvModslot r + l)
  let o := shake128x (8 * (j0 + 32)) (seed ++ toLe 1 l)
  (List.range 32).map fun k => (reduceLane m (fieldAt o (8 * (j0 + k)) 8)).toNat

/-- The stored unit that sent line `i` comes from: its own, or its group's seed line. -/
def rvUnitOf (r : Bytes) (i : Nat) : Nat :=
  let per := max 1 (rvP r * if rvSeeded r then 2 else 1)
  i / per * rvStored r + min (i % per) (rvP r)

/-- The tag of a seed line, whose data are its lower block's (R312): the unit's (R295), or of an uncorrectable lower block R308's. -/
def seedTag (x y : OldBlock) : BitVec 64 :=
  if x.ecc.usable then (if y.ecc.decodes && x.tag != y.tag then 0 else x.tag)
  else if x.ecc.decodes then poisonTag x.tag
  else if y.ecc.decodes then poisonTag y.tag
  else BitVec.ofNat 64 (2 ^ 64 - 1)

/-- Sent line `i` of a FLUME record (R312). -/
def State.flumeLine (s : State) (a : Nat) (key : List Nat) (pages : SMap Nat) (r : Bytes) (t i : Nat) : List (Nat × Bool) × BitVec 64 :=
  let p := xl pages (rvSrc r + 128 * rvUnitOf r i)
  let w := i % max 1 (rvP r * if rvSeeded r then 2 else 1)
  let x := s.peekUnit key p t
  if w < rvP r then x
  else
    let lower := s.planBlock key (p / 64) t
    let bad := !lower.ecc.usable
    let seed := (x.1.take 8).flatMap fun v => toLe 4 v.1
    ((s.expandLine a r seed (w - rvP r)).map fun v => (v, bad), seedTag lower (s.planBlock key (p / 64 + 1) t))

/-- The engine reads its record's stored units in order, each once, up to unit `u` (R312). -/
def State.flumeReads (s : State) (a k : Nat) (key : List Nat) (pages : SMap Nat) (r : Bytes) (t u : Nat) : State :=
  let n := smGet 0 (s.allot a).flumes k - 1
  let s := (List.range (u + 1 - n)).foldl (fun s i =>
    let p := xl pages (rvSrc r + 128 * (n + i))
    if rvIsSeed r (n + i) then s.planEvent (s.planBlock key (p / 64) t) a else s.unitEvents key p t a) s
  s.setAllot a { s.allot a with flumes := smSet 0 (s.allot a).flumes k (max n (u + 1) + 1) }

/-! ## Landings -/

/-- The next line of a transfer: words, tag, state. Link lines come from those received; `data` is what the host's memory
returned for a host line. -/
def State.nextLine (s : State) (a c : Nat) (tr : Transfer) (data : Bytes) : List (Nat × Bool) × BitVec 64 × State :=
  let key := s.runKey a
  let t := 16 * tr.sigma
  match tr.kind with
  | 0 =>
    let p := tr.src + 128 * tr.landed
    let x := s.peekUnit key p t
    (x.1, x.2, s.unitEvents key p t a)
  | 1 => match (s.allot a).active with
    | none => ([], 0, s)
    | some p =>
      let r := p.resv.getD tr.src []
      let l := s.flumeCores a r
      let i := if rvScatter r then tr.landed * l.length + l.findIdx (· == c) else tr.landed
      let x := s.flumeLine a key p.pages r t i
      (x.1, x.2, s.flumeReads a tr.src key p.pages r t (rvUnitOf r i))
  | 2 => match tr.data with
    | [] => ([], 0, s)
    | y :: _ =>
      let r := match (s.allot a).active with | some p => p.links.getD tr.src [] | none => []
      (y.2.1.map fun w => (w.toNat % 2 ^ 32, false), y.2.2, s.between (lkSouth r) (south (c / 32)) 1)
  | _ => ((List.range 32).map fun i => (fieldAt data (4 * i) 4, false), 0, s)

/-- The scratchpad line, counted from the slot's first, that the next line lands in. -/
def Transfer.index (tr : Transfer) : Nat :=
  match tr.kind with
  | 2 => (tr.data.head?.map (·.1)).getD 0
  | _ => tr.landed

/-- The transfer after the landing of its next line: an exchange line that has landed before counts once (R344). -/
def Transfer.next (tr : Transfer) : Transfer :=
  { tr with
    landed := if tr.kind = 2 ∧ bit tr.seen_ tr.index = true then tr.landed else tr.landed + 1
    seen_ := if tr.kind = 2 ∧ bit tr.seen_ tr.index = false then tr.seen_ + 2 ^ tr.index else tr.seen_
    data := tr.data.drop 1 }

/-- A line of the transfer can land in cycle `t`: its service has begun, or it has been received. -/
def Transfer.ready (tr : Transfer) (t : Nat) : Bool :=
  match tr.kind with
  | 0 => decide (16 * tr.sigma ≤ t)
  | 1 => decide (16 * tr.sigma ≤ t)
  | 2 => tr.data != []
  | _ => true

/-- The merger's port is taken in cycle `t`. -/
def Core.landed (x : Core) (t : Nat) : Bool := x.writes.any fun w => w.port == 6 && w.at_ == t

/-- The first cycle from `t` on in which the merger's port is free. -/
def Core.mergeCycle (x : Core) : Nat → Nat → Nat
  | 0, t => t
  | fuel + 1, t => if x.landed t then Core.mergeCycle x fuel (t + 1) else t

/-- The landing merger writes the next line of the transfer into slot `n` of core `c` (R77, R211). -/
def landLine (c n : Nat) (data : Bytes) (s : State) : State :=
  let s := s.coresTo s.wck.cycle
  match (smGet Slot.reset (s.core c).slots n).flying with
  | none => s
  | some tr =>
    if !tr.ready s.wck.cycle then s
    else
      let s := s.advanceTo ((s.core c).mergeCycle 64 s.wck.cycle)
      let t := s.wck.cycle
      let a := s.ownerOf c
      let y := s.nextLine a c tr data
      let s := y.2.2
      let tr' := tr.next
      let last := decide (tr.lines ≤ tr'.landed)
      let slot (f : Slot → Slot) (s : State) : State :=
        let x := s.core c
        s.setCore c { x with slots := smSet Slot.reset x.slots n (f (smGet Slot.reset x.slots n)) }
      let s := slot (fun z => { z with flying := if last then none else some tr' }) s
      if t < (s.core c).macroEnd then
        (s.put (F.TIL_CORE_STATE_LAST_BREACH c) 8).doubtAllot a { cause := 8, core := c, subject := c }
      else
        let s := s.addWrites c [wideWrite t 6 0 (tr.dest + tr.index) y.1 y.2.1 t 0xFFFFFFFF]
        let s := if last then slot (fun z => { z with valid := true, landedAt := s.wck.now + 1 }) s else s
        -- lines that waited in the merger: the spec states no arrival cycle (log entry 35)
        let k := 1 + Config.anyNat s.free % 64
        let key := 8 * c + 5
        let s := { s with free := s.free + 1, spmCounts := smSet 0 s.spmCounts key (max k (smGet 0 s.spmCounts key)) }
        if s.get F.SPM_MERGE_PEAK_LINES < k then (s.put F.SPM_MERGE_PEAK_LINES k).put F.SPM_MERGE_PEAK_CORE c else s

def execTransferLanding (c n : Nat) (data : Bytes) (s : State) : Host.Outcome State Fault Refusal :=
  if n < 64 then unit 4608 c s (landLine c n data) else .fault .noSuchUnit

/-! ## A flume transfer starts (R311) -/

/-- Lines of a FLUME record that cross the bridge (R322): one for each bridge channel on the way to the other die's tiles, or, scattered,
those of the tiles there. -/
def State.flumeCross (s : State) (a : Nat) (p : Plan) (r : Bytes) : Nat :=
  let far (t : Nat) : Bool := south t != decide (8 ≤ rvUnit r)
  if rvScatter r then
    let l := s.flumeCores a r
    (l.zipIdx.map fun c => if far (c.1 / 32) then flumeShare r c.2 l.length else 0).sum
  else
    let tiles := ((List.range (rvTiles r)).map fun i => s.phyTile a (rvFirstTile r + i)).filter far
    let ways := if p.geo = 1 then (tiles.map tileCol).dedup else tiles.take 1
    rvSent r * ways.length

/-- A transfer starts at its stamp (R311, R314), into the slot of every core that receives a line (R313). A record with MACRO feeds the macro on core 0 of its tiles. -/
def flumeStart (a k : Nat) (s : State) : State :=
  match (s.allot a).active with
  | none => s
  | some p =>
    let r := p.resv.getD k []
    if !s.judges a (rvStamp r) || r == [] || rvKind r != 1 || !rvApplies r (s.allot a).planTurn || decide (rvStamp r < s.wck.cycle) then s
    else
      let s := (s.coresTo (rvStamp r)).advanceTo (rvStamp r)
      let e := rvUnit r
      let v := rvServe r (rvStamp r) (xl p.pages (rvSrc r)) (2 * (rvRead r / 128))
      let sigma := match v with | some x => x.1 | none => cdiv (rvStamp r) 16
      let ends := match v with | some x => 16 * (x.2 + 1) | none => rvStamp r
      let l := if rvMacro r then [] else s.flumeCores a r
      let clash := (l.zipIdx.filter fun c => decide (0 < flumeShare r c.2 l.length)
        && (smGet Slot.reset (s.core c.1).slots (rvLslot r)).flying.isSome).map (·.1)
      if clash ≠ [] then
        if s.judges a (rvStamp r) then
          clash.foldl (fun s c => (s.put (F.TIL_CORE_STATE_LAST_BREACH c) 6).doubtAllot a { cause := 6, core := c, subject := c }) s
        else s
      else if !s.planRuns a then s
      else
        let s := ((s.put (F.FLU_ENGINE_BUSY e) 1).put (F.FLU_ENGINE_ALLOT e) a).bump (F.FLU_ENGINE_LINES e) (rvSent r)
        let s := { s with fluUntil := smSet 0 s.fluUntil e (s.wck.now + (ends - rvStamp r)) }
        let s := s.crossBridge (decide (8 ≤ e)) (s.flumeCross a p r)
        let s := s.setAllot a { s.allot a with flumes := smSet 0 (s.allot a).flumes k 1 }
        let s := if rvMacro r then (s.keyDamage p.pages r).foldl (fun s b => s.planEvent (s.planBlock (s.runKey a) b (16 * sigma)) a) s else s
        l.zipIdx.foldl (fun s c =>
          let x := s.core c.1
          let n := flumeShare r c.2 l.length
          if n = 0 then s
          else s.setCore c.1 (x.fly (rvLslot r) s.wck.now
            ⟨1, k, sigma, (smGet Slot.reset x.slots (rvLslot r)).base / 128, n, 0, 0, []⟩)) s

def execFlumeTransferStart (a k : Nat) (s : State) : Host.Outcome State Fault Refusal := unit 16 a s (flumeStart a k)

/-! ## Rewrites (R307) -/

/-- A queued block is read, corrected and written in one host-share access. -/
def rewriteBlock (st : Nat) (s : State) : State :=
  match smGet [] s.rewriteQ st with
  | [] => s
  | b :: r =>
    let s := { s with rewriteQ := smSet [] s.rewriteQ st r }
    match s.blockEcc b with
    | .correctable => s.setBlock b (s.blockTag b) .good
    | _ => s

def execHbmRewrite (st : Nat) (s : State) : Host.Outcome State Fault Refusal := unit 8 st s (rewriteBlock st)

end Sys2Proof.Machine
end

