-- ==== Sys2Proof/Machine/Routes.lean ====
section
/-! DEFINITION. The canal network (chapter 13): paths of laterals, what a lateral reserves, the route program and the dry
check. -/

namespace Sys2Proof.Machine

/-! ## Paths (R319, R322, Table 13-1). Router i is the router of tile i. -/

def routerAt (die row col : Nat) : Nat := 72 * die + 8 * row + col
def dieOf (t : Nat) : Nat := b2n (south t)

/-- The numbers from `a` to `b`, both included. -/
def walkTo (a b : Nat) : List Nat := if a ≤ b then (List.range (b - a + 1)).map (a + ·) else (List.range (a - b + 1)).map (a - ·)

/-- Routers of the path between two routers, both ends included; `b` is the bridge channel of paths between dies. -/
def pathRouters (x y b : Nat) : List Nat :=
  if dieOf x = dieOf y then
    ((walkTo (tileCol x) (tileCol y)).map (routerAt (dieOf x) (tileRow x)))
      ++ ((walkTo (tileRow x) (tileRow y)).drop 1).map fun r => routerAt (dieOf x) r (tileCol y)
  else
    ((walkTo (tileCol x) b).map (routerAt (dieOf x) (tileRow x)))
      ++ ((walkTo (tileRow x) 0).drop 1).map (fun r => routerAt (dieOf x) r b)
      ++ ((walkTo 0 (tileRow y)).map fun r => routerAt (dieOf y) r b)
      ++ ((walkTo b (tileCol y)).drop 1).map (routerAt (dieOf y) (tileRow y))

/-- The router of gatehouse channel g. -/
def gateRouter (g : Nat) : Nat := if g < 8 then routerAt 0 8 g else routerAt 1 8 (g - 8)
/-- The router of key flume engine e. -/
def flumeRouter (e : Nat) : Nat := if e < 8 then routerAt 0 e 7 else routerAt 1 (e - 8) 7

/-- The bridge channel of a path of record `r` to router `y` (R325). -/
def Plan.bridge (p : Plan) (r : Bytes) (y : Nat) : Nat := if p.geo = 1 then tileCol y else rtBridge r

/-- The endpoints of a route record's paths. -/
def State.rtEnds (s : State) (a : Nat) (r : Bytes) : List (Nat × Nat) :=
  match rtKind r with
  | 0 => [(s.phyTile a (rtSrc r), s.phyTile a (rtDst r))]
  | 1 => (List.range (rtDst r)).map fun i => (flumeRouter (rtUnit r), s.phyTile a (rtSrc r + i))
  | 2 => [(s.phyTile a (rtSrc r), gateRouter (rtUnit r))]
  | _ => [(gateRouter (rtUnit r), s.phyTile a (rtDst r))]

/-- The paths of a route record. -/
def State.rtPaths (s : State) (a : Nat) (p : Plan) (r : Bytes) : List (List Nat) :=
  (s.rtEnds a r).map fun e => pathRouters e.1 e.2 (p.bridge r e.2)

/-- Routers that hold an entry of a lateral (R327). -/
def State.rtRouters (s : State) (a : Nat) (p : Plan) (r : Bytes) : List Nat := (s.rtPaths a p r).flatten.dedup

/-! ## The plan turn that comes next -/

/-- The plan turn that executes in turn `k`, when the plan runs then (R63, R139). -/
def Allot.nextTurn (x : Allot) (k : Nat) : Option Nat :=
  match x.active with
  | none => none
  | some p =>
    if x.stops.any fun m => (turnsAhead k m.2).isNone then none
    else if x.executed = 0 then some 0
    else if p.repeat_ then some ((x.planTurn + 1) % max 1 p.l)
    else if x.planTurn + 1 < p.l then some (x.planTurn + 1) else none

/-- The number of the next turn. -/
def State.nextNumber (s : State) : Nat := (s.wck.turn + 1) % 2 ^ 48

/-- The plan turn that allotment `a` executes in the next turn; `fallow` says that the turn is fallow. -/
def State.comesNext (s : State) (fallow : Bool) (a : Nat) : Option Nat :=
  if fallow || s.altState a != 4 || s.chipClosed then none else (s.allot a).nextTurn s.nextNumber

/-! ## Wet laterals (R329) -/

/-- A lateral of the allotment's plan that carries lines of a landing transfer: of a FLUME record from its engine, of a RECV record from
its gatehouse channel (Table 13-3). -/
def State.landingRoute (s : State) (a c : Nat) (tr : Transfer) : Option Nat :=
  match (s.allot a).active with
  | none => none
  | some p =>
    let j := (s.allot a).planTurn
    let tile := s.logCore a c / 32
    let hit (q : Bytes) : Bool :=
      rtApplies q j && (match tr.kind with
        | 1 => rtKind q == 1 && rtUnit q == rvUnit (p.resv.getD tr.src []) && decide (rtSrc q ≤ tile) && decide (tile < rtSrc q + rtDst q)
        | _ => rtKind q == 3 && rtUnit q == lkChannel (p.links.getD tr.src []) && rtDst q == tile)
    (p.routes.findIdx? hit)

/-- Lines of the transfer are on the canals. -/
def Transfer.travels (tr : Transfer) (t : Nat) : Bool := (tr.kind == 1 && decide (16 * tr.sigma ≤ t)) || (tr.kind == 2 && tr.data != [])

/-- The router of a path at which a line stands `age` cycles after its read (R323): it takes its k-th mesh link in cycle 3 + 2k and stands
at the far end two cycles later; the bridge, between routers of the two dies, takes 24. -/
def routerReached (age : Nat) : Nat → List Nat → Nat
  | _, [] => 0
  | _, [x] => x
  | at_, x :: y :: l =>
    let next := at_ + if x / 72 = y / 72 then 2 else 24
    if age < next then x else routerReached age next (y :: l)

/-- A lateral's path to a tile, or its first. -/
def State.rtPathTo (s : State) (a k tile : Nat) : List Nat :=
  match (s.allot a).active with
  | none => []
  | some p =>
    let l := s.rtPaths a p (p.routes.getD k [])
    (l.find? fun x => x.getLast? == some tile).getD (l.headD [])

/-- Where a MOV REMOTE line stands that is written `left` cycles from now: the cycles its write lies after its read are those of the
counts declared for its path (R324, Table 8-3). -/
def State.lineRouter (s : State) (a k c left : Nat) : Nat :=
  let path := s.rtPathTo a k (c / 32)
  let exact := match (s.allot a).active with | some p => p.geo != 1 | none => true
  let cross := match path.head?, path.getLast? with | some x, some y => b2n (x / 72 != y / 72) | _, _ => 0
  let h := if exact then path.length - 1 - cross else 23
  let b := if exact then cross else 1
  let delay := if s.profileOf a = 0 then 5 + 2 * h + 24 * b else 7 + 3 * h + 32 * b
  routerReached (delay - left) 3 path

/-- Lines of allotment `a` still in transit, by route position, with the router at which each is found (log entry 47): MOV REMOTE lines
that are read and not written, lines yet to be read at their source, lines on the way to a gate, and, at the ejecting router, flume lines
and exchange lines that wait for the merger. -/
def State.wetLines (s : State) (a : Nat) : List (Nat × Nat) :=
  let own := s.cores.filter fun c => s.ownerOf c.1 == a
  let late := own.flatMap fun c => (c.2.writes.filter fun w => w.port == 5 && decide (s.wck.cycle < w.at_)).map fun w =>
    (w.route, s.lineRouter a w.route c.1 (w.at_ - s.wck.cycle))
  let runs := own.flatMap fun c => (c.2.runs.filter fun r => r.next.isSome).map fun r => (r.route, c.1 / 32)
  let gate := ((s.allot a).txs.filter fun b => decide (s.wck.cycle < b.at_)).map fun b =>
    (b.route, ((s.rtPathTo a b.route 144).getLast?).getD 0)
  let lands := own.flatMap fun c => c.2.slots.filterMap fun z =>
    match z.2.flying with
    | some tr => if tr.travels s.wck.cycle then (s.landingRoute a c.1 tr).map fun k => (k, c.1 / 32) else none
    | none => none
  (late ++ runs ++ gate).filter (fun x => x.1 != 0xFFFFFFFF) ++ lands

/-- Route positions of those lines. -/
def State.wetRoutes (s : State) (a : Nat) : List Nat := ascending (((s.wetLines a).map (·.1)).dedup)

/-! ## The route program (R327, R328) -/

/-- The laterals that apply in the next turn, and the wet ones, which stay in force (R329): allotment, position, whether it is there for
its last line alone. -/
def State.nextProgram (s : State) (fallow : Bool) : List (Nat × Nat × Bool) :=
  (List.range 16).flatMap fun a =>
    match (s.allot a).active with
    | some p =>
      let wet := s.wetRoutes a
      p.routes.zipIdx.filterMap fun r =>
        if (match s.comesNext fallow a with | some j => rtApplies r.1 j | none => false) then some (a, r.2, false)
        else if wet.contains r.2 then some (a, r.2, true) else none
    | none => []

/-- The program in force holds a lateral: a wet one until its last line is written (R329). -/
def State.inProgram (s : State) (x : Nat × Nat × Bool) : Bool := !x.2.2 || (s.wetRoutes x.1).contains x.2.1

/-- Entries of the program in force by router. -/
def State.programUse (s : State) : List Nat :=
  (s.routesNow.filter s.inProgram).flatMap fun x =>
    match (s.allot x.1).active with
    | some p => s.rtRouters x.1 p (p.routes.getD x.2.1 [])
    | none => []

/-- The fullest router of the program in force, as CAN_ROUTERS shows it. -/
def State.noteRoutes (s : State) : State :=
  let use := s.programUse
  let best := (List.range 144).foldl (fun (m : Nat × Nat) r => if m.1 < use.count r then (use.count r, r) else m) (0, 0)
  (s.put F.CAN_ROUTERS_PEAK best.1).put F.CAN_ROUTERS_ROUTER best.2

/-- The route program of the next turn takes its place. -/
def State.switchRoutes (s : State) (fallow : Bool) : State := { s with routesNow := s.nextProgram fallow }.noteRoutes

/-! ## The dry check (R329) -/

/-- Each wet lateral is a breach of its owner; the first one is kept in CAN_WET. -/
def State.dryCheck (s : State) : State :=
  (List.range 16).foldl (fun s a =>
    let found := s.wetLines a
    (s.wetRoutes a).foldl (fun s k =>
      let router := ((found.find? fun x => x.1 == k).map (·.2)).getD 0
      let s := if s.on F.CAN_WET_VALID then s
        else (((s.put F.CAN_WET_ALLOT a).put F.CAN_WET_ROUTER router).put F.CAN_WET_RECORD k).put F.CAN_WET_VALID 1
      s.breach a 0x0A k 0xFFFF) s) s

end Sys2Proof.Machine
end

