-- ==== Sys2Proof/Machine/Aqd.lean ====
section
/-! DEFINITION. Aqueduct ports (chapter 13): frames and their code (R331, R332), flits, bring-up and ranging (R335, R336),
exchanges (R339 to R344), markers (R346, R347), sluices and link doubt (R350 to R352). -/

namespace Sys2Proof.Machine

/-! ## Frames (R331) -/

/-- What a frame's four codewords give: the scrambled body, corrected symbols, whether all four decode. -/
def frameBody (f : Bytes) : Nat × Nat × Bool :=
  let words := (List.range 4).map fun c => let v := leNat (slice f (680 * c) 680); (List.range 544).map fun k => bits v (10 * k) 10
  let dec := words.map fun w => (rsCorrect w, w)
  let syms := dec.map fun d => match d.1 with | some x => x.1 | none => d.2
  ((List.range 2056).foldr (fun i v => (syms.getD (i % 4) []).getD (i / 4) 0 + 1024 * v) 0,
   (dec.map fun d => match d.1 with | some x => x.2 | none => 0).sum, dec.all fun d => d.1.isSome)

/-- The body after the descrambler x^58 + x^39 + 1, from the 58 bits received before it. -/
def descramble (last body : Nat) : Nat :=
  let e := last + 2 ^ 58 * body
  bits (Nat.xor e (Nat.xor (e * 2 ^ 39) (e * 2 ^ 58))) 58 20560

/-! ## Ports -/

def apDown : Nat := 0
def apTrain : Nat := 1
def apAlign : Nat := 2
def apRange : Nat := 3
def apUp : Nat := 4
def apFault : Nat := 5

def State.apState (s : State) (p : Nat) : Nat := s.get (F.AQD_PORT_STATE_STATE p)

/-- LINK_NOTICE (R335). -/
def State.linkNotice (s : State) (p : Nat) : State :=
  s.notice 0x0CF2 (p + 256 * s.apState p + 65536 * (if s.apState p = apFault then s.get (F.AQD_PORT_STATE_FAULT_CAUSE p) else 0)) 255

/-- The port faults; leaving UP is link doubt. -/
def State.portFault (s : State) (p cause : Nat) : State :=
  let up := s.apState p == apUp
  let s := ((s.put (F.AQD_PORT_STATE_STATE p) apFault).put (F.AQD_PORT_STATE_FAULT_CAUSE p) cause).linkNotice p
  if up then s.linkDoubt p else s

/-- Move to a state by an awaited event; its lagoon cycle is kept for a tie with its timer. -/
def State.portMove (s : State) (p st : Nat) : State :=
  (s.put (F.AQD_PORT_STATE_STATE p) st).setAqd p { s.aqd p with moved := s.wck.lagoon + 1 }

/-- A write of 1 to ENABLE; an unpowered port stays DOWN. -/
def portEnable (p : Nat) (s : State) : State :=
  let s := s.put (F.AQD_PORT_CTL_ENABLE p) 1
  if s.apState p = apDown ∧ s.working (172 + p) = true then s.put (F.AQD_PORT_STATE_STATE p) apTrain else s

/-- A write of 0 to ENABLE (R338). -/
def portDisable (p : Nat) (s : State) : State :=
  if s.portUsers p ≠ [] then s.logCause 0x100 (0xB8100 + 0x100 * p)
  else (s.put (F.AQD_PORT_CTL_ENABLE p) 0).put (F.AQD_PORT_STATE_STATE p) apDown

def portRestart (p : Nat) (s : State) : State := if s.apState p = apFault then s.put (F.AQD_PORT_STATE_STATE p) apTrain else s

def execAqdPortEnable (p : Nat) (s : State) : Host.Outcome State Fault Refusal := unit 12 p s (portEnable p)
def execAqdPortDisable (p : Nat) (s : State) : Host.Outcome State Fault Refusal := unit 12 p s (portDisable p)
def execAqdPortRestart (p : Nat) (s : State) : Host.Outcome State Fault Refusal := unit 12 p s (portRestart p)

def execLaneTrainingDone (p : Nat) (s : State) : Host.Outcome State Fault Refusal :=
  unit 12 p s fun s => if s.apState p = apTrain then s.portMove p apAlign else s

/-- A bring-up timer expires in state `st`: FAULT; when the event came in the same lagoon cycle, it has won (R335). -/
def portTimeout (st cause p : Nat) (s : State) : State :=
  if s.apState p = st then s.portFault p cause
  else if s.apState p = st + 1 ∧ (s.aqd p).moved = s.wck.lagoon + 1 then s.put (F.AQD_PORT_STATE_MARGIN0 p) 1
  else s

def execTrainTimeout (p : Nat) (s : State) : Host.Outcome State Fault Refusal := unit 12 p s (portTimeout apTrain 1 p)
def execAlignTimeout (p : Nat) (s : State) : Host.Outcome State Fault Refusal := unit 12 p s (portTimeout apAlign 2 p)

/-- Codeword lock, deskew and 256 correctable frames: RANGE, with the peer id of the control field. The state
keeps the limit it found (R353). What an earlier link showed of the peer's sluice ends here (log entry 101). -/
def alignDone (p : Nat) (s : State) : State :=
  if s.apState p = apAlign then
    let s := (s.portMove p apRange).put (F.AQD_PORT_STATE_PEER_SLUICED p) 0
    (s.put (F.AQD_PEER_PEER_ID p) (s.aqd p).peer).setAqd p { s.aqd p with
      samples := 0, sum := 0, lo := 0, hi := 0, quad := [], vlLimit := s.get F.AQD_VL_LIMIT_LIMIT }
  else s

def execAlignDone (p : Nat) (s : State) : Host.Outcome State Fault Refusal := unit 12 p s (alignDone p)

/-- 1,024 round trips are completed (R336): D_L and V_L, rounded as the spec leaves open (log entry 3). -/
def rangingDone (p : Nat) (s : State) : State :=
  let x := s.aqd p
  if s.apState p ≠ apRange ∨ x.samples < 1024 then s
  else
    let n : Int := x.samples
    let up (exact : Bool) (k : Nat) : Int := if exact then 0 else (Config.anyNat (s.free + k) % 2 : Nat)
    let s := { s with free := s.free + 2 }
    let dl := x.sum / n + up (x.sum % n == 0) 0 + 800
    let dev := max (n * x.hi - x.sum) (x.sum - n * x.lo)
    let vl := dev / n + up (dev % n == 0) 1 + (s.get F.AQD_ASYM_ASYM : Int)
    if vl ≤ (x.vlLimit : Int) then
      let s := ((s.put (F.AQD_RANGE_DL p) (unsigned 32 dl)).put (F.AQD_RANGE_VL p) vl.toNat).portMove p apUp
      (s.setAqd p { s.aqd p with frames := [] }).linkNotice p
    else s.portFault p 3

def execRangingDone (p : Nat) (s : State) : Host.Outcome State Fault Refusal := unit 12 p s (rangingDone p)

/-! ## Flits -/

def ftKind (f : Bytes) : Nat := bits (fieldAt f 0 1) 0 4
def ftPos (f : Bytes) : Nat := bits (fieldAt f 1 1) 0 2
def ftChipSluiced (f : Bytes) : Bool := bit (fieldAt f 1 1) 3
def ftExch (f : Bytes) : Nat := fieldAt f 2 2
def ftBase (f : Bytes) : Nat := fieldAt f 4 4

/-- RECV records that apply in the current plan turn, on a port: allotment, record position, record. -/
def State.recvs (s : State) (p : Nat) : List (Nat × Nat × Bytes) :=
  (List.range 16).flatMap fun a =>
    match (s.allot a).active with
    | some pl => if s.altState a = 4 ∨ s.altState a = 6 then
        (pl.links.zipIdx.filter fun r => lkKind r.1 == 2 && lkPort r.1 == p && lkApplies r.1 (s.allot a).planTurn
          && lkPeer r.1 == s.get (F.AQD_PEER_PEER_ID p)).map fun r => (a, r.2, r.1)
      else []
    | none => []

/-- PEER_SLUICED (R351). -/
def State.peerSluiced (s : State) (a : Nat) : State :=
  let s := s.setAllot a { s.allot a with peerSluice := some s.wck.turn }
  s.doubtAllot a { cause := 0x0C }

/-- A received flit with CHIP_SLUICED = 1. -/
def State.chipSluicedFlit (s : State) (p : Nat) : State :=
  let users := (List.range 16).filter fun a => (s.allot a).plans.any fun x => x.links.any fun r => lkKind r == 2 && lkPort r == p
  users.foldl State.peerSluiced (s.put (F.AQD_PORT_STATE_PEER_SLUICED p) 1)

/-- A SLUICE flit (R351). -/
def State.sluiceFlit (s : State) (p : Nat) (f : Bytes) : State :=
  let ids := (List.range (min 112 (fieldAt f 17 1))).map fun i => fieldAt f (32 + 2 * i) 2
  let hit := ((s.recvs p).filter fun r => ids.contains (lkExch r.2.2)).map (·.1)
  hit.dedup.foldl State.peerSluiced s

/-- Lines of a quad: index, words, tag (R334); a sealed or share tag is replaced (R344). -/
def quadLines (q : List Bytes) : List (Nat × List (BitVec 39) × BitVec 64) :=
  let pay := q.flatMap fun f => slice f 32 224
  let base := ftBase (q.getD 0 [])
  (List.range 7).map fun j =>
    let tag := fieldAt (q.getD (j / 2) []) (16 + 8 * (j % 2)) 8
    (base + j, (List.range 32).map fun k => BitVec.ofNat 39 (fieldAt pay (128 * j + 4 * k) 4),
     BitVec.ofNat 64 (if sensitive tag then 2 ^ 64 - 1 else tag))

/-- The lines of a received quad: in the last one of an exchange of `n` lines, the positions from line `n` on that hold zeros to the
quad's end are unused (R334; log entry 101). -/
def usedLines (q : List Bytes) (n : Nat) : List (Nat × List (BitVec 39) × BitVec 64) :=
  let l := quadLines q
  if bit (fieldAt (q.getD 0 []) 1 1) 2 then
    (l.reverse.dropWhile fun x => decide (n ≤ x.1) && x.2.1.all (· == 0) && x.2.2 == 0).reverse
  else l

/-- A received quad (R344): its lines wait for the merger of the matching slot, or are stray. -/
def State.quadReceived (s : State) (p : Nat) (q : List Bytes) : State :=
  let f := q.getD 0 []
  match (s.recvs p).find? fun r => lkExch r.2.2 == ftExch f with
  | none => s.bump (F.AQD_STRAY_STRAY p) (usedLines q 0).length
  | some (a, k, r) =>
    let c := s.phyCore a (lkCore r)
    let z := smGet Slot.reset (s.core c).slots (lkSlot r)
    let lines := usedLines q (lkLines r)
    let open_ := match z.flying with | some t => t.kind == 2 && t.src == k | none => false
    let good := if s.held a || !open_ || decide (s.wck.cycle < lkA r) then [] else lines.filter fun l => decide (l.1 < lkLines r)
    let s := s.bump (F.AQD_STRAY_STRAY p) (lines.length - good.length)
    match z.flying with
    | some t => if good = [] then s
      else s.setCore c { s.core c with slots := smSet Slot.reset (s.core c).slots (lkSlot r) { z with
        flying := some { t with data := t.data ++ good } } }
    | none => s

/-- A DATA flit (R334, R349): in a fallow turn it is counted; the fourth of a quad completes it. -/
def State.dataFlit (s : State) (p : Nat) (f : Bytes) : State :=
  if s.wck.isFallow then s.bump (F.AQD_STRAY_FALLOW p)
  else
    let q := if ftPos f = 0 then [f] else (s.aqd p).quad ++ [f]
    if q.length ≠ ftPos f + 1 then s.setAqd p { s.aqd p with quad := [] }
    else if q.length = 4 then (s.setAqd p { s.aqd p with quad := [] }).quadReceived p q
    else s.setAqd p { s.aqd p with quad := q }

/-! ## Ranging (R336) -/

/-- A RANGE flit: one whose T2 and T3 are 0 asks for its echo, any other completes a round trip. The port's own count is
not stated: stamps taken here are free (log entry 3). -/
def State.rangeFlit (s : State) (p : Nat) (f : Bytes) : State :=
  let t1 := fieldAt f 16 8
  let t2 := fieldAt f 24 8
  let t3 := fieldAt f 32 8
  let now := Config.anyNat s.free
  let x := s.aqd p
  let s := { s with free := s.free + 2 }
  if t2 = 0 ∧ t3 = 0 then
    s.sendFlits p [s.flitOn p 2 0 0 0 (toLe 8 t1 ++ toLe 8 now ++ toLe 8 (Config.anyNat (s.free + 1)) ++ slice f 40 2)]
  else
    let v := (((now : Int) - t1) - ((t3 : Int) - t2)) / 2
    if s.apState p = apRange then
      s.setAqd p { x with
        samples := x.samples + 1, sum := x.sum + v
        lo := if x.samples = 0 then v else min x.lo v, hi := if x.samples = 0 then v else max x.hi v }
    else if s.apState p = apUp ∧ s.get (F.AQD_RANGE_VL p) < (v + 800 - s.get (F.AQD_RANGE_DL p)).natAbs then s.portFault p 6
    else s

/-! ## Markers (R346, R347) -/

/-- Water-clock time in units of 0.125 ns. -/
def State.eighths (s : State) : Int := 8 * ((s.wck.sec : Int) * 1000000000 + s.wck.ns) + 8 * s.wck.frac / (4 * s.freq)

/-- STRATUM (R346). -/
def State.stratum (s : State) : Nat :=
  if s.wckState = wckLocked ∧ (s.wckSource = 1 ∨ s.wckSource = 2) then 0
  else if s.wckSource = 3 then min 15 (s.wck.stratum + 1)
  else 15

/-- A MARKER flit; `tie` when its event's window closes in the cycle of its arrival (R31). -/
def State.markerFlit (s : State) (p : Nat) (f : Bytes) (tie : Bool) : State :=
  let st := bits (fieldAt f 22 1) 0 3
  let stratum := bits (fieldAt f 22 1) 4 4
  let s := ((s.put (F.AQD_PORT_STATE_PEER_FALLOW_NEXT p) (bits (fieldAt f 22 1) 3 1)).put (F.AQD_PEER_STRATUM p) stratum).put (F.AQD_PEER_WCK p) st
  if p ≠ s.wck.port then s
  else if (st ≠ wckLocked ∧ st ≠ wckHoldover) ∨ stratum = 15 then s.srcReject 3
  else
    let r : Int := max 1 (s.get F.WCK_TURN_RATE_RATE)
    let local_ := s.eighths + fieldAt f 24 4 - ((s.get (F.AQD_RANGE_DL p) : Int) - 800)
    let named := 8000000000 * (s.get F.WCK_ANCHOR_SEC_SEC : Int) + 8000000000 * s.fromAnchor (fieldAt f 16 6) / r
    let t := s.srcEvent 3 (named - local_) tie
    if (t.src 3).rejects = 0 then { t with wck := { t.wck with stratum := stratum } } else t

/-! ## Receiving -/

/-- A flit that arrived whole in ALIGN, RANGE or UP: CHIP_SLUICED is heeded on every one (R351); RANGE flits are used in RANGE and UP, the
others in UP. -/
def State.useFlit (s : State) (p : Nat) (f : Bytes) (tie : Bool := false) : State :=
  let st := s.apState p
  if st < apAlign ∨ apUp < st then s
  else
    let s := if ftChipSluiced f then s.chipSluicedFlit p else s
    if st = apAlign then s
    else if st = apRange then if ftKind f = 2 then s.rangeFlit p f else s
    else match ftKind f with
      | 1 => s.markerFlit p f tie
      | 2 => s.rangeFlit p f
      | 3 => s.dataFlit p f
      | 4 => s.sluiceFlit p f
      | _ => s

/-- A flit of one kind; one that fails its CRC is not used. -/
def oneFlit (p kind : Nat) (f : Bytes) (s : State) (tie : Bool := false) : State :=
  if flitOk f && ftKind f == kind then s.useFlit p f tie else s

def execMarkerReceive (p : Nat) (f : Bytes) (tie : Bool) (s : State) : Host.Outcome State Fault Refusal :=
  unit 12 p s fun s => oneFlit p 1 f s tie
def execRangeFlitReceive (p : Nat) (f : Bytes) (s : State) : Host.Outcome State Fault Refusal := unit 12 p s (oneFlit p 2 f)
def execSluiceFlitReceive (p : Nat) (f : Bytes) (s : State) : Host.Outcome State Fault Refusal := unit 12 p s (oneFlit p 4 f)

/-- The flits of a received quad, one after the other. -/
def execDataQuadReceive (p : Nat) (q : Bytes) (s : State) : Host.Outcome State Fault Refusal :=
  unit 12 p s fun s => (recs 256 q).foldl (fun s f => oneFlit p 3 f s) s

/-- A frame arrives (R332, R335): 2,720 bytes, lane c's codeword in bytes 680 c to 680 c + 679. `tie`: the window of the marker event it
brings closes in the cycle of its arrival (R31). -/
def frameReceived (p : Nat) (f : Bytes) (tie : Bool) (s : State) : State :=
  let st := s.apState p
  if st < apAlign ∨ apUp < st then s
  else
    let r := frameBody f
    let b := toLe 2570 (descramble (s.aqd p).last58 r.1)
    let flits := recs 256 (b.drop 10)
    let ok := r.2.2 && flits.all flitOk
    let s := s.setAqd p { s.aqd p with last58 := bits r.1 20502 58 }
    let s := s.bump (F.AQD_FEC_CORRECTED p) r.2.1
    let s := if st = apUp then s.setAqd p { s.aqd p with frames := ((!ok) :: (s.aqd p).frames).take 64 } else s
    if !ok then
      let s := (s.bump (F.AQD_FEC_UNCORRECTABLE p)).setAqd p { s.aqd p with quad := [] }
      let s := s.linkDoubt p
      if st = apUp ∧ 8 ≤ ((s.aqd p).frames.filter id).length then s.portFault p 4 else s
    else
      let id_ := bits (fieldAt b 2 2) 0 9
      let s := if st = apAlign then s.setAqd p { s.aqd p with peer := id_ } else s
      if st = apUp ∧ id_ ≠ s.get (F.AQD_PEER_PEER_ID p) then s.portFault p 5
      else flits.foldl (fun s f => s.useFlit p f tie) s

def execAqdFrameReceive (p : Nat) (f : Bytes) (tie : Bool) (s : State) : Host.Outcome State Fault Refusal :=
  unit 12 p s (frameReceived p f tie)

/-! ## Exchanges -/

/-- At OPEN a RECV record clears its slot's valid bit (R344). -/
def recvOpen (a k : Nat) (s : State) : State :=
  match (s.allot a).active with
  | none => s
  | some p =>
    let r := p.links.getD k []
    if !s.judges a (lkA r) || r == [] || lkKind r != 2 || !lkApplies r (s.allot a).planTurn || decide (lkA r < s.wck.cycle) then s
    else
      let s := (s.coresTo (lkA r)).advanceTo (lkA r)
      let c := s.phyCore a (lkCore r)
      let x := s.core c
      let z := smGet Slot.reset x.slots (lkSlot r)
      if z.flying.isSome then
        if s.judges a (lkA r) then
          (s.put (F.TIL_CORE_STATE_LAST_BREACH c) 6).doubtAllot a { cause := 6, core := c, subject := c }
        else s
      else if !s.planRuns a then s
      else s.setCore c (x.fly (lkSlot r) s.wck.now ⟨2, k, 0, z.base / 128, lkLines r, 0, 0, []⟩)

def execRecvOpen (a k : Nat) (s : State) : Host.Outcome State Fault Refusal := unit 16 a s (recvOpen a k)

/-- Quads a port may send in a link slot (R342). -/
def State.qSlot (s : State) : Nat := min 15 (12480000000 / s.freq)

/-- The four flits of a quad of up to 7 lines from line `base` of an exchange. -/
def State.quadFlits (s : State) (p exch base : Nat) (last : Bool) (l : List (Bytes × BitVec 64)) : List Bytes :=
  let pay := padTo 896 (l.flatMap fun x => padTo 128 x.1)
  let tag (j : Nat) : Bytes := toLe 8 (if j < 7 then ((l.getD j ([], 0)).2).toNat else 0)
  (List.range 4).map fun pos =>
    s.flitOn p 3 (pos + 4 * b2n last) exch base (tag (2 * pos) ++ tag (2 * pos + 1) ++ slice pay (224 * pos) 224)

/-- What a transmit buffer sends in link slot `slot`: its flits, and how many lines leave. -/
def State.slotFlits (s : State) (r : Bytes) (b : TxBuf) (slot : Nat) : List Bytes × Nat :=
  if decide (128 * slot < b.at_) || decide (slot < lkA r) || decide (lkA r + lkB r ≤ slot) then ([], 0)
  else
    let rest := b.lines.drop b.sent_
    let n := min (7 * lkShare r) rest.length
    ((List.range (cdiv n 7)).flatMap fun i =>
      s.quadFlits (lkPort r) (lkExch r) (b.sent_ + 7 * i) (decide (b.lines.length ≤ b.sent_ + 7 * (i + 1))) ((rest.drop (7 * i)).take 7), n)

/-- The transmit buffer after `n` lines have left; empty ones are dropped. -/
def TxBuf.after (b : TxBuf) (n : Nat) : List TxBuf := if b.lines.length ≤ b.sent_ + n then [] else [{ b with sent_ := b.sent_ + n }]

/-- SEND record `k` of an allotment is served in link slot `slot`: its flits, and the state. -/
def State.serveSend (s : State) (a k : Nat) (r : Bytes) (slot : Nat) : List Bytes × State :=
  let x := s.allot a
  match x.txs.find? fun b => b.record == k with
  | none => ([], s)
  | some b =>
    let f := s.slotFlits r b slot
    (f.1, if f.1 = [] then s
      else s.setAllot a { x with txs := x.txs.flatMap fun y => if y.record == k then b.after f.2 else [y] })

/-- A port sends DATA in this turn (R349, R350). -/
def State.portSends (s : State) (p : Nat) : Bool :=
  s.apState p == apUp && !s.chipClosed && !s.wck.isFallow && !s.on (F.AQD_PORT_STATE_PEER_FALLOW_NEXT p)

/-- The next link slot (R342): records in ascending position, each port's flits in consecutive frames. -/
def linkSlot (s : State) : State :=
  let k := max s.linkSlots (cdiv s.wck.cycle 128)
  if !s.wck.running || s.wck.isFallow then s
  else
    let s := (s.coresTo (128 * k)).advanceTo (128 * k)
    let s := { s with linkSlots := k + 1 }
    let recs := (List.range 16).flatMap fun a =>
      if s.planRuns a then
        match (s.allot a).active with
        | some p => (p.links.zipIdx.filter fun r => lkKind r.1 == 1 && lkApplies r.1 (s.allot a).planTurn && s.portSends (lkPort r.1)).map
            fun r => (a, r.2, r.1)
        | none => []
      else []
    let most := (recs.map fun r => r.2.1 + 1).foldl max 0
    let order := (List.range most).flatMap fun i => recs.filter fun r => r.2.1 == i
    let out := order.foldl (fun (acc : List (Nat × Bytes) × State) r =>
      let y := acc.2.serveSend r.1 r.2.1 r.2.2 k
      (acc.1 ++ y.1.map fun f => (lkPort r.2.2, f), y.2)) ([], s)
    (List.range 12).foldl (fun s p =>
      let l := (out.1.filter fun f => f.1 == p).map (·.2)
      if l = [] then s else s.sendFlits p l) out.2

def execLinkSlotSend (s : State) : Host.Outcome State Fault Refusal := run s linkSlot

end Sys2Proof.Machine
end

