-- ==== Sys2Proof/Machine/Pins.lean ====
section
/-! DEFINITION. Pins, the gauge ADC, the I²C ports, the SMBus target and the debug port (chapter 21). -/

namespace Sys2Proof.Machine

/-! ## Pin records (R503, R504, R507) -/

def unitGpio : Nat := 261

/-- The input signal a pin feeds (Table 21-5). -/
def State.pinSig (s : State) (n : Nat) : Nat := bits (s.pinRec n) 24 4

/-- The pins that feed an input signal. -/
def State.feeders (s : State) (sig : Nat) : List Nat := (List.range 48).filter fun n => s.pinSig n == sig

/-- R507: a conflict sets its bit in every cycle in which it persists. -/
def State.noteConflicts (s : State) : State :=
  [1, 2, 3, 4].foldl (fun s k =>
    let v := s.get F.GPIO_CONFLICT_SIG
    if 2 ≤ (s.feeders k).length ∧ ¬ bit v (k - 1) then s.put F.GPIO_CONFLICT_SIG (v + 2 ^ (k - 1)) else s) s

/-- Turn and cycle offset of the core cycle in progress `n` lagoon cycles before the start of the present one; in the turn before, by that
turn's number, length and clock. -/
def State.before (s : State) (n : Nat) : Nat × Nat :=
  let back := n * s.coreHz
  let c := cdiv back 800000000
  if c ≤ s.wck.cycle then (s.wck.turn, s.wck.cycle - c)
  else (s.prevTurn, s.prevLength - cdiv ((back - 800000000 * s.wck.cycle) * s.prevHz) (800000000 * s.coreHz))

/-- FILTER of a pin. -/
def State.pinFilter (s : State) (n : Nat) : Nat := bits (s.pinRec n) 16 8

/-- VIL and VIH of a LEVEL, in millivolts (Table 22-3). -/
def pinThresholds (level : Nat) : Nat × Nat := match level with | 0 => (350, 850) | 1 => (550, 1250) | _ => (800, 2000)

/-- The sample of pin `n` at a voltage in millivolts. Between VIL and VIH, where no level is promised, hysteresis keeps the sample and a pin
without it samples a free value (log entry 99). Analog mode has its input buffer off. -/
def State.pinLevel (s : State) (mv n : Nat) : Bool :=
  let r := s.pinRec n
  let v := pinThresholds (bits r 5 2)
  if bit r 2 ∨ mv ≤ v.1 then false
  else if v.2 ≤ mv then true
  else if bit r 7 then bit s.pinRaw n else bit (Config.anyNat s.free) n

/-- The pins are sampled: they have stood at these voltages for `held` lagoon cycles. A pin whose sample changes has stood at it for so
long; any other stands as long as it did. -/
def State.samplePins (s : State) (mv : List Nat) (held : Nat) : State :=
  let level (n : Nat) : Bool := s.pinLevel (mv.getD n 0) n
  { s with
    free := s.free + 1
    pinRaw := ((List.range 48).map fun n => if level n then 2 ^ n else 0).sum
    pinSince := ((List.range 48).filter fun n => level n != bit s.pinRaw n).foldl
      (fun m n => smSet 0 m n ((s.wck.lagoon : Int) - held)) s.pinSince }

/-- The filtered value of pin `n`: its sample, once that has stood for FILTER lagoon cycles (R505); 0 in analog mode. -/
def State.pinFiltered (s : State) (n : Nat) : Bool :=
  if bit (s.pinRec n) 2 then false
  else if max 1 (s.pinFilter n) ≤ (s.wck.lagoon : Int) - smGet 0 s.pinSince n then bit s.pinRaw n else bit (s.get F.GPIO_IN_IN) n

/-- GPIO_IN follows the samples. -/
def State.filterPins (s : State) : State := s.put F.GPIO_IN_IN ((List.range 48).map fun n => if s.pinFiltered n then 2 ^ n else 0).sum

/-- The level of STAMPk: its one feeder's filtered value, else the default 0 (R506, R507). -/
def State.stampLevel (s : State) (k : Nat) : Bool :=
  match s.feeders (k + 1) with
  | [n] => bit (s.get F.GPIO_IN_IN) n
  | _ => false

/-- A capture into GPIO_STAMP(k): the filtered edge less its feeder's FILTER (R512). -/
def State.captureStamp (s : State) (k : Nat) : State :=
  let t := s.before (s.pinFilter ((s.feeders (k + 1)).headD 0))
  let s := if s.on (F.GPIO_STAMP_VALID k) then s.put (F.GPIO_STAMP_OVERRUN k) 1 else s
  ((s.put (F.GPIO_STAMP_CYCLE k) t.2).put (F.GPIO_STAMP_TURN k) t.1).put (F.GPIO_STAMP_VALID k) 1

/-- Every stamp signal that stands at 1 and stood at 0 in `old` is captured. -/
def State.stampsRise (s old : State) : State :=
  (List.range 4).foldl (fun s k => if s.stampLevel k && !old.stampLevel k then s.captureStamp k else s) s

/-- The records of a GPIO_CONFIG commit together (R504). A pin in analog mode reads 0 (R505); a signal may rise with the commit. -/
def State.commitPins (s : State) (first : Nat) (l : List Nat) : State :=
  let t := l.zipIdx.foldl (fun s x => { s with pinRecs := smSet 0 s.pinRecs (first + x.2) x.1 }) s
  (t.filterPins.stampsRise s).noteConflicts

/-- The checks of record i of a GPIO_CONFIG (Table 21-4, R503). -/
def pinChecks (o : Ord) (i : Nat) : List (Bool × Why) :=
  let b := 32 + 16 * i
  let n := o.field 16 1 + i
  let v := o.field b 1
  let owner := bits (o.field (b + 5) 1) 0 5
  [rg (bit v 2 && (decide (n < 40) || bit v 0 || bits (o.field (b + 3) 1) 0 4 != 0)) b 2, rg (bits v 3 2 == 3) b 3, rg (bits v 5 2 == 3) b 5,
   rzb o (b + 1) 1 7, rg (decide (4 < bits (o.field (b + 3) 1) 0 4)) (b + 3), rzb o (b + 3) 4 4, rzb o (b + 4) 2 6,
   rg (decide (15 < owner) && owner != 31) (b + 5), rzb o (b + 5) 5 3, rz o (b + 6) 10]

def specGpioConfig : Spec where
  op := 0x0A00
  q0 := true
  allot := 1
  need := fun _ o =>
    [(decide (o.field 16 1 + o.field 17 1 ≤ 48) && decide (o.units < 1 + cdiv (16 * o.field 17 1) 32), shortAt 17)]
  state := fun s _ => [(!s.working unitGpio, unitMissing unitGpio)]
  fields := fun _ o =>
    [rg (decide (47 < o.field 16 1)) 16, rg (decide (48 < o.field 16 1 + o.field 17 1)) 17, rz o 18 10] ++
    (if o.field 16 1 + o.field 17 1 ≤ 48 then (List.range (o.field 17 1)).flatMap (fun i => itemChecks i (pinChecks o i)) else [])
  body := fun s o =>
    if o.field 17 1 = 0 then s.done o
    else s.stage o (.pins (o.field 16 1) ((List.range (o.field 17 1)).map fun i => leNat (o.data (32 + 16 * i) 16)))

def execGpioConfig (q : Nat) (s : State) : Host.Outcome State Fault Refusal := unit 64 q s (order specGpioConfig q [])

/-- GPIO_OUT (R510): a virtual function changes only the bits of pins its allotment owns. -/
def writeGpioOut (fn v : Nat) (s : State) : State :=
  let old := s.get F.GPIO_OUT_OUT
  let mine (n : Nat) : Bool := fn == 0 || (match s.allotOfFn fn with | some a => s.pinOwner n == a | none => false)
  s.put F.GPIO_OUT_OUT ((List.range 48).map fun n => if bit (if mine n then v else old) n then 2 ^ n else 0).sum

def execGpioOut (fn v : Nat) (s : State) : Host.Outcome State Fault Refusal :=
  unit 32 fn s fun s => if s.isReady then writeGpioOut fn v s else s

/-! ## Strobes and stamps (R511, R512) -/

/-- GPIO_STROBE in force. -/
def State.strobe (s : State) (k : Nat) : Nat := smGet 0 s.strobes k

/-- TURN_STROBEk rises. -/
def strobeRise (k : Nat) (s : State) : State :=
  let v := s.strobe k
  let off := bits v 0 32
  if !bit v 48 || decide (s.turnLength ≤ off) || s.chipClosed || s.strobeHigh.any (·.1 == k) then s
  else
    let s := s.advanceTo off
    { s with strobeHigh := s.strobeHigh ++ [(k, s.wck.lagoon + bits v 32 16)] }

def execTurnStrobeRise (k : Nat) (s : State) : Host.Outcome State Fault Refusal := unit 2 k s (strobeRise k)

/-- TURN_STROBEk falls, WIDTH lagoon cycles after its rise. -/
def strobeFall (k : Nat) (s : State) : State :=
  (s.strobeHigh.filter (·.1 == k)).foldl (fun s x => s.atLagoon x.2 fun s => { s with strobeHigh := s.strobeHigh.filter (· != x) }) s

def execTurnStrobeFall (k : Nat) (s : State) : Host.Outcome State Fault Refusal := unit 2 k s (strobeFall k)

/-- The pins have stood at `mv` millivolts for `held` lagoon cycles: GPIO_IN follows, and a signal that rises is captured (R505, R507,
R512). -/
def stampEdge (mv : List Nat) (held : Nat) (s : State) : State := (s.samplePins mv held).filterPins.stampsRise s

def execStampEdge (mv : List Nat) (held : Nat) (s : State) : Host.Outcome State Fault Refusal := run s (stampEdge mv held)

/-! ## The gauge ADC (R513, R514) -/

/-- Pins a mask names. -/
def maskPins (m : Nat) : List Nat := ((List.range 8).filter fun i => bit m i).map (· + 40)

/-- Turn and cycle offset of the core cycle in progress in the next lagoon cycle. -/
def State.nextLagoon (s : State) : Nat × Nat :=
  let c := s.wck.cycle + (if s.on F.WCK_STATE_ON_LAGOON then 1 else s.freq / 800000000)
  if c < s.turnLength then (s.wck.turn, c) else ((s.wck.turn + 1) % 2 ^ 48, c - s.turnLength)

/-- GAU_SAMPLE starts on the idle converter: the first sample in the next lagoon cycle, 800 lagoon cycles (1 µs) for each pin. -/
def startGau (s : State) (o : Ord) : State :=
  if o.field 16 1 = 0 then s.done o
  else { s with gau := some (⟨o, s.nextLagoon.1, s.nextLagoon.2, s.wck.lagoon + 1 + 800 * (maskPins (o.field 16 1)).length⟩ : GauJob) }

def gauBody (s : State) (o : Ord) : State := s.serve o s.gau.isSome (startGau · o)

def specGauSample : Spec where
  op := 0x0A02
  allot := 2
  permit := [1, 2, 3, 4]
  need := fun _ o => [(o.field 16 1 != 0 && decide (o.field 17 3 < 64), shortAt 17)]
  right := fun s o => [firstItem (maskPins (o.field 16 1)) (fun n => o.q != 0 && s.pinOwner n != o.allot) (whyOpen stNoRight 0xCE)]
  state := fun s o =>
    [(!s.working unitGpio, unitMissing unitGpio), firstItem (maskPins (o.field 16 1)) (fun n => !bit (s.pinRec n) 2) (whyOpen stState 0xCF)]
  fields := fun _ o => [rg (o.field 17 3 % 64 != 0) 17, rg (o.field 20 8 % 64 != 0) 20]
  body := gauBody

def execGauSample (q : Nat) (s : State) : Host.Outcome State Fault Refusal := unit 64 q s (order specGauSample q [])

/-- The code of a voltage in µV against the reference of 1.25 V (R513). -/
def gauCode (v : Nat) : Nat := min 4095 (v * 4096 / 1250000)

/-- The last pin has been sampled: the reply, GAU_LAST with the turn of each sample's start, and the tally. The pins' voltages come in
their order. -/
def gauEnd (volts : List Nat) (s : State) : State :=
  match s.gau with
  | none => s
  | some ⟨o, turn, cycle, due⟩ => s.atLagoon due fun s =>
    let pins := maskPins (o.field 16 1)
    let code (n : Nat) : Nat := gauCode (volts.getD (pins.idxOf n) 0)
    let s := { s with gau := none }
    let turnOf (k : Nat) : Nat := if k = 0 then turn else (s.before (s.wck.lagoon - due + 800 * (pins.length - k))).1
    let s := pins.zipIdx.foldl (fun s x => (s.put (F.GAU_LAST_CODE (x.1 - 40)) (code x.1)).put (F.GAU_LAST_TURN (x.1 - 40)) (turnOf x.2)) s
    let body := (List.range 8).flatMap fun i => toLe 2 (if pins.contains (40 + i) then code (40 + i) else 0)
    let r := body ++ toLe 6 turn ++ [0, 0] ++ toLe 4 cycle ++ List.replicate 36 0
    ((s.took o).reply o (o.field 20 8) r).done o pins.length

def execGaugeSampleEnd (volts : List Nat) (s : State) : Host.Outcome State Fault Refusal := run s (gauEnd volts)

/-! ## The I²C ports (R515 to R520) -/

def ixBus (o : Ord) : Nat := o.field 16 1
def ixWrite (o : Ord) : Nat := o.field 18 2
def ixRead (o : Ord) : Nat := o.field 20 2

/-- A transfer takes the bus's controller. -/
def startI2c (s : State) (o : Ord) : State := s.setI2c (ixBus o) ⟨some o, false, 0⟩
def i2cBody (s : State) (o : Ord) : State := s.serve o (s.i2c (ixBus o)).ord.isSome (startI2c · o)

/-- A camera bus that does not serve its pins. -/
def busOff (s : State) (b : Nat) : Bool :=
  !s.on (F.MGT_CCI_ENABLE (b - 1)) || s.pinFunc (6 + 2 * b) != 2 || s.pinFunc (7 + 2 * b) != 2

def specMgtI2cXfer : Spec where
  op := 0x0A01
  allot := 2
  permit := [1, 2, 3, 4]
  units := 2
  need := fun _ o =>
    [(decide (ixWrite o ≤ 4096) && decide (o.units < 2 + cdiv (ixWrite o) 32), shortAt 18),
     (decide (ixRead o ≤ 4096) && decide (o.field 40 4 < ixRead o), shortAt 40)]
  right := fun s o =>
    [(ixBus o == 0 && o.q != 0, whyRight 0x28 o.q),
     (decide (1 ≤ ixBus o ∧ ixBus o ≤ 4) && o.q != 0 && s.get (F.MGT_CCI_OWNER (ixBus o - 1)) != o.allot, whyOpen stNoRight 0xC8)]
  state := fun s o =>
    [(!s.working 262, unitMissing 262), (decide (1 ≤ ixBus o ∧ ixBus o ≤ 4) && busOff s (ixBus o), whyOpen stState 0xC9)]
  fields := fun _ o =>
    [rg (decide (4 < ixBus o)) 16, rzb o 17 7 1, rg (decide (4096 < ixWrite o)) 18, rg (decide (4096 < ixRead o)) 20, rz o 22 6,
     rg (o.field 32 8 % 64 != 0) 32, rg (o.field 40 4 % 64 != 0) 40]
  body := i2cBody

def execMgtI2cXfer (q : Nat) (s : State) : Host.Outcome State Fault Refusal := unit 64 q s (order specMgtI2cXfer q [])

/-- The address byte of a transfer, for writing or reading. -/
def i2cAddr (o : Ord) (read : Bool) : Nat := 2 * bits (o.field 17 1) 0 7 + b2n read

def i2cByte (v : Nat) : I2cItem := .byte (BitVec.ofNat 8 v)

/-- The bus is free: the transfer sends START and the address, with write unless it only reads (R516). -/
def i2cStart (b : Nat) (s : State) : State :=
  let x := s.i2c b
  match x.ord with
  | some o =>
    if x.started then s
    else (s.setI2c b { x with started := true }).emit (.i2c b [.start, i2cByte (i2cAddr o (ixWrite o == 0 && ixRead o != 0))])
  | none => s

def execI2cTransferStart (bus : Nat) (s : State) : Host.Outcome State Fault Refusal := unit 5 bus s (i2cStart bus)

/-- What a complete transfer sends after its first address: the write bytes, the read address after a repeated START, the ACKs of the
bytes read with the NACK of the last, the STOP (R516). -/
def i2cRest (o : Ord) : List I2cItem :=
  (o.data 64 (ixWrite o)).map .byte ++ (if ixWrite o ≠ 0 ∧ ixRead o ≠ 0 then [.again, i2cByte (i2cAddr o true)] else [])
    ++ (if ixRead o = 0 then [] else List.replicate (ixRead o - 1) .ack ++ [.nack]) ++ [.stop]

/-- The transfer of a bus ends without success. -/
def State.i2cFail (s : State) (b item : Nat) (cause : Nat) : State :=
  match (s.i2c b).ord with
  | some o => (s.setI2c b I2cBus.reset).finish o stLink item (openCause cause)
  | none => s

/-- Arbitration is lost (R517), `n` bytes and other items after the first address. The layout of the log entry's value is not stated (log
entry 19). -/
def i2cLost (b n : Nat) (s : State) : State :=
  let x := s.i2c b
  match x.ord with
  | some o =>
    if !x.started then s
    else
      let sent := (i2cRest o).dropLast.take n
      let s := if sent.isEmpty then s else s.emit (.i2c b sent)
      let s := (s.bump F.MGT_I2C_CFG_LOST_ARB).logCause 0x110 (Config.openDetail (0x10000 + 128 * b + bits (o.field 17 1) 0 7)) o.allot
      if x.retries < s.get F.MGT_RETRY_COUNT then s.setI2c b { x with started := false, retries := x.retries + 1 }
      else s.i2cFail b 0 0xCC
  | none => s

def execLostArb (bus sent : Nat) (s : State) : Host.Outcome State Fault Refusal := unit 5 bus s (i2cLost bus sent)

/-- An address is not acknowledged (R518): the first, or (`again`, of a transfer that writes and reads) the one after the repeated START, the
write bytes being sent; a STOP ends the transfer (R516). -/
def i2cNackAddr (b : Nat) (again : Bool) (s : State) : State :=
  let x := s.i2c b
  match x.ord with
  | some o =>
    if !x.started then s
    else
      let sent := if again && ixWrite o != 0 && ixRead o != 0 then (i2cRest o).take (ixWrite o + 2) else []
      (s.emit (.i2c b (sent ++ [.stop]))).i2cFail b 0 0xCA
  | none => s

def execNackAddr (bus : Nat) (again : Bool) (s : State) : Host.Outcome State Fault Refusal := unit 5 bus s (i2cNackAddr bus again)

/-- Write byte `n` is not acknowledged: the bytes up to it have been sent, and the STOP. -/
def i2cNack (b n : Nat) (s : State) : State :=
  let x := s.i2c b
  match x.ord with
  | some o => if x.started && decide (n < ixWrite o) then (s.emit (.i2c b ((o.data 64 (n + 1)).map .byte ++ [.stop]))).i2cFail b n 0xCB else s
  | none => s

def execNackData (bus n : Nat) (s : State) : Host.Outcome State Fault Refusal := unit 5 bus s (i2cNack bus n)

/-- A 25 ms timer expires; an awaited edge in the same cycle wins, and the tally carries MARGIN0. -/
def i2cStuck (b : Nat) (tie : Bool) (s : State) : State :=
  match (s.i2c b).ord with
  | some o =>
    if tie then s.tieOrders [o]
    else s.i2cFail b 0 0xCD
  | none => s

def execBusStuck (bus : Nat) (tie : Bool) (s : State) : Host.Outcome State Fault Refusal := unit 5 bus s (i2cStuck bus tie)

/-- The STOP of a complete transfer: the write bytes have been sent, the read bytes stand in the reply. -/
def i2cEnd (b : Nat) (data : Bytes) (s : State) : State :=
  let x := s.i2c b
  match x.ord with
  | some o =>
    if !x.started then s
    else
      let s := ((s.setI2c b I2cBus.reset).took o).emit (.i2c b (i2cRest o))
      let s := if ixRead o = 0 then s else s.reply o (o.field 32 8) (slice data 0 (ixRead o))
      s.done o (ixWrite o + ixRead o) x.retries
  | none => s

def execI2cTransferEnd (bus : Nat) (data : Bytes) (s : State) : Host.Outcome State Fault Refusal := unit 5 bus s (i2cEnd bus data)

/-- MGT_CCI(k) (R520). -/
def writeCci (fn k v : Nat) (s : State) : State :=
  let off := 0x128010 + 4 * k
  let owner := bits v 3 5
  if fn ≠ 0 then s
  else if (s.i2c (k + 1)).ord.isSome || s.waiting.any (fun o => o.op == 0x0A01 && ixBus o == k + 1) then s.logCause 0x100 off
  else if bits v 1 2 = 3 ∨ (15 < owner ∧ owner ≠ 31) then s.logCause 0x102 (off + 2 ^ 32 * (v % 2 ^ 32))
  else ((s.put (F.MGT_CCI_ENABLE k) (bits v 0 1)).put (F.MGT_CCI_SPEED k) (bits v 1 2)).put (F.MGT_CCI_OWNER k) owner

def execMgtCci (fn k v : Nat) (s : State) : Host.Outcome State Fault Refusal :=
  if k < 4 then unit 32 fn s (fun s => if s.isReady then writeCci fn k v s else s) else .fault .noSuchUnit

/-! ## The SMBus target (R521 to R523) -/

/-- The target answers: fuse load has ended (R521). -/
def State.smbAnswers (s : State) : Bool := decide (s.get F.PWR_STATUS_PHASE ≠ 0)

/-- A Block Read: byte count, bytes, and the PEC over the whole transaction. -/
def blockRead (cmd : Nat) (data : State → Bytes) (s : State) : State :=
  if s.smbAnswers then
    let a := s.get F.MGT_SMB_ADDR
    let d := toLe 1 (data s).length ++ data s
    s.emit (.smbus (d ++ toLe 1 (crc8 (toLe 1 (2 * a) ++ toLe 1 cmd ++ toLe 1 (2 * a + 1) ++ d))))
  else s

/-- 0x00 DEVICE. -/
def smbDevice (s : State) : Bytes :=
  [0x1E, 0x1C, 0x40, 0x96, 0xB0] ++ toLe 8 (s.get F.SEC_SERIAL_SERIAL)
/-- 0x01 STATUS. -/
def smbStatus (s : State) : Bytes :=
  toLe 1 (s.get F.PWR_STATUS_PHASE + 8 * s.get F.PWR_STATUS_MINIMAL + 16 * s.get F.SLU_STATUS_CHIP_CLOSED + 32 * s.get F.SLU_STATUS_ALERT)
    ++ toLe 1 (s.get F.WCK_STATE_STATE) ++ toLe 1 ((List.range 16).filter fun a => !s.isEmpty a).length ++ List.replicate 5 0
/-- 0x02 TEMPS. -/
def smbTemps (s : State) : Bytes :=
  toLe 1 (s.get F.PWR_DIE_TEMP_NORTH) ++ toLe 1 (s.get F.PWR_DIE_TEMP_SOUTH) ++ toLe 1 (s.get F.PWR_DIE_TEMP_GATEHOUSE)
    ++ (List.range 8).flatMap fun k => toLe 1 (s.get (F.HBM_STACK_TEMP k))
/-- 0x03 ALERT_CAUSE. -/
def smbAlertCause (s : State) : Bytes :=
  toLe 1 (s.get F.SLU_STATUS_CHIP_CAUSE) ++ toLe 1 s.lastSluice ++ toLe 1 (s.lastSluice / 256) ++ toLe 1 (s.lastSluice / 65536)

def execSmbDevice (s : State) : Host.Outcome State Fault Refusal := run s (blockRead 0 smbDevice)
def execSmbStatus (s : State) : Host.Outcome State Fault Refusal := run s (blockRead 1 smbStatus)
def execSmbTemps (s : State) : Host.Outcome State Fault Refusal := run s (blockRead 2 smbTemps)
def execSmbAlertCause (s : State) : Host.Outcome State Fault Refusal := run s (blockRead 3 smbAlertCause)

/-- ALERT_CLEAR: a Send Byte with its PEC; a set of ALERT in the same cycle (`tie`) wins (R8). -/
def alertClear (pec : Nat) (tie : Bool) (s : State) : State :=
  if !s.smbAnswers then s
  else if pec % 256 ≠ crc8 (toLe 1 (2 * s.get F.MGT_SMB_ADDR) ++ [0x10]) then s.bump F.MGT_SMB_PEC_ERRORS
  else s.put F.SLU_STATUS_ALERT (b2n tie)

def execAlertClear (pec : Nat) (tie : Bool) (s : State) : Host.Outcome State Fault Refusal := run s (alertClear pec tie)

/-- The Alert Response Address (R523). -/
def execAlertResponse (s : State) : Host.Outcome State Fault Refusal :=
  run s fun s => if s.smbAnswers && s.on F.SLU_STATUS_ALERT then s.emit (.smbus (toLe 1 (2 * s.get F.MGT_SMB_ADDR))) else s

/-- A clock held low for 25 ms discards the transaction: commands of this model are whole transactions, so none is held. -/
def execSmbClockTimeout (s : State) : Host.Outcome State Fault Refusal := run s fun s => s

/-! ## JTAG (R524 to R526) -/

/-- An instruction is loaded. -/
def State.jtag (s : State) (ir : Nat) : State := { s with jtagIr := ir }

def execBypass (s : State) : Host.Outcome State Fault Refusal := run s fun s => (s.jtag 1).emit (.jtag 1 0)
def execIdcode (s : State) : Host.Outcome State Fault Refusal := run s fun s => (s.jtag 0).emit (.jtag 32 0xB96409AB)

/-- The boundary register has a cell for every single-ended digital pin (R524) but those of the debug port itself: 74. Their order is not
stated (log entry 23). -/
def boundaryCells : Nat := 74

/-- The levels `pins` at the cells' pins are captured and shifted out, while the values `v` are shifted in and preloaded. -/
def execSamplePreload (pins v : Nat) (s : State) : Host.Outcome State Fault Refusal :=
  run s fun s => { s.jtag 2 with boundary := v % 2 ^ boundaryCells }.emit (.jtag boundaryCells (pins % 2 ^ boundaryCells))

/-- A pin-control instruction: refused unless PERST_N is asserted (R525). -/
def State.pinControl (s : State) (ir : Nat) : State :=
  if s.perst then s.jtag ir else ((s.put F.MGT_JTAG_REFUSED 1).jtag 1).emit (.jtag 1 0)

/-- The levels `pins` are captured and shifted out while `v`, which then drives the pins, is shifted in. -/
def execExtest (pins v : Nat) (s : State) : Host.Outcome State Fault Refusal :=
  run s fun s =>
    if s.perst then { s.pinControl 3 with boundary := v % 2 ^ boundaryCells }.emit (.jtag boundaryCells (pins % 2 ^ boundaryCells))
    else s.pinControl 3
def execHighz (s : State) : Host.Outcome State Fault Refusal := run s fun s => s.pinControl 5

end Sys2Proof.Machine
end

