-- ==== Sys2Proof/Machine/Reopen.lean ====
section
/-! DEFINITION. Reopening a sluice (R476 to R478): clearing conditions, the order, the work of its fallow turn, the
opening at the headgate. -/

namespace Sys2Proof.Machine

/-! ## Clearing conditions (Table 19-8) -/

/-- Ports named by the loaded plans of an allotment. -/
def State.portsOf (s : State) (a : Nat) : List Nat := ((s.allot a).plans.flatMap fun p => p.links.map lkPort).dedup

/-- No peer of allotment `a` is sluiced. -/
def State.peersOpen (s : State) (a : Nat) : Bool :=
  (match (s.allot a).peerSluice with
    | some t => t != s.wck.turn && t != (s.wck.turn + 2 ^ 48 - 1) % 2 ^ 48
    | none => true) && (s.portsOf a).all fun p => !s.on (F.AQD_PORT_STATE_PEER_SLUICED p)

/-- The clearing condition of a recorded doubt of allotment `a` holds. -/
def State.mayClear (s : State) (a : Nat) (c : Closed) : Bool :=
  if c.cause = cTime then s.wckState == wckLocked
  else if c.cause = cLink then (s.portsOf a).all fun p => s.apState p == apUp
  else if c.cause = 0x0C then s.peersOpen a
  else if c.cause = cOrderCrc then decide (s.get (F.DR_QSTAT_CRC_BUCKET c.queue) < s.get F.DR_CRC_LIMIT_COUNT)
  else if c.cause = cLedgerFull then decide (s.unacked a < 57344)
  else true

/-- The condition of a subject's record. -/
def State.clearable (s : State) (scope subj : Nat) : Bool :=
  match s.closedRec scope subj with
  | some c => s.mayClear (if scope = 2 then subj else (s.tileOwner subj).getD 255) c
  | none => true

def State.causeOf (s : State) (scope subj : Nat) : Nat := match s.closedRec scope subj with | some c => c.cause | none => 0

/-! ## SLUICE_REOPEN -/

def roScope (o : Ord) : Nat := o.field 16 1
def roTile (o : Ord) : Nat := o.field 17 2
def roSubject (o : Ord) : Nat := if roScope o = 1 then roTile o else o.allot

/-- The named subject is CLOSED and is the order's. -/
def State.reopenable (s : State) (o : Ord) : Bool :=
  if roScope o = 1 then
    s.tileClosed (roTile o) && (s.tileOwner (roTile o)).getD 255 == o.allot
      && !(s.reopens.any fun r => r.scope == 1 && r.subj == roTile o)
  else decide (16 ≤ o.allot) || s.sluiceOf o.allot == 1

/-- The lowest-numbered closed tile of an allotment. -/
def State.lowestClosed (s : State) (a : Nat) : Option Nat := (s.tilesOf a).find? fun t => s.tileClosed t

def specSluiceReopen : Spec where
  op := 0x0C00
  allot := 2
  permit := [6]
  changes := true
  state := fun s o =>
    let n := roScope o
    let shut := if n = 2 ∧ o.allot < 16 then s.lowestClosed o.allot else none
    [(((n == 1 && decide (roTile o < 144)) || n == 2) && !s.reopenable o, whyState 0x2B (if o.allot < 16 then s.altState o.allot else 0)),
     (shut.isSome, whyState 0xF5 (shut.getD 0)),
     ((n == 1 || n == 2) && !s.clearable n (roSubject o), whyState 0xF4 (s.causeOf n (roSubject o)))]
  fields := fun _ o =>
    [rg (roScope o == 2 && decide (16 ≤ o.allot)) 8, rg (roScope o != 1 && roScope o != 2) 16,
     (roScope o == 2 && decide (roTile o ≠ 0), resvAt 17), rg (roScope o == 1 && decide (143 < roTile o)) 17, rz o 19 9]
  body := fun s o =>
    let t := s.fallowTurn
    let s := s.addFallow t
    let s := { s with reopens := s.reopens ++ [(⟨o, roScope o, roSubject o, t, false⟩ : Reopen)] }
    if roScope o = 2 then s.put (F.SLU_ALLOT_STATE o.allot) 2 else s

def execSluiceReopen (q : Nat) (s : State) : Host.Outcome State Fault Refusal := unit 64 q s (order specSluiceReopen q [])

/-! ## The fallow turn (R477, R478) -/

/-- The reopenings of this turn. -/
def State.reopensNow (s : State) : List Reopen := s.reopens.filter fun r => r.turn == s.wck.turn

/-- A tile is zeroed for a reopening, its command stores too when `stores`; keys are kept, and with them the spent bits
of their masks (R285). -/
def State.reopenZero (s : State) (stores : Bool) (t : Nat) : State := if stores then s.blankTile t else s.zeroTile t

/-- From cycle 0 the subject's tiles are zeroed; a tile's command stores too. -/
def reopenStart (s : State) : State :=
  if s.wck.cycle ≠ 0 ∨ ¬ s.wck.isFallow then s
  else
    let l := s.reopensNow.filter fun r => !r.zeroed
    let s := l.foldl (fun s r =>
      let s := if r.scope = 1 then s.reopenZero true r.subj else (s.tilesOf r.subj).foldl (fun s t => s.reopenZero false t) s
      s.took r.ord) s
    { s with reopens := s.reopens.map fun r => if r.turn = s.wck.turn then { r with zeroed := true } else r }

def execReopenFallowStart (s : State) : Host.Outcome State Fault Refusal := run s reopenStart

/-- g = 0: a reopening whose clearing condition has lapsed ends. -/
def State.reopenTest (s : State) : State :=
  s.reopensNow.foldl (fun s r =>
    if s.clearable r.scope r.subj then s
    else
      let s := { s with reopens := s.reopens.filter fun x => x.ord.id != r.ord.id }
      let s := if r.scope = 2 then s.put (F.SLU_ALLOT_STATE r.subj) 1 else s
      s.fail r.ord (whyState 0xF4 (s.causeOf r.scope r.subj))) s

/-- An allotment's sluice opens: LOADED when a plan is loaded, else CLAIMED; its camera ports leave HOLD (Table 14-2).
SLU_ALLOT.CAUSE stays until the allotment ends. Of an EMPTY allotment there is nothing to open (Table 5-2). -/
def State.openAllot (s : State) (a : Nat) : State :=
  if s.isEmpty a then s
  else
    let s := (s.put (F.SLU_ALLOT_STATE a) 0).markOpen 2 a
    let s := (List.range 8).foldl (fun s p => if s.get (F.ING_PORT_STATE_ALLOT p) = a then s.portRelease p else s) s
    s.put (F.ALT_STATE_STATE a) (if (s.allot a).plans = [] then 1 else 2)

/-- A tile opens: every plan of its owner is unloaded, and the owner leaves SLUICED for CLAIMED (R478, Table 5-2). -/
def State.openTile (s : State) (t : Nat) : State :=
  let s := (s.setMapBit F.SLU_TILE_CLOSED_MAP t false).markOpen 1 t
  let s := { s with closed := s.closed.filter fun c => !(c.scope == 0 && c.subj / 32 == t) }
  match s.tileOwner t with
  | none => s
  | some a =>
    let s := s.unloadPlans a
    if s.held a then s.openAllot a else s

/-- g = 64 of the fallow turn: the subjects open (Table 19-3). -/
def State.reopenAll (s : State) : State :=
  (s.reopensNow.filter (·.zeroed)).foldl (fun s r =>
    let s := { s with reopens := s.reopens.filter fun x => x.ord.id != r.ord.id }
    let a := if r.scope = 2 then r.subj else (s.tileOwner r.subj).getD 255
    let s := if r.scope = 2 then s.openAllot r.subj else s.openTile r.subj
    ((s.logCause 0x111 r.scope a r.subj).done r.ord).bookTest a) s

end Sys2Proof.Machine
end

