-- ==== Sys2Proof/Machine/Guard.lean ====
section
/-! DEFINITION. The tailwater guard (Table 2-4) and the turn boundary: readiness, headgate commit, bank swap, tally flush,
rewrites, dry check, route switch; what happens with a plan between turns. -/

namespace Sys2Proof.Machine

/-- The next turn is fallow: it is listed, or the core domain stays on the lagoon clock. -/
def State.nextFallow (s : State) : Bool :=
  s.wck.fallow.contains s.nextNumber || (s.relockBoundary s.nextNumber).on F.WCK_STATE_ON_LAGOON

/-- An event of the guard at offset `g`: every core has run up to it, and turns run. -/
def guardEvent (g : Nat) (f : State → State) (s : State) : State :=
  if s.wck.running then f ((s.coresTo (s.guardCycle g)).atGuard g) else s

/-! ## g = 0 -/

/-- The allotment that a staged change concerns; 255 for the chip. -/
def Staged.allot (x : Staged) : Nat :=
  match x.change with
  | .claim a _ _ _ _ => a
  | _ => x.ord.allot

/-- Every unit that the change affects reports ready (Table 5-4), as sampled at g = 0: a granule that an earlier change of the same guard
revokes is granted again without waiting for that revocation's fence and scrub (log entry 90). A claim waits for tiles that are under self-test,
gated or closed, whose controllers are not idle and zeroed. -/
def State.unitsReady (s : State) (c : Change) : Bool :=
  match c with
  | .claim _ _ _ _ tiles => tiles.all s.tileFree
  | .rights a es => !(grantsWait s es) && s.planUse a (applyEntries (s.allot a).rights es)
  | _ => true

/-- The drain fences are confirmed (R148): granules that must be scrubbed join the scrubbers' work. -/
def State.confirmFences (s : State) : State :=
  let l := s.fences.filterMap fun x => if x.2.2 then some (x.1, x.2.1) else none
  { s with scrubs := s.scrubs ++ l, fences := [] }.noteAllRights

/-- A switch off ends in the guard of its fallow turn (R483). -/
def State.rampsDown (s : State) : State :=
  (s.ramps.filter fun r => r.stage == 3).foldl (fun s r =>
    match r.ord with
    | some o => s.done o
    | none => s) { s with ramps := s.ramps.filter fun r => r.stage != 3 }

/-- The body of a MARKER (R346): the number of the next turn, state, FALLOW_NEXT, stratum, and the time to the boundary in units of
0.125 ns. -/
def State.markerBody (s : State) (fallow : Bool) (lead : Nat) : Bytes :=
  toLe 6 s.nextNumber ++ toLe 1 (s.wckState + 8 * b2n fallow + 16 * s.stratum) ++ [0] ++ toLe 4 lead

/-- From g = 0 to the boundary, in units of 0.125 ns, rounded up. -/
def State.guardEighths (s : State) : Nat := cdiv (4096 * 8000000000) (if s.on F.WCK_STATE_ON_LAGOON then 800000000 else s.freq)

/-- One marker on every UP port, first in its next frame: that frame begins within 25.6 ns (R331, R346; where, is open: log entry
84). -/
def State.sendMarkers (s : State) (fallow : Bool) : State :=
  (List.range 12).foldl (fun (s : State) p =>
    if s.apState p = apUp then
      let lead := s.guardEighths - Config.anyNat s.free % 206
      { s with free := s.free + 1 }.sendFlits p [s.flitOn p 1 0 0 0 (s.markerBody fallow lead)]
    else s) s

/-- The core cycle since reset in which the guard of this turn opens. -/
def State.guardNow (s : State) : Nat := s.wck.now + s.guardCycle 0 - s.wck.cycle

/-- The guard opens: what was staged before this cycle is sampled (R48). `tie` says that some unit reported ready in this very cycle
(R49), as a change does that the drain fences and switches of this cycle make ready. -/
def guardOpen (tie : Bool) (s : State) : State :=
  let was := s
  let s := s.confirmFences.rampsDown
  let isReady (x : Staged) : Bool := decide (x.at_ < was.guardNow) && s.unitsReady x.change
  let tied (x : Staged) : Bool := isReady x && (tie || !was.unitsReady x.change)
  let late := s.staged.any tied
  let s := { s with staged := s.staged.map fun (x : Staged) => { x with ready := isReady x } }
  let s := if late then s.put F.WCK_STATE_MARGIN0 1 else s
  let s := if s.chipClosed then s else s.sendMarkers s.nextFallow
  let s := (List.range 16).foldl (fun s a => if s.altState a = 6 ∧ ¬ s.chipClosed then s.aqdSluice a else s) s
  s.reopenTest

def execGuardOpen (tie : Bool) (s : State) : Host.Outcome State Fault Refusal := run s (guardEvent 0 (guardOpen tie))

/-! ## g = 64 -/

/-- A key-table entry is written (R283); the default of the map is no kind of key. -/
def State.commitKey (s : State) (a key kind src dst : Nat) : State :=
  s.setAllot a { s.allot a with keys := smSet ⟨255, 0, 0⟩ (s.allot a).keys key ⟨kind, src, dst⟩ }

/-- A key-table entry becomes invalid, and its spent bits are clear (R284). -/
def State.retireKey (s : State) (a key : Nat) : State :=
  let s := s.setAllot a { s.allot a with keys := smSet ⟨255, 0, 0⟩ (s.allot a).keys key ⟨255, 0, 0⟩ }
  (s.coresOf a).foldl (fun s c => s.setCore c { s.core c with spent := (s.core c).spent.filter (· != key) }) s

/-- A session comes into force (R445). -/
def State.commitSession (s : State) (a id : Nat) (key : Bytes) : State :=
  ((s.setAllot a { s.allot a with session := some ⟨id, key, 0⟩ }).put (F.SEC_SESSION_SESSION_ID a) id).put (F.SEC_SESSION_ACTIVE a) 1

/-- One staged change commits. -/
def State.commit (s : State) (c : Change) : Except Why State :=
  match c with
  | .claim a fn party sl tiles => s.commitClaim a fn party sl tiles
  | .rights a es => s.commitRights a es
  | .turnout a root n => .ok (s.commitTurnout a root n)
  | .weight q w => .ok (if s.queueLive q then s.put (F.DR_QLOAD_WEIGHT q) w else s)
  | .sources e p port => .ok (s.commitSources e p port)
  | .keyEntry a key kind src dst => .ok (s.commitKey a key kind src dst)
  | .keyRetire a key => .ok (s.retireKey a key)
  | .session a id key => .ok (s.commitSession a id key)
  | .ingKey p slot a key act => .ok (s.commitIngKey p slot a key act)
  | .pins first l => .ok (s.commitPins first l)
  | _ => .ok s

/-- Another part of the order is still to come: an ALT_RELEASE, or a TIME_SOURCE_SET that changes the reference. -/
def State.partLeft (s : State) (o : Ord) : Bool :=
  o.op == 0x0121 || (s.fallowDue.any fun x => x.ord.id == o.id)
    || (match s.wck.relock with | some k => k.ords.any (·.id == o.id) | none => false)

/-- ITEM of a committed order's tally: ALT_CLAIM with ALLOT 0xFF names the allotment (R126); an order of several items counts
them (R104). -/
def Staged.item (x : Staged) : Nat :=
  match x.change with
  | .claim a _ _ _ _ => if x.ord.allot = 255 then a else 0
  | .rights _ es => es.length
  | .pins _ l => l.length
  | _ => 0

/-- Its deadline turn has come with this guard. -/
def Staged.late (x : Staged) (s : State) : Bool :=
  x.ord.op != 0x0121 && (x.ord.deadline == s.wck.turn || turnPassed s x.ord.deadline)

/-- Its deadline turn has passed before this guard (R47): no change commits after it. -/
def Staged.past (x : Staged) (s : State) : Bool := x.ord.op != 0x0121 && turnPassed s x.ord.deadline

/-- One staged change at the commit: `held` are the allotments with an earlier change that stays staged (R150). A TIME_SOURCE_SET whose
staged part ends TIMEOUT still changes the PLL reference in its fallow turn, with no further tally (DESIGN CHOICE, log entry 106). -/
def commitOne (r : List Nat × State) (x : Staged) : List Nat × State :=
  let (held, s) := r
  let gone (s : State) : State := { s with staged := s.staged.filter fun y => !(y.ord.id == x.ord.id && decide (y.change = x.change)) }
  if x.ready && !x.past s && !held.contains x.allot then
    match s.commit x.change with
    | .ok t => (held, if t.partLeft x.ord then gone t else (gone t).done x.ord x.item)
    | .error w => (held, (gone s).fail x.ord w)
  else if x.late s then (held, (gone s).finish x.ord stTimeout 0 openTimeout)
  else (if x.allot < 16 then held ++ [x.allot] else held, s)

/-- The water rights tables of the chip. -/
def State.allRights (s : State) : List (List (Nat × Nat × Nat)) := (List.range 16).map fun a => (s.allot a).rights

/-- Headgate commit: every ready change, then the reopenings of this turn. -/
def headgate (s : State) : State :=
  let old := s.allRights
  let s := (s.staged.foldl commitOne ([], s)).2
  let s := if s.allRights = old then s else s.put F.ALT_EPOCH_EPOCH (s.get F.ALT_EPOCH_EPOCH + 1)
  s.noteAllRights.reopenAll

def execHeadgateCommit (s : State) : Host.Outcome State Fault Refusal := run s (guardEvent 64 headgate)

/-! ## g = 1,024 -/

/-- The final tally of the SCHED_ARM that started the plan (R139, R220). -/
def State.endRun (s : State) (a : Nat) (o : Ord) : State :=
  let x := s.allot a
  match x.partialPoison with
  | some p => s.finish o stEcc (x.executed % 2 ^ 32) (planDetail 0x70 p.1 p.2)
  | none => s.done o (x.executed % 2 ^ 32)

/-- Landing slots that a plan declares in a logical core (Table 7-5), none valid. -/
def Plan.slotsOf (p : Plan) (c : Nat) : SMap Slot :=
  (recs 16 (p.sec 2)).foldl (fun m r =>
    if bits (fieldAt r 0 2) 0 13 = c then
      smSet Slot.reset m (bits (fieldAt r 2 1) 0 6)
        { Slot.reset with declared := true, kind := bits (fieldAt r 2 1) 6 2, base := bits (fieldAt r 4 4) 0 17, len := fieldAt r 8 4 }
    else m) []

/-- A core at the swap that starts a plan: registers 0, loops empty, accumulators and slots as at an arm (R77, R163, R226). -/
def State.freshCore (s : State) (a c : Nat) (p : Plan) : State :=
  let x := s.core c
  (s.setCore c { x with
    s := [], a := [], z := [], k := [], p := [], parity := [], late := [], loops := [], cursor := 0, win := Window.reset, runs := [], writes := [], old := []
    slots := p.slotsOf (s.logCore a c) }).resetAcc c

/-- The standby bank of a core becomes the active one, and the former is invalid (R181). -/
def State.swapBank (s : State) (c : Nat) : State :=
  let b := s.get (F.TIL_CORE_STATE_ACTIVE_BANK c)
  let x := s.core c
  let s := s.setCore c (if b = 0 then { x with bank0 := [] } else { x with bank1 := [] })
  (s.put (F.TIL_CORE_STATE_ACTIVE_BANK c) (1 - b)).put (F.TIL_CORE_STATE_STANDBY_VALID c) 0

/-- The standby plan leaves its banks, which are invalid (R180). -/
def State.dropStandby (s : State) (a : Nat) : State :=
  let s := s.setAllot a { s.allot a with standby := none }
  (s.coresOf a).foldl (fun s c =>
    let x := s.core c
    let s := s.setCore c (if s.on (F.TIL_CORE_STATE_ACTIVE_BANK c) then { x with bank0 := [] } else { x with bank1 := [] })
    s.put (F.TIL_CORE_STATE_STANDBY_VALID c) 0) s

/-- The armed plan does not start (Table 5-2): its SCHED_ARM ends DONE with ITEM 0. -/
def State.disarm (s : State) (a : Nat) : State :=
  let x := s.allot a
  match x.armed with
  | none => s
  | some m => (s.setAllot a { x with armed := none }).done m.ord

/-- An armed standby plan behind a running one is discarded (R139). -/
def State.dropArmed (s : State) (a : Nat) : State :=
  if (s.allot a).armed.isSome then (s.disarm a).dropStandby a else s

/-- Pending SCHED_STOPs end. -/
def State.endStops (s : State) (a : Nat) : State :=
  let x := s.allot a
  x.stops.foldl (fun s m => s.done m.1) (s.setAllot a { x with stops := [] })

/-- A stop takes effect before the armed plan's start turn. -/
def Allot.stopsFirst (x : Allot) (m : Armed) (next : Nat) : Bool :=
  x.stops.any fun y => match turnsAhead next y.2, turnsAhead next m.t0 with
    | none, _ => true
    | some i, some j => decide (i < j)
    | some _, none => false

/-- The swap of one allotment whose armed plan starts with the next turn. -/
def State.swapAllot (s : State) (a : Nat) : State :=
  let x := s.allot a
  match x.armed with
  | none => s
  | some m =>
    if 0 < (turnsAhead s.nextNumber m.t0).getD 0 then s
    else if x.stopsFirst m s.nextNumber then
      if s.altState a = 3 then ((s.disarm a).endStops a).put (F.ALT_STATE_STATE a) 2 else s.dropArmed a
    else
      let s := match x.runOrd with
        | some o => s.endRun a o
        | none => s
      let cores := s.coresOf a
      let s := if x.standby.isSome then cores.foldl (fun s c => s.swapBank c) s else s
      let y := s.allot a
      let act := if x.standby.isSome then x.standby else x.active
      let s := s.setAllot a { y with
        active := act, standby := none, armed := none, runOrd := some m.ord, executed := 0, partialPoison := none, txs := [] }
      let s := match act with
        | some p => cores.foldl (fun (s : State) c => s.freshCore a c p) s
        | none => s
      s.put (F.ALT_STATE_STATE a) 4

/-- The cursors of every core that will run return to entry 0, their windows are empty, and the prefetch begins (R177). -/
def State.rewind (s : State) (fallow : Bool) : State :=
  (List.range 16).foldl (fun s a => match s.comesNext fallow a with
    | some j => (s.coresOf a).foldl (fun s c => (s.setCore c { s.core c with
        cursor := 0, loops := [], win := { Window.reset with turn := j, at_ := s.wck.cycle + 1, busy := true } }).noteWindow c) s
    | none => s) s

def bankSwap (s : State) : State :=
  let s := (List.range 16).foldl (fun s a => if s.altState a = 3 ∨ s.altState a = 4 then s.swapAllot a else s) s
  s.rewind s.nextFallow

def execBankSwap (s : State) : Host.Outcome State Fault Refusal := run s (guardEvent 1024 bankSwap)

/-! ## g = 2,048: the tally flush (R98, R99, R471) -/

/-- A queue's tallies can be written: queue 0 while enabled or draining, another while its ring is known. -/
def State.mayFlush (s : State) (q : Nat) : Bool :=
  s.queueLive q || s.get (F.DR_QSTAT_STATE q) == 3 || (s.queue q).closing

/-- Slots of a tally ring that are free. -/
def State.ringRoom (s : State) (q : Nat) : Nat :=
  let x := s.queue q
  2 ^ s.get (F.DR_QSIZE_TALLY_LOG2 q) - (x.written + 2 ^ 32 - x.tallyHead % 2 ^ 32) % 2 ^ 32

/-- Write one tally into its ring: PHASE 1 on the first pass, then alternating (R98). -/
def State.flushOne (s : State) (q : Nat) : State :=
  let x := s.queue q
  match x.out with
  | [] => s
  | t :: r =>
    let size := 2 ^ s.get (F.DR_QSIZE_TALLY_LOG2 q)
    let s := s.emit (.hostWrite (s.fnOf q) (s.get (F.DR_TBASE_BASE q) * 64 + 32 * (x.written % size))
      (t.encode q (1 - x.written / size % 2)) false)
    s.setQueue q { x with out := r, written := x.written + 1 }

/-- Flush one queue: what finds its ring full is held (R99); its vector is raised once when it received a tally. -/
def State.flushQueue (s : State) (q : Nat) : State :=
  if !s.mayFlush q then s
  else if (s.queue q).out = [] then s.reapQueue q
  else
    let x := s.queue q
    let due := s.dueTallies q
    let n := min due.1.length (s.ringRoom q)
    let s := s.setQueue q { x with out := due.1 ++ due.2, before := x.before - n }
    let s := (List.range n).foldl (fun s _ => s.flushOne q) s
    let s := if 0 < n then s.emit (.msix (s.fnOf q) (s.get (F.DR_QSIZE_VECTOR q))) else s
    (s.put (F.DR_QLOAD_HELD q) (min 256 (s.queue q).out.length)).reapQueue q

/-- ACCEPTED tallies (R104): one for each order with RSP_ALWAYS that meets its first flush without a final status. -/
def State.noteAccepted (s : State) : State :=
  let l := s.inflight.filter fun o => !o.acc
  l.foldl (fun s o => if o.rspAlways then s.pushTally o.q (o.tally stAccepted 0 0 false false) else s)
    { s with inflight := s.inflight.map fun o => { o with acc := true } }

/-- The flush of every queue, then the delivery interrupts. -/
def State.flushAll (s : State) : State :=
  let s := (List.range 64).foldl State.flushQueue s.noteAccepted
  (List.range 16).foldl (fun s a =>
    if (s.allot a).ledgerDue then
      (s.emit (.msix (s.get (F.ALT_STATE_FUNCTION a)) (s.get (F.SLU_LEDGER_CFG_VECTOR a)))).setAllot a { s.allot a with ledgerDue := false }
    else s) s

/-- Under a chip sluice the flush of R460 takes the place of this one. -/
def execTallyFlush (s : State) : Host.Outcome State Fault Refusal :=
  run s (guardEvent 2048 fun s => if s.chipClosed || s.on F.SLU_STATUS_WALKER_HALT then s else s.flushAll)

/-- While the chip is closed: every 65,536 lagoon cycles from the detection cycle (R460), at the instant nearest the present one. -/
def chipFlush (s : State) : State :=
  if !s.chipClosed || s.on F.SLU_STATUS_WALKER_HALT then s
  else
    let at_ := s.chipSince + 65536 * max 1 ((s.wck.lagoon - s.chipSince + 32768) / 65536)
    s.atLagoon at_ fun s => { s with chipSince := at_ }.flushAll

def execChipSluiceFlush (s : State) : Host.Outcome State Fault Refusal := run s chipFlush

/-! ## After the flush: rewrites (R182, R217) -/

/-- A word that still holds a correctable error is encoded anew. -/
def State.rewriteLine (s : State) (c l : Nat) : State :=
  (List.range 32).foldl (fun s b =>
    let x := s.core c
    let w := (x.line l).getD b 0
    match decodeWord w with
    | (d, .correctable) => (s.setCore c (x.setLine l ((x.line l).set b (encodeWord d)))).bumpSpm F.SPM_SCRUB_REWRITTEN c 3
    | _ => s) s

def cleanEntry (l : List Entry) (i : Nat) : List Entry :=
  match l[i]? with
  | some e => if e.ecc = .correctable then l.set i { e with ecc := .clean } else l
  | none => l

/-- One core rewrites its recorded lines and store entries. -/
def State.rewriteCore (s : State) (c : Nat) : State :=
  let x := s.core c
  let s := x.rewrite.foldl (fun s l => s.rewriteLine c l) s
  let y := s.core c
  s.setCore c { y with
    bank0 := (x.rewriteStore.filter (· < 2048)).foldl cleanEntry y.bank0
    bank1 := ((x.rewriteStore.filter (2048 ≤ ·)).map (· - 2048)).foldl cleanEntry y.bank1
    rewrite := [], rewriteStore := [] }

def guardRewrite (s : State) : State := (s.cores.map (·.1)).foldl State.rewriteCore s

def execSpmGuardRewrite (s : State) : Host.Outcome State Fault Refusal := run s (guardEvent 3072 guardRewrite)

/-! ## g = 4,095 -/

def execDryCheck (s : State) : Host.Outcome State Fault Refusal := run s (guardEvent 4095 State.dryCheck)

def execRouteSwitch (s : State) : Host.Outcome State Fault Refusal :=
  run s (guardEvent 4095 fun s => s.switchRoutes s.nextFallow)

/-! ## The turn boundary -/

/-- A transfer that a turn's end finds in flight: its service began before the turn that begins (R329). -/
def Slot.nextTurn (z : Slot) (n : Nat) : Slot := { z with flying := z.flying.map fun tr => { tr with sigma := tr.sigma - n / 16 } }

/-- What the cores keep of a turn ends with it: register writes become visible, engines are free. A write still to be made, as of
a line in transit (R329), is made in its cycle of the next turn; what a write of the last cycle replaced is read once more in the next
turn's first (R209). -/
def State.endCores (s : State) : State :=
  let n := s.turnLength
  { s with cores := s.cores.filterMap fun c =>
      let x := c.2.visible (2 ^ 40)
      let y := { x with
        slots := x.slots.map fun z => (z.1, z.2.nextTurn n)
        busy := [], runs := [], clashed := none, macroEnd := 0, win := { x.win with at_ := 0 }
        old := (x.old.filter fun o => o.last == n).map fun o => { o with last := 0 }
        writes := (x.writes.filter fun w => decide (n ≤ w.at_)).map fun w => { w with at_ := w.at_ - n } }
      if y = Core.reset then none else some (c.1, y) }

/-- RUNNING of every core reads 0: no command has issued in the turn that begins. -/
def State.clearRunning (s : State) : State :=
  ((List.range 4608).filter fun c => s.on (F.TIL_CORE_STATE_RUNNING c)).foldl (fun s c => s.put (F.TIL_CORE_STATE_RUNNING c) 0) s

/-- The phase trim of a turn (R44): how far it moves is not stated; its limits are (log entry 3). -/
def State.trim (s : State) : State :=
  if s.wckState = wckAcquire ∨ s.wckState = wckLocked then
    let d : Int := (1000 * s.get F.WCK_SLEW_MAX_PPB / max 1 (s.get F.WCK_TURN_RATE_RATE) : Nat)
    let v := signed 32 (s.get F.WCK_PHASE_FREQ_OFS) + (Config.anyNat s.free : Int) % (2 * d + 1) - d
    { s with free := s.free + 1 }.put F.WCK_PHASE_FREQ_OFS (unsigned 32 (max (-150000000) (min 150000000 v)))
  else s

/-- HOLDOVER's timer in whole seconds, and its estimate in nanoseconds, rounded as left open (R59, log entry 3). -/
def State.holdEstimate (s : State) : State :=
  if s.wckState ≠ wckHoldover then s
  else
    let e := s.holdError / (2 * 10 ^ 27) + Config.anyNat s.free % 2
    ({ s with free := s.free + 1 }.put F.WCK_HOLDOVER_ELAPSED (min (2 ^ 17 - 1) (s.holdTime / 1000000000))).put
      F.WCK_HOLDOVER_TERR_EST (min (2 ^ 32 - 1) e)

/-- PEER_FALLOW is logged for every UP port whose peer is fallow in the turn that begins (R349). -/
def State.notePeers (s : State) : State :=
  if s.wck.isFallow then s
  else (List.range 12).foldl (fun s p =>
    if s.apState p = apUp ∧ s.on (F.AQD_PORT_STATE_PEER_FALLOW_NEXT p) = true then s.logCause 0x10F p 255 p else s) s

/-- A plan at a boundary, in the turn that begins (R63, R139). A SCHED_STOP takes effect as its last turn ends. -/
def State.planBoundary (s : State) (a : Nat) : State :=
  let s := if (s.allot a).flumes = [] then s else s.setAllot a { s.allot a with flumes := [] }
  let x := s.allot a
  let stopped := x.stops.any fun m => turnPassed s m.2
  if s.altState a = 3 then
    if stopped then ((s.disarm a).endStops a).put (F.ALT_STATE_STATE a) 2 else s
  else if s.altState a = 4 then
    match x.active with
    | none => s
    | some p =>
      if stopped || (!p.repeat_ && decide (p.l ≤ x.executed)) then
        let s := x.stops.foldl (fun s m => if turnPassed s m.2 then s.took m.1 else s) s
        (s.dropArmed a).put (F.ALT_STATE_STATE a) 5
      else if s.wck.isFallow then s
      else s.setAllot a { x with
        executed := x.executed + 1, planTurn := if x.executed = 0 then 0 else (x.planTurn + 1) % max 1 p.l, txs := [] }
  else s

/-- Carry the clock over the boundary: cycle 0 of the next turn. -/
def State.crossBoundary (s : State) : State :=
  let s := (s.advanceTo (s.turnLength - 1)).addCycles 1
  { s with wck := { s.wck with cycle := 0, turn := s.nextNumber }, prevLength := s.turnLength, prevHz := s.coreHz
           prevTurn := s.wck.turn }

/-- Limit registers written in the turn take effect (R61). -/
def State.applyLimits (s : State) : State :=
  { s.wck.limits.foldl (fun s x => if limitReg x.1 then s.setReg x.1 (BitVec.ofNat 64 x.2) else s) s with
    wck := { s.wck with limits := [] } }

/-- The turn that begins is fallow, or not; turns behind it leave the list. -/
def State.enterTurn (s : State) : State :=
  let f := s.wck.fallow.contains s.wck.turn || s.on F.WCK_STATE_ON_LAGOON
  { s with
    wck := { s.wck with isFallow := f, fallow := s.wck.fallow.filter fun t => t != s.wck.turn && !(turnPassed s t) }
    early := [], linkSlots := 0, corrLogged := []
    strobes := (List.range 2).foldl (fun m i => smSet 0 m i (s.reg (F.GPIO_STROBE_OFFSET i).reg).toNat) [] }

/-- Turn t ends and turn t + 1 begins (R40). -/
def turnBoundary (s : State) : State :=
  if !s.wck.running then s
  else
    let s := (s.coresTo s.turnLength).endCores.clearRunning
    let s := (List.range 16).foldl (fun s e => s.put (F.FLU_ENGINE_BUSY e) 0) s
    let s := (s.advanceTo (s.turnLength - 1)).appendBooks
    let s := s.crossBoundary.applyLimits
    let s := (s.relockBoundary s.wck.turn).enterTurn
    let s := (s.holdEstimate).trim.notePeers
    (List.range 16).foldl State.planBoundary s

def execTurnBoundary (s : State) : Host.Outcome State Fault Refusal := run s turnBoundary

end Sys2Proof.Machine
end

