-- ==== Sys2Proof/Machine/Image.lean ====
section
/-! DEFINITION. Plan images (chapter 7): header and directory, sections, landing slots, apertures, deliveries; the failures
of a load and the rank that decides among them (R198). -/

namespace Sys2Proof.Machine

/-! ## Failures of a load (R75, R198) -/

/-- A failed check: status, cause, DETAIL [31:0], core, what ranks it (an Acnik index, or 2^32 for a plan-level or
record-level cause), and the allotment address of a walk fault. -/
structure Flaw where
  status : Nat
  cause : Nat
  value : Nat
  core : Nat
  key : Nat
  walk : Nat
  deriving DecidableEq, Repr

/-- A plan-level cause. -/
def planFlaw (status cause : Nat) (core : Nat := 0xFFFF) : Flaw := ⟨status, cause, 0xFFFFFFFF, core, 2 ^ 32, 0⟩
/-- A cause raised by a record alone: its position in the section (R317, R345). -/
def recFlaw (status cause pos : Nat) : Flaw := ⟨status, cause, pos, 0xFFFF, 2 ^ 32, 0⟩
/-- A cause of one command. -/
def cmdFlaw (status cause idx core : Nat) : Flaw := ⟨status, cause, idx, core, idx, 0⟩

/-- The rank of a status (R198). -/
def Flaw.rank (f : Flaw) : Nat := ([stEcc, stBadLength, stState, stBadField, stQuota, stWalk].findIdx? (· == f.status)).getD 6

/-- `f` decides before `g`: status, then index, then cause code. -/
def Flaw.before (f g : Flaw) : Bool :=
  decide (f.rank < g.rank) || (f.rank == g.rank &&
    (decide (f.key < g.key) || (f.key == g.key && (decide (f.cause < g.cause) || (f.cause == g.cause && decide (f.value < g.value))))))

/-- The failure that decides. -/
def firstFlaw : List Flaw → Option Flaw
  | [] => none
  | f :: r => match firstFlaw r with
    | some g => if g.before f then some g else some f
    | none => some f

def Flaw.detail (f : Flaw) : Nat := planDetail f.cause f.value f.core

/-- A list of one failure, when a test fails. -/
def flawIf (b : Bool) (f : Flaw) : List Flaw := if b then [f] else []

/-! ## Header and directory (Tables 7-2, 7-4) -/

def imSections (b : Bytes) : Nat := fieldAt b 18 1
def imTiles (b : Bytes) : Nat := fieldAt b 16 2
def imGeo (b : Bytes) : Nat := bits (fieldAt b 7 1) 2 1
def imMap (b : Bytes) : Nat := fieldAt b 32 18

/-- The directory entries in use: type, offset, length, count. -/
def imEntries (b : Bytes) : List (Nat × Nat × Nat × Nat) :=
  (List.range (min 8 (imSections b))).map fun e =>
    let o := 64 + 16 * e
    (fieldAt b o 1, fieldAt b (o + 4) 4, fieldAt b (o + 8) 4, fieldAt b (o + 12) 4)

/-- Record size of a section type; 0 for an unknown type. -/
def recSize (ty : Nat) : Nat := [0, 20, 16, 16, 32, 64, 32, 32].getD ty 0

/-- A section in form: aligned, inside the image, long enough for its records. -/
def secReadable (len : Nat) (x : Nat × Nat × Nat × Nat) : Bool :=
  decide (0 < recSize x.1) && x.2.1 % 64 == 0 && decide (192 ≤ x.2.1) && x.2.2.1 % 64 == 0 && decide (x.2.1 + x.2.2.1 ≤ len)
    && decide (x.2.2.2 * recSize x.1 ≤ x.2.2.1)

/-- Sections as the checks read them: type, records, their bytes; the first of each type, and of its records those that lie whole in
the section and in the image (R198: what an unsound section holds is checked too). -/
def imSecs (b : Bytes) : List (Nat × Nat × Bytes) :=
  let l := (imEntries b).zipIdx
  l.filterMap fun x =>
    let e := x.1
    let size := recSize e.1
    if 0 < size ∧ !(l.any fun y => decide (y.2 < x.2) && y.1.1 == e.1) then
      let n := min e.2.2.2 (min e.2.2.1 (b.length - e.2.1) / size)
      some (e.1, n, slice b e.2.1 (n * size))
    else none

/-- Two ranges meet. -/
def meets (a n b m : Nat) : Bool := decide (0 < n) && decide (0 < m) && decide (a < b + m) && decide (b < a + n)

/-- IMAGE_FORMAT of the header and directory (R190, R191). -/
def headerBad (b : Bytes) : Bool :=
  let es := imEntries b
  let l := es.zipIdx
  fieldAt b 0 4 != 0x4B4E4341 || fieldAt b 4 2 != 1 || bits (fieldAt b 7 1) 3 5 != 0 || fieldAt b 8 2 == 0 || fieldAt b 10 2 != 0
    || decide (imTiles b < 1) || decide (144 < imTiles b) || decide (imSections b < 1) || decide (8 < imSections b)
    || fieldAt b 19 1 != 0 || fieldAt b 20 4 == 0 || decide (0x03333333 < fieldAt b 20 4) || fieldAt b 28 4 != 0
    || (imGeo b == 1 && imMap b != 0) || fieldAt b 50 14 != 0
    || fieldAt b (64 + 16 * min 8 (imSections b)) (128 - 16 * min 8 (imSections b)) != 0
    || !(es.any fun x => x.1 == 1)
    || l.any fun x =>
      let e := x.1
      recSize e.1 == 0 || l.any (fun y => decide (y.2 < x.2) && y.1.1 == e.1) || fieldAt b (65 + 16 * x.2) 3 != 0
        || e.2.1 % 64 != 0 || decide (e.2.1 < 192) || e.2.2.1 % 64 != 0
        || (secReadable b.length e && (slice b (e.2.1 + e.2.2.2 * recSize e.1) (e.2.2.1 - e.2.2.2 * recSize e.1)).any (· != 0))
        || l.any fun y => decide (y.2 < x.2) && meets e.2.1 e.2.2.1 y.1.2.1 y.1.2.2.1

/-- IMAGE_LENGTH. -/
def lengthBad (b : Bytes) : Bool :=
  fieldAt b 24 4 != b.length || (imEntries b).any fun e =>
    decide (b.length < e.2.1 + e.2.2.1) || decide (e.2.2.1 < e.2.2.2 * recSize e.1) || (e.1 == 1 && e.2.2.2 != fieldAt b 20 4)

/-- The plan that an image spells, its walks aside. -/
def planOf (b : Bytes) : Plan where
  meas := sha384 b
  l := fieldAt b 8 2
  repeat_ := bit (fieldAt b 7 1) 0
  cls := bits (fieldAt b 7 1) 1 1
  geo := imGeo b
  profile := fieldAt b 6 1
  nplan := fieldAt b 12 4
  tiles := imTiles b
  secs := imSecs b
  uses := []
  pages := []
  mods := []

/-! ## What a load is checked against -/

/-- A load: the state at its start with the rights of its grant, the allotment, the turnout table of the grant, the plan,
N_turn, the tile map of the header, and the Acnik commands. -/
structure Tr where
  s : State
  a : Nat
  root : Nat
  levels : Nat
  p : Plan
  n : Nat
  map : Nat
  cmds : List Nat

/-- The last cycle by which everything lands: N_turn − 4,096. -/
def Tr.lim (t : Tr) : Nat := t.n - 4096

/-- A walk of the load; `b` is the permission it needs. -/
def Tr.walk (t : Tr) (addr : Nat) (b : Option Nat) : Except Nat Nat :=
  t.s.walk t.a t.root t.levels addr fun v => match b with | some k => bit v k | none => true

/-- The physical pieces of a range, or its first fault: address and cause. -/
def Tr.pieces (t : Tr) (b : Nat) : List (Nat × Nat × Nat) → Except (Nat × Nat) (List (Nat × Nat × Nat))
  | [] => .ok []
  | (lo, off, len) :: r =>
    match t.walk lo (some b) with
    | .error c => .error (lo, c)
    | .ok q => match t.pieces b r with
      | .error e => .error e
      | .ok l => .ok ((q, off, len) :: l)

/-- Physical core number of a logical core; 0xFFFF outside the plan. -/
def Tr.phy (t : Tr) (c : Nat) : Nat :=
  if c / 32 < (t.s.tilesOf t.a).length then t.s.phyCore t.a c else 0xFFFF

/-! ## SLOTS and APERTURES -/

def slCore (r : Bytes) : Nat := bits (fieldAt r 0 2) 0 13
def slSlot (r : Bytes) : Nat := bits (fieldAt r 2 1) 0 6
def slKind (r : Bytes) : Nat := bits (fieldAt r 2 1) 6 2
def slBase (r : Bytes) : Nat := bits (fieldAt r 4 4) 0 17
def slLen (r : Bytes) : Nat := fieldAt r 8 4
def Plan.slots (p : Plan) : List Bytes := recs 16 (p.sec 2)

/-- A bad SLOTS record (Table 7-5). -/
def slotBad (tiles : Nat) (r : Bytes) : Bool :=
  bits (fieldAt r 0 2) 13 3 != 0 || fieldAt r 3 1 != 0 || bits (fieldAt r 4 4) 17 15 != 0 || fieldAt r 12 4 != 0
    || decide (32 * tiles ≤ slCore r) || slBase r % 128 != 0 || slLen r % 128 != 0 || decide (slLen r < 128)
    || decide (131072 < slBase r + slLen r)

/-- The declaration of a slot in a logical core. -/
def Plan.slotOf (p : Plan) (c n : Nat) : Option Bytes := p.slots.find? fun r => slCore r == c && slSlot r == n

def Plan.apertures (p : Plan) : List Bytes := recs 16 (p.sec 3)
def Plan.apLen (p : Plan) (k : Nat) : Nat := fieldAt (p.apertures.getD k []) 8 8

def Tr.slotFlaws (t : Tr) : List Flaw :=
  let l := t.p.slots
  let keys := l.map fun r => (slCore r, slSlot r)
  let cores := (l.map slCore).dedup
  flawIf (l.any (slotBad t.p.tiles) || !keys.Nodup || decide (16 < t.p.apertures.length)
      || t.p.apertures.any fun r => fieldAt r 0 8 % 4096 != 0 || fieldAt r 8 8 % 4096 != 0) (planFlaw stBadField 0x60)
    ++ cores.flatMap fun c => flawIf (decide (64 < (l.filter fun r => slCore r == c).length)) (planFlaw stBadField 0x48 (t.phy c))

/-! ## DELIVERIES (Table 3-5) -/

def Plan.deliveries (p : Plan) : List Bytes := recs 32 (p.sec 4)
/-- The fields of a delivery record are in order (R90). -/
def Tr.deliveryForm (t : Tr) (r : Bytes) : Bool :=
  bits (fieldAt r 2 1) 2 6 == 0 && bits (fieldAt r 3 1) 4 4 == 0 && fieldAt r 6 2 == 0 && fieldAt r 18 2 == 0
    && decide (dvTurn r < t.p.l) && decide (dvStamp r < t.lim) && dvSrc r % 64 == 0 && dvDest r % 64 == 0
    && decide (0 < dvLen r) && dvLen r % 64 == 0 && decide (dvLen r ≤ 0x10000000)

/-- The pieces of a delivery's source, when it may be read and its seal is as declared. -/
def Tr.deliverySrc (t : Tr) (r : Bytes) : Option (List (Nat × Nat × Nat)) :=
  match t.pieces permPlanRead (pagesOf (dvSrc r) (dvLen r)) with
  | .error _ => none
  | .ok l => if l.all fun x => (match t.s.permOf t.a (x.1 / pageSize) with | some v => bit v permSealed | none => false) == dvSealed r then
      some l else none

/-- R466: the position of the 4,097th delivery stamped in the first 16 consecutive plan turns that hold more. -/
def Plan.tooMany (p : Plan) : Option Nat :=
  let l := p.deliveries.zipIdx
  let span := if p.repeat_ then 16 else min 16 p.l
  let from_ := if p.repeat_ then List.range p.l else List.range (p.l + 1 - span)
  from_.findSome? fun j =>
    let w := (List.range span).flatMap fun i => ((l.filter fun x => dvTurn x.1 == (j + i) % max 1 p.l).mergeSort fun x y => dvStamp x.1 ≤ dvStamp y.1).map (·.2)
    w[4096]?

def Tr.deliveryFlaws (t : Tr) : List Flaw :=
  let l := t.p.deliveries.zipIdx
  (l.flatMap fun x => flawIf (!t.deliveryForm x.1 || l.any (fun y => decide (y.2 < x.2) && dvId y.1 == dvId x.1)
      || (t.deliveryForm x.1 && (t.deliverySrc x.1).isNone)) (recFlaw stBadField 0x4A x.2))
    ++ (match t.p.tooMany with | some i => [recFlaw stBadField 0x4A i] | none => [])

/-! ## Plan-level checks (R67, R86, R187, R189) -/

/-- The tile map of the allotment. -/
def State.tileMap (s : State) (a : Nat) : Nat := ((s.tilesOf a).map fun t => 2 ^ t).sum

def Tr.planFlaws (t : Tr) : List Flaw :=
  let s := t.s
  flawIf (decide (1 < t.p.profile)) (planFlaw stState 0x44)
    ++ flawIf (t.p.nplan != t.n) (planFlaw stState 0x43)
    ++ flawIf (t.p.cls != s.get F.HBM_CLASS_CLASS) (planFlaw stState 0x45)
    ++ flawIf ((t.p.profile == 1 && (t.p.geo == 0 || decide (128 < t.p.tiles))) || t.p.tiles != (s.tilesOf t.a).length
        || (t.p.geo == 0 && t.map != s.tileMap t.a)) (planFlaw stState 0x62)

end Sys2Proof.Machine
end

