-- ==== Sys2Proof/Machine/Translate.lean ====
section
/-! DEFINITION. The load-time translator (chapters 6 and 7): the fields of Acnik commands, the entries they become, loops,
stamps, the issue window, and the address registers replayed over every plan turn. -/

namespace Sys2Proof.Machine

/-! ## Acnik commands (Table 7-1), as 160-bit numbers -/

def acProfile (x : Nat) : Nat := bits x 60 4
def acCore (x : Nat) : Nat := bits x 64 13
def acExt (x : Nat) : Nat := bits x 144 16
/-- The native command: header bits [58:0] and the operand word (R188). -/
def acWord (x : Nat) : Nat := bits x 0 59 + 2 ^ 64 * bits x 80 64
/-- Operand-word bits [79:77]: address bits [47:45] of a space-2 immediate (R192). -/
def acTop (x : Nat) : Nat := bits x 93 3

/-- A word with one field replaced. -/
def setField (w lo n v : Nat) : Nat := w - bits w lo n * 2 ^ lo + v % 2 ^ n * 2 ^ lo

/-- SETA or SETAZ. -/
def isSeta (w : Nat) : Bool := cmdEng w == 0 && (cmdOp w == 0x10 || cmdOp w == 0x30)

/-! ## Field checks (R194, R213, R215, R229, R230, R245, R259, R262, R264, R286, Table 7-6) -/

/-- A modulus index names a valid entry, of at least `m` as its largest transform. -/
def Tr.modOk (t : Tr) (i m : Nat) : Bool :=
  decide (i < 64) && (match (smGet Modulus.none (t.s.allot t.a).mods i) with | e => decide (e ≠ Modulus.none) && decide (m ≤ e.maxlog))

/-- Modulus indices that a command names. -/
def modsNamed (w : Nat) : List Nat :=
  let sl := cmdSlot w
  let n := match cmdEng w with
    | 2 => match cmdOp w with
      | 0x0C => 0
      | 0x10 => cmdMode w + cmdAux w
      | 0x11 => cmdAux w
      | 0x12 => cmdAux w
      | 0x14 => cmdMode w
      | _ => 1
    | 3 => if 0x20 ≤ cmdOp w ∧ (bits (cmdMode w) 0 4 = 13 ∨ bits (cmdMode w) 4 4 = 13) then 1 else 0
    | 5 => [17, 13, 11, 1, cmdMode w].getD (cmdAux w) 0
    | _ => 0
  (List.range n).map (sl + ·)

/-- A sequencer command is out of form. -/
def Tr.seqBad (t : Tr) (x : Nat) : Bool :=
  let w := acWord x
  let op := cmdOp w
  let imm := cmdImm w
  let sp := bits imm 45 3
  let lc := bits imm 17 13
  !(decide (1 ≤ op) && decide (op ≤ 0x0B) || [0x10, 0x11, 0x12, 0x13, 0x14, 0x18, 0x19, 0x1A, 0x20, 0x21, 0x30].contains op)
    || (if op = 0x20 then bit w 67 || bits w 124 4 != 0
      else (op == 0x19 && bit w 67)
        || (if isSeta w then decide (3 < sp) || (sp != 2 && acTop x != 0)
              || (sp == 1 && (bits imm 30 15 != 0 || (decide (lc < 4608) && decide (32 * t.p.tiles ≤ lc))))
            else acTop x != 0))

/-- An MXE command is out of form. -/
def mxeBad (w : Nat) : Bool :=
  let mode := cmdMode w
  let fmt := bits mode 0 3
  let k := cmdImm16 w
  match cmdOp w with
  | 0 =>
    decide (5 < fmt) || (decide (3 < fmt) && bits mode 3 2 != 0) || bits mode 5 2 == 3 || bit mode 7 || decide (1 < cmdField w 0)
      || k % [8, 4, 4, 4, 2, 2].getD fmt 1 != 0 || decide ([8192, 4096, 4096, 4096, 2048, 2048].getD fmt 0 < k)
      || (bits mode 5 2 == 2 && decide (k < [256, 128, 128, 128, 64, 64].getD fmt 0))
  | 1 =>
    let out := bits mode 0 4
    decide (2 < bits mode 5 3) || decide (12 < out) || (bits mode 5 3 != 0 && !([6, 7, 12].contains out))
  | 2 => false
  | _ => true

/-- An RNE command is out of form. -/
def Tr.rneBad (t : Tr) (x : Nat) : Bool :=
  let w := acWord x
  let op := cmdOp w
  let aux := cmdAux w
  let mode := cmdMode w
  let n := cmdImm16 w
  let all := (modsNamed w).all fun i => t.modOk i 0
  let basis := cmdInd w || decide (n < 128) || decide (16384 < n) || n != 2 ^ Nat.log2 n || !all
  if op < 5 then mode != 0 || decide (32768 < n) || !all
  else if op = 8 ∨ op = 9 then cmdInd w || decide (aux < 10) || decide (14 < aux) || !t.modOk (cmdSlot w) aux
  else if op = 10 ∨ op = 11 then
    cmdInd w || decide (aux < 15) || decide (17 < aux) || !t.modOk (cmdSlot w) aux || acCore x % 32 != 0
  else if op = 12 then cmdInd w || decide (aux < 10) || decide (14 < aux) || cmdSlot w != 0 || mode != 0
  else if op = 0x10 then basis || decide (mode < 1) || decide (32 < mode) || decide (aux < 1) || decide (32 < aux)
  else if op = 0x11 ∨ op = 0x12 then basis || decide (aux < 2)
  else if op = 0x13 then basis || decide (aux < 1) || decide (32 < aux)
  else if op = 0x14 then basis || decide (aux < 1) || decide (32 < aux) || decide (mode < 1) || decide (64 < mode)
  else true

/-- Width of a format code (Table 9-1). -/
def widthOf (f : Nat) : Nat := [4, 4, 8, 8, 16, 16, 32, 32, 8, 8, 16, 16, 32, 32].getD f 0

/-- A VXE command is out of form. -/
def Tr.vxeBad (t : Tr) (w : Nat) : Bool :=
  let op := cmdOp w
  let mode := cmdMode w
  let f := bits mode 0 4
  decide (32768 < cmdImm16 w) ||
  (if op < 0x20 then
    bit mode 7 || cmdSlot w != 0 || decide (13 < f) ||
      !(if op = 0x0C ∨ op = 0x0D ∨ op = 0x0E ∨ op = 0x0F then true
        else if op = 0x0A ∨ op = 0x0B then decide (f < 8)
        else if op = 6 ∨ op = 7 ∨ op = 8 then f % 2 == 0 || fmtFloat f
        else if 0x14 ≤ op ∧ op ≤ 0x17 then decide (widthOf f < 32)
        else if 0x18 ≤ op ∧ op ≤ 0x1B then f == 12
        else if op = 0x13 ∨ 0x1C ≤ op then false
        else f != 13)
  else
    let g := bits mode 4 4
    let wide := max (widthOf f) (widthOf g)
    let narrow := min (widthOf f) (widthOf g)
    decide (13 < f) || decide (13 < g) || decide (wide / max 1 narrow ≤ op % 8) || (f == 13 && g == 13)
      || (if f = 13 ∨ g = 13 then !t.modOk (cmdSlot w) 0 else cmdSlot w != 0))

/-- A MOV command is out of form. -/
def Tr.movBad (t : Tr) (x : Nat) : Bool :=
  let w := acWord x
  let op := cmdOp w
  let mode := cmdMode w
  let n := cmdImm16 w
  decide (6 < op)
    || (op == 6 && (bits mode 6 2 != 0 || decide (2 < bits mode 0 3) || decide (2 < bits mode 3 3)))
    || ((op == 2 || op == 4)
        && (match t.p.slotOf (acCore x) (cmdSlot w) with | some r => slKind r != (if op = 2 then 0 else 3) | none => true))
    || (op == 5 && cmdInd w) || ((op == 5 || op == 6) && decide (1024 < n))

/-- A macro command is out of form. -/
def Tr.macroBad (t : Tr) (x : Nat) : Bool :=
  let w := acWord x
  let aux := cmdAux w
  let l := cmdMode w
  match macroSet aux l with
  | none => true
  | some m =>
    cmdOp w != m.op || acCore x % 32 != 0 || acExt x != m.tiles || decide (t.p.tiles < acCore x / 32 + acExt x)
      || (if aux = 4 then decide (l < 1) || decide (12 < l) else l != 0) || (aux != 3 && cmdField w 3 != 0)
      || cmdField w 2 != 0 || cmdImm16 w != 0

/-- ACNIK_FIELD. -/
def Tr.fieldBad (t : Tr) (x : Nat) : Bool :=
  let w := acWord x
  let eng := cmdEng w
  bit x 59 || bits x 77 3 != 0 || decide (32 * t.p.tiles ≤ acCore x) || decide (t.p.l ≤ cmdTurn w) || (cmdEvery w && cmdTurn w != 0)
    || (acExt x != 0 && !(eng == 5 || (eng == 0 && cmdOp w == 0x30))) || (eng != 0 && bits w 122 6 != 0)
    || (match eng with
      | 0 => t.seqBad x
      | 1 => mxeBad w
      | 2 => t.rneBad x
      | 3 => t.vxeBad w
      | 4 => t.movBad x
      | 5 => t.macroBad x
      | _ => true)

/-! ## Addresses of SETA (R192) -/

/-- The value of an A register as the translator follows it: an address of space 0; of space 1 (bits [47:0]); of space 2, an
allotment address with its physical address; of space 3, an aperture and an offset; or an external one that a failed check leaves
without a value. `d` is the distance moved since its SETA. -/
inductive AVal where
  | own
  | remote (v : Nat) (d : Int)
  | ext (addr phys : Nat) (d : Int)
  | host (ap off : Nat) (d : Int)
  | bad
  deriving DecidableEq, Repr

/-- The register is in space 1, 2 or 3. -/
def AVal.external : AVal → Bool
  | .own => false
  | _ => true

/-- The value moved by `z`. -/
def AVal.move (z : Int) : AVal → AVal
  | .remote v d => .remote v (d + z)
  | .ext a q d => .ext a q (d + z)
  | .host k off d => .host k off (d + z)
  | v => v

/-- The value, the distance aside. -/
def AVal.shape : AVal → AVal
  | .remote v _ => .remote v 0
  | .ext a q _ => .ext a q 0
  | .host k off _ => .host k off 0
  | v => v

/-- The allotment address of a space-2 immediate. -/
def setaAddr (x : Nat) : Nat := acTop x * 2 ^ 45 + bits (cmdImm (acWord x)) 0 45

/-- What SETA or SETAZ puts into its register, and the immediate as rewritten. -/
def Tr.seta (t : Tr) (x : Nat) : AVal × Nat :=
  let imm := cmdImm (acWord x)
  match bits imm 45 3 with
  | 0 => (.own, imm)
  | 1 =>
    let lc := bits imm 17 13
    let v := if lc < 4608 then setField imm 17 13 (t.phy lc) else imm
    (.remote v 0, v)
  | 2 => match t.walk (setaAddr x) none with
    | .ok q => (.ext (setaAddr x) q 0, 2 * 2 ^ 45 + q % 2 ^ 39)
    | .error _ => (.bad, imm)
  | 3 => if t.p.apLen (bits imm 41 4) = 0 then (.bad, imm) else (.host (bits imm 41 4) (bits imm 0 41) 0, imm)
  | _ => (.own, imm)

/-! ## Checks of each command -/

def Tr.commandFlaws (t : Tr) (idx x : Nat) : List Flaw :=
  let w := acWord x
  let core := if acCore x < 32 * t.p.tiles then t.phy (acCore x) else 0xFFFF
  let imm := cmdImm w
  flawIf (t.fieldBad x) (cmdFlaw stBadField 0x63 idx core)
    ++ flawIf (decide (t.p.l ≤ cmdTurn w)) (cmdFlaw stBadField 0x41 idx core)
    ++ flawIf (acProfile x != t.p.profile) (cmdFlaw stState 0x44 idx core)
    ++ flawIf (cmdEng w == 0 && (cmdOp w == 0x13 || cmdOp w == 0x14) && t.s.isSealed t.a) (cmdFlaw stBadField 0x49 idx core)
    ++ flawIf (cmdEng w == 0 && cmdOp w == 0x20 && cmdPeriod w == 0) (cmdFlaw stBadField 0x42 idx core)
    ++ (if isSeta w ∧ bits imm 45 3 = 2 then
          match t.walk (setaAddr x) none with
          | .error c => [{ cmdFlaw stWalk c idx core with walk := setaAddr x }]
          | .ok _ => []
        else [])
    ++ flawIf (isSeta w && bits imm 45 3 == 3 && t.p.apLen (bits imm 41 4) == 0) (cmdFlaw stBadField 0x4D idx core)

/-! ## Expansion (R180, R192, R193, Table 7-3) -/

/-- The logical cores that a command writes entries for. -/
def acCores (x : Nat) : List Nat :=
  if cmdEng (acWord x) = 5 then (List.range (acExt x)).map fun i => acCore x + 32 * i else [acCore x]

/-- The native commands of one Acnik command on each of its cores. -/
def Tr.natives (t : Tr) (x : Nat) : List Nat :=
  let w := acWord x
  if isSeta w then
    let a := setField (setField (setField w 77 3 0) 80 48 (t.seta x).2) 4 6 0x10
    if cmdOp w = 0x30 then
      let z := setField (setField w 4 6 0x18) 16 27 (cmdOffset w + 1)
      [a, setField (setField (setField (setField z 77 3 0) 68 8 0) 76 1 1) 80 48 (unsigned 24 (signed 16 (acExt x)))]
    else [a]
  else [w]

/-- The entries of a logical core, in store order. -/
def Tr.entries (t : Tr) (c : Nat) : List Entry :=
  t.cmds.zipIdx.flatMap fun x => if (acCores x.1).contains c then (t.natives x.1).map fun w => ⟨BitVec.ofNat 128 w, .clean, BitVec.ofNat 32 x.2⟩ else []

/-- Logical cores that hold entries. -/
def Tr.cores (t : Tr) : List Nat := (t.cmds.flatMap acCores).dedup

/-! ## Loops (R65, R161, R172, R174) -/

/-- Loop declarations; the stack holds the periods of the open loops and their origins. An ENDLOOP counts as standing in the loop
that it ends, so its TURN and EVERY must be 0 too (DESIGN CHOICE, log entry 103). -/
def loopFlaws (core : Nat) : List Entry → List (Nat × Nat) → List Flaw
  | [], st => st.map fun x => cmdFlaw stBadField 0x42 x.2 core
  | e :: r, st =>
    (match st with
      | [] => []
      | x :: _ =>
        flawIf (cmdEvery e.w || cmdTurn e.w != 0) (cmdFlaw stBadField 0x63 e.origin core)
          ++ flawIf (!e.isEnd && decide (x.1 ≤ cmdOffset e.w)) (cmdFlaw stBadField 0x42 e.origin core))
      ++ (if e.isLoop then flawIf (decide (4 ≤ st.length)) (cmdFlaw stBadField 0x42 e.origin core) ++ loopFlaws core r ((cmdPeriod e.w, e.origin) :: st)
          else if e.isEnd then
            match st with
            | [] => cmdFlaw stBadField 0x42 e.origin core :: loopFlaws core r []
            | _ :: u => loopFlaws core r u
          else loopFlaws core r st)

/-- The entries with every loop closed, so that what stands in a loop without its mate is checked too: an ENDLOOP that closes
nothing is left out, an open LOOP ends with the store; `d` loops are open. -/
def balance : List Entry → Nat → List Entry
  | [], d => List.replicate d ⟨BitVec.ofNat 128 (0x21 * 2 ^ 4), .clean, 0⟩
  | e :: r, d =>
    if e.isLoop then e :: balance r (d + 1)
    else if e.isEnd then (if 0 < d then e :: balance r (d - 1) else balance r 0)
    else e :: balance r d

/-- The entries of a logical core as its stamps and addresses are checked. -/
def Tr.store (t : Tr) (c : Nat) : List Entry := balance (t.entries c) 0

/-- The commands of plan turn `j` in fetch order with their issue cycles, every loop at its count `k` (R65); the flag says
that the command stands in a loop. -/
def expand (k : Entry → Nat) (j : Nat) : Nat → List Entry → Nat → Bool → List (Nat × Entry × Bool)
  | 0, _, _, _ => []
  | _ + 1, [], _, _ => []
  | f + 1, e :: r, base, top =>
    let n := afterLoop r 0 0
    let at_ := base + cmdOffset e.w
    if e.isLoop then
      if top && !e.applies j then expand k j f (r.drop n) base top
      else
        (at_, e, !top) :: ((List.range (k e)).flatMap fun i => expand k j f (r.take (n - 1)) (at_ + i * cmdPeriod e.w) false)
          ++ expand k j f (r.drop n) base top
    else if e.isEnd ∨ (top = true ∧ e.applies j = false) then expand k j f r base top
    else (at_, e, !top) :: expand k j f r base top

/-- The declared maximum; counts that reach past the turn are cut where they do. -/
def Tr.most (t : Tr) (e : Entry) : Nat := min (cmdMax e.w) (t.n + 1)

/-- R174, in plan turn `j`: origins of commands that follow a loop too soon. `p` is the cycle, counted from the base of this level, before
which what comes next follows too soon: the end of every loop whose ENDLOOP it follows, an inner one in its last enclosing iteration;
what stands at the end of the list for its followers comes with the origins. -/
def tooSoon (j : Nat) : Nat → List Entry → Bool → Nat → List Nat × Nat
  | 0, _, _, p => ([], p)
  | _ + 1, [], _, p => ([], p)
  | f + 1, e :: r, top, p =>
    let n := afterLoop r 0 0
    if top && !e.applies j then tooSoon j f (if e.isLoop then r.drop n else r) top p
    else if e.isEnd then tooSoon j f r top p
    else
      let at_ := cmdOffset e.w
      let now := if at_ < p then [e.origin] else []
      if e.isLoop then
        let b := tooSoon j f (r.take (n - 1)) false 0
        let z := tooSoon j f (r.drop n) top
          (max (at_ + cmdMax e.w * cmdPeriod e.w) (if b.2 = 0 then 0 else at_ + (cmdMax e.w - 1) * cmdPeriod e.w + b.2))
        (now ++ b.1 ++ z.1, z.2)
      else let z := tooSoon j f r top 0; (now ++ z.1, z.2)

/-! ## Stamps and issue places (R71, R176, R178) -/

/-- The latency that R71 item 2 takes for a command whose destination does not matter; none for transfers and moves to
other cores. -/
def latencyOf (prof w : Nat) : Option Nat :=
  if cmdEng w = 4 ∧ 1 ≤ cmdOp w ∧ cmdOp w ≤ 4 then none
  else if cmdEng w = 0 then
    if cmdOp w = 0x20 then none else some (if [0x13, 0x14, 0x1A].contains (cmdOp w) then 3 + prof else 1 + prof)
  else some (occLat prof w (cmdImm16 w) 0 0).2

/-- Address registers that a command post-increments, each once (R167); LOOP and ENDLOOP never issue. -/
def incremented (w : Nat) : List Nat :=
  if cmdEng w = 0 ∧ 0x20 ≤ cmdOp w then [] else (((List.range 4).filter fun f => bit (cmdPi w) f).map fun f => cmdField w f).dedup

/-- Registers a command writes: kind and number (R178 counts post-increments). -/
def regsWritten (w : Nat) : List (Nat × Nat) :=
  let d := cmdField w 0
  let own : List (Nat × Nat) := if cmdEng w ≠ 0 then [] else match cmdOp w with
    | 0x20 => []
    | 0x21 => []
    | 0x18 => [(3, d)]
    | 0x19 => [(4, d % 8)]
    | 0x1A => [(2, bits w 64 6)]
    | 0x14 => [(0, d)]
    | o => if 0x10 ≤ o then [(1, d)] else [(0, d)]
  own ++ (incremented w).map fun r => (1, r)

/-- What the checks of one command against those before it keep: the cycle, and its commands so far. -/
def stampFlaws (t : Tr) (core : Nat) : List (Nat × Entry × Bool) → Nat → List Nat → List Flaw
  | [], _, _ => []
  | x :: r, prev, group =>
    let w := x.2.1.w
    let idx := x.2.1.origin
    let same := if x.1 = prev then group else []
    flawIf (decide (t.lim ≤ x.1) || (match latencyOf t.p.profile w with | some l => decide (t.lim < x.1 + l) | none => false))
        (cmdFlaw stBadField 0x40 idx core)
      ++ flawIf (decide (x.1 < prev) || (!x.2.1.isLoop && (decide (4 ≤ same.length) || same.any fun v =>
          cmdEng v == cmdEng w || (regsWritten v).any fun k => (regsWritten w).contains k))) (cmdFlaw stBadField 0x4E idx core)
      ++ stampFlaws t core r x.1 (if x.2.1.isLoop then same else same ++ [w])

/-! ## The issue window (R175 to R178). Cycles here are counted from g = 1,024 of the guard before: cycle c is c + 3,072. -/

/-- The cursor: the cycle of its last read, reads made in it, and the cycles in which the entries it holds issue. -/
structure Win where
  at_ : Nat
  reads : Nat
  held : List Nat
  deriving DecidableEq, Repr

/-- The cycle in which the next entry can be read: at most 4 reads in a cycle, at most 8 entries held. -/
def Win.room (x : Win) : Nat :=
  let c := if x.reads < 4 then x.at_ else x.at_ + 1
  let in_ := x.held.filter fun h => decide (c ≤ h)
  if in_.length < 8 then c else in_.foldl min (in_.headD 0) + 1

/-- Read one entry, which then stands in the window until it issues. -/
def Win.read (x : Win) (until_ : List Nat) : Win :=
  let c := x.room
  ⟨c, (if c = x.at_ then x.reads else 0) + 1, x.held.filter (fun h => decide (c ≤ h)) ++ until_⟩

/-- Reading stops after an ENDLOOP, until the cycle after the loop's base at least. -/
def Win.stop (x : Win) (b : Nat) : Win := { x with at_ := max (x.at_ + 1) (b + 1), reads := 0 }

/-- Origins of commands that would not stand in the window at their issue cycle, with every loop at its count `k`. -/
def windowLate (k : Entry → Nat) (j : Nat) : Nat → List Entry → Nat → Bool → Win → List Nat × Win
  | 0, _, _, _, x => ([], x)
  | _ + 1, [], _, _, x => ([], x)
  | f + 1, e :: r, base, top, x =>
    let n := if e.isLoop then afterLoop r 0 0 else 0
    let c := base + cmdOffset e.w
    if top && !e.applies j then
      windowLate k j f (r.drop n) base top ((List.range (n + 1)).foldl (fun x _ => x.read []) x)
    else if e.isEnd then windowLate k j f r base top (x.read [])
    else
      let y := x.read [c]
      let late := if y.at_ + 2 ≤ c then [] else [e.origin]
      let b : List Nat × Win := if !e.isLoop then ([], y)
        else if k e = 0 then ([], ⟨c + 1, 0, []⟩)
        else (List.range (k e)).foldl (fun z i =>
          let v := windowLate k j f (r.take (n - 1)) (c + i * cmdPeriod e.w) false z.2
          (z.1 ++ v.1, (v.2.read []).stop c)) ([], y)
      let z := windowLate k j f (r.drop n) base top b.2
      (late ++ b.1 ++ z.1, z.2)

/-! ## Every check of a core's store but its addresses -/

/-- Each loop of a turn is taken at 0 and at its maximum, whatever the others take. -/
def Tr.windowFlaws (t : Tr) (es : List Entry) (core j : Nat) : List Flaw :=
  let loops := (es.filter fun e => e.isLoop && (cmdEvery e.w || cmdTurn e.w == j || cmdTurn e.w == 0)).map (·.origin)
  loops.sublists.flatMap fun zero =>
    ((windowLate (fun e => if zero.contains e.origin then 0 else t.most e) j (es.length + 1) es 3072 true ⟨1, 0, []⟩).1).map fun i =>
      cmdFlaw stBadField 0x4E i core

def Tr.storeFlaws (t : Tr) (c : Nat) : List Flaw :=
  let es := t.store c
  let core := t.phy c
  (match (t.entries c)[2048]? with | some e => [cmdFlaw stBadLength 0x4F e.origin core] | none => [])
    ++ loopFlaws core (t.entries c) []
    ++ (List.range t.p.l).flatMap fun j =>
      stampFlaws t core (expand t.most j (es.length + 1) es 0 true) 0 []
        ++ (tooSoon j (es.length + 1) es true 0).1.map (fun i => cmdFlaw stBadField 0x4E i core)
        ++ t.windowFlaws es core j

/-! ## Address registers through the plan (R166, R167, R195) -/

/-- The registers of a core as the translator follows them: A, Z (none where a Z is not a constant), and the writes not
visible yet: cycle, register, the value of an A or of a Z. -/
structure Follow where
  a : SMap AVal
  z : SMap (Option Int)
  late : List (Nat × Nat × (AVal ⊕ Option Int))
  deriving DecidableEq

def Follow.write (x : Follow) (w : Nat × Nat × (AVal ⊕ Option Int)) : Follow :=
  match w.2.2 with
  | .inl v => { x with a := smSet .own x.a w.2.1 v }
  | .inr v => { x with z := smSet (some 0) x.z w.2.1 v }

/-- The writes visible in cycle `c` are made, in the order of their cycles. -/
def Follow.settle (x : Follow) (c : Nat) : Follow :=
  ((x.late.filter fun w => decide (w.1 ≤ c)).mergeSort fun v w => v.1 ≤ w.1).foldl Follow.write
    { x with late := x.late.filter fun w => decide (c < w.1) }

/-- A transfer that the plan makes: its command, Acnik index and logical core, plan turn and issue cycle, whether it stands
in a loop, where its external or remote address points: physical address; offset in an aperture; A register; the allotment
address of a transfer of allotment memory, the aperture of one of host memory; and whether the load refuses it. -/
structure Xfer where
  w : Nat
  idx : Nat
  core : Nat
  turn : Nat
  s : Nat
  inLoop : Bool
  addr : Nat
  va : Nat
  refused : Bool
  deriving DecidableEq

/-- A transfer of allotment memory: the walks of its pages, and whether they continue the run of its SETA (R156, R166). -/
def Tr.extFlaws (t : Tr) (x : Xfer) (addr phys : Nat) (d : Int) : List Flaw :=
  let core := t.phy x.core
  let n := 128 * cmdImm16 x.w
  let v := (addr : Int) + d
  let need := if cmdOp x.w = 2 then permPlanRead else permPlanWrite
  if v < 0 ∨ (2 : Int) ^ 48 < v + n then [cmdFlaw stBadField 0x4D x.idx core]
  else (pagesOf v.toNat n).flatMap fun g =>
    match t.walk g.1 (some need) with
    | .error c => [{ cmdFlaw stWalk c x.idx core with walk := g.1 }]
    | .ok q => flawIf (decide ((q : Int) - phys ≠ (g.1 : Int) - addr)) (cmdFlaw stBadField 0x4D x.idx core)

/-- What a MOV reaches: its flaws, and the transfer. The offset in an aperture moves modulo 2^39 (R165). -/
def Tr.moveOf (t : Tr) (x : Xfer) (v : AVal) : List Flaw × List Xfer :=
  let no := cmdFlaw stBadField 0x4D x.idx (t.phy x.core)
  let n := cmdImm16 x.w
  match cmdOp x.w, v with
  | _, .bad => ([], [])
  | 1, .remote r d => ([], [{ x with addr := addField r d }])
  | 4, .host k off d =>
    let at_ := addField off d
    let out := decide (t.p.apLen k < at_ + 128 * n)
    if n = 0 then ([], []) else (flawIf out no, [{ x with addr := at_, va := k, refused := out }])
  | 4, _ => ([no], [])
  | 1, _ => ([no], [])
  | _, .ext a q d =>
    if n = 0 then ([], [])
    else
      let fs := t.extFlaws x a q d
      (fs, [{ x with addr := ((q : Int) + d).toNat, va := if (a : Int) + d < 0 then 2 ^ 48 else ((a : Int) + d).toNat, refused := fs != [] }])
  | _, _ => ([no], [])

/-- One command: flaws, transfers, and the registers after it. A post-increment by a Z register that no SETZ of the plan has
written moves by 0: of Z's source R166 refuses only an LDZ (DESIGN CHOICE, log entry 103). -/
def Tr.follow (t : Tr) (c j : Nat) (f : Follow) (at_ : Nat) (e : Entry) (inLoop : Bool) : List Flaw × List Xfer × Follow :=
  let f := f.settle at_
  let w := e.w
  let d := cmdField w 0
  let va (i : Nat) : AVal := smGet .own f.a i
  let no := [cmdFlaw stBadField 0x4D e.origin (t.phy c)]
  let own (delay : Nat) (v : AVal ⊕ Option Int) : List (Nat × Nat × (AVal ⊕ Option Int)) := [(at_ + delay, d, v)]
  let r : List Flaw × List Xfer × List (Nat × Nat × (AVal ⊕ Option Int)) :=
    if cmdEng w = 0 then
      match cmdOp w with
      | 0x10 => ([], [], own 1 (.inl (t.seta (t.cmds.getD e.origin 0)).1))
      | 0x11 => (if (va (cmdField w 1)).external ∨ (va d).external then no else [], [], own 1 (.inl .own))
      | 0x12 => ([], [], own 1 (.inl (va (cmdField w 1))))
      | 0x13 => (if (va d).external then no else [], [], own 3 (.inl .own))
      | 0x18 => ([], [], own 1 (.inr (if cmdImmb w then some (signed 24 (cmdImm w)) else none)))
      | _ => ([], [], [])
    else if cmdEng w = 4 ∧ 1 ≤ cmdOp w ∧ cmdOp w ≤ 4 then
      let y := t.moveOf ⟨w, e.origin, c, j, at_, inLoop, 0, 0, false⟩ (va (cmdField w (if cmdOp w = 1 ∨ cmdOp w = 3 then 0 else 1)))
      (y.1, y.2, [])
    else ([], [], [])
  let regs := (incremented w).filter fun r => (va r).external
  let pi := regs.map fun r => (at_ + 1 + t.p.profile, r, (.inl (match smGet (some 0) f.z r with
    | some z => (va r).move z
    | none => .bad) : AVal ⊕ Option Int))
  let lost := regs.any fun r => (smGet (some 0) f.z r).isNone
  (r.1 ++ (if lost then no else []), r.2.1, { f with late := f.late ++ r.2.2 ++ pi })

/-- One plan turn of a core. -/
def Tr.followTurn (t : Tr) (c j : Nat) (es : List Entry) (f : Follow) : List Flaw × List Xfer × Follow :=
  let r := (expand t.most j (es.length + 1) es 0 true).foldl (fun (acc : List Flaw × List Xfer × Follow) x =>
    let y := t.follow c j acc.2.2 x.1 x.2.1 x.2.2
    (acc.1 ++ y.1, acc.2.1 ++ y.2.1, y.2.2)) ([], [], f)
  (r.1, r.2.1, { r.2.2.settle (2 ^ 40) with late := [] })

/-- Every plan turn once. -/
def Tr.followPlan (t : Tr) (c : Nat) (es : List Entry) (f : Follow) : List Flaw × List Xfer × Follow :=
  (List.range t.p.l).foldl (fun (acc : List Flaw × List Xfer × Follow) j =>
    let y := t.followTurn c j es acc.2.2
    (acc.1 ++ y.1, acc.2.1 ++ y.2.1, y.2.2)) ([], [], f)

/-- The registers, the distances moved aside. -/
def Follow.shape (x : Follow) : Follow := { x with a := x.a.map fun y => (y.1, y.2.shape) }

/-- Passes over the plan from the registers `f`, up to the first that ends with registers of the shape at the start of an earlier
pass, whose number comes with them. What a pass does to the shape depends on the shape alone, so 16 registers come back to one
within 16 + 140 passes. -/
def Tr.passes (t : Tr) (c : Nat) (es : List Entry) : Nat → List Follow → Follow → List (List Flaw × List Xfer) × Nat × Follow
  | 0, _, f => ([], 0, f)
  | k + 1, seen, f =>
    let y := t.followPlan c es f
    let seen := seen ++ [f]
    match seen.findIdx? (fun g => decide (g.shape = y.2.2.shape)) with
    | some m => ([(y.1, y.2.1)], m, y.2.2)
    | none =>
      let z := t.passes c es k seen y.2.2
      ((y.1, y.2.1) :: z.1, z.2)

/-- `n` more passes. -/
def Tr.more (t : Tr) (c : Nat) (es : List Entry) : Nat → Follow → List (List Xfer)
  | 0, _ => []
  | n + 1, f => let y := t.followPlan c es f; y.2.1 :: t.more c es n y.2.2

/-- A transfer that one pass makes at `x` and the next of the same shape at `y` goes where a load may not let it go. A transfer of
host memory comes by every address that its step reaches modulo 2^39, and stays where the highest of them is in the aperture;
any other leaves its run of pages, or the core that its lateral reaches (log entry 40). -/
def Tr.strays (t : Tr) (x y : Xfer) : Bool :=
  if x == y then false
  else if cmdOp y.w = 4 then
    let g := Nat.gcd ((y.addr + 2 ^ 39 - x.addr % 2 ^ 39) % 2 ^ 39) (2 ^ 39)
    let top := x.addr - x.addr % 2 ^ 39 + (2 ^ 39 - g) + x.addr % g
    decide (t.p.apLen y.va < top + 128 * cmdImm16 y.w)
  else true

/-- The address flaws of a core's store, the transfers of each pass it makes, and the pass that follows the last. In a plan with
REPEAT, a transfer whose address has moved by the next pass of the same shape moves on for ever (R166). -/
def Tr.addresses (t : Tr) (c : Nat) : List Flaw × List (List Xfer) × Nat :=
  let es := t.store c
  let f : Follow := ⟨[], [], []⟩
  if !t.p.repeat_ then
    let y := t.followPlan c es f
    (y.1, [y.2.1], 0)
  else
    let y := t.passes c es 160 [] f
    let l := y.1.map (·.2)
    let next := t.more c es (l.length - y.2.1) y.2.2
    let moved := ((l.drop y.2.1).zip next).flatMap fun p => ((p.1.zip p.2).filter fun z => t.strays z.1 z.2).map (·.2)
    (y.1.flatMap (·.1)
      ++ moved.map (fun x => cmdFlaw stBadField (if cmdOp x.w = 1 then 0xB1 else 0x4D) x.idx (t.phy c)), l, y.2.1)

/-- The transfers of pass `p`. -/
def passAt (x : List (List Xfer) × Nat) (p : Nat) : List Xfer :=
  let n := x.1.length
  x.1.getD (if p < n then p else x.2 + (p - x.2) % max 1 (n - x.2)) []

end Sys2Proof.Machine
end

