-- ==== Sys2Proof/Machine/Reserve.lean ====
section
/-! DEFINITION. Load checks on reservations, laterals and links (Tables 12-3 and 13-9), and on the units a plan needs (R21,
R22, R485). -/

namespace Sys2Proof.Machine

/-! ## What is checked -/

/-- The transfers of the plan by core: its passes, and the pass after the last. -/
abbrev Moves := List (List (List Xfer) × Nat)

/-- Passes that show every combination of the cores' passes: those before all have entered their periods, and one common period. -/
def passCount (m : Moves) : Nat :=
  (m.map (·.2)).foldl max 0 + (m.map fun x => max 1 (x.1.length - x.2)).foldl Nat.lcm 1

/-- Transfers of plan turn `j` in pass `p`, in issue order. -/
def turnMoves (m : Moves) (p j : Nat) : List Xfer :=
  (m.flatMap fun x => (passAt x p).filter fun y => y.turn == j).mergeSort fun x y =>
    decide (x.s < y.s) || (x.s == y.s && (decide (x.idx < y.idx) || (x.idx == y.idx && decide (x.core ≤ y.core))))

/-- Every plan turn of every pass. -/
def Tr.turns (t : Tr) (m : Moves) : List (Nat × List Xfer) :=
  (List.range (passCount m)).flatMap fun p => (List.range t.p.l).map fun j => (j, turnMoves m p j)

/-- Loaded plans of the other allotments. -/
def Tr.others (t : Tr) : List (Nat × Plan) := t.s.loadedPlans.filter fun x => x.1 != t.a

/-- Every loaded plan beside the one being loaded: of the allotment's own, one that runs stays loaded behind it (R303, R317, R327). -/
def Tr.rest (t : Tr) : List (Nat × Plan) :=
  t.others ++ (if t.s.altState t.a = 4 ∨ t.s.altState t.a = 5 then ((t.s.allot t.a).active.toList.map fun p => (t.a, p)) else [])

def Tr.native (t : Tr) : Bool := t.p.profile == 0

/-- Two records can apply in one plan turn. -/
def together (ea : Bool) (ta : Nat) (eb : Bool) (tb : Nat) : Bool := ea || eb || ta == tb

/-! ## Records of RESERVATIONS (Table 12-2) -/

def zeroAt (r : Bytes) (off n : Nat) : Bool := (slice r off n).all (· == 0)

/-- RESERVE_FORM. -/
def Tr.resvBad (t : Tr) (r : Bytes) : Bool :=
  let k := rvKind r
  let burst :=
    decide (rvSlots r < 1) || decide (rvRepeat r < 1) || (if rvRepeat r = 1 then rvPeriod r != 0 else decide (rvPeriod r < rvSlots r))
      || decide (rvTiles r < 1) || decide (t.p.tiles < rvFirstTile r + rvTiles r) || rvBytes r != 0
      || decide (t.lim < 16 * (rvFirst r + (rvRepeat r - 1) * rvPeriod r + rvSlots r))
  k == 3 || bits (fieldAt r 0 1) 3 5 != 0 || (rvEvery r && rvTurn r != 0) || decide (t.p.l ≤ rvTurn r) || !zeroAt r 52 12
    || (match k with
      | 0 => burst || decide (7 < rvUnit r) || decide (rvShare r < 1) || decide (9 < rvShare r) || !zeroAt r 24 28
      | 1 => burst || decide (rvShare r < 1) || decide (5 < rvShare r) || rvSrc r % 128 != 0 || !zeroAt r 30 2
          || bits (fieldAt r 37 1) 1 7 != 0 || bits (fieldAt r 38 1) 6 2 != 0 || !zeroAt r 39 1
          || decide (rvGroups r < 1) || decide (rvP r < 1) || decide (1024 < rvP r)
          || (if rvSeeded r then decide (rvLimbLines r < 1) || rvP r % max 1 (rvLimbLines r) != 0 || decide (64 < rvP r / max 1 (rvLimbLines r))
              else rvLimbLines r != 0 || rvModslot r != 0)
      | _ => !zeroAt r 1 1 || !zeroAt r 4 16 || !zeroAt r 24 28)

/-- Records in form, with their positions. -/
def Tr.goodResv (t : Tr) : List (Bytes × Nat) := t.p.resv.zipIdx.filter fun x => !t.resvBad x.1

/-- A served slot lies in a refresh window of a class (Table 12-1). -/
def inWindows (cls : Nat) (r : Bytes) : Bool :=
  let w := if cls = 0 then 128 else 64
  (List.range (min (rvRepeat r) w)).any fun i => (List.range (min (rvSlots r) w)).any fun k =>
    let x := (rvFirst r + i * rvPeriod r + k) % w
    decide (32 ≤ x) && decide (x < 40)

/-- A record serves slot `k`. -/
def rvServes (r : Bytes) (k : Nat) : Bool :=
  decide (rvFirst r ≤ k) &&
    (let d := k - rvFirst r
     let b := if rvPeriod r = 0 then 0 else min (d / rvPeriod r) (rvRepeat r - 1)
     decide (d - b * rvPeriod r < rvSlots r))

/-- The first slots of a record's bursts. -/
def rvStarts (r : Bytes) : List Nat := (List.range (rvRepeat r)).map fun i => rvFirst r + i * rvPeriod r

/-- The stack whose share a MEM or FLUME record holds. -/
def rvStack (r : Bytes) : Option Nat := match rvKind r with | 0 => some (rvUnit r) | 1 => some (rvUnit r / 2) | _ => none

def sharesAt (l : List Bytes) (k : Nat) : Nat := ((l.filter fun r => rvServes r k).map rvShare).sum

/-- Records on a stack. -/
def onStack (st : Nat) (l : List Bytes) : List Bytes := l.filter fun r => rvStack r == some st

/-- The record whose served slot starts the first excess over 9 blocks. -/
def excess (l : List (Bytes × Nat)) : Option Nat :=
  let past := (l.flatMap fun x => (rvStarts x.1).map fun k => (k, x.2)).filter fun x => decide (9 < sharesAt (l.map (·.1)) x.1)
  ((past.mergeSort fun x y => decide (x.1 < y.1) || (x.1 == y.1 && decide (x.2 ≤ y.2))).head?).map (·.2)

/-- The capacity checks on shares (R315, R317). -/
def Tr.shareFlaws (t : Tr) : List Flaw :=
  (List.range 8).flatMap fun st =>
    let own := t.goodResv.filter fun x => rvStack x.1 == some st
    let other := onStack st (t.rest.flatMap fun x => x.2.resv)
    ((List.range t.p.l).flatMap fun j => match excess (own.filter fun x => rvApplies x.1 j) with
      | some i => [recFlaw stBadField 0xA2 i]
      | none => [])
      ++ (((own.map (·.1)) ++ other).flatMap rvStarts).flatMap fun k =>
        let mine := own.filter fun x => rvServes x.1 k
        let theirs := sharesAt other k
        match mine with
        | [] => []
        | x :: _ => flawIf (decide (0 < theirs) && decide (9 < sharesAt (mine.map (·.1)) k + theirs)) (recFlaw stQuota 0x46 x.2)

/-- The form of each record, and its slots against the refresh windows, be it in form or not (R74, R198). -/
def Tr.recordFlaws (t : Tr) : List Flaw :=
  t.p.resv.zipIdx.flatMap fun x => flawIf (t.resvBad x.1) (recFlaw stBadField 0xA0 x.2)
    ++ flawIf (decide (rvKind x.1 < 2) && inWindows t.p.cls x.1) (recFlaw stBadField 0x4C x.2)

/-! ## Transfers of external memory (R298 to R300) -/

/-- The record that serves a transfer: position, σ, λ, D; or the cause that refuses it. -/
def Tr.serve (t : Tr) (x : Xfer) : Except Nat (Nat × Nat × Nat × Nat) :=
  let n := 2 * cmdImm16 x.w
  let last := x.addr + 64 * n - 1
  if stackOf x.addr ≠ stackOf last ∨ apertureBase ≤ last then .error 0xA3
  else
    match t.goodResv.filter (fun r => rvKind r.1 == 0 && rvApplies r.1 x.turn && rvUnit r.1 == stackOf x.addr
        && decide (rvFirstTile r.1 ≤ x.core / 32) && decide (x.core / 32 < rvFirstTile r.1 + rvTiles r.1)
        && (rvSigma r.1 x.s).isSome) with
    | [] => .error 0xA1
    | [r] => match rvServe r.1 x.s x.addr n with
      | some v => .ok (r.2, v.1, v.2, 16 * (v.2 + 1) - x.s)
      | none => .error 0xA1
    | _ => .error 0xA2

/-- Transfers of one plan turn, in issue order; the list keeps the largest λ of each record so far. -/
def Tr.memFlaws (t : Tr) : List Xfer → SMap Nat → List Flaw
  | [], _ => []
  | x :: r, done =>
    if cmdOp x.w ≠ 2 ∧ cmdOp x.w ≠ 3 then t.memFlaws r done
    else
      let core := t.phy x.core
      match t.serve x with
      | .error c => cmdFlaw stBadField c x.idx core :: t.memFlaws r done
      | .ok v =>
        let before := smGet 0 done v.1
        flawIf (decide (v.2.1 < before)) (cmdFlaw stBadField 0xA2 x.idx core)
          ++ flawIf (decide (t.lim < x.s + (if t.native then 720 else 960) + v.2.2.2)) (cmdFlaw stBadField 0x40 x.idx core)
          ++ t.memFlaws r (smSet 0 done v.1 (max before (v.2.2.1 + 1)))

/-! ## The host link (R303) -/

def Plan.hostShare (p : Plan) (j : Nat) : Nat := ((p.resv.filter fun r => rvKind r == 2 && rvApplies r j).map rvBytes).sum
/-- The budget of a plan at its largest plan turn. -/
def Plan.hostMost (p : Plan) : Nat := ((List.range p.l).map p.hostShare).foldl max 0

/-- The first item whose bytes take a turn over its budget: items are cycle, tie, bytes, flaw, in cycle order. -/
def overBudget (budget : Nat) : List (Nat × Nat × Nat × Flaw) → Nat → List Flaw
  | [], _ => []
  | x :: r, used => if budget < used + x.2.2.1 then [x.2.2.2] else overBudget budget r (used + x.2.2.1)

def Tr.hostFlaws (t : Tr) (j : Nat) (l : List Xfer) : List Flaw :=
  let reads := (l.filter fun x => cmdOp x.w == 4).map fun x =>
    (x.s, x.idx + 1, 128 * cmdImm16 x.w, cmdFlaw stQuota 0x4B x.idx (t.phy x.core))
  let sends := (t.p.deliveries.filter fun r => dvTurn r == j).map fun r => (dvStamp r, 0, dvLen r, planFlaw stQuota 0x4B)
  overBudget (t.p.hostShare j)
    ((sends ++ reads).mergeSort fun x y => decide (x.1 < y.1) || (x.1 == y.1 && decide (x.2.1 ≤ y.2.1))) 0

def Tr.capacityFlaw (t : Tr) : List Flaw :=
  flawIf (decide (40 * t.lim < t.p.hostMost + (t.rest.map fun x => x.2.hostMost).sum)) (planFlaw stQuota 0x46)

/-! ## The key flume (R311 to R315) -/

/-- σ and λ of a FLUME record: the channels of its blocks depend on the place in a page alone. -/
def flServe (r : Bytes) : Option (Nat × Nat) := rvServe r (rvStamp r) (rvSrc r % pageSize) (rvRead r / 64)

/-- The landing bound of a FLUME record (Table 3-2). -/
def Tr.flBound (t : Tr) (r : Bytes) : Option Nat :=
  (flServe r).map fun v => rvStamp r + (if t.native then 900 else 1200) + (16 * (v.2 + 1) - rvStamp r)

/-- The logical cores that a FLUME record feeds. -/
def flCores (r : Bytes) : List Nat :=
  (List.range (rvTiles r)).flatMap fun i => ((List.range 32).filter fun k => bit (rvMask r) k).map fun k => (rvFirstTile r + i) * 32 + k

/-- A macro of plan turn `j` that a record may feed (R314). -/
def Tr.feeds (t : Tr) (r : Bytes) (j : Nat) : Bool :=
  let es := t.store (32 * rvFirstTile r)
  (expand t.most j (es.length + 1) es 0 true).any fun x =>
    let w := x.2.1.w
    let raw := t.cmds.getD x.2.1.origin 0
    cmdEng w == 5 && acCore raw == 32 * rvFirstTile r && acExt raw == rvTiles r
      && (match macroSet (cmdAux w) (cmdMode w) with
        | some m => m.keyBytes == rvRead r && decide (x.1 ≤ 16 * rvFirst r)
            && decide (16 * (rvFirst r + (rvRepeat r - 1) * rvPeriod r + rvSlots r) ≤ x.1 + (if t.native then m.native else m.a1))
        | none => false)

/-- FLUME_FORM. -/
def Tr.flumeBad (t : Tr) (r : Bytes) : Bool :=
  let cores := flCores r
  (if rvMacro r then
      rvLslot r != 0 || rvScatter r || rvMask r != 0 || !((List.range t.p.l).all fun j => !rvApplies r j || t.feeds r j)
    else
      !(cores.zipIdx.all fun c => flumeShare r c.2 cores.length == 0 || match t.p.slotOf c.1 (rvLslot r) with
        | some d => slKind d == 1 && decide (128 * flumeShare r c.2 cores.length ≤ slLen d)
        | none => false))
    || (rvSeeded r && !((List.range (rvP r / max 1 (rvLimbLines r))).all fun l => t.modOk (rvModslot r + l) 0))

/-- The source of a FLUME record: its walks and its stack. -/
def Tr.flSource (t : Tr) (r : Bytes) (pos : Nat) : List Flaw :=
  if stackSize < rvRead r ∨ 2 ^ 48 < rvSrc r + rvRead r then [recFlaw stBadField 0xA3 pos]
  else (pagesOf (rvSrc r) (rvRead r)).flatMap fun g =>
    match t.walk g.1 (some permPlanRead) with
    | .error c => [{ recFlaw stWalk c pos with walk := g.1 }]
    | .ok q => flawIf (stackOf q != rvUnit r / 2 || decide (apertureBase ≤ q)) (recFlaw stBadField 0xA3 pos)

/-- Two services on one engine overlap. -/
def flMeet (r q : Bytes) : Bool :=
  match flServe r, flServe q with
  | some v, some u => rvUnit r == rvUnit q && decide (rvStamp r < 16 * (u.2 + 1)) && decide (rvStamp q < 16 * (v.2 + 1))
  | _, _ => false

/-- The checks of the FLUME records: the source and the landing bound of each, and what those in form may be asked beside. -/
def Tr.flumeFlaws (t : Tr) : List Flaw :=
  let l := t.goodResv.filter fun x => rvKind x.1 == 1
  ((t.p.resv.zipIdx.filter fun x => rvKind x.1 == 1).flatMap fun x => t.flSource x.1 x.2
      ++ (match t.flBound x.1 with | some b => flawIf (decide (t.lim < b)) (recFlaw stBadField 0x40 x.2) | none => []))
    ++ l.flatMap fun x =>
    let r := x.1
    flawIf (t.flumeBad r) (recFlaw stBadField 0xA4 x.2)
      ++ flawIf (t.flBound r).isNone (recFlaw stBadField 0xA1 x.2)
      ++ flawIf (l.any fun y => decide (y.2 < x.2) && together (rvEvery r) (rvTurn r) (rvEvery y.1) (rvTurn y.1) && flMeet r y.1)
          (recFlaw stBadField 0xA2 x.2)
      ++ flawIf (t.others.any fun y => y.2.resv.any fun q => rvKind q == 1 && flMeet r q) (recFlaw stQuota 0x46 x.2)

/-! ## Laterals (Tables 13-2 and 13-3) -/

/-- The links of a path with the offsets of R323: from, to, cycles after the line is read; a bridge channel counts as a
link that adds no hop. -/
def pathLinks : List Nat → Nat → Nat → List (Nat × Nat × Nat)
  | x :: y :: r, k, extra =>
    if x / 72 ≠ y / 72 then (x, y, 3 + 2 * k) :: pathLinks (y :: r) k 24
    else (x, y, 3 + 2 * k + extra) :: pathLinks (y :: r) (k + 1) extra
  | _, _, _ => []

/-- The links that a lateral reserves, each with the offset of its cycles from the windows. -/
def State.rtLinks (s : State) (a : Nat) (p : Plan) (r : Bytes) : List (Nat × Nat × Nat) :=
  let l := (s.rtPaths a p r).flatMap fun x => pathLinks x 0 0
  if rtKind r % 2 = 0 then l else (l.map fun x => (x.1, x.2.1, 0)).dedup

/-- The fields of a route record are in range. -/
def Tr.rtFields (t : Tr) (r : Bytes) : Bool :=
  let b := fieldAt r 0 1
  bits b 6 2 == 0 && bits (fieldAt r 1 1) 4 4 == 0 && zeroAt r 24 8 && !(rtEvery r && rtTurn r != 0) && decide (rtTurn r < t.p.l)
    && decide (1 ≤ rtCycles r) && decide (1 ≤ rtRepeat r)
    && (if rtRepeat r = 1 then rtPeriod r == 0 else decide (rtCycles r ≤ rtPeriod r))
    && (t.p.geo == 0 || rtBridge r == 0)
    && (match rtKind r with
      | 0 => rtUnit r == 0 && decide (rtSrc r < t.p.tiles) && decide (rtDst r < t.p.tiles)
      | 1 => decide (1 ≤ rtDst r) && decide (rtSrc r + rtDst r ≤ t.p.tiles)
      | 2 => decide (rtSrc r < t.p.tiles) && rtDst r == 0
      | _ => rtSrc r == 0 && decide (rtDst r < t.p.tiles))

/-- The cycle after the last window. -/
def rtEnd (r : Bytes) : Nat := rtFirst r + (rtRepeat r - 1) * rtPeriod r + rtCycles r

/-- ROUTE_FORM. -/
def Tr.rtBad (t : Tr) (r : Bytes) : Bool :=
  !t.rtFields r || decide (t.lim < rtEnd r) || (t.s.rtLinks t.a t.p r).any fun x => decide (t.lim < rtEnd r + x.2.2)

def Tr.goodRoutes (t : Tr) : List (Bytes × Nat) := t.p.routes.zipIdx.filter fun x => !t.rtBad x.1

/-- A window of `r`, put off by `o`, meets the cycles from `a` up to `b`. -/
def rtTouches (r : Bytes) (o a b : Nat) : Bool :=
  decide (0 < b) && decide (rtFirst r + o < b) &&
    (let k := if rtPeriod r = 0 then 0 else min ((b - 1 - rtFirst r - o) / rtPeriod r) (rtRepeat r - 1)
     decide (a < rtFirst r + o + k * rtPeriod r + rtCycles r))

/-- Two laterals take one link direction in one cycle. -/
def linksClash (r : Bytes) (lr : List (Nat × Nat × Nat)) (q : Bytes) (lq : List (Nat × Nat × Nat)) : Bool :=
  lr.any fun x => lq.any fun y => x.1 == y.1 && x.2.1 == y.2.1 &&
    (List.range (rtRepeat r)).any fun i =>
      let a := rtFirst r + x.2.2 + i * rtPeriod r
      rtTouches q y.2.2 a (a + rtCycles r)

def Tr.routeFlaws (t : Tr) : List Flaw :=
  let own := t.goodRoutes.map fun x => (x.1, x.2, t.s.rtLinks t.a t.p x.1)
  let other := t.rest.flatMap fun o => o.2.routes.map fun q => (q, t.s.rtLinks o.1 o.2 q)
  (t.p.routes.zipIdx.flatMap fun x => flawIf (t.rtBad x.1) (recFlaw stBadField 0xB0 x.2))
    ++ own.flatMap fun x =>
      flawIf (own.any fun y => decide (y.2.1 < x.2.1) && together (rtEvery x.1) (rtTurn x.1) (rtEvery y.1) (rtTurn y.1)
          && linksClash x.1 x.2.2 y.1 y.2.2) (recFlaw stBadField 0xA2 x.2.1)
        ++ flawIf (other.any fun y => linksClash x.1 x.2.2 y.1 y.2) (recFlaw stQuota 0x46 x.2.1)

/-- Entries of a loaded plan in router `n`, at its largest plan turn. -/
def State.rtMost (s : State) (x : Nat × Plan) (n : Nat) : Nat :=
  ((List.range x.2.l).map fun j => ((x.2.routes.filter fun q => rtApplies q j).flatMap fun q => s.rtRouters x.1 x.2 q).count n).foldl max 0

/-- ROUTE_FULL (R327): the record whose entry is the 257th of a router in some plan turn. -/
def Tr.fullFlaws (t : Tr) : List Flaw :=
  (List.range t.p.l).flatMap fun j =>
    let own := (t.goodRoutes.filter fun x => rtApplies x.1 j).map fun x => (x.2, t.s.rtRouters t.a t.p x.1)
    own.zipIdx.flatMap fun x => flawIf (x.1.2.any fun n =>
      decide (256 < (t.rest.map fun o => t.s.rtMost o n).sum + ((own.take (x.2 + 1)).flatMap (·.2)).count n)) (recFlaw stQuota 0xB5 x.1.1)

/-! ## LINKS (R339 to R345) -/

/-- LINK_FORM of the fields alone. -/
def Tr.lkBad (t : Tr) (r : Bytes) : Bool :=
  let k := lkKind r
  k == 3 || bits (fieldAt r 0 1) 4 4 != 0 || (lkEvery r && lkTurn r != 0) || decide (t.p.l ≤ lkTurn r) || decide (11 < lkPort r)
    || bits (fieldAt r 6 2) 9 7 != 0 || bits (fieldAt r 16 1) 4 4 != 0 || bits (fieldAt r 17 1) 6 2 != 0 || bits (fieldAt r 18 2) 13 3 != 0
    || !zeroAt r 22 10
    || (match k with
      | 0 => lkShare r != 0 || lkTurn r != 0 || lkExch r != 0 || lkB r != 0 || !zeroAt r 16 6
      | 1 => lkDir r != 0 || decide (lkShare r < 1) || decide (lkB r < 1) || decide (65535 < lkB r) || !zeroAt r 17 3
          || decide (lkLines r < 1) || decide (1024 < lkLines r)
      | _ => lkDir r != 0 || lkShare r != 0 || decide (lkLines r < 1) || decide (1024 < lkLines r) || decide (32 * t.p.tiles ≤ lkCore r)
          || (match t.p.slotOf (lkCore r) (lkSlot r) with
            | some d => slKind d != 2 || decide (slLen d < 128 * lkLines r)
            | none => true))

def Tr.goodLinks (t : Tr) : List (Bytes × Nat) := t.p.links.zipIdx.filter fun x => !t.lkBad x.1


/-- The budget of a port and direction. -/
def Plan.budget (p : Plan) (port dir : Nat) : Option Nat :=
  (p.links.find? fun r => lkKind r == 0 && lkPort r == port && lkDir r == dir).map lkA

/-- The least budget of a port (R76). -/
def State.leastBudget (s : State) (port : Nat) : Nat :=
  cdiv ((s.get (F.AQD_RANGE_DL port) + s.get (F.AQD_RANGE_VL port) + 320) * s.freq) 8000000000

def lkServes (r : Bytes) (k : Nat) : Bool := decide (lkA r ≤ k) && decide (k < lkA r + lkB r)
/-- Quads of slot `k` that a list of SENDs takes. -/
def quadsAt (l : List Bytes) (k : Nat) : Nat := ((l.filter fun r => lkServes r k).map lkShare).sum

/-- The SENDs of a list on a port. -/
def sendsOn (port : Nat) (l : List Bytes) : List Bytes := l.filter fun r => lkKind r == 1 && lkPort r == port

/-- What a record of LINKS that names a port is asked in form or not (R74, R198): the port's state and its peer, budgets, DUE, EXCH_ID. -/
def Tr.portFlaws (t : Tr) (x : Bytes × Nat) : List Flaw :=
  let s := t.s
  let r := x.1
  let k := lkKind r
  let port := lkPort r
  if k = 3 ∨ 11 < port then []
  else
    flawIf (s.apState port != apUp || s.get (F.AQD_PEER_PEER_ID port) != lkPeer r) (recFlaw stState 0xB3 x.2)
      ++ flawIf (k == 0 && decide (lkA r < s.leastBudget port)) (recFlaw stBadField 0x47 x.2)
      ++ flawIf (k != 0 && t.p.links.zipIdx.any fun y => decide (y.2 < x.2) && lkPort y.1 == port && lkKind y.1 == k && lkExch y.1 == lkExch r)
          (recFlaw stBadField 0xA2 x.2)
      ++ flawIf (k == 2 && decide (t.lim < lkB r)) (recFlaw stBadField 0x40 x.2)
      ++ flawIf (k == 2 && decide (lkB r < lkA r + (t.p.budget port 1).getD 0)) (recFlaw stBadField 0x47 x.2)

/-- Causes of the records of LINKS. -/
def Tr.linkFlaws (t : Tr) : List Flaw :=
  let s := t.s
  let good := t.goodLinks
  let other := t.rest.flatMap fun o => o.2.links
  (t.p.links.zipIdx.flatMap fun x => flawIf (t.lkBad x.1) (recFlaw stBadField 0xB2 x.2) ++ t.portFlaws x)
    ++ good.flatMap fun x =>
      let r := x.1
      let k := lkKind r
      let port := lkPort r
      let before := good.filter fun y => decide (y.2 < x.2) && lkPort y.1 == port && lkKind y.1 == k
      let sends := before.filter fun _ => k == 1
      let theirs := sendsOn port other
      let inTurn (j : Nat) : List Bytes := ((good.filter fun y => lkApplies y.1 j).map (·.1))
      flawIf ((k == 0 && before.any fun y => lkDir y.1 == lkDir r) || (k != 0 && (t.p.budget port (k - 1)).isNone)
          || decide (112 ≤ sends.length)) (recFlaw stBadField 0xB2 x.2)
        ++ flawIf (k == 1 && (List.range t.p.l).any fun j => lkApplies r j && (sendsOn port (inTurn j)).any fun q =>
            lkServes r (lkA q) && decide (s.qSlot < quadsAt (sendsOn port (inTurn j)) (lkA q))) (recFlaw stBadField 0xB4 x.2)
        ++ flawIf (k == 1 && (r :: theirs).any fun q => lkServes r (lkA q) && decide (0 < quadsAt theirs (lkA q))
            && decide (s.qSlot < quadsAt (sendsOn port (good.map (·.1)) ++ theirs) (lkA q))) (recFlaw stQuota 0x46 x.2)
        ++ flawIf (k == 1 && decide (1024 < (theirs.map lkLines).sum + ((sends.map fun y => lkLines y.1).sum + lkLines r)))
            (recFlaw stQuota 0x46 x.2)
        ++ flawIf (k == 2 && other.any fun q => lkKind q == 2 && lkPort q == port && lkPeer q == lkPeer r && lkExch q == lkExch r)
            (recFlaw stQuota 0x46 x.2)

/-! ## Transfers over the canal network (R321 to R326, R340 to R343) -/

/-- Laterals of a plan turn that serve a transfer. -/
def Tr.laterals (t : Tr) (j : Nat) (f : Bytes → Bool) : List Bytes := (t.goodRoutes.map (·.1)).filter fun r => rtApplies r j && f r

/-- A MOV REMOTE to a core. -/
def Tr.remoteFlaws (t : Tr) (x : Xfer) : List Flaw :=
  let core := t.phy x.core
  let no := [cmdFlaw stBadField 0xB1 x.idx core]
  let n := cmdImm16 x.w
  let tile := aCore x.addr / 32
  let late (h c : Nat) : List Flaw := flawIf (decide (t.lim < x.s + (occLat t.p.profile x.w n h c).2)) (cmdFlaw stBadField 0x40 x.idx core)
  match (t.s.tilesOf t.a).findIdx? (· == tile) with
  | none => no
  | some d =>
    if d = x.core / 32 then late 0 0
    else
      match t.laterals x.turn (fun r => rtKind r == 0 && rtSrc r == x.core / 32 && rtDst r == d && rtSpan r x.s (x.s + n - 1)) with
      | [r] => if t.p.geo = 1 then late 23 1
               else let h := hopsOf (t.s.phyTile t.a (x.core / 32)) tile (rtBridge r); late h.1 h.2
      | _ => no

/-- A MOV to a gate. -/
def Tr.gateFlaws (t : Tr) (x : Xfer) (group : List Xfer) : List Flaw :=
  let core := t.phy x.core
  let bad := [cmdFlaw stBadField 0xB2 x.idx core]
  let k := aCore x.addr - 4608
  let n := cmdImm16 x.w
  match t.p.links[k]? with
  | none => bad
  | some r =>
    if lkKind r ≠ 1 ∨ 3584 ≤ k ∨ x.addr % 2 ^ 17 ≠ 0 ∨ x.inLoop ∨ lkApplies r x.turn = false ∨ n ≠ lkLines r
        ∨ (group.any fun y => cmdOp y.w == 1 && aCore y.addr == aCore x.addr && (decide (y.s < x.s) || (y.s == x.s
            && (decide (y.idx < x.idx) || (y.idx == x.idx && decide (y.core < x.core)))))) then bad
    else
      let first := max (lkA r) (cdiv (x.s + n + (if t.native then 128 else 160)) 128)
      let u := cdiv n (7 * max 1 (lkShare r))
      (match t.laterals x.turn (fun q => rtKind q == 2 && rtSrc q == x.core / 32 && rtUnit q == lkChannel r && rtSpan q x.s (x.s + n - 1)) with
        | [_] => []
        | _ => [cmdFlaw stBadField 0xB1 x.idx core])
        ++ flawIf (decide (lkA r + lkB r < first + u)) (cmdFlaw stBadField 0xB4 x.idx core)
        ++ flawIf (decide (t.lim < 128 * (first + u) + (t.p.budget (lkPort r) 0).getD 0)) (cmdFlaw stBadField 0x40 x.idx core)

/-- The records of FLUME transfers and of RECVs need a lateral. -/
def Tr.servedFlaws (t : Tr) : List Flaw :=
  ((t.goodResv.filter fun x => rvKind x.1 == 1).flatMap fun x => match t.flBound x.1 with
    | none => []
    | some b => flawIf ((List.range t.p.l).any fun j => rvApplies x.1 j && (t.laterals j fun r => rtKind r == 1 && rtUnit r == rvUnit x.1
        && rtSrc r == rvFirstTile x.1 && rtDst r == rvTiles x.1 && rtSpan r (rvStamp x.1) b).length != 1) (recFlaw stBadField 0xB1 x.2))
    ++ (t.goodLinks.filter fun x => lkKind x.1 == 2).flatMap fun x =>
      flawIf ((List.range t.p.l).any fun j => lkApplies x.1 j && (t.laterals j fun r => rtKind r == 3 && rtUnit r == lkChannel x.1
        && rtDst r == lkCore x.1 / 32 && rtSpan r (lkA x.1) (lkB x.1)).length != 1) (recFlaw stBadField 0xB1 x.2)

/-- Every check of the transfers that the commands make. -/
def Tr.moveFlaws (t : Tr) (m : Moves) : List Flaw :=
  (t.turns m).flatMap fun x =>
    t.memFlaws x.2 [] ++ t.hostFlaws x.1 x.2
      ++ (x.2.filter fun y => cmdOp y.w == 1).flatMap fun y =>
        if 4608 ≤ aCore y.addr then t.gateFlaws y x.2 else if cmdImm16 y.w = 0 then [] else t.remoteFlaws y

/-! ## Units (R21, R22, R485, R544) -/

/-- The units that a plan needs, in the order of R21. -/
def Tr.units (t : Tr) (m : Moves) : List Nat :=
  let tiles := t.s.tilesOf t.a
  let used := (t.p.resv.filterMap rvStack)
    ++ (m.flatMap fun x => x.1.flatMap fun l => (l.filter fun y => cmdOp y.w == 2 || cmdOp y.w == 3).map fun y => stackOf y.addr)
    ++ t.p.deliveries.flatMap fun r => ((t.deliverySrc r).getD []).map fun x => stackOf x.1
  let dies := [tiles.any fun x => !south x, tiles.any south]
  let port (p : Nat) : Bool := t.p.links.any fun r => lkPort r == p
  tiles ++ ((List.range 8).filter used.contains).map (144 + ·)
    ++ ((List.range 2).filter fun i => dies.getD i false).map (168 + ·)
    ++ (if dies = [true, true] then [170, 171] else [])
    ++ ((List.range 16).filter t.p.flumeNamed).map (152 + ·)
    ++ ((List.range 12).filter port).map (172 + ·)

/-- UNIT_MISSING: a unit that does not work, a gated tile, or a water clock without the discipline of R22. -/
def Tr.unitFlaws (t : Tr) (m : Moves) : List Flaw :=
  let w := t.s.wckState
  let no := (t.units m).find? fun u => !t.s.working u || (decide (u < 144) && t.s.tileGated u)
  match no with
  | some u => [⟨stState, 0x2C, u, 0, 2 ^ 32, 0⟩]
  | none => flawIf (t.p.links != [] && (w == wckFreeRun || w == wckDoubt || t.s.get F.WCK_STATE_SOURCE == 0)) ⟨stState, 0x2C, 259, 0, 2 ^ 32, 0⟩

end Sys2Proof.Machine
end

