-- ==== Sys2Proof/Machine/Load.lean ====
section
/-! DEFINITION. SCHED_LOAD, SCHED_ARM, SCHED_STOP, SCHED_UNLOAD: the verdict of a load (R74, R198), the plan it holds, the
transitions of Table 5-2. -/

namespace Sys2Proof.Machine

/-! ## The verdict of a load -/

/-- The Acnik commands of an image, as numbers. -/
def imCommands (p : Plan) : List Nat := (recs 20 (p.sec 1)).map leNat

/-- The translator's view of an image for a load. -/
def State.trOf (s : State) (v : LoadView) (b : Bytes) : Tr :=
  let a := v.ord.allot
  let p := planOf b
  { s := s.setAllot a { s.allot a with rights := v.rights }, a := a, root := v.root, levels := v.levels, p := p
    n := s.get F.WCK_TURN_CYCLES_COUNT, map := imMap b, cmds := imCommands p }

/-- Moves of every core, and the flaws of their addresses. -/
def Tr.moves (t : Tr) : List (List Flaw × List (List Xfer) × Nat) :=
  t.cores.map fun c =>
    let x := t.addresses c
    (x.1, x.2.1.map (List.filter fun y => !y.refused), x.2.2)

/-- Every failed check of an image. -/
def Tr.flaws (t : Tr) (b : Bytes) : List Flaw :=
  if b.length < 192 then [planFlaw stBadLength 0x61]
  else
    let m := t.moves
    let w := m.map (·.2)
    flawIf (lengthBad b) (planFlaw stBadLength 0x61) ++ flawIf (headerBad b) (planFlaw stBadField 0x60) ++ t.planFlaws
      ++ (t.cmds.zipIdx.flatMap fun x => t.commandFlaws x.2 x.1) ++ t.cores.flatMap t.storeFlaws ++ m.flatMap (·.1)
      ++ t.slotFlaws ++ t.deliveryFlaws ++ t.recordFlaws ++ t.shareFlaws ++ t.flumeFlaws ++ t.capacityFlaw ++ t.routeFlaws
      ++ t.fullFlaws ++ t.linkFlaws ++ t.servedFlaws ++ t.moveFlaws w ++ t.unitFlaws w

/-- An image as a load has read it: its bytes, zero where they could not be read; those places, offset and length; the flaws of the reading. -/
structure ImageRead where
  bytes : Bytes
  gaps : List (Nat × Nat)
  flaws : List Flaw
  deriving DecidableEq, Repr

/-- `n` bytes from an offset on have been read. -/
def ImageRead.has (r : ImageRead) (off n : Nat) : Bool := r.gaps.all fun g => !meets off n g.1 g.2

/-- The commands that have been read whole, with their indices: those of the COMMANDS section. -/
def ImageRead.commands (r : ImageRead) (t : Tr) : List (Nat × Nat) :=
  let off := ((imEntries r.bytes).find? fun e => e.1 == 1).elim 0 (·.2.1)
  t.cmds.zipIdx.filter fun x => r.has (off + 20 * x.2) 20

/-- Every section but COMMANDS, and the header, has been read. -/
def ImageRead.framed (r : ImageRead) : Bool := r.has 0 192 && (imEntries r.bytes).all fun e => e.1 == 1 || r.has e.2.1 e.2.2.1

/-- The failed checks of what has been read (R198). With a part missing these are the checks of the header, of each command by itself, and,
where every other section stands, of the records by themselves (DESIGN CHOICE, log entry 49). -/
def Tr.flawsRead (t : Tr) (r : ImageRead) : List Flaw :=
  let b := r.bytes
  if r.gaps = [] then t.flaws b
  else if b.length < 192 then [planFlaw stBadLength 0x61]
  else if !r.has 0 192 then []
  else
    flawIf (lengthBad b) (planFlaw stBadLength 0x61) ++ flawIf (headerBad b) (planFlaw stBadField 0x60) ++ t.planFlaws
      ++ (if r.framed then ((r.commands t).flatMap fun x => t.commandFlaws x.2 x.1) ++ t.slotFlaws ++ t.deliveryFlaws ++ t.recordFlaws
            ++ t.shareFlaws ++ t.capacityFlaw ++ t.routeFlaws ++ t.fullFlaws ++ t.linkFlaws
          else [])

/-- Granules with the permission bits that a range of physical pieces uses. -/
def piecesUse (b : Nat) (l : List (Nat × Nat × Nat)) : List (Nat × Nat) :=
  l.flatMap fun x => (List.range (cdiv (x.1 % pageSize + x.2.2) pageSize)).map fun i => (x.1 / pageSize + i, 2 ^ b)

/-- The pieces of a FLUME record's source. -/
def Tr.flPieces (t : Tr) (r : Bytes) : List (Nat × Nat × Nat) :=
  match t.pieces permPlanRead (pagesOf (rvSrc r) (rvRead r)) with
  | .ok l => l
  | .error _ => []

/-- The plan as it is held once its checks have passed. -/
def Tr.held (t : Tr) : Plan :=
  let p := t.p
  let fl := p.resv.filter fun r => rvKind r == 1
  let moves := (t.moves.flatMap fun x => x.2.1.flatten).filter fun x => cmdOp x.w == 2 || cmdOp x.w == 3
  let dv := p.deliveries.map fun r => (dvSrc r, (t.deliverySrc r).getD [])
  { p with
    uses := ((moves.flatMap fun x => piecesUse (if cmdOp x.w = 2 then permPlanRead else permPlanWrite) [(x.addr, 0, 128 * cmdImm16 x.w)])
      ++ (fl.flatMap fun r => piecesUse permPlanRead (t.flPieces r)) ++ (dv.flatMap fun x => piecesUse permPlanRead x.2)).dedup
    pages := (fl.foldl (fun m r => pageMap (rvSrc r) (t.flPieces r) m) (dv.foldl (fun m x => pageMap x.1 x.2 m) []))
    mods := ((t.cmds.flatMap fun x => modsNamed (acWord x))
      ++ fl.flatMap fun r => if rvSeeded r then (List.range (rvP r / max 1 (rvLimbLines r))).map (rvModslot r + ·) else []).dedup }

/-- The entries of each physical core. -/
def Tr.banks (t : Tr) : SMap (List Entry) := t.cores.foldl (fun m c => smSet [] m (t.phy c) (t.entries c)) []

/-- What a load's checks give. A fault of the image's own pages is recorded as they are read. -/
def Tr.verdict (t : Tr) (o : Ord) (r : ImageRead) : PlanLoad :=
  let fs := t.flawsRead r
  let walk := firstFlaw (fs.filter fun f => f.status == stWalk)
  match firstFlaw (r.flaws ++ fs) with
  | some f => ⟨o, some (f.status, f.detail), walk.map fun w => (w.walk, w.cause), t.p, []⟩
  | none => ⟨o, none, none, t.held, t.banks⟩

/-! ## SCHED_LOAD -/

def slAddr (o : Ord) : Nat := o.field 16 8 - o.field 16 8 % 2
def slLoc (o : Ord) : Bool := bit (o.field 16 1) 0
def slBytes (o : Ord) : Nat := o.field 24 4

/-- The reads of turnout entries that the walks of a load make, with the rights of its grant. -/
def State.readTablesFor (s : State) (v : LoadView) (ok : Nat → Bool) (l : List (Nat × Nat × Nat)) : State :=
  let a := v.ord.allot
  let x := s.allot a
  let t := l.foldl (fun (t : State) g => t.readTables a v.root v.levels ok [g]) (s.setAllot a { x with rights := v.rights })
  t.setAllot a { t.allot a with rights := x.rights }

/-- The pages that a load's checks walk, each once: those of SETA, of transfers of allotment memory, also those refused, of
FLUME records and of deliveries. -/
def Tr.walked (t : Tr) (r : ImageRead) : List (Nat × Nat × Nat) :=
  let seta := (if r.framed then r.commands t else []).filterMap fun x =>
    if isSeta (acWord x.1) ∧ bits (cmdImm (acWord x.1)) 45 3 = 2 then some (setaAddr x.1, 1) else none
  let moves := ((if r.gaps = [] then t.cores else []).flatMap fun c => (t.addresses c).2.1.flatten).filterMap fun x =>
    if (cmdOp x.w = 2 ∨ cmdOp x.w = 3) ∧ x.va + 128 * cmdImm16 x.w ≤ 2 ^ 48 then some (x.va, 128 * cmdImm16 x.w) else none
  let fl := ((if r.gaps = [] then t.p.resv else []).filter fun r => rvKind r == 1 && decide (rvRead r ≤ stackSize)).map fun r =>
    (rvSrc r, rvRead r)
  let dv := (if r.framed then t.p.deliveries else []).map fun r => (dvSrc r, dvLen r)
  ((seta ++ moves ++ fl ++ dv).flatMap fun x => (pagesOf x.1 x.2).map fun g => (g.1 / pageSize * pageSize, 0, pageSize)).dedup

/-- One page of the image, walked: what it adds to what has been read. -/
def State.readPage (a : Nat) (x : ImageRead × State) (g : (Nat × Nat × Nat) × Except Nat Nat) : ImageRead × State :=
  let r := x.1
  match g.2 with
  | .error _ => ({ r with bytes := r.bytes ++ List.replicate g.1.2.2 0, gaps := r.gaps ++ [g.1.2] }, x.2)
  | .ok p =>
    let y := x.2.readFor p g.1.2.2 1 a
    let bad := (blocksOf p g.1.2.2).filter fun b => !(x.2.blockEcc b).usable
    ({ bytes := r.bytes ++ y.1
       gaps := r.gaps ++ bad.map fun b => (g.1.2.1 + (64 * b - p), 64)
       flaws := if bad = [] ∨ r.flaws ≠ [] then r.flaws else [planFlaw stEcc 0x65] }, y.2.2)

/-- The image: from host memory as the operand gives it, or from allotment memory (R157, R154). The entries of the turnout that its walk
reads are read whether or not it ends in a fault (R307). The first fault of its pages is recorded, and the rest is read and checked (R198);
a sealed page that an open order may not read ends the load. -/
def State.readImage (s : State) (v : LoadView) : Except Why ImageRead × State :=
  let o := v.ord
  let a := o.allot
  if !slLoc o then (.ok ⟨padTo (slBytes o) (o.host.take (slBytes o)), [], []⟩, s)
  else
    let s' := s.setAllot a { s.allot a with rights := v.rights }
    let ok := orderMay o.isSealed permHostRead
    let pages := (pagesOf (slAddr o) (slBytes o)).map fun g => (g, s'.walk a v.root v.levels g.1 ok)
    let t := s.readTablesFor v ok (pages.map (·.1))
    let read (t : State) : ImageRead × State := pages.foldl (State.readPage a) (⟨[], [], []⟩, t)
    match pages.findSome? fun x => match x.2 with | .error c => some (x.1.1, c) | .ok _ => none with
    | none => let r := read t; (.ok r.1, r.2)
    | some (at_, c) =>
      let w : Why := ⟨stWalk, c, at_ / pageSize, 0⟩
      if !o.isSealed && (s'.walk a v.root v.levels at_ (fun w => bit w permSealed)).isOk then (.error (whyRight 0x2A 0), t)
      else
        let r := read (t.orderFault a w)
        (.ok { r.1 with flaws := r.1.flaws ++ [⟨stWalk, c, w.value, 0, 2 ^ 32, 0⟩] }, r.2)

/-- The translator takes up a load (R196). -/
def State.translateLoad (s : State) (o : Ord) : State :=
  match (s.allot o.allot).loading with
  | none => s
  | some v =>
    match s.readImage v with
    | (.error w, s) => (s.dropStandby o.allot).failWalk o w
    | (.ok r, s) =>
      let t := s.trOf v r.bytes
      { s.readTablesFor v (fun _ => true) (t.walked r) with load := some (t.verdict o r) }

/-- In ARMED a load is refused as Table 4-11 has it, whatever the standby bank holds; STANDBY_ARMED is the cause of a load behind a
running plan (DESIGN CHOICE, log entry 91). -/
def specSchedLoad : Spec where
  op := 0x0200
  permit := [1, 2, 4]
  changes := true
  state s o :=
    let gated := (s.tilesOf o.allot).find? s.tileGated
    [(((s.allot o.allot).armed.isSome && (s.allot o.allot).standby.isSome), whyState (0x64 + 0xFFFF * 2 ^ 16) 0xFFFFFFFF),
     (gated.isSome, unitMissing (gated.getD 0))]
  fields _ o := [rg (slLoc o && decide (2 ^ 48 ≤ slAddr o)) 16,
    rg (slBytes o % 64 != 0 || decide (slBytes o < 64) || decide (0x40000000 < slBytes o)) 24]
  body s o :=
    let x := s.allot o.allot
    let s := (s.setAllot o.allot { x with loading := some ⟨o, x.rights, s.turnoutRoot o.allot, s.turnoutLevels o.allot⟩ }).put (F.ALT_STATE_BUSY o.allot) 1
    s.serve o s.load.isSome (·.translateLoad o)

def execSchedLoad (q : Nat) (host : Bytes) (s : State) : Host.Outcome State Fault Refusal := unit 64 q s (order specSchedLoad q host)

/-- The entries of a load stand in the standby banks, valid (R180). -/
def State.fillStandby (s : State) (a : Nat) (banks : SMap (List Entry)) : State :=
  (s.coresOf a).foldl (fun s c =>
    let x := s.core c
    let e := smGet [] banks c
    (s.setCore c (if s.on (F.TIL_CORE_STATE_ACTIVE_BANK c) then { x with bank0 := e } else { x with bank1 := e })).put (F.TIL_CORE_STATE_STANDBY_VALID c) 1) s

/-- A load ends DONE: the transitions of Table 5-2. -/
def State.planHeld (s : State) (a : Nat) (p : Plan) (banks : SMap (List Entry)) : State :=
  let st := s.altState a
  let x := s.allot a
  let s := s.setAllot a { x with active := if st = 4 ∨ st = 5 then x.active else none, standby := some p }
  let s := s.fillStandby a banks
  if st = 1 then s.put (F.ALT_STATE_STATE a) 2 else s

/-- The translator ends the load of an allotment (R180, R197, R198). -/
def planLoadEnd (a : Nat) (s : State) : State :=
  match s.load with
  | none => s
  | some l =>
    if l.ord.allot ≠ a then s
    else match l.fail with
      | none => (s.planHeld a l.plan l.banks).done l.ord 0 (fieldAt l.plan.meas 0 8)
      | some f =>
        let s := match l.walk with
          | some w => s.walkFault a w.1 w.2 0
          | none => s
        (s.dropStandby a).finish l.ord f.1 0 f.2

def execPlanLoadEnd (a : Nat) (s : State) : Host.Outcome State Fault Refusal := unit 16 a s (planLoadEnd a)

/-! ## SCHED_ARM, SCHED_STOP, SCHED_UNLOAD -/

/-- The plan that SCHED_ARM arms: the standby plan, or a plan that ran and stayed loaded. -/
def Allot.target (x : Allot) (st : Nat) : Option Plan :=
  match x.standby with
  | some p => some p
  | none => if st = 2 then x.active else none

/-- Every landing-slot valid bit of an allotment is 0 (R77). -/
def State.clearValid (s : State) (a : Nat) : State :=
  (s.coresOf a).foldl (fun s c =>
    let x := s.core c
    s.setCore c { x with slots := x.slots.map fun y => (y.1, { y.2 with valid := false }) }) s

def specSchedArm : Spec where
  op := 0x0201
  permit := [2, 4]
  changes := true
  state s o :=
    let x := s.allot o.allot
    let st := s.altState o.allot
    [((x.target st).isNone || x.armed.isSome, whyState 0x2B st),
     ((match x.target st with | some p => p.nplan != s.get F.WCK_TURN_CYCLES_COUNT | none => false),
       whyState (0x43 + 0xFFFF * 2 ^ 16) 0xFFFFFFFF)]
  fields _ o := [rz o 22 6]
  late s o := match namedTurn s (o.field 16 6) with | some w => [(true, w)] | none => []
  body s o :=
    let a := o.allot
    let s := (s.took o).setAllot a { s.allot a with armed := some ⟨o, o.field 16 6⟩ }
    if s.altState a = 2 then (s.clearValid a).put (F.ALT_STATE_STATE a) 3 else s

def execSchedArm (q : Nat) (s : State) : Host.Outcome State Fault Refusal := unit 64 q s (order specSchedArm q [])

def specSchedStop : Spec where
  op := 0x0202
  permit := [3, 4]
  changes := true
  fields _ o := [rz o 22 6]
  late s o := match namedTurn s (o.field 16 6) with | some w => [(true, w)] | none => []
  body s o :=
    let x := s.allot o.allot
    s.setAllot o.allot { x with stops := x.stops ++ [(o, o.field 16 6)] }

def execSchedStop (q : Nat) (s : State) : Host.Outcome State Fault Refusal := unit 64 q s (order specSchedStop q [])

def specSchedUnload : Spec where
  op := 0x0203
  permit := [2, 6]
  changes := true
  fields _ o := [rz o 16 12]
  body s o :=
    let s := s.unloadPlans o.allot
    let s := if s.altState o.allot = 2 then s.put (F.ALT_STATE_STATE o.allot) 1 else s
    s.done o

def execSchedUnload (q : Nat) (s : State) : Host.Outcome State Fault Refusal := unit 64 q s (order specSchedUnload q [])

/-- DRAINING ends: every delivery has its ledger outcome. A plan loaded behind the one that ran takes its place. -/
def drainComplete (a : Nat) (s : State) : State :=
  let x := s.allot a
  if s.altState a ≠ 5 ∨ x.delivs ≠ [] then s
  else
    let s := match x.runOrd with
      | some o => s.endRun a o
      | none => s
    let s := s.endStops a
    let y := s.allot a
    (s.setAllot a { y with active := if y.standby.isSome then none else y.active, runOrd := none }).put (F.ALT_STATE_STATE a) 2

def execDrainComplete (a : Nat) (s : State) : Host.Outcome State Fault Refusal := unit 16 a s (drainComplete a)

end Sys2Proof.Machine
end

