-- ==== Sys2Proof/Machine/Deliver.lean ====
section
/-! DEFINITION. Deliveries (R91 to R93, R304, R468, R469). -/

namespace Sys2Proof.Machine

/-- The turn whose g = 0 is the release point (R91). -/
def Delivery.release (d : Delivery) : Nat := (d.startTurn + dvHold d.rec_) % 2 ^ 48

/-- The tags of a sealed source hold a share or a poisoned tag (R93). A tag that cannot be read is poisoned (R308). -/
def State.scanTags (s : State) (d : Delivery) : Bool :=
  let first := dvSrc d.rec_ / 128 * 128
  let last := (dvSrc d.rec_ + dvLen d.rec_ - 1) / 128 * 128
  (List.range ((last - first) / 128 + 1)).any fun i =>
    let t := (s.peekUnit d.key (xl d.pages (first + 128 * i)) s.wck.cycle).2.toNat
    bit t 46 || (decide (6 ≤ tScheme t) && decide (tScheme t ≤ 8))

/-- A delivery begins at its start stamp (R93, R465). -/
def deliveryStart (a k : Nat) (s : State) : State :=
  match (s.allot a).active with
  | none => s
  | some p =>
    let r := p.deliveries.getD k []
    let x := s.allot a
    let again := x.delivs.any (fun d => d.startTurn == s.wck.turn && dvId d.rec_ == dvId r)
      || x.ledger.any fun e => e.turn == s.wck.turn && e.cycle == dvStamp r && e.devId == dvId r && e.reason == 2
    if !s.planRuns a || r == [] || dvTurn r != x.planTurn || decide (dvStamp r < s.wck.cycle) || again then s
    else
      let s := (s.coresTo (dvStamp r)).advanceTo (dvStamp r)
      let x := s.allot a
      let d : Delivery := ⟨r, x.planTurn, s.wck.turn, dvStamp r, false, p.meas, p.pages⟩
      if !s.planRuns a then s
      else if dvSealed r then
        if s.scanTags d then s.recordDelivery a (d.entry 1 2 0 false)
        else s.setAllot a { x with delivs := x.delivs ++ [d] }
      else s.setAllot a { x with delivs := x.delivs ++ [d] }

def execDeliveryStart (a record : Nat) (s : State) : Host.Outcome State Fault Refusal := unit 16 a s (deliveryStart a record)

/-- The delivery's outcome is recorded, and it is no longer in flight. -/
def State.endDelivery (s : State) (a : Nat) (d : Delivery) (outcome reason bytes : Nat) (margin : Bool) : State :=
  let r := s.sendBlocks a d bytes
  let x := r.2.allot a
  (r.2.setAllot a { x with delivs := x.delivs.erase d }).recordDelivery a (r.1.entry outcome reason bytes margin)

/-- The last byte of the oldest delivery in flight is written by its release point; `tie`: in the very cycle of it; `shut`: in the
detection cycle of a sluice whose doubt comes next (R469; log entry 60). -/
def deliveryComplete (a id : Nat) (tie shut : Bool) (s : State) : State :=
  let s := s.coresTo s.wck.cycle
  match (s.allot a).delivs with
  | [] => s
  | d :: _ =>
    if dvId d.rec_ ≠ id then s
    else
      let at_ := s.guardCycle 0
      if shut then
        if turnPassed s d.release || (s.wck.turn == d.release && decide (at_ < s.wck.cycle)) then s
        else s.endDelivery a d 0 0 (dvLen d.rec_) true
      else if tie then
        if s.wck.turn = d.release ∧ s.wck.cycle ≤ at_ then (s.atGuard 0).endDelivery a d 0 0 (dvLen d.rec_) true else s
      else if turnPassed s d.release || (s.wck.turn == d.release && decide (at_ ≤ max s.wck.cycle (d.startCycle + 1))) then s
      else
        let s := if s.wck.turn = d.startTurn then s.advanceTo (max s.wck.cycle (d.startCycle + 1)) else s
        s.endDelivery a d 0 0 (dvLen d.rec_) false

def execDeliveryComplete (a id : Nat) (tie shut : Bool) (s : State) : Host.Outcome State Fault Refusal :=
  unit 16 a s (deliveryComplete a id tie shut)

/-- The release point passes first: what has been sent stays sent, and the rest never goes. Deliveries go in start-stamp
order, so only the oldest has sent anything (R304). -/
def deliveryRelease (a id sent : Nat) (s : State) : State :=
  let s := s.coresTo s.wck.cycle
  match (s.allot a).delivs.find? fun d => dvId d.rec_ == id with
  | none => s
  | some d =>
    match turnsAhead s.wck.turn d.release with
    | some (_ + 1) => s
    | m =>
      let head := (s.allot a).delivs.head? == some d
      let s := if m = some 0 ∧ s.wck.cycle ≤ s.guardCycle 0 then s.atGuard 0 else s
      s.endDelivery a d 1 1 (if head then min (sent / 64 * 64) (dvLen d.rec_ - 64) else 0) false

def execDeliveryReleasePoint (a id sent : Nat) (s : State) : Host.Outcome State Fault Refusal :=
  unit 16 a s (deliveryRelease a id sent)

end Sys2Proof.Machine
end

