-- ==== Sys2Proof/Machine/Fetch.lean ====
section
/-! DEFINITION. Fetching orders from their rings (R96, R97, R113), the orders that no row serves (R105, R106), and the start
of orders that waited for a unit (R112). -/

namespace Sys2Proof.Machine

/-- The opcodes of Tables 4-8 to 4-10. -/
def opcodes : List Nat :=
  [0x0100, 0x0101, 0x0102, 0x0110, 0x0111, 0x0112, 0x0120, 0x0121, 0x0122, 0x0200, 0x0201, 0x0202, 0x0203, 0x0300, 0x0301, 0x0302,
   0x0400, 0x0401, 0x0402, 0x0500, 0x0501, 0x0502, 0x0503, 0x0510, 0x0520, 0x0600, 0x0601, 0x0602, 0x0603]
  ++ [0x0700, 0x0701, 0x0702, 0x0703, 0x0704, 0x0710, 0x0800, 0x0801, 0x0802, 0x0900, 0x0901, 0x0A00, 0x0A01, 0x0A02, 0x0B00, 0x0B01,
   0x0C00, 0x0C01, 0x0D00, 0x0D01]

/-- Sub-operation codes of BNE_OP that Table 18-1 lists. -/
def bneCodes : List Nat := [0x00, 0x01, 0x02, 0x03, 0x04, 0x10, 0x11, 0x12, 0x13, 0x14, 0x20, 0x21, 0x22, 0x23, 0x28, 0x29]

/-- A SYM_OP that R439 lists. -/
def symKnown (b : Bytes) : Bool := (List.range 8).any fun k => symIs k b

/-! ## The ring -/

/-- `n` units at the head: what the host's memory holds, or what the allotment's does. Queue 0 has no allotment. -/
def State.units (s : State) (q n : Nat) (data : Bytes) : Except Why Bytes × State :=
  if !s.on (F.DR_QBASE_LOC q) then (.ok (padTo (32 * n) (data.take (32 * n))), s)
  else if q = 0 then (.error ⟨stWalk, wfNotPresent, 0, 0⟩, s)
  else s.ringRead q n

/-- A ring read that faults halts the queue with the fault's tally; nothing is consumed. -/
def State.ringFault (s : State) (q : Nat) (w : Why) : State :=
  let s := if q = 0 then s else s.orderFault (s.queue q).bound w
  (s.pushTally q ⟨0, 0, w.status, false, false, false, 0, 0, detailOf w.cause w.value, 0, (s.queue q).bound⟩).haltQueue q w.cause

/-- The Ditch Rider fetches the order at the head, when its units are published. One whose LENGTH exceeds the ring is taken when its first
unit is there, and its CRC covers LENGTH units read round the ring, past the published ones (log entry 61). -/
def State.fetch (s : State) (q : Nat) (data : Bytes) : State :=
  match s.units q 1 data with
  | (.error w, t) => t.ringFault q w
  | (.ok h, t) =>
    let n := hdrLength h
    let need := if 1 ≤ n ∧ n ≤ 2048 ∧ n ≤ s.ringSize q then n else 1
    if s.published q < need then t.setQueue q { t.queue q with short := true }
    else match s.units q (unitsOf h) data with
      | (.error w, t) => t.ringFault q w
      | (.ok x, t) => t.setQueue q { t.queue q with fetched := some x, short := false }

/-! ## Orders that no row of the table serves -/

/-- An order is refused with a status of its own and halts its queue, or does not. -/
def State.reject (s : State) (q : Nat) (b : Bytes) (status detail : Nat) : State :=
  let o := s.mkOrd q b []
  ((s.consume q b).launch o).finish o status 0 detail

/-- The order at the head is granted when no row of the table can be: its CRC, its LENGTH or its opcode refuses it, or its
sub-operation is unknown. -/
def State.grantOther (s : State) (q : Nat) : State :=
  if s.arbWinner ≠ some q then s
  else match (s.queue q).fetched with
    | none => s
    | some b =>
      let n := hdrLength b
      let known := s.wellFormed q b && opcodes.contains (hdrOp b)
      if known && hdrOp b == 0x0500 && !bneCodes.contains (fieldAt b 16 1) then order specBneUnknown q [] s
      else if known && hdrOp b == 0x0510 && !symKnown b then order specSymUnknown q [] s
      else if known then s
      else if s.marked q then s.cancelled q b
      else if orderCrc b ≠ fieldAt b 28 4 then
        ((s.reject q b stBadCrc (detailOf 0x27 (orderCrc b))).crcError q).haltQueue q 0x27
      else if n < 1 ∨ 2048 < n ∨ s.ringSize q < n then (s.reject q b stBadLength (detailOf 0x23 n)).haltQueue q 0x23
      else s.reject q b stBadOpcode (Config.openDetail 0x105 % 2 ^ 40)

def orderFetch (q : Nat) (data : Bytes) (s : State) : State :=
  if s.get (F.DR_QSTAT_STATE q) ≠ 1 ∨ s.on F.SLU_STATUS_WALKER_HALT then s
  else
    let s := if (s.queue q).fetched.isSome || s.published q == 0 then s else s.fetch q data
    s.grantOther q

def execOrderFetch (q : Nat) (data : Bytes) (s : State) : Host.Outcome State Fault Refusal := unit 64 q s (orderFetch q data)

/-! ## Orders that waited for a unit -/

/-- The unit that an order waits for is free. -/
def State.unitFree (s : State) (o : Ord) : Bool :=
  match o.op with
  | 0x0200 => s.load.isNone
  | 0x0510 => s.sym.isNone
  | 0x0703 => !s.turnSetBusy
  | 0x0800 => !s.bsnBusy (bsBasin o)
  | 0x0801 => !s.bsnBusy (bsBasin o)
  | 0x0802 => !s.bsnBusy (bsBasin o)
  | 0x0900 => (s.vis (vpPipe o)).run.isNone
  | 0x0901 => (s.vis (vpPipe o)).run.isNone
  | 0x0A01 => (s.i2c (ixBus o)).ord.isNone
  | 0x0A02 => s.gau.isNone
  | 0x0D00 => s.test.isNone
  | _ => s.bne.isNone

/-- The order starts. -/
def State.startWaiting (s : State) (agree : Bool) (o : Ord) : State :=
  match o.op with
  | 0x0200 => s.translateLoad o
  | 0x0500 => startBne s o
  | 0x0501 => startClear s o
  | 0x0502 => runAttest agree s o
  | 0x0503 => runSession agree s o
  | 0x0510 => match (List.range 8).find? fun k => symIs k o.bytes with
    | some k => startSym k s o
    | none => s
  | 0x0703 => s.acceptTurnSet o
  | 0x0800 => startLoad s o
  | 0x0801 => startBasin s o
  | 0x0802 => startRead s o
  | 0x0900 => startGraph s o
  | 0x0901 => startVis s o
  | 0x0A01 => startI2c s o
  | 0x0A02 => startGau s o
  | 0x0D00 => startTest s o
  | _ => s

/-- The first order in grant order whose unit is free starts. -/
def busyUnitStart (agree : Bool) (s : State) : State :=
  match s.waiting.find? s.unitFree with
  | none => s
  | some o => { s with waiting := s.waiting.filter fun x => x.id != o.id }.startWaiting agree o

def execBusyUnitStart (agree : Bool) (s : State) : Host.Outcome State Fault Refusal := run s (busyUnitStart agree)

end Sys2Proof.Machine
end

