-- ==== Sys2Proof/Machine/Host.lean ====
section
/-! DEFINITION. Host accesses to BAR0 (R6 to R12): what a function's BAR0 presents, reads with their clears and latches,
writes by access code, and the registers whose writes have rules of their own. -/

namespace Sys2Proof.Machine

/-! ## What a read shows -/

/-- The core stands under a closed sluice (TIL_CORE_STATE.SLUICED). -/
def State.coreSluiced (s : State) (c : Nat) : Bool :=
  s.chipClosed || s.tileClosed (c / 32) || (match s.coreOwner c with | some a => s.held a | none => false)

/-- A scratchpad count over the cores of an allotment (chapter 8). -/
def State.spmSum (s : State) (a kind w : Nat) : Nat :=
  min (2 ^ w - 1) ((s.spmCounts.filter fun e => e.1 % 8 == kind && s.coreOwner (e.1 / 8) == some a).map fun e => e.2).sum

/-- The highest merger occupancy among the cores of an allotment, and the core that reached it. -/
def State.spmPeak (s : State) (a : Nat) : Nat × Nat :=
  s.spmCounts.foldl (fun m e => if e.1 % 8 == 5 && s.coreOwner (e.1 / 8) == some a && decide (m.1 < e.2) then (e.2, e.1 / 8) else m) (0, 0)

/-- A register's value at this instant: the fields the block derives, over what stands in the register. -/
def State.live (s : State) (o : Nat) : Nat :=
  let v := (s.reg o).toNat
  if o = 0x20008 then s.wck.turn
  else if o = 0x20010 then s.wck.cycle
  else if o = 0x20018 then s.wck.ns + 2 ^ 32 * s.wck.sec
  else if limitReg o then ((s.wck.limits.filter fun e => e.1 == o).getLast?.map fun e => e.2).getD v
  else if o = 0xB0000 then if s.routesNow.any (·.2.2) then (s.noteRoutes.reg o).toNat else v
  else if o = 0xB8000 then v % 2 ^ 12 + 2 ^ 12 * s.stratum + 2 ^ 16 * s.qSlot
  else if 0xA8000 ≤ o ∧ o < 0xA8100 ∧ o % 16 = 0 then
    -- BUSY: a record is being served (R318)
    (insertBits (s.reg o) 0 1 (b2n (decide (s.wck.now < smGet 0 s.fluUntil ((o - 0xA8000) / 16))))).toNat
  else if 0x51000 ≤ o ∧ o < 0x51000 + 0x10 * 4608 then
    (insertBits (s.reg o) 6 1 (b2n (s.coreSluiced ((o - 0x51000) / 16)))).toNat
  else if 0x120100 ≤ o ∧ o < 0x1201C0 then
    let n := (o - 0x120100) / 4
    s.pinFunc n + 8 * b2n (s.pinHeld n) + 16 * (if s.isReady then s.pinOwner n else 0x10)
  else v

/-- The mask of the fields of a row that a read returns (WO fields read 0; reserved bits hold 0). -/
def RegRow.readMask (r : RegRow) : Nat :=
  (r.fields.map fun f => if f.acc = .wo then 0 else (2 ^ f.w - 1) * 2 ^ f.lo).sum

/-- Bits of register `o` that the BAR0 of a virtual function bound to allotment `a` presents (R62, R100, R136, R246, R265,
R318, R353, R374, R393, R413, R450, R480, R499, R528). -/
def State.presents (s : State) (fn a o : Nat) : Nat :=
  let all := 2 ^ 64 - 1
  let on (b : Bool) : Nat := if b then all else 0
  if o < 0x30000 then on ([0x20000, 0x20004, 0x20008, 0x20010, 0x20020].contains o)
  else if 0x31000 ≤ o ∧ o < 0x32000 then on (s.ownsPage fn ((o - 0x31000) / 64))
  else if 0x40100 ≤ o ∧ o < 0x41100 then on ((o - 0x40100) / 256 == a)
  else if 0x50000 ≤ o ∧ o < 0x50030 then all
  else if 0x51000 ≤ o ∧ o < 0x63000 then on (s.coreOwner ((o - 0x51000) / 16) == some a)
  else if 0x70000 ≤ o ∧ o < 0x70100 then all
  else if 0x80000 ≤ o ∧ o < 0x84800 then on (s.coreOwner ((o - 0x80000) / 4) == some a)
  else if 0x88000 ≤ o ∧ o < 0x88080 then on ((o - 0x88000) / 8 == a)
  else if 0x90000 ≤ o ∧ o < 0x92000 then on ((o - 0x90000) / 512 == a)
  else if 0x92000 ≤ o ∧ o < 0x92080 then on ((o - 0x92000) / 8 == a)
  else if o = 0xA0000 then all
  else if 0xA0100 ≤ o ∧ o < 0xA0200 ∧ o % 32 = 0 then 0xFF
  else if o = 0xB8000 then all
  else if 0xB8100 ≤ o ∧ o < 0xB8D00 then on ([4, 8, 16].contains (o % 256))
  else if o = 0xC0000 then all
  else if 0xC0100 ≤ o ∧ o < 0xC0500 then on (s.get (F.ING_PORT_STATE_ALLOT ((o - 0xC0100) / 128)) == a)
  else if 0xD0000 ≤ o ∧ o < 0xD0100 then on (s.get (F.VIS_STATE_ALLOT ((o - 0xD0000) / 64)) == a)
  else if 0xD8000 ≤ o ∧ o < 0xD8080 then on (s.get (F.BSN_STATE_ALLOT ((o - 0xD8000) / 64)) == a)
  else if 0xF0100 ≤ o ∧ o < 0xF0500 then
    let i := (o - 0xF0100) / 4
    on (s.slotOn i && s.slotOwner i == a)
  else if 0xF8000 ≤ o ∧ o < 0xF8100 then all
  else if 0xF8100 ≤ o ∧ o < 0xF8180 then on ((o - 0xF8100) / 8 == a)
  else if 0x100100 ≤ o ∧ o < 0x100300 then on ((o - 0x100100) / 32 == a)
  else if o = 0x110000 then all
  else if 0x110030 ≤ o ∧ o < 0x110058 then all
  else if o = 0x120000 ∨ o = 0x120008 then all
  else if 0x120100 ≤ o ∧ o < 0x1201C0 then on (s.pinOwner ((o - 0x120100) / 4) == a)
  else if 0x12C000 ≤ o ∧ o < 0x12C020 then on (s.pinOwner (40 + (o - 0x12C000) / 4) == a)
  else 0

/-- A register as a virtual function sees its values: the scratchpad counts cover its own cores only. -/
def State.liveFor (s : State) (a o : Nat) : Nat :=
  if o = 0x70000 then s.spmSum a 0 32 + 2 ^ 32 * s.spmSum a 1 16 + 2 ^ 48 * s.spmSum a 2 16
  else if o = 0x70010 then s.spmSum a 3 16 + 2 ^ 16 * s.spmSum a 4 16
  else if o = 0x70020 then (s.spmPeak a).1 + 2 ^ 7 * (s.spmPeak a).2
  else s.live o

/-- What a read by a function returns of the register at `o` with row `r`. -/
def State.view (s : State) (fn : Nat) (r : RegRow) (o : Nat) : Nat :=
  if fn = 0 then Nat.land (s.live o) r.readMask
  else
    let a := s.fnAllot fn
    Nat.land (Nat.land (s.liveFor a o) r.readMask) (s.presents fn a o)

/-! ## Reads -/

/-- The kind of `spmCounts` that a field of a scratchpad register shows. -/
def spmKind (o lo : Nat) : Option Nat :=
  if o = 0x70000 then some (if lo = 0 then 0 else if lo = 32 then 1 else 2)
  else if o = 0x70010 then some (if lo = 0 then 3 else 4)
  else if o = 0x70020 then some 5
  else none

/-- The counts by core follow a clear of their field: all of them, or those of the latch. -/
def State.clearSpm (s : State) (o lo : Nat) (latched : Bool) : State :=
  match spmKind o lo with
  | none => s
  | some k => { s with
      spmCounts := s.spmCounts.filterMap fun e =>
        if e.1 % 8 = k then
          let left := if latched then e.2 - smGet 0 s.spmLatch e.1 else 0
          if left = 0 then none else some (e.1, left)
        else some e }

/-- A read reaches an RC field (R7, R11): the physical function's read clears it, or reduces it by the latched value; `n`
events of the same cycle count after the read. -/
def State.readField (s : State) (fn o : Nat) (f : RField) (latched : Option Nat) (n : Nat) : State :=
  let g : Fld := ⟨o, f.lo, f.w⟩
  let max_ := 2 ^ f.w - 1
  if fn ≠ 0 then s.put g (min max_ (s.get g + n))
  else match latched with
    | some v => (s.put g (min max_ (s.get g - bits v (f.lo - 32) f.w + n))).clearSpm o f.lo true
    | none => (s.put g (min max_ n)).clearSpm o f.lo false

/-- Every RC field of a register with its bits in [lo, hi). `hits`: bit of the register, events in the cycle of the read. -/
def State.readFields (s : State) (fn o lo hi : Nat) (r : RegRow) (latched : Option Nat) (hits : List (Nat × Nat)) : State :=
  (r.fields.filter fun f => f.acc == .rc && decide (lo ≤ f.lo ∧ f.lo < hi)).foldl (fun s f =>
    s.readField fn o f latched ((hits.filter fun h => h.1 == f.lo).map fun h => h.2).sum) s

/-- The part of an access that falls into one register: its row, offset, and the register bits [lo, hi). -/
def accessPart (off size : Nat) : Option (RegRow × Nat × Nat × Nat) :=
  match regRowAt off with
  | some r => match r.offsetOf off with
    | some o => some (r, o, 8 * (off - o), min r.width (8 * (off - o) + 8 * size))
    | none => none
  | none => none

/-- The parts of an access: one register, or two 32-bit registers side by side. -/
def accessParts (off size : Nat) : List (Nat × RegRow × Nat × Nat × Nat) :=
  let one (at_ n : Nat) : List (Nat × RegRow × Nat × Nat × Nat) := match accessPart at_ n with
    | some p => [(at_ - off, p)]
    | none => []
  if size = 8 then
    match accessPart off 8 with
    | some p => if p.1.width = 64 then [(0, p)] else (0, p) :: one (off + 4) 4
    | none => one (off + 4) 4
  else one off 4

/-- Register bits of a list of access bits: those of the part `d` bytes into the access, from register bit `lo` on. -/
def partHits (d lo : Nat) (hits : List (Nat × Nat)) : List (Nat × Nat) :=
  hits.filterMap fun h => if 8 * d ≤ h.1 then some (h.1 - 8 * d + lo, h.2) else none

/-- One part of a read: its value and the state after it (R6, R7, R11). -/
def State.readPart (s : State) (fn size : Nat) (hits : List (Nat × Nat)) (p : Nat × RegRow × Nat × Nat × Nat) : Nat × State :=
  let (d, r, o, lo, hi) := p
  let h := partHits d lo hits
  let v := s.view fn r o
  if r.width = 64 ∧ size = 4 then
    let key := 32 * (o + 4) + fn
    if lo = 0 then
      let s := { s with latch := smSet 0 s.latch key (v / 2 ^ 32 + 1), spmLatch := if fn = 0 ∧ o = 0x70000 then s.spmCounts else s.spmLatch }
      (v % 2 ^ 32, s.readFields fn o 0 32 r none h)
    else
      match smGet 0 s.latch key with
      | 0 => (v / 2 ^ 32, s.readFields fn o 32 64 r none h)
      | k + 1 => (k, { s with latch := smSet 0 s.latch key 0 }.readFields fn o 32 64 r (some k) h)
  else (v, s.readFields fn o lo hi r none h)

/-- The shapes of R10. -/
def bar0Shape (off size : Nat) : Bool := (size == 4 && off % 4 == 0) || (size == 8 && off % 8 == 0)

/-- A function reads BAR0. -/
def hostRead (fn off size : Nat) (hits : List (Nat × Nat)) (s : State) : State :=
  if s.linkLost then s
  else if !s.bar2Up fn then s.emit (.unsupported fn)
  else if !bar0Shape off size then (s.logCause 0x101 (off + size * 2 ^ 56) (s.fnAllot fn)).emit (.completerAbort fn)
  else
    let s := if 0x50000 ≤ off ∧ off < 0xA0000 ∧ accessParts off size ≠ [] then s.coresTo s.wck.cycle else s
    let x := (accessParts off size).foldl (fun x p =>
      let y := x.2.readPart fn size hits p
      (x.1 + y.1 * 2 ^ (8 * p.1), y.2)) (0, s)
    x.2.emit (.completion fn (toLe size x.1))

/-- A function reads BAR4: every read returns 0 (R100). -/
def bar4Read (fn size : Nat) (s : State) : State :=
  if s.linkLost then s
  else if !s.bar2Up fn then s.emit (.unsupported fn)
  else s.emit (.completion fn (List.replicate size 0))

/-- `bar4`: the read is of the function's BAR4, which holds no register. -/
def execRcFieldRead (fn off size : Nat) (bar4 : Bool) (hits : List (Nat × Nat)) (s : State) : Host.Outcome State Fault Refusal :=
  unit 32 fn s fun s => if bar4 then bar4Read fn size s else hostRead fn off size hits s

def execHighHalfLatch (fn off : Nat) (s : State) : Host.Outcome State Fault Refusal := unit 32 fn s (hostRead fn off 4 [])

def execMisalignedBar0Read (fn off size : Nat) (s : State) : Host.Outcome State Fault Refusal :=
  unit 32 fn s (hostRead fn off size [])

/-! ## Writes -/

/-- A write of `val` to the bits of `mask` acts by the access codes (R6); `hw`: W1C bits that hardware sets in the same
cycle (R8). `codes`: the codes that the writer may use. -/
def State.writeCodes (s : State) (r : RegRow) (o mask val hw : Nat) (codes : List Access) : State :=
  let step (v : Nat) (f : RField) : Nat :=
    let old := bits v f.lo f.w
    let m := bits mask f.lo f.w
    let x := bits val f.lo f.w
    let new := if !codes.contains f.acc then old
      else match f.acc with
        | .rw => Nat.lor (Nat.land x m) (Nat.land old (2 ^ f.w - 1 - m))
        | .w1c => Nat.lor (Nat.land old (2 ^ f.w - 1 - Nat.land x m)) (bits hw f.lo f.w)
        | _ => old
    v - old * 2 ^ f.lo + new * 2 ^ f.lo
  s.setReg o (BitVec.ofNat 64 (r.fields.foldl step (s.reg o).toNat))

/-- A write outside a field's range is ignored and logged. -/
def State.rangeLog (s : State) (fn o val : Nat) : State := s.logCause 0x102 (o + val % 2 ^ 32 * 2 ^ 32) (s.fnAllot fn)

/-- SLU_LEDGER.ACK (R470). -/
def ledgerAck (fn a v : Nat) (s : State) : State :=
  let v := v % 2 ^ 32
  let ack := s.get (F.SLU_LEDGER_ACK a)
  if (v + 2 ^ 32 - ack) % 2 ^ 32 ≤ s.unacked a then s.put (F.SLU_LEDGER_ACK a) v
  else s.rangeLog fn (0x100108 + 0x20 * a) v

/-- DR_QCTL of queue `q`: ENABLE of queue 0 (R95, R130), and RESUME (R97). -/
def writeQctl (fn q val : Nat) (s : State) : State :=
  let s := if q = 0 ∧ fn = 0 then (if bit val 0 then enableQueue0 s else disableQueue0 s) else s
  if bit val 1 ∧ s.ownsPage fn q = true then resumeQueue q s else s

/-- A write of VIS_REFINE_THRESH(p): the threshold of before is kept for a frame that starts in the same lagoon cycle (R387). -/
def State.noteThresh (s : State) (p : Nat) : State :=
  match (s.vis p).threshWas with
  | some (c, v) => s.setVis p { s.vis p with threshWas := some (s.wck.lagoon, if c = s.wck.lagoon then v else s.get (F.VIS_REFINE_THRESH_THRESH p)) }
  | none => s.setVis p { s.vis p with threshWas := some (s.wck.lagoon, s.get (F.VIS_REFINE_THRESH_THRESH p)) }

/-- A physical-function write to bits [lo, hi) of the register at `o`: the registers whose writes have rules of their own,
then the access codes. -/
def writePf (r : RegRow) (o lo hi val hw : Nat) (s : State) : State :=
  let mask := 2 ^ hi - 2 ^ lo
  let codes (s : State) : State := s.writeCodes r o mask val hw [.rw, .w1c]
  let bad : State := s.rangeLog 0 o (val / 2 ^ lo)
  let locked : State := s.logCause 0x100 o
  let limit (least top w : Nat) : State :=
    let v := bits val 0 w
    if least ≤ v ∧ v ≤ top then { s with wck := { s.wck with limits := s.wck.limits ++ [(o, v)] } } else bad
  if o = 0x20040 then limit 0 86400 17
  else if o = 0x20044 then limit 20 1000000 20
  else if o = 0x20048 then limit 100 1000000 20
  else if o = 0x2004C then limit 1 10000 14
  else if o = 0x30000 then (if bits val 0 8 = 0 then bad else codes s)
  else if o = 0x30004 then (if bits val 0 16 = 0 then bad else codes s)
  else if o = 0x31000 ∨ o = 0x31008 ∨ o = 0x31010 then
    if s.queueLive 0 ∨ s.get (F.DR_QSTAT_STATE 0) = 3 then locked
    else if o = 0x31008 ∧ (bits val 0 5 < 6 ∨ 16 < bits val 0 5 ∨ bits val 8 4 < 4 ∨ 14 < bits val 8 4) then bad
    else codes s
  else if 0x31000 ≤ o ∧ o < 0x32000 then
    (if (o - 0x31000) % 64 = 0x20 then writeQctl 0 ((o - 0x31000) / 64) val s else s)
  else if o = 0x40008 then (if 15 < bits val 0 5 ∧ bits val 0 5 < 31 then bad else codes s)
  else if o = 0xB8000 then
    (if (List.range 12).any fun p => s.apState p != apDown then locked else codes s)
  else if 0xB8100 ≤ o ∧ o < 0xB8D00 ∧ o % 256 = 0 then
    let p := (o - 0xB8100) / 256
    let s := if bit val 0 then portEnable p s else portDisable p s
    if bit val 1 then portRestart p s else s
  else if 0x100108 ≤ o ∧ o < 0x100300 ∧ (o - 0x100100) % 32 = 8 then
    (if hi = 64 then ledgerAck 0 ((o - 0x100100) / 32) (val / 2 ^ 32) s else s)
  else if 0xD0000 ≤ o ∧ o < 0xD0100 ∧ o % 64 = 4 then codes (s.noteThresh ((o - 0xD0000) / 64))
  else if o = 0x100004 then (if bits val 0 8 = 0 then bad else codes s)
  else if o = 0x100008 then (if bits val 0 24 < 4096 then bad else codes s)
  else if o = 0x110004 then writeReset 0 (bits val 0 32) s
  else if o = 0x120008 then
    writeGpioOut 0 (Nat.lor (Nat.land val mask) (Nat.land (s.reg o).toNat (2 ^ 64 - 1 - mask))) s
  else if o = 0x120010 then (codes s).noteConflicts
  else if o = 0x120020 ∨ o = 0x120028 then (if hi = 64 ∧ bits val 32 16 = 0 then bad else codes s)
  else if o = 0x128004 then (if bits val 0 2 = 3 then bad else codes s)
  else if 0x128010 ≤ o ∧ o < 0x128020 then writeCci 0 ((o - 0x128010) / 4) (bits val 0 32) s
  else codes s

/-- A virtual function's write: the fields its BAR0 lets it write (R62, ch. 4, R246, R393, R480, R510), of registers it
presents. -/
def writeVf (fn : Nat) (r : RegRow) (o lo hi val hw : Nat) (s : State) : State :=
  let a := s.fnAllot fn
  let mask := 2 ^ hi - 2 ^ lo
  if s.presents fn a o = 0 ∨ 15 < a then s
  else if 0x31000 ≤ o ∧ o < 0x32000 ∧ (o - 0x31000) % 64 = 0x20 then writeQctl fn ((o - 0x31000) / 64) val s
  else if 0x88000 ≤ o ∧ o < 0x88080 then s.writeCodes r o mask val hw [.w1c]
  else if 0xD0000 ≤ o ∧ o < 0xD0100 ∧ o % 64 = 4 then (s.noteThresh ((o - 0xD0000) / 64)).writeCodes r o mask val hw [.rw]
  else if 0x100100 ≤ o ∧ o < 0x100300 then
    (if o % 32 = 8 ∧ hi = 64 then ledgerAck fn a (val / 2 ^ 32) s
     else if o % 32 = 16 then s.writeCodes r o mask val hw [.rw] else s)
  else if o = 0x120008 then
    writeGpioOut fn (Nat.lor (Nat.land val mask) (Nat.land (s.reg o).toNat (2 ^ 64 - 1 - mask))) s
  else s

/-- A function writes BAR0 (R6, R8, R10, R12). `hwSet`: bits, counted as those of `data`, that hardware sets in the same
cycle. -/
def hostWrite (fn off size data hwSet : Nat) (s : State) : State :=
  if !s.bar2Up fn then s
  else if !bar0Shape off size then s.logCause 0x101 (off + size * 2 ^ 56) (s.fnAllot fn)
  else
    let s := if 0x50000 ≤ off ∧ off < 0xA0000 ∧ accessParts off size ≠ [] then s.coresTo s.wck.cycle else s
    (accessParts off size).foldl (fun s p =>
      let (d, r, o, lo, hi) := p
      let val := data % 2 ^ (8 * size) / 2 ^ (8 * d) * 2 ^ lo % 2 ^ hi
      let hw := hwSet % 2 ^ (8 * size) / 2 ^ (8 * d) * 2 ^ lo % 2 ^ hi
      if fn = 0 then writePf r o lo hi val hw s else writeVf fn r o lo hi val hw s) s

def execRegisterWrite (fn off size data hwSet : Nat) (s : State) : Host.Outcome State Fault Refusal :=
  unit 32 fn s (hostWrite fn off size data hwSet)

/-- A write of SLU_LEDGER(a).ACK (R470, R480). -/
def writeLedgerAck (fn a v : Nat) (s : State) : State :=
  if s.bar2Up fn = true ∧ (fn = 0 ∨ s.allotOfFn fn = some a) then ledgerAck fn a v s else s

def execSluLedgerAck (fn a v : Nat) (s : State) : Host.Outcome State Fault Refusal :=
  if a < 16 then unit 32 fn s (writeLedgerAck fn a v) else .fault .noSuchUnit

end Sys2Proof.Machine
end

