-- ==== Sys2Proof/Machine/Keys.lean ====
section
/-! DEFINITION. MOD_TABLE_LOAD (R249 to R252), KEY_LOAD and KEY_RETIRE (R280 to R284), LOG_READ (R472). -/

namespace Sys2Proof.Machine

/-! ## MOD_TABLE_LOAD -/

def mtCount (o : Ord) : Nat := o.field 16 1
/-- The entry at a position of the payload. -/
def mtEntry (o : Ord) (i : Nat) : Bytes := o.data (32 + 16 * i) 16
def mtIndex (b : Bytes) : Nat := bits (fieldAt b 13 1) 0 6
/-- Positions of the payload. -/
def mtPositions (o : Ord) : List Nat := if mtCount o ≤ 64 then List.range (mtCount o) else []

/-- The causes of R250 at one position. -/
def mtCause (o : Ord) (i : Nat) : Option Nat :=
  match modRefusal (mtEntry o i) with
  | some c => some c
  | none => if (List.range i).any fun j => mtIndex (mtEntry o j) == mtIndex (mtEntry o i) then some 0x20 else none

/-- The first entry that R250 refuses: position and cause. -/
def mtRefused (o : Ord) : Option (Nat × Nat) := (mtPositions o).findSome? fun i => (mtCause o i).map fun c => (i, c)

/-- A loaded plan names an index of the payload (R251). -/
def State.mtInUse (s : State) (o : Ord) : Bool :=
  (s.allot o.allot).plans.any fun p => (mtPositions o).any fun i => p.mods.contains (mtIndex (mtEntry o i))

/-- One entry is written, with its register. -/
def State.putModulus (s : State) (a : Nat) (b : Bytes) : State :=
  let m := modulusOf b
  let i := mtIndex b
  let s := s.setAllot a { s.allot a with mods := smSet Modulus.none (s.allot a).mods i m }
  (((s.put (F.RNE_MODTAB_Q a i) m.q).put (F.RNE_MODTAB_K a i) m.k).put (F.RNE_MODTAB_MAXLOG a i) m.maxlog).put (F.RNE_MODTAB_VALID a i) 1

def specModTableLoad : Spec where
  op := 0x0400
  permit := [1, 2]
  need _ o := [(decide (mtCount o ≤ 64) && decide (o.units < 1 + cdiv (16 * mtCount o) 32), shortAt 16)]
  state s o := [(s.altState o.allot == 2 && s.mtInUse o, whyOpen stState 0x82)]
  fields _ o :=
    [rg (decide (mtCount o < 1) || decide (64 < mtCount o)) 16, rz o 17 11,
     match mtRefused o with
     | some x => (true, ⟨stBadField, x.2, x.1, x.1⟩)
     | none => (false, rangeAt 16)]
  body s o := ((mtPositions o).foldl (fun s i => s.putModulus o.allot (mtEntry o i)) s).done o (mtCount o)

def execModTableLoad (q : Nat) (s : State) : Host.Outcome State Fault Refusal := unit 64 q s (order specModTableLoad q [])

/-! ## KEY_LOAD (Table 11-6; descriptor byte d is byte 32 + d of the order) -/

def klKey (o : Ord) : Nat := o.field 16 2
def klKind (o : Ord) : Nat := o.field 18 1
def klSrc (o : Ord) : Nat := o.field 20 8
def klDest (o : Ord) : Nat := o.field 32 6
def klSize (o : Ord) : Nat := o.field 40 4
def klTag (o : Ord) : Nat := o.field 44 7
def klForm (o : Ord) : Nat := bits (o.field 52 1) 0 2
def klFrom (o : Ord) : Nat := bits (o.field 54 2) 0 12
def klTo (o : Ord) : Nat := bits (o.field 56 2) 0 12

/-- The entry in force of a key id is VALID (R115, R284). -/
def State.keyHeld (s : State) (a key : Nat) : Bool := decide ((smGet ⟨255, 0, 0⟩ (s.allot a).keys key).kind ≠ 255)

/-- The scheme of a kind's lines (Table 11-5). -/
def kindScheme (kind scheme : Nat) : Bool :=
  if kind < 4 then scheme == 9 else if kind = 4 then scheme == 10 else decide (6 ≤ scheme) && decide (scheme ≤ 8)

/-- KEY_FORM. -/
def State.keyFormBad (s : State) (o : Ord) : Bool :=
  let a := o.allot
  let t := klTag o
  let k := klKind o
  !kindScheme k (tScheme t) || bits t 18 12 != klKey o || bit t 45 != s.isSealed a || bits t 41 4 != s.get (F.ALT_STATE_PARTY a)
    || (k == 4 && klForm o == 0) || (k == 5 && klForm o != 1) || (decide (4 ≤ k) && !s.isSealed a)
    || (decide (4 ≤ k) && (klFrom o != 0 || klTo o != 0))

/-- The pages of DEST: those that an order writes, each with PLAN_READ, and SEALED for kinds 4 and 5. -/
def State.keyDest (s : State) (o : Ord) : Except Why (List (Nat × Nat × Nat)) :=
  match s.orderWalk o o.allot (klDest o) (klSize o) permHostWrite with
  | .error w => .error w
  | .ok _ =>
    match s.translate o.allot (klDest o) (klSize o) fun v => orderMay o.isSealed permHostWrite v && bit v permPlanRead
        && (decide (klKind o < 4) || bit v permSealed) with
    | .error (at_, c) => .error ⟨stWalk, c, at_ / pageSize, 0⟩
    | .ok l => .ok l

/-- The bundle as it stands at the source or comes from the well: bytes, and whether all of them could be read. -/
def State.keyBytes (s : State) (o : Ord) (src : List (Nat × Nat × Nat)) : Bytes × Bool × State :=
  if klForm o = 2 then let d := s.generate 2 (klSize o); (d.1, true, d.2) else s.orderRead src o.allot

/-- The bundle opened under the session key (FORM 1). -/
def State.keyOpen (s : State) (o : Ord) (b : Bytes) : Option Bytes :=
  if klForm o ≠ 1 then some b
  else match (s.allot o.allot).session with
    | none => none
    | some k => gcmOpen k.key (o.data 60 12) (o.data 32 28 ++ toLe 4 (o.field 16 4)) b (o.data 72 16)

def keyLoad (s : State) (o : Ord) : State :=
  let a := o.allot
  let s := if klForm o = 2 then s else s.orderTable o a (klSrc o) (klSize o) permHostRead
  match (if klForm o = 2 then .ok [] else s.orderWalk o a (klSrc o) (klSize o) permHostRead) with
  | .error w => s.failWalk o w
  | .ok src =>
    let s := s.orderTable o a (klDest o) (klSize o) permHostWrite
    match s.keyDest o with
    | .error w => s.failWalk o w
    | .ok dst =>
      let r := s.keyBytes o src
      let s := r.2.2
      if !r.2.1 then s.fail o whyEcc
      else match s.keyOpen o r.1 with
        | none => (s.orderWrite dst (List.replicate (klSize o) 0) 0 a).2.fail o (whyOpen stNoRight 0x9E)
        | some b => (s.orderWrite dst b (tagOf (klTag o)) a).2.stage o (.keyEntry a (klKey o) (klKind o) (klFrom o) (klTo o))

def specKeyLoad : Spec where
  op := 0x0401
  permit := [1, 2, 3, 4]
  units := 3
  right s o := [(decide (o.allot < 16) && s.isSealed o.allot && !o.isSealed, whyRight 0x2A 0)]
  state s o := [(s.keyHeld o.allot (klKey o), whyOpen stState 0x9C), (klForm o == 2 && s.wellFailed, whyOpen stState 0xEE)]
  fields s o :=
    [rg (decide (4095 < klKey o)) 16, rg (decide (5 < klKind o)) 18, rz o 19 1,
     rg (decide (2 ^ 48 ≤ klSrc o) || (klForm o == 2 && klSrc o != 0)) 20,
     rg (klDest o % 128 != 0) 32, rz o 38 2,
     rg (klSize o % 128 != 0 || decide (klSize o < 128) || decide (0x40000000 < klSize o)) 40, rzb o 44 47 9, rz o 51 1,
     rg (klForm o == 3) 52, rg (bit (o.field 52 1) 2 && decide (4 ≤ klKind o)) 52 2, rzb o 52 3 5, rz o 53 1, rzb o 54 12 4, rzb o 56 12 4,
     rz o 58 2, (klForm o != 1 && (o.data 60 12).any (· != 0), resvAt 60), (klForm o != 1 && (o.data 72 16).any (· != 0), resvAt 72), rz o 88 8,
     (s.keyFormBad o, whyOpen stBadField 0x9D)]
  body := keyLoad

def execKeyLoad (q : Nat) (s : State) : Host.Outcome State Fault Refusal := unit 64 q s (order specKeyLoad q [])

def specKeyRetire : Spec where
  op := 0x0402
  permit := [1, 2, 3, 4]
  state s o := [(!s.keyHeld o.allot (klKey o), whyOpen stState 0x9C)]
  fields _ o := [rg (decide (4095 < klKey o)) 16, rz o 18 10]
  body s o := s.stage o (.keyRetire o.allot (klKey o))

def execKeyRetire (q : Nat) (s : State) : Host.Outcome State Fault Refusal := unit 64 q s (order specKeyRetire q [])

/-! ## LOG_READ -/

/-- The 32 bytes of a log entry (Table 19-6). -/
def LogEntry.encode (e : LogEntry) : Bytes :=
  toLe 4 e.seq ++ toLe 4 e.cycle ++ toLe 6 e.turn ++ toLe 1 e.allot ++ toLe 1 (e.scope + 4 * b2n e.sluice + 8 * b2n e.margin)
    ++ toLe 2 e.cause ++ toLe 2 e.subject ++ toLe 4 e.origin ++ toLe 8 e.value

/-- The 32 bytes of a ledger entry (Table 19-5). -/
def Ledger.encode (e : Ledger) (a : Nat) : Bytes :=
  toLe 4 e.seq ++ toLe 2 e.devId ++ toLe 1 a
    ++ toLe 1 (e.outcome + 2 * b2n e.poisoned + 4 * b2n e.notify + 8 * b2n e.margin + 16 * e.reason)
    ++ toLe 4 e.bytes ++ toLe 4 e.cycle ++ toLe 6 e.turn ++ toLe 2 e.planTurn ++ padTo 8 e.meas

def lrBook (o : Ord) : Bool := bit (o.field 16 4) 31
def lrFirst (o : Ord) : Nat := bits (o.field 16 4) 0 31
def lrLen (o : Ord) : Nat := o.field 32 8

/-- The retained entries from FIRST on: numbers compared modulo 2^31; none when FIRST is ahead of NEXT. -/
def fromFirst {α : Type} (l : List (Nat × α)) (next first : Nat) : List (Nat × α) :=
  let back := (next % 2 ^ 31 + 2 ^ 31 - first) % 2 ^ 31
  if 2 ^ 30 < back then [] else l.drop (l.length - back)

/-- The entries a LOG_READ returns, each with its number. -/
def State.logPick (s : State) (o : Ord) : List (Nat × Bytes) :=
  let l := if lrBook o then
      fromFirst ((s.allot o.allot).ledger.map fun e => (e.seq, e.encode o.allot)) (s.get (F.SLU_LEDGER_NEXT o.allot)) (lrFirst o)
    else
      fromFirst (s.log.map fun e => (e.seq, if o.q = 0 ∨ e.allot = o.allot then e.encode else [])) (s.get F.SLU_LOG_NEXT) (lrFirst o)
  (l.filter fun x => x.2 != []).take (lrLen o / 32)

/-- A LOG_READ reads its entries' blocks; one that cannot be used is an uncorrectable error in control state (R308). -/
def State.readBook (s : State) (o : Ord) (l : List (Nat × Bytes)) : Bool × State :=
  let bs := if s.get F.PWR_STATUS_HOME_STACK = 15 then [] else (l.map fun x => s.bookBlock (if lrBook o then some o.allot else none) x.1).dedup
  let t := bs.foldl (fun s b => s.readEvent b 3 o.allot) s
  if bs.all fun b => (s.blockEcc b).usable then (true, t)
  else (false, t.doubtChip { cause := cCtrlEcc, subject := s.get F.PWR_STATUS_HOME_STACK })

/-- The reply of a LOG_READ; where control state is in doubt, the chip sluice has ended the order (R128). -/
def logRead (s : State) (o : Ord) : State :=
  let l := s.logPick o
  let r := s.readBook o l
  if r.1 then (r.2.reply o (o.field 20 8) (l.flatMap (·.2))).done o l.length (match l with | x :: _ => x.1 | [] => Config.openDetail 0x104 % 2 ^ 32)
  else r.2

def specLogRead : Spec where
  op := 0x0C01
  allot := 2
  underChip := true
  underMinimal := true
  units := 2
  fields _ o :=
    [rg (lrBook o && o.allot == 255) 8, rg (o.field 20 8 % 64 != 0) 20, rg (lrLen o % 64 != 0) 32, rz o 40 24]
  body := logRead

def execLogRead (q : Nat) (s : State) : Host.Outcome State Fault Refusal := unit 64 q s (order specLogRead q [])

end Sys2Proof.Machine
end

