-- ==== Sys2Proof/Machine/Native.lean ====
section
/-! DEFINITION. The native commands (Tables 6-3, 6-5, 9-6): one meaning per row. Each says which entry of the store of
core `c` it is; `coreRow` checks and issues it. -/

namespace Sys2Proof.Machine

/-! ## The sequencer (Table 6-5) -/

/-- SETS (0x1). -/
def execSets (c : Nat) (s : State) : Host.Outcome State Fault Refusal := unit 4608 c s (coreRow 0 (· == 0x1) c)
/-- ADD (0x2). -/
def execSeqAdd (c : Nat) (s : State) : Host.Outcome State Fault Refusal := unit 4608 c s (coreRow 0 (· == 0x2) c)
/-- SUB (0x3). -/
def execSeqSub (c : Nat) (s : State) : Host.Outcome State Fault Refusal := unit 4608 c s (coreRow 0 (· == 0x3) c)
/-- AND (0x4). -/
def execSeqAnd (c : Nat) (s : State) : Host.Outcome State Fault Refusal := unit 4608 c s (coreRow 0 (· == 0x4) c)
/-- OR (0x5). -/
def execSeqOr (c : Nat) (s : State) : Host.Outcome State Fault Refusal := unit 4608 c s (coreRow 0 (· == 0x5) c)
/-- XOR (0x6). -/
def execSeqXor (c : Nat) (s : State) : Host.Outcome State Fault Refusal := unit 4608 c s (coreRow 0 (· == 0x6) c)
/-- SHL (0x7). -/
def execSeqShl (c : Nat) (s : State) : Host.Outcome State Fault Refusal := unit 4608 c s (coreRow 0 (· == 0x7) c)
/-- SHR (0x8). -/
def execSeqShr (c : Nat) (s : State) : Host.Outcome State Fault Refusal := unit 4608 c s (coreRow 0 (· == 0x8) c)
/-- SRA (0x9). -/
def execSeqSra (c : Nat) (s : State) : Host.Outcome State Fault Refusal := unit 4608 c s (coreRow 0 (· == 0x9) c)
/-- MIN (0xa). -/
def execSeqMin (c : Nat) (s : State) : Host.Outcome State Fault Refusal := unit 4608 c s (coreRow 0 (· == 0xa) c)
/-- MAX (0xb). -/
def execSeqMax (c : Nat) (s : State) : Host.Outcome State Fault Refusal := unit 4608 c s (coreRow 0 (· == 0xb) c)
/-- SETA (0x10). -/
def execSeta (c : Nat) (s : State) : Host.Outcome State Fault Refusal := unit 4608 c s (coreRow 0 (· == 0x10) c)
/-- ADDA (0x11). -/
def execAdda (c : Nat) (s : State) : Host.Outcome State Fault Refusal := unit 4608 c s (coreRow 0 (· == 0x11) c)
/-- MOVA (0x12). -/
def execMova (c : Nat) (s : State) : Host.Outcome State Fault Refusal := unit 4608 c s (coreRow 0 (· == 0x12) c)
/-- LDA (0x13). -/
def execLda (c : Nat) (s : State) : Host.Outcome State Fault Refusal := unit 4608 c s (coreRow 0 (· == 0x13) c)
/-- LDS (0x14). -/
def execLds (c : Nat) (s : State) : Host.Outcome State Fault Refusal := unit 4608 c s (coreRow 0 (· == 0x14) c)
/-- SETZ (0x18). -/
def execSetz (c : Nat) (s : State) : Host.Outcome State Fault Refusal := unit 4608 c s (coreRow 0 (· == 0x18) c)
/-- SETK (0x19). -/
def execSetk (c : Nat) (s : State) : Host.Outcome State Fault Refusal := unit 4608 c s (coreRow 0 (· == 0x19) c)
/-- SETP (0x1a). -/
def execSetp (c : Nat) (s : State) : Host.Outcome State Fault Refusal := unit 4608 c s (coreRow 0 (· == 0x1a) c)
/-- LOOP (0x20). -/
def execLoop (c : Nat) (s : State) : Host.Outcome State Fault Refusal := unit 4608 c s (coreRow 0 (· == 0x20) c)

/-! ## The matrix engine (R227 to R235) -/

/-- MM (0x0). -/
def execMm (c : Nat) (s : State) : Host.Outcome State Fault Refusal := unit 4608 c s (coreRow 1 (· == 0x0) c)
/-- ACC_STORE (0x1). -/
def execAccStore (c : Nat) (s : State) : Host.Outcome State Fault Refusal := unit 4608 c s (coreRow 1 (· == 0x1) c)
/-- ACC_SWAP (0x2). -/
def execAccSwap (c : Nat) (s : State) : Host.Outcome State Fault Refusal := unit 4608 c s (coreRow 1 (· == 0x2) c)

/-! ## The ring engine (chapter 10) -/

/-- ADD (0x0). -/
def execRneAdd (c : Nat) (s : State) : Host.Outcome State Fault Refusal := unit 4608 c s (coreRow 2 (· == 0x0) c)
/-- SUB (0x1). -/
def execRneSub (c : Nat) (s : State) : Host.Outcome State Fault Refusal := unit 4608 c s (coreRow 2 (· == 0x1) c)
/-- NEG (0x2). -/
def execRneNeg (c : Nat) (s : State) : Host.Outcome State Fault Refusal := unit 4608 c s (coreRow 2 (· == 0x2) c)
/-- MUL (0x3). -/
def execRneMul (c : Nat) (s : State) : Host.Outcome State Fault Refusal := unit 4608 c s (coreRow 2 (· == 0x3) c)
/-- MAC (0x4). -/
def execRneMac (c : Nat) (s : State) : Host.Outcome State Fault Refusal := unit 4608 c s (coreRow 2 (· == 0x4) c)
/-- NTT (0x8). -/
def execNtt (c : Nat) (s : State) : Host.Outcome State Fault Refusal := unit 4608 c s (coreRow 2 (· == 0x8) c)
/-- INTT (0x9). -/
def execIntt (c : Nat) (s : State) : Host.Outcome State Fault Refusal := unit 4608 c s (coreRow 2 (· == 0x9) c)
/-- NTT4 (0xa). -/
def execNtt4 (c : Nat) (s : State) : Host.Outcome State Fault Refusal := unit 4608 c s (coreRow 2 (· == 0xa) c)
/-- INTT4 (0xb). -/
def execIntt4 (c : Nat) (s : State) : Host.Outcome State Fault Refusal := unit 4608 c s (coreRow 2 (· == 0xb) c)
/-- AUTO (0xc). -/
def execAuto (c : Nat) (s : State) : Host.Outcome State Fault Refusal := unit 4608 c s (coreRow 2 (· == 0xc) c)
/-- BCONV (0x10). -/
def execBconv (c : Nat) (s : State) : Host.Outcome State Fault Refusal := unit 4608 c s (coreRow 2 (· == 0x10) c)
/-- RESCALE (0x11). -/
def execRescale (c : Nat) (s : State) : Host.Outcome State Fault Refusal := unit 4608 c s (coreRow 2 (· == 0x11) c)
/-- MODDOWN (0x12). -/
def execModdown (c : Nat) (s : State) : Host.Outcome State Fault Refusal := unit 4608 c s (coreRow 2 (· == 0x12) c)
/-- GDECOMP (0x13). -/
def execGdecomp (c : Nat) (s : State) : Host.Outcome State Fault Refusal := unit 4608 c s (coreRow 2 (· == 0x13) c)
/-- EXTPROD (0x14). -/
def execExtprod (c : Nat) (s : State) : Host.Outcome State Fault Refusal := unit 4608 c s (coreRow 2 (· == 0x14) c)

/-! ## The vector engine (Table 9-6) -/

/-- ADD (0x0). -/
def execVxeAdd (c : Nat) (s : State) : Host.Outcome State Fault Refusal := unit 4608 c s (coreRow 3 (· == 0x0) c)
/-- SUB (0x1). -/
def execVxeSub (c : Nat) (s : State) : Host.Outcome State Fault Refusal := unit 4608 c s (coreRow 3 (· == 0x1) c)
/-- MUL (0x2). -/
def execVxeMul (c : Nat) (s : State) : Host.Outcome State Fault Refusal := unit 4608 c s (coreRow 3 (· == 0x2) c)
/-- FMA (0x3). -/
def execFma (c : Nat) (s : State) : Host.Outcome State Fault Refusal := unit 4608 c s (coreRow 3 (· == 0x3) c)
/-- MIN (0x4). -/
def execVxeMin (c : Nat) (s : State) : Host.Outcome State Fault Refusal := unit 4608 c s (coreRow 3 (· == 0x4) c)
/-- MAX (0x5). -/
def execVxeMax (c : Nat) (s : State) : Host.Outcome State Fault Refusal := unit 4608 c s (coreRow 3 (· == 0x5) c)
/-- ABS (0x6). -/
def execAbs (c : Nat) (s : State) : Host.Outcome State Fault Refusal := unit 4608 c s (coreRow 3 (· == 0x6) c)
/-- NEG (0x7). -/
def execVxeNeg (c : Nat) (s : State) : Host.Outcome State Fault Refusal := unit 4608 c s (coreRow 3 (· == 0x7) c)
/-- RELU (0x8). -/
def execRelu (c : Nat) (s : State) : Host.Outcome State Fault Refusal := unit 4608 c s (coreRow 3 (· == 0x8) c)
/-- CLAMP: the vector command of a core (0x09), or, with no core, the instruction of the debug port (R525). -/
def execClamp (core : Option Nat) (s : State) : Host.Outcome State Fault Refusal :=
  match core with
  | some c => unit 4608 c s (coreRow 3 (· == 9) c)
  | none => run s fun s => s.pinControl 4
/-- SHL (0xa). -/
def execVxeShl (c : Nat) (s : State) : Host.Outcome State Fault Refusal := unit 4608 c s (coreRow 3 (· == 0xa) c)
/-- SHR (0xb). -/
def execVxeShr (c : Nat) (s : State) : Host.Outcome State Fault Refusal := unit 4608 c s (coreRow 3 (· == 0xb) c)
/-- AND (0xc). -/
def execVxeAnd (c : Nat) (s : State) : Host.Outcome State Fault Refusal := unit 4608 c s (coreRow 3 (· == 0xc) c)
/-- OR (0xd). -/
def execVxeOr (c : Nat) (s : State) : Host.Outcome State Fault Refusal := unit 4608 c s (coreRow 3 (· == 0xd) c)
/-- XOR (0xe). -/
def execVxeXor (c : Nat) (s : State) : Host.Outcome State Fault Refusal := unit 4608 c s (coreRow 3 (· == 0xe) c)
/-- SELECT (0xf). -/
def execSelect (c : Nat) (s : State) : Host.Outcome State Fault Refusal := unit 4608 c s (coreRow 3 (· == 0xf) c)
/-- CMPLT (0x10). -/
def execCmplt (c : Nat) (s : State) : Host.Outcome State Fault Refusal := unit 4608 c s (coreRow 3 (· == 0x10) c)
/-- CMPLE (0x11). -/
def execCmple (c : Nat) (s : State) : Host.Outcome State Fault Refusal := unit 4608 c s (coreRow 3 (· == 0x11) c)
/-- CMPEQ (0x12). -/
def execCmpeq (c : Nat) (s : State) : Host.Outcome State Fault Refusal := unit 4608 c s (coreRow 3 (· == 0x12) c)
/-- ZIP0 (0x14). -/
def execZip0 (c : Nat) (s : State) : Host.Outcome State Fault Refusal := unit 4608 c s (coreRow 3 (· == 0x14) c)
/-- ZIP1 (0x15). -/
def execZip1 (c : Nat) (s : State) : Host.Outcome State Fault Refusal := unit 4608 c s (coreRow 3 (· == 0x15) c)
/-- UNZIP0 (0x16). -/
def execUnzip0 (c : Nat) (s : State) : Host.Outcome State Fault Refusal := unit 4608 c s (coreRow 3 (· == 0x16) c)
/-- UNZIP1 (0x17). -/
def execUnzip1 (c : Nat) (s : State) : Host.Outcome State Fault Refusal := unit 4608 c s (coreRow 3 (· == 0x17) c)
/-- RECIP (0x18). -/
def execRecip (c : Nat) (s : State) : Host.Outcome State Fault Refusal := unit 4608 c s (coreRow 3 (· == 0x18) c)
/-- RSQRT (0x19). -/
def execRsqrt (c : Nat) (s : State) : Host.Outcome State Fault Refusal := unit 4608 c s (coreRow 3 (· == 0x19) c)
/-- EXP2 (0x1a). -/
def execExp2 (c : Nat) (s : State) : Host.Outcome State Fault Refusal := unit 4608 c s (coreRow 3 (· == 0x1a) c)
/-- LOG2 (0x1b). -/
def execLog2 (c : Nat) (s : State) : Host.Outcome State Fault Refusal := unit 4608 c s (coreRow 3 (· == 0x1b) c)
/-- CVT (operations 0x20 to 0x3F). -/
def execCvt (c : Nat) (s : State) : Host.Outcome State Fault Refusal := unit 4608 c s (coreRow 3 (fun o => decide (0x20 ≤ o)) c)

/-! ## The move engine (R206 to R214, R298, R340) -/

/-- LOCAL (0x0). -/
def execMovLocal (c : Nat) (s : State) : Host.Outcome State Fault Refusal := unit 4608 c s (coreRow 4 (· == 0x0) c)
/-- REMOTE (0x1). -/
def execMovRemote (c : Nat) (s : State) : Host.Outcome State Fault Refusal := unit 4608 c s (coreRow 4 (· == 0x1) c)
/-- MEM_RD (0x2). -/
def execMemRd (c : Nat) (s : State) : Host.Outcome State Fault Refusal := unit 4608 c s (coreRow 4 (· == 0x2) c)
/-- MEM_WR (0x3). -/
def execMemWr (c : Nat) (s : State) : Host.Outcome State Fault Refusal := unit 4608 c s (coreRow 4 (· == 0x3) c)
/-- HOST_RD (0x4). -/
def execHostRd (c : Nat) (s : State) : Host.Outcome State Fault Refusal := unit 4608 c s (coreRow 4 (· == 0x4) c)
/-- FILL (0x5). -/
def execFill (c : Nat) (s : State) : Host.Outcome State Fault Refusal := unit 4608 c s (coreRow 4 (· == 0x5) c)
/-- COPY (0x6). -/
def execCopy (c : Nat) (s : State) : Host.Outcome State Fault Refusal := unit 4608 c s (coreRow 4 (· == 0x6) c)

/-! ## The macro unit (R286 to R289) -/

/-- REFRESH_APPROX (0x0). -/
def execRefreshApprox (c : Nat) (s : State) : Host.Outcome State Fault Refusal := unit 4608 c s (coreRow 5 (· == 0x0) c)
/-- REFRESH_EXACT (0x1). -/
def execRefreshExact (c : Nat) (s : State) : Host.Outcome State Fault Refusal := unit 4608 c s (coreRow 5 (· == 0x1) c)
/-- BIT_REFRESH (0x2). -/
def execBitRefresh (c : Nat) (s : State) : Host.Outcome State Fault Refusal := unit 4608 c s (coreRow 5 (· == 0x2) c)
/-- KEYSWITCH_HYBRID (0x3). -/
def execKeyswitchHybrid (c : Nat) (s : State) : Host.Outcome State Fault Refusal := unit 4608 c s (coreRow 5 (· == 0x3) c)

end Sys2Proof.Machine
end

