-- ==== Sys2Proof/Machine/Dispatch.lean ====
section
/-! DEFINITION. The dispatch: one arm per command, each one call of its meaning. -/

namespace Sys2Proof.Machine

def exec (i : Instr) (s : State) : Host.Outcome State Fault Refusal :=
  match i with
  | .registerWrite fn off size data hwSet => Sys2Proof.Machine.execRegisterWrite fn off size data hwSet s
  | .rcFieldRead fn off size bar4 hits => Sys2Proof.Machine.execRcFieldRead fn off size bar4 hits s
  | .highHalfLatch fn off => Sys2Proof.Machine.execHighHalfLatch fn off s
  | .timeSourceSet q => Sys2Proof.Machine.execTimeSourceSet q s
  | .ppsEdge high seen tie => Sys2Proof.Machine.execPpsEdge high seen tie s
  | .refWindowClose src => Sys2Proof.Machine.execRefWindowClose src s
  | .ref10mLoss => Sys2Proof.Machine.execRef10mLoss s
  | .ref10mFreqCheck ppb => Sys2Proof.Machine.execRef10mFreqCheck ppb s
  | .wckLock => Sys2Proof.Machine.execWckLock s
  | .trimLimitExceeded => Sys2Proof.Machine.execTrimLimitExceeded s
  | .holdoverEnd => Sys2Proof.Machine.execHoldoverEnd s
  | .freqCheckWindow ppb => Sys2Proof.Machine.execFreqCheckWindow ppb s
  | .xtalLoss => Sys2Proof.Machine.execXtalLoss s
  | .timeHostSet q => Sys2Proof.Machine.execTimeHostSet q s
  | .timeEpochSet q => Sys2Proof.Machine.execTimeEpochSet q s
  | .turnSet q => Sys2Proof.Machine.execTurnSet q s
  | .timeFallow q => Sys2Proof.Machine.execTimeFallow q s
  | .timeStepApply => Sys2Proof.Machine.execTimeStepApply s
  | .fallowChangeApply => Sys2Proof.Machine.execFallowChangeApply s
  | .turnBoundary => Sys2Proof.Machine.execTurnBoundary s
  | .pllRelockStart => Sys2Proof.Machine.execPllRelockStart s
  | .pllLockConfirm tie => Sys2Proof.Machine.execPllLockConfirm tie s
  | .relockTimeout => Sys2Proof.Machine.execRelockTimeout s
  | .guardOpen tie => Sys2Proof.Machine.execGuardOpen tie s
  | .headgateCommit => Sys2Proof.Machine.execHeadgateCommit s
  | .bankSwap => Sys2Proof.Machine.execBankSwap s
  | .tallyFlush => Sys2Proof.Machine.execTallyFlush s
  | .spmGuardRewrite => Sys2Proof.Machine.execSpmGuardRewrite s
  | .dryCheck => Sys2Proof.Machine.execDryCheck s
  | .routeSwitch => Sys2Proof.Machine.execRouteSwitch s
  | .orderTail fn q skew size v => Sys2Proof.Machine.execOrderTail fn q skew size v s
  | .tallyHead fn q skew size v => Sys2Proof.Machine.execTallyHead fn q skew size v s
  | .cancel fn q skew size v => Sys2Proof.Machine.execCancel fn q skew size v s
  | .orderFetch q data => Sys2Proof.Machine.execOrderFetch q data s
  | .partialTimeout q tie => Sys2Proof.Machine.execPartialTimeout q tie s
  | .crcBucketDecay => Sys2Proof.Machine.execCrcBucketDecay s
  | .queue0Enable => Sys2Proof.Machine.execQueue0Enable s
  | .queue0Disable => Sys2Proof.Machine.execQueue0Disable s
  | .queue0DrainEnd => Sys2Proof.Machine.execQueue0DrainEnd s
  | .queueResume fn q => Sys2Proof.Machine.execQueueResume fn q s
  | .busyUnitStart agree => Sys2Proof.Machine.execBusyUnitStart agree s
  | .orderDeadlineTimeout q tie => Sys2Proof.Machine.execOrderDeadlineTimeout q tie s
  | .nop q => Sys2Proof.Machine.execNop q s
  | .devInfo q => Sys2Proof.Machine.execDevInfo q s
  | .devStatus q => Sys2Proof.Machine.execDevStatus q s
  | .queueCreate q => Sys2Proof.Machine.execQueueCreate q s
  | .queueDestroy q => Sys2Proof.Machine.execQueueDestroy q s
  | .queueWeightSet q => Sys2Proof.Machine.execQueueWeightSet q s
  | .altClaim q => Sys2Proof.Machine.execAltClaim q s
  | .altRelease q host => Sys2Proof.Machine.execAltRelease q host s
  | .altReleaseEnd a => Sys2Proof.Machine.execAltReleaseEnd a s
  | .altStatus q => Sys2Proof.Machine.execAltStatus q s
  | .schedLoad q host => Sys2Proof.Machine.execSchedLoad q host s
  | .planLoadEnd a => Sys2Proof.Machine.execPlanLoadEnd a s
  | .schedArm q => Sys2Proof.Machine.execSchedArm q s
  | .schedStop q => Sys2Proof.Machine.execSchedStop q s
  | .schedUnload q => Sys2Proof.Machine.execSchedUnload q s
  | .drainComplete a => Sys2Proof.Machine.execDrainComplete a s
  | .rightsSet q => Sys2Proof.Machine.execRightsSet q s
  | .turnoutSet q => Sys2Proof.Machine.execTurnoutSet q s
  | .refreshClassSet q => Sys2Proof.Machine.execRefreshClassSet q s
  | .modTableLoad q => Sys2Proof.Machine.execModTableLoad q s
  | .keyLoad q => Sys2Proof.Machine.execKeyLoad q s
  | .keyRetire q => Sys2Proof.Machine.execKeyRetire q s
  | .slotDefine q => Sys2Proof.Machine.execSlotDefine q s
  | .bneLoad q => Sys2Proof.Machine.execBneLoad q s
  | .bneStore q => Sys2Proof.Machine.execBneStore q s
  | .bneCopy q => Sys2Proof.Machine.execBneCopy q s
  | .rngFill q => Sys2Proof.Machine.execRngFill q s
  | .modadd q => Sys2Proof.Machine.execModadd q s
  | .modsub q => Sys2Proof.Machine.execModsub q s
  | .modmul q => Sys2Proof.Machine.execModmul q s
  | .modexp q => Sys2Proof.Machine.execModexp q s
  | .modinv q => Sys2Proof.Machine.execModinv q s
  | .ecMul q => Sys2Proof.Machine.execEcMul q s
  | .ecMulBase q => Sys2Proof.Machine.execEcMulBase q s
  | .ecKeygen q => Sys2Proof.Machine.execEcKeygen q s
  | .ecdh q => Sys2Proof.Machine.execEcdh q s
  | .sign q => Sys2Proof.Machine.execSign q s
  | .verify q => Sys2Proof.Machine.execVerify q s
  | .bneOpEnd agree => Sys2Proof.Machine.execBneOpEnd agree s
  | .slotClear q => Sys2Proof.Machine.execSlotClear q s
  | .attest q agree => Sys2Proof.Machine.execAttest q agree s
  | .sessionOpen q agree => Sys2Proof.Machine.execSessionOpen q agree s
  | .gcmEncrypt q => Sys2Proof.Machine.execGcmEncrypt q s
  | .gcmDecrypt q => Sys2Proof.Machine.execGcmDecrypt q s
  | .sha_384 q => Sys2Proof.Machine.execSha_384 q s
  | .sha3_256 q => Sys2Proof.Machine.execSha3_256 q s
  | .sha3_384 q => Sys2Proof.Machine.execSha3_384 q s
  | .shake128 q => Sys2Proof.Machine.execShake128 q s
  | .shake256 q => Sys2Proof.Machine.execShake256 q s
  | .hmacSha384 q => Sys2Proof.Machine.execHmacSha384 q s
  | .symOpEnd => Sys2Proof.Machine.execSymOpEnd s
  | .rngRead q => Sys2Proof.Machine.execRngRead q s
  | .drbgReseed inst => Sys2Proof.Machine.execDrbgReseed inst s
  | .wellHealthFail => Sys2Proof.Machine.execWellHealthFail s
  | .ingPortConfig q => Sys2Proof.Machine.execIngPortConfig q s
  | .ingStart q => Sys2Proof.Machine.execIngStart q s
  | .ingStop q => Sys2Proof.Machine.execIngStop q s
  | .ingKeySet q => Sys2Proof.Machine.execIngKeySet q s
  | .gnssConfig q => Sys2Proof.Machine.execGnssConfig q s
  | .bsnLoad q => Sys2Proof.Machine.execBsnLoad q s
  | .bsnLoadCheckEnd b => Sys2Proof.Machine.execBsnLoadCheckEnd b s
  | .bsnRun q => Sys2Proof.Machine.execBsnRun q s
  | .bsnRunStart b => Sys2Proof.Machine.execBsnRunStart b s
  | .bsnSweepEnd b => Sys2Proof.Machine.execBsnSweepEnd b s
  | .bsnRead q => Sys2Proof.Machine.execBsnRead q s
  | .visGraphLoad q => Sys2Proof.Machine.execVisGraphLoad q s
  | .visRun q => Sys2Proof.Machine.execVisRun q s
  | .visFrameStart p => Sys2Proof.Machine.execVisFrameStart p s
  | .visStageEnd p => Sys2Proof.Machine.execVisStageEnd p s
  | .gpioConfig q => Sys2Proof.Machine.execGpioConfig q s
  | .mgtI2cXfer q => Sys2Proof.Machine.execMgtI2cXfer q s
  | .i2cTransferStart bus => Sys2Proof.Machine.execI2cTransferStart bus s
  | .lostArb bus sent => Sys2Proof.Machine.execLostArb bus sent s
  | .nackAddr bus again => Sys2Proof.Machine.execNackAddr bus again s
  | .nackData bus n => Sys2Proof.Machine.execNackData bus n s
  | .busStuck bus tie => Sys2Proof.Machine.execBusStuck bus tie s
  | .i2cTransferEnd bus data => Sys2Proof.Machine.execI2cTransferEnd bus data s
  | .gauSample q => Sys2Proof.Machine.execGauSample q s
  | .gaugeSampleEnd volts => Sys2Proof.Machine.execGaugeSampleEnd volts s
  | .pwrDomainSet q => Sys2Proof.Machine.execPwrDomainSet q s
  | .tileGate q => Sys2Proof.Machine.execTileGate q s
  | .domainSwitch unit => Sys2Proof.Machine.execDomainSwitch unit s
  | .domainRampEnd unit ok tie => Sys2Proof.Machine.execDomainRampEnd unit ok tie s
  | .unitFollowupEnd unit ok tie => Sys2Proof.Machine.execUnitFollowupEnd unit ok tie s
  | .sluiceReopen q => Sys2Proof.Machine.execSluiceReopen q s
  | .reopenFallowStart => Sys2Proof.Machine.execReopenFallowStart s
  | .logRead q => Sys2Proof.Machine.execLogRead q s
  | .selftestRun q => Sys2Proof.Machine.execSelftestRun q s
  | .selftestEnd failed => Sys2Proof.Machine.execSelftestEnd failed s
  | .selftestResult q => Sys2Proof.Machine.execSelftestResult q s
  | .vfFlr fn => Sys2Proof.Machine.execVfFlr fn s
  | .vfEnableClear => Sys2Proof.Machine.execVfEnableClear s
  | .bar2Read fn addr len => Sys2Proof.Machine.execBar2Read fn addr len s
  | .bar2Write fn addr data => Sys2Proof.Machine.execBar2Write fn addr data s
  | .granuleScrubEnd stack => Sys2Proof.Machine.execGranuleScrubEnd stack s
  | .sets core => Sys2Proof.Machine.execSets core s
  | .seqAdd core => Sys2Proof.Machine.execSeqAdd core s
  | .seqSub core => Sys2Proof.Machine.execSeqSub core s
  | .seqAnd core => Sys2Proof.Machine.execSeqAnd core s
  | .seqOr core => Sys2Proof.Machine.execSeqOr core s
  | .seqXor core => Sys2Proof.Machine.execSeqXor core s
  | .seqShl core => Sys2Proof.Machine.execSeqShl core s
  | .seqShr core => Sys2Proof.Machine.execSeqShr core s
  | .seqSra core => Sys2Proof.Machine.execSeqSra core s
  | .seqMin core => Sys2Proof.Machine.execSeqMin core s
  | .seqMax core => Sys2Proof.Machine.execSeqMax core s
  | .seta core => Sys2Proof.Machine.execSeta core s
  | .adda core => Sys2Proof.Machine.execAdda core s
  | .mova core => Sys2Proof.Machine.execMova core s
  | .lda core => Sys2Proof.Machine.execLda core s
  | .lds core => Sys2Proof.Machine.execLds core s
  | .setz core => Sys2Proof.Machine.execSetz core s
  | .setk core => Sys2Proof.Machine.execSetk core s
  | .setp core => Sys2Proof.Machine.execSetp core s
  | .loop core => Sys2Proof.Machine.execLoop core s
  | .mm core => Sys2Proof.Machine.execMm core s
  | .accStore core => Sys2Proof.Machine.execAccStore core s
  | .accSwap core => Sys2Proof.Machine.execAccSwap core s
  | .rneAdd core => Sys2Proof.Machine.execRneAdd core s
  | .rneSub core => Sys2Proof.Machine.execRneSub core s
  | .rneNeg core => Sys2Proof.Machine.execRneNeg core s
  | .rneMul core => Sys2Proof.Machine.execRneMul core s
  | .rneMac core => Sys2Proof.Machine.execRneMac core s
  | .ntt core => Sys2Proof.Machine.execNtt core s
  | .intt core => Sys2Proof.Machine.execIntt core s
  | .ntt4 core => Sys2Proof.Machine.execNtt4 core s
  | .intt4 core => Sys2Proof.Machine.execIntt4 core s
  | .auto core => Sys2Proof.Machine.execAuto core s
  | .bconv core => Sys2Proof.Machine.execBconv core s
  | .rescale core => Sys2Proof.Machine.execRescale core s
  | .moddown core => Sys2Proof.Machine.execModdown core s
  | .gdecomp core => Sys2Proof.Machine.execGdecomp core s
  | .extprod core => Sys2Proof.Machine.execExtprod core s
  | .vxeAdd core => Sys2Proof.Machine.execVxeAdd core s
  | .vxeSub core => Sys2Proof.Machine.execVxeSub core s
  | .vxeMul core => Sys2Proof.Machine.execVxeMul core s
  | .fma core => Sys2Proof.Machine.execFma core s
  | .vxeMin core => Sys2Proof.Machine.execVxeMin core s
  | .vxeMax core => Sys2Proof.Machine.execVxeMax core s
  | .abs core => Sys2Proof.Machine.execAbs core s
  | .vxeNeg core => Sys2Proof.Machine.execVxeNeg core s
  | .relu core => Sys2Proof.Machine.execRelu core s
  | .clamp core => Sys2Proof.Machine.execClamp core s
  | .vxeShl core => Sys2Proof.Machine.execVxeShl core s
  | .vxeShr core => Sys2Proof.Machine.execVxeShr core s
  | .vxeAnd core => Sys2Proof.Machine.execVxeAnd core s
  | .vxeOr core => Sys2Proof.Machine.execVxeOr core s
  | .vxeXor core => Sys2Proof.Machine.execVxeXor core s
  | .select core => Sys2Proof.Machine.execSelect core s
  | .cmplt core => Sys2Proof.Machine.execCmplt core s
  | .cmple core => Sys2Proof.Machine.execCmple core s
  | .cmpeq core => Sys2Proof.Machine.execCmpeq core s
  | .zip0 core => Sys2Proof.Machine.execZip0 core s
  | .zip1 core => Sys2Proof.Machine.execZip1 core s
  | .unzip0 core => Sys2Proof.Machine.execUnzip0 core s
  | .unzip1 core => Sys2Proof.Machine.execUnzip1 core s
  | .recip core => Sys2Proof.Machine.execRecip core s
  | .rsqrt core => Sys2Proof.Machine.execRsqrt core s
  | .exp2 core => Sys2Proof.Machine.execExp2 core s
  | .log2 core => Sys2Proof.Machine.execLog2 core s
  | .cvt core => Sys2Proof.Machine.execCvt core s
  | .movLocal core => Sys2Proof.Machine.execMovLocal core s
  | .movRemote core => Sys2Proof.Machine.execMovRemote core s
  | .memRd core => Sys2Proof.Machine.execMemRd core s
  | .memWr core => Sys2Proof.Machine.execMemWr core s
  | .hostRd core => Sys2Proof.Machine.execHostRd core s
  | .fill core => Sys2Proof.Machine.execFill core s
  | .copy core => Sys2Proof.Machine.execCopy core s
  | .refreshApprox core => Sys2Proof.Machine.execRefreshApprox core s
  | .refreshExact core => Sys2Proof.Machine.execRefreshExact core s
  | .bitRefresh core => Sys2Proof.Machine.execBitRefresh core s
  | .keyswitchHybrid core => Sys2Proof.Machine.execKeyswitchHybrid core s
  | .transferLanding core slot data => Sys2Proof.Machine.execTransferLanding core slot data s
  | .flumeTransferStart a record => Sys2Proof.Machine.execFlumeTransferStart a record s
  | .hbmRewrite stack => Sys2Proof.Machine.execHbmRewrite stack s
  | .stackTempSample stack temp => Sys2Proof.Machine.execStackTempSample stack temp s
  | .deliveryStart a record => Sys2Proof.Machine.execDeliveryStart a record s
  | .deliveryComplete a id tie shut => Sys2Proof.Machine.execDeliveryComplete a id tie shut s
  | .deliveryReleasePoint a id sent => Sys2Proof.Machine.execDeliveryReleasePoint a id sent s
  | .sluLedgerAck fn a v => Sys2Proof.Machine.execSluLedgerAck fn a v s
  | .aqdPortEnable p => Sys2Proof.Machine.execAqdPortEnable p s
  | .aqdPortDisable p => Sys2Proof.Machine.execAqdPortDisable p s
  | .aqdPortRestart p => Sys2Proof.Machine.execAqdPortRestart p s
  | .laneTrainingDone p => Sys2Proof.Machine.execLaneTrainingDone p s
  | .trainTimeout p => Sys2Proof.Machine.execTrainTimeout p s
  | .alignDone p => Sys2Proof.Machine.execAlignDone p s
  | .alignTimeout p => Sys2Proof.Machine.execAlignTimeout p s
  | .rangingDone p => Sys2Proof.Machine.execRangingDone p s
  | .aqdFrameReceive p frame tie => Sys2Proof.Machine.execAqdFrameReceive p frame tie s
  | .markerReceive p flit tie => Sys2Proof.Machine.execMarkerReceive p flit tie s
  | .rangeFlitReceive p flit => Sys2Proof.Machine.execRangeFlitReceive p flit s
  | .dataQuadReceive p flit => Sys2Proof.Machine.execDataQuadReceive p flit s
  | .sluiceFlitReceive p flit => Sys2Proof.Machine.execSluiceFlitReceive p flit s
  | .recvOpen a record => Sys2Proof.Machine.execRecvOpen a record s
  | .linkSlotSend => Sys2Proof.Machine.execLinkSlotSend s
  | .csiFrameStart p vc ecc => Sys2Proof.Machine.execCsiFrameStart p vc ecc s
  | .csiLongPacket p vc dt ecc crcOk data => Sys2Proof.Machine.execCsiLongPacket p vc dt ecc crcOk data s
  | .csiFrameEnd p vc ecc tie => Sys2Proof.Machine.execCsiFrameEnd p vc ecc tie s
  | .csiOtherPacket p vc ecc => Sys2Proof.Machine.execCsiOtherPacket p vc ecc s
  | .frameTimeout p => Sys2Proof.Machine.execFrameTimeout p s
  | .pipelineRowOut p => Sys2Proof.Machine.execPipelineRowOut p s
  | .ciphertextWritten => Sys2Proof.Machine.execCiphertextWritten s
  | .gnssClkWindow freq gap pins => Sys2Proof.Machine.execGnssClkWindow freq gap pins s
  | .acqCandidateDone => Sys2Proof.Machine.execAcqCandidateDone s
  | .channelLoss n => Sys2Proof.Machine.execChannelLoss n s
  | .navPageDecode n tow ok week eph clk offset iono utc => Sys2Proof.Machine.execNavPageDecode n tow ok week eph clk offset iono utc s
  | .measurementEpoch => Sys2Proof.Machine.execMeasurementEpoch s
  | .solutionDelivery tie edge => Sys2Proof.Machine.execSolutionDelivery tie edge s
  | .solutionTimeout => Sys2Proof.Machine.execSolutionTimeout s
  | .ppsOutRise => Sys2Proof.Machine.execPpsOutRise s
  | .ppsOutFall => Sys2Proof.Machine.execPpsOutFall s
  | .refOscCheck freq gap => Sys2Proof.Machine.execRefOscCheck freq gap s
  | .railMonitorExpiry rail => Sys2Proof.Machine.execRailMonitorExpiry rail s
  | .dieTempSample die temp => Sys2Proof.Machine.execDieTempSample die temp s
  | .walkerExpiry tie => Sys2Proof.Machine.execWalkerExpiry tie s
  | .chipSluiceFlush => Sys2Proof.Machine.execChipSluiceFlush s
  | .coldReset vsel smb io => Sys2Proof.Machine.execColdReset vsel smb io s
  | .perstNAssert tie => Sys2Proof.Machine.execPerstNAssert tie s
  | .hotReset tie => Sys2Proof.Machine.execHotReset tie s
  | .pfFlr tie => Sys2Proof.Machine.execPfFlr tie s
  | .pwrReset fn key => Sys2Proof.Machine.execPwrReset fn key s
  | .bringupStart => Sys2Proof.Machine.execBringupStart s
  | .fuseLoad fuses => Sys2Proof.Machine.execFuseLoad fuses s
  | .coreClockSwitch => Sys2Proof.Machine.execCoreClockSwitch s
  | .stackTrainingEnd stack time pass tie => Sys2Proof.Machine.execStackTrainingEnd stack time pass tie s
  | .ready => Sys2Proof.Machine.execReady s
  | .thermTrip => Sys2Proof.Machine.execThermTrip s
  | .gpioOut fn v => Sys2Proof.Machine.execGpioOut fn v s
  | .mgtCci fn k v => Sys2Proof.Machine.execMgtCci fn k v s
  | .turnStrobeRise k => Sys2Proof.Machine.execTurnStrobeRise k s
  | .turnStrobeFall k => Sys2Proof.Machine.execTurnStrobeFall k s
  | .stampEdge mv held => Sys2Proof.Machine.execStampEdge mv held s
  | .smbDevice => Sys2Proof.Machine.execSmbDevice s
  | .smbStatus => Sys2Proof.Machine.execSmbStatus s
  | .smbTemps => Sys2Proof.Machine.execSmbTemps s
  | .smbAlertCause => Sys2Proof.Machine.execSmbAlertCause s
  | .alertClear pec tie => Sys2Proof.Machine.execAlertClear pec tie s
  | .alertResponse => Sys2Proof.Machine.execAlertResponse s
  | .smbClockTimeout => Sys2Proof.Machine.execSmbClockTimeout s
  | .bypass => Sys2Proof.Machine.execBypass s
  | .idcode => Sys2Proof.Machine.execIdcode s
  | .samplePreload pins v => Sys2Proof.Machine.execSamplePreload pins v s
  | .extest pins v => Sys2Proof.Machine.execExtest pins v s
  | .highz => Sys2Proof.Machine.execHighz s
  | .bitSynchronisation n => Sys2Proof.Machine.execBitSynchronisation n s
  | .configurationRequest fn reg vfs => Sys2Proof.Machine.execConfigurationRequest fn reg vfs s
  | .misalignedBar0Read fn off size => Sys2Proof.Machine.execMisalignedBar0Read fn off size s

end Sys2Proof.Machine
end

