-- ==== Sys2Proof/WellFormed.lean ====
section
/-! DEFINITION. Which commands are well formed: every unit they name exists (Table 1-1, Table 20-1). A meaning whose
command names a unit that does not exist stops with the fault `noSuchUnit`. -/

namespace Sys2Proof

/-- Every index operand names a unit the part has. -/
def Instr.wellFormed : Instr → Bool
  | .registerWrite fn _ _ _ _ => decide (fn < 32)
  | .rcFieldRead fn _ _ _ _ => decide (fn < 32)
  | .highHalfLatch fn _ => decide (fn < 32)
  | .timeSourceSet q => decide (q < 64)
  | .ppsEdge _ _ _ => true
  | .refWindowClose src => decide (src < 4)
  | .ref10mLoss => true
  | .ref10mFreqCheck _ => true
  | .wckLock => true
  | .trimLimitExceeded => true
  | .holdoverEnd => true
  | .freqCheckWindow _ => true
  | .xtalLoss => true
  | .timeHostSet q => decide (q < 64)
  | .timeEpochSet q => decide (q < 64)
  | .turnSet q => decide (q < 64)
  | .timeFallow q => decide (q < 64)
  | .timeStepApply => true
  | .fallowChangeApply => true
  | .turnBoundary => true
  | .pllRelockStart => true
  | .pllLockConfirm _ => true
  | .relockTimeout => true
  | .guardOpen _ => true
  | .headgateCommit => true
  | .bankSwap => true
  | .tallyFlush => true
  | .spmGuardRewrite => true
  | .dryCheck => true
  | .routeSwitch => true
  | .orderTail fn q _ _ _ => decide (fn < 32) && decide (q < 64)
  | .tallyHead fn q _ _ _ => decide (fn < 32) && decide (q < 64)
  | .cancel fn q _ _ _ => decide (fn < 32) && decide (q < 64)
  | .orderFetch q _ => decide (q < 64)
  | .partialTimeout q _ => decide (q < 64)
  | .crcBucketDecay => true
  | .queue0Enable => true
  | .queue0Disable => true
  | .queue0DrainEnd => true
  | .queueResume fn q => decide (fn < 32) && decide (q < 64)
  | .busyUnitStart _ => true
  | .orderDeadlineTimeout q _ => decide (q < 64)
  | .nop q => decide (q < 64)
  | .devInfo q => decide (q < 64)
  | .devStatus q => decide (q < 64)
  | .queueCreate q => decide (q < 64)
  | .queueDestroy q => decide (q < 64)
  | .queueWeightSet q => decide (q < 64)
  | .altClaim q => decide (q < 64)
  | .altRelease q _ => decide (q < 64)
  | .altReleaseEnd a => decide (a < 16)
  | .altStatus q => decide (q < 64)
  | .schedLoad q _ => decide (q < 64)
  | .planLoadEnd a => decide (a < 16)
  | .schedArm q => decide (q < 64)
  | .schedStop q => decide (q < 64)
  | .schedUnload q => decide (q < 64)
  | .drainComplete a => decide (a < 16)
  | .rightsSet q => decide (q < 64)
  | .turnoutSet q => decide (q < 64)
  | .refreshClassSet q => decide (q < 64)
  | .modTableLoad q => decide (q < 64)
  | .keyLoad q => decide (q < 64)
  | .keyRetire q => decide (q < 64)
  | .slotDefine q => decide (q < 64)
  | .bneLoad q => decide (q < 64)
  | .bneStore q => decide (q < 64)
  | .bneCopy q => decide (q < 64)
  | .rngFill q => decide (q < 64)
  | .modadd q => decide (q < 64)
  | .modsub q => decide (q < 64)
  | .modmul q => decide (q < 64)
  | .modexp q => decide (q < 64)
  | .modinv q => decide (q < 64)
  | .ecMul q => decide (q < 64)
  | .ecMulBase q => decide (q < 64)
  | .ecKeygen q => decide (q < 64)
  | .ecdh q => decide (q < 64)
  | .sign q => decide (q < 64)
  | .verify q => decide (q < 64)
  | .bneOpEnd _ => true
  | .slotClear q => decide (q < 64)
  | .attest q _ => decide (q < 64)
  | .sessionOpen q _ => decide (q < 64)
  | .gcmEncrypt q => decide (q < 64)
  | .gcmDecrypt q => decide (q < 64)
  | .sha_384 q => decide (q < 64)
  | .sha3_256 q => decide (q < 64)
  | .sha3_384 q => decide (q < 64)
  | .shake128 q => decide (q < 64)
  | .shake256 q => decide (q < 64)
  | .hmacSha384 q => decide (q < 64)
  | .symOpEnd => true
  | .rngRead q => decide (q < 64)
  | .drbgReseed inst => decide (inst < 4)
  | .wellHealthFail => true
  | .ingPortConfig q => decide (q < 64)
  | .ingStart q => decide (q < 64)
  | .ingStop q => decide (q < 64)
  | .ingKeySet q => decide (q < 64)
  | .gnssConfig q => decide (q < 64)
  | .bsnLoad q => decide (q < 64)
  | .bsnLoadCheckEnd b => decide (b < 2)
  | .bsnRun q => decide (q < 64)
  | .bsnRunStart b => decide (b < 2)
  | .bsnSweepEnd b => decide (b < 2)
  | .bsnRead q => decide (q < 64)
  | .visGraphLoad q => decide (q < 64)
  | .visRun q => decide (q < 64)
  | .visFrameStart p => decide (p < 4)
  | .visStageEnd p => decide (p < 4)
  | .gpioConfig q => decide (q < 64)
  | .mgtI2cXfer q => decide (q < 64)
  | .i2cTransferStart bus => decide (bus < 5)
  | .lostArb bus _ => decide (bus < 5)
  | .nackAddr bus _ => decide (bus < 5)
  | .nackData bus _ => decide (bus < 5)
  | .busStuck bus _ => decide (bus < 5)
  | .i2cTransferEnd bus _ => decide (bus < 5)
  | .gauSample q => decide (q < 64)
  | .gaugeSampleEnd _ => true
  | .pwrDomainSet q => decide (q < 64)
  | .tileGate q => decide (q < 64)
  | .domainSwitch unit => decide (unit < 264)
  | .domainRampEnd unit _ _ => decide (unit < 264)
  | .unitFollowupEnd unit _ _ => decide (unit < 264)
  | .sluiceReopen q => decide (q < 64)
  | .reopenFallowStart => true
  | .logRead q => decide (q < 64)
  | .selftestRun q => decide (q < 64)
  | .selftestEnd _ => true
  | .selftestResult q => decide (q < 64)
  | .vfFlr fn => decide (fn < 32)
  | .vfEnableClear => true
  | .bar2Read fn _ _ => decide (fn < 32)
  | .bar2Write fn _ _ => decide (fn < 32)
  | .granuleScrubEnd stack => decide (stack < 8)
  | .sets core => decide (core < 4608)
  | .seqAdd core => decide (core < 4608)
  | .seqSub core => decide (core < 4608)
  | .seqAnd core => decide (core < 4608)
  | .seqOr core => decide (core < 4608)
  | .seqXor core => decide (core < 4608)
  | .seqShl core => decide (core < 4608)
  | .seqShr core => decide (core < 4608)
  | .seqSra core => decide (core < 4608)
  | .seqMin core => decide (core < 4608)
  | .seqMax core => decide (core < 4608)
  | .seta core => decide (core < 4608)
  | .adda core => decide (core < 4608)
  | .mova core => decide (core < 4608)
  | .lda core => decide (core < 4608)
  | .lds core => decide (core < 4608)
  | .setz core => decide (core < 4608)
  | .setk core => decide (core < 4608)
  | .setp core => decide (core < 4608)
  | .loop core => decide (core < 4608)
  | .mm core => decide (core < 4608)
  | .accStore core => decide (core < 4608)
  | .accSwap core => decide (core < 4608)
  | .rneAdd core => decide (core < 4608)
  | .rneSub core => decide (core < 4608)
  | .rneNeg core => decide (core < 4608)
  | .rneMul core => decide (core < 4608)
  | .rneMac core => decide (core < 4608)
  | .ntt core => decide (core < 4608)
  | .intt core => decide (core < 4608)
  | .ntt4 core => decide (core < 4608)
  | .intt4 core => decide (core < 4608)
  | .auto core => decide (core < 4608)
  | .bconv core => decide (core < 4608)
  | .rescale core => decide (core < 4608)
  | .moddown core => decide (core < 4608)
  | .gdecomp core => decide (core < 4608)
  | .extprod core => decide (core < 4608)
  | .vxeAdd core => decide (core < 4608)
  | .vxeSub core => decide (core < 4608)
  | .vxeMul core => decide (core < 4608)
  | .fma core => decide (core < 4608)
  | .vxeMin core => decide (core < 4608)
  | .vxeMax core => decide (core < 4608)
  | .abs core => decide (core < 4608)
  | .vxeNeg core => decide (core < 4608)
  | .relu core => decide (core < 4608)
  | .clamp core => decide (core.getD 0 < 4608)
  | .vxeShl core => decide (core < 4608)
  | .vxeShr core => decide (core < 4608)
  | .vxeAnd core => decide (core < 4608)
  | .vxeOr core => decide (core < 4608)
  | .vxeXor core => decide (core < 4608)
  | .select core => decide (core < 4608)
  | .cmplt core => decide (core < 4608)
  | .cmple core => decide (core < 4608)
  | .cmpeq core => decide (core < 4608)
  | .zip0 core => decide (core < 4608)
  | .zip1 core => decide (core < 4608)
  | .unzip0 core => decide (core < 4608)
  | .unzip1 core => decide (core < 4608)
  | .recip core => decide (core < 4608)
  | .rsqrt core => decide (core < 4608)
  | .exp2 core => decide (core < 4608)
  | .log2 core => decide (core < 4608)
  | .cvt core => decide (core < 4608)
  | .movLocal core => decide (core < 4608)
  | .movRemote core => decide (core < 4608)
  | .memRd core => decide (core < 4608)
  | .memWr core => decide (core < 4608)
  | .hostRd core => decide (core < 4608)
  | .fill core => decide (core < 4608)
  | .copy core => decide (core < 4608)
  | .refreshApprox core => decide (core < 4608)
  | .refreshExact core => decide (core < 4608)
  | .bitRefresh core => decide (core < 4608)
  | .keyswitchHybrid core => decide (core < 4608)
  | .transferLanding core slot _ => decide (core < 4608) && decide (slot < 64)
  | .flumeTransferStart a _ => decide (a < 16)
  | .hbmRewrite stack => decide (stack < 8)
  | .stackTempSample stack _ => decide (stack < 8)
  | .deliveryStart a _ => decide (a < 16)
  | .deliveryComplete a _ _ _ => decide (a < 16)
  | .deliveryReleasePoint a _ _ => decide (a < 16)
  | .sluLedgerAck fn a _ => decide (fn < 32) && decide (a < 16)
  | .aqdPortEnable p => decide (p < 12)
  | .aqdPortDisable p => decide (p < 12)
  | .aqdPortRestart p => decide (p < 12)
  | .laneTrainingDone p => decide (p < 12)
  | .trainTimeout p => decide (p < 12)
  | .alignDone p => decide (p < 12)
  | .alignTimeout p => decide (p < 12)
  | .rangingDone p => decide (p < 12)
  | .aqdFrameReceive p _ _ => decide (p < 12)
  | .markerReceive p _ _ => decide (p < 12)
  | .rangeFlitReceive p _ => decide (p < 12)
  | .dataQuadReceive p _ => decide (p < 12)
  | .sluiceFlitReceive p _ => decide (p < 12)
  | .recvOpen a _ => decide (a < 16)
  | .linkSlotSend => true
  | .csiFrameStart p _ _ => decide (p < 8)
  | .csiLongPacket p _ _ _ _ _ => decide (p < 8)
  | .csiFrameEnd p _ _ _ => decide (p < 8)
  | .csiOtherPacket p _ _ => decide (p < 8)
  | .frameTimeout p => decide (p < 8)
  | .pipelineRowOut p => decide (p < 8)
  | .ciphertextWritten => true
  | .gnssClkWindow _ _ _ => true
  | .acqCandidateDone => true
  | .channelLoss n => decide (n < 64)
  | .navPageDecode n _ _ _ _ _ _ _ _ => decide (n < 64)
  | .measurementEpoch => true
  | .solutionDelivery _ _ => true
  | .solutionTimeout => true
  | .ppsOutRise => true
  | .ppsOutFall => true
  | .refOscCheck _ _ => true
  | .railMonitorExpiry rail => decide (rail < 10)
  | .dieTempSample die _ => decide (die < 3)
  | .walkerExpiry _ => true
  | .chipSluiceFlush => true
  | .coldReset _ _ _ => true
  | .perstNAssert _ => true
  | .hotReset _ => true
  | .pfFlr _ => true
  | .pwrReset fn _ => decide (fn < 32)
  | .bringupStart => true
  | .fuseLoad _ => true
  | .coreClockSwitch => true
  | .stackTrainingEnd stack _ _ _ => decide (stack < 8)
  | .ready => true
  | .thermTrip => true
  | .gpioOut fn _ => decide (fn < 32)
  | .mgtCci fn k _ => decide (fn < 32) && decide (k < 4)
  | .turnStrobeRise k => decide (k < 2)
  | .turnStrobeFall k => decide (k < 2)
  | .stampEdge _ _ => true
  | .smbDevice => true
  | .smbStatus => true
  | .smbTemps => true
  | .smbAlertCause => true
  | .alertClear _ _ => true
  | .alertResponse => true
  | .smbClockTimeout => true
  | .bypass => true
  | .idcode => true
  | .samplePreload _ _ => true
  | .extest _ _ => true
  | .highz => true
  | .bitSynchronisation n => decide (n < 64)
  | .configurationRequest fn _ _ => decide (fn < 32)
  | .misalignedBar0Read fn _ _ => decide (fn < 32)

end Sys2Proof
end

