-- ==== Sys2Proof/Safety.lean ====
section
/-! DEFINITION. What a safe run is, in the terms the statements use: the model's invariant, an order that is granted and
passes its checks, what its tally reports, what a command may change. -/

namespace Sys2Proof.Machine

/-- The model's invariant: external memory is in canonical form, no store is left undrained, and every waiting command
is well formed. -/
def State.Inv (s : State) : Prop :=
  memWf s.mem = true ∧ s.stores = [] ∧ s.pending.all Instr.wellFormed = true

/-- No core has an access left to make, no cursor reads, and no accumulator waits for a result. -/
def State.coresIdle (s : State) : Prop :=
  s.coreNext = none ∧ ∀ x ∈ s.cores, x.2.acc0.pends = [] ∧ x.2.acc1.pends = []

/-! ## Orders -/

/-- The order `b` at the head of queue `q` is granted to the row `sp` in this state, no mark cancels it, and every check
of R105 passes. -/
structure Taken (sp : Spec) (q : Nat) (host b : Bytes) (s : State) : Prop where
  queue : q < 64
  stores : s.stores = []
  granted : s.grantable sp q = some b
  unmarked : s.marked q = false
  passes : sp.verdict s (s.mkOrd q b host) = none

/-- The row, the queue and what host memory returns, of a command that is an order. -/
def orderRow : Instr → Option (Spec × Nat × Bytes)
  | .altClaim q => some (specAltClaim, q, [])
  | .rightsSet q => some (specRightsSet, q, [])
  | .turnoutSet q => some (specTurnoutSet, q, [])
  | .altStatus q => some (specAltStatus, q, [])
  | .altRelease q host => some (specAltRelease, q, host)
  | .slotDefine q => some (specSlotDefine, q, [])
  | .bneLoad q => some (specBneLoad, q, [])
  | .bneStore q => some (specBneStore, q, [])
  | .bneCopy q => some (specBneCopy, q, [])
  | .rngFill q => some (specRngFill, q, [])
  | .modadd q => some (specModadd, q, [])
  | .modsub q => some (specModsub, q, [])
  | .modmul q => some (specModmul, q, [])
  | .modexp q => some (specModexp, q, [])
  | .modinv q => some (specModinv, q, [])
  | .ecMul q => some (specEcMul, q, [])
  | .ecMulBase q => some (specEcMulBase, q, [])
  | .ecKeygen q => some (specEcKeygen, q, [])
  | .ecdh q => some (specEcdh, q, [])
  | .sign q => some (specSign, q, [])
  | .verify q => some (specVerify, q, [])
  | .slotClear q => some (specSlotClear, q, [])
  | .gnssConfig q => some (specGnssConfig, q, [])
  | .ingPortConfig q => some (specIngPortConfig, q, [])
  | .ingStart q => some (specIngStart, q, [])
  | .ingStop q => some (specIngStop, q, [])
  | .ingKeySet q => some (specIngKeySet, q, [])
  | .modTableLoad q => some (specModTableLoad, q, [])
  | .keyLoad q => some (specKeyLoad, q, [])
  | .keyRetire q => some (specKeyRetire, q, [])
  | .logRead q => some (specLogRead, q, [])
  | .schedLoad q host => some (specSchedLoad, q, host)
  | .schedArm q => some (specSchedArm, q, [])
  | .schedStop q => some (specSchedStop, q, [])
  | .schedUnload q => some (specSchedUnload, q, [])
  | .gpioConfig q => some (specGpioConfig, q, [])
  | .gauSample q => some (specGauSample, q, [])
  | .mgtI2cXfer q => some (specMgtI2cXfer, q, [])
  | .pwrDomainSet q => some (specPwrDomainSet, q, [])
  | .tileGate q => some (specTileGate, q, [])
  | .selftestRun q => some (specSelftestRun, q, [])
  | .devInfo q => some (specDevInfo, q, [])
  | .devStatus q => some (specDevStatus, q, [])
  | .selftestResult q => some (specSelftestResult, q, [])
  | .nop q => some (specNop, q, [])
  | .queueCreate q => some (specQueueCreate, q, [])
  | .queueDestroy q => some (specQueueDestroy, q, [])
  | .queueWeightSet q => some (specQueueWeightSet, q, [])
  | .timeSourceSet q => some (specTimeSourceSet, q, [])
  | .timeHostSet q => some (specTimeHostSet, q, [])
  | .timeEpochSet q => some (specTimeEpochSet, q, [])
  | .timeFallow q => some (specTimeFallow, q, [])
  | .turnSet q => some (specTurnSet, q, [])
  | .refreshClassSet q => some (specRefreshClassSet, q, [])
  | .sluiceReopen q => some (specSluiceReopen, q, [])
  | .bsnLoad q => some (specBsnLoad, q, [])
  | .bsnRun q => some (specBsnRun, q, [])
  | .bsnRead q => some (specBsnRead, q, [])
  | .gcmEncrypt q => some (specGcmEncrypt, q, [])
  | .gcmDecrypt q => some (specGcmDecrypt, q, [])
  | .sha_384 q => some (specSha384, q, [])
  | .sha3_256 q => some (specSha3x256, q, [])
  | .sha3_384 q => some (specSha3x384, q, [])
  | .shake128 q => some (specShake128, q, [])
  | .shake256 q => some (specShake256, q, [])
  | .hmacSha384 q => some (specHmacSha384, q, [])
  | .rngRead q => some (specRngRead, q, [])
  | .attest q agree => some (specAttest agree, q, [])
  | .sessionOpen q agree => some (specSessionOpen agree, q, [])
  | .visGraphLoad q => some (specVisGraphLoad, q, [])
  | .visRun q => some (specVisRun, q, [])
  | _ => none

/-- The state that a granted order acts on: it is consumed and in flight. -/
def State.flown (s : State) (q : Nat) (b host : Bytes) : State :=
  ((s.consume q b).launch (s.mkOrd q b host)).acceptCounter (s.mkOrd q b host)

/-- One tally is added to the order's queue: its SEQ, OPCODE and ALLOT, the status, ITEM and DETAIL, this cycle and turn. -/
def Reports (s t : State) (o : Ord) (status item detail : Nat) : Prop :=
  ∃ m, (t.queue o.q).out =
    (s.queue o.q).out ++ [{ o.tally status item detail false m with cycle := s.wck.cycle, turn := s.wck.turn }]

/-- The order is no longer in flight. -/
def Ended (t : State) (o : Ord) : Prop := ∀ x ∈ t.inflight, x.id ≠ o.id

/-- No tally is written and every byte of external memory reads as before. -/
def Quiet (s t : State) : Prop := (∀ r, (t.queue r).out = (s.queue r).out) ∧ ∀ x, t.rd x = s.rd x

/-- The order ends with one tally, which no other tally accompanies; every byte of external memory reads as before. -/
def Ends (s t : State) (o : Ord) (status item detail : Nat) : Prop :=
  Reports s t o status item detail ∧ Ended t o ∧ (∀ r, r ≠ o.q → (t.queue r).out = (s.queue r).out) ∧ ∀ x, t.rd x = s.rd x

/-- Registers that granting an order of queue `q` and ending it write: DR_INFLIGHT, DR_COUNTS, the queue's DR_QPTR,
DR_QSEQ and DR_QLOAD, and ALT_STATE (BUSY) of the allotment it names. -/
def orderRegs (q a : Nat) : List Nat :=
  [0x30008, 0x30010, 0x31018 + 0x40 * q, 0x31028 + 0x40 * q, 0x3102C + 0x40 * q, 0x40100 + 0x100 * a]

/-- Between two states only the order's own record may differ: queues, orders in flight, the allotments' session counters
and loads, the registers of `orderRegs`; external memory reads as before. -/
structure OnlyOrder (s t : State) (q a : Nat) : Prop where
  rest : t = { s with
    regs := t.regs, queues := t.queues, inflight := t.inflight, granted := t.granted, allots := t.allots, load := t.load, sent := t.sent }
  regs : ∀ r, r ∉ orderRegs q a → t.reg r = s.reg r
  mem : ∀ x, t.rd x = s.rd x
  queues : ∀ r, r ≠ q → (t.queue r).out = (s.queue r).out ∧ (t.queue r).marks = (s.queue r).marks

/-- The order is in flight without a tally: between two states only its own record, what is staged, what is due in a fallow
turn, what waits and the list of fallow turns may differ; external memory reads as before. -/
structure InFlight (s t : State) (o : Ord) : Prop where
  flies : o ∈ t.inflight
  silent : ∀ r, (t.queue r).out = (s.queue r).out
  rest : t = { s with
    regs := t.regs, queues := t.queues, inflight := t.inflight, granted := t.granted, allots := t.allots, staged := t.staged
    fallowDue := t.fallowDue, waiting := t.waiting, wck := { s.wck with fallow := t.wck.fallow } }
  regs : ∀ r, r ∉ orderRegs o.q o.allot → t.reg r = s.reg r
  mem : ∀ x, t.rd x = s.rd x

/-- The change is staged for the next headgate commit, with its order. -/
def Stages (s t : State) (o : Ord) (c : Change) : Prop :=
  InFlight s t o ∧ t.staged = s.staged ++ [⟨o, c, false, s.wck.now⟩] ∧ t.fallowDue = s.fallowDue ∧ t.waiting = s.waiting ∧ t.wck = s.wck

/-- The change is due in fallow turn `k`, which is listed, with its order. -/
def Dues (s t : State) (o : Ord) (k : Nat) (c : Change) : Prop :=
  InFlight s t o ∧ t.fallowDue = s.fallowDue ++ [⟨o, k, c⟩] ∧ k ∈ t.wck.fallow ∧ (∀ j, j ∈ s.wck.fallow → j ∈ t.wck.fallow) ∧
    (∀ j, j ∈ t.wck.fallow → j ∈ s.wck.fallow ∨ j = k) ∧ t.staged = s.staged ∧ t.waiting = s.waiting

/-- The order waits for its unit, in grant order. -/
def Parks (s t : State) (o : Ord) : Prop :=
  InFlight s t o ∧ t.waiting = s.waiting ++ [o] ∧ t.staged = s.staged ∧ t.fallowDue = s.fallowDue ∧ t.wck = s.wck

/-! ## Native commands -/

/-- The core at its next entry, with the registers visible in cycle `t`: `p` the core's store, `j` the plan turn. -/
def Core.atIssue (x : Core) (p : List Entry) (j t : Nat) : Core := (Core.toNext p j (stepsOf p) x []).1.visible t

/-- What is found in cycle `t` once every core of allotment `a` stands there: what fell due before is done, the cursors have read, every
command of the cycle is checked; whether a check failed. -/
def State.cycleChecked (s : State) (a t : Nat) : Bool × State :=
  ((((s.coresTo t).advanceTo t).readDue a t).clashNow a t).checkCycle a (s.allot a).planTurn t

/-- Core `c` of allotment `a` has entry `e`, of engine `eng` and operation `op`, next, in cycle `t`; every check of that cycle passes and
leaves `u`, where the core may still issue and no core has an access of an earlier command left. -/
structure Issues (eng op : Nat) (s u : State) (c a t : Nat) (e : Entry) : Prop where
  core : c < 4608
  stores : s.stores = []
  mem : memWf s.mem = true
  owner : s.coreOwner c = some a
  may : s.mayIssue a c = true
  entry : (s.program c)[((s.core c).atIssue (s.program c) (s.allot a).planTurn t).cursor]? = some e
  due : (Core.toNext (s.program c) (s.allot a).planTurn (stepsOf (s.program c)) (s.core c) []).1.cycleOf e = t
  ahead : s.wck.cycle ≤ t ∧ t < s.turnLength
  row : cmdEng e.w = eng ∧ cmdOp e.w = op
  reach : ((s.coresTo t).advanceTo t).mayIssue a c = true
  passes : s.cycleChecked a t = (false, u)
  still : u.mayIssue a c = true ∧ ∀ x ∈ u.cores, x.2.runs = [] ∧ x.2.writes = []
  counts : ((u.core c).atIssue (s.program c) (s.allot a).planTurn t).empty e.w = false

end Sys2Proof.Machine
end

