-- ==== Sys2Proof/Certificates/Slice0/Obligations.lean ====
section
/-! DEFINITION. The statements for the provers, each of a numbered rule of the spec or derived from its sections. -/

open Sys2Proof
open Sys2Proof.Machine

/-- For every command c, queue rest and state s, one step at s with c at the front of its queue is exec of c at s with
the queue's rest. -/
def Obligations.StepRunsFrontCommand : Prop :=
  ∀ (c : Instr) (rest : List Instr) (s : State),
    step { s with pending := c :: rest } = exec c { s with pending := rest }

/-- The model's choice (log entry 2): with nothing waiting, a step is one clock cycle. While turns run and the turn has a
cycle left, the cycle offset rises by 1 and the turn stays; everything but the clock keeps its value. -/
def Obligations.EmptyQueueTicksTheClock : Prop :=
  ∀ s : State, s.pending = [] →
    ∃ w, step s = .next { s with wck := w } ∧ w.turn = s.wck.turn ∧
      (s.wck.running = true → s.wck.cycle + 1 < s.turnLength → w.cycle = s.wck.cycle + 1) ∧
      (s.wck.running = true → s.turnLength ≤ s.wck.cycle + 1 → w = s.wck)

/-- At reset external memory is canonical, no store is undrained, and no command waits. The memory that the reset lists, none, is the model's choice (log entry 7). -/
def Obligations.ResetSatisfiesInvariant : Prop := State.reset.Inv

/-- From every state whose memory is canonical, whose stores are drained and whose waiting commands are well formed, a
step that answers a next state gives such a state, whatever command of the table stands in front. -/
def Obligations.EveryStepKeepsInvariant : Prop :=
  ∀ s t : State, s.Inv → step s = .next t → t.Inv

/-- Every command whose operands name existing units answers a next state, in every state: it leaves the queue as the step
left it, no store undrained, and memory canonical where it was. A command that names a unit that does not exist stops with
the fault noSuchUnit, which is the model's choice (log entry 85). No command is refused. -/
def Obligations.EveryCommandCompletes : Prop :=
  ∀ (c : Instr) (s : State),
    (c.wellFormed = true → ∃ t, exec c s = .next t ∧ t.pending = s.pending ∧ t.stores = [] ∧
      (memWf s.mem = true → memWf t.mem = true)) ∧
    (c.wellFormed = false → exec c s = .fault .noSuchUnit)

/-- Right after a cold reset: bring-up stands in its FUSE phase with no home stack, turns do not run, the refresh class is
hot, every queue is disabled with a CRC limit of 8, a default deadline of 16 turns and a weight of 16, every allotment is
EMPTY, no unit works, no sluice is closed, and no log entry, tally or order exists. The refresh class is stated by R305; the
registers' values are those of their header lines. External memory lists nothing, so that it reads 0, and the state that the spec gives no
register (queues, allotments, orders, log) is empty: both are the model's choice (log entries 7 and 8). -/
def Obligations.ResetLeavesBringupState : Prop :=
  State.reset.get F.PWR_STATUS_PHASE = 0 ∧ State.reset.get F.PWR_STATUS_HOME_STACK = 15 ∧
  State.reset.get F.PWR_STATUS_RESET_CAUSE = 0 ∧ State.reset.wck.running = false ∧
  State.reset.get F.WCK_TURN_CYCLES_COUNT = 15000000 ∧ State.reset.get F.WCK_TURN_RATE_RATE = 120 ∧
  State.reset.get F.HBM_CLASS_CLASS = 1 ∧ State.reset.get F.DR_CRC_LIMIT_COUNT = 8 ∧
  State.reset.get F.DR_DEADLINE_DEFAULT_TURNS = 16 ∧
  (∀ q < 64, State.reset.get (F.DR_QCTL_ENABLE q) = 0 ∧ State.reset.get (F.DR_QLOAD_WEIGHT q) = 16 ∧
    (State.reset.queue q).out = [] ∧ (State.reset.queue q).fetched = none) ∧
  (∀ a < 16, State.reset.altState a = 0 ∧ (State.reset.allot a).rights = [] ∧ State.reset.sluiceOf a = 0) ∧
  (∀ u < 264, State.reset.working u = false) ∧ State.reset.chipClosed = false ∧
  State.reset.log = [] ∧ State.reset.inflight = [] ∧ State.reset.mem = []

/-- Storing a byte string at an address, least address first, and draining the stores into external memory: every byte of
the string reads back, every byte outside it reads as before, and the memory stays canonical. -/
def Obligations.MemoryReadsWhatWasStored : Prop :=
  ∀ (s : State) (a : Nat) (b : Bytes), s.stores = [] → memWf s.mem = true →
    memWf (memDrain s.mem (s.wrRaw a b).stores) = true ∧
    ∀ x, smGet memDefault (memDrain s.mem (s.wrRaw a b).stores) x =
      if a ≤ x ∧ x < a + b.length then b.getD (x - a) 0 else s.rd x

/-- For every command that is an order: where the arbitration stage grants the order at the head of its queue, no mark
cancels it and every check passes, the command completes with the effect of its row on the state in which the order is
consumed: the expected sequence number has advanced by 1 modulo 2^32, the head by the order's units, the order is in flight
and no longer fetched, DR_COUNTS counts one grant more up to its limit, and no tally exists that did not. -/
def Obligations.GrantedOrderTakesEffect : Prop :=
  ∀ (c : Instr) (sp : Spec) (q : Nat) (host b : Bytes) (s : State),
    orderRow c = some (sp, q, host) → Taken sp q host b s →
    (∃ t, exec c s = .next t ∧ settle s (sp.body (s.flown q b host) (s.mkOrd q b host)) = .next t) ∧
    (s.flown q b host).get (F.DR_QSEQ_EXPECT q) = (s.get (F.DR_QSEQ_EXPECT q) + 1) % 2 ^ 32 ∧
    (s.flown q b host).get (F.DR_QPTR_HEAD q) = (s.get (F.DR_QPTR_HEAD q) + unitsOf b) % 2 ^ 32 ∧
    (s.flown q b host).inflight = s.inflight ++ [s.mkOrd q b host] ∧
    ((s.flown q b host).queue q).fetched = none ∧
    (s.flown q b host).get F.DR_COUNTS_GRANTS = min (2 ^ 32 - 1) (s.get F.DR_COUNTS_GRANTS + 1) ∧
    (∀ r, ((s.flown q b host).queue r).out = (s.queue r).out)

/-- For every command that is an order: where the order at the head is granted, no mark cancels it and w is the first
failure in the sequence of R105, the command completes: exactly one tally is added, with the order's SEQ and OPCODE, the
status and item of w and its cause and value in DETAIL; the order is not in flight, nothing leaves the device, and every
byte of memory reads as before. Where w is not LENGTH's own failure, only the record of the order changes; where it is (LENGTH is below what the
opcode takes), the queue halts with the cause of w, holds no fetched order, and its marks stay.
The order of the checks within a group (log entry 62), that only LENGTH's own failure halts the queue (log entry 61) and a value of
DETAIL that no rule states (log entry 19) are the model's readings. -/
def Obligations.RefusedOrderReportsFirstFailure : Prop :=
  ∀ (c : Instr) (sp : Spec) (q : Nat) (host b : Bytes) (s : State) (w : Why),
    orderRow c = some (sp, q, host) → q < 64 → s.stores = [] → s.grantable sp q = some b → s.marked q = false →
    sp.verdict s (s.mkOrd q b host) = some w →
    ∃ t, exec c s = .next t ∧ Reports s t (s.mkOrd q b host) w.status w.item (detailOf w.cause w.value) ∧
      Ended t (s.mkOrd q b host) ∧ t.sent = s.sent ∧ (∀ x, t.rd x = s.rd x) ∧
      (w.ofLength = false → OnlyOrder s t q (hdrAllot b)) ∧
      (w.ofLength = true → t.get (F.DR_QSTAT_STATE q) = 2 ∧ t.get (F.DR_QSTAT_HALT_CAUSE q) = w.cause % 2 ^ 8 ∧
        (t.queue q).fetched = none ∧ (t.queue q).marks = (s.queue q).marks ∧
        ∀ r, r ≠ q → (t.queue r).out = (s.queue r).out ∧ (t.queue r).marks = (s.queue r).marks)

/-- For every command that is an order: where the order at the head is granted while a mark of its queue names it, it is
consumed whatever its checks would say: its only tally is CANCELLED with CXL = 1 and cause CANCEL (and MARGIN0 where a partial order tied with its timer), the expected sequence
number advances by 1, the mark is gone and the other marks stay, the order is not in flight, and memory reads as before. -/
def Obligations.MarkCancelsItsTarget : Prop :=
  ∀ (c : Instr) (sp : Spec) (q : Nat) (host b : Bytes) (s : State),
    orderRow c = some (sp, q, host) → q < 64 → s.stores = [] → s.grantable sp q = some b → s.marked q = true →
    ∃ t, exec c s = .next t ∧
      (t.queue q).out = (s.queue q).out ++ [{ (s.mkOrd q b []).tally stCancelled 0 (detailOf 0x32 0) true (s.queue q).tied with
        cycle := s.wck.cycle, turn := s.wck.turn }] ∧
      (t.queue q).marks = (s.queue q).marks.filter (fun m => m != s.get (F.DR_QSEQ_EXPECT q)) ∧
      t.get (F.DR_QSEQ_EXPECT q) = (s.get (F.DR_QSEQ_EXPECT q) + 1) % 2 ^ 32 ∧
      t.inflight = s.inflight ∧ ∀ x, t.rd x = s.rd x

/-- The arbitration stage: queue 0, when eligible, is granted. Otherwise the queue granted is an eligible tenant queue
whose credit no other eligible queue exceeds, and no eligible queue of lower number has as much. No queue is granted only
when none is eligible. After a grant to tenant queue g, every eligible tenant queue has gained its weight, the granted one has
paid the sum of the weights of the eligible tenant queues, and the credit of every other queue is unchanged; a grant to queue 0
changes no credit. -/
def Obligations.ArbitrationGrantsGreatestCredit : Prop :=
  ∀ s : State,
    (s.eligible 0 = true → s.arbWinner = some 0) ∧
    (s.eligible 0 = false → ∀ g, s.arbWinner = some g →
      1 ≤ g ∧ g < 64 ∧ s.eligible g = true ∧
      ∀ q, 1 ≤ q → q < 64 → s.eligible q = true → s.creditNow q ≤ s.creditNow g ∧ (q < g → s.creditNow q < s.creditNow g)) ∧
    (s.arbWinner = none ↔ ∀ q < 64, s.eligible q = false) ∧
    ∀ g q : Nat, q < 64 → ((s.settleCredits g).queue q).credit =
      if g = 0 then (s.queue q).credit
      else if q ∈ s.eligibleTenants then
        s.creditNow q - (if q = g then ((s.eligibleTenants.map fun r => s.get (F.DR_QLOAD_WEIGHT r)).sum : Nat) else 0)
      else (s.queue q).credit

/-- Each of the five status orders, granted and passing its checks, completes: its one tally is DONE with ITEM 0 and
DETAIL 0; NOP writes nothing, the others write their reply, in one write with the requester of the queue, to the address in
bytes 16 to 23; nothing else changes, and every byte of external memory reads as before. PWR_DOMAIN_SET and TILE_GATE of a unit that already
stands as asked, and GPIO_CONFIG with COUNT 0: one tally, DONE with ITEM 0, and nothing else changes. -/
def Obligations.StatusOrdersReply : Prop :=
  ∀ (q : Nat) (b : Bytes) (s : State),
    (Taken specNop q [] b s → ∃ t, exec (.nop q) s = .next t ∧ Reports s t (s.mkOrd q b []) stDone 0 0 ∧
      Ended t (s.mkOrd q b []) ∧ OnlyOrder s t q (hdrAllot b) ∧ t.sent = s.sent) ∧
    (Taken specDevInfo q [] b s → ∃ t, exec (.devInfo q) s = .next t ∧ Reports s t (s.mkOrd q b []) stDone 0 0 ∧
      Ended t (s.mkOrd q b []) ∧ OnlyOrder s t q (hdrAllot b) ∧
      t.sent = s.sent ++ [.hostWrite ((s.flown q b []).fnOf q) (fieldAt b 16 8) (s.flown q b []).devInfo false]) ∧
    (Taken specDevStatus q [] b s → ∃ t, exec (.devStatus q) s = .next t ∧ Reports s t (s.mkOrd q b []) stDone 0 0 ∧
      Ended t (s.mkOrd q b []) ∧ OnlyOrder s t q (hdrAllot b) ∧
      t.sent = s.sent ++ [.hostWrite ((s.flown q b []).fnOf q) (fieldAt b 16 8) (s.flown q b []).devStatus false]) ∧
    (Taken specAltStatus q [] b s → ∃ t, exec (.altStatus q) s = .next t ∧ Reports s t (s.mkOrd q b []) stDone 0 0 ∧
      Ended t (s.mkOrd q b []) ∧ OnlyOrder s t q (hdrAllot b) ∧
      t.sent = s.sent ++ [.hostWrite ((s.flown q b []).fnOf q) (fieldAt b 16 8) ((s.flown q b []).altStatus (hdrAllot b)) false]) ∧
    (Taken specSelftestResult q [] b s → ∃ t, exec (.selftestResult q) s = .next t ∧ Reports s t (s.mkOrd q b []) stDone 0 0 ∧
      Ended t (s.mkOrd q b []) ∧ OnlyOrder s t q (hdrAllot b) ∧
      t.sent = s.sent ++ [.hostWrite ((s.flown q b []).fnOf q) (fieldAt b 16 8) (s.flown q b []).testResult false]) ∧
    let o := s.mkOrd q b []
    (Taken specPwrDomainSet q [] b s → s.powered (o.field 16 2) = (o.field 18 1 == 1) →
      ∃ t, exec (.pwrDomainSet q) s = .next t ∧ Reports s t o stDone 0 0 ∧ Ended t o ∧ OnlyOrder s t q o.allot ∧ t.sent = s.sent) ∧
    (Taken specTileGate q [] b s → s.powered (o.field 16 2) = (o.field 18 1 == 1) →
      ∃ t, exec (.tileGate q) s = .next t ∧ Reports s t o stDone 0 0 ∧ Ended t o ∧ OnlyOrder s t q o.allot ∧ t.sent = s.sent) ∧
    (Taken specGpioConfig q [] b s → o.field 17 1 = 0 →
      ∃ t, exec (.gpioConfig q) s = .next t ∧ Reports s t o stDone 0 0 ∧ Ended t o ∧ OnlyOrder s t q o.allot ∧ t.sent = s.sent)

/-- QUEUE_WEIGHT_SET, ALT_CLAIM, TURNOUT_SET, KEY_RETIRE, GPIO_CONFIG (with records) and TIME_SOURCE_SET (with the reference
in force), granted and passing their checks, complete: the change they name is staged with the order, which stays in flight
with no tally; nothing is in force yet, and every byte of memory reads as before. ALT_CLAIM with ALLOT 0xFF stages its claim
for the lowest-numbered free allotment. TIME_SOURCE_SET naming another PLL reference has two parts: its sources are staged for the
headgate and its reference is due in the fallow turn of R52, which is listed.
That TIME_SOURCE_SET has its two parts so is the model's reading (log entry 45). -/
def Obligations.StagedOrdersWaitForHeadgate : Prop :=
  ∀ (q : Nat) (b : Bytes) (s : State), let o := s.mkOrd q b []
    (Taken specQueueWeightSet q [] b s →
      ∃ t, exec (.queueWeightSet q) s = .next t ∧ Stages s t o (.weight (o.field 16 1) (o.field 17 1))) ∧
    (Taken specAltClaim q [] b s → ∀ a, (if o.allot = 255 then s.freeAllot else some o.allot) = some a →
      ∃ t, exec (.altClaim q) s = .next t ∧
        Stages s t o (.claim a (acFn o) (acParty o) (acSealed o) (acTiles o))) ∧
    (Taken specTurnoutSet q [] b s →
      ∃ t, exec (.turnoutSet q) s = .next t ∧ Stages s t o (.turnout o.allot (o.field 16 8) (o.field 24 2))) ∧
    (Taken specKeyRetire q [] b s →
      ∃ t, exec (.keyRetire q) s = .next t ∧ Stages s t o (.keyRetire o.allot (klKey o))) ∧
    (Taken specGpioConfig q [] b s → o.field 17 1 ≠ 0 →
      ∃ t, exec (.gpioConfig q) s = .next t ∧ Stages s t o
        (.pins (o.field 16 1) ((List.range (o.field 17 1)).map fun i => leNat (o.data (32 + 16 * i) 16)))) ∧
    (Taken specTimeSourceSet q [] b s → o.field 20 1 = s.wck.pllRef →
      ∃ t, exec (.timeSourceSet q) s = .next t ∧ Stages s t o
        (.sources (bits (o.field 16 1) 0 4) (o.field 17 2) (o.field 19 1))) ∧
    (Taken specTimeSourceSet q [] b s → o.field 20 1 ≠ s.wck.pllRef →
      ∃ t, exec (.timeSourceSet q) s = .next t ∧ InFlight s t o ∧
        t.staged = s.staged ++ [⟨o, .sources (bits (o.field 16 1) 0 4) (o.field 17 2) (o.field 19 1), false, s.wck.now⟩] ∧
        t.fallowDue = s.fallowDue ++ [⟨o, s.fallowTurn, .pllRef (o.field 20 1)⟩] ∧ s.fallowTurn ∈ t.wck.fallow)

/-- TIME_HOST_SET, TIME_EPOCH_SET, REFRESH_CLASS_SET, PWR_DOMAIN_SET and TILE_GATE (of a unit that stands the other way),
granted and passing their checks, complete: the change is due with the order in the turn that R52 names (2 turns ahead while
an allotment is ARMED or RUNNING, else 1, modulo 2^48), and that turn is listed as fallow. TIME_FALLOW is due in the turn it
names. TURN_SET, with no earlier one undecided, is due in the first turn from there that ends at a whole second; with one
undecided, or waiting, it waits. Every other fallow turn stays listed, the order is in flight with no tally, memory reads as before.
That a TURN_SET waits for an earlier one is the model's reading (log entry 45). -/
def Obligations.FallowOnlyOrdersAreDueInTheirTurn : Prop :=
  ∀ (q : Nat) (b : Bytes) (s : State), let o := s.mkOrd q b []
    s.fallowTurn = (s.wck.turn + if s.anyRunning then 2 else 1) % 2 ^ 48 ∧
    (Taken specTimeHostSet q [] b s → ∃ t, exec (.timeHostSet q) s = .next t ∧
      Dues s t o s.fallowTurn (.hostTime (o.field 20 4) (bits (o.field 16 4) 0 30))) ∧
    (Taken specTimeEpochSet q [] b s → ∃ t, exec (.timeEpochSet q) s = .next t ∧
      Dues s t o s.fallowTurn (.epoch (o.field 16 4))) ∧
    (Taken specRefreshClassSet q [] b s → ∃ t, exec (.refreshClassSet q) s = .next t ∧
      Dues s t o s.fallowTurn (.refresh (o.field 16 1))) ∧
    (Taken specPwrDomainSet q [] b s → s.powered (o.field 16 2) ≠ (o.field 18 1 == 1) →
      ∃ t, exec (.pwrDomainSet q) s = .next t ∧ Dues s t o s.fallowTurn (.power (o.field 16 2) (o.field 18 1 == 1))) ∧
    (Taken specTileGate q [] b s → s.powered (o.field 16 2) ≠ (o.field 18 1 == 1) →
      ∃ t, exec (.tileGate q) s = .next t ∧ Dues s t o s.fallowTurn (.power (o.field 16 2) (o.field 18 1 == 1))) ∧
    (Taken specTimeFallow q [] b s → ∃ t, exec (.timeFallow q) s = .next t ∧
      Dues s t o (o.field 16 6) .fallowOnly) ∧
    (Taken specTurnSet q [] b s → s.turnSetBusy = false → s.queued o = false → ∃ t, exec (.turnSet q) s = .next t ∧
      Dues s t o (s.nextSecondTurn s.fallowTurn) (.turnSet (o.field 16 2) (o.field 20 4))) ∧
    (Taken specTurnSet q [] b s → (s.turnSetBusy = true ∨ s.queued o = true) → ∃ t, exec (.turnSet q) s = .next t ∧ Parks s t o)

/-- RIGHTS_SET, granted and passing its checks, completes: the entries are staged in payload order with the order, in flight
without a tally; the allotment's table is unchanged and its register shows STAGED; no other register but those of the grant
and ALT_RIGHTS changes. SLUICE_REOPEN completes: the reopening of its subject is listed for the fallow turn of R52, which is
listed; for scope 2 the allotment's sluice reads REOPENING (2); no tally is written. Memory reads as before after both. -/
def Obligations.RightsAndReopeningsAreAccepted : Prop :=
  ∀ (q : Nat) (b : Bytes) (s : State), let o := s.mkOrd q b []
    (Taken specRightsSet q [] b s → ∃ t, exec (.rightsSet q) s = .next t ∧
      t.staged = s.staged ++ [⟨o, .rights o.allot ((rsEntries o).map entryOf), false, s.wck.now⟩] ∧
      (∀ a, (t.allot a).rights = (s.allot a).rights) ∧ t.get (F.ALT_RIGHTS_STAGED o.allot) = 1 ∧
      o ∈ t.inflight ∧ (∀ r, (t.queue r).out = (s.queue r).out) ∧
      (∀ r, r ∉ orderRegs q o.allot → r ≠ 0x40120 + 0x100 * o.allot → t.reg r = s.reg r) ∧ ∀ x, t.rd x = s.rd x) ∧
    (Taken specSluiceReopen q [] b s → ∃ t, exec (.sluiceReopen q) s = .next t ∧
      t.reopens = s.reopens ++ [⟨o, roScope o, roSubject o, s.fallowTurn, false⟩] ∧ s.fallowTurn ∈ t.wck.fallow ∧
      (roScope o = 2 → t.sluiceOf o.allot = 2) ∧ o ∈ t.inflight ∧ (∀ r, (t.queue r).out = (s.queue r).out) ∧
      t.closed = s.closed ∧ (∀ r, r ∉ orderRegs q o.allot → r ≠ 0x100100 + 0x20 * o.allot → t.reg r = s.reg r) ∧
      ∀ x, t.rd x = s.rd x)

/-- QUEUE_CREATE, granted and passing its checks, completes with one DONE tally on queue 0: the named queue is enabled and
running, bound to the named allotment, with the rings, sizes, vector and weight of the order, its head, tail, expected
number, credit and marks 0. QUEUE_DESTROY completes with DONE: the named queue is disabled and stopped, holds no fetched order
and no mark, and its tallies stay to be written; that it ends DONE at once, and that its ring is written until no tally is left, is the
model's choice (log entry 18). Memory reads as before after both. -/
def Obligations.QueuesAreCreatedAndDestroyed : Prop :=
  ∀ (b : Bytes) (s : State), let o := s.mkOrd 0 b []; let n := o.field 16 1
    (Taken specQueueCreate 0 [] b s → ∃ t, exec (.queueCreate 0) s = .next t ∧ Reports s t o stDone 0 0 ∧ Ended t o ∧
      t.get (F.DR_QCTL_ENABLE n) = 1 ∧ t.get (F.DR_QSTAT_STATE n) = 1 ∧ (t.queue n).bound = o.field 17 1 ∧
      t.get (F.DR_QPTR_HEAD n) = 0 ∧ t.get (F.DR_QPTR_TAIL n) = 0 ∧ t.get (F.DR_QSEQ_EXPECT n) = 0 ∧
      (t.queue n).credit = 0 ∧ (t.queue n).marks = [] ∧ (t.queue n).fetched = none ∧
      t.get (F.DR_QLOAD_WEIGHT n) = o.field 18 1 ∧ t.get (F.DR_QBASE_LOC n) = o.field 19 1 % 2 ∧
      t.get (F.DR_QBASE_BASE n) = o.field 32 8 / 64 % 2 ^ 58 ∧ t.get (F.DR_TBASE_BASE n) = o.field 40 8 / 64 % 2 ^ 58 ∧
      t.get (F.DR_QSIZE_ORDER_LOG2 n) = o.field 20 1 % 2 ^ 5 ∧ t.get (F.DR_QSIZE_TALLY_LOG2 n) = o.field 21 1 % 2 ^ 4 ∧
      t.get (F.DR_QSIZE_VECTOR n) = o.field 22 2 % 2 ^ 11 ∧
      (∀ r, r ≠ n → r ≠ 0 → t.queue r = s.queue r) ∧ ∀ x, t.rd x = s.rd x) ∧
    (Taken specQueueDestroy 0 [] b s → ∃ t, exec (.queueDestroy 0) s = .next t ∧ Reports s t o stDone 0 0 ∧ Ended t o ∧
      t.get (F.DR_QCTL_ENABLE n) = 0 ∧ t.get (F.DR_QSTAT_STATE n) = 0 ∧ (t.queue n).closing = true ∧
      (t.queue n).fetched = none ∧ (t.queue n).marks = [] ∧ (t.queue n).out = (s.queue n).out ∧
      (∀ r, r ≠ n → r ≠ 0 → t.queue r = s.queue r) ∧ ∀ x, t.rd x = s.rd x)

/-- LOG_READ, granted and passing its checks, where no block it reads is in error, completes: the retained entries it picks, oldest first and no more than its
buffer holds, leave in one write to the reply address, 32 bytes each; its one tally is DONE with their count in ITEM and the
number of the first in DETAIL (an open value where there is none, log entry 19); nothing else changes. Where the block that holds a
picked entry cannot be used, which block that is being open (log entry 92), the chip's sluice closes with cause CTRL_ECC and nothing leaves. -/
def Obligations.LogReadReturnsPickedEntries : Prop :=
  ∀ (q : Nat) (b : Bytes) (s : State), let o := s.mkOrd q b []; let u := s.flown q b []
    Taken specLogRead q [] b s →
    ((∀ k, s.blockEcc k = .clean) → ∃ t, exec (.logRead q) s = .next t ∧
      Reports s t o stDone (u.logPick o).length
        (match u.logPick o with | x :: _ => x.1 | [] => Config.openDetail 0x104 % 2 ^ 32) ∧
      Ended t o ∧ OnlyOrder s t q (hdrAllot b) ∧
      t.sent = s.sent ++ [.hostWrite (u.fnOf q) (o.field 20 8) ((u.logPick o).flatMap (·.2)) false] ∧
      (u.logPick o).length ≤ lrLen o / 32) ∧
    (∀ x ∈ u.logPick o, s.get F.PWR_STATUS_HOME_STACK ≠ 15 → (s.blockEcc (s.bookBlock (if lrBook o then some o.allot else none) x.1)).usable = false → s.chipClosed = false →
      ∃ t, exec (.logRead q) s = .next t ∧ t.chipClosed = true ∧ t.get F.SLU_STATUS_CHIP_CAUSE = 0xF7 ∧
        (∀ f a d e, Sent.hostWrite f a d e ∈ t.sent → Sent.hostWrite f a d e ∈ s.sent) ∧ ∀ x, t.rd x = s.rd x)

/-- A 4-byte aligned doorbell write of a function that is served and whose page the queue is, for an enabled queue. ORDER_TAIL: the tail is
the value written, modulo 2^32; where more units than the ring holds would be published on a running queue, by a new value,
the queue halts with cause OVERRUN and one BAD_LENGTH tally, and otherwise neither its state nor its tallies change. TALLY_HEAD:
a value from h to w is accepted; any other leaves the queue and adds one log entry. CANCEL: a target already granted raises
one TOO_LATE tally with CXL and cause CANCEL_LATE; a target to come is marked once, a ninth mark only logged. Every other
queue and every byte of memory keep their value. SEQ 0, OPCODE 0 and ALLOT of the OVERRUN tally (log entry 17), OPCODE and ALLOT of a late
cancel's (log entry 87), and that a repeated mark changes nothing (log entry 89), are the model's choice. -/
def Obligations.DoorbellsActOnTheirQueue : Prop :=
  ∀ (fn q skew v : Nat) (s : State), skew % 4 = 0 → fn < 32 → q < 64 → s.stores = [] → s.isReady = true → s.ownsPage fn q = true →
    s.queueLive q = true →
    (∃ t, exec (.orderTail fn q skew 4 v) s = .next t ∧ t.get (F.DR_QPTR_TAIL q) = v % 2 ^ 32 ∧
      t.get (F.DR_QPTR_HEAD q) = s.get (F.DR_QPTR_HEAD q) ∧
      (let fills := v % 2 ^ 32 ≠ s.get (F.DR_QPTR_TAIL q) ∧ s.get (F.DR_QSTAT_STATE q) = 1 ∧
          s.ringSize q < (v % 2 ^ 32 + 2 ^ 32 - s.get (F.DR_QPTR_HEAD q)) % 2 ^ 32;
        (fills → t.get (F.DR_QSTAT_STATE q) = 2 ∧ t.get (F.DR_QSTAT_HALT_CAUSE q) = 0x26 ∧ (t.queue q).fetched = none ∧
          (t.queue q).out = (s.queue q).out ++
            [⟨0, 0, stBadLength, false, false, false, 0, s.wck.cycle, detailOf 0x26 (v % 2 ^ 32), s.wck.turn, (s.queue q).bound⟩]) ∧
        (¬fills → t.get (F.DR_QSTAT_STATE q) = s.get (F.DR_QSTAT_STATE q) ∧ (t.queue q).out = (s.queue q).out)) ∧
      (∀ r, r ≠ q → t.queue r = s.queue r) ∧ t = { s with regs := t.regs, queues := t.queues } ∧ ∀ x, t.rd x = s.rd x) ∧
    (∃ t, exec (.tallyHead fn q skew 4 v) s = .next t ∧
      (let d (n : Nat) : Nat := (n + 2 ^ 32 - (s.queue q).tallyHead) % 2 ^ 32;
        (d (v % 2 ^ 32) ≤ d ((s.queue q).written % 2 ^ 32) →
          (t.queue q).tallyHead = v % 2 ^ 32 ∧ t.regs = s.regs ∧ t.log = s.log) ∧
        (d ((s.queue q).written % 2 ^ 32) < d (v % 2 ^ 32) →
          t.queues = s.queues ∧ ∃ e, t.log.getLast? = some e ∧ e.cause = 0x103 ∧ e.value = v % 2 ^ 32)) ∧
      (∀ r, r ≠ q → t.queue r = s.queue r) ∧ t = { s with regs := t.regs, queues := t.queues, log := t.log } ∧ ∀ x, t.rd x = s.rd x) ∧
    (∃ t, exec (.cancel fn q skew 4 v) s = .next t ∧
      (let w := v % 2 ^ 32
        let past := 2 ^ 31 ≤ (w + 2 ^ 32 - s.get (F.DR_QSEQ_EXPECT q)) % 2 ^ 32;
        (past → (t.queue q).marks = (s.queue q).marks ∧ ∃ e, (t.queue q).out = (s.queue q).out ++ [e] ∧ e.seq = w ∧
          e.status = stTooLate ∧ e.cxl = true ∧ bits e.detail 32 8 = 0x31 ∧ (e.op, e.allot) = smGet (0, 255) (s.queue q).past w) ∧
        (¬past → w ∈ (s.queue q).marks → t = s) ∧
        (¬past → w ∉ (s.queue q).marks → (s.queue q).marks.length < 8 →
          (t.queue q).marks = (s.queue q).marks ++ [w] ∧ t.get (F.DR_QSTAT_MARKS q) = (s.queue q).marks.length + 1 ∧
          (t.queue q).out = (s.queue q).out) ∧
        (¬past → w ∉ (s.queue q).marks → 8 ≤ (s.queue q).marks.length →
          t.queues = s.queues ∧ ∃ e, t.log.getLast? = some e ∧ e.cause = 0x104 ∧ e.value = w)) ∧
      (∀ r, r ≠ q → t.queue r = s.queue r) ∧ t = { s with regs := t.regs, queues := t.queues, log := t.log } ∧ ∀ x, t.rd x = s.rd x)

/-- An aligned 4-byte doorbell write to a page that the function does not present, or of a queue that is not live (for TALLY_HEAD, nor
being destroyed), changes nothing at all. A doorbell write of another size, or not aligned to 4 bytes, changes no queue: it adds one log entry
with cause REG_ALIGN; that this holds of a page that the function does not present, or of a queue that is not live, is the model's choice (log entry 89). -/
def Obligations.StrayDoorbellsChangeNoQueue : Prop :=
  ∀ (fn q v : Nat) (s : State), fn < 32 → q < 64 → s.stores = [] → s.isReady = true →
    (∀ skew, skew % 4 = 0 → (s.ownsPage fn q && s.queueLive q) = false →
      exec (.orderTail fn q skew 4 v) s = .next s ∧ exec (.cancel fn q skew 4 v) s = .next s ∧
      (s.ownsPage fn q = false ∨ (s.queue q).closing = false → exec (.tallyHead fn q skew 4 v) s = .next s)) ∧
    ∀ size skew, size ≠ 4 ∨ skew % 4 ≠ 0 → ∀ c ∈ [Instr.orderTail fn q skew size v, .tallyHead fn q skew size v, .cancel fn q skew size v],
      ∃ t, exec c s = .next t ∧ t.queues = s.queues ∧ t = { s with regs := t.regs, log := t.log } ∧
        ∃ e, t.log.getLast? = some e ∧ e.cause = 0x101 ∧ e.seq = s.get F.SLU_LOG_NEXT

/-- QUEUE_RESUME of a halted queue: the head takes the tail, credit and marks are dropped, it runs. QUEUE0_ENABLE of a
disabled queue 0: it runs, all counts 0. QUEUE0_DISABLE: it is disabled and draining, nothing fetched. QUEUE0_DRAIN_END with
no order in flight and no tally held but later notices: it stops. CRC_BUCKET_DECAY: every bucket falls by 1, never below 0. PARTIAL_TIMEOUT of a running
queue whose published units end inside an order: it halts with cause PARTIAL and one tally; on a tie it runs on, and the
order at its head will carry MARGIN0; SEQ, OPCODE and ALLOT of that tally are the model's choice (log entry 17). Each leaves the other queues and every byte of memory as they were. -/
def Obligations.QueueControlsActOnTheirQueue : Prop :=
  ∀ (s : State), s.stores = [] →
    (∀ fn q, fn < 32 → q < 64 → s.isReady = true → s.ownsPage fn q = true → s.get (F.DR_QSTAT_STATE q) = 2 →
      s.on F.SLU_STATUS_WALKER_HALT = false → ∃ t, exec (.queueResume fn q) s = .next t ∧
        t.get (F.DR_QPTR_HEAD q) = s.get (F.DR_QPTR_TAIL q) ∧ t.get (F.DR_QSTAT_STATE q) = 1 ∧ t.get (F.DR_QSTAT_MARKS q) = 0 ∧
        (t.queue q).credit = 0 ∧ (t.queue q).marks = [] ∧ (t.queue q).out = (s.queue q).out ∧
        (∀ r, r ≠ q → t.queue r = s.queue r) ∧ t = { s with regs := t.regs, queues := t.queues } ∧ ∀ x, t.rd x = s.rd x) ∧
    (s.isReady = true → s.get (F.DR_QSTAT_STATE 0) ≠ 3 → s.queueLive 0 = false → ∃ t, exec .queue0Enable s = .next t ∧
      t.get (F.DR_QCTL_ENABLE 0) = 1 ∧ t.get (F.DR_QSTAT_STATE 0) = 1 ∧ t.get (F.DR_QPTR_HEAD 0) = 0 ∧
      t.get (F.DR_QPTR_TAIL 0) = 0 ∧ t.get (F.DR_QSEQ_EXPECT 0) = 0 ∧ (t.queue 0).credit = 0 ∧ (t.queue 0).written = 0 ∧
      (t.queue 0).tallyHead = 0 ∧ (∀ r, r ≠ 0 → t.queue r = s.queue r) ∧ t = { s with regs := t.regs, queues := t.queues } ∧
      ∀ x, t.rd x = s.rd x) ∧
    (s.isReady = true → s.get (F.DR_QSTAT_STATE 0) ≠ 3 → s.queueLive 0 = true → ∃ t, exec .queue0Disable s = .next t ∧
      t.get (F.DR_QCTL_ENABLE 0) = 0 ∧ t.get (F.DR_QSTAT_STATE 0) = 3 ∧ (t.queue 0).fetched = none ∧
      (t.queue 0).out = (s.queue 0).out ∧ (∀ r, r ≠ 0 → t.queue r = s.queue r) ∧
      t = { s with regs := t.regs, queues := t.queues } ∧ ∀ x, t.rd x = s.rd x) ∧
    (s.get (F.DR_QSTAT_STATE 0) = 3 → s.get (F.DR_QLOAD_INFLIGHT 0) = 0 → (s.dueTallies 0).1 = [] →
      ∃ t, exec .queue0DrainEnd s = .next t ∧ t.get (F.DR_QSTAT_STATE 0) = 0 ∧ t = { s with regs := t.regs } ∧
        ∀ x, t.rd x = s.rd x) ∧
    (∃ t, exec .crcBucketDecay s = .next t ∧
      (∀ q < 64, t.get (F.DR_QSTAT_CRC_BUCKET q) = s.get (F.DR_QSTAT_CRC_BUCKET q) - 1 ∧
        t.get (F.DR_QSTAT_STATE q) = s.get (F.DR_QSTAT_STATE q)) ∧ t = { s with regs := t.regs } ∧ ∀ x, t.rd x = s.rd x) ∧
    (∀ q < 64, s.get (F.DR_QSTAT_STATE q) = 1 → (s.queue q).short = true →
      (∃ t, exec (.partialTimeout q false) s = .next t ∧ t.get (F.DR_QSTAT_STATE q) = 2 ∧ t.get (F.DR_QSTAT_HALT_CAUSE q) = 0x25 ∧
        (t.queue q).out = (s.queue q).out ++
          [⟨0, 0, stBadLength, false, false, false, 0, s.wck.cycle, detailOf 0x25 (s.published q), s.wck.turn, (s.queue q).bound⟩] ∧
        (∀ r, r ≠ q → t.queue r = s.queue r) ∧ ∀ x, t.rd x = s.rd x) ∧
      exec (.partialTimeout q true) s = .next (s.setQueue q { s.queue q with tied := true }))

/-- ORDER_FETCH of a running queue with nothing fetched, whose ring is in host memory and at whose head a whole, well-formed
order of a known kind is published: the order is fetched, its bytes as the host's memory holds them, and nothing else
changes. Where the published units end inside the order, the queue records that, and fetches nothing. -/
def Obligations.OrderIsFetchedWhole : Prop :=
  ∀ (q : Nat) (data : Bytes) (s : State), q < 64 → s.stores = [] → s.get (F.DR_QSTAT_STATE q) = 1 →
    s.on F.SLU_STATUS_WALKER_HALT = false → (s.queue q).fetched = none → s.on (F.DR_QBASE_LOC q) = false →
    s.published q ≠ 0 → let n := hdrLength data; let b := padTo (32 * n) (data.take (32 * n))
    32 ≤ data.length → 1 ≤ n → n ≤ 2048 → n ≤ s.ringSize q →
    (n ≤ s.published q → s.wellFormed q b = true → hdrOp b ∈ opcodes → hdrOp b ≠ 0x0500 → hdrOp b ≠ 0x0510 →
      ∃ t, exec (.orderFetch q data) s = .next t ∧ (t.queue q).fetched = some b ∧ (t.queue q).short = false ∧
        (∀ r, r ≠ q → t.queue r = s.queue r) ∧ t = { s with queues := t.queues }) ∧
    (s.published q < n →
      ∃ t, exec (.orderFetch q data) s = .next t ∧ (t.queue q).short = true ∧ (t.queue q).fetched = none ∧
        (∀ r, r ≠ q → t.queue r = s.queue r) ∧ t = { s with queues := t.queues })

/-- REGISTER_WRITE by the physical function, while it is served: a 4-byte write of WCK_PIN_FILTER, AQD_VL_LIMIT, AQD_ASYM or
MGT_RETRY replaces the RW field and no other register; writing 1 to the W1C bit WCK_STATE.SRC_DISAGREE clears it, and leaves
it 1 when hardware sets it in the same cycle; a write of WCK_SLEW within 1 to 10,000 waits for the next turn boundary, one
outside changes no register of the clock and is logged with cause REG_RANGE; a write of a wrong shape is dropped and logged
with cause REG_ALIGN; a write at an offset that holds no register changes nothing. A virtual function's write to any WCK_
offset changes nothing. -/
def Obligations.HostWritesActByAccessCode : Prop :=
  ∀ (s : State) (data : Nat), s.stores = [] → s.isReady = true →
    (∀ x ∈ [(0x20058, F.WCK_PIN_FILTER_PPS_GLITCH), (0xB8004, F.AQD_VL_LIMIT_LIMIT), (0xB8008, F.AQD_ASYM_ASYM), (0x128000, F.MGT_RETRY_COUNT)],
      ∃ t, exec (.registerWrite 0 x.1 4 data 0) s = .next t ∧ t.get x.2 = data % 2 ^ x.2.w ∧ (∀ r, r ≠ x.1 → t.reg r = s.reg r) ∧
        t = { s with regs := t.regs } ∧ ∀ a, t.rd a = s.rd a) ∧
    (∃ t, exec (.registerWrite 0 0x20020 4 0x80 0) s = .next t ∧ t.get F.WCK_STATE_SRC_DISAGREE = 0 ∧
      t.get F.WCK_STATE_MARGIN0 = s.get F.WCK_STATE_MARGIN0 ∧ t.get F.WCK_STATE_STATE = s.get F.WCK_STATE_STATE ∧
      ∀ r, r ≠ 0x20020 → t.reg r = s.reg r) ∧
    (∃ t, exec (.registerWrite 0 0x20020 4 0x80 0x80) s = .next t ∧ t.get F.WCK_STATE_SRC_DISAGREE = 1) ∧
    (1 ≤ data % 2 ^ 14 → data % 2 ^ 14 ≤ 10000 → ∃ t, exec (.registerWrite 0 0x2004C 4 data 0) s = .next t ∧
      t.wck.limits = s.wck.limits ++ [(0x2004C, data % 2 ^ 14)] ∧ t.regs = s.regs ∧ t.log = s.log) ∧
    ((data % 2 ^ 14 = 0 ∨ 10000 < data % 2 ^ 14) → ∃ t, exec (.registerWrite 0 0x2004C 4 data 0) s = .next t ∧
      t.wck = s.wck ∧ t.get F.WCK_SLEW_MAX_PPB = s.get F.WCK_SLEW_MAX_PPB ∧ ∃ e, t.log.getLast? = some e ∧ e.cause = 0x102) ∧
    (∀ off size, bar0Shape off size = false → ∃ t, exec (.registerWrite 0 off size data 0) s = .next t ∧
      (∀ r, r ≠ 0x100010 → t.reg r = s.reg r) ∧ t = { s with regs := t.regs, log := t.log } ∧
      ∃ e, t.log.getLast? = some e ∧ e.cause = 0x101) ∧
    (∀ off, off % 4 = 0 → (off < 0x50000 ∨ 0xA0000 ≤ off) → regRowAt off = none → exec (.registerWrite 0 off 4 data 0) s = .next s) ∧
    (∀ fn off, 0 < fn → fn < 32 → s.bar2Up fn = true → 0x20000 ≤ off → off < 0x20078 → off % 4 = 0 →
      exec (.registerWrite fn off 4 data 0) s = .next s)

/-- While the functions are served. RC_FIELD_READ: an 8-byte read of DR_COUNTS by the physical function returns its three
counts as they were and leaves each holding the events of the same cycle; a virtual function's read changes no register.
HIGH_HALF_LATCH: a 4-byte read of WCK_TURN_NUMBER returns bits [31:0], and the next 4-byte read of its high half by the same
function returns bits [47:32] of that instant, whatever the number is then. A read of BAR4 returns zeros and changes nothing. MISALIGNED_BAR0_READ: a read of a wrong shape is
completed with Completer Abort and logged with cause REG_ALIGN, and changes no other register.
That the latch is one for each function and register is the model's choice (log entry 25). -/
def Obligations.HostReadsClearAndLatch : Prop :=
  ∀ (s : State), s.stores = [] → s.isReady = true →
    (∃ t, exec (.rcFieldRead 0 0x30010 8 false []) s = .next t ∧
      t.sent = s.sent ++ [.completion 0 (toLe 8 (s.reg 0x30010).toNat)] ∧
      t.get F.DR_COUNTS_GRANTS = 0 ∧ t.get F.DR_COUNTS_CANCELLED = 0 ∧ t.get F.DR_COUNTS_TOO_LATE = 0 ∧
      (∀ r, r ≠ 0x30010 → t.reg r = s.reg r) ∧ t = { s with regs := t.regs, sent := t.sent }) ∧
    (∃ t, exec (.rcFieldRead 0 0x30010 8 false [(0, 1)]) s = .next t ∧
      t.sent = s.sent ++ [.completion 0 (toLe 8 (s.reg 0x30010).toNat)] ∧ t.get F.DR_COUNTS_GRANTS = 1) ∧
    (∀ fn off size hits, 0 < fn → fn < 32 → s.bar2Up fn = true → bar0Shape off size = true → (off < 0x50000 ∨ 0xA0000 ≤ off) →
      ∃ t, exec (.rcFieldRead fn off size false hits) s = .next t ∧ (hits = [] → ∀ r, t.reg r = s.reg r) ∧ t.log = s.log ∧
        ∃ d, t.sent = s.sent ++ [.completion fn d]) ∧
    (∀ (k : Nat), s.wck.turn < 2 ^ 48 → k < 2 ^ 48 → ∃ t u, exec (.highHalfLatch 0 0x20008) s = .next t ∧
      t.sent = s.sent ++ [.completion 0 (toLe 4 (s.wck.turn % 2 ^ 32))] ∧ (∀ r, t.reg r = s.reg r) ∧
      exec (.rcFieldRead 0 0x2000C 4 false []) { t with wck := { t.wck with turn := k } } = .next u ∧
      u.sent = t.sent ++ [.completion 0 (toLe 4 (s.wck.turn / 2 ^ 32))]) ∧
    (∀ fn off size hits, fn < 32 → s.bar2Up fn = true →
      exec (.rcFieldRead fn off size true hits) s = .next { s with sent := s.sent ++ [.completion fn (List.replicate size 0)] }) ∧
    (∀ fn off size, fn < 32 → s.bar2Up fn = true → bar0Shape off size = false →
      ∃ t, exec (.misalignedBar0Read fn off size) s = .next t ∧ t.sent = s.sent ++ [.completerAbort fn] ∧
        (∀ r, r ≠ 0x100010 → t.reg r = s.reg r) ∧ ∃ e, t.log.getLast? = some e ∧ e.cause = 0x101)

/-- In FREE_RUN. PPS_EDGE whose level persists for less than the filter length: nothing. Of a good pulse width, early in its run of accepted
events: the event is accepted, its disagreement kept (stamped in eighths of a lagoon cycle, the filter length subtracted), the run one longer, rejects 0,
and a tie shows in MARGIN0. PPS_EDGE of a bad width and REF_WINDOW_CLOSE of source 2 or 3: one reject more, counted in WCK_REJECTS, the
run 0; the third in a row leaves the source not good. REF_10M_LOSS, and REF_10M_FREQ_CHECK beyond 10 ppm: source 2 is not
good and needs 16 good seconds again. REF_10M_FREQ_CHECK within 10 ppm: one good second fewer is needed. No byte of memory
changes. Sign and grain of a disagreement (log entry 41), and that a closed window counts a reject for sources 2 and 3 alone (log entry
44), are the model's choice. -/
def Obligations.ReferenceEventsMoveTheirSource : Prop :=
  ∀ (s : State), s.stores = [] → s.wckState = wckFreeRun → let filter := s.get F.WCK_PIN_FILTER_PPS_GLITCH
    (∀ high seen tie, high < filter → exec (.ppsEdge high seen tie) s = .next s) ∧
    (∀ high seen tie, filter ≤ high → 80 ≤ high → high ≤ 720000000 → s.wck.pps.pred = false → s.wck.pps.accepts < 15 →
      ∃ t, exec (.ppsEdge high seen tie) s = .next t ∧ t.wck.pps.rejects = 0 ∧ t.wck.pps.accepts = s.wck.pps.accepts + 1 ∧
        t.wck.pps.pred = true ∧ t.wck.pps.dis = (seen + 8 * filter) * 5 / 4 ∧ t.wckState = wckFreeRun ∧ t.wck.gnss = s.wck.gnss ∧
        (tie = true → t.get F.WCK_SRC_STATUS_MARGIN0 = 1) ∧ t.wck.marker = s.wck.marker ∧ ∀ x, t.rd x = s.rd x) ∧
    (∀ high seen tie, filter ≤ high → (high < 80 ∨ 720000000 < high) →
      ∃ t, exec (.ppsEdge high seen tie) s = .next t ∧ t.wck.pps.rejects = min 3 (s.wck.pps.rejects + 1) ∧ t.wck.pps.accepts = 0 ∧
        (2 ≤ s.wck.pps.rejects → t.srcGood 2 = false) ∧
        t.get F.WCK_REJECTS_PPS = min 255 (s.get F.WCK_REJECTS_PPS + 1) ∧ ∀ x, t.rd x = s.rd x) ∧
    (∃ t, exec (.refWindowClose 2) s = .next t ∧ t.wck.pps.rejects = min 3 (s.wck.pps.rejects + 1) ∧
      t.wck.pps.accepts = 0 ∧ t.get F.WCK_REJECTS_PPS = min 255 (s.get F.WCK_REJECTS_PPS + 1) ∧
      (2 ≤ s.wck.pps.rejects → t.srcGood 2 = false) ∧ (s.wck.pps.rejects < 2 → ∀ r, r ≠ 0x20028 → t.reg r = s.reg r) ∧ ∀ x, t.rd x = s.rd x) ∧
    (∃ t, exec (.refWindowClose 3) s = .next t ∧ t.wck.marker.rejects = min 3 (s.wck.marker.rejects + 1) ∧
      t.wck.marker.accepts = 0 ∧ t.get F.WCK_REJECTS_MARKER = min 255 (s.get F.WCK_REJECTS_MARKER + 1) ∧
      (2 ≤ s.wck.marker.rejects → t.srcGood 3 = false) ∧ (s.wck.marker.rejects < 2 → ∀ r, r ≠ 0x20028 → t.reg r = s.reg r) ∧ ∀ x, t.rd x = s.rd x) ∧
    (∃ t, exec .ref10mLoss s = .next t ∧ t.srcGood 2 = false ∧ t.wck.good10M = 16 ∧ t.wck.pps.accepts = 0 ∧
      ∀ x, t.rd x = s.rd x) ∧
    (∀ ppb : Int, 10000 < ppb.natAbs → ∃ t, exec (.ref10mFreqCheck ppb) s = .next t ∧ t.srcGood 2 = false ∧
      t.wck.good10M = 16 ∧ ∀ x, t.rd x = s.rd x) ∧
    (∀ ppb : Int, ppb.natAbs ≤ 10000 → 2 ≤ s.wck.good10M → exec (.ref10mFreqCheck ppb) s =
      .next { s with wck := { s.wck with good10M := s.wck.good10M - 1 } })

/-- WCK_LOCK in ACQUIRE with no step pending: LOCKED, and no other register changes. TRIM_LIMIT_EXCEEDED in LOCKED, with a
holdover limit that is not 0: the selected source is not good and the clock is in HOLDOVER with its timer at 0. HOLDOVER_END in
HOLDOVER past a limit, where no allotment declares exchanges: DOUBT, with DOUBT_SEEN set and no prediction standing; before the limits, or in another state, nothing. That DOUBT
drops the predictions (log entry 43), and that WCK_LOCK is taken at its word in its state (log entry 44), are the model's choice. -/
def Obligations.ClockLocksAndHoldsOver : Prop :=
  ∀ (s : State), s.stores = [] →
    (s.wckState = wckAcquire → s.wck.step = none → ∃ t, exec .wckLock s = .next t ∧ t.wckState = wckLocked ∧
      t.wckSource = s.wckSource ∧ (∀ r, r ≠ 0x20020 → t.reg r = s.reg r) ∧ t = { s with regs := t.regs }) ∧
    (s.wckState = wckLocked → s.wckSource ≠ 0 → s.wckSource < 4 → s.get F.WCK_HOLDOVER_LIMIT_SECONDS ≠ 0 →
      ∃ t, exec .trimLimitExceeded s = .next t ∧ t.wckState = wckHoldover ∧ t.srcGood s.wckSource = false ∧
        t.get F.WCK_HOLDOVER_ELAPSED = 0 ∧ t.wck.holdFrom = s.wck.sec ∧ ∀ x, t.rd x = s.rd x) ∧
    (s.wckState = wckHoldover → s.pastHoldLimit = true → (∀ a < 16, s.exchanges a = false) → ∃ t, exec .holdoverEnd s = .next t ∧
      t.wckState = wckDoubt ∧ t.get F.WCK_STATE_DOUBT_SEEN = 1 ∧ t.wck.gnss.pred = false ∧ t.wck.pps.pred = false ∧
      t.wck.marker.pred = false ∧ t.ppsHigh = false ∧ t.log = s.log ∧ ∀ x, t.rd x = s.rd x) ∧
    (s.wckState ≠ wckAcquire → exec .wckLock s = .next s) ∧ (s.wckSource = 0 → exec .trimLimitExceeded s = .next s) ∧
    (s.wckState ≠ wckHoldover ∨ s.pastHoldLimit = false → exec .holdoverEnd s = .next s)

/-- FREQ_CHECK_WINDOW beyond 500 ppm (off the lagoon clock), XTAL_LOSS, REF_OSC_CHECK with a gap or more than 50 ppm from the 10 or 100 MHz
of the PLL reference while the PLL runs from REF_OSC_IN, RAIL_MONITOR_EXPIRY, a DIE_TEMP_SAMPLE of 110 °C or more of a die not yet known hot, and WALKER_EXPIRY raise a chip doubt with
their cause (0xFB, 0xFB, 0xFB, 0xF9, 0xFA, 0xFC): on an open chip its sluice closes with that cause, on a closed one the doubt is logged and closes
nothing; memory reads as before, but where VDD_HBM or VPP_HBM left its tolerance: then it reads 0 (the model's choice, log entry 7). The
rails are numbered in the order of Table 22-2 (log entry 104); no monitor watches rail 0, and a rail is a doubt only while its power-good input
stays high. On a tripped device none of them does anything, but that REF_OSC_CHECK shows OSC_OK. A second WALKER_EXPIRY, on a closed chip, halts the Ditch Rider, and no queue runs; the first does not, whatever has closed the chip;
one that ties only marks MARGIN0.
Within their limits FREQ_CHECK_WINDOW changes nothing, REF_OSC_CHECK shows OSC_OK (for an input that is not the PLL reference within 50 ppm of either, the model's reading, log entry 44), DIE_TEMP_SAMPLE shows the
temperature of its die and ends the excursion. -/
def Obligations.MonitorsRaiseChipDoubtBeyondLimits : Prop :=
  ∀ (s : State), s.stores = [] →
    let Doubts (i : Instr) (cause : Nat) (p : State → Prop) : Prop := ∃ t, exec i s = .next t ∧ t.chipClosed = true ∧
      (s.chipClosed = false → t.get F.SLU_STATUS_CHIP_CAUSE = cause ∧ ∃ c ∈ t.closed, c.scope = 3 ∧ c.cause = cause) ∧
      (s.chipClosed = true → ∃ e, t.log.getLast? = some e ∧ e.cause = cause ∧ e.sluice = false) ∧ p t
    let Same (t : State) : Prop := ∀ x, t.rd x = s.rd x
    let fld (d : Nat) : Fld := ⟨F.PWR_DIE_TEMP_NORTH.reg, 8 * d, 8⟩
    let One (d : Nat) (temp : Nat) (t : State) : Prop := t.get (fld d) = temp % 2 ^ 8 ∧ ∀ k < 3, k ≠ d → t.get (fld k) = s.get (fld k)
    let live : Prop := s.tripped = false
    (live → ∀ ppb : Int, 500000 < ppb.natAbs → s.on F.WCK_STATE_ON_LAGOON = false → Doubts (.freqCheckWindow ppb) 0xFB Same) ∧
    (∀ ppb : Int, ppb.natAbs ≤ 500000 ∨ s.on F.WCK_STATE_ON_LAGOON = true ∨ s.tripped = true → exec (.freqCheckWindow ppb) s = .next s) ∧
    (live → Doubts .xtalLoss 0xFB Same) ∧
    (∀ (freq : Nat) (gap : Bool), let near (n : Nat) : Prop := (20000 * ((freq : Int) - n)).natAbs ≤ n
      let good := gap = false ∧ ((s.wck.pllRef ≤ 1 ∧ near 10000000) ∨ (s.wck.pllRef ≠ 1 ∧ near 100000000))
      (good → ∃ t, exec (.refOscCheck freq gap) s = .next t ∧ t.get F.GNS_STATE_OSC_OK = 1 ∧ (∀ r, r ≠ 0xE0000 → t.reg r = s.reg r) ∧
        t = { s with regs := t.regs }) ∧
      (¬ good → s.wck.pllRef ≠ 0 → live → Doubts (.refOscCheck freq gap) 0xFB fun t => t.get F.GNS_STATE_OSC_OK = 0 ∧ Same t) ∧
      (¬ good → s.wck.pllRef = 0 ∨ s.tripped = true → ∃ t, exec (.refOscCheck freq gap) s = .next t ∧ t.get F.GNS_STATE_OSC_OK = 0 ∧
        (∀ r, r ≠ 0xE0000 → t.reg r = s.reg r) ∧ t = { s with regs := t.regs })) ∧
    (live → s.powerGood = true → ∀ rail, 1 ≤ rail → rail < 10 → Doubts (.railMonitorExpiry rail) 0xF9 fun t =>
      if rail = 6 ∨ rail = 7 then ∀ x < 8 * stackSize, t.rd x = 0 else Same t) ∧
    (live → s.powerGood = false → ∀ rail, 1 ≤ rail → rail < 10 → ∃ t, exec (.railMonitorExpiry rail) s = .next t ∧ t.chipClosed = s.chipClosed ∧
      if rail = 6 ∨ rail = 7 then ∀ x < 8 * stackSize, t.rd x = 0 else t = s) ∧
    exec (.railMonitorExpiry 0) s = .next s ∧
    (s.tripped = true → exec .xtalLoss s = .next s ∧ (∀ tie, exec (.walkerExpiry tie) s = .next s) ∧
      (∀ rail < 10, exec (.railMonitorExpiry rail) s = .next s) ∧ ∀ d < 3, ∀ temp, exec (.dieTempSample d temp) s = .next s) ∧
    (live → ∀ d < 3, ∀ temp, 110 ≤ temp → d ∉ s.hotDies →
      Doubts (.dieTempSample d temp) 0xFA fun t => One d temp t ∧ d ∈ t.hotDies ∧ Same t) ∧
    (live → ∀ d < 3, ∀ temp, 110 ≤ temp → d ∈ s.hotDies → ∃ t, exec (.dieTempSample d temp) s = .next t ∧ One d temp t ∧ t = { s with regs := t.regs }) ∧
    (live → ∀ d < 3, ∀ temp, temp < 110 → ∃ t, exec (.dieTempSample d temp) s = .next t ∧ One d temp t ∧ d ∉ t.hotDies ∧ Quiet s t) ∧
    (live → ∃ t, exec (.walkerExpiry true) s = .next t ∧ t.get F.SLU_WALKER_MARGIN0 = 1 ∧ t = { s with regs := t.regs }) ∧
    (live → Doubts (.walkerExpiry false) 0xFC fun t => Same t ∧ t.walkerOnce = true ∧
      (s.chipClosed = true → s.walkerOnce = true → t.get F.SLU_STATUS_WALKER_HALT = 1 ∧ ∀ q < 64, t.get (F.DR_QSTAT_STATE q) ≠ 1) ∧
      (s.chipClosed = true → s.walkerOnce = false → t.get F.SLU_STATUS_WALKER_HALT = s.get F.SLU_STATUS_WALKER_HALT ∧
        ∀ q < 64, t.get (F.DR_QSTAT_STATE q) = s.get (F.DR_QSTAT_STATE q)))

/-- XTAL_LOSS on an open chip that has not tripped: the chip's sluice is closed with cause 0xFB and recorded, the alert stands, PPS_OUT is low, the
big-number engine and the symmetric unit are idle, every order still in flight has taken effect, and every byte of memory reads as
before. A doubt of an allotment that is in use and open: it is SLUICED, its sluice closed, no armed or
running order held, no stop and no delivery; where none was in flight, whose WITHHELD entry could fill the ledger, the doubt counts once and its cause is recorded; every other allotment keeps its state, and every byte of memory reads as before. A doubt of an EMPTY allotment is only
logged.
That a doubt's effects come whole with its command, and that DOUBTS counts the closing doubt, are the model's readings (log entry 63). -/
def Obligations.DoubtClosesItsSubject : Prop :=
  ∀ (s : State), s.stores = [] →
    (s.chipClosed = false → s.tripped = false → ∃ t, exec .xtalLoss s = .next t ∧ t.chipClosed = true ∧ t.get F.SLU_STATUS_CHIP_CAUSE = 0xFB ∧
      t.get F.SLU_STATUS_ALERT = 1 ∧ (∃ c ∈ t.closed, c.scope = 3 ∧ c.cause = 0xFB) ∧ t.ppsHigh = false ∧ t.bne = none ∧ t.sym = none ∧
      (∀ x ∈ t.inflight, x.took = true) ∧ ∀ x, t.rd x = s.rd x) ∧
    (∀ a d, a < 16 → s.isEmpty a = false → s.sluiceOf a = 0 → let t := s.doubtAllot a d
      t.altState a = 6 ∧ t.sluiceOf a = 1 ∧ ((s.allot a).delivs = [] → t.get (F.SLU_ALLOT_CAUSE a) = d.cause % 2 ^ 8 ∧
        t.get (F.SLU_ALLOT_DOUBTS a) = min (2 ^ 32 - 1) (s.get (F.SLU_ALLOT_DOUBTS a) + 1)) ∧ (t.allot a).runOrd = none ∧
      (t.allot a).armed = none ∧ (t.allot a).stops = [] ∧ (t.allot a).delivs = [] ∧ (∀ b < 16, b ≠ a → t.altState b = s.altState b ∧ t.sluiceOf b = s.sluiceOf b) ∧ ∀ x, t.rd x = s.rd x) ∧
    (∀ a d, a < 16 → s.isEmpty a = true → ∃ e, (s.doubtAllot a d).log.getLast? = some e ∧ e.cause = d.cause ∧ e.sluice = false ∧
      s.doubtAllot a d = { s with regs := (s.doubtAllot a d).regs, log := (s.doubtAllot a d).log })

/-- At cycle 0 of a fallow turn with one change due in it, whose order is in flight. FALLOW_CHANGE_APPLY of a TIME_FALLOW: one
DONE tally, nothing else. Of a REFRESH_CLASS_SET with no plan of another class: the class is the one named, with DONE; with
such a plan, the class stays and the tally is STATE naming the lowest such allotment. Of a TIME_EPOCH_SET: the anchor's second
is E and its turn 0. Of a TIME_HOST_SET: in FREE_RUN or DOUBT time is the host's, in another state it is as it was and the order ends STATE with that state
in DETAIL. TIME_STEP_APPLY with a pending step: time moves by the step and no step is pending.
The grain of a pending step, whole nanoseconds, is log entry 42, that a TIME_HOST_SET moves stored predictions log entry 43. -/
def Obligations.FallowChangesAreApplied : Prop :=
  ∀ (s : State) (o : Ord), s.stores = [] → s.wck.cycle = 0 → s.wck.isFallow = true → o ∈ s.inflight →
    (s.fallowDue = [⟨o, s.wck.turn, .fallowOnly⟩] → ∃ t, exec .fallowChangeApply s = .next t ∧ Reports s t o stDone 0 0 ∧
      Ended t o ∧ t.fallowDue = [] ∧ t.wck = s.wck ∧ ∀ x, t.rd x = s.rd x) ∧
    (∀ c, s.fallowDue = [⟨o, s.wck.turn, .refresh c⟩] → s.classConflict c = none → ∃ t, exec .fallowChangeApply s = .next t ∧
      Reports s t o stDone 0 0 ∧ Ended t o ∧ t.get F.HBM_CLASS_CLASS = c % 2 ∧ t.fallowDue = [] ∧ t.wck = s.wck ∧
      ∀ x, t.rd x = s.rd x) ∧
    (∀ c a, s.fallowDue = [⟨o, s.wck.turn, .refresh c⟩] → s.classConflict c = some a → ∃ t, exec .fallowChangeApply s = .next t ∧
      Reports s t o stState 0 (detailOf 0x45 a) ∧ Ended t o ∧ t.get F.HBM_CLASS_CLASS = s.get F.HBM_CLASS_CLASS ∧
      t.fallowDue = [] ∧ ∀ x, t.rd x = s.rd x) ∧
    (∀ e, s.fallowDue = [⟨o, s.wck.turn, .epoch e⟩] → ∃ t, exec .fallowChangeApply s = .next t ∧
      t.get F.WCK_ANCHOR_SEC_SEC = e % 2 ^ 32 ∧ t.get F.WCK_ANCHOR_TURN_TURN = 0 ∧ t.fallowDue = [] ∧
      t.wck.sec = s.wck.sec ∧ t.wck.ns = s.wck.ns ∧ ∀ x, t.rd x = s.rd x) ∧
    (∀ sec ns, s.fallowDue = [⟨o, s.wck.turn, .hostTime sec ns⟩] → ∃ t, exec .fallowChangeApply s = .next t ∧ t.fallowDue = [] ∧
      (s.wckState = wckFreeRun ∨ s.wckState = wckDoubt → t.wck.sec = sec ∧ t.wck.ns = ns ∧ t.wck.cycle = 0) ∧
      (s.wckState ≠ wckFreeRun → s.wckState ≠ wckDoubt → t.wck = s.wck ∧ Reports s t o stState 0 (detailOf 0x2E s.wckState) ∧ Ended t o) ∧
      ∀ x, t.rd x = s.rd x) ∧
    (∀ d : Int, s.fallowDue = [] → s.wck.step = some d → ∃ t, exec .timeStepApply s = .next t ∧ t.wck.step = none ∧
      t.get F.WCK_STATE_STEP_PENDING = 0 ∧
      t.wck.sec = unsigned 32 (((s.wck.sec * 1000000000 + s.wck.ns : Nat) + d) / 1000000000) ∧
      t.wck.ns = ((((s.wck.sec * 1000000000 + s.wck.ns : Nat) : Int) + d) % 1000000000).toNat ∧ t.wck.cycle = 0 ∧
      ∀ x, t.rd x = s.rd x)

/-- PLL_RELOCK_START at cycle 0 with one TURN_SET, one change of PLL reference, or both due, and no relock under way: the core runs on the lagoon clock, one relock
holds the orders, the new and the previous rate and reference, and uses its first turn. PLL_LOCK_CONFIRM of the new frequency: the relock is confirmed,
with no tally, and after g = 0 the next turn is listed as fallow too; of the previous one: the order ends TIMEOUT, with MARGIN0 on a tie. RELOCK_TIMEOUT in the 16th turn of the new frequency: the previous
reference and frequency are programmed; in the 32nd turn: the order ends FAILED_SLUICE and the chip's sluice closes with the clock's cause; earlier, or once
confirmed, it changes nothing. That a TURN_SET and a change of PLL reference due in one turn share one relock is the model's choice
(log entry 45). -/
def Obligations.RelockStartsConfirmsAndFallsBack : Prop :=
  ∀ (s : State), s.stores = [] →
    let old (k : Relock) : Prop := k.oldR = s.get F.WCK_TURN_RATE_RATE ∧
      k.oldN = s.get F.WCK_TURN_CYCLES_COUNT ∧ k.oldRef = s.wck.pllRef ∧ k.phase = 1 ∧ k.used = 1 ∧ k.confirmed = false ∧ k.late = false
    (∀ due k, s.wck.cycle = 0 → s.wck.relock = none → s.fallowDue = due → old k →
      ((∃ o r n, due = [⟨o, s.wck.turn, .turnSet r n⟩] ∧ k.ords = [o] ∧ k.turnSet = true ∧ k.newR = r ∧ k.newN = n ∧ k.newRef = s.wck.pllRef) ∨
        (∃ o p, due = [⟨o, s.wck.turn, .pllRef p⟩] ∧ k.ords = [o] ∧ k.turnSet = false ∧ k.newR = k.oldR ∧ k.newN = k.oldN ∧ k.newRef = p) ∨
        (∃ o r n x p, due = [⟨o, s.wck.turn, .turnSet r n⟩, ⟨x, s.wck.turn, .pllRef p⟩] ∧ k.ords = [o, x] ∧ k.turnSet = true ∧
          k.newR = r ∧ k.newN = n ∧ k.newRef = p)) →
      ∃ t, exec .pllRelockStart s = .next t ∧ t.on F.WCK_STATE_ON_LAGOON = true ∧ t.get F.WCK_STATE_FALLOW_EXT = 1 ∧
        t.fallowDue = [] ∧ t.get F.WCK_TURN_RATE_RATE = s.get F.WCK_TURN_RATE_RATE ∧ t.wck.relock = some k ∧ t.wck.pllRef = k.newRef ∧
        (∀ x ∈ t.inflight, (∃ o ∈ k.ords, x.id = o.id) → x.took = true) ∧ ∀ x, t.rd x = s.rd x) ∧
    (∀ k, s.wck.relock = some k → k.phase = 1 → k.confirmed = false →
      (s.wck.cycle ≤ s.guardCycle 0 → exec (.pllLockConfirm false) s =
        .next { s with wck := { s.wck with relock := some { k with confirmed := true, late := false } } }) ∧
      (s.guardCycle 0 < s.wck.cycle → ∃ t, exec (.pllLockConfirm false) s = .next t ∧
        t.wck.relock = some { k with confirmed := true, late := true } ∧
        (s.wck.turn + 1) % 2 ^ 48 ∈ t.wck.fallow ∧ Quiet s t)) ∧
    (∀ k o, s.wck.relock = some k → k.phase = 2 → k.confirmed = false → k.ords = [o] → o ∈ s.inflight →
      (∃ t, exec (.pllLockConfirm false) s = .next t ∧
        Reports s t o stTimeout 0 openTimeout ∧ Ended t o ∧ t.wck.relock = some { k with
          confirmed := true, phase := 3, late := decide (s.guardCycle 0 < s.wck.cycle) } ∧ ∀ x, t.rd x = s.rd x) ∧
      ∃ t, exec (.pllLockConfirm true) s = .next t ∧ Ended t o ∧ (t.queue o.q).out = (s.queue o.q).out ++
        [{ o.tally stTimeout 0 openTimeout false true with cycle := s.wck.cycle, turn := s.wck.turn }]) ∧
    (∀ k tie, s.wck.relock = some k → k.confirmed = true → exec (.pllLockConfirm tie) s = .next s ∧ exec .relockTimeout s = .next s) ∧
    (∀ k, s.wck.relock = some k → k.phase = 1 → k.confirmed = false → 16 ≤ k.used → exec .relockTimeout s =
      .next { s with wck := { s.wck with relock := some { k with phase := 2, used := 16 }, pllRef := k.oldRef } }) ∧
    (∀ k, s.wck.relock = some k → (k.phase = 1 ∧ k.used < 16) ∨ (k.phase = 2 ∧ k.used < 32) → k.confirmed = false → exec .relockTimeout s = .next s) ∧
    (∀ k o, s.wck.relock = some k → k.phase = 2 → k.confirmed = false → 32 ≤ k.used → k.ords = [o] → o ∈ s.inflight → s.chipClosed = false →
      ∃ t, exec .relockTimeout s = .next t ∧ t.wck.relock = some { k with phase := 4 } ∧ Ended t o ∧
        (∃ m ∈ (t.queue o.q).out, m.seq = o.seq ∧ m.status = stSluice) ∧ t.chipClosed = true ∧ t.get F.SLU_STATUS_CHIP_CAUSE = 0xFB)

/-- TURN_BOUNDARY while turns run and no core has an access left to make, where no block of memory is in error: the turn number is 1 more, modulo 2^48, the cycle
offset 0; each limit register (WCK_HOLDOVER_LIMIT, WCK_TERR_LIMIT, WCK_JUMP_LIMIT, WCK_SLEW) holds the last value written to it in the turn that ends, or else what it
held, and no limit write waits; no link slot is served yet, no command has issued in a core, every waiting or
running access of a core is gone, and, with no relock under way, the turn is fallow exactly when it was listed or the core
runs on the lagoon clock. In a turn that is not fallow a RUNNING allotment without stops executes its next plan turn, one more executed; one that has
executed all its turns is DRAINING. With no relock under way, where the block that an entry of the error log of the turn that ends goes to cannot be used, which block that is
and when it is written being open (log entry 92), the chip's sluice closes with cause CTRL_ECC. While turns do not run it changes nothing.
That a boundary does nothing before turns run is the model's reading (log entry 46). -/
def Obligations.TurnBoundaryBeginsNextTurn : Prop :=
  ∀ (s : State), s.stores = [] →
    (s.wck.running = true → s.coresIdle → (∀ k, s.blockEcc k = .clean) → ∃ t, exec .turnBoundary s = .next t ∧
      t.wck.turn = (s.wck.turn + 1) % 2 ^ 48 ∧ t.wck.cycle = 0 ∧ t.wck.limits = [] ∧
      (∀ r, limitReg r = true → t.reg r = match (s.wck.limits.filter fun x => x.1 == r).getLast? with
        | some x => BitVec.ofNat 64 x.2
        | none => s.reg r) ∧
      t.linkSlots = 0 ∧ t.early = [] ∧
      (∀ c < 4608, t.get (F.TIL_CORE_STATE_RUNNING c) = 0) ∧ (∀ c, (t.core c).runs = [] ∧ (t.core c).writes = []) ∧
      (s.wck.relock = none →
        (t.wck.isFallow = true ↔ ((s.wck.turn + 1) % 2 ^ 48 ∈ s.wck.fallow ∨ s.on F.WCK_STATE_ON_LAGOON = true)) ∧
        ∀ a < 16, ∀ p, s.altState a = 4 → (s.allot a).active = some p → (s.allot a).stops = [] → (s.allot a).armed = none →
          (p.repeat_ = false → p.l ≤ (s.allot a).executed → t.altState a = 5) ∧
          (p.repeat_ = true ∨ (s.allot a).executed < p.l → t.altState a = 4 ∧ (t.wck.isFallow = false →
            (t.allot a).executed = (s.allot a).executed + 1 ∧ (t.allot a).txs = [] ∧
            (t.allot a).planTurn = if (s.allot a).executed = 0 then 0 else ((s.allot a).planTurn + 1) % max 1 p.l))) ∧
      ∀ x, t.rd x = s.rd x) ∧
    (s.wck.running = true → s.coresIdle → s.wck.relock = none → s.chipClosed = false → (∀ a, (s.allot a).ledger = []) → s.get F.PWR_STATUS_HOME_STACK ≠ 15 →
      ∀ e, s.log = [e] → e.turn = s.wck.turn → (s.blockEcc (s.bookBlock none e.seq)).usable = false →
        ∃ t, exec .turnBoundary s = .next t ∧ t.chipClosed = true ∧ t.get F.SLU_STATUS_CHIP_CAUSE = 0xF7 ∧ ∀ x, t.rd x = s.rd x) ∧
    (s.wck.running = false → exec .turnBoundary s = .next s)

/-- GUARD_OPEN while turns run, no core has an access left before it, no port is up, no ramp or reopening is under way and no
allotment is sluiced: every fence is confirmed, and the granules among them that must be scrubbed join the scrubbers' work in
order; each staged change stays staged, and every one that concerns neither tiles nor granules is ready when it was staged before
the cycle of g = 0, and is not when in it or after; MARGIN0 is set where the sample ties and some change is ready; no tally is written,
the clock stands at g = 0 and memory reads as before.
That the command brings the clock and the cores to its g is the model's reading (log entries 1 and 46). -/
def Obligations.GuardOpenSamplesReadiness : Prop :=
  ∀ (s : State) (tie : Bool), s.stores = [] → s.wck.running = true → s.coresIdle → (∀ p < 12, s.apState p ≠ apUp) →
    s.ramps = [] → s.reopens = [] → (∀ a < 16, s.altState a ≠ 6) →
    ∃ t, exec (.guardOpen tie) s = .next t ∧ t.wck = (s.atGuard 0).wck ∧ t.fences = [] ∧
      t.scrubs = s.scrubs ++ s.fences.filterMap (fun x => if x.2.2 then some (x.1, x.2.1) else none) ∧
      t.staged.map (fun x => (x.ord, x.change)) = s.staged.map (fun x => (x.ord, x.change)) ∧
      (∀ x ∈ t.staged, (∀ a fn p b ts, x.change ≠ .claim a fn p b ts) → (∀ a es, x.change ≠ .rights a es) →
        x.ready = decide (x.at_ < (s.atGuard 0).guardNow)) ∧
      (tie = true → (∃ x ∈ t.staged, x.ready = true) → t.get F.WCK_STATE_MARGIN0 = 1) ∧
      t.queues = s.queues ∧ t.allots = s.allots ∧ t.sent = s.sent ∧ ∀ x, t.rd x = s.rd x

/-- HEADGATE_COMMIT with one staged change, or two, whose orders are in flight, no reopening and no access of a core left before it. Each ready change whose
deadline turn has not passed is in force and, where
it is all that its order does, ends DONE with the number of its items (rights entries, pins; the allotment of a claim that named none; else 0): a
weight; a turnout table, which drops the allotment's cached walks; a change of rights that takes no granule of another allotment and fits 256 ranges, which gives the
allotment the table the entries make, the epoch being 1 more exactly when the table changed; a key entry; a key retirement, which leaves the key
without an entry; a session; an ingress key of a port that is bound to the allotment; pin records; the enables, priorities and marker port of the sources;
a claim of an EMPTY allotment on free tiles, which makes it CLAIMED with its function, party, seal and tiles.
A change of rights that takes a granule of another allotment ends QUOTA with that granule, the table as it was. A change not ready stays staged with
no tally before its deadline turn, and ends TIMEOUT in it or after, with nothing changed; so does a ready one after its deadline turn.
Two ready changes commit in the order in which they were staged: the later of two turnout tables of an allotment is in force, and the tallies of
the two orders come in that order. Behind a change of an allotment that stays staged a ready one of the same allotment stays staged too, and one of
another allotment commits.
That ITEM carries a claim's allotment only where the order left it open (log entry 66), and that the command brings the clock to its g
(log entry 46), are the model's readings. -/
def Obligations.HeadgateCommitsStagedChanges : Prop :=
  ∀ (s : State) (o : Ord), s.stores = [] → s.wck.running = true → s.coresIdle → s.reopens = [] → o ∈ s.inflight →
    s.fallowDue = [] → s.wck.relock = none → o.op ≠ 0x0121 → let u := s.atGuard 64
    let Commits (c : Change) (item : Nat) (p : State → Prop) : Prop :=
      turnPassed s o.deadline = false → ∀ at_, s.staged = [⟨o, c, true, at_⟩] → ∃ t, exec .headgateCommit s = .next t ∧
      Reports u t o stDone item 0 ∧ Ended t o ∧ t.staged = [] ∧ (∀ x, t.rd x = s.rd x) ∧ p t
    let noKey : KeyEntry := ⟨255, 0, 0⟩
    (∀ q w, q < 64 → s.queueLive q = true → Commits (.weight q w) 0 fun t =>
      t.get (F.DR_QLOAD_WEIGHT q) = w % 2 ^ 8 ∧ t.get F.ALT_EPOCH_EPOCH = s.get F.ALT_EPOCH_EPOCH ∧ t.wck = u.wck) ∧
    (∀ a root n, a < 16 → Commits (.turnout a root n) 0 fun t => t.get (F.ALT_TURNOUT_LEVELS a) = n % 2 ^ 2 ∧
      t.get (F.ALT_TURNOUT_ROOT a) = root / 4096 % 2 ^ 36 ∧ t.tcache = s.tcache.filter (fun x => x.1 != a)) ∧
    (∀ a es, a < 16 → s.rangeHeld a (es.filter fun e => !e.2.2.2) = none → rightsFull (applyEntries (s.allot a).rights es) = none →
      Commits (.rights a es) es.length fun t => (t.allot a).rights = applyEntries (s.allot a).rights es ∧
        (∀ b, b ≠ a → (t.allot b).rights = (s.allot b).rights) ∧
        (applyEntries (s.allot a).rights es = (s.allot a).rights → t.get F.ALT_EPOCH_EPOCH = s.get F.ALT_EPOCH_EPOCH) ∧
        (applyEntries (s.allot a).rights es ≠ (s.allot a).rights →
          t.get F.ALT_EPOCH_EPOCH = (s.get F.ALT_EPOCH_EPOCH + 1) % 2 ^ 32)) ∧
    (∀ a es g, a < 16 → s.rangeHeld a (es.filter fun e => !e.2.2.2) = some g → turnPassed s o.deadline = false → ∀ at_,
      s.staged = [⟨o, .rights a es, true, at_⟩] →
      ∃ t, exec .headgateCommit s = .next t ∧ Reports u t o stQuota (itemOf es g) (detailOf 0x37 g) ∧ Ended t o ∧ t.staged = [] ∧
        (t.allot a).rights = (s.allot a).rights ∧ ∀ x, t.rd x = s.rd x) ∧
    (∀ a key kind src dst, a < 16 → Commits (.keyEntry a key kind src dst) 0 fun t =>
      smGet noKey (t.allot a).keys key = ⟨kind, src, dst⟩ ∧
        ∀ k, k ≠ key → smGet noKey (t.allot a).keys k = smGet noKey (s.allot a).keys k) ∧
    (∀ a key, a < 16 → Commits (.keyRetire a key) 0 fun t => smGet noKey (t.allot a).keys key = noKey ∧
      ∀ k, k ≠ key → smGet noKey (t.allot a).keys k = smGet noKey (s.allot a).keys k) ∧
    (∀ a id key, a < 16 → Commits (.session a id key) 0 fun t => (t.allot a).session = some ⟨id, key, 0⟩ ∧
      t.get (F.SEC_SESSION_SESSION_ID a) = id % 2 ^ 48 ∧ t.get (F.SEC_SESSION_ACTIVE a) = 1) ∧
    (∀ p slot a k act, p < 8 → slot < 2 → ipState s p ≠ 0 → ipAllot s p = a → Commits (.ingKey p slot a k act) 0 fun t =>
      (if slot = 0 then (t.ing p).key0 else (t.ing p).key1) = some k ∧ t.get (F.ING_KEY_VALID p slot) = 1 ∧
        (act = true → t.get (F.ING_PORT_STATE_ACTIVE_KEY p) = slot)) ∧
    (∀ first l, Commits (.pins first l) l.length fun t => ∀ i v, l[i]? = some v → t.pinRec (first + i) = v) ∧
    (∀ enable prio port at_, turnPassed s o.deadline = false → s.staged = [⟨o, .sources enable prio port, true, at_⟩] → ∃ t, exec .headgateCommit s = .next t ∧ Ended t o ∧
      t.staged = [] ∧ (∀ n < 4, t.srcEnabled n = (n == 0 || bit enable n)) ∧ t.wck.prio = prio ∧ t.wck.port = port ∧ ∀ x, t.rd x = s.rd x) ∧
    (∀ a fn party b ts, a < 16 → o.allot = a ∨ o.allot = 255 → s.isEmpty a = true →
      s.fnBound fn = false → (∀ k ∈ ts, k < 144 ∧ s.tileFree k = true) → Commits (.claim a fn party b ts) (if o.allot = 255 then a else 0) fun t =>
        t.altState a = 1 ∧ t.isSealed a = b ∧ t.get (F.ALT_STATE_PARTY a) = party % 2 ^ 4 ∧
        t.get (F.ALT_STATE_FUNCTION a) = fn % 2 ^ 5 ∧ t.get (F.ALT_STATE_TILES a) = ts.length % 2 ^ 8 ∧ (t.allot a).rights = [] ∧
        (∀ k ∈ ts, t.ownsTile a k = true)) ∧
    (∀ q w r at_, s.staged = [⟨o, .weight q w, r, at_⟩] → ((r = false ∧ o.deadline = s.wck.turn) ∨ turnPassed s o.deadline = true) → ∃ t, exec .headgateCommit s = .next t ∧
      Reports u t o stTimeout 0 openTimeout ∧ Ended t o ∧ t.staged = [] ∧
      (∀ r < 64, t.get (F.DR_QLOAD_WEIGHT r) = s.get (F.DR_QLOAD_WEIGHT r)) ∧ ∀ x, t.rd x = s.rd x) ∧
    (∀ q w at_, s.staged = [⟨o, .weight q w, false, at_⟩] → o.deadline ≠ s.wck.turn → turnPassed s o.deadline = false →
      ∃ t, exec .headgateCommit s = .next t ∧ t.staged = s.staged ∧ t.queues = s.queues ∧ t.inflight = s.inflight ∧
      (∀ r < 64, t.get (F.DR_QLOAD_WEIGHT r) = s.get (F.DR_QLOAD_WEIGHT r)) ∧ ∀ x, t.rd x = s.rd x) ∧
    (∀ p a b root n root' n' ready i j, p ∈ s.inflight → p.id ≠ o.id → p.op ≠ 0x0121 → a < 16 → b < 16 → o.allot = a → p.allot = b → turnPassed s o.deadline = false →
      turnPassed s p.deadline = false → o.deadline ≠ s.wck.turn → p.deadline ≠ s.wck.turn →
      s.staged = [⟨o, .turnout a root n, ready, i⟩, ⟨p, .turnout b root' n', true, j⟩] → ∃ t, exec .headgateCommit s = .next t ∧
        (ready = true → t.staged = [] ∧ Ended t o ∧ Ended t p ∧ t.get (F.ALT_TURNOUT_LEVELS b) = n' % 2 ^ 2 ∧
          t.get (F.ALT_TURNOUT_ROOT b) = root' / 4096 % 2 ^ 36 ∧ (a ≠ b → t.get (F.ALT_TURNOUT_LEVELS a) = n % 2 ^ 2) ∧
          (o.q = p.q → ∃ m k, (t.queue o.q).out = (s.queue o.q).out ++
            [{ o.tally stDone 0 0 false m with cycle := u.wck.cycle, turn := u.wck.turn },
              { p.tally stDone 0 0 false k with cycle := u.wck.cycle, turn := u.wck.turn }])) ∧
        (ready = false → a = b → t.staged = s.staged ∧ t.inflight = s.inflight ∧ t.queues = s.queues ∧
          t.get (F.ALT_TURNOUT_LEVELS a) = s.get (F.ALT_TURNOUT_LEVELS a) ∧ t.get (F.ALT_TURNOUT_ROOT a) = s.get (F.ALT_TURNOUT_ROOT a)) ∧
        (ready = false → a ≠ b → t.staged = [⟨o, .turnout a root n, false, i⟩] ∧ Reports u t p stDone 0 0 ∧ Ended t p ∧
          t.get (F.ALT_TURNOUT_LEVELS b) = n' % 2 ^ 2 ∧ t.get (F.ALT_TURNOUT_LEVELS a) = s.get (F.ALT_TURNOUT_LEVELS a)) ∧
        ∀ x, t.rd x = s.rd x)

/-- BANK_SWAP, where one allotment is ARMED with a plan whose start turn is the next one, no plan runs and no stop stands: it
is RUNNING, its count of executed turns is 0 and the armed order gone, the SCHED_ARM goes on as the order of the run with no
tally, and memory reads as before; where nothing is armed or running the swap only moves the clock. TALLY_FLUSH on an open
chip, and CHIP_SLUICE_FLUSH on a closed one at that of its 65,536-cycle instants which is nearest, in the present cycle where that instant has
gone by (the model's reading, log entry 1), where queue q alone has one tally to write (held, or the ACCEPTED one of an
order with RSP_ALWAYS in flight that meets its first flush) and its ring has room: the tally leaves for the ring slot of the written count, with
PHASE 1 on even passes of the ring and 0 on odd ones, then the queue's vector is raised; the queue holds none and the
written count is 1 more. CHIP_SLUICE_FLUSH of an open chip, and one whose instant lies beyond the turn (log entry 100), changes nothing.
That swap and flush bring the clock to their g is log entry 46. -/
def Obligations.SwapStartsArmedPlanAndFlushWritesTallies : Prop :=
  ∀ (s : State), s.stores = [] →
    let Flushes (i : Instr) (w : State) : Prop := ∀ q y, q < 64 → (q = 0 → s.get (F.DR_QSTAT_STATE 0) ≠ 3) → s.on F.SLU_STATUS_WALKER_HALT = false →
      (∀ a < 16, (s.allot a).ledgerDue = false) → (∀ r, r ≠ q → (s.queue r).out = []) → (∀ r, (s.queue r).closing = false) →
      s.queueLive q = true → 0 < s.ringRoom q → ((s.queue q).out = [y] ∧ ∀ o ∈ s.inflight, o.acc = true ∨ o.rspAlways = false) ∨
        ((s.queue q).out = [] ∧ ∃ o, s.inflight = [o] ∧ o.q = q ∧ o.acc = false ∧ o.rspAlways = true ∧
          y = { o.tally stAccepted 0 0 false false with cycle := w.wck.cycle, turn := w.wck.turn }) →
      let size := 2 ^ s.get (F.DR_QSIZE_TALLY_LOG2 q)
      ∃ t, exec i s = .next t ∧ (t.queue q).out = [] ∧ (t.queue q).written = (s.queue q).written + 1 ∧
        (∀ r, r ≠ q → t.queue r = s.queue r) ∧ (∀ o ∈ t.inflight, o.acc = true) ∧ t.sent = s.sent ++
          [.hostWrite (s.fnOf q) (s.get (F.DR_TBASE_BASE q) * 64 + 32 * ((s.queue q).written % size))
            (y.encode q (1 - (s.queue q).written / size % 2)) false, .msix (s.fnOf q) (s.get (F.DR_QSIZE_VECTOR q))] ∧
        t.wck = w.wck ∧ ∀ x, t.rd x = s.rd x
    (s.wck.running = true → s.coresIdle → ∀ a m p, a < 16 → s.altState a = 3 → (∀ b < 16, b ≠ a → s.altState b ≠ 3 ∧ s.altState b ≠ 4) →
      (s.allot a).stops = [] → (s.allot a).armed = some m → turnsAhead s.nextNumber m.t0 = some 0 → (s.allot a).runOrd = none →
      (s.allot a).standby = some p → ∃ t, exec .bankSwap s = .next t ∧ t.altState a = 4 ∧ (t.allot a).armed = none ∧
        (t.allot a).runOrd = some m.ord ∧ (t.allot a).active = some p ∧ (t.allot a).standby = none ∧
        (t.allot a).executed = 0 ∧ (∀ b, b ≠ a → t.allot b = s.allot b) ∧ t.queues = s.queues ∧ t.inflight = s.inflight ∧
        t.wck = (s.atGuard 1024).wck ∧ ∀ x, t.rd x = s.rd x) ∧
    (s.wck.running = true → s.coresIdle → (∀ a < 16, s.altState a ≠ 3 ∧ s.altState a ≠ 4) → exec .bankSwap s = .next (s.atGuard 1024)) ∧
    (s.wck.running = true → s.coresIdle → s.chipClosed = false → Flushes .tallyFlush (s.atGuard 2048)) ∧
    (s.chipClosed = true → let at_ := s.chipSince + 65536 * max 1 ((s.wck.lagoon - s.chipSince + 32768) / 65536)
      (s.reaches at_ = true → Flushes .chipSluiceFlush (s.toLagoon at_)) ∧
        (s.reaches at_ = false → exec .chipSluiceFlush s = .next s)) ∧
    (s.chipClosed = false → exec .chipSluiceFlush s = .next s)

/-- While turns run and no core has an access left before them. SPM_GUARD_REWRITE leaves no core with a line or entry to
rewrite, and changes no register but the per-core scrub counts. DRY_CHECK with no line of any lateral in transit only moves
the clock to g = 4,095. ROUTE_SWITCH shows in CAN_ROUTERS the largest count of lateral entries of any router in the
program of the next turn, wet laterals included, and the lowest-numbered router that holds it; no other register changes. While turns do not
run, none of the guard's events changes anything. The instant g = 3,072 of the rewrites, and that guard rows do nothing before turns run, are
the model's choice (log entry 46).
Which turn is the next, and how long a wet lateral stays in its program, is log entry 47. -/
def Obligations.GuardRewritesDryCheckRouteSwitch : Prop :=
  ∀ (s : State), s.stores = [] →
    (s.wck.running = true → s.coresIdle →
      (∃ t, exec .spmGuardRewrite s = .next t ∧ (∀ c, (t.core c).rewrite = [] ∧ (t.core c).rewriteStore = []) ∧
        t.wck = (s.atGuard 3072).wck ∧ t = { s with regs := t.regs, cores := t.cores, spmCounts := t.spmCounts, wck := t.wck } ∧ ∀ x, t.rd x = s.rd x) ∧
      ((∀ a < 16, (s.atGuard 4095).wetRoutes a = []) → exec .dryCheck s = .next (s.atGuard 4095)) ∧
      (let v := s.atGuard 4095; let l := v.nextProgram v.nextFallow; let use := { v with routesNow := l }.programUse
        ∃ t, exec .routeSwitch s = .next t ∧ t.routesNow = l ∧ ((∀ r < 144, use.count r ≤ 256) →
            (∀ r < 144, use.count r ≤ t.get F.CAN_ROUTERS_PEAK) ∧ ((∃ r < 144, 0 < use.count r) →
              use.count (t.get F.CAN_ROUTERS_ROUTER) = t.get F.CAN_ROUTERS_PEAK ∧
              ∀ r, r < t.get F.CAN_ROUTERS_ROUTER → use.count r < t.get F.CAN_ROUTERS_PEAK)) ∧
          (∀ r, r ≠ 0xB0000 → t.reg r = s.reg r) ∧ t = { s with regs := t.regs, wck := t.wck, routesNow := l } ∧ ∀ x, t.rd x = s.rd x)) ∧
    (s.wck.running = false → ∀ c ∈ [Instr.guardOpen false, .headgateCommit, .bankSwap, .tallyFlush, .spmGuardRewrite, .dryCheck,
      .routeSwitch], exec c s = .next s)

/-- An order of the big-number engine, the symmetric unit, a basin, a vision pipeline, the gauge ADC, an I2C bus or the self-test, granted and passing its
checks while that unit works for another order, or an earlier order waits for it, waits in grant order, in flight with no tally; a BSN_LOAD,
VIS_GRAPH_LOAD or VIS_RUN whose basin or pipeline no allotment holds has it held from the grant. That an order also waits behind earlier waiting
orders of a unit that is free is the model's choice (log entry 88). The switched units that a waiting self-test names leave the working units at its grant. BUSY_UNIT_START with one
big-number order waiting and the engine idle gives the engine to it; with the engine busy, or nothing waiting, it changes
nothing. ORDER_DEADLINE_TIMEOUT in the deadline turn of the one order that waits ends it TIMEOUT; on a tie it goes on waiting
and is marked. -/
def Obligations.OrdersWaitForTheirUnit : Prop :=
  ∀ (q : Nat) (b : Bytes) (s : State),
    let o := s.mkOrd q b []; let late := s.queued o = true
    (s.bne.isSome = true ∨ late → ∀ x ∈ [(specSlotDefine, Instr.slotDefine q), (specBneLoad, .bneLoad q), (specBneStore, .bneStore q),
        (specBneCopy, .bneCopy q), (specRngFill, .rngFill q), (specModadd, .modadd q), (specModsub, .modsub q), (specModmul, .modmul q),
        (specModexp, .modexp q), (specModinv, .modinv q), (specEcMul, .ecMul q), (specEcMulBase, .ecMulBase q),
        (specEcKeygen, .ecKeygen q), (specEcdh, .ecdh q), (specSign, .sign q), (specVerify, .verify q), (specSlotClear, .slotClear q)],
      Taken x.1 q [] b s → ∃ t, exec x.2 s = .next t ∧ Parks s t (s.mkOrd q b [])) ∧
    (s.sym.isSome = true ∨ late → ∀ x ∈ [(specGcmEncrypt, Instr.gcmEncrypt q), (specGcmDecrypt, .gcmDecrypt q), (specSha384, .sha_384 q),
        (specSha3x256, .sha3_256 q), (specSha3x384, .sha3_384 q), (specShake128, .shake128 q), (specShake256, .shake256 q),
        (specHmacSha384, .hmacSha384 q)],
      Taken x.1 q [] b s → ∃ t, exec x.2 s = .next t ∧ Parks s t (s.mkOrd q b [])) ∧
    (s.bsnBusy (bsBasin o) = true ∨ late → ∀ x ∈ [(specBsnRun, Instr.bsnRun q), (specBsnRead, .bsnRead q)],
      Taken x.1 q [] b s → ∃ t, exec x.2 s = .next t ∧ Parks s t (s.mkOrd q b [])) ∧
    (s.bsnBusy (bsBasin o) = true ∨ late → Taken specBsnLoad q [] b s → ∃ t, exec (.bsnLoad q) s = .next t ∧ Parks (s.bsnHold o) t o ∧
      (bsState s (bsBasin o) = 0 → bsState t (bsBasin o) = 1 ∧ t.get (F.BSN_STATE_ALLOT (bsBasin o)) = o.allot) ∧
      (bsState s (bsBasin o) ≠ 0 → bsState t (bsBasin o) = bsState s (bsBasin o) ∧
        t.get (F.BSN_STATE_ALLOT (bsBasin o)) = s.get (F.BSN_STATE_ALLOT (bsBasin o)))) ∧
    ((s.vis (vpPipe o)).run.isSome = true ∨ late → ∀ x ∈ [(specVisGraphLoad, Instr.visGraphLoad q), (specVisRun, .visRun q)],
      Taken x.1 q [] b s → ∃ t, exec x.2 s = .next t ∧ Parks (s.visHold o) t o ∧
        (vpState s (vpPipe o) = 0 → vpState t (vpPipe o) = 1 ∧ t.get (F.VIS_STATE_ALLOT (vpPipe o)) = o.allot) ∧
        (vpState s (vpPipe o) ≠ 0 → vpState t (vpPipe o) = vpState s (vpPipe o) ∧
          t.get (F.VIS_STATE_ALLOT (vpPipe o)) = s.get (F.VIS_STATE_ALLOT (vpPipe o)))) ∧
    (s.test.isSome = true ∨ late → Taken specSelftestRun q [] b s → let u := s.flown q b []; let l := u.testUnits (o.field 16 2)
      ∃ t, exec (.selftestRun q) s = .next t ∧ Parks (u.holdTest o) t o ∧ t.test = s.test ∧
        t.testsWaiting = s.testsWaiting ++ [⟨o, l, o.field 18 1 == 1⟩] ∧ (∀ k ∈ l, k ≤ 200 → t.working k = false) ∧
        ∀ k < 264, k ∉ l → t.working k = s.working k) ∧
    (s.gau.isSome = true ∨ late → Taken specGauSample q [] b s → ∃ t, exec (.gauSample q) s = .next t ∧ Parks s t (s.mkOrd q b [])) ∧
    ((s.i2c (ixBus o)).ord.isSome = true ∨ late → Taken specMgtI2cXfer q [] b s →
      ∃ t, exec (.mgtI2cXfer q) s = .next t ∧ Parks s t (s.mkOrd q b [])) ∧
    (∀ o agree, s.stores = [] → s.waiting = [o] → o.op = 0x0500 → o.field 16 1 ≠ 2 →
      (bneDraws (o.field 16 1) o && s.wellFailed) = false →
      (s.bne = none → ∃ t, exec (.busyUnitStart agree) s = .next t ∧ t.waiting = [] ∧ t.bne = some ⟨o, o.field 16 1, [], s.wck.lagoon + s.bneTime (o.field 16 1) o⟩ ∧
        t.get F.BNE_STATE_BUSY = 1 ∧ t.inflight = s.inflight ∧ Quiet s t) ∧
      (s.bne.isSome = true → exec (.busyUnitStart agree) s = .next s)) ∧
    (∀ agree, s.stores = [] → s.waiting = [] → exec (.busyUnitStart agree) s = .next s) ∧
    (∀ o, s.stores = [] → q < 64 → s.waiting = [o] → s.testsWaiting = [] → o.q = q → o.deadline = s.wck.turn → o ∈ s.inflight →
      (∃ t, exec (.orderDeadlineTimeout q false) s = .next t ∧ Ends s t o stTimeout 0 openTimeout ∧ t.waiting = []) ∧
      ∃ t, exec (.orderDeadlineTimeout q true) s = .next t ∧ t.waiting = [o] ∧ (∀ x ∈ t.inflight, x.id = o.id → x.margin = true) ∧
        t = { s with inflight := t.inflight } ∧ ∀ x, t.rd x = s.rd x)

/-- On the idle engine, which no order waits for: SLOT_DEFINE, BNE_LOAD, BNE_COPY, RNG_FILL, MODADD, MODSUB, MODMUL, MODEXP, MODINV, the curve
operations, SIGN and VERIFY, granted and passing their checks, complete with the engine busy for the order, whose allotment BNE_STATE
names, in flight with no tally and every slot as it was; BNE_STORE does so with the pieces that its walk gives. SLOT_CLEAR
undefines every slot of its range, changes no other, and ends DONE with their number.
That waits for memory are no part of an operation's time is the model's reading (log entry 98). -/
def Obligations.EngineTakesOperation : Prop :=
  ∀ (q : Nat) (b : Bytes) (s : State), s.bne = none →
    let o := s.mkOrd q b []; s.queued o = false → let u := s.flown q b []
    (∀ x ∈ [(specSlotDefine, Instr.slotDefine q, 0x00), (specBneLoad, .bneLoad q, 0x01),
        (specBneCopy, .bneCopy q, 0x03), (specRngFill, .rngFill q, 0x04), (specModadd, .modadd q, 0x10), (specModsub, .modsub q, 0x11),
        (specModmul, .modmul q, 0x12), (specModexp, .modexp q, 0x13), (specModinv, .modinv q, 0x14), (specEcMul, .ecMul q, 0x20),
        (specEcMulBase, .ecMulBase q, 0x21), (specEcKeygen, .ecKeygen q, 0x22), (specEcdh, .ecdh q, 0x23), (specSign, .sign q, 0x28),
        (specVerify, .verify q, 0x29)],
      Taken x.1 q [] b s → ∃ t, exec x.2.1 s = .next t ∧ t.bne = some ⟨o, x.2.2, [], s.wck.lagoon + u.bneTime x.2.2 o⟩ ∧ t.get F.BNE_STATE_BUSY = 1 ∧
        t.get F.BNE_STATE_ALLOT = ownerCode o.allot % 2 ^ 5 ∧ o ∈ t.inflight ∧ t.slotMem = s.slotMem ∧ Quiet s t) ∧
    (Taken specBneStore q [] b s → ∀ l, u.orderWalk o o.allot (bneAddr o) (cdiv (8 * u.slotWords (bneD o)) 64 * 64) permHostWrite = .ok l →
      u.sealedOut o l = false → ∃ t, exec (.bneStore q) s = .next t ∧ t.bne = some ⟨o, 2, l, s.wck.lagoon + 40 + u.slotWords (bneD o)⟩ ∧ t.get F.BNE_STATE_BUSY = 1 ∧
        o ∈ t.inflight ∧ t.slotMem = s.slotMem ∧ Quiet s t) ∧
    (Taken specSlotClear q [] b s → ∃ t, exec (.slotClear q) s = .next t ∧ Ends s t o stDone (o.field 18 2) 0 ∧
      (∀ i, o.field 16 2 ≤ i → i < o.field 16 2 + o.field 18 2 → t.slotOn i = false ∧ (s.slotOn i = true → t.slotVal i = 0)) ∧
      ∀ i < 256, i < o.field 16 2 ∨ o.field 16 2 + o.field 18 2 ≤ i →
        t.slotOn i = s.slotOn i ∧ t.slotOwner i = s.slotOwner i ∧ t.slotWords i = s.slotWords i ∧ t.slotVal i = s.slotVal i)

/-- BNE_OP_END with both computations equal, for the operation in progress. With C odd, above 1 and no longer than D: MODADD
leaves (A + B) mod C in D, MODSUB the number below C that B added to gives A mod C, MODMUL A times B mod C, MODEXP A to the power
B mod C, and MODINV, for a prime C that does not divide A, the inverse of A modulo C; RESULT_OK is 1. With C even or at most
1, each leaves 0 in D and RESULT_OK 0. BNE_LOAD leaves the payload's number, BNE_COPY A's value, EC_KEYGEN a number from 1 to the
order less 1, VERIFY 0 or 1, equal to RESULT_OK. EC_MUL leaves A times the point B, EC_MUL_BASE A times the base point, ECDH the x-coordinate of A
times B, each X25519's value on that curve (EC_MUL_BASE on Ed25519 its encoded point); a B off its curve, or an ECDH result that is zero or the
identity, leaves 0 and RESULT_OK 0. SIGN leaves the Ed25519 signature, or the ECDSA signature of some k below the order, unless some k gives an r or
s of 0. SLOT_DEFINE of an undefined slot for which words are free defines it for its owner, holding 0, with the words named. BNE_STORE leaves D in
memory, zeros to the end of the last block, and every slot as it was. Each ends DONE with RESULT_OK in DETAIL; the engine is idle; no other slot and
no other byte of memory changes. Where the operation's time lies beyond the turn the command changes nothing (log entry 100).
The well's numbers are free values (log entry 3), curves and signatures those of their standards (log entry 11). -/
def Obligations.BigNumberResults : Prop :=
  (∀ (s : State) (o : Ord) (op due : Nat), s.stores = [] → s.bne = some ⟨o, op, [], due⟩ → o ∈ s.inflight →
    (bneDraws op o && s.wellFailed) = false → (s.reaches due = false → exec (.bneOpEnd true) s = .next s) ∧ (s.reaches due = true →
    let a := s.slotVal (bneA o); let b := s.slotVal (bneB o); let c := s.slotVal (bneC o); let w := 64 * s.slotWords (bneD o)
    let Gives (v r : Nat) : Prop := ∃ t, exec (.bneOpEnd true) s = .next t ∧ Ends (s.toLagoon due) t o stDone 0 r ∧ t.slotVal (bneD o) = v ∧
      (∀ i, i ≠ bneD o → t.slotVal i = s.slotVal i) ∧ t.bne = none ∧ t.get F.BNE_STATE_BUSY = 0
    (1 < c → c % 2 = 1 → c < 2 ^ w →
      (op = 0x10 → Gives ((a + b) % c) 1) ∧
      (op = 0x11 → ∃ v < c, (v + b) % c = a % c ∧ Gives v 1) ∧
      (op = 0x12 → Gives (a * b % c) 1) ∧
      (op = 0x13 → b < 2 ^ (64 * s.slotWords (bneB o)) → Gives (a ^ b % c) 1) ∧
      (op = 0x14 → c < 2 ^ (64 * s.slotWords (bneC o)) → Nat.Prime c → a % c ≠ 0 → ∃ v < c, v * a % c = 1 ∧ Gives v 1)) ∧
    ((c ≤ 1 ∨ c % 2 = 0) → op ∈ [0x10, 0x11, 0x12, 0x13, 0x14] → Gives 0 0) ∧
    (op = 0x01 → Gives (leNat (o.data 64 (8 * bneWords o)) % 2 ^ w) 1) ∧
    (op = 0x03 → a < 2 ^ w → Gives a 1) ∧
    (op = 0x04 → ∃ v, Gives v 1) ∧
    (op = 0x22 → bneCurve o = 0 → s.slotWords (bneD o) = 4 → ∃ v, 1 ≤ v ∧ v < curveP256.n ∧ Gives v 1) ∧
    (op = 0x29 → 1 ≤ s.slotWords (bneD o) → ∃ r, r ≤ 1 ∧ Gives r r) ∧
    (let e := curveOf (bneCurve o); let dw := s.slotWords (bneD o); let pt := pointOf (s.slotWords (bneB o)) b
      (bneCurve o < 3 →
        (op = 0x20 ∨ op = 0x23 → ecOn e pt.1 pt.2 = false → Gives 0 0) ∧
        (op = 0x20 → ecOn e pt.1 pt.2 = true → ∀ x y, ecMul e a (some pt) = some (x, y) → Gives (ofPoint dw x y % 2 ^ w) 1) ∧
        (op = 0x21 → ∀ x y, ecMul e a (some (e.gx, e.gy)) = some (x, y) → Gives (ofPoint dw x y % 2 ^ w) 1) ∧
        (op = 0x23 → ecOn e pt.1 pt.2 = true → ∀ x y, ecMul e a (some pt) = some (x, y) → Gives (x % 2 ^ w) (b2n (decide (x ≠ 0)))) ∧
        (op = 0x23 → ecOn e pt.1 pt.2 = true → ecMul e a (some pt) = none → Gives 0 0) ∧
        (op = 0x28 → ∃ v, Gives v 1 ∧ ((∃ k, 1 ≤ k ∧ k < e.n ∧ v = ofPoint dw (ecdsaSign e a b k).1 (ecdsaSign e a b k).2 % 2 ^ w) ∨
          ∃ k, 1 ≤ k ∧ k < e.n ∧ ((ecdsaSign e a b k).1 = 0 ∨ (ecdsaSign e a b k).2 = 0)))) ∧
      (bneCurve o = 3 →
        (op = 0x20 ∨ op = 0x23 → Gives (x25519 a b % 2 ^ w) (b2n (decide (x25519 a b ≠ 0)))) ∧
        (op = 0x21 → Gives (x25519 a 9 % 2 ^ w) 1)) ∧
      (bneCurve o = 4 →
        (op = 0x21 → Gives (leNat (edEncode (edMul a edBase)) % 2 ^ w) 1) ∧
        (op = 0x28 → Gives (leNat (edSign (toLe 32 b) (toLe (8 * s.slotWords (bneA o)) a)) % 2 ^ w) 1))) ∧
    (op = 0x00 → s.slotOn (bneD o) = false → bneWords o ≤ 128 → bneWords o ≤ s.get F.BNE_STATE_FREE → ∃ t, exec (.bneOpEnd true) s = .next t ∧
      Ends (s.toLagoon due) t o stDone 0 1 ∧ t.slotOn (bneD o) = true ∧ t.slotOwner (bneD o) = ownerCode o.allot % 2 ^ 5 ∧
      t.slotWords (bneD o) = bneWords o ∧ t.slotVal (bneD o) = 0 ∧ t.get F.BNE_STATE_FREE = s.get F.BNE_STATE_FREE - bneWords o ∧
      (∀ i, i ≠ bneD o → t.slotVal i = s.slotVal i) ∧ t.bne = none ∧ t.get F.BNE_STATE_BUSY = 0))) ∧
  ∀ (s : State) (o : Ord) (p due : Nat), s.stores = [] → o ∈ s.inflight → (∀ k, s.blockEcc k = .clean) → s.reaches due = true →
    let n := cdiv (8 * s.slotWords (bneD o)) 64 * 64; let d := toLe (8 * s.slotWords (bneD o)) (s.slotVal (bneD o))
    s.bne = some ⟨o, 2, [(p, 0, n)], due⟩ → ∃ t, exec (.bneOpEnd true) s = .next t ∧ Reports (s.toLagoon due) t o stDone 0 1 ∧ Ended t o ∧
      t.slotMem = s.slotMem ∧ t.bne = none ∧ t.get F.BNE_STATE_BUSY = 0 ∧
      ∀ x, t.rd x = if p ≤ x ∧ x < p + n then d.getD (x - p) 0 else s.rd x

/-- Each SYM_OP, granted and passing its checks on the idle unit, which no order waits for, whose walks succeed and whose destination is admitted,
completes with the unit working for it, in flight with no tally. SYM_OP_END of a hash or of HMAC, with every source block usable and a destination in one
page: the digest of what the source pieces hold stands at the destination and no other byte changes, the order ends DONE, the unit is idle, and where it names a slot, the slot's low bits hold the digest
too, its other bits as before. Of GCM_ENCRYPT: the ciphertext stands at the destination and the tag in the low 128 bits of its slot. Of GCM_DECRYPT: with
a tag that matches, the text stands there and no other byte changes; with one that does not, zeros to the end of the last block, and the order ends
NO_RIGHT with cause 0xEC. Where the operation's time lies beyond the turn the command changes nothing (log entry 100). For every key, IV, additional data and text, GCM decryption of what
GCM encryption gives, with its tag, gives the text back.
The functions are those of their standards (log entry 11). -/
def Obligations.SymmetricOperations : Prop :=
  (∀ (q : Nat) (b : Bytes) (s : State), s.sym = none →
    let o := s.mkOrd q b []; s.queued o = false → let u := s.flown q b []
    ∀ x ∈ [(specGcmEncrypt, Instr.gcmEncrypt q, 0), (specGcmDecrypt, .gcmDecrypt q, 1), (specSha384, .sha_384 q, 2),
        (specSha3x256, .sha3_256 q, 3), (specSha3x384, .sha3_384 q, 4), (specShake128, .shake128 q, 5), (specShake256, .shake256 q, 6),
        (specHmacSha384, .hmacSha384 q, 7)],
      Taken x.1 q [] b s → ∀ src aad dst, u.orderWalk o o.allot (symSrc o) (symLen o) permHostRead = .ok src →
      (x.2.2 ≤ 1 → u.orderWalk o o.allot (symAad o) (symAadLen o) permHostRead = .ok aad) → (1 < x.2.2 → aad = []) →
      u.orderWalk o o.allot (symDst o) (symOutBytes x.2.2 o) permHostWrite = .ok dst → u.sealedOut o dst = false →
      ∃ t, exec x.2.1 s = .next t ∧ t.sym = some ⟨o, src, aad, dst, s.wck.lagoon + symTime x.2.2 o⟩ ∧ o ∈ t.inflight ∧ t.waiting = s.waiting ∧ Quiet s t) ∧
  (∀ (s : State) (o : Ord) (src) (k p due : Nat), s.stores = [] → o ∈ s.inflight → symKind o.bytes = some k →
    2 ≤ k → k ≤ 7 → (∀ y, s.blockEcc y = .clean) → s.reaches due = true → let g := s.symDigest k o (s.orderRead src o.allot).1
    s.sym = some ⟨o, src, [], [(p, 0, g.length)], due⟩ →
    ∃ t, exec .symOpEnd s = .next t ∧ Reports (s.toLagoon due) t o stDone 0 0 ∧ Ended t o ∧ t.sym = none ∧
      (symToSlot o = true → 8 * g.length ≤ 64 * s.slotWords (symTagSlot o) →
        s.slotVal (symTagSlot o) < 2 ^ (64 * s.slotWords (symTagSlot o)) →
        t.slotVal (symTagSlot o) % 2 ^ (8 * g.length) = leNat g ∧
        t.slotVal (symTagSlot o) / 2 ^ (8 * g.length) = s.slotVal (symTagSlot o) / 2 ^ (8 * g.length)) ∧
      (symToSlot o = false → t.slotMem = s.slotMem) ∧
      ∀ x, t.rd x = if p ≤ x ∧ x < p + g.length then g.getD (x - p) 0 else s.rd x) ∧
  (∀ (s : State) (j : SymJob), s.sym = some j → s.reaches j.due = false → exec .symOpEnd s = .next s) ∧
  (∀ (s : State) (o : Ord) (src aad) (p due : Nat), s.stores = [] → o ∈ s.inflight → (∀ y, s.blockEcc y = .clean) → s.reaches due = true →
    let text := (s.orderRead src o.allot).1; let more := (s.orderRead aad o.allot).1; let key := s.slotBytes (symKey o); let iv := o.data 64 12
    let size := cdiv (symLen o) 64 * 64
    let Holds (t : State) (d : Bytes) (n : Nat) : Prop := ∀ x, t.rd x = if p ≤ x ∧ x < p + n then d.getD (x - p) 0 else s.rd x
    (symKind o.bytes = some 0 → let g := gcmSeal key iv more text
      s.sym = some ⟨o, src, aad, [(p, 0, g.1.length)], due⟩ → 4 ≤ s.slotWords (symTagSlot o) →
      s.slotVal (symTagSlot o) < 2 ^ (64 * s.slotWords (symTagSlot o)) →
      ∃ t, exec .symOpEnd s = .next t ∧ Reports (s.toLagoon due) t o stDone 0 0 ∧ Ended t o ∧ t.sym = none ∧
        t.slotVal (symTagSlot o) % 2 ^ 128 = leNat g.2 ∧ t.slotVal (symTagSlot o) / 2 ^ 128 = s.slotVal (symTagSlot o) / 2 ^ 128 ∧
        Holds t g.1 g.1.length) ∧
    (symKind o.bytes = some 1 → s.sym = some ⟨o, src, aad, [(p, 0, size)], due⟩ →
      (∀ d, gcmOpen key iv more text (o.data 80 16) = some d → d.length = symLen o → ∃ t, exec .symOpEnd s = .next t ∧
        Reports (s.toLagoon due) t o stDone 0 0 ∧ Ended t o ∧ t.sym = none ∧ t.slotMem = s.slotMem ∧ Holds t d (symLen o)) ∧
      (gcmOpen key iv more text (o.data 80 16) = none → ∃ t, exec .symOpEnd s = .next t ∧
        Reports (s.toLagoon due) t o stNoRight 0 (openCause 0xEC) ∧ Ended t o ∧ t.sym = none ∧ t.slotMem = s.slotMem ∧ Holds t [] size))) ∧
  ∀ key iv aad text : Bytes, gcmOpen key iv aad (gcmSeal key iv aad text).1 (gcmSeal key iv aad text).2 = some text

/-- RNG_READ, granted and passing its checks: as many bytes as asked for leave to the reply address, and the order ends DONE.
ATTEST on the idle engine, which no order waits for, with a healthy well and agreeing computations: the report of the grant cycle with 96 bytes of
signature leave to the reply address, and the order ends DONE. SESSION_OPEN so, whose key agreement succeeds: a reply leaves and
the session with the next id is staged, in flight with no tally. DRBG_RESEED with a healthy well: the reseed count is 1 more
and the instance's request count 0; with a failed well nothing changes. WELL_HEALTH_FAIL with no frame in progress: the well
reads FAILED, not HEALTHY, unit 260 does not work, and the well stays stopped.
The well's bytes are free values (log entry 3), the functions those of their standards (log entry 11). -/
def Obligations.RandomAttestAndSession : Prop :=
  ∀ (s : State), s.stores = [] →
    (∀ q b, let o := s.mkOrd q b []; let u := s.flown q b []
      (Taken specRngRead q [] b s → ∃ t d, exec (.rngRead q) s = .next t ∧ Ends s t o stDone 0 0 ∧ d.length = o.field 24 4 ∧
        t.sent = s.sent ++ [.hostWrite (u.fnOf q) (o.field 16 8) d false]) ∧
      (Taken (specAttest true) q [] b s → s.bne = none → s.queued o = false → s.wellFailed = false → ∃ t g, exec (.attest q true) s = .next t ∧
        Ends s t o stDone 0 0 ∧ g.length = 96 ∧
        t.sent = s.sent ++ [.hostWrite (u.fnOf q) (o.field 16 8) (u.report o ++ g) false]) ∧
      (Taken (specSessionOpen true) q [] b s → s.bne = none → s.queued o = false → s.wellFailed = false →
        ∀ k v, u.agree (o.field 16 1) (o.data 64 (if o.field 16 1 = 1 then 96 else 32)) = (some k, v) →
        ∃ t key d, exec (.sessionOpen q true) s = .next t ∧ t.staged = s.staged ++ [⟨o, .session o.allot s.nextSession key, false, s.wck.now⟩] ∧
          t.nextSession = (s.nextSession + 1) % 2 ^ 48 ∧ o ∈ t.inflight ∧ Quiet s t ∧
          t.sent = s.sent ++ [.hostWrite (u.fnOf q) (o.field 32 8) d false])) ∧
    (∀ i < 4, s.wellFailed = false → ∃ t, exec (.drbgReseed i) s = .next t ∧
      t.get F.SEC_WELL_RESEEDS = min (2 ^ F.SEC_WELL_RESEEDS.w - 1) (s.get F.SEC_WELL_RESEEDS + 1) ∧ smGet 0 t.drbg i = 0 ∧
      (∀ j, j ≠ i → smGet 0 t.drbg j = smGet 0 s.drbg j) ∧ t = { s with regs := t.regs, drbg := t.drbg }) ∧
    (∀ i < 4, s.wellFailed = true → exec (.drbgReseed i) s = .next s) ∧
    ((∀ p < 8, (s.ing p).receiving = none) → ∃ t, exec .wellHealthFail s = .next t ∧ t.wellFailed = true ∧
      t.get F.SEC_WELL_FAILED = 1 ∧ t.get F.SEC_WELL_HEALTHY = 0 ∧ t.working 260 = false ∧ (∀ k, k ≠ 260 → k < 264 → t.working k = s.working k) ∧ Quiet s t)

/-- MOD_TABLE_LOAD, granted and passing its checks: the order ends DONE with the number of its entries, and each modulus entry of the
payload stands in the allotment's table at the index it names, as does its q in RNE_MODTAB with VALID
1; the table's other indices and other allotments' tables keep their entries. KEY_LOAD of each form, whose walks succeed, whose destination lies in one page and whose
blocks are free of errors: the bundle (of form 0 what stands at the source, of form 1 that opened under the session key, of form 2 one drawn from the well) stands at
the destination with the order's tag, no other byte changes, and
the entry (kind, source and destination elements) is staged for its key id, in flight with no tally; a bundle of form 1 that does not open writes zeros
there and ends NO_RIGHT with cause 0x9E, nothing staged.
The rights of the destination and the forms of the reserved fields are log entry 58, the bytes drawn from the well free values (log
entry 3). -/
def Obligations.ModulusAndKeyLoads : Prop :=
  ∀ (q : Nat) (b : Bytes) (s : State), let o := s.mkOrd q b []; let u := s.flown q b []
    (Taken specModTableLoad q [] b s → ∃ t, exec (.modTableLoad q) s = .next t ∧ Ends s t o stDone (mtCount o) 0 ∧
      (∀ k < mtCount o, let e := mtEntry o k
        smGet Modulus.none (t.allot o.allot).mods (mtIndex e) = modulusOf e ∧ t.get (F.RNE_MODTAB_Q o.allot (mtIndex e)) = fieldAt e 0 4 ∧
          t.get (F.RNE_MODTAB_VALID o.allot (mtIndex e)) = 1) ∧
      (∀ i, (∀ k < mtCount o, mtIndex (mtEntry o k) ≠ i) →
        smGet Modulus.none (t.allot o.allot).mods i = smGet Modulus.none (s.allot o.allot).mods i) ∧
      (∀ a, a ≠ o.allot → t.allot a = s.allot a)) ∧
    (Taken specKeyLoad q [] b s → ∀ src p, (klForm o = 2 → src = []) →
      (klForm o ≠ 2 → u.orderWalk o o.allot (klSrc o) (klSize o) permHostRead = .ok src) →
      u.keyDest o = .ok [(p, 0, klSize o)] → (∀ k, s.blockEcc k = .clean) → let r := u.keyBytes o src
      let Wrote (t : State) (d : Bytes) (tag : BitVec 64) : Prop :=
        (∀ k, p ≤ 64 * k → 64 * k + 64 ≤ p + klSize o → t.blockTag k = tag) ∧
        ∀ x, t.rd x = if p ≤ x ∧ x < p + klSize o then d.getD (x - p) 0 else s.rd x
      (∀ d, u.keyOpen o r.1 = some d → ∃ t, exec (.keyLoad q) s = .next t ∧
        t.staged = s.staged ++ [⟨o, .keyEntry o.allot (klKey o) (klKind o) (klFrom o) (klTo o), false, s.wck.now⟩] ∧
        (t.allot o.allot).keys = (s.allot o.allot).keys ∧ o ∈ t.inflight ∧ (∀ y, (t.queue y).out = (s.queue y).out) ∧
        Wrote t d (tagOf (klTag o))) ∧
      (u.keyOpen o r.1 = none → ∃ t, exec (.keyLoad q) s = .next t ∧ t.staged = s.staged ∧
        (t.allot o.allot).keys = (s.allot o.allot).keys ∧ Reports s t o stNoRight 0 (openCause 0x9E) ∧ Ended t o ∧ Wrote t [] 0))

/-- SCHED_LOAD, granted and passing its checks, with the image in host memory or in the allotment's, where no page is sealed from an open order: the allotment is BUSY with the load, whose
rights are those of the grant; with the translator free and no load waiting the load is under way, and one of an image shorter than 192 bytes fails
with BAD_LENGTH; otherwise the order waits. PLAN_LOAD_END of a load without failure: a CLAIMED allotment is LOADED,
another stays as it is, the plan in standby (beside the active one while that runs or drains), DONE with the first 8 bytes of the measurement in DETAIL; of a failed load: the tally of the failure, no
standby plan, the state as it was. SCHED_ARM in LOADED: ARMED for the turn named, the order still in flight, no tally.
SCHED_STOP: the stop is held, its order in flight and not yet in effect, no tally. SCHED_UNLOAD in LOADED: CLAIMED, no plan, DONE. DRAIN_COMPLETE in DRAINING with
every delivery ended: LOADED, and the run's order ends with the turns executed, DONE, or FAILED_ECC (cause 0x70) where a poisoned PARTIAL was released; with one left, or in another state, nothing changes.
That the verdict is computed at the load's start, and that a failed load leaves no standby plan, is log entry 49, that SCHED_UNLOAD ends DONE at once log entry 57: the model's choices. -/
def Obligations.PlanLifeCycle : Prop :=
  ∀ (s : State), s.stores = [] →
    (∀ q b host, let o := s.mkOrd q b host; let u := s.flown q b host; let x := u.allot o.allot
      let v0 : LoadView := ⟨o, x.rights, u.turnoutRoot o.allot, u.turnoutLevels o.allot⟩
      Taken specSchedLoad q host b s →
      (s.load = none → s.queued o = false → slLoc o = false ∨ (∃ r, (((u.setAllot o.allot { x with loading := some v0 }).put (F.ALT_STATE_BUSY o.allot) 1).readImage v0).1 = .ok r) → ∃ t l v, exec (.schedLoad q host) s = .next t ∧ t.load = some l ∧ l.ord = o ∧
        (slLoc o = false → slBytes o < 192 → ∃ d, l.fail = some (stBadLength, d)) ∧ (t.allot o.allot).loading = some v ∧ v.ord = o ∧
        v.rights = (s.allot o.allot).rights ∧ t.get (F.ALT_STATE_BUSY o.allot) = 1 ∧ t.altState o.allot = s.altState o.allot ∧
        o ∈ t.inflight ∧ Quiet s t) ∧
      (s.load.isSome = true ∨ s.queued o = true → ∃ t, exec (.schedLoad q host) s = .next t ∧ t.load = s.load ∧ t.waiting = s.waiting ++ [o] ∧
        t.get (F.ALT_STATE_BUSY o.allot) = 1 ∧ o ∈ t.inflight ∧ Quiet s t)) ∧
    (∀ a l, a < 16 → s.load = some l → l.ord.allot = a → l.ord ∈ s.inflight →
      (l.fail = none → ∃ t, exec (.planLoadEnd a) s = .next t ∧ t.altState a = (if s.altState a = 1 then 2 else s.altState a) ∧
        (t.allot a).standby = some l.plan ∧ (t.allot a).active = (if s.altState a = 4 ∨ s.altState a = 5 then (s.allot a).active else none) ∧ Ends s t l.ord stDone 0 (fieldAt l.plan.meas 0 8) ∧
        ∀ b, b ≠ a → t.allot b = s.allot b) ∧
      (∀ f, l.fail = some f → ∃ t, exec (.planLoadEnd a) s = .next t ∧ (t.allot a).standby = none ∧
        (t.allot a).active = (s.allot a).active ∧ t.altState a = s.altState a ∧ Ends s t l.ord f.1 0 f.2)) ∧
    (∀ a < 16, s.load = none → exec (.planLoadEnd a) s = .next s) ∧
    (∀ q b, let o := s.mkOrd q b []; let a := o.allot
      (Taken specSchedArm q [] b s → ∃ t, exec (.schedArm q) s = .next t ∧ (t.allot a).armed = some ⟨o, o.field 16 6⟩ ∧
        t.altState a = (if s.altState a = 2 then 3 else s.altState a) ∧ (∃ x ∈ t.inflight, x.id = o.id ∧ x.took = true) ∧ Quiet s t) ∧
      (Taken specSchedStop q [] b s → ∃ t, exec (.schedStop q) s = .next t ∧
        (t.allot a).stops = (s.allot a).stops ++ [(o, o.field 16 6)] ∧ t.altState a = s.altState a ∧
        (∃ x ∈ t.inflight, x.id = o.id) ∧ Quiet s t) ∧
      (Taken specSchedUnload q [] b s → ∃ t, exec (.schedUnload q) s = .next t ∧ Ends s t o stDone 0 0 ∧ (t.allot a).active = none ∧
        (t.allot a).standby = none ∧ t.altState a = (if s.altState a = 2 then 1 else s.altState a))) ∧
    (∀ a o, a < 16 → s.altState a = 5 → (s.allot a).delivs = [] → (s.allot a).runOrd = some o → (s.allot a).stops = [] →
      o ∈ s.inflight → ∃ t, exec (.drainComplete a) s = .next t ∧ t.altState a = 2 ∧
        (t.allot a).runOrd = none ∧ (match (s.allot a).partialPoison with
          | none => Ends s t o stDone ((s.allot a).executed % 2 ^ 32) 0
          | some p => Ends s t o stEcc ((s.allot a).executed % 2 ^ 32) (planDetail 0x70 p.1 p.2))) ∧
    (∀ a < 16, s.altState a ≠ 5 ∨ (s.allot a).delivs ≠ [] → exec (.drainComplete a) s = .next s)

/-- ALT_RELEASE, granted and passing its checks, of an allotment that holds no unit, no bound queue and no order that waits, is staged, is due in a fallow turn or reopens a sluice:
BUSY, every plan, key and modulus gone, the revocation of all granules staged with the order, in flight with no tally.
ALT_RELEASE_END once every step of the teardown is complete: the allotment is EMPTY, owns no tile, holds no right and no plan, its
sluice reads open, its ledger stays as it was until the next claim, its numeric flags are clear, and the order ends DONE. While a step is left, or where no release runs, no allotment changes. That the
release takes effect at its grant and its rights end at the next headgate commit is the model's choice (log entry 66). -/
def Obligations.AllotmentIsReleased : Prop :=
  ∀ (s : State), s.stores = [] →
    (∀ q host b, let o := s.mkOrd q b host; let a := o.allot
      Taken specAltRelease q host b s → s.waiting = [] → (∀ x ∈ s.inflight, x.allot = a → (∀ y ∈ s.staged, y.ord.id ≠ x.id) ∧ (∀ y ∈ s.fallowDue, y.ord.id ≠ x.id) ∧ ∀ y ∈ s.reopens, y.ord.id ≠ x.id) →
        s.bne = none → s.sym = none → (∀ r, 1 ≤ r → r < 64 → s.boundTo r a = false) →
      (∀ p < 8, s.get (F.ING_PORT_STATE_ALLOT p) ≠ a) → (∀ p < 4, s.get (F.VIS_STATE_ALLOT p) ≠ a) →
      (∀ p < 2, s.get (F.BSN_STATE_ALLOT p) ≠ a) → ∃ t, exec (.altRelease q host) s = .next t ∧ t.get (F.ALT_STATE_BUSY a) = 1 ∧
        (t.allot a).active = none ∧ (t.allot a).standby = none ∧ (t.allot a).keys = [] ∧ (t.allot a).mods = [] ∧
        (t.allot a).release = some o ∧ t.staged = s.staged ++ [⟨o, .rights a [(0, 196608, 0, true)], false, s.wck.now⟩] ∧
        (∃ x ∈ t.inflight, x.id = o.id) ∧ Quiet s t) ∧
    (∀ a o, a < 16 → (s.allot a).release = some o → o ∈ s.inflight → s.releaseDone a o = true → o.allot = a →
      ∃ t, exec (.altReleaseEnd a) s = .next t ∧ t.altState a = 0 ∧ (∀ k < 144, t.ownsTile a k = false) ∧ (t.allot a).rights = [] ∧
        (t.allot a).active = none ∧ (t.allot a).ledger = (s.allot a).ledger ∧ (t.allot a).release = none ∧ t.sluiceOf a = 0 ∧ t.reg (0x88000 + 8 * a) = 0 ∧ Ends s t o stDone 0 0) ∧
    (∀ a < 16, (s.allot a).release = none → exec (.altReleaseEnd a) s = .next s) ∧
    (∀ a o, a < 16 → (s.allot a).release = some o → (∃ x ∈ s.staged, x.ord.id = o.id) → ∃ t, exec (.altReleaseEnd a) s = .next t ∧
      t.allots = s.allots ∧ t.inflight = s.inflight ∧ Quiet s t)

/-- Each granted and passing its checks. ING_PORT_CONFIG: the port is READY, bound to the order's allotment, holds the record,
and the order ends DONE. ING_START, whose walks and reads succeed: SEEK, no buffer valid, the next buffer 0, no frame, the
tables as read; DONE. ING_STOP without RELEASE: READY, still bound, no frame and no valid buffer; with RELEASE: OFF, unbound,
nothing kept; DONE. ING_KEY_SET, whose walks and reads succeed: with a bundle of the digest named the key
slot is staged, in flight with no tally; with another, NO_RIGHT (0xC2) and nothing staged. No other port changes. -/
def Obligations.CameraPortOrders : Prop :=
  ∀ (q : Nat) (b : Bytes) (s : State), let o := s.mkOrd q b []; let u := s.flown q b []; let p := ipPort o; let x := s.ing p
    let Rest (t : State) : Prop := ∀ r < 8, r ≠ p → t.ing r = s.ing r ∧ ipState t r = ipState s r ∧ ipAllot t r = ipAllot s r
    (Taken specIngPortConfig q [] b s → ∃ t, exec (.ingPortConfig q) s = .next t ∧ Ends s t o stDone 0 0 ∧ ipState t p = 1 ∧
      ipAllot t p = o.allot ∧ t.ing p = { x with cfg := o.data 32 96 } ∧ Rest t) ∧
    (Taken specIngStart q [] b s → ∀ l w, u.translate o.allot (icBase x.cfg) (icNbuf x.cfg * icStride x.cfg)
        (fun v => bit v permIngress && (!icSealed x.cfg || bit v permSealed)) = .ok l →
      u.orderWalk o o.allot (icTables x.cfg) (if icMosaic x.cfg = 3 then 0 else 0x1400 + 4 * icDefects x.cfg) permHostRead = .ok w →
      (u.orderRead w o.allot).2.1 = true → ∃ t, exec (.ingStart q) s = .next t ∧ Ends s t o stDone 0 0 ∧ ipState t p = 2 ∧
        t.get (F.ING_PORT_STATE_VALID p) = 0 ∧ t.get (F.ING_PORT_STATE_NEXT_BUF p) = 0 ∧ (t.ing p).frames = [] ∧
        (t.ing p).count = 0 ∧ (t.ing p).calib = (u.orderRead w o.allot).1 ∧ (t.ing p).cfg = x.cfg ∧ Rest t) ∧
    (Taken specIngStop q [] b s → bit (o.field 17 1) 0 = false → ∃ t, exec (.ingStop q) s = .next t ∧ Ends s t o stDone 0 0 ∧
      ipState t p = 1 ∧ ipAllot t p = ipAllot s p ∧ t.get (F.ING_PORT_STATE_VALID p) = 0 ∧ (t.ing p).frames = [] ∧
      (t.ing p).cfg = x.cfg ∧ Rest t) ∧
    (Taken specIngStop q [] b s → bit (o.field 17 1) 0 = true → ∃ t, exec (.ingStop q) s = .next t ∧ Ends s t o stDone 0 0 ∧
      ipState t p = 0 ∧ ipAllot t p = 31 ∧ t.ing p = IngPort.reset ∧ Rest t) ∧
    (Taken specIngKeySet q [] b s → ∀ src dst, u.orderWalk o o.allot (bits (o.field 32 8) 0 48) (ikBytes o) permHostRead = .ok src →
      u.translate o.allot (ikDest o) (ikBytes o) (fun v => bit v permSealed && bit v permPlanRead) = .ok dst →
      (u.orderRead src o.allot).2.1 = true → ∃ t, exec (.ingKeySet q) s = .next t ∧ (∀ r < 8, t.ing r = s.ing r) ∧
        (sha384 (u.orderRead src o.allot).1 = o.data 56 48 → ∃ k,
          t.staged = s.staged ++ [⟨o, .ingKey p (o.field 17 1) o.allot k (bit (o.field 55 1) 0), false, s.wck.now⟩] ∧ k.dest = ikDest o ∧
          k.logN = ikLogN o ∧ k.limbs = ikLimbs o ∧ o ∈ t.inflight ∧ ∀ r, (t.queue r).out = (s.queue r).out) ∧
        (sha384 (u.orderRead src o.allot).1 ≠ o.data 56 48 → t.staged = s.staged ∧ Reports s t o stNoRight 0 (openCause 0xC2) ∧ Ended t o))

/-- On a started port. CSI_FRAME_START on the first exposure's channel in SEEK, unsealed and not bound to turns: FRAME, the
frame counted, its buffer the count modulo NBUF, not valid; of a sealed port, the well failed: the buffer not valid, the frame bad with cause 7, DISCARD.
CSI_LONG_PACKET of the one exposure with a good CRC and a whole line, the receive FIFO with it within 32 KiB: the line joins the frame; beyond: the
frame bad with cause 4, DISCARD (what the FIFO holds is log entry 93); with a bad CRC: counted, the frame bad with cause 1, DISCARD.
CSI_FRAME_END with every row in time: SEEK, the frame ended; in DISCARD: SEEK. CSI_OTHER_PACKET with a good header: counted as
OTHER; with one that cannot be corrected: counted as UNCORR. FRAME_TIMEOUT beyond the turns allowed: the frame is bad with cause 5,
SEEK; earlier, nothing. A port not started hears no packet. No tally, no byte of memory.
That frames start and end on exposure 0's channel, and that a failed well makes a sealed frame bad with cause 7, is log entry 78, the
packing of samples log entry 21: the model's readings. -/
def Obligations.CameraPackets : Prop :=
  ∀ (p : Nat) (s : State), p < 8 → s.stores = [] → let x := s.ing p; let c := x.cfg
    (ipHears s p = false → ∀ vc dt ecc crc data tie, exec (.csiFrameStart p vc ecc) s = .next s ∧
      exec (.csiLongPacket p vc dt ecc crc data) s = .next s ∧ exec (.csiFrameEnd p vc ecc tie) s = .next s ∧
      exec (.csiOtherPacket p vc ecc) s = .next s) ∧
    (ipState s p = 2 → icBind c = false → icSealed c = false → 0 < icNbuf c → icNbuf c ≤ 8 → ∃ t, exec (.csiFrameStart p (icVc c 0) 0) s = .next t ∧
      ipState t p = 3 ∧ (t.ing p).count = x.count + 1 ∧ (t.ing p).lastStart = s.wck.turn ∧
      (∃ f, (t.ing p).frames = x.frames ++ [f] ∧ f.buf = x.count % icNbuf c ∧ f.rows = [] ∧ f.out = 0) ∧
      bit (t.get (F.ING_PORT_STATE_VALID p)) (x.count % icNbuf c) = false ∧ Quiet s t) ∧
    (ipState s p = 2 → icBind c = false → icSealed c = true → s.wellFailed = true → 0 < icNbuf c → icNbuf c ≤ 8 →
      ∃ t, exec (.csiFrameStart p (icVc c 0) 0) s = .next t ∧ ipState t p = 4 ∧ t.get (F.ING_PORT_STATE_LAST_BAD p) = 7 ∧
        t.get (F.ING_FRAMES_BAD p) = min (2 ^ 32 - 1) (s.get (F.ING_FRAMES_BAD p) + 1) ∧ (t.ing p).frames = x.frames ∧
        bit (t.get (F.ING_PORT_STATE_VALID p)) (x.count % icNbuf c) = false ∧ Quiet s t) ∧
    (ipState s p = 3 → icNexp c = 1 → ∀ f data, x.receiving = some f →
      let grown : IngPort := { x with frames := x.frames.dropLast ++ [{ f with rows := smSet [] f.rows 0 (rowsOf f 0 ++ [unpackLine (icDt c 0) data]) }] }
      (data.length = icLineBytes c → (rowsOf f 0).length < icHeight c → 32768 < grown.fifoBytes →
        ∃ t, exec (.csiLongPacket p (icVc c 0) (icDt c 0) 0 true data) s = .next t ∧ ipState t p = 4 ∧
          t.get (F.ING_PORT_STATE_LAST_BAD p) = 4 ∧ (t.ing p).frames = x.frames.dropLast ∧ Quiet s t) ∧
      (data.length = icLineBytes c → (rowsOf f 0).length < icHeight c → grown.fifoBytes ≤ 32768 →
        ∃ t g, exec (.csiLongPacket p (icVc c 0) (icDt c 0) 0 true data) s = .next t ∧ (t.ing p).receiving = some g ∧
          rowsOf g 0 = rowsOf f 0 ++ [unpackLine (icDt c 0) data] ∧ g.buf = f.buf ∧ ipState t p = 3 ∧ t.regs = s.regs ∧ Quiet s t) ∧
      (∃ t, exec (.csiLongPacket p (icVc c 0) (icDt c 0) 0 false data) s = .next t ∧ ipState t p = 4 ∧
        t.get (F.ING_ERRORS_CRC p) = min (2 ^ 16 - 1) (s.get (F.ING_ERRORS_CRC p) + 1) ∧ t.get (F.ING_PORT_STATE_LAST_BAD p) = 1 ∧
        (t.ing p).frames = x.frames.dropLast ∧ Quiet s t) ∧
      (∀ tie, (rowsOf f 0).length = icHeight c → ipLate s p = false → ∃ t, exec (.csiFrameEnd p (icVc c 0) 0 tie) s = .next t ∧
        ipState t p = 2 ∧ (t.ing p).receiving = none ∧ (t.ing p).frames = x.frames.dropLast ++ [{ f with ended := true }] ∧ Quiet s t) ∧
      (ipLate s p = true → ∃ t, exec (.frameTimeout p) s = .next t ∧ ipState t p = 2 ∧ t.get (F.ING_PORT_STATE_LAST_BAD p) = 5 ∧
        t.get (F.ING_FRAMES_BAD p) = min (2 ^ 32 - 1) (s.get (F.ING_FRAMES_BAD p) + 1) ∧ (t.ing p).frames = x.frames.dropLast ∧ Quiet s t)) ∧
    (ipState s p = 4 → ∀ tie, ∃ t, exec (.csiFrameEnd p (icVc c 0) 0 tie) s = .next t ∧ ipState t p = 2 ∧ t = { s with regs := t.regs }) ∧
    (ipHears s p = true → ∀ vc, (∃ t, exec (.csiOtherPacket p vc 0) s = .next t ∧
        t.get (F.ING_ERRORS_OTHER p) = min (2 ^ 16 - 1) (s.get (F.ING_ERRORS_OTHER p) + 1) ∧
        (∀ r, r ≠ 0xC0110 + 0x80 * p → t.reg r = s.reg r) ∧ t = { s with regs := t.regs }) ∧
      (ipState s p = 2 → ∃ t, exec (.csiOtherPacket p vc 2) s = .next t ∧
        t.get (F.ING_ERRORS_ECC_UNCORR p) = min (2 ^ 16 - 1) (s.get (F.ING_ERRORS_ECC_UNCORR p) + 1) ∧
        (∀ r, r ≠ 0xC0110 + 0x80 * p → t.reg r = s.reg r) ∧ t = { s with regs := t.regs })) ∧
    (ipLate s p = false → exec (.frameTimeout p) s = .next s)

/-- PIPELINE_ROW_OUT of a port whose oldest frame with a row ready is f. Unsealed, where the blocks written are usable and the row's
bytes fall on distinct physical addresses: the row's bytes stand in the frame's buffer at the row's pitch, their blocks
carry the CLEAR tag, no other byte of memory changes; a row that is not the last leaves the frame with one row more out; the last one
completes it: the frame is gone, its buffer's valid bit 1, the good frames 1 more; the first row of one that goes on clears its buffer's
valid bit, and no row moves another's. Sealed: with both staging buffers full nothing
changes; otherwise the row's values join those that wait (the last row filled up with zeros), each full ciphertext of them takes a free
staging buffer in order, the rest waits in the frame. With no row ready nothing changes. CIPHERTEXT_WRITTEN of a frame under a key,
where the blocks written are usable and distinct: the oldest staged ciphertext leaves the encryptor, its bytes stand
in the frame's buffer at its place, their blocks carry its tag, no other byte changes; it is counted; the frame's last one completes
the frame, the first one of one that goes on clears its buffer's valid bit. After a failure of the well nothing is written: the port's sealed frames are gone.
With nothing staged nothing changes; one of a frame that is gone only leaves the queue. No tally is written. That a staging
buffer stays full until its ciphertext is written, and that two full ones stall a port, is log entry 93.
The image arithmetic is log entry 79, the width of MOSAIC 3 log entry 20, the encryptor's noise a free value (log entry 3). -/
def Obligations.FramesLeaveThePipeline : Prop :=
  ∀ (s : State), s.stores = [] →
    let Lands (t : State) (m : SMap Nat) (at_ : Nat) (data : Bytes) (tag : BitVec 64) : Prop :=
      (∀ i < data.length, t.rd (xl m (at_ + i)) = data.getD i 0 ∧ t.blockTag (xl m (at_ + i) / 64) = tag) ∧
        ∀ a, (∀ i < data.length, xl m (at_ + i) ≠ a) → t.rd a = s.rd a
    let Free (m : SMap Nat) (at_ n : Nat) : Prop :=
      (∀ i < n, (s.blockEcc (xl m (at_ + i) / 64)).usable = true) ∧ ∀ i < n, ∀ j < n, xl m (at_ + i) = xl m (at_ + j) → i = j
    (∀ p < 8, let x := s.ing p; let c := x.cfg
      ((∀ f ∈ x.frames, rowReady x f = false) → exec (.pipelineRowOut p) s = .next s) ∧
      (∀ f, x.frames.find? (fun f => rowReady x f) = some f →
        let row := (List.range (icWidth c)).flatMap fun col => pixelOut x f f.out col
        let with_ (l : List IngFrame) : List IngFrame := x.frames.flatMap fun g => if g.id == f.id then l else [g]
        (f.key = none → f.buf < 8 → let data := row.flatMap fun d => toLe (icOutBits c / 8) d
          let at_ := icBase c + f.buf * icStride c + f.out * icPitch c
          Free x.pages at_ data.length → ∃ t, exec (.pipelineRowOut p) s = .next t ∧ (∀ r, (t.queue r).out = (s.queue r).out) ∧
            Lands t x.pages at_ data 0 ∧ t.encQ = s.encQ ∧
            (f.out + 1 ≠ icHeight c → (t.ing p).frames = with_ [{ f with out := f.out + 1 }] ∧
              ∀ b < 8, bit (t.get (F.ING_PORT_STATE_VALID p)) b = (bit (s.get (F.ING_PORT_STATE_VALID p)) b && !(b == f.buf && f.out == 0))) ∧
            (f.out + 1 = icHeight c → (t.ing p).frames = with_ [] ∧ bit (t.get (F.ING_PORT_STATE_VALID p)) f.buf = true ∧
              t.get (F.ING_FRAMES_GOOD p) = min (2 ^ 32 - 1) (s.get (F.ING_FRAMES_GOOD p) + 1))) ∧
        (∀ k, f.key = some k → (s.stalled p = true → exec (.pipelineRowOut p) s = .next s) ∧
          (s.stalled p = false → let n := 2 ^ (k.logN - 1)
            let vals := f.vals ++ row
            let vals := if f.out + 1 = icHeight c then vals ++ List.replicate ((n - vals.length % n) % n) 0 else vals
            let m := min (2 - s.fullBuffers p) (vals.length / n)
            ∃ t, exec (.pipelineRowOut p) s = .next t ∧ Quiet s t ∧ t.get F.ING_ENC_STAGED = min 16 (s.encQ.length + m) ∧
              t.encQ = s.encQ ++ (List.range m).map (fun i => ⟨p, f.id, f.staged + i, (vals.drop (i * n)).take n⟩) ∧
              (t.ing p).frames = with_ [{ f with out := f.out + 1, vals := vals.drop (m * n), staged := f.staged + m }])))) ∧
    (s.encQ = [] → exec .ciphertextWritten s = .next s) ∧
    (∀ j rest, s.encQ = j :: rest → j.port < 8 → let x := s.ing j.port; let c := x.cfg
      (∀ f k, x.frames.find? (fun f => f.id == j.frame) = some f → f.key = some k → f.buf < 8 → s.wellFailed = false →
        let a := ipAllot s j.port
        let e := ({ s with encQ := rest }.noteEnc.encrypt a k (icOutBits c) j.vals).1
        let data := e.flatMap fun l => l.flatMap (toLe 4)
        let at_ := icBase c + f.buf * icStride c + j.k * (8 * 2 ^ k.logN * k.limbs)
        let tag := tagOf (tagBits 2 k.level k.scale k.keyId k.logN k.limbs (s.get (F.ALT_STATE_PARTY a)) true false)
        Free x.pages at_ data.length → ∃ t, exec .ciphertextWritten s = .next t ∧ (∀ r, (t.queue r).out = (s.queue r).out) ∧
          Lands t x.pages at_ data tag ∧ t.encQ.take rest.length = rest ∧
          t.get F.ING_ENC_CIPHERTEXTS = min (2 ^ F.ING_ENC_CIPHERTEXTS.w - 1) (s.get F.ING_ENC_CIPHERTEXTS + 1) ∧
          (f.written + 1 ≠ icCts c k → (∃ g ∈ (t.ing j.port).frames, g.id = f.id ∧ g.written = f.written + 1) ∧
            t.get (F.ING_FRAMES_GOOD j.port) = s.get (F.ING_FRAMES_GOOD j.port) ∧ (f.written = 0 → bit (t.get (F.ING_PORT_STATE_VALID j.port)) f.buf = false)) ∧
          (f.written + 1 = icCts c k → (∀ g ∈ (t.ing j.port).frames, g.id ≠ f.id) ∧ bit (t.get (F.ING_PORT_STATE_VALID j.port)) f.buf = true ∧
            t.get (F.ING_FRAMES_GOOD j.port) = min (2 ^ 32 - 1) (s.get (F.ING_FRAMES_GOOD j.port) + 1))) ∧
      (∀ f, x.frames.find? (fun f => f.id == j.frame) = some f → f.key.isSome = true → s.wellFailed = true → ∃ t,
        exec .ciphertextWritten s = .next t ∧ Quiet s t ∧ (∀ g ∈ (t.ing j.port).frames, g.key = none) ∧
        t.get (F.ING_PORT_STATE_LAST_BAD j.port) = 7 ∧ ∀ y ∈ t.encQ, y ∈ rest) ∧
      ((∀ f, x.frames.find? (fun f => f.id == j.frame) = some f → f.key = none) → ∃ t, exec .ciphertextWritten s = .next t ∧
        t.encQ = rest ∧ t.get F.ING_ENC_BUSY = b2n (decide (rest ≠ [])) ∧ t = { s with regs := t.regs, encQ := rest }))

/-- GNSS_CONFIG, granted and passing its checks: a change of a field that restarts the baseband, and the first record, takes effect
at once: every channel IDLE, acquisition restarted; an order with late fields to change, or behind one that waits, waits in flight
with no tally, any other ends DONE. MEASUREMENT_EPOCH puts the waiting records in force in order and, of one order, ends it DONE; navigating
channels latch. With the baseband on: a good GNSS_CLK_WINDOW shows FRONT_END 1 and the frequency and passes its samples to the search and the
channels in use; the first bad one idles every channel and is counted; after 1,000 good ones the front end is up again. ACQ_CANDIDATE_DONE of a
search that has seen its samples, within the turn (log entry 100), goes on to the next candidate, a detection taking the lowest IDLE channel. BIT_SYNCHRONISATION moves PULL_IN to
TRACK; CHANNEL_LOSS a lost channel to IDLE; NAV_PAGE_DECODE of a good page in its turn holds what it brings, NAVIGATE with ephemeris and offset, any
other page only lets the channel's time go on, a week after the last message of a week. SOLUTION_DELIVERY and SOLUTION_TIMEOUT of an open second count it valid, with offset and event, or invalid.
FRONT_END at the first good window and what a discarded page leaves are log entry 76; the signal path and the solution follow log entries 95 and 96.
The periods of the navigation messages are log entry 24. -/
def Obligations.GnssBaseband : Prop :=
  ∀ (s : State), s.stores = [] → let g := s.gnss; let rec_ := g.record
    (∀ q b, let o := s.mkOrd q b []; Taken specGnssConfig q [] b s → let new := o.data 32 64
      let changed (p : Nat → Bool) : Bool := (List.range 64).any fun i => p i && new.getD i 0 != rec_.getD i 0
      ((g.cfg = none ∨ changed gcLate = true ∨ g.wait ≠ []) → ∃ t, exec (.gnssConfig q) s = .next t ∧ t.gnss.wait = g.wait ++ [(o, new)] ∧
        (∃ x ∈ t.inflight, x.id = o.id) ∧ Quiet s t) ∧
      (g.cfg ≠ none → changed gcLate = false → g.wait = [] → ∃ t, exec (.gnssConfig q) s = .next t ∧ Ends s t o stDone 0 0 ∧ t.gnss.wait = []) ∧
      ((g.cfg = none ∨ changed (fun i => !gcLate i) = true) → ∃ t, exec (.gnssConfig q) s = .next t ∧ t.get F.GNS_STATE_CONFIGURED = 1 ∧
        t.gnss.cfg = some (gcTake (fun i => !gcLate i) rec_ new) ∧ t.gnss.chans = [] ∧ t.gnss.acq = GnssAcq.reset ∧ t.gnss.cand = (0, 1) ∧
        ∀ n < 64, t.chanState n = 0) ∧
      (g.cfg ≠ none → changed (fun i => !gcLate i) = false → ∃ t, exec (.gnssConfig q) s = .next t ∧ t.gnss = { g with wait := t.gnss.wait } ∧
        ∀ n < 64, t.chanState n = s.chanState n)) ∧
    (∃ t, exec .measurementEpoch s = .next t ∧ t.gnss.wait = [] ∧ t.gnss.epochOpen = true ∧ t.gnss.epochAt = s.wck.sec ∧
      t.gnss.cfg = g.wait.foldl (fun c w => some (gcTake gcLate (c.getD []) w.2)) g.cfg ∧
      (∀ o r, g.wait = [(o, r)] → o ∈ s.inflight → Ends s t o stDone 0 0) ∧
      (s.gnssOn = true → ∀ n < 64, t.chanState n = s.chanState n ∧
        (s.chanState n = 3 → (t.chan n).latched = (s.chan n).tow.map fun w => ⟨(s.chan n).code, (s.chan n).carrier.1, w, (s.chan n).since, (s.chan n).week⟩))) ∧
    (s.gnssOn = true → let fs := gcFs rec_
      let bad (f : Nat) (gap : Bool) : Prop := gap = true ∨ 500 * fs < 1000000 * ((f : Int) - fs).natAbs
      (∀ f gap pins, ¬ bad f gap → g.fault = false → let xs := pins.map (gnssSample rec_)
        ∃ t, exec (.gnssClkWindow f gap pins) s = .next t ∧ t.get F.GNS_STATE_FRONT_END = 1 ∧ t.get F.GNS_CLK_FREQ = min f (2 ^ 27 - 1) ∧
          t.gnss.acq = g.search xs s.wck.lagoon ∧ t.gnss.cand = g.cand ∧ (∀ n < 64, t.chanState n = s.chanState n ∧
            (s.chanState n = 0 → t.chan n = s.chan n) ∧ (s.chanState n ≠ 0 →
              let y := (s.chan n).window rec_ (s.get (F.GNS_CHAN_SIGNAL n)) (s.get (F.GNS_CHAN_PRN n)) (s.chanState n == 1) xs
              (t.chan n).weak = (if t.get (F.GNS_CHAN_CN0 n) < 88 then y.weak + 1 else 0) ∧
              ((t.chan n).unlocked = 0 ∨ (t.chan n).unlocked = y.unlocked + 1) ∧
              t.chan n = { y with weak := (t.chan n).weak, unlocked := (t.chan n).unlocked })) ∧ Quiet s t) ∧
      (∀ f gap pins, bad f gap → g.fault = false → ∃ t, exec (.gnssClkWindow f gap pins) s = .next t ∧ t.get F.GNS_STATE_FRONT_END = 0 ∧
        t.get F.GNS_COUNTS_FRONT = min (2 ^ 16 - 1) (s.get F.GNS_COUNTS_FRONT + 1) ∧ t.gnss.fault = true ∧ t.gnss.goodWindows = 0 ∧
        (∀ n < 64, t.chanState n = 0) ∧ Quiet s t) ∧
      (∀ f gap pins, ¬ bad f gap → g.fault = true → ∃ t, exec (.gnssClkWindow f gap pins) s = .next t ∧ Quiet s t ∧
        (g.goodWindows + 1 < 1000 → t.gnss = { g with goodWindows := g.goodWindows + 1 } ∧ t.get F.GNS_STATE_FRONT_END = s.get F.GNS_STATE_FRONT_END) ∧
        (1000 ≤ g.goodWindows + 1 → t.gnss.fault = false ∧ t.get F.GNS_STATE_FRONT_END = 1)) ∧
      (g.fault = false → g.searched = true → s.reaches (if gcFft rec_ then g.acq.until_ else s.wck.lagoon) = true → ∃ t, exec .acqCandidateDone s = .next t ∧ t.gnss.cand = g.advance ∧
        t.gnss.acq = g.nextAcq t.wck.lagoon ∧ Quiet s t ∧
        (g.detection = none → t.gnss.chans = g.chans ∧ ∀ n < 64, t.chanState n = s.chanState n) ∧
        ∀ cell, g.detection = some cell → ∀ n < 64, s.chanState n = 0 → (∀ k < n, s.chanState k ≠ 0) → t.chanState n = 1 ∧
          t.get (F.GNS_CHAN_SIGNAL n) = g.candidate.1 % 2 ^ 3 ∧ t.get (F.GNS_CHAN_PRN n) = g.candidate.2 % 2 ^ 8 ∧
          t.chan n = acquired g.candidate.1 g.acq.age cell ∧ ∀ k < 64, k ≠ n → t.chanState k = s.chanState k ∧ t.chan k = s.chan k) ∧
      (g.searched = false ∨ s.reaches (if gcFft rec_ then g.acq.until_ else s.wck.lagoon) = false → exec .acqCandidateDone s = .next s) ∧
      (∀ n < 64, 2 ≤ s.chanState n → ∀ tow ok week eph clk offset iono utc, let c := s.get (F.GNS_CHAN_SIGNAL n); let x := s.chan n
        let m := towPeriods c (s.get (F.GNS_CHAN_PRN n))
        let page : Instr := .navPageDecode n tow ok week eph clk offset iono utc
        (ok = true → (x.tow = none ∨ x.tow = some (tow % m)) → let wk := week.map (fullWeek (gcWeekBase rec_)) <|> x.week; ∃ t, exec page s = .next t ∧ Quiet s t ∧
          t.chan n = { x with
            tow := some ((tow + 1) % m), since := 0, week := if tow % m + 1 < m then wk else wk.map (· + 1), eph := eph <|> x.eph, clk := clk <|> x.clk
            offset := if c = 0 ∨ c = 4 then some 0 else offset <|> x.offset } ∧ t.gnss.iono = iono.getD g.iono ∧
          t.chanState n = (if (t.chan n).eph.isSome && (t.chan n).offset.isSome then 3 else s.chanState n) ∧
          (∀ k < 64, k ≠ n → t.chanState k = s.chanState k ∧ t.chan k = s.chan k) ∧
          (bit utc 63 = true → (c = 0 ∨ c = 4) → t.get F.GNS_UTC_VALID = 1 ∧ t.get F.GNS_UTC_LS = bits utc 0 8)) ∧
        (∀ w, x.tow = some w → (ok = false ∨ tow % m ≠ w) → ∃ t, exec page s = .next t ∧ Quiet s t ∧ t.regs = s.regs ∧
          t.chan n = { x with tow := some ((w + 1) % m), since := 0, week := if w + 1 < m then x.week else x.week.map (· + 1) } ∧ ∀ k, k ≠ n → t.chan k = s.chan k) ∧
        (x.tow = none → ok = false → exec page s = .next s)) ∧
      (g.epochOpen = true → ∀ tie edge, ∃ t, exec (.solutionDelivery tie edge) s = .next t ∧ t.gnss.epochOpen = false ∧
        (tie = true → t.get F.GNS_STATE_MARGIN0 = 1) ∧
        (s.solutionOk = true → t.get F.GNS_STATE_VALID = 1 ∧ t.get F.GNS_COUNTS_VALID = min (2 ^ 16 - 1) (s.get F.GNS_COUNTS_VALID + 1) ∧
          t.get F.GNS_SOLUTION_OFFSET = unsigned 32 s.solution.2.2.2.1 ∧ t.get F.GNS_STATE_USED = min 63 s.solution.2.1.length ∧
          ∃ u : State, u.wck = s.wck ∧ settle s (u.srcEvent 1 s.solution.2.2.2.1 edge) = .next t) ∧
        (s.solutionOk = false → t.get F.GNS_STATE_VALID = 0 ∧ t.get F.GNS_COUNTS_INVALID = min (2 ^ 16 - 1) (s.get F.GNS_COUNTS_INVALID + 1) ∧
          t.gnss.survey = 0 ∧ (s.wck.gnss.rejects < 2 → t.wck.gnss.rejects = s.wck.gnss.rejects + 1 ∧ Quiet s t)))) ∧
    (∀ n < 64, (s.chanState n = 1 → ∃ t, exec (.bitSynchronisation n) s = .next t ∧ t.chanState n = 2 ∧
        (t.chan n).integ = integMs (s.get (F.GNS_CHAN_SIGNAL n)) (s.get (F.GNS_CHAN_PRN n)) ∧
        (∀ r, r ≠ 0xE0100 + 8 * n → t.reg r = s.reg r) ∧ (∀ k, k ≠ n → t.chan k = s.chan k) ∧ t = { s with regs := t.regs, gnss := t.gnss }) ∧
      (s.chanState n ≠ 1 → exec (.bitSynchronisation n) s = .next s) ∧
      (s.chanState n ≠ 0 → (s.chan n).lost = true → ∃ t, exec (.channelLoss n) s = .next t ∧ t.chanState n = 0 ∧
        t.chan n = GnssChan.reset ∧ (∀ k < 64, k ≠ n → t.chanState k = s.chanState k ∧ t.chan k = s.chan k) ∧ Quiet s t) ∧
      ((s.chanState n = 0 ∨ (s.chan n).lost = false) → exec (.channelLoss n) s = .next s)) ∧
    (g.epochOpen = true → ∃ t, exec .solutionTimeout s = .next t ∧ t.get F.GNS_STATE_VALID = 0 ∧
      t.get F.GNS_COUNTS_INVALID = min (2 ^ 16 - 1) (s.get F.GNS_COUNTS_INVALID + 1) ∧ t.gnss.epochOpen = false ∧ t.gnss.survey = 0 ∧
      (s.wck.gnss.rejects < 2 → t.wck.gnss.rejects = s.wck.gnss.rejects + 1 ∧ Quiet s t)) ∧
    (g.epochOpen = false → exec .solutionTimeout s = .next s)

/-- BSN_LOAD on an idle basin that no order waits for, whose walks of the header and of the problem (the header alone where it gives no
extent, log entry 105) succeed: the basin checks the problem for the order and is
held by its allotment. BSN_LOAD_CHECK_END of a readable problem: with no fault it is bound and the order ends DONE; with one it ends BAD_FIELD
with cause 0xD9 and the fault's offset. BSN_RUN likewise, with a problem, whose walk succeeds: a run not yet going. BSN_RUN_START in its turn or
later: without a well for its seed refused with 0xEE; else, with sweeps to make, going, its best energy that of its first state, the result
area not valid; before its turn nothing. BSN_SWEEP_END: one sweep more, each spin visited once in order, the best energy never higher; of a run
that goes on no more; the last sweep, its result area usable, ends it DONE with the sweeps and the best energy, the result kept and valid.
BSN_READ on an idle basin with a result: it leaves to the reply address, DONE.
The offset that a fault of an adjacency list names is log entry 94, when a result exists log entry 81. -/
def Obligations.SettlingBasins : Prop :=
  ∀ (s : State), s.stores = [] →
    (∀ q b, let o := s.mkOrd q b []; let u := s.flown q b []; let k := bsBasin o
      (Taken specBsnLoad q [] b s → s.bsnBusy k = false → s.queued o = false → let v := u.bsnHold o
        ∀ m m2, v.bsnWalk o.allot (o.field 20 8) 64 permHostRead = .ok m → let h := (v.readVia m (o.field 20 8) 64 1 o.allot).1
        v.bsnWalk o.allot (o.field 20 8) (loadExtent h) permHostRead = .ok m2 →
        ∃ t, exec (.bsnLoad q) s = .next t ∧ (t.basin k).loading = some (o, ⟨o.field 20 8, pbN h, pbEntries h, pbAdj h, m2⟩) ∧
          bsState t k = 2 ∧ t.get (F.BSN_STATE_ALLOT k) = o.allot ∧ o ∈ t.inflight ∧ Quiet s t) ∧
      (Taken specBsnRun q [] b s → s.bsnBusy k = false → s.queued o = false → ∀ p m, (s.basin k).problem = some p →
        u.bsnWalk o.allot (rsResult (rsSched o)) (resultSize p.n) permHostWrite = .ok m → ∃ t r, exec (.bsnRun q) s = .next t ∧
          (t.basin k).run = some r ∧ r.ord = o ∧ r.going = false ∧ r.sweeps = o.field 20 4 ∧ bsState t k = 3 ∧ o ∈ t.inflight ∧ Quiet s t) ∧
      (Taken specBsnRead q [] b s → s.bsnBusy k = false → s.queued o = false → ∀ r, (s.basin k).result = some r → r.length ≤ o.field 17 3 →
        ∃ t, exec (.bsnRead q) s = .next t ∧ Ends s t o stDone 0 0 ∧ t.sent = s.sent ++ [.hostWrite (u.fnOf q) (o.field 20 8) r false] ∧
          t.basins = s.basins)) ∧
    (∀ k < 2, ∀ o p, (s.basin k).loading = some (o, p) → o ∈ s.inflight → let h := s.readVia p.pages p.addr 64 1 o.allot
      let r := s.readVia p.pages p.addr (loadExtent h.1) 1 o.allot
      (r.2.1 = true → problemFault r.1 = none → ∃ t, exec (.bsnLoadCheckEnd k) s = .next t ∧ Ends s t o stDone 0 0 ∧
        (t.basin k).problem = some p ∧ (t.basin k).loading = none ∧ t.get (F.BSN_STATE_BOUND k) = 1 ∧ bsState t k = 1) ∧
      (r.2.1 = true → ∀ at_, problemFault r.1 = some at_ → ∃ t, exec (.bsnLoadCheckEnd k) s = .next t ∧ Ends s t o stBadField 0 (detailOf 0xD9 at_) ∧
        (t.basin k).problem = (s.basin k).problem ∧ (t.basin k).loading = none) ∧
      (r.2.1 = false → ∃ t, exec (.bsnLoadCheckEnd k) s = .next t ∧ Ends s t o stEcc 0 (detailOf whyEcc.cause whyEcc.value) ∧
        (t.basin k).problem = (s.basin k).problem ∧ (t.basin k).loading = none)) ∧
    (∀ k < 2, ∀ r p, (s.basin k).run = some r → (s.basin k).problem = some p →
      let ahead := turnsAhead s.wck.turn (r.ord.turnNow (rsTurn r.sched))
      (r.going = false → (∃ d, ahead = some (d + 1)) → exec (.bsnRunStart k) s = .next s) ∧ (r.going = true → exec (.bsnRunStart k) s = .next s) ∧
      (r.going = false → (ahead = none ∨ ahead = some 0) →
        ((rsWell r.sched && s.wellFailed) = true → r.ord ∈ s.inflight → ∃ t, exec (.bsnRunStart k) s = .next t ∧
          Ends s t r.ord stState 0 (openCause 0xEE) ∧ (t.basin k).run = none ∧ bsState t k = 1) ∧
        ((rsWell r.sched && s.wellFailed) = false → r.sweeps ≠ 0 → ∃ t g, exec (.bsnRunStart k) s = .next t ∧ (t.basin k).run = some g ∧
          g.going = true ∧ g.bestE = g.e ∧ g.best = g.spins ∧ g.spins.length = p.n ∧ (rsWell r.sched = false → g.seed = slice r.sched 32 32) ∧
          (t.basin k).area = some (r.result, resultSize p.n) ∧ t.get (F.BSN_STATE_VALID k) = 0 ∧ Quiet s t)) ∧
      (r.going = false → exec (.bsnSweepEnd k) s = .next s) ∧
      (r.going = true → r.poison = false → (s.readProblem p r.ord.allot).2.1 = true →
        let v := (List.range p.n).foldl (visitSpin (s.readProblem p r.ord.allot).1 (tempOf r r.sweep)
          ((shake128x (2 * (r.draws + p.n)) r.seed).drop (2 * r.draws))) (r.spins, r.e)
        let bestE := if v.2 < r.bestE then v.2 else r.bestE
        let met := rsTarget r.sched && decide (bestE ≤ signed 64 (fieldAt r.sched 24 8))
        (met = false → r.sweep + 1 ≠ r.sweeps →
          ∃ t g, exec (.bsnSweepEnd k) s = .next t ∧ (t.basin k).run = some g ∧ g.spins = v.1 ∧ g.e = v.2 ∧ g.sweep = r.sweep + 1 ∧
            g.draws = r.draws + p.n ∧ g.bestE = bestE ∧ t.get (F.BSN_SWEEP_SWEEP k) = (r.sweep + 1) % 2 ^ 32 ∧ Quiet s t) ∧
        ((met = true ∨ r.sweep + 1 = r.sweeps) → rsRelease r.sched = false → (∀ x, (s.blockEcc x).usable = true) → ∃ t g,
          exec (.bsnSweepEnd k) s = .next t ∧ Reports s t r.ord stDone (r.sweep + 1) (unsigned 64 bestE) ∧ Ended t r.ord ∧ (t.basin k).run = none ∧
            (t.basin k).result = some (resultBytes g p.n met) ∧ g.e = v.2 ∧ g.bestE = bestE ∧ g.sweep = r.sweep + 1 ∧
            t.get (F.BSN_STATE_VALID k) = 1 ∧ bsState t k = 1))) ∧
    (∀ k < 2, (s.basin k).run = none → exec (.bsnRunStart k) s = .next s ∧ exec (.bsnSweepEnd k) s = .next s) ∧
    (∀ k < 2, (s.basin k).loading = none → exec (.bsnLoadCheckEnd k) s = .next s)

/-- For every problem that passes the problem check, every state of its spins and every draw: visiting a spin at any
temperature leaves the energy that goes with the spins equal to their energy by definition, minus the couplings of each
pair once and the fields, and changes no spin but the visited one. -/
def Obligations.VisitKeepsEnergy : Prop :=
  ∀ (b us : Bytes) (t i : Nat) (sp : List Bool), problemFault b = none → sp.length = pbN b → i < pbN b →
    let v := visitSpin b t us (sp, energyOf b (pbN b) sp) i
    v.2 = energyOf b (pbN b) v.1 ∧ v.1.length = sp.length ∧ ∀ j, j ≠ i → v.1.getD j false = sp.getD j false

/-- VIS_GRAPH_LOAD on a pipeline with no run that no order waits for: the graph's nodes are those of the payload, the order ends
DONE with their number. VIS_RUN so, whose walks succeed: a run of the order, not going, at frame 0, with its regions. VIS_FRAME_START in the frame's turn or
later: the run goes, its threshold the one in force for the frame, the regions its nodes write not valid; before its turn, while it goes, or
with no run, nothing changes. VIS_STAGE_END of the only node of the last frame: at the node's time (Table 15-5; log entry 22), where every block is usable and no write refused, the frame is counted, the order ends
DONE with the number of frames, the pipeline is idle; where one is not, it ends FAILED_ECC with the frame's number in ITEM. With nothing running, or before a time
that lies beyond the turn (log entry 100), it changes nothing.
Which regions a run holds is log entry 80. -/
def Obligations.VisionPipelines : Prop :=
  ∀ (s : State), s.stores = [] →
    (∀ q b, let o := s.mkOrd q b []; let u := s.flown q b []; let p := vpPipe o
      (Taken specVisGraphLoad q [] b s → (s.vis p).run = none → s.queued o = false → ∃ t, exec (.visGraphLoad q) s = .next t ∧ Ends s t o stDone (o.field 17 1) 0 ∧
        (t.vis p).graph = recs 32 (o.data 32 (32 * o.field 17 1)) ∧ (t.vis p).run = none ∧ t.get (F.VIS_STATE_GRAPH p) = 1 ∧
        ∀ k, k ≠ p → t.vis k = s.vis k) ∧
      (Taken specVisRun q [] b s → (s.vis p).run = none → s.queued o = false →
        ∀ m, u.visWalks o.allot 0 (visAreas (o.field 17 1) (s.vis p).graph (vrHeader o) (vrDescs o)) [] = .ok m → ∃ t r, exec (.visRun q) s = .next t ∧
        (t.vis p).run = some r ∧ r.ord = o ∧ r.going = false ∧ r.frame = 0 ∧ r.descs = vrDescs o ∧ vpState t p = 2 ∧
        t.get (F.VIS_STATE_ALLOT p) = o.allot ∧ (t.vis p).regions = vrRegions (vrHeader o) ∧ (∀ k, k ≠ p → t.vis k = s.vis k) ∧ o ∈ t.inflight ∧
        Quiet s t)) ∧
    (∀ p < 4, (s.vis p).run = none → exec (.visFrameStart p) s = .next s ∧ exec (.visStageEnd p) s = .next s) ∧
    (∀ p < 4, ∀ r, (s.vis p).run = some r → let d := r.descs.getD r.frame []
      let ahead := turnsAhead s.wck.turn ((r.t0 + fdDelta d) % 2 ^ 48)
      (r.running = [] → exec (.visStageEnd p) s = .next s) ∧
      (r.going = true ∨ (∃ k, ahead = some (k + 1)) → exec (.visFrameStart p) s = .next s) ∧
      (r.going = false → (ahead = none ∨ ahead = some 0) → ∃ t g, exec (.visFrameStart p) s = .next t ∧
        (t.vis p).run = some g ∧ g.going = true ∧ g.frame = r.frame ∧ g.thresh = { s with wck := t.wck }.threshNow p ∧ g.poison = false ∧
        g.ended = [] ∧ (∀ k ∈ regionBits (s.vis p).regions d (frameNodes r.mode (s.vis p).graph d), bit (t.get (F.VIS_STATE_REGIONS p)) k = false) ∧
        (∀ k, k ≠ p → t.vis k = s.vis k) ∧ Quiet s t) ∧
      (∀ n tm, frameNodes r.mode (s.vis p).graph d = [n] → r.running = [(0, tm)] → r.ended = [] → r.poison = false → r.refused = false → r.release = false →
        r.frame + 1 = r.descs.length → r.ord ∈ s.inflight → let w := ((s.toLagoon tm).took r.ord).runNode r d n
        (s.reaches tm = false → exec (.visStageEnd p) s = .next s) ∧
        (s.reaches tm = true → w.1 = false → w.2.1 = false → ∃ t, exec (.visStageEnd p) s = .next t ∧
          t.wck = (s.toLagoon tm).wck ∧ Reports (s.toLagoon tm) t r.ord stDone r.descs.length 0 ∧ Ended t r.ord ∧ (t.vis p).run = none ∧ vpState t p = 1 ∧
          t.get (F.VIS_COUNTS_FRAMES p) = min (2 ^ (F.VIS_COUNTS_FRAMES p).w - 1) (s.get (F.VIS_COUNTS_FRAMES p) + 1)) ∧
        (s.reaches tm = true → w.1 = true ∨ w.2.1 = true → ∃ t m, exec (.visStageEnd p) s = .next t ∧ Ended t r.ord ∧ (t.vis p).run = none ∧
          m ∈ (t.queue r.ord.q).out ∧ m.seq = r.ord.seq ∧ m.status = stEcc ∧ m.item = r.frame)))

/-- MGT_I2C_XFER on a free bus that no order waits for: the bus holds the order, in flight with no tally. I2C_TRANSFER_START: a START and the address byte
leave. LOST_ARB, after so many items that have left behind the address, with retries left: counted, logged, to be started again; with none left the order ends LINK (0xCC). NACK_ADDR,
NACK_DATA and BUS_STUCK end it LINK (0xCA; 0xCB with the byte's number, the bytes up to it sent; 0xCD), the first two with a STOP, a NACK of the address behind a repeated START after the write bytes, that START and the address; on a tie BUS_STUCK only marks it.
I2C_TRANSFER_END: the write bytes, a repeated START with the read address after them where it also reads, an ACK for each byte read but the
last, a NACK for that, the STOP, then the read bytes for the reply address, DONE with the bytes moved and the retries. GAU_SAMPLE on the idle converter with a mask: it holds the order, its first
sample in the next lagoon cycle, its end 1 µs a pin later; without a mask, DONE at once. GAUGE_SAMPLE_END: the reply with the
(where its end lies in the turn, log entry 100; else nothing changes) code min(4,095, floor(V × 4,096 ÷ 1.25 V)) of each pin, GAU_LAST with the turn in which each sample began, DONE with the count. MGT_CCI by the physical function on an idle bus: in force; out of range: logged REG_RANGE; by another: ignored.
That a mask of 0 ends DONE without a reply is log entry 82, the instants of the recorded bus bytes and of the first sample log entry 99: the model's choices. -/
def Obligations.BusTransfersAndGauges : Prop :=
  ∀ (s : State), s.stores = [] →
    (∀ q b, let o := s.mkOrd q b []; let u := s.flown q b []
      (Taken specMgtI2cXfer q [] b s → (s.i2c (ixBus o)).ord = none → s.queued o = false → ∃ t, exec (.mgtI2cXfer q) s = .next t ∧
        t.i2c (ixBus o) = ⟨some o, false, 0⟩ ∧ (∀ k, k ≠ ixBus o → t.i2c k = s.i2c k) ∧ o ∈ t.inflight ∧ Quiet s t) ∧
      (Taken specGauSample q [] b s → s.gau = none → s.queued o = false → o.field 16 1 ≠ 0 → ∃ t, exec (.gauSample q) s = .next t ∧
        t.gau = some ⟨o, s.nextLagoon.1, s.nextLagoon.2, s.wck.lagoon + 1 + 800 * (maskPins (o.field 16 1)).length⟩ ∧ o ∈ t.inflight ∧ t.sent = u.sent ∧ Quiet s t) ∧
      (Taken specGauSample q [] b s → s.gau = none → s.queued o = false → o.field 16 1 = 0 → ∃ t, exec (.gauSample q) s = .next t ∧
        Ends s t o stDone 0 0 ∧ t.gau = none)) ∧
    (∀ k < 5, ∀ o r, s.i2c k = ⟨some o, false, r⟩ → ∃ t d, exec (.i2cTransferStart k) s = .next t ∧ t.i2c k = ⟨some o, true, r⟩ ∧
      t.sent = s.sent ++ [.i2c k [.start, .byte d]] ∧
      d.toNat = 2 * (o.field 17 1 % 128) + (if ixWrite o = 0 ∧ ixRead o ≠ 0 then 1 else 0) ∧ Quiet s t) ∧
    (∀ k < 5, ∀ o r, s.i2c k = ⟨some o, true, r⟩ → o ∈ s.inflight →
      (∀ n ≤ ixWrite o, let sent : List Sent := if n = 0 then [] else [.i2c k ((o.data 64 n).map .byte)]
        (r < s.get F.MGT_RETRY_COUNT → ∃ t e, exec (.lostArb k n) s = .next t ∧ t.i2c k = ⟨some o, false, r + 1⟩ ∧
          t.log.getLast? = some e ∧ e.cause = 0x110 ∧ t.sent = s.sent ++ sent ∧ Quiet s t) ∧
        (s.get F.MGT_RETRY_COUNT ≤ r → ∃ t, exec (.lostArb k n) s = .next t ∧ Ends s t o stLink 0 (openCause 0xCC) ∧ t.i2c k = I2cBus.reset ∧
          t.sent = s.sent ++ sent)) ∧
      (∀ again, ∃ t, exec (.nackAddr k again) s = .next t ∧ Ends s t o stLink 0 (openCause 0xCA) ∧ t.i2c k = I2cBus.reset ∧
        t.sent = s.sent ++ [.i2c k ((if again = true ∧ ixWrite o ≠ 0 ∧ ixRead o ≠ 0 then
          (o.data 64 (ixWrite o)).map .byte ++ [.again, .byte (BitVec.ofNat 8 (2 * (o.field 17 1 % 128) + 1))] else []) ++ [.stop])]) ∧
      (∀ n < ixWrite o, ∃ t, exec (.nackData k n) s = .next t ∧ Ends s t o stLink n (openCause 0xCB) ∧ t.i2c k = I2cBus.reset ∧
        t.sent = s.sent ++ [.i2c k ((o.data 64 (n + 1)).map .byte ++ [.stop])]) ∧
      (∃ t, exec (.busStuck k false) s = .next t ∧ Ends s t o stLink 0 (openCause 0xCD) ∧ t.i2c k = I2cBus.reset) ∧
      (∃ t, exec (.busStuck k true) s = .next t ∧ (∀ x ∈ t.inflight, x.id = o.id → x.margin = true) ∧ t = { s with inflight := t.inflight }) ∧
      (∀ data, ∃ t, exec (.i2cTransferEnd k data) s = .next t ∧ Ends s t o stDone (ixWrite o + ixRead o) r ∧ t.i2c k = I2cBus.reset ∧
        t.sent = s.sent ++ [.i2c k ((o.data 64 (ixWrite o)).map .byte ++
            (if ixWrite o ≠ 0 ∧ ixRead o ≠ 0 then [.again, .byte (BitVec.ofNat 8 (2 * (o.field 17 1 % 128) + 1))] else []) ++
            (if ixRead o = 0 then [] else List.replicate (ixRead o - 1) .ack ++ [.nack]) ++ [.stop])] ++
          (if ixRead o = 0 then [] else [.hostWrite (s.fnOf o.q) (o.field 32 8) (slice data 0 (ixRead o)) false]))) ∧
    (∀ volts o turn cycle due, s.gau = some ⟨o, turn, cycle, due⟩ → s.reaches due = false → exec (.gaugeSampleEnd volts) s = .next s) ∧
    (∀ volts o turn cycle due, s.gau = some ⟨o, turn, cycle, due⟩ → o ∈ s.inflight → s.reaches due = true → ∃ t r, exec (.gaugeSampleEnd volts) s = .next t ∧
      Ends (s.toLagoon due) t o stDone (maskPins (o.field 16 1)).length 0 ∧ t.gau = none ∧ r.length = 64 ∧
      t.sent = s.sent ++ [.hostWrite (s.fnOf o.q) (o.field 20 8) r false] ∧
      ∀ i < 8, bit (o.field 16 1) i = true → ∃ j, (maskPins (o.field 16 1))[j]? = some (40 + i) ∧
        t.get (F.GAU_LAST_CODE i) = min 4095 (volts.getD j 0 * 4096 / 1250000) ∧ t.get (F.GAU_LAST_TURN i) = (if j = 0 then turn else let u := s.toLagoon due
          (u.before (u.wck.lagoon - due + 800 * ((maskPins (o.field 16 1)).length - j))).1) % 2 ^ (F.GAU_LAST_TURN i).w) ∧
    (∀ k < 4, ∀ v, s.isReady = true → (s.i2c (k + 1)).ord = none → s.waiting = [] →
      (bits v 1 2 ≠ 3 → (bits v 3 5 ≤ 15 ∨ bits v 3 5 = 31) → ∃ t, exec (.mgtCci 0 k v) s = .next t ∧
        t.get (F.MGT_CCI_ENABLE k) = bits v 0 1 ∧ t.get (F.MGT_CCI_SPEED k) = bits v 1 2 ∧ t.get (F.MGT_CCI_OWNER k) = bits v 3 5 ∧
        (∀ r, r ≠ 0x128010 + 4 * k → t.reg r = s.reg r) ∧ t = { s with regs := t.regs }) ∧
      ((bits v 1 2 = 3 ∨ (15 < bits v 3 5 ∧ bits v 3 5 ≠ 31)) → ∃ t e, exec (.mgtCci 0 k v) s = .next t ∧
        t.log.getLast? = some e ∧ e.cause = 0x102 ∧ ∀ r, r ≠ 0x100010 → t.reg r = s.reg r) ∧
      ∀ fn, 0 < fn → fn < 32 → exec (.mgtCci fn k v) s = .next s)

/-- GPIO_OUT of the physical function sets all 48 bits. TURN_STROBE_RISE of an enabled strobe whose offset the turn reaches, on an open
chip: high, for WIDTH lagoon cycles; TURN_STROBE_FALL: low. STAMP_EDGE with the voltage at which each pin has stood for so many lagoon
cycles: the sample is 0 at VIL or below and of an analog pin, 1 at VIH or above, between them with hysteresis what it was; GPIO_IN shows 0 for an analog pin,
the sample once it has stood for FILTER cycles, else what it showed; a stamp whose one
feeder rises is valid, OVERRUN shows that it was; fed by none or several, or without a rise, it stays. PPS_OUT_RISE drives the pin, where it may be driven, at the
next second plus PPS_OFFSET, within its eighth of a lagoon cycle, PPS_OUT_FALL drives it low PPS_WIDTH later; none of these nor TURN_STROBE_FALL
reaches an instant beyond the turn (log entry 100). After fuse load each SMBus read answers count, data and PEC; before, nothing. ALERT_CLEAR with a good PEC releases the alert, with a bad
one is counted; an alert raised in that very cycle stands. ALERT_RESPONSE answers while the alert stands. SMB_CLOCK_TIMEOUT changes nothing (commands are whole
transactions). BYPASS, IDCODE and SAMPLE_PRELOAD load their instruction, and SAMPLE_PRELOAD and EXTEST shift out what the 74 boundary cells sample; EXTEST, HIGHZ and the debug port's CLAMP do under PERST_N, else act as BYPASS and
are reported refused. No tally, no byte of memory. SLUICE_N is driven low while the chip is closed or tripped, ALERT_N while
the alert stands; both are else released.
The boundary register's cells are log entry 23, SMB_CLOCK_TIMEOUT log entry 29, CLAMP's two meanings log entry 83, the voltages of STAMP_EDGE, what a pin
without hysteresis samples between VIL and VIH, and FILTER 0 as 1 log entry 99: the model's choices. -/
def Obligations.PinsAndSidebands : Prop :=
  ∀ (s : State), s.stores = [] →
    (∀ v, s.isReady = true → ∃ t, exec (.gpioOut 0 v) s = .next t ∧ t.get F.GPIO_OUT_OUT = v % 2 ^ 48 ∧
      (∀ r, r ≠ F.GPIO_OUT_OUT.reg → t.reg r = s.reg r) ∧ t = { s with regs := t.regs }) ∧
    (∀ k < 2, (bit (s.strobe k) 48 = true → bits (s.strobe k) 0 32 < s.turnLength → s.chipClosed = false → (∀ x ∈ s.strobeHigh, x.1 ≠ k) →
        ∃ t, exec (.turnStrobeRise k) s = .next t ∧ t.strobeHigh = s.strobeHigh ++ [(k, t.wck.lagoon + bits (s.strobe k) 32 16)] ∧
          t.wck = (s.advanceTo (bits (s.strobe k) 0 32)).wck ∧ t.regs = s.regs ∧ Quiet s t) ∧
      (bit (s.strobe k) 48 = false → exec (.turnStrobeRise k) s = .next s) ∧
      (∀ l, s.strobeHigh = [(k, l)] → (s.reaches l = true → exec (.turnStrobeFall k) s = .next { s.toLagoon l with strobeHigh := [] }) ∧
        (s.reaches l = false → exec (.turnStrobeFall k) s = .next s)) ∧
      ((∀ x ∈ s.strobeHigh, x.1 ≠ k) → exec (.turnStrobeFall k) s = .next s)) ∧
    (∀ mv held, ∃ t, exec (.stampEdge mv held) s = .next t ∧
      t = { s with regs := t.regs, free := s.free + 1, pinRaw := t.pinRaw, pinSince := t.pinSince } ∧
      (∀ n < 48, let r := s.pinRec n; let v := pinThresholds (bits r 5 2); let x := mv.getD n 0
        let stood : Int := if bit t.pinRaw n = bit s.pinRaw n then (s.wck.lagoon : Int) - smGet 0 s.pinSince n else held
        ((bit r 2 = true ∨ x ≤ v.1) → bit t.pinRaw n = false) ∧ (bit r 2 = false → v.2 ≤ x → bit t.pinRaw n = true) ∧
        (bit r 2 = false → v.1 < x → x < v.2 → bit r 7 = true → bit t.pinRaw n = bit s.pinRaw n) ∧
        bit (t.get F.GPIO_IN_IN) n = (if bit r 2 then false
          else if ((max 1 (bits r 16 8) : Nat) : Int) ≤ stood then bit t.pinRaw n else bit (s.get F.GPIO_IN_IN) n)) ∧
      ∀ k < 4,
        (∀ n < 48, s.feeders (k + 1) = [n] → bit (s.get F.GPIO_IN_IN) n = false → bit (t.get F.GPIO_IN_IN) n = true →
          t.get (F.GPIO_STAMP_VALID k) = 1 ∧
          t.get (F.GPIO_STAMP_OVERRUN k) = (if s.get (F.GPIO_STAMP_VALID k) = 1 then 1 else s.get (F.GPIO_STAMP_OVERRUN k)) ∧
          t.get (F.GPIO_STAMP_CYCLE k) = (s.before (bits (s.pinRec n) 16 8)).2 % 2 ^ (F.GPIO_STAMP_CYCLE k).w ∧
          t.get (F.GPIO_STAMP_TURN k) = (s.before (bits (s.pinRec n) 16 8)).1 % 2 ^ (F.GPIO_STAMP_TURN k).w) ∧
        ((∀ n, s.feeders (k + 1) = [n] → bit (s.get F.GPIO_IN_IN) n = true ∨ bit (t.get F.GPIO_IN_IN) n = false) →
          t.reg (F.GPIO_STAMP_VALID k).reg = s.reg (F.GPIO_STAMP_VALID k).reg)) ∧
    (let l := s.nextPps; let d := s.ppsDue
      (s.reaches (l / 8) = true → s.ppsDriven = true → s.ppsHigh = false → exec .ppsOutRise s = .next { s.toLagoon (l / 8) with
        ppsHigh := true, ppsDue := l + 6400 * gcPpsWidth s.gnss.record, sent := s.sent ++ [.ppsOut true (l % 8)] }) ∧
      (s.reaches (l / 8) = false ∨ s.ppsDriven = false ∨ s.ppsHigh = true → exec .ppsOutRise s = .next s) ∧
      (s.ppsHigh = true → s.reaches (d / 8) = true → exec .ppsOutFall s = .next { s.toLagoon (d / 8) with
        ppsHigh := false, sent := s.sent ++ [.ppsOut false (d % 8)] }) ∧
      (s.ppsHigh = false ∨ s.reaches (d / 8) = false → exec .ppsOutFall s = .next s)) ∧
    (let addr := s.get F.MGT_SMB_ADDR;
      let Answers (c : Instr) (cmd : Nat) (d : Bytes) : Prop := exec c s = .next { s with sent := s.sent ++ [.smbus (toLe 1 d.length ++ d ++
        toLe 1 (crc8 (toLe 1 (2 * addr) ++ toLe 1 cmd ++ toLe 1 (2 * addr + 1) ++ (toLe 1 d.length ++ d))))] };
      (s.get F.PWR_STATUS_PHASE ≠ 0 →
        Answers .smbDevice 0 ([0x1E, 0x1C, 0x40, 0x96, 0xB0] ++ toLe 8 (s.get F.SEC_SERIAL_SERIAL)) ∧
        Answers .smbStatus 1 (toLe 1 (s.get F.PWR_STATUS_PHASE + 8 * s.get F.PWR_STATUS_MINIMAL + 16 * s.get F.SLU_STATUS_CHIP_CLOSED +
            32 * s.get F.SLU_STATUS_ALERT) ++ toLe 1 (s.get F.WCK_STATE_STATE) ++
          toLe 1 ((List.range 16).filter fun a => !s.isEmpty a).length ++ List.replicate 5 0) ∧
        Answers .smbTemps 2 (toLe 1 (s.get F.PWR_DIE_TEMP_NORTH) ++ toLe 1 (s.get F.PWR_DIE_TEMP_SOUTH) ++
          toLe 1 (s.get F.PWR_DIE_TEMP_GATEHOUSE) ++ (List.range 8).flatMap fun k => toLe 1 (s.get (F.HBM_STACK_TEMP k))) ∧
        Answers .smbAlertCause 3 (toLe 1 (s.get F.SLU_STATUS_CHIP_CAUSE) ++ toLe 1 s.lastSluice ++ toLe 1 (s.lastSluice / 256) ++
          toLe 1 (s.lastSluice / 65536)) ∧
        (∀ tie, ∃ t, exec (.alertClear (crc8 (toLe 1 (2 * addr) ++ [0x10])) tie) s = .next t ∧ t.get F.SLU_STATUS_ALERT = b2n tie ∧
          (∀ r, r ≠ 0x100000 → t.reg r = s.reg r) ∧ t = { s with regs := t.regs }) ∧
        (∀ pec tie, pec % 256 ≠ crc8 (toLe 1 (2 * addr) ++ [0x10]) → ∃ t, exec (.alertClear pec tie) s = .next t ∧
          t.get F.SLU_STATUS_ALERT = s.get F.SLU_STATUS_ALERT ∧ t = { s with regs := t.regs }) ∧
        (s.get F.SLU_STATUS_ALERT = 1 → exec .alertResponse s = .next { s with sent := s.sent ++ [.smbus (toLe 1 (2 * addr))] })) ∧
      (s.get F.PWR_STATUS_PHASE = 0 → ∀ c ∈ [Instr.smbDevice, .smbStatus, .smbTemps, .smbAlertCause, .alertResponse], exec c s = .next s)) ∧
    (s.perst = false → s.outDrive 67 = (if s.tripped ∨ s.chipClosed = true then 0 else 2) ∧
      s.outDrive 68 = (if s.on F.SLU_STATUS_ALERT then 0 else 2)) ∧
    exec .smbClockTimeout s = .next s ∧
    exec .bypass s = .next { s with jtagIr := 1, sent := s.sent ++ [.jtag 1 0] } ∧
    exec .idcode s = .next { s with jtagIr := 0, sent := s.sent ++ [.jtag 32 0xB96409AB] } ∧
    (∀ pins v, exec (.samplePreload pins v) s = .next { s with jtagIr := 2, boundary := v % 2 ^ 74, sent := s.sent ++ [.jtag 74 (pins % 2 ^ 74)] } ∧
      (s.perst = true → exec (.extest pins v) s = .next { s with jtagIr := 3, boundary := v % 2 ^ 74, sent := s.sent ++ [.jtag 74 (pins % 2 ^ 74)] } ∧ exec .highz s = .next { s with jtagIr := 5 } ∧
        exec (.clamp none) s = .next { s with jtagIr := 4 }) ∧
      (s.perst = false → ∃ t, exec (.extest pins v) s = .next t ∧ exec .highz s = .next t ∧ exec (.clamp none) s = .next t ∧ t.jtagIr = 1 ∧ t.get F.MGT_JTAG_REFUSED = 1 ∧
        t.boundary = s.boundary ∧ t.sent = s.sent ++ [.jtag 1 0] ∧ Quiet s t))

/-- DOMAIN_SWITCH in the fallow turn of an accepted switch of a unit that is not in the state wanted and has no switch under way, with no
ramp begun before: its ramp begins, the order has taken effect with no tally. DOMAIN_RAMP_END of a switch on that succeeded: powered, and its follow-up begins; of one that failed, of no port that is UP: the order ends STATE (0xE2), the ramp is gone; of a switch off: the unit
has no power and waits for the guard. A confirmation in the cycle of its timer wins and marks the order.
UNIT_FOLLOWUP_END that succeeded, of a tile, a clock, port or engine unit switched on by an order, of a bridge half with the other half on: working, DONE, no failed unit; a tile's
scratchpads, tags, accumulators, landing slots and registers are zeroed. Unit 200 goes on to its identity check: with the key that the fuses name it works, else it is off and failed with a fuse integrity failure,
from READY on the chip's doubt, before held until READY. STACK_TRAINING_END: the time and
result show; a first failure is retried, a second switches the stack off, failed, its order ends STATE (0xE2). SELFTEST_RUN, granted and passing its checks, with no test under way: the test of its
units, SELFTEST_BUSY 1, no tally. SELFTEST_END of a test of one unit above 200: counted, DONE with 1 in ITEM and 1 in DETAIL for a pass, else 0;
of one switched unit that passes a quick test and may work: it works.
Which units a self-test of all names, and what meets within one unit, are log entries 77 and 104. -/
def Obligations.DomainsAndSelfTests : Prop :=
  ∀ (s : State), s.stores = [] →
    (∀ u < 201, ∀ o on, s.get F.PWR_STATUS_PHASE = 4 → s.wck.isFallow = true → s.fallowDue = [⟨o, s.wck.turn, .power u on⟩] →
      (s.powered u = !on) → (∀ r ∈ s.ramps, r.unit ≠ u) → s.rampStarts = [] → o ∈ s.inflight → ∃ t, exec (.domainSwitch u) s = .next t ∧ t.ramps = s.ramps ++ [⟨u, on, some o, 0⟩] ∧
        t.fallowDue = [] ∧ (∀ x ∈ t.inflight, x.id = o.id → x.took = true) ∧ (on = false → t.working u = false) ∧ Quiet s t) ∧
    (∀ u < 201, ∀ o tie, s.ramps = [⟨u, true, some o, 0⟩] → o ∈ s.inflight →
      (followUp u = true → ∃ t, exec (.domainRampEnd u true tie) s = .next t ∧ t.ramps = [⟨u, true, some o, 1⟩] ∧ t.powered u = true ∧
        (tie = true → ∀ x ∈ t.inflight, x.id = o.id → x.margin = true) ∧ Quiet s t) ∧
      (followUp u = false → s.underTest u = false → ∃ t, exec (.domainRampEnd u true tie) s = .next t ∧ t.ramps = [] ∧ t.powered u = true ∧
        t.working u = true ∧ Ends s t o stDone 0 0) ∧
      ((172 ≤ u → u < 184 → s.apState (u - 172) ≠ apUp) → ∃ t, exec (.domainRampEnd u false tie) s = .next t ∧ t.ramps = [] ∧ t.powered u = false ∧
        Reports s t o stState 0 (detailOf 0xE2 u) ∧ Ended t o)) ∧
    (∀ u < 201, ∀ o ok tie, s.ramps = [⟨u, false, o, 0⟩] → (172 ≤ u → u < 184 → s.apState (u - 172) ≠ apUp) →
      ∃ t, exec (.domainRampEnd u ok tie) s = .next t ∧ t.ramps = [⟨u, false, o, 3⟩] ∧
      t.powered u = false ∧ t.working u = false ∧ ∀ r, (t.queue r).out = (s.queue r).out) ∧
    (∀ u < 200, ¬ (144 ≤ u ∧ u < 152) → (u = 170 ∨ u = 171 → s.powered 170 = true ∧ s.powered 171 = true) →
      ∀ o tie, s.ramps = [⟨u, true, some o, 1⟩] → o ∈ s.inflight → s.underTest u = false → ∃ t, exec (.unitFollowupEnd u true tie) s = .next t ∧
      t.ramps = [] ∧ t.working u = true ∧ u ∉ t.failedUnits ∧ Ends s t o stDone 0 0 ∧
      (u < 144 → ∀ i < 32, let x := s.core (32 * u + i)
        t.core (32 * u + i) = { Core.reset with bank0 := x.bank0, bank1 := x.bank1, cursor := x.cursor, spent := x.spent })) ∧
    (∀ o tie, (s.ramps = [⟨200, true, o, 1⟩] → ∃ t, exec (.unitFollowupEnd 200 true tie) s = .next t ∧ t.ramps = [⟨200, true, o, 2⟩] ∧
        t.working 200 = s.working 200 ∧ 200 ∉ t.failedUnits ∧ Quiet s t) ∧
      (∀ y, o = some y → s.ramps = [⟨200, true, o, 2⟩] → y ∈ s.inflight →
        (s.identityOk = true → s.underTest 200 = false → ∃ t, exec (.unitFollowupEnd 200 true tie) s = .next t ∧ t.ramps = [] ∧ t.working 200 = true ∧
          t.get F.PWR_STATUS_ID_VERIFIED = 1 ∧ Ends s t y stDone 0 0) ∧
        (s.identityOk = false → ∃ t, exec (.unitFollowupEnd 200 true tie) s = .next t ∧ t.ramps = [] ∧ t.powered 200 = false ∧ t.working 200 = false ∧
          200 ∈ t.failedUnits ∧ t.get F.PWR_FUSE_INTEGRITY_FAIL = 1 ∧ Ended t y ∧
          (s.get F.PWR_STATUS_PHASE ≠ 4 → t.fuseFault = true ∧ t.chipClosed = s.chipClosed ∧ Reports s t y stState 0 (detailOf 0xE2 200)) ∧
          (s.get F.PWR_STATUS_PHASE = 4 → s.chipClosed = false → t.chipClosed = true ∧ t.get F.SLU_STATUS_CHIP_CAUSE = 0xFE)))) ∧
    (∀ k < 8, ∀ o tm tie, s.ramps = [⟨144 + k, true, o, 1⟩] →
      (∃ t, exec (.stackTrainingEnd k tm true tie) s = .next t ∧ t.get (F.PWR_TRAIN_PASS k) = 1 ∧ t.get (F.PWR_TRAIN_TIME k) = min 65535 tm ∧
        t.get (F.HBM_STACK_TRAINED k) = 1 ∧ (tie = false → t.inflight = s.inflight) ∧
        (tie = true → ∀ x ∈ t.inflight, ∀ y, o = some y → x.id = y.id → x.margin = true) ∧ t = { s with regs := t.regs, inflight := t.inflight }) ∧
      (s.get (F.PWR_TRAIN_RETRIED k) = 0 → ∃ t, exec (.stackTrainingEnd k tm false tie) s = .next t ∧ t.get (F.PWR_TRAIN_PASS k) = 0 ∧
        t.get (F.PWR_TRAIN_RETRIED k) = 1 ∧ t = { s with regs := t.regs }) ∧
      (∀ y, s.get (F.PWR_TRAIN_RETRIED k) = 1 → o = some y → y ∈ s.inflight → ∃ t, exec (.stackTrainingEnd k tm false tie) s = .next t ∧ t.ramps = [] ∧
        t.get (F.PWR_TRAIN_PASS k) = 0 ∧ t.powered (144 + k) = false ∧ t.working (144 + k) = false ∧ 144 + k ∈ t.failedUnits ∧
        Reports s t y stState 0 (detailOf 0xE2 (144 + k)) ∧ Ended t y)) ∧
    (∀ q b, let o := s.mkOrd q b []; Taken specSelftestRun q [] b s → s.test = none → s.testsWaiting = [] → s.queued o = false → ∃ t x, exec (.selftestRun q) s = .next t ∧
      t.test = some x ∧ x.ord = o ∧ (o.field 16 2 ≠ 0xFFFF → x.units = [o.field 16 2]) ∧ t.get F.PWR_STATUS_SELFTEST_BUSY = 1 ∧
      (o.field 16 2 ≤ 200 → t.working (o.field 16 2) = false) ∧ (∃ y ∈ t.inflight, y.id = o.id) ∧ Quiet s t) ∧
    (∀ x u failed, s.test = some x → x.units = [u] → 200 < u → x.ord ∈ s.inflight → ∃ t, exec (.selftestEnd failed) s = .next t ∧
      t.test = none ∧ t.get F.PWR_STATUS_SELFTEST_BUSY = 0 ∧ t.testRuns = (s.testRuns + 1) % 2 ^ 32 ∧ t.testUnit = u ∧
      (u ∈ t.failedUnits ↔ u ∈ failed) ∧ Ends s t x.ord stDone 1 (if u ∈ failed then 0 else 1)) ∧
    (∀ x u failed, s.test = some x → x.units = [u] → x.full = false → u ≤ 200 → u ∉ failed → (∀ y ∈ s.testsWaiting, u ∉ y.units) → s.mayWork u = true → x.ord ∈ s.inflight →
      ∃ t, exec (.selftestEnd failed) s = .next t ∧ t.test = none ∧ t.working u = true ∧ u ∉ t.failedUnits ∧ Ends s t x.ord stDone 1 1) ∧
    (s.test = none → ∀ failed, exec (.selftestEnd failed) s = .next s)

/-- COLD_RESET: every register but the SMBus address has its reset value, memory reads 0, nothing is in flight, logged or
closed. With the power-good inputs high, PERST_N_ASSERT, HOT_RESET, PF_FLR and PWR_RESET with key 0xA5: the same with causes 1 to 4, but that every register keeps its sticky fields (RS) and the SMBus address stays; the last two
begin bring-up at once, which writes the time base, the well's health and the working units; with one low, or in the lagoon cycle of a reset whose cause comes before, HOT_RESET and PF_FLR change nothing, PERST_N_ASSERT only asserts the pin; PWR_RESET with another key is only logged, by a virtual function ignored. BRINGUP_START: bring-up, on the lagoon
clock, its always-on units working. FUSE_LOAD moves to DOMAINS with its units to switch; CORE_CLOCK_SWITCH with none left but stacks and unit 200's identity check to TRAIN: turn 0, cycle 0,
turns run, those go on; the follow-up of the last stack in training to INIT: the first working stack is the home stack; READY, in either phase: its
device region reads 0, scrubbing begins. THERM_TRIP: tripped, cleared. CONFIGURATION_REQUEST is answered, with Vendor, Device
and Revision ID of every function, and sets the virtual functions; before READY it asks for a retry, with the link down nothing answers. VF_FLR halts the queues of its function with no tally, VF_ENABLE_CLEAR those of every virtual function.
That memory reads 0 after each reset is log entries 7 and 77, fuse fields that read 0 log entry 9, the configuration space beyond its identifiers log entry 97,
that BRINGUP_START brings the power-good inputs and COLD_RESET takes them log entry 104: the model's choices.
That a reset function's queues halt without a tally is log entry 64. -/
def Obligations.ResetsAndBringup : Prop :=
  ∀ (s : State), s.stores = [] →
    (let Bare (t : State) : Prop := t.inflight = [] ∧ t.log = [] ∧ t.closed = [] ∧ t.queues = [] ∧ t.allots = [] ∧ t.cores = [] ∧
        t.wck.running = false ∧ t.sent = s.sent ∧ (∀ x, x < 2 ^ 48 → t.rd x = 0)
      let Warm (l : List Nat) (t : State) : Prop := t.get F.MGT_SMB_ADDR = s.get F.MGT_SMB_ADDR ∧ t.get F.PWR_STATUS_PHASE = 0 ∧
        t.get F.PWR_STATUS_HOME_STACK = 15 ∧ t.get F.PWR_STATUS_MINIMAL = 0 ∧ t.get F.PWR_STATUS_SELFTEST_BUSY = 0 ∧ t.get F.PWR_STATUS_ID_VERIFIED = 0 ∧
        ∀ r, r ∉ l → t.reg r = match regRowAt r with
          | some w => (regReset r &&& ~~~rsMask w) ||| (s.reg r &&& rsMask w)
          | none => regReset r
      let kept := [F.PWR_STATUS_PHASE.reg, F.MGT_SMB_ADDR.reg]
      let begun := kept ++ [F.WCK_STATE_ON_LAGOON.reg, F.SEC_WELL_HEALTHY.reg, (F.PWR_WORKING_MAP 4).reg];
      (∀ v m io, ∃ t, exec (.coldReset v m io) s = .next t ∧ Bare t ∧ (∀ r, r ≠ F.MGT_SMB_ADDR.reg → t.reg r = regReset r) ∧
        t.get F.MGT_SMB_ADDR = 0x4C + m % 4 ∧ t.vsel = v % 2 ∧ t.tripped = (s.tripped && !io) ∧ t.powerGood = false) ∧
      (s.tripped = false → s.powerGood = true → (∃ t, exec (.perstNAssert false) s = .next t ∧ Bare t ∧ Warm kept t ∧ t.get F.PWR_STATUS_RESET_CAUSE = 1 ∧ t.perst = true ∧
          t.bringingUp = false ∧ t.get F.PWR_STATUS_PHASE = 0) ∧
        (∃ t, exec (.hotReset false) s = .next t ∧ Bare t ∧ Warm kept t ∧ t.get F.PWR_STATUS_RESET_CAUSE = 2 ∧ t.perst = s.perst ∧ t.get F.PWR_STATUS_PHASE = 0) ∧
        (s.perst = false → ∃ t, exec (.pfFlr false) s = .next t ∧ Bare t ∧ Warm begun t ∧ t.get F.PWR_STATUS_RESET_CAUSE = 3 ∧ t.bringingUp = true) ∧
        (s.isReady = true → ∃ t, exec (.pwrReset 0 0xA5) s = .next t ∧ Bare t ∧ Warm begun t ∧ t.get F.PWR_STATUS_RESET_CAUSE = 4 ∧ t.bringingUp = true)) ∧
      (s.powerGood = false → ∀ tie, exec (.perstNAssert tie) s = .next { s with perst := true } ∧ exec (.hotReset tie) s = .next s ∧
        exec (.pfFlr tie) s = .next s) ∧
      (s.get F.PWR_STATUS_RESET_CAUSE ≤ 1 → exec (.perstNAssert true) s = .next { s with perst := true }) ∧
      (s.get F.PWR_STATUS_RESET_CAUSE ≤ 2 → exec (.hotReset true) s = .next s) ∧
      (s.get F.PWR_STATUS_RESET_CAUSE ≤ 3 → exec (.pfFlr true) s = .next s) ∧
      ∃ t, exec .thermTrip s = .next t ∧ Bare t ∧ t.tripped = true ∧ ∀ r, t.reg r = regReset r) ∧
    (s.isReady = true → (∀ key, key % 256 ≠ 0xA5 → ∃ t e, exec (.pwrReset 0 key) s = .next t ∧ t.log.getLast? = some e ∧ e.cause = 0x102 ∧
        (∀ r, r ≠ 0x100010 → t.reg r = s.reg r) ∧ t = { s with regs := t.regs, log := t.log }) ∧
      ∀ fn key, 0 < fn → fn < 32 → exec (.pwrReset fn key) s = .next s) ∧
    (s.tripped = false → s.bringingUp = false → s.get F.PWR_STATUS_PHASE = 0 → ∃ t, exec .bringupStart s = .next t ∧ t.bringingUp = true ∧
      t.perst = false ∧ t.powerGood = true ∧ t.on F.WCK_STATE_ON_LAGOON = true ∧ (∀ u, 256 ≤ u → u < 264 → t.working u = true) ∧ t.get F.SEC_WELL_HEALTHY = 1 ∧ Quiet s t) ∧
    (s.bringingUp = true → s.get F.PWR_STATUS_PHASE = 0 → ∀ fuses, ∃ t, exec (.fuseLoad fuses) s = .next t ∧ t.get F.PWR_STATUS_PHASE = 1 ∧
      (∀ u, 144 ≤ u → u ≤ 200 → u ∈ t.bringup) ∧ (∀ k < 144, k ∈ t.bringup ↔ t.tileEnabled k = true) ∧ ∀ x, t.rd x = s.rd x) ∧
    (s.get F.PWR_STATUS_PHASE = 1 → s.bringup = [] →
      (∀ r ∈ s.ramps, (144 ≤ r.unit ∧ r.unit < 152) ∨ (r.unit = 200 ∧ r.stage = 2)) → ∃ t, exec .coreClockSwitch s = .next t ∧ t.wck.running = true ∧
      t.wck.turn = 0 ∧ t.wck.cycle = 0 ∧ t.get F.PWR_STATUS_PHASE = 2 ∧ t.on F.WCK_STATE_ON_LAGOON = false ∧ t.ramps = s.ramps ∧
      (∀ k < 264, t.working k = s.working k) ∧ Quiet s t) ∧
    (∀ k < 8, s.get F.PWR_STATUS_PHASE = 2 → s.ramps = [⟨144 + k, true, none, 1⟩] → s.get (F.PWR_TRAIN_PASS k) = 1 →
      s.underTest (144 + k) = false → ∀ tie, ∃ t h, exec (.unitFollowupEnd (144 + k) true tie) s = .next t ∧ t.get F.PWR_STATUS_PHASE = 3 ∧ t.working (144 + k) = true ∧ h ≤ k ∧
        t.get F.PWR_STATUS_HOME_STACK = h ∧ t.working (144 + h) = true ∧ ∀ i < h, t.working (144 + i) = false) ∧
    (∀ h < 8, (s.get F.PWR_STATUS_PHASE = 2 ∧ s.working (144 + h) = true ∧ ∀ i < h, s.working (144 + i) = false) ∨
        (s.get F.PWR_STATUS_PHASE = 3 ∧ s.get F.PWR_STATUS_HOME_STACK = h) → s.ramps = [] → s.fuseFault = false →
      ∃ t, exec .ready s = .next t ∧ t.get F.PWR_STATUS_PHASE = 4 ∧ t.bringingUp = false ∧
        t.get F.PWR_STATUS_HOME_STACK = h ∧ t.scrubs = (List.range 8).map stackGranules ∧
        (∀ r, (t.queue r).out = (s.queue r).out) ∧
        ∀ x, t.rd x = if (h + 1) * stackSize - 0x4000000 ≤ x ∧ x < (h + 1) * stackSize then 0 else s.rd x) ∧
    (s.perst = false → s.tripped = false → s.isReady = true → ∀ fn < 32,
      (∀ n, exec (.configurationRequest fn none (some n)) s =
        .next { s with
          vfEnabled := if fn = 0 then (List.range (min n 31)).map (· + 1) else s.vfEnabled, sent := s.sent ++ [.configDone fn []] }) ∧
      exec (.configurationRequest fn none none) s = .next { s with sent := s.sent ++ [.configDone fn []] } ∧
      ∀ r, ∃ d, exec (.configurationRequest fn (some r) none) s =
          .next { s with sent := s.sent ++ [.configDone fn d], free := s.free + 1 } ∧
        d.length = 4 ∧ (r / 4 = 0 → leNat d = 0x96401C1E) ∧ (r / 4 = 2 → leNat d % 256 = 0xB0)) ∧
    (s.perst = false → s.tripped = false → s.get F.PWR_STATUS_PHASE ≠ 4 → ∀ fn < 32, ∀ r vfs, exec (.configurationRequest fn r vfs) s =
      .next { s with sent := s.sent ++ [.retryStatus fn] }) ∧
    (s.perst = true ∨ s.tripped = true → ∀ fn < 32, ∀ r vfs, exec (.configurationRequest fn r vfs) s = .next s) ∧
    (∀ fn q, 0 < fn → fn < 32 → 1 ≤ q → q < 64 → s.queueLive q = true → s.get (F.DR_QSTAT_STATE q) = 1 → (s.queue q).bound < 16 →
      s.get (F.ALT_STATE_FUNCTION (s.queue q).bound) = fn →
      (∃ t, exec (.vfFlr fn) s = .next t ∧ t.get (F.DR_QSTAT_STATE q) = 2 ∧ t.get (F.DR_QSTAT_HALT_CAUSE q) = 0x34 ∧ Quiet s t) ∧
      ∃ t, exec .vfEnableClear s = .next t ∧ t.vfEnabled = [] ∧ t.get (F.DR_QSTAT_STATE q) = 2 ∧ Quiet s t) ∧
    exec (.vfFlr 0) s = .next s

/-- BAR2_WRITE of a served function whose walk gives one unsealed piece: its bytes stand at that physical address, no other byte
changes; a sealed piece: nothing is written, logged and counted; a walk fault: logged and counted. BAR2_READ so returns the bytes, zeros, or
Completer Abort; a function not served gets Unsupported Request, its writes are dropped. GRANULE_SCRUB_END of a working stack zeroes its next
granule and counts it; of another stack not being switched on it does nothing. HBM_REWRITE takes the first queued block, clean afterwards if it was correctable. STACK_TEMP_SAMPLE to 95 °C shows the
temperature, sends the notice once at 80 °C, inserts refreshes above 85 °C in the cold class; above 95 °C it closes the chip; a tripped device samples nothing. SLU_LEDGER_ACK in
range is in force, else logged. REOPEN_FALLOW_START at cycle 0 zeroes the tile to be reopened, or the tiles of the allotment; which of
a core's state that zeroing keeps (spent marks, the cursor with the stores) is log entry 48.
Which walks BAR2 caches, and a window without an allotment, are log entry 67. -/
def Obligations.MemoryServicesAct : Prop :=
  ∀ (s : State), s.stores = [] →
    (∀ fn a addr u, fn < 32 → s.bar2Up fn = true → s.window fn = some a →
      (∀ data p, s.bar2Pieces a permHostWrite (pagesOf addr data.length) = (.ok [(p, 0, data.length, false)], u) →
        (∀ k, (s.blockEcc k).usable = true) → ∃ t, exec (.bar2Write fn addr data) s = .next t ∧ t.sent = s.sent ∧
          (∀ r, (t.queue r).out = (s.queue r).out) ∧
          ∀ x, t.rd x = if p ≤ x ∧ x < p + data.length then data.getD (x - p) 0 else s.rd x) ∧
      (∀ data p, s.bar2Pieces a permHostWrite (pagesOf addr data.length) = (.ok [(p, 0, data.length, true)], u) →
        ∃ t e, exec (.bar2Write fn addr data) s = .next t ∧ t.log.getLast? = some e ∧ e.cause = 0x106 ∧ Quiet s t ∧
          t.get (F.ALT_BAR2_COUNTS_SEALED a) = min (2 ^ 32 - 1) (s.get (F.ALT_BAR2_COUNTS_SEALED a) + 1)) ∧
      (∀ data x, s.bar2Pieces a permHostWrite (pagesOf addr data.length) = (.error x, u) →
        ∃ t e, exec (.bar2Write fn addr data) s = .next t ∧ t.log.getLast? = some e ∧ e.cause = 0x105 ∧ Quiet s t ∧
          t.get (F.ALT_BAR2_COUNTS_FAULTS a) = min (2 ^ 32 - 1) (s.get (F.ALT_BAR2_COUNTS_FAULTS a) + 1)) ∧
      (∀ len p, s.bar2Pieces a permHostRead (pagesOf addr len) = (.ok [(p, 0, len, false)], u) → (∀ k, (s.blockEcc k).usable = true) →
        ∃ t, exec (.bar2Read fn addr len) s = .next t ∧ t.sent = s.sent ++ [.completion fn (s.rdBytes p len)] ∧ Quiet s t) ∧
      (∀ len p, s.bar2Pieces a permHostRead (pagesOf addr len) = (.ok [(p, 0, len, true)], u) →
        ∃ t, exec (.bar2Read fn addr len) s = .next t ∧ t.sent = s.sent ++ [.completion fn (List.replicate len 0)] ∧ Quiet s t) ∧
      (∀ len x, s.bar2Pieces a permHostRead (pagesOf addr len) = (.error x, u) →
        ∃ t, exec (.bar2Read fn addr len) s = .next t ∧ t.sent = s.sent ++ [.completerAbort fn] ∧ Quiet s t)) ∧
    (∀ fn addr len data, fn < 32 → s.bar2Up fn = false → exec (.bar2Write fn addr data) s = .next s ∧
      (s.perst = false → s.tripped = false → exec (.bar2Read fn addr len) s = .next { s with sent := s.sent ++ [.unsupported fn] })) ∧
    (∀ st < 8, (∀ g n, s.scrubs = [(g, n)] → g / 24576 = st → 1 ≤ n → s.ramps = [] → s.working (144 + st) = true → ∃ t, exec (.granuleScrubEnd st) s = .next t ∧
        t.scrubs = (if n = 1 then [] else [(g + 1, n - 1)]) ∧
        t.get F.ALT_SCRUB_DONE = min (2 ^ 32 - 1) (s.get F.ALT_SCRUB_DONE + 1) ∧ (∀ r, (t.queue r).out = (s.queue r).out) ∧
        ∀ x, t.rd x = if g * pageSize ≤ x ∧ x < (g + 1) * pageSize then 0 else s.rd x) ∧
      ((∀ x ∈ s.scrubs, x.1 / 24576 ≠ st) ∨ (s.ramps = [] ∧ s.working (144 + st) = false) → exec (.granuleScrubEnd st) s = .next s)) ∧
    (∀ st < 8, (∀ b r, smGet [] s.rewriteQ st = b :: r → ∃ t, exec (.hbmRewrite st) s = .next t ∧ smGet [] t.rewriteQ st = r ∧
        t.blockEcc b = (if s.blockEcc b = .correctable then .clean else s.blockEcc b) ∧ t.blockTag b = s.blockTag b ∧
        t = { s with rewriteQ := t.rewriteQ, blkTag := t.blkTag, blkCode := t.blkCode }) ∧
      (smGet [] s.rewriteQ st = [] → exec (.hbmRewrite st) s = .next s)) ∧
    (∀ k < 8, ∀ temp,
      (s.tripped = true → exec (.stackTempSample k temp) s = .next s) ∧
      (s.tripped = false → temp ≤ 95 → s.get (F.HBM_STACK_INSERTING k) = 0 → ∃ t, exec (.stackTempSample k temp) s = .next t ∧ t.get (F.HBM_STACK_TEMP k) = temp ∧
        (80 ≤ temp → s.get (F.HBM_STACK_NOTICE_ARMED k) = 1 → t.get (F.HBM_STACK_NOTICE_ARMED k) = 0 ∧
          ∃ m, (t.queue 0).out = (s.queue 0).out ++ [m] ∧ m.notice = true ∧ m.op = 0x0CF0 ∧ m.detail = k) ∧
        (temp < 80 ∨ s.get (F.HBM_STACK_NOTICE_ARMED k) = 0 → (t.queue 0).out = (s.queue 0).out) ∧
        (temp < 75 → t.get (F.HBM_STACK_NOTICE_ARMED k) = 1) ∧
        (s.get F.HBM_CLASS_CLASS = 0 → (t.get (F.HBM_STACK_INSERTING k) = 1 ↔ 85 < temp)) ∧
        (s.get F.HBM_CLASS_CLASS = 1 → t.get (F.HBM_STACK_INSERTING k) = 0) ∧ k ∉ t.hotStacks ∧ ∀ x, t.rd x = s.rd x) ∧
      (s.tripped = false → 95 < temp → k ∉ s.hotStacks → s.chipClosed = false → ∃ t, exec (.stackTempSample k temp) s = .next t ∧ t.chipClosed = true ∧
        t.get F.SLU_STATUS_CHIP_CAUSE = 0xFA ∧ k ∈ t.hotStacks)) ∧
    (∀ a < 16, ∀ fn v, fn < 32 → v < 2 ^ 32 → s.bar2Up fn = true → fn = 0 ∨ s.allotOfFn fn = some a →
      ((v + 2 ^ 32 - s.get (F.SLU_LEDGER_ACK a)) % 2 ^ 32 ≤ s.unacked a → ∃ t, exec (.sluLedgerAck fn a v) s = .next t ∧
        t.get (F.SLU_LEDGER_ACK a) = v ∧ t.get (F.SLU_LEDGER_NEXT a) = s.get (F.SLU_LEDGER_NEXT a) ∧
        (∀ r, r ≠ 0x100108 + 0x20 * a → t.reg r = s.reg r) ∧ t = { s with regs := t.regs }) ∧
      (s.unacked a < (v + 2 ^ 32 - s.get (F.SLU_LEDGER_ACK a)) % 2 ^ 32 → ∃ t e, exec (.sluLedgerAck fn a v) s = .next t ∧
        t.log.getLast? = some e ∧ e.cause = 0x102 ∧ (∀ r, r ≠ 0x100010 → t.reg r = s.reg r) ∧ Quiet s t)) ∧
    (∀ a < 16, ∀ fn v, 0 < fn → fn < 32 → s.allotOfFn fn ≠ some a → exec (.sluLedgerAck fn a v) s = .next s) ∧
    (∀ o scope subj, s.wck.cycle = 0 → s.wck.isFallow = true → s.reopens = [⟨o, scope, subj, s.wck.turn, false⟩] →
      ∃ t, exec .reopenFallowStart s = .next t ∧ t.reopens = [⟨o, scope, subj, s.wck.turn, true⟩] ∧ Quiet s t ∧
        (scope = 1 → ∀ i < 32, t.core (32 * subj + i) = { Core.reset with spent := (s.core (32 * subj + i)).spent }) ∧
        (scope ≠ 1 → ∀ k ∈ s.tilesOf subj, ∀ i < 32, let x := s.core (32 * k + i)
          t.core (32 * k + i) = { Core.reset with bank0 := x.bank0, bank1 := x.bank1, cursor := x.cursor, spent := x.spent })) ∧
    (s.wck.cycle ≠ 0 ∨ s.wck.isFallow = false → exec .reopenFallowStart s = .next s)

/-- Where no core has an access left. DELIVERY_START of an unsealed record due in this plan turn, none in flight and none recorded: it is
in flight with this turn and its stamp. DELIVERY_COMPLETE of the only delivery before its release point, its blocks clean: its bytes leave
in order, the ledger records DELIVERED; with MARGIN0 where it is so in the detection cycle of a sluice (log entry 60). DELIVERY_RELEASE_POINT in its release turn, nothing sent: the ledger records WITHHELD with reason 1,
nothing leaves; before, nothing. FLUME_TRANSFER_START of a record due: its engine is busy for the allotment, and every core it
feeds has the transfer of its share under way into the landing slot, whose valid bit is 0. RECV_OPEN of a record due, its slot idle:
the slot waits for the record's lines, valid 0. TRANSFER_LANDING of a transfer that is ready: its next line is booked on the merger's port in
this cycle; the last one sets the valid bit, an exchange line that has landed before counting once. LINK_SLOT_SEND with one SEND record served: as many quads as its share admits
leave as flits, ten to a frame, and its buffer has advanced. Where the plan does not run, nothing changes, but that a reservation or an OPEN in the very cycle in which its sluice closes is still judged.
Completion in the order of the starts is log entry 60, the cycle of a landing and BUSY of a flume engine log entry 70, that a link slot
command serves the next slot in whole frames log entry 39: the model's readings. -/
def Obligations.PlanTransportActs : Prop :=
  ∀ (s : State), s.stores = [] → s.coresIdle →
    (∀ a < 16, ∀ k p, (s.allot a).active = some p → let r := p.deliveries.getD k []
      (s.planRuns a = true → r ≠ [] → dvTurn r = (s.allot a).planTurn → s.wck.cycle ≤ dvStamp r → dvSealed r = false →
        (s.allot a).delivs = [] → (s.allot a).ledger = [] → ∃ t, exec (.deliveryStart a k) s = .next t ∧
          (t.allot a).delivs = [⟨r, (s.allot a).planTurn, s.wck.turn, dvStamp r, false, p.meas, p.pages⟩] ∧
          t.wck = (s.advanceTo (dvStamp r)).wck ∧ (∀ b, b ≠ a → t.allot b = s.allot b) ∧ t.regs = s.regs ∧ Quiet s t) ∧
      (s.planRuns a = false → exec (.deliveryStart a k) s = .next s ∧ (s.shutNow a = false →
        exec (.flumeTransferStart a k) s = .next s ∧ exec (.recvOpen a k) s = .next s))) ∧
    (∀ a < 16, ∀ d, (s.allot a).delivs = [d] → s.early = [] → s.unacked a < 61439 → (∀ k, s.blockEcc k = .clean) →
      (turnPassed s d.release = false → s.wck.turn ≠ d.release ∨ max s.wck.cycle (d.startCycle + 1) < s.guardCycle 0 →
        ∃ t e, exec (.deliveryComplete a (dvId d.rec_) false false) s = .next t ∧ (t.allot a).delivs = [] ∧
          t.sent = s.sent ++ (List.range (dvLen d.rec_ / 64)).map (fun i => .hostWrite (s.get (F.ALT_STATE_FUNCTION a)) (dvDest d.rec_ + 64 * i)
            (s.rdBytes (64 * (xl d.pages (dvSrc d.rec_ + 64 * i) / 64)) 64) false) ∧
          (t.allot a).ledger.getLast? = some e ∧ e.devId = dvId d.rec_ ∧ e.outcome = 0 ∧ e.bytes = dvLen d.rec_ ∧ e.margin = false ∧ Quiet s t) ∧
      (turnPassed s d.release = false → s.wck.turn ≠ d.release ∨ s.wck.cycle ≤ s.guardCycle 0 → ∀ tie, ∃ t e,
        exec (.deliveryComplete a (dvId d.rec_) tie true) s = .next t ∧ (t.allot a).delivs = [] ∧ t.wck = s.wck ∧
          (t.allot a).ledger.getLast? = some e ∧ e.devId = dvId d.rec_ ∧ e.outcome = 0 ∧ e.bytes = dvLen d.rec_ ∧ e.margin = true ∧ Quiet s t) ∧
      (s.wck.turn = d.release → ∃ t e, exec (.deliveryReleasePoint a (dvId d.rec_) 0) s = .next t ∧ (t.allot a).delivs = [] ∧ t.sent = s.sent ∧
        (t.allot a).ledger.getLast? = some e ∧ e.devId = dvId d.rec_ ∧ e.outcome = 1 ∧ e.reason = 1 ∧ e.bytes = 0 ∧ Quiet s t) ∧
      ((∃ n, turnsAhead s.wck.turn d.release = some (n + 1)) → exec (.deliveryReleasePoint a (dvId d.rec_) 0) s = .next s)) ∧
    (∀ a < 16, ∀ id sent tie shut, (s.allot a).delivs = [] → exec (.deliveryComplete a id tie shut) s = .next s ∧
      exec (.deliveryReleasePoint a id sent) s = .next s) ∧
    (∀ a < 16, ∀ k p, (s.allot a).active = some p → s.planRuns a = true →
      (let r := p.resv.getD k []
       let l := if rvMacro r then [] else s.flumeCores a r
       r ≠ [] → rvKind r = 1 → rvApplies r (s.allot a).planTurn = true → s.wck.cycle ≤ rvStamp r → l.Nodup →
        (∀ c ∈ l, (smGet Slot.reset (s.core c).slots (rvLslot r)).flying = none) → ∃ t, exec (.flumeTransferStart a k) s = .next t ∧
          t.get (F.FLU_ENGINE_BUSY (rvUnit r)) = 1 ∧ t.get (F.FLU_ENGINE_ALLOT (rvUnit r)) = a ∧ Quiet s t ∧
          ∀ i c, l[i]? = some c → flumeShare r i l.length ≠ 0 → ∃ x, let z := smGet Slot.reset (t.core c).slots (rvLslot r)
            z.flying = some x ∧ z.valid = false ∧ x.kind = 1 ∧ x.src = k ∧ x.landed = 0 ∧ x.lines = flumeShare r i l.length) ∧
      (let r := p.links.getD k []; let c := s.phyCore a (lkCore r)
       r ≠ [] → lkKind r = 2 → lkApplies r (s.allot a).planTurn = true → s.wck.cycle ≤ lkA r →
        (smGet Slot.reset (s.core c).slots (lkSlot r)).flying = none → ∃ t, exec (.recvOpen a k) s = .next t ∧ Quiet s t ∧
          t.wck = (s.advanceTo (lkA r)).wck ∧ (∀ x, x ≠ c → t.core x = s.core x) ∧
          ∃ x, let z := smGet Slot.reset (t.core c).slots (lkSlot r)
            z.flying = some x ∧ z.valid = false ∧ x.kind = 2 ∧ x.src = k ∧ x.landed = 0 ∧ x.lines = lkLines r ∧ x.data = [])) ∧
    (∀ c < 4608, ∀ n < 64, ∀ data, let z := smGet Slot.reset (s.core c).slots n
      (z.flying = none → exec (.transferLanding c n data) s = .next s) ∧
      (∀ x, z.flying = some x → x.ready s.wck.cycle = false → exec (.transferLanding c n data) s = .next s) ∧
      (∀ x, z.flying = some x → x.ready s.wck.cycle = true → (s.core c).writes = [] → (s.core c).macroEnd ≤ s.wck.cycle →
        let y := s.nextLine (s.ownerOf c) c x data
        ∃ t, exec (.transferLanding c n data) s = .next t ∧ Quiet s t ∧
          (t.core c).writes = [wideWrite s.wck.cycle 6 0 (x.dest + x.index) y.1 y.2.1 s.wck.cycle 0xFFFFFFFF] ∧
          let z' := smGet Slot.reset (t.core c).slots n
          let again := x.kind = 2 ∧ bit x.seen_ x.index = true; let landed := if again then x.landed else x.landed + 1
          (x.lines ≤ landed → z'.flying = none ∧ z'.valid = true) ∧
          (landed < x.lines → z'.valid = z.valid ∧ z'.flying = some { x with
            landed := landed, data := x.data.drop 1, seen_ := if x.kind = 2 ∧ ¬ again then x.seen_ + 2 ^ x.index else x.seen_ }))) ∧
    (s.wck.running = false ∨ s.wck.isFallow = true → exec .linkSlotSend s = .next s) ∧
    (∀ a < 16, ∀ p r b, (s.allot a).active = some p → s.planRuns a = true → (∀ x < 16, x ≠ a → s.planRuns x = false) → p.links = [r] →
      lkKind r = 1 → lkApplies r (s.allot a).planTurn = true → s.portSends (lkPort r) = true → lkPort r < 12 → (s.allot a).txs = [b] → b.record = 0 →
      let k := max s.linkSlots (cdiv s.wck.cycle 128); let m := min (7 * lkShare r) (b.lines.length - b.sent_)
      b.at_ ≤ 128 * k → lkA r ≤ k → k < lkA r + lkB r → m ≠ 0 → ∃ (t : State) (l : List Bytes), exec .linkSlotSend s = .next t ∧ t.linkSlots = k + 1 ∧
        t.wck = (s.advanceTo (128 * k)).wck ∧ t.sent = s.sent ++ l.map (.frame (lkPort r)) ∧ l.length = 1 + cdiv (4 * cdiv m 7 - 10) 10 ∧
        (t.allot a).txs = (if b.lines.length ≤ b.sent_ + m then [] else [{ b with sent_ := b.sent_ + m }]) ∧ Quiet s t)

/-- AQD_PORT_ENABLE of a DOWN port: TRAIN when its unit works, else DOWN. AQD_PORT_DISABLE of a port that no plan names: DOWN; else refused and
logged. AQD_PORT_RESTART in FAULT: TRAIN. LANE_TRAINING_DONE in TRAIN: ALIGN; ALIGN_DONE in ALIGN: RANGE with the peer's id. TRAIN_TIMEOUT and
ALIGN_TIMEOUT in their states: FAULT with cause 1 or 2 and one notice; in the lagoon cycle of the awaited event they only mark MARGIN0.
RANGING_DONE in RANGE after 1,024 equal round trips: UP with the latency and the allowance, or past the limit found at ALIGN_DONE FAULT
with cause 3; with fewer, nothing. AQD_FRAME_RECEIVE below ALIGN or in FAULT: nothing; in UP: a frame that decodes, all its flits good, has its corrected symbols counted and its flits used in order, one of another PORT_ID than the
peer's is FAULT with cause 5; one that does not decode or holds a flit whose CRC fails is counted uncorrectable. A flit whose CRC fails: nothing. MARKER_RECEIVE in UP on another port than the marker port shows the peer's fields;
on the marker port it is an event of source 3, here in FREE_RUN: of a peer neither LOCKED nor in HOLDOVER, or of stratum 15, a reject, else the first event is accepted with the disagreement of the marker's second.
RANGE_FLIT_RECEIVE of a request: one frame leaves; of a reply in RANGE: one sample more, and with
CHIP_SLUICED it shows the peer's sluice, as in UP. DATA_QUAD_RECEIVE in a fallow turn counts
its flits, of no RECV record counts its lines stray, 7 unless it is the last of its exchange, of an open one adds its lines. SLUICE_FLIT_RECEIVE naming the one exchange received: the allotment's peer is sluiced.
That entry into RANGE clears PEER_SLUICED, and which positions of a last quad are unused, is log entry 101.
That a port whose unit does not work stays DOWN on ENABLE, what DISABLE keeps, and which quads are stray, is log entry 38, the frame's
code and order log entries 36 and 37. -/
def Obligations.AqueductPortsAct : Prop :=
  ∀ (p : Nat) (s : State), p < 12 → s.stores = [] → let x := s.aqd p
    (s.apState p = apDown → ∃ t, exec (.aqdPortEnable p) s = .next t ∧ t.get (F.AQD_PORT_CTL_ENABLE p) = 1 ∧
      t.apState p = (if s.working (172 + p) then apTrain else apDown) ∧ t = { s with regs := t.regs }) ∧
    (s.portUsers p = [] → ∃ t, exec (.aqdPortDisable p) s = .next t ∧ t.get (F.AQD_PORT_CTL_ENABLE p) = 0 ∧ t.apState p = apDown ∧
      t = { s with regs := t.regs }) ∧
    (s.portUsers p ≠ [] → ∃ t e, exec (.aqdPortDisable p) s = .next t ∧ t.log.getLast? = some e ∧ e.cause = 0x100 ∧
      (∀ r, r ≠ 0x100010 → t.reg r = s.reg r) ∧ Quiet s t) ∧
    (s.apState p = apFault → ∃ t, exec (.aqdPortRestart p) s = .next t ∧ t.apState p = apTrain ∧ t = { s with regs := t.regs }) ∧
    (s.apState p ≠ apFault → exec (.aqdPortRestart p) s = .next s) ∧
    (s.apState p = apTrain → ∃ t, exec (.laneTrainingDone p) s = .next t ∧ t.apState p = apAlign ∧ (t.aqd p).moved = s.wck.lagoon + 1 ∧ Quiet s t) ∧
    (s.apState p ≠ apTrain → exec (.laneTrainingDone p) s = .next s) ∧
    (s.apState p = apAlign → ∃ t, exec (.alignDone p) s = .next t ∧ t.apState p = apRange ∧ t.get (F.AQD_PEER_PEER_ID p) = x.peer % 2 ^ 9 ∧
      (t.aqd p).samples = 0 ∧ t.get (F.AQD_PORT_STATE_PEER_SLUICED p) = 0 ∧ (t.aqd p).vlLimit = s.get F.AQD_VL_LIMIT_LIMIT ∧ Quiet s t) ∧
    (s.apState p ≠ apAlign → exec (.alignDone p) s = .next s) ∧
    (∀ y ∈ [(Instr.trainTimeout p, apTrain, 1), (.alignTimeout p, apAlign, 2)],
      (s.apState p = y.2.1 → ∃ t m, exec y.1 s = .next t ∧ t.apState p = apFault ∧ t.get (F.AQD_PORT_STATE_FAULT_CAUSE p) = y.2.2 ∧
        (t.queue 0).out = (s.queue 0).out ++ [m] ∧ m.notice = true ∧ m.op = 0x0CF2 ∧ ∀ a, t.rd a = s.rd a) ∧
      (s.apState p = y.2.1 + 1 → x.moved = s.wck.lagoon + 1 → ∃ t, exec y.1 s = .next t ∧ t.apState p = y.2.1 + 1 ∧
        t.get (F.AQD_PORT_STATE_MARGIN0 p) = 1 ∧ t = { s with regs := t.regs }) ∧
      (s.apState p ≠ y.2.1 → s.apState p ≠ y.2.1 + 1 → exec y.1 s = .next s)) ∧
    (∀ v : Int, s.apState p = apRange → 1024 ≤ x.samples → x.sum = x.samples * v → x.lo = v → x.hi = v →
      ∃ t m, exec (.rangingDone p) s = .next t ∧ (t.queue 0).out = (s.queue 0).out ++ [m] ∧ m.notice = true ∧ m.op = 0x0CF2 ∧
        (s.get F.AQD_ASYM_ASYM ≤ x.vlLimit → t.apState p = apUp ∧ t.get (F.AQD_RANGE_DL p) = unsigned 32 (v + 800) ∧
          t.get (F.AQD_RANGE_VL p) = s.get F.AQD_ASYM_ASYM) ∧
        (x.vlLimit < s.get F.AQD_ASYM_ASYM → t.apState p = apFault ∧ t.get (F.AQD_PORT_STATE_FAULT_CAUSE p) = 3)) ∧
    (x.samples < 1024 ∨ s.apState p ≠ apRange → exec (.rangingDone p) s = .next s) ∧
    (∀ f tie, (s.apState p < apAlign ∨ apUp < s.apState p → exec (.aqdFrameReceive p f tie) s = .next s) ∧
      (s.apState p = apUp → let y := frameBody f; let b := toLe 2570 (descramble x.last58 y.1); let l := recs 256 (b.drop 10)
        ∃ t, exec (.aqdFrameReceive p f tie) s = .next t ∧
          if y.2.2 = true ∧ l.all flitOk = true then
            if bits (fieldAt b 2 2) 0 9 = s.get (F.AQD_PEER_PEER_ID p) then
              ∃ u, settle s (l.foldl (fun s z => s.useFlit p z tie) u) = .next t ∧ u = { s with regs := u.regs, aqds := u.aqds } ∧
                u.aqd p = { x with last58 := bits y.1 20502 58, frames := (false :: x.frames).take 64 } ∧
                u.get (F.AQD_FEC_CORRECTED p) = min (2 ^ 32 - 1) (s.get (F.AQD_FEC_CORRECTED p) + y.2.1) ∧ ∀ r, r ≠ 0xB8118 + 0x100 * p → u.reg r = s.reg r
            else s.portUsers p = [] → t.apState p = apFault ∧ t.get (F.AQD_PORT_STATE_FAULT_CAUSE p) = 5
          else (x.frames.filter id).length < 7 → s.portUsers p = [] → t.apState p = apUp ∧ Quiet s t ∧
            t.get (F.AQD_FEC_UNCORRECTABLE p) = min (2 ^ 16 - 1) (s.get (F.AQD_FEC_UNCORRECTABLE p) + 1))) ∧
    (∀ f, (flitOk f = false → (∀ tie, exec (.markerReceive p f tie) s = .next s) ∧ exec (.rangeFlitReceive p f) s = .next s ∧
        exec (.sluiceFlitReceive p f) s = .next s) ∧
      (s.apState p = apUp → flitOk f = true → ftChipSluiced f = false →
        (ftKind f = 1 → p ≠ s.wck.port → ∀ tie, ∃ t, exec (.markerReceive p f tie) s = .next t ∧ t = { s with regs := t.regs } ∧
          t.get (F.AQD_PEER_STRATUM p) = bits (fieldAt f 22 1) 4 4 ∧ t.get (F.AQD_PEER_WCK p) = bits (fieldAt f 22 1) 0 3 ∧
          t.get (F.AQD_PORT_STATE_PEER_FALLOW_NEXT p) = bits (fieldAt f 22 1) 3 1) ∧
        (ftKind f = 1 → p = s.wck.port → s.wckState = wckFreeRun → let st := bits (fieldAt f 22 1) 0 3; let stratum := bits (fieldAt f 22 1) 4 4
          ∀ tie, ∃ t, exec (.markerReceive p f tie) s = .next t ∧ Quiet s t ∧ let m := s.wck.marker
            if (st ≠ wckLocked ∧ st ≠ wckHoldover) ∨ stratum = 15 then
              t.wck.marker = { m with rejects := min 3 (m.rejects + 1), accepts := 0, goodFor := 0 } ∧
                t.get F.WCK_REJECTS_MARKER = min (2 ^ 8 - 1) (s.get F.WCK_REJECTS_MARKER + 1)
            else m.pred = false → m.accepts < 15 → t.wck.marker.rejects = 0 ∧ t.wck.marker.accepts = m.accepts + 1 ∧ t.wck.marker.pred = true ∧
              t.wck.stratum = stratum ∧ t.wck.marker.dis = 8000000000 * (s.get F.WCK_ANCHOR_SEC_SEC : Int)
                + 8000000000 * s.fromAnchor (fieldAt f 16 6) / (max 1 (s.get F.WCK_TURN_RATE_RATE) : Nat)
                - (s.eighths + fieldAt f 24 4 - ((s.get (F.AQD_RANGE_DL p) : Int) - 800))) ∧
        (ftKind f = 2 → fieldAt f 24 8 = 0 → fieldAt f 32 8 = 0 → ∃ t d, exec (.rangeFlitReceive p f) s = .next t ∧
          t.sent = s.sent ++ [.frame p d] ∧ t.regs = s.regs ∧ Quiet s t) ∧
        (ftKind f = 4 → s.recvs p = [] → exec (.sluiceFlitReceive p f) s = .next s) ∧
        (∀ a k r, ftKind f = 4 → s.recvs p = [(a, k, r)] →
          lkExch r ∈ (List.range (min 112 (fieldAt f 17 1))).map (fun i => fieldAt f (32 + 2 * i) 2) →
          ∃ t, exec (.sluiceFlitReceive p f) s = .next t ∧ settle s (s.peerSluiced a) = .next t)) ∧
      (s.apState p = apRange → flitOk f = true → ftKind f = 2 → (ftChipSluiced f = true → ∀ a < 16, ∀ y ∈ (s.allot a).plans, ∀ r ∈ y.links, lkKind r = 2 → lkPort r ≠ p) →
        ¬ (fieldAt f 24 8 = 0 ∧ fieldAt f 32 8 = 0) →
        ∃ t, exec (.rangeFlitReceive p f) s = .next t ∧ (t.aqd p).samples = x.samples + 1 ∧ t.sent = s.sent ∧ Quiet s t ∧
          (ftChipSluiced f = false → t.regs = s.regs) ∧ (ftChipSluiced f = true → t.get (F.AQD_PORT_STATE_PEER_SLUICED p) = 1))) ∧
    (∀ q f0 f1 f2 f3, s.apState p = apUp → recs 256 q = [f0, f1, f2, f3] → ftPos f0 = 0 → ftPos f1 = 1 → ftPos f2 = 2 → ftPos f3 = 3 →
      (∀ f ∈ [f0, f1, f2, f3], flitOk f = true ∧ ftKind f = 3 ∧ ftChipSluiced f = false) →
      (s.wck.isFallow = true → ∃ t, exec (.dataQuadReceive p q) s = .next t ∧ t = { s with regs := t.regs } ∧
        t.get (F.AQD_STRAY_FALLOW p) = min (2 ^ 16 - 1) (s.get (F.AQD_STRAY_FALLOW p) + 4)) ∧
      (s.wck.isFallow = false → (∀ y ∈ s.recvs p, lkExch y.2.2 ≠ ftExch f0) → ∃ t, exec (.dataQuadReceive p q) s = .next t ∧
        t.get (F.AQD_STRAY_STRAY p) = min (2 ^ 16 - 1) (s.get (F.AQD_STRAY_STRAY p) + (usedLines [f0, f1, f2, f3] 0).length) ∧
        (bit (fieldAt f0 1 1) 2 = false → (usedLines [f0, f1, f2, f3] 0).length = 7) ∧ t.cores = s.cores ∧ Quiet s t) ∧
      ∀ a k r tr, s.wck.isFallow = false → s.recvs p = [(a, k, r)] → lkExch r = ftExch f0 → bit (fieldAt f0 1 1) 2 = false →
        s.held a = false → lkA r ≤ s.wck.cycle → (∀ l ∈ quadLines [f0, f1, f2, f3], l.1 < lkLines r) → tr.kind = 2 → tr.src = k →
        let c := s.phyCore a (lkCore r); let z := smGet Slot.reset (s.core c).slots (lkSlot r)
        z.flying = some tr → ∃ t, exec (.dataQuadReceive p q) s = .next t ∧ Quiet s t ∧
          smGet Slot.reset (t.core c).slots (lkSlot r) = { z with flying := some { tr with data := tr.data ++ quadLines [f0, f1, f2, f3] } } ∧
          t.get (F.AQD_STRAY_STRAY p) = s.get (F.AQD_STRAY_STRAY p))

/-- Each sequencer row of the core's next entry, where the checks of its cycle pass. SETS, ADD, SUB, AND, OR, XOR, SHL, SHR, SRA, MIN, MAX,
SETA, MOVA, SETZ, SETK and SETP book one register write: the register, the value the table gives (32-bit words, wrapping; shifts by the low 5
bits; MIN and MAX signed), visible one cycle later, three for SETP. LDA and LDS book the word that a narrow read of the scratchpad gives, three
cycles later. ADDA books an address whose low 39 bits are the sum modulo 2^39 and whose other bits are those of its source. LOOP opens a
loop of K iterations, or with K = 0 goes past its ENDLOOP. The cursor moves on, ISSUED counts (not for LOOP), no other core, no tally, no byte of
memory changes.
That a row acts only on the core's next entry is log entry 33, the cycle from which each write is seen log entry 68. -/
def Obligations.SequencerCommandsWriteRegisters : Prop :=
  ∀ (op : Nat) (s u : State) (c a t : Nat) (e : Entry), Issues 0 op s u c a t e →
    let w := e.w; let x := (u.core c).atIssue (s.program c) (s.allot a).planTurn t
    let im := BitVec.ofNat 32 (cmdImm w); let X := smGet 0 x.s (cmdField w 1); let A := (smGet 0 x.a (cmdField w 1)).toNat
    let Y := if cmdImmb w then im else smGet 0 x.s (cmdField w 2); let Z := if cmdImmb w then im else X; let d := cmdField w 0
    let Kept (v : State) : Prop := (∀ k, k ≠ c → v.core k = u.core k) ∧ v.wck = u.wck ∧ Quiet u v
    let Books (i : Instr) (n kind idx val : Nat) : Prop := ∃ v, exec i s = .next v ∧ (⟨t + n, kind, idx, val⟩ : LateWrite) ∈ (v.core c).late ∧
      (v.core c).cursor = x.cursor + 1 ∧ v.get (F.TIL_CORE_STATE_ISSUED c) = min (2 ^ 32 - 1) (u.get (F.TIL_CORE_STATE_ISSUED c) + 1) ∧ Kept v
    (∀ y ∈ [(Instr.sets c, 0x1, im), (.seqAdd c, 0x2, X + Y), (.seqSub c, 0x3, X - Y), (.seqAnd c, 0x4, X &&& Y), (.seqOr c, 0x5, X ||| Y),
        (.seqXor c, 0x6, X ^^^ Y), (.seqShl c, 0x7, X <<< (Y.toNat % 32)), (.seqShr c, 0x8, X >>> (Y.toNat % 32)),
        (.seqSra c, 0x9, X.sshiftRight (Y.toNat % 32)), (.seqMin c, 0xA, if X.sle Y then X else Y), (.seqMax c, 0xB, if X.sle Y then Y else X)],
      op = y.2.1 → Books y.1 1 0 d y.2.2.toNat) ∧
    (op = 0x10 → Books (.seta c) 1 1 d (cmdImm w)) ∧
    (op = 0x11 → ∃ n, Books (.adda c) 1 1 d n ∧ n / 2 ^ 39 = A / 2 ^ 39 ∧ ((n % 2 ^ 39 : Nat) : Int) = ((A : Int) + Y.toInt) % 2 ^ 39) ∧
    (op = 0x12 → Books (.mova c) 1 1 d A) ∧
    (op = 0x13 → Books (.lda c) 3 1 d ((u.narrowRead c t A e.origin).1 % 2 ^ 17)) ∧
    (op = 0x14 → Books (.lds c) 3 0 d (u.narrowRead c t A e.origin).1) ∧
    (op = 0x18 → Books (.setz c) 1 3 d ((if cmdImmb w then cmdImm w else X.toNat) % 2 ^ 24)) ∧
    (op = 0x19 → Books (.setk c) 1 4 (d % 8) Z.toNat) ∧
    (op = 0x1A → Books (.setp c) 3 2 (bits w 64 6) (if cmdImmb w then im else smGet 0 x.s (bits w 70 4)).toNat) ∧
    (op = 0x20 → let n := (smGet 0 x.k (cmdKsel w)).toNat
      (0 < n → n ≤ cmdMax w → ∃ v, exec (.loop c) s = .next v ∧ (v.core c).loops = ⟨t, cmdPeriod w, n, 0, x.cursor + 1⟩ :: x.loops ∧
        (v.core c).cursor = x.cursor + 1 ∧ Kept v) ∧
      (n = 0 → ∃ v, exec (.loop c) s = .next v ∧ (v.core c).loops = x.loops ∧
        (v.core c).cursor = afterLoop ((s.program c).drop (x.cursor + 1)) 0 (x.cursor + 1) ∧ Kept v))

/-- Each matrix, ring, vector, move and macro row of the core's next entry, where the checks of its cycle pass: the command runs with its
operands, its count and the occupancy and latency of Table 3-1, in every core of the tile where it spans the tile, and the engines it uses are
occupied for that time. Over the occupancy a REMOTE move to a core takes 6 cycles, 2 a hop and 24 a crossing of its path (8, 3 and 32 in
profile A1) and counts its lines at the bridge where it goes from die to die; one to a gate opens a transmit buffer for its record. A macro keeps
its parameter. ACC_SWAP exchanges the accumulator banks. MEM_RD and HOST_RD have a transfer of the count under way into their landing slot, whose
valid bit is 0. The cursor moves on, ISSUED counts, no tally, no byte of memory changes. The ring's element operations give the residues of Table 10-3; a 32-bit integer lane adds, subtracts, multiplies and
multiply-adds modulo 2^32, and takes the signed lesser and greater.
That a row acts only on the core's next entry is log entry 33, when operations on whole objects read and write log entry 32, the
macros' inputs log entry 34: the model's readings. -/
def Obligations.EngineCommandsStart : Prop :=
  (∀ (eng op : Nat) (s u : State) (c a t : Nat) (e : Entry), Issues eng op s u c a t e →
    let w := e.w; let x := (u.core c).atIssue (s.program c) (s.allot a).planTurn t; let n := x.count w; let j := (s.allot a).planTurn
    let ol := occLat (u.profileOf a) w n 0 0; let counted_ := min (2 ^ 32 - 1) (u.get (F.TIL_CORE_STATE_ISSUED c) + 1)
    let Issued (v : State) : Prop := (v.core c).cursor = x.cursor + 1 ∧ v.get (F.TIL_CORE_STATE_ISSUED c) = counted_ ∧ v.wck = u.wck ∧ Quiet u v
    (∀ y ∈ [(Instr.mm c, 1, 0x0), (.accStore c, 1, 0x1), (.rneAdd c, 2, 0x0), (.rneSub c, 2, 0x1), (.rneNeg c, 2, 0x2), (.rneMul c, 2, 0x3),
        (.rneMac c, 2, 0x4), (.ntt c, 2, 0x8), (.intt c, 2, 0x9), (.ntt4 c, 2, 0xA), (.intt4 c, 2, 0xB), (.auto c, 2, 0xC), (.bconv c, 2, 0x10),
        (.rescale c, 2, 0x11), (.moddown c, 2, 0x12), (.gdecomp c, 2, 0x13), (.extprod c, 2, 0x14), (.vxeAdd c, 3, 0x0), (.vxeSub c, 3, 0x1),
        (.vxeMul c, 3, 0x2), (.fma c, 3, 0x3), (.vxeMin c, 3, 0x4), (.vxeMax c, 3, 0x5), (.abs c, 3, 0x6), (.vxeNeg c, 3, 0x7), (.relu c, 3, 0x8),
        (.clamp (some c), 3, 0x9), (.vxeShl c, 3, 0xA), (.vxeShr c, 3, 0xB), (.vxeAnd c, 3, 0xC), (.vxeOr c, 3, 0xD), (.vxeXor c, 3, 0xE),
        (.select c, 3, 0xF), (.cmplt c, 3, 0x10), (.cmple c, 3, 0x11), (.cmpeq c, 3, 0x12), (.zip0 c, 3, 0x14), (.zip1 c, 3, 0x15),
        (.unzip0 c, 3, 0x16), (.unzip1 c, 3, 0x17), (.recip c, 3, 0x18), (.rsqrt c, 3, 0x19), (.exp2 c, 3, 0x1A), (.log2 c, 3, 0x1B),
        (.cvt c, 3, max 0x20 op), (.movLocal c, 4, 0x0), (.movRemote c, 4, 0x1), (.memWr c, 4, 0x3), (.fill c, 4, 0x5), (.copy c, 4, 0x6),
        (.refreshApprox c, 5, 0x0), (.refreshExact c, 5, 0x1), (.bitRefresh c, 5, 0x2), (.keyswitchHybrid c, 5, 0x3)],
      eng = y.2.1 → op = y.2.2 → ∃ v, exec y.1 s = .next v ∧ Issued v ∧ (∃ r, (v.core c).runs = [r] ∧ r.cmd = e.word ∧ r.s = t ∧ r.i = 0 ∧
          r.n = n ∧ r.da = x.addrOf w 0 ∧ r.sa = x.addrOf w 1 ∧ r.sb = x.addrOf w 2 ∧ r.sc = x.addrOf w 3 ∧ r.occ = ol.1 ∧
          (eng = 5 → r.par = x.param w % 2 ^ 12) ∧
          (let far := eng = 4 ∧ op = 1 ∧ aCore r.da < 4608; let h := u.pathOf a c j t r.da; let north := u.get F.CAN_BRIDGE_NS
            let sn := u.get F.CAN_BRIDGE_SN; let from_ := south (c / 32); let to_ := south (aCore r.da / 32); let top (k : Nat) := min (2 ^ 32 - 1) k
            (¬ far → r.lat = ol.2) ∧
            (far → r.lat = n + (if u.profileOf a = 0 then 6 + 2 * h.2.1 + 24 * h.2.2 else 8 + 3 * h.2.1 + 32 * h.2.2) ∧
              v.get F.CAN_BRIDGE_NS = (if from_ = false ∧ to_ = true then top (north + n) else north) ∧
              v.get F.CAN_BRIDGE_SN = (if from_ = true ∧ to_ = false then top (sn + n) else sn)) ∧
            (eng = 4 → op = 1 → 4608 ≤ aCore r.da → ∃ b, (v.allot a).txs = (u.allot a).txs ++ [b] ∧ b.record = aCore r.da - 4608 ∧
              b.at_ = t + n + (if u.profileOf a = 0 then 128 else 160) ∧ b.lines = [] ∧ b.sent_ = 0))) ∧
        ∀ k ∈ spanOf w c, (v.core k).runs.length = 1 ∧ ∀ b ∈ busyKeys w, smGet 0 (v.core k).busy b = t + ol.1) ∧
    (eng = 1 → op = 2 → ∃ v, exec (.accSwap c) s = .next v ∧ Issued v ∧ (v.core c).runs = [] ∧
      v.get (F.MXE_ACC_DRAIN c) = 1 - u.get (F.MXE_ACC_DRAIN c)) ∧
    (∀ y ∈ [(Instr.memRd c, 2, 0), (.hostRd c, 4, 3)], eng = 4 → op = y.2.1 → ∃ v tr, exec y.1 s = .next v ∧ Issued v ∧ (v.core c).runs = [] ∧
      let z := smGet Slot.reset (v.core c).slots (cmdSlot w)
      z.flying = some tr ∧ z.valid = false ∧ tr.kind = y.2.2 ∧ tr.lines = n ∧ tr.landed = 0 ∧ tr.dest = aLine (x.addrOf w 0))) ∧
  (∀ b x y z, modRefusal b = none → let m := modulusOf b; let q := m.q
    x < q → y < q → z < q → rneElem m 0 x y z = (x + y) % q ∧ (rneElem m 1 x y z + y) % q = x ∧ (rneElem m 2 x y z + x) % q = 0 ∧
      rneElem m 3 x y z = x * y % q ∧ rneElem m 4 x y z = (x * y + z) % q) ∧
  ∀ x y z : BitVec 32, let L (op : Nat) : Nat := (vxeLane op 6 x.toNat y.toNat z.toNat).1
    L 0 = (x + y).toNat ∧ L 1 = (x - y).toNat ∧ L 2 = (x * y).toNat ∧ L 3 = (x * y + z).toNat ∧
      L 4 = (if x.sle y then x else y).toNat ∧ L 5 = (if x.sle y then y else x).toNat

/-- For every modulus entry that MOD_TABLE_LOAD accepts, with q = 2^k + t, and every x from 0 to 2^64 − 1: the lane's result is that of
R253's sequence, four folds h = floor(x / 2^k), l = x − h 2^k, x = l − h t, then one addition of q when x is below 0 and one
subtraction of q when x is at least q; and it is the canonical residue x mod q, from 0 to q − 1. -/
def Obligations.LaneReductionIsCanonicalResidue : Prop :=
  ∀ (b : Bytes) (x : Nat), modRefusal b = none → x < 2 ^ 64 → let m := modulusOf b
    let fold (v : Int) : Int := (v - v / 2 ^ m.k * 2 ^ m.k) - v / 2 ^ m.k * ((m.q : Int) - 2 ^ m.k)
    let y := fold (fold (fold (fold x)))
    let y1 := if y < 0 then y + m.q else y
    let y2 := if (m.q : Int) ≤ y1 then y1 - m.q else y1
    reduceLane m x = y2 ∧ y2 = ((x % m.q : Nat) : Int) ∧ 0 ≤ y2 ∧ y2 ≤ (m.q : Int) - 1

/-- For every served function, every access of a shape that BAR0 admits, at an offset where no register of the register tables stands (for 8
bytes, in neither half): RC_FIELD_READ (the read of BAR0) completes with zeros and REGISTER_WRITE changes nothing; the log, and all
else, is as before. -/
def Obligations.UnusedOffsetsReadZero : Prop :=
  ∀ (s : State) (fn off size data hw : Nat) (hits : List (Nat × Nat)), s.stores = [] → fn < 32 →
    s.bar2Up fn = true → bar0Shape off size = true → regRowAt off = none → (size = 8 → regRowAt (off + 4) = none) →
    exec (.rcFieldRead fn off size false hits) s = .next { s with sent := s.sent ++ [.completion fn (List.replicate size 0)] } ∧
    exec (.registerWrite fn off size data hw) s = .next s
end

