-- ==== Sys2Proof/Laws/Maps.lean ====
section
/-! SUPPORT. Laws of sparse maps and of external memory: what a lookup finds after an update, and that every memory
operation keeps the canonical form. -/

namespace Sys2Proof.Machine

variable {α : Type}

theorem smGet_erase_self (d : α) (m : SMap α) (k : Nat) : smGet d (smErase m k) k = d := by
  induction m with
  | nil => rfl
  | cons e r ih =>
    obtain ⟨i, w⟩ := e
    by_cases h : i = k <;> simp_all [smErase, smGet]

theorem smGet_erase_ne (d : α) (m : SMap α) {k j : Nat} (h : j ≠ k) : smGet d (smErase m k) j = smGet d m j := by
  induction m with
  | nil => rfl
  | cons e r ih =>
    obtain ⟨i, w⟩ := e
    unfold smErase at ih ⊢
    by_cases hk : i = k
    · subst hk; simpa [smGet, Ne.symm h] using ih
    · by_cases hj : i = j <;> simp_all [smGet]

theorem smGet_smPut_self (d : α) (m : SMap α) (k : Nat) (v : α) : smGet d (smPut m k v) k = v := by
  induction m with
  | nil => simp [smPut, smGet]
  | cons e r ih =>
    obtain ⟨i, w⟩ := e
    simp only [smPut]
    split
    · simp [smGet]
    · split
      · simp [smGet]
      · rename_i h; simp [smGet, Ne.symm h, ih]

theorem smGet_smPut_ne (d : α) (m : SMap α) {k j : Nat} (v : α) (h : j ≠ k) :
    smGet d (smPut m k v) j = smGet d m j := by
  induction m with
  | nil => simp [smPut, smGet, Ne.symm h]
  | cons e r ih =>
    obtain ⟨i, w⟩ := e
    simp only [smPut]
    split
    · simp [smGet, Ne.symm h]
    · split
      · rename_i hk; subst hk; simp [smGet, Ne.symm h]
      · simp [smGet, ih]

variable [DecidableEq α]

/-- A map reads the value last set at a key. -/
@[simp] theorem smGet_smSet_self (d : α) (m : SMap α) (k : Nat) (v : α) : smGet d (smSet d m k v) k = v := by
  unfold smSet
  split
  · rename_i h; rw [smGet_erase_self, h]
  · exact smGet_smPut_self d m k v

/-- Setting a key leaves every other key alone. -/
@[simp] theorem smGet_smSet_ne (d d' : α) (m : SMap α) {k j : Nat} (v : α) (h : j ≠ k) :
    smGet d (smSet d' m k v) j = smGet d m j := by
  unfold smSet
  split
  · exact smGet_erase_ne d m h
  · exact smGet_smPut_ne d m v h

/-! ## The canonical form -/

theorem smWf_cons (d : α) (i : Nat) (w : α) (r : SMap α) :
    smWf d ((i, w) :: r) = true ↔ (∀ e ∈ r, i < e.1) ∧ w ≠ d ∧ smWf d r = true := by
  simp only [smWf, smRising, List.all_cons, Bool.and_eq_true, List.all_eq_true, decide_eq_true_eq]
  tauto

/-- Leaving entries out keeps the canonical form. -/
theorem smWf_filter (d : α) (m : SMap α) (p : Nat × α → Bool) (h : smWf d m = true) : smWf d (m.filter p) = true := by
  induction m with
  | nil => exact h
  | cons e r ih =>
    obtain ⟨i, w⟩ := e
    obtain ⟨hi, hw, hr⟩ := (smWf_cons d i w r).1 h
    rw [List.filter_cons]
    split
    · exact (smWf_cons ..).2 ⟨fun e he => hi e (List.mem_filter.1 he).1, hw, ih hr⟩
    · exact ih hr

theorem mem_smPut {m : SMap α} {k : Nat} {v : α} {e : Nat × α} (h : e ∈ smPut m k v) : e = (k, v) ∨ e ∈ m := by
  induction m with
  | nil => simpa [smPut] using h
  | cons x r ih =>
    obtain ⟨i, w⟩ := x
    simp only [smPut] at h
    split at h
    · simpa using h
    · split at h
      · simp only [List.mem_cons] at h ⊢; tauto
      · simp only [List.mem_cons] at h ⊢
        rcases h with h | h
        · exact .inr (.inl h)
        · rcases ih h with h | h <;> tauto

theorem smWf_smPut (d : α) (m : SMap α) (k : Nat) (v : α) (hv : v ≠ d) (h : smWf d m = true) :
    smWf d (smPut m k v) = true := by
  induction m with
  | nil => exact (smWf_cons ..).2 ⟨by simp, hv, rfl⟩
  | cons e r ih =>
    obtain ⟨i, w⟩ := e
    obtain ⟨hi, hw, hr⟩ := (smWf_cons d i w r).1 h
    simp only [smPut]
    split
    · rename_i hk
      refine (smWf_cons ..).2 ⟨?_, hv, h⟩
      simp only [List.mem_cons]
      rintro e (rfl | he)
      · exact hk
      · exact hk.trans (hi e he)
    · split
      · rename_i hk; subst hk; exact (smWf_cons ..).2 ⟨hi, hv, hr⟩
      · rename_i h1 h2
        refine (smWf_cons ..).2 ⟨fun e he => ?_, hw, ih hr⟩
        rcases mem_smPut he with rfl | he
        · show i < k; omega
        · exact hi e he

/-- Setting a key keeps the canonical form. -/
theorem smWf_smSet (d : α) (m : SMap α) (k : Nat) (v : α) (h : smWf d m = true) : smWf d (smSet d m k v) = true := by
  unfold smSet
  split
  · exact smWf_filter d m _ h
  · rename_i hv; exact smWf_smPut d m k v hv h

/-! ## External memory -/

/-- Draining one store keeps memory canonical. -/
theorem memWf_memStore (m : List Host.Cell) (x : Store) (h : memWf m = true) : memWf (memStore m x) = true := by
  cases x with
  | byte a v => exact smWf_smSet _ _ _ _ h
  | zero first n => exact smWf_filter _ _ _ h

/-- Draining a command's stores keeps memory canonical. -/
theorem memWf_memDrain (m : List Host.Cell) (l : List Store) (h : memWf m = true) : memWf (memDrain m l) = true := by
  induction l with
  | nil => exact h
  | cons x r ih => exact memWf_memStore _ _ ih

omit [DecidableEq α] in
theorem smGet_filter (d : α) (m : SMap α) (p : Nat → Bool) (a : Nat) :
    smGet d (m.filter fun c => p c.1) a = if p a then smGet d m a else d := by
  induction m with
  | nil => simp [smGet]
  | cons e r ih =>
    obtain ⟨i, w⟩ := e
    by_cases hp : p i = true <;> by_cases hi : i = a <;> simp_all [smGet]

/-- Memory after a drain reads the newest store to an address, and where there is none the byte it held. -/
theorem smGet_memDrain (m : List Host.Cell) (l : List Store) (a : Nat) :
    smGet memDefault (memDrain m l) a = (storedByte a l).getD (smGet memDefault m a) := by
  induction l with
  | nil => rfl
  | cons x r ih =>
    cases x with
    | byte b v =>
      simp only [memDrain, List.foldr_cons, memStore, storedByte] at ih ⊢
      by_cases h : a = b
      · subst h; simp
      · rw [smGet_smSet_ne _ _ _ _ h, if_neg h]; exact ih
    | zero first n =>
      simp only [memDrain, List.foldr_cons, memStore, storedByte] at ih ⊢
      rw [smGet_filter memDefault _ (fun i => !(decide (first ≤ i) && decide (i < first + n)))]
      by_cases h : first ≤ a ∧ a < first + n
      · simp [h, memDefault]
      · rw [if_neg h, if_pos, ih]
        simpa only [Bool.not_eq_true', Bool.and_eq_false_iff, decide_eq_false_iff_not, not_and_or] using h

end Sys2Proof.Machine
end

