-- ==== Sys2Proof/Laws/Fields.lean ====
section
/-! SUPPORT. Laws of register fields: what a field reads after a field of the same or of another register is written. -/

namespace Sys2Proof.Machine

theorem bits_testBit (v lo w i : Nat) : (bits v lo w).testBit i = (decide (i < w) && v.testBit (i + lo)) := by
  simp [bits, Nat.testBit_mod_two_pow, Nat.testBit_div_two_pow, Nat.add_comm]

theorem insertBits_testBit (v : BitVec 64) (lo w x i : Nat) (h : lo + w ≤ 64) :
    (insertBits v lo w x).toNat.testBit i =
      if lo ≤ i ∧ i < lo + w then x.testBit (i - lo) else v.toNat.testBit i := by
  rw [BitVec.testBit_toNat]
  by_cases hi : i < 64
  · simp only [insertBits, BitVec.getLsbD_or, BitVec.getLsbD_and, BitVec.getLsbD_not, BitVec.getLsbD_shiftLeft,
      BitVec.getLsbD_ofNat, Nat.testBit_two_pow_sub_one, Nat.testBit_mod_two_pow, hi, decide_true, Bool.true_and,
      BitVec.testBit_toNat]
    by_cases h1 : lo ≤ i
    · by_cases h2 : i < lo + w
      · have : i - lo < w := by omega
        have h3 : i - lo < 64 := by omega
        simp [h1, h2, this, h3, Nat.not_lt.2 h1]
      · have : ¬ i - lo < w := by omega
        simp [h1, h2, this, Nat.not_lt.2 h1]
    · have : i < lo := by omega
      simp [h1, this]
  · have : ¬ (lo ≤ i ∧ i < lo + w) := by omega
    rw [if_neg this]
    simp [BitVec.getLsbD_of_ge _ _ (Nat.not_lt.1 hi), BitVec.testBit_toNat]

/-- Bits written are read back, modulo their width. -/
theorem bits_insertBits_self (v : BitVec 64) (lo w x : Nat) (h : lo + w ≤ 64) :
    bits (insertBits v lo w x).toNat lo w = x % 2 ^ w := by
  apply Nat.eq_of_testBit_eq
  intro i
  rw [bits_testBit, insertBits_testBit _ _ _ _ _ h, Nat.testBit_mod_two_pow]
  by_cases hi : i < w
  · simp [hi, Nat.add_comm i lo]
  · simp [hi]

/-- Bits beside those written keep their value. -/
theorem bits_insertBits_ne (v : BitVec 64) (lo w x lo' w' : Nat) (h : lo + w ≤ 64)
    (hd : lo + w ≤ lo' ∨ lo' + w' ≤ lo) : bits (insertBits v lo w x).toNat lo' w' = bits v.toNat lo' w' := by
  apply Nat.eq_of_testBit_eq
  intro i
  rw [bits_testBit, bits_testBit, insertBits_testBit _ _ _ _ _ h]
  by_cases hi : i < w'
  · rw [if_neg (by omega)]
  · simp [hi]

/-- A register reads what was last written to it. -/
@[simp] theorem State.reg_setReg_self (s : State) (off : Nat) (v : BitVec 64) : (s.setReg off v).reg off = v := by
  simp [State.reg, State.setReg]

/-- Writing a register leaves every other register alone. -/
@[simp] theorem State.reg_setReg_ne (s : State) {a b : Nat} (v : BitVec 64) (h : b ≠ a) :
    (s.setReg a v).reg b = s.reg b := by
  simp [State.reg, State.setReg, h]

/-- A field reads what was last written to it, modulo its width. -/
theorem State.get_put_self (s : State) (f : Fld) (v : Nat) (h : f.lo + f.w ≤ 64) : (s.put f v).get f = v % 2 ^ f.w := by
  simp only [State.get, State.put, State.reg_setReg_self]
  exact bits_insertBits_self _ _ _ _ h

/-- Writing a field leaves the fields of other registers alone. -/
theorem State.get_put_reg (s : State) (f g : Fld) (v : Nat) (h : g.reg ≠ f.reg) : (s.put f v).get g = s.get g := by
  simp only [State.get, State.put, State.reg_setReg_ne _ _ h]

/-- Writing a field leaves the other fields of its register alone. -/
theorem State.get_put_beside (s : State) (f g : Fld) (v : Nat) (hw : f.lo + f.w ≤ 64)
    (h : f.lo + f.w ≤ g.lo ∨ g.lo + g.w ≤ f.lo) : (s.put f v).get g = s.get g := by
  by_cases hr : g.reg = f.reg
  · simp only [State.get, State.put, hr, State.reg_setReg_self]
    exact bits_insertBits_ne _ _ _ _ _ _ hw h
  · exact s.get_put_reg f g v hr

/-- Writing a field leaves every other register alone. -/
theorem State.reg_put_ne (s : State) (f : Fld) (v : Nat) {r : Nat} (h : r ≠ f.reg) : (s.put f v).reg r = s.reg r :=
  State.reg_setReg_ne _ _ h

theorem State.reg_bump_ne (s : State) (f : Fld) (n : Nat) {r : Nat} (h : r ≠ f.reg) : (s.bump f n).reg r = s.reg r :=
  State.reg_setReg_ne _ _ h

/-- A field is smaller than 2 to the power of its width. -/
theorem State.get_lt (s : State) (f : Fld) : s.get f < 2 ^ f.w := Nat.mod_lt _ (Nat.two_pow_pos _)

/-- A counter that is bumped reads its sum, held at its largest value. -/
theorem State.get_bump_self (s : State) (f : Fld) (n : Nat) (h : f.lo + f.w ≤ 64) :
    (s.bump f n).get f = min (2 ^ f.w - 1) (s.get f + n) := by
  have := Nat.two_pow_pos f.w
  rw [State.bump, State.get_put_self _ _ _ h, Nat.mod_eq_of_lt (by omega)]

/-- Records of arrays read what was last written. -/
@[simp] theorem State.queue_setQueue_self (s : State) (q : Nat) (x : Queue) : (s.setQueue q x).queue q = x := by
  simp [State.queue, State.setQueue]

@[simp] theorem State.queue_setQueue_ne (s : State) {q r : Nat} (x : Queue) (h : r ≠ q) :
    (s.setQueue q x).queue r = s.queue r := by
  simp [State.queue, State.setQueue, h]

@[simp] theorem State.allot_setAllot_self (s : State) (a : Nat) (x : Allot) : (s.setAllot a x).allot a = x := by
  simp [State.allot, State.setAllot]

@[simp] theorem State.allot_setAllot_ne (s : State) {a b : Nat} (x : Allot) (h : b ≠ a) :
    (s.setAllot a x).allot b = s.allot b := by
  simp [State.allot, State.setAllot, h]

@[simp] theorem State.core_setCore_self (s : State) (c : Nat) (x : Core) : (s.setCore c x).core c = x := by
  simp [State.core, State.setCore]

@[simp] theorem State.core_setCore_ne (s : State) {c d : Nat} (x : Core) (h : d ≠ c) :
    (s.setCore c x).core d = s.core d := by
  simp [State.core, State.setCore, h]

end Sys2Proof.Machine
end

