-- ==== Sys2Proof/Laws/State.lean ====
section
/-! SUPPORT. What each named update of the state leaves alone: one lemma for each other field, true by `rfl`. -/

namespace Sys2Proof.Machine

/-! ## setReg -/

@[simp] theorem State.setReg_pending (s : State) (off : Nat) (v : BitVec 64) : (s.setReg off v).pending = s.pending := rfl
@[simp] theorem State.setReg_stores (s : State) (off : Nat) (v : BitVec 64) : (s.setReg off v).stores = s.stores := rfl
@[simp] theorem State.setReg_mem (s : State) (off : Nat) (v : BitVec 64) : (s.setReg off v).mem = s.mem := rfl
@[simp] theorem State.setReg_free (s : State) (off : Nat) (v : BitVec 64) : (s.setReg off v).free = s.free := rfl
@[simp] theorem State.setReg_latch (s : State) (off : Nat) (v : BitVec 64) : (s.setReg off v).latch = s.latch := rfl
@[simp] theorem State.setReg_spmCounts (s : State) (off : Nat) (v : BitVec 64) : (s.setReg off v).spmCounts = s.spmCounts := rfl
@[simp] theorem State.setReg_spmLatch (s : State) (off : Nat) (v : BitVec 64) : (s.setReg off v).spmLatch = s.spmLatch := rfl
@[simp] theorem State.setReg_wck (s : State) (off : Nat) (v : BitVec 64) : (s.setReg off v).wck = s.wck := rfl
@[simp] theorem State.setReg_queues (s : State) (off : Nat) (v : BitVec 64) : (s.setReg off v).queues = s.queues := rfl
@[simp] theorem State.setReg_granted (s : State) (off : Nat) (v : BitVec 64) : (s.setReg off v).granted = s.granted := rfl
@[simp] theorem State.setReg_inflight (s : State) (off : Nat) (v : BitVec 64) : (s.setReg off v).inflight = s.inflight := rfl
@[simp] theorem State.setReg_waiting (s : State) (off : Nat) (v : BitVec 64) : (s.setReg off v).waiting = s.waiting := rfl
@[simp] theorem State.setReg_staged (s : State) (off : Nat) (v : BitVec 64) : (s.setReg off v).staged = s.staged := rfl
@[simp] theorem State.setReg_fallowDue (s : State) (off : Nat) (v : BitVec 64) : (s.setReg off v).fallowDue = s.fallowDue := rfl
@[simp] theorem State.setReg_allots (s : State) (off : Nat) (v : BitVec 64) : (s.setReg off v).allots = s.allots := rfl
@[simp] theorem State.setReg_load (s : State) (off : Nat) (v : BitVec 64) : (s.setReg off v).load = s.load := rfl
@[simp] theorem State.setReg_fences (s : State) (off : Nat) (v : BitVec 64) : (s.setReg off v).fences = s.fences := rfl
@[simp] theorem State.setReg_scrubs (s : State) (off : Nat) (v : BitVec 64) : (s.setReg off v).scrubs = s.scrubs := rfl
@[simp] theorem State.setReg_tcache (s : State) (off : Nat) (v : BitVec 64) : (s.setReg off v).tcache = s.tcache := rfl
@[simp] theorem State.setReg_vfEnabled (s : State) (off : Nat) (v : BitVec 64) : (s.setReg off v).vfEnabled = s.vfEnabled := rfl
@[simp] theorem State.setReg_cores (s : State) (off : Nat) (v : BitVec 64) : (s.setReg off v).cores = s.cores := rfl
@[simp] theorem State.setReg_blkTag (s : State) (off : Nat) (v : BitVec 64) : (s.setReg off v).blkTag = s.blkTag := rfl
@[simp] theorem State.setReg_blkCode (s : State) (off : Nat) (v : BitVec 64) : (s.setReg off v).blkCode = s.blkCode := rfl
@[simp] theorem State.setReg_fluUntil (s : State) (off : Nat) (v : BitVec 64) : (s.setReg off v).fluUntil = s.fluUntil := rfl
@[simp] theorem State.setReg_early (s : State) (off : Nat) (v : BitVec 64) : (s.setReg off v).early = s.early := rfl
@[simp] theorem State.setReg_bufSet (s : State) (off : Nat) (v : BitVec 64) : (s.setReg off v).bufSet = s.bufSet := rfl
@[simp] theorem State.setReg_rewriteQ (s : State) (off : Nat) (v : BitVec 64) : (s.setReg off v).rewriteQ = s.rewriteQ := rfl
@[simp] theorem State.setReg_hotStacks (s : State) (off : Nat) (v : BitVec 64) : (s.setReg off v).hotStacks = s.hotStacks := rfl
@[simp] theorem State.setReg_hotDies (s : State) (off : Nat) (v : BitVec 64) : (s.setReg off v).hotDies = s.hotDies := rfl
@[simp] theorem State.setReg_log (s : State) (off : Nat) (v : BitVec 64) : (s.setReg off v).log = s.log := rfl
@[simp] theorem State.setReg_sent (s : State) (off : Nat) (v : BitVec 64) : (s.setReg off v).sent = s.sent := rfl
@[simp] theorem State.setReg_corrLogged (s : State) (off : Nat) (v : BitVec 64) : (s.setReg off v).corrLogged = s.corrLogged := rfl
@[simp] theorem State.setReg_aqds (s : State) (off : Nat) (v : BitVec 64) : (s.setReg off v).aqds = s.aqds := rfl
@[simp] theorem State.setReg_linkSlots (s : State) (off : Nat) (v : BitVec 64) : (s.setReg off v).linkSlots = s.linkSlots := rfl
@[simp] theorem State.setReg_routesNow (s : State) (off : Nat) (v : BitVec 64) : (s.setReg off v).routesNow = s.routesNow := rfl
@[simp] theorem State.setReg_ings (s : State) (off : Nat) (v : BitVec 64) : (s.setReg off v).ings = s.ings := rfl
@[simp] theorem State.setReg_encQ (s : State) (off : Nat) (v : BitVec 64) : (s.setReg off v).encQ = s.encQ := rfl
@[simp] theorem State.setReg_viss (s : State) (off : Nat) (v : BitVec 64) : (s.setReg off v).viss = s.viss := rfl
@[simp] theorem State.setReg_basins (s : State) (off : Nat) (v : BitVec 64) : (s.setReg off v).basins = s.basins := rfl
@[simp] theorem State.setReg_gnss (s : State) (off : Nat) (v : BitVec 64) : (s.setReg off v).gnss = s.gnss := rfl
@[simp] theorem State.setReg_slotMem (s : State) (off : Nat) (v : BitVec 64) : (s.setReg off v).slotMem = s.slotMem := rfl
@[simp] theorem State.setReg_bne (s : State) (off : Nat) (v : BitVec 64) : (s.setReg off v).bne = s.bne := rfl
@[simp] theorem State.setReg_sym (s : State) (off : Nat) (v : BitVec 64) : (s.setReg off v).sym = s.sym := rfl
@[simp] theorem State.setReg_nextSession (s : State) (off : Nat) (v : BitVec 64) : (s.setReg off v).nextSession = s.nextSession := rfl
@[simp] theorem State.setReg_drbg (s : State) (off : Nat) (v : BitVec 64) : (s.setReg off v).drbg = s.drbg := rfl
@[simp] theorem State.setReg_wellStopped (s : State) (off : Nat) (v : BitVec 64) : (s.setReg off v).wellStopped = s.wellStopped := rfl
@[simp] theorem State.setReg_idKey (s : State) (off : Nat) (v : BitVec 64) : (s.setReg off v).idKey = s.idKey := rfl
@[simp] theorem State.setReg_closed (s : State) (off : Nat) (v : BitVec 64) : (s.setReg off v).closed = s.closed := rfl
@[simp] theorem State.setReg_reopens (s : State) (off : Nat) (v : BitVec 64) : (s.setReg off v).reopens = s.reopens := rfl
@[simp] theorem State.setReg_chipSince (s : State) (off : Nat) (v : BitVec 64) : (s.setReg off v).chipSince = s.chipSince := rfl
@[simp] theorem State.setReg_lastSluice (s : State) (off : Nat) (v : BitVec 64) : (s.setReg off v).lastSluice = s.lastSluice := rfl
@[simp] theorem State.setReg_bringingUp (s : State) (off : Nat) (v : BitVec 64) : (s.setReg off v).bringingUp = s.bringingUp := rfl
@[simp] theorem State.setReg_ramps (s : State) (off : Nat) (v : BitVec 64) : (s.setReg off v).ramps = s.ramps := rfl
@[simp] theorem State.setReg_bringup (s : State) (off : Nat) (v : BitVec 64) : (s.setReg off v).bringup = s.bringup := rfl
@[simp] theorem State.setReg_rampStarts (s : State) (off : Nat) (v : BitVec 64) : (s.setReg off v).rampStarts = s.rampStarts := rfl
@[simp] theorem State.setReg_failedUnits (s : State) (off : Nat) (v : BitVec 64) : (s.setReg off v).failedUnits = s.failedUnits := rfl
@[simp] theorem State.setReg_test (s : State) (off : Nat) (v : BitVec 64) : (s.setReg off v).test = s.test := rfl
@[simp] theorem State.setReg_testsWaiting (s : State) (off : Nat) (v : BitVec 64) : (s.setReg off v).testsWaiting = s.testsWaiting := rfl
@[simp] theorem State.setReg_testRuns (s : State) (off : Nat) (v : BitVec 64) : (s.setReg off v).testRuns = s.testRuns := rfl
@[simp] theorem State.setReg_testTurn (s : State) (off : Nat) (v : BitVec 64) : (s.setReg off v).testTurn = s.testTurn := rfl
@[simp] theorem State.setReg_testUnit (s : State) (off : Nat) (v : BitVec 64) : (s.setReg off v).testUnit = s.testUnit := rfl
@[simp] theorem State.setReg_fuseTrim (s : State) (off : Nat) (v : BitVec 64) : (s.setReg off v).fuseTrim = s.fuseTrim := rfl
@[simp] theorem State.setReg_fuseFault (s : State) (off : Nat) (v : BitVec 64) : (s.setReg off v).fuseFault = s.fuseFault := rfl
@[simp] theorem State.setReg_fuseSpm (s : State) (off : Nat) (v : BitVec 64) : (s.setReg off v).fuseSpm = s.fuseSpm := rfl
@[simp] theorem State.setReg_fuseHbm (s : State) (off : Nat) (v : BitVec 64) : (s.setReg off v).fuseHbm = s.fuseHbm := rfl
@[simp] theorem State.setReg_vsel (s : State) (off : Nat) (v : BitVec 64) : (s.setReg off v).vsel = s.vsel := rfl
@[simp] theorem State.setReg_pinRecs (s : State) (off : Nat) (v : BitVec 64) : (s.setReg off v).pinRecs = s.pinRecs := rfl
@[simp] theorem State.setReg_i2cs (s : State) (off : Nat) (v : BitVec 64) : (s.setReg off v).i2cs = s.i2cs := rfl
@[simp] theorem State.setReg_gau (s : State) (off : Nat) (v : BitVec 64) : (s.setReg off v).gau = s.gau := rfl
@[simp] theorem State.setReg_strobes (s : State) (off : Nat) (v : BitVec 64) : (s.setReg off v).strobes = s.strobes := rfl
@[simp] theorem State.setReg_strobeHigh (s : State) (off : Nat) (v : BitVec 64) : (s.setReg off v).strobeHigh = s.strobeHigh := rfl
@[simp] theorem State.setReg_pinRaw (s : State) (off : Nat) (v : BitVec 64) : (s.setReg off v).pinRaw = s.pinRaw := rfl
@[simp] theorem State.setReg_pinSince (s : State) (off : Nat) (v : BitVec 64) : (s.setReg off v).pinSince = s.pinSince := rfl
@[simp] theorem State.setReg_prevLength (s : State) (off : Nat) (v : BitVec 64) : (s.setReg off v).prevLength = s.prevLength := rfl
@[simp] theorem State.setReg_prevHz (s : State) (off : Nat) (v : BitVec 64) : (s.setReg off v).prevHz = s.prevHz := rfl
@[simp] theorem State.setReg_prevTurn (s : State) (off : Nat) (v : BitVec 64) : (s.setReg off v).prevTurn = s.prevTurn := rfl
@[simp] theorem State.setReg_ppsHigh (s : State) (off : Nat) (v : BitVec 64) : (s.setReg off v).ppsHigh = s.ppsHigh := rfl
@[simp] theorem State.setReg_ppsDue (s : State) (off : Nat) (v : BitVec 64) : (s.setReg off v).ppsDue = s.ppsDue := rfl
@[simp] theorem State.setReg_perst (s : State) (off : Nat) (v : BitVec 64) : (s.setReg off v).perst = s.perst := rfl
@[simp] theorem State.setReg_tripped (s : State) (off : Nat) (v : BitVec 64) : (s.setReg off v).tripped = s.tripped := rfl
@[simp] theorem State.setReg_walkerOnce (s : State) (off : Nat) (v : BitVec 64) : (s.setReg off v).walkerOnce = s.walkerOnce := rfl
@[simp] theorem State.setReg_powerGood (s : State) (off : Nat) (v : BitVec 64) : (s.setReg off v).powerGood = s.powerGood := rfl
@[simp] theorem State.setReg_jtagIr (s : State) (off : Nat) (v : BitVec 64) : (s.setReg off v).jtagIr = s.jtagIr := rfl
@[simp] theorem State.setReg_boundary (s : State) (off : Nat) (v : BitVec 64) : (s.setReg off v).boundary = s.boundary := rfl
@[simp] theorem State.queue_setReg (s : State) (off : Nat) (v : BitVec 64) (q2 : Nat) : (s.setReg off v).queue q2 = s.queue q2 := rfl
@[simp] theorem State.allot_setReg (s : State) (off : Nat) (v : BitVec 64) (a2 : Nat) : (s.setReg off v).allot a2 = s.allot a2 := rfl
@[simp] theorem State.core_setReg (s : State) (off : Nat) (v : BitVec 64) (c2 : Nat) : (s.setReg off v).core c2 = s.core c2 := rfl
@[simp] theorem State.rd_setReg (s : State) (off : Nat) (v : BitVec 64) (a2 : Nat) : (s.setReg off v).rd a2 = s.rd a2 := rfl

/-! ## put -/

@[simp] theorem State.put_pending (s : State) (f : Fld) (v : Nat) : (s.put f v).pending = s.pending := rfl
@[simp] theorem State.put_stores (s : State) (f : Fld) (v : Nat) : (s.put f v).stores = s.stores := rfl
@[simp] theorem State.put_mem (s : State) (f : Fld) (v : Nat) : (s.put f v).mem = s.mem := rfl
@[simp] theorem State.put_free (s : State) (f : Fld) (v : Nat) : (s.put f v).free = s.free := rfl
@[simp] theorem State.put_latch (s : State) (f : Fld) (v : Nat) : (s.put f v).latch = s.latch := rfl
@[simp] theorem State.put_spmCounts (s : State) (f : Fld) (v : Nat) : (s.put f v).spmCounts = s.spmCounts := rfl
@[simp] theorem State.put_spmLatch (s : State) (f : Fld) (v : Nat) : (s.put f v).spmLatch = s.spmLatch := rfl
@[simp] theorem State.put_wck (s : State) (f : Fld) (v : Nat) : (s.put f v).wck = s.wck := rfl
@[simp] theorem State.put_queues (s : State) (f : Fld) (v : Nat) : (s.put f v).queues = s.queues := rfl
@[simp] theorem State.put_granted (s : State) (f : Fld) (v : Nat) : (s.put f v).granted = s.granted := rfl
@[simp] theorem State.put_inflight (s : State) (f : Fld) (v : Nat) : (s.put f v).inflight = s.inflight := rfl
@[simp] theorem State.put_waiting (s : State) (f : Fld) (v : Nat) : (s.put f v).waiting = s.waiting := rfl
@[simp] theorem State.put_staged (s : State) (f : Fld) (v : Nat) : (s.put f v).staged = s.staged := rfl
@[simp] theorem State.put_fallowDue (s : State) (f : Fld) (v : Nat) : (s.put f v).fallowDue = s.fallowDue := rfl
@[simp] theorem State.put_allots (s : State) (f : Fld) (v : Nat) : (s.put f v).allots = s.allots := rfl
@[simp] theorem State.put_load (s : State) (f : Fld) (v : Nat) : (s.put f v).load = s.load := rfl
@[simp] theorem State.put_fences (s : State) (f : Fld) (v : Nat) : (s.put f v).fences = s.fences := rfl
@[simp] theorem State.put_scrubs (s : State) (f : Fld) (v : Nat) : (s.put f v).scrubs = s.scrubs := rfl
@[simp] theorem State.put_tcache (s : State) (f : Fld) (v : Nat) : (s.put f v).tcache = s.tcache := rfl
@[simp] theorem State.put_vfEnabled (s : State) (f : Fld) (v : Nat) : (s.put f v).vfEnabled = s.vfEnabled := rfl
@[simp] theorem State.put_cores (s : State) (f : Fld) (v : Nat) : (s.put f v).cores = s.cores := rfl
@[simp] theorem State.put_blkTag (s : State) (f : Fld) (v : Nat) : (s.put f v).blkTag = s.blkTag := rfl
@[simp] theorem State.put_blkCode (s : State) (f : Fld) (v : Nat) : (s.put f v).blkCode = s.blkCode := rfl
@[simp] theorem State.put_fluUntil (s : State) (f : Fld) (v : Nat) : (s.put f v).fluUntil = s.fluUntil := rfl
@[simp] theorem State.put_early (s : State) (f : Fld) (v : Nat) : (s.put f v).early = s.early := rfl
@[simp] theorem State.put_bufSet (s : State) (f : Fld) (v : Nat) : (s.put f v).bufSet = s.bufSet := rfl
@[simp] theorem State.put_rewriteQ (s : State) (f : Fld) (v : Nat) : (s.put f v).rewriteQ = s.rewriteQ := rfl
@[simp] theorem State.put_hotStacks (s : State) (f : Fld) (v : Nat) : (s.put f v).hotStacks = s.hotStacks := rfl
@[simp] theorem State.put_hotDies (s : State) (f : Fld) (v : Nat) : (s.put f v).hotDies = s.hotDies := rfl
@[simp] theorem State.put_log (s : State) (f : Fld) (v : Nat) : (s.put f v).log = s.log := rfl
@[simp] theorem State.put_sent (s : State) (f : Fld) (v : Nat) : (s.put f v).sent = s.sent := rfl
@[simp] theorem State.put_corrLogged (s : State) (f : Fld) (v : Nat) : (s.put f v).corrLogged = s.corrLogged := rfl
@[simp] theorem State.put_aqds (s : State) (f : Fld) (v : Nat) : (s.put f v).aqds = s.aqds := rfl
@[simp] theorem State.put_linkSlots (s : State) (f : Fld) (v : Nat) : (s.put f v).linkSlots = s.linkSlots := rfl
@[simp] theorem State.put_routesNow (s : State) (f : Fld) (v : Nat) : (s.put f v).routesNow = s.routesNow := rfl
@[simp] theorem State.put_ings (s : State) (f : Fld) (v : Nat) : (s.put f v).ings = s.ings := rfl
@[simp] theorem State.put_encQ (s : State) (f : Fld) (v : Nat) : (s.put f v).encQ = s.encQ := rfl
@[simp] theorem State.put_viss (s : State) (f : Fld) (v : Nat) : (s.put f v).viss = s.viss := rfl
@[simp] theorem State.put_basins (s : State) (f : Fld) (v : Nat) : (s.put f v).basins = s.basins := rfl
@[simp] theorem State.put_gnss (s : State) (f : Fld) (v : Nat) : (s.put f v).gnss = s.gnss := rfl
@[simp] theorem State.put_slotMem (s : State) (f : Fld) (v : Nat) : (s.put f v).slotMem = s.slotMem := rfl
@[simp] theorem State.put_bne (s : State) (f : Fld) (v : Nat) : (s.put f v).bne = s.bne := rfl
@[simp] theorem State.put_sym (s : State) (f : Fld) (v : Nat) : (s.put f v).sym = s.sym := rfl
@[simp] theorem State.put_nextSession (s : State) (f : Fld) (v : Nat) : (s.put f v).nextSession = s.nextSession := rfl
@[simp] theorem State.put_drbg (s : State) (f : Fld) (v : Nat) : (s.put f v).drbg = s.drbg := rfl
@[simp] theorem State.put_wellStopped (s : State) (f : Fld) (v : Nat) : (s.put f v).wellStopped = s.wellStopped := rfl
@[simp] theorem State.put_idKey (s : State) (f : Fld) (v : Nat) : (s.put f v).idKey = s.idKey := rfl
@[simp] theorem State.put_closed (s : State) (f : Fld) (v : Nat) : (s.put f v).closed = s.closed := rfl
@[simp] theorem State.put_reopens (s : State) (f : Fld) (v : Nat) : (s.put f v).reopens = s.reopens := rfl
@[simp] theorem State.put_chipSince (s : State) (f : Fld) (v : Nat) : (s.put f v).chipSince = s.chipSince := rfl
@[simp] theorem State.put_lastSluice (s : State) (f : Fld) (v : Nat) : (s.put f v).lastSluice = s.lastSluice := rfl
@[simp] theorem State.put_bringingUp (s : State) (f : Fld) (v : Nat) : (s.put f v).bringingUp = s.bringingUp := rfl
@[simp] theorem State.put_ramps (s : State) (f : Fld) (v : Nat) : (s.put f v).ramps = s.ramps := rfl
@[simp] theorem State.put_bringup (s : State) (f : Fld) (v : Nat) : (s.put f v).bringup = s.bringup := rfl
@[simp] theorem State.put_rampStarts (s : State) (f : Fld) (v : Nat) : (s.put f v).rampStarts = s.rampStarts := rfl
@[simp] theorem State.put_failedUnits (s : State) (f : Fld) (v : Nat) : (s.put f v).failedUnits = s.failedUnits := rfl
@[simp] theorem State.put_test (s : State) (f : Fld) (v : Nat) : (s.put f v).test = s.test := rfl
@[simp] theorem State.put_testsWaiting (s : State) (f : Fld) (v : Nat) : (s.put f v).testsWaiting = s.testsWaiting := rfl
@[simp] theorem State.put_testRuns (s : State) (f : Fld) (v : Nat) : (s.put f v).testRuns = s.testRuns := rfl
@[simp] theorem State.put_testTurn (s : State) (f : Fld) (v : Nat) : (s.put f v).testTurn = s.testTurn := rfl
@[simp] theorem State.put_testUnit (s : State) (f : Fld) (v : Nat) : (s.put f v).testUnit = s.testUnit := rfl
@[simp] theorem State.put_fuseTrim (s : State) (f : Fld) (v : Nat) : (s.put f v).fuseTrim = s.fuseTrim := rfl
@[simp] theorem State.put_fuseFault (s : State) (f : Fld) (v : Nat) : (s.put f v).fuseFault = s.fuseFault := rfl
@[simp] theorem State.put_fuseSpm (s : State) (f : Fld) (v : Nat) : (s.put f v).fuseSpm = s.fuseSpm := rfl
@[simp] theorem State.put_fuseHbm (s : State) (f : Fld) (v : Nat) : (s.put f v).fuseHbm = s.fuseHbm := rfl
@[simp] theorem State.put_vsel (s : State) (f : Fld) (v : Nat) : (s.put f v).vsel = s.vsel := rfl
@[simp] theorem State.put_pinRecs (s : State) (f : Fld) (v : Nat) : (s.put f v).pinRecs = s.pinRecs := rfl
@[simp] theorem State.put_i2cs (s : State) (f : Fld) (v : Nat) : (s.put f v).i2cs = s.i2cs := rfl
@[simp] theorem State.put_gau (s : State) (f : Fld) (v : Nat) : (s.put f v).gau = s.gau := rfl
@[simp] theorem State.put_strobes (s : State) (f : Fld) (v : Nat) : (s.put f v).strobes = s.strobes := rfl
@[simp] theorem State.put_strobeHigh (s : State) (f : Fld) (v : Nat) : (s.put f v).strobeHigh = s.strobeHigh := rfl
@[simp] theorem State.put_pinRaw (s : State) (f : Fld) (v : Nat) : (s.put f v).pinRaw = s.pinRaw := rfl
@[simp] theorem State.put_pinSince (s : State) (f : Fld) (v : Nat) : (s.put f v).pinSince = s.pinSince := rfl
@[simp] theorem State.put_prevLength (s : State) (f : Fld) (v : Nat) : (s.put f v).prevLength = s.prevLength := rfl
@[simp] theorem State.put_prevHz (s : State) (f : Fld) (v : Nat) : (s.put f v).prevHz = s.prevHz := rfl
@[simp] theorem State.put_prevTurn (s : State) (f : Fld) (v : Nat) : (s.put f v).prevTurn = s.prevTurn := rfl
@[simp] theorem State.put_ppsHigh (s : State) (f : Fld) (v : Nat) : (s.put f v).ppsHigh = s.ppsHigh := rfl
@[simp] theorem State.put_ppsDue (s : State) (f : Fld) (v : Nat) : (s.put f v).ppsDue = s.ppsDue := rfl
@[simp] theorem State.put_perst (s : State) (f : Fld) (v : Nat) : (s.put f v).perst = s.perst := rfl
@[simp] theorem State.put_tripped (s : State) (f : Fld) (v : Nat) : (s.put f v).tripped = s.tripped := rfl
@[simp] theorem State.put_walkerOnce (s : State) (f : Fld) (v : Nat) : (s.put f v).walkerOnce = s.walkerOnce := rfl
@[simp] theorem State.put_powerGood (s : State) (f : Fld) (v : Nat) : (s.put f v).powerGood = s.powerGood := rfl
@[simp] theorem State.put_jtagIr (s : State) (f : Fld) (v : Nat) : (s.put f v).jtagIr = s.jtagIr := rfl
@[simp] theorem State.put_boundary (s : State) (f : Fld) (v : Nat) : (s.put f v).boundary = s.boundary := rfl
@[simp] theorem State.queue_put (s : State) (f : Fld) (v : Nat) (q2 : Nat) : (s.put f v).queue q2 = s.queue q2 := rfl
@[simp] theorem State.allot_put (s : State) (f : Fld) (v : Nat) (a2 : Nat) : (s.put f v).allot a2 = s.allot a2 := rfl
@[simp] theorem State.core_put (s : State) (f : Fld) (v : Nat) (c2 : Nat) : (s.put f v).core c2 = s.core c2 := rfl
@[simp] theorem State.rd_put (s : State) (f : Fld) (v : Nat) (a2 : Nat) : (s.put f v).rd a2 = s.rd a2 := rfl

/-! ## bump -/

@[simp] theorem State.bump_pending (s : State) (f : Fld) (n : Nat) : (s.bump f n).pending = s.pending := rfl
@[simp] theorem State.bump_stores (s : State) (f : Fld) (n : Nat) : (s.bump f n).stores = s.stores := rfl
@[simp] theorem State.bump_mem (s : State) (f : Fld) (n : Nat) : (s.bump f n).mem = s.mem := rfl
@[simp] theorem State.bump_free (s : State) (f : Fld) (n : Nat) : (s.bump f n).free = s.free := rfl
@[simp] theorem State.bump_latch (s : State) (f : Fld) (n : Nat) : (s.bump f n).latch = s.latch := rfl
@[simp] theorem State.bump_spmCounts (s : State) (f : Fld) (n : Nat) : (s.bump f n).spmCounts = s.spmCounts := rfl
@[simp] theorem State.bump_spmLatch (s : State) (f : Fld) (n : Nat) : (s.bump f n).spmLatch = s.spmLatch := rfl
@[simp] theorem State.bump_wck (s : State) (f : Fld) (n : Nat) : (s.bump f n).wck = s.wck := rfl
@[simp] theorem State.bump_queues (s : State) (f : Fld) (n : Nat) : (s.bump f n).queues = s.queues := rfl
@[simp] theorem State.bump_granted (s : State) (f : Fld) (n : Nat) : (s.bump f n).granted = s.granted := rfl
@[simp] theorem State.bump_inflight (s : State) (f : Fld) (n : Nat) : (s.bump f n).inflight = s.inflight := rfl
@[simp] theorem State.bump_waiting (s : State) (f : Fld) (n : Nat) : (s.bump f n).waiting = s.waiting := rfl
@[simp] theorem State.bump_staged (s : State) (f : Fld) (n : Nat) : (s.bump f n).staged = s.staged := rfl
@[simp] theorem State.bump_fallowDue (s : State) (f : Fld) (n : Nat) : (s.bump f n).fallowDue = s.fallowDue := rfl
@[simp] theorem State.bump_allots (s : State) (f : Fld) (n : Nat) : (s.bump f n).allots = s.allots := rfl
@[simp] theorem State.bump_load (s : State) (f : Fld) (n : Nat) : (s.bump f n).load = s.load := rfl
@[simp] theorem State.bump_fences (s : State) (f : Fld) (n : Nat) : (s.bump f n).fences = s.fences := rfl
@[simp] theorem State.bump_scrubs (s : State) (f : Fld) (n : Nat) : (s.bump f n).scrubs = s.scrubs := rfl
@[simp] theorem State.bump_tcache (s : State) (f : Fld) (n : Nat) : (s.bump f n).tcache = s.tcache := rfl
@[simp] theorem State.bump_vfEnabled (s : State) (f : Fld) (n : Nat) : (s.bump f n).vfEnabled = s.vfEnabled := rfl
@[simp] theorem State.bump_cores (s : State) (f : Fld) (n : Nat) : (s.bump f n).cores = s.cores := rfl
@[simp] theorem State.bump_blkTag (s : State) (f : Fld) (n : Nat) : (s.bump f n).blkTag = s.blkTag := rfl
@[simp] theorem State.bump_blkCode (s : State) (f : Fld) (n : Nat) : (s.bump f n).blkCode = s.blkCode := rfl
@[simp] theorem State.bump_fluUntil (s : State) (f : Fld) (n : Nat) : (s.bump f n).fluUntil = s.fluUntil := rfl
@[simp] theorem State.bump_early (s : State) (f : Fld) (n : Nat) : (s.bump f n).early = s.early := rfl
@[simp] theorem State.bump_bufSet (s : State) (f : Fld) (n : Nat) : (s.bump f n).bufSet = s.bufSet := rfl
@[simp] theorem State.bump_rewriteQ (s : State) (f : Fld) (n : Nat) : (s.bump f n).rewriteQ = s.rewriteQ := rfl
@[simp] theorem State.bump_hotStacks (s : State) (f : Fld) (n : Nat) : (s.bump f n).hotStacks = s.hotStacks := rfl
@[simp] theorem State.bump_hotDies (s : State) (f : Fld) (n : Nat) : (s.bump f n).hotDies = s.hotDies := rfl
@[simp] theorem State.bump_log (s : State) (f : Fld) (n : Nat) : (s.bump f n).log = s.log := rfl
@[simp] theorem State.bump_sent (s : State) (f : Fld) (n : Nat) : (s.bump f n).sent = s.sent := rfl
@[simp] theorem State.bump_corrLogged (s : State) (f : Fld) (n : Nat) : (s.bump f n).corrLogged = s.corrLogged := rfl
@[simp] theorem State.bump_aqds (s : State) (f : Fld) (n : Nat) : (s.bump f n).aqds = s.aqds := rfl
@[simp] theorem State.bump_linkSlots (s : State) (f : Fld) (n : Nat) : (s.bump f n).linkSlots = s.linkSlots := rfl
@[simp] theorem State.bump_routesNow (s : State) (f : Fld) (n : Nat) : (s.bump f n).routesNow = s.routesNow := rfl
@[simp] theorem State.bump_ings (s : State) (f : Fld) (n : Nat) : (s.bump f n).ings = s.ings := rfl
@[simp] theorem State.bump_encQ (s : State) (f : Fld) (n : Nat) : (s.bump f n).encQ = s.encQ := rfl
@[simp] theorem State.bump_viss (s : State) (f : Fld) (n : Nat) : (s.bump f n).viss = s.viss := rfl
@[simp] theorem State.bump_basins (s : State) (f : Fld) (n : Nat) : (s.bump f n).basins = s.basins := rfl
@[simp] theorem State.bump_gnss (s : State) (f : Fld) (n : Nat) : (s.bump f n).gnss = s.gnss := rfl
@[simp] theorem State.bump_slotMem (s : State) (f : Fld) (n : Nat) : (s.bump f n).slotMem = s.slotMem := rfl
@[simp] theorem State.bump_bne (s : State) (f : Fld) (n : Nat) : (s.bump f n).bne = s.bne := rfl
@[simp] theorem State.bump_sym (s : State) (f : Fld) (n : Nat) : (s.bump f n).sym = s.sym := rfl
@[simp] theorem State.bump_nextSession (s : State) (f : Fld) (n : Nat) : (s.bump f n).nextSession = s.nextSession := rfl
@[simp] theorem State.bump_drbg (s : State) (f : Fld) (n : Nat) : (s.bump f n).drbg = s.drbg := rfl
@[simp] theorem State.bump_wellStopped (s : State) (f : Fld) (n : Nat) : (s.bump f n).wellStopped = s.wellStopped := rfl
@[simp] theorem State.bump_idKey (s : State) (f : Fld) (n : Nat) : (s.bump f n).idKey = s.idKey := rfl
@[simp] theorem State.bump_closed (s : State) (f : Fld) (n : Nat) : (s.bump f n).closed = s.closed := rfl
@[simp] theorem State.bump_reopens (s : State) (f : Fld) (n : Nat) : (s.bump f n).reopens = s.reopens := rfl
@[simp] theorem State.bump_chipSince (s : State) (f : Fld) (n : Nat) : (s.bump f n).chipSince = s.chipSince := rfl
@[simp] theorem State.bump_lastSluice (s : State) (f : Fld) (n : Nat) : (s.bump f n).lastSluice = s.lastSluice := rfl
@[simp] theorem State.bump_bringingUp (s : State) (f : Fld) (n : Nat) : (s.bump f n).bringingUp = s.bringingUp := rfl
@[simp] theorem State.bump_ramps (s : State) (f : Fld) (n : Nat) : (s.bump f n).ramps = s.ramps := rfl
@[simp] theorem State.bump_bringup (s : State) (f : Fld) (n : Nat) : (s.bump f n).bringup = s.bringup := rfl
@[simp] theorem State.bump_rampStarts (s : State) (f : Fld) (n : Nat) : (s.bump f n).rampStarts = s.rampStarts := rfl
@[simp] theorem State.bump_failedUnits (s : State) (f : Fld) (n : Nat) : (s.bump f n).failedUnits = s.failedUnits := rfl
@[simp] theorem State.bump_test (s : State) (f : Fld) (n : Nat) : (s.bump f n).test = s.test := rfl
@[simp] theorem State.bump_testsWaiting (s : State) (f : Fld) (n : Nat) : (s.bump f n).testsWaiting = s.testsWaiting := rfl
@[simp] theorem State.bump_testRuns (s : State) (f : Fld) (n : Nat) : (s.bump f n).testRuns = s.testRuns := rfl
@[simp] theorem State.bump_testTurn (s : State) (f : Fld) (n : Nat) : (s.bump f n).testTurn = s.testTurn := rfl
@[simp] theorem State.bump_testUnit (s : State) (f : Fld) (n : Nat) : (s.bump f n).testUnit = s.testUnit := rfl
@[simp] theorem State.bump_fuseTrim (s : State) (f : Fld) (n : Nat) : (s.bump f n).fuseTrim = s.fuseTrim := rfl
@[simp] theorem State.bump_fuseFault (s : State) (f : Fld) (n : Nat) : (s.bump f n).fuseFault = s.fuseFault := rfl
@[simp] theorem State.bump_fuseSpm (s : State) (f : Fld) (n : Nat) : (s.bump f n).fuseSpm = s.fuseSpm := rfl
@[simp] theorem State.bump_fuseHbm (s : State) (f : Fld) (n : Nat) : (s.bump f n).fuseHbm = s.fuseHbm := rfl
@[simp] theorem State.bump_vsel (s : State) (f : Fld) (n : Nat) : (s.bump f n).vsel = s.vsel := rfl
@[simp] theorem State.bump_pinRecs (s : State) (f : Fld) (n : Nat) : (s.bump f n).pinRecs = s.pinRecs := rfl
@[simp] theorem State.bump_i2cs (s : State) (f : Fld) (n : Nat) : (s.bump f n).i2cs = s.i2cs := rfl
@[simp] theorem State.bump_gau (s : State) (f : Fld) (n : Nat) : (s.bump f n).gau = s.gau := rfl
@[simp] theorem State.bump_strobes (s : State) (f : Fld) (n : Nat) : (s.bump f n).strobes = s.strobes := rfl
@[simp] theorem State.bump_strobeHigh (s : State) (f : Fld) (n : Nat) : (s.bump f n).strobeHigh = s.strobeHigh := rfl
@[simp] theorem State.bump_pinRaw (s : State) (f : Fld) (n : Nat) : (s.bump f n).pinRaw = s.pinRaw := rfl
@[simp] theorem State.bump_pinSince (s : State) (f : Fld) (n : Nat) : (s.bump f n).pinSince = s.pinSince := rfl
@[simp] theorem State.bump_prevLength (s : State) (f : Fld) (n : Nat) : (s.bump f n).prevLength = s.prevLength := rfl
@[simp] theorem State.bump_prevHz (s : State) (f : Fld) (n : Nat) : (s.bump f n).prevHz = s.prevHz := rfl
@[simp] theorem State.bump_prevTurn (s : State) (f : Fld) (n : Nat) : (s.bump f n).prevTurn = s.prevTurn := rfl
@[simp] theorem State.bump_ppsHigh (s : State) (f : Fld) (n : Nat) : (s.bump f n).ppsHigh = s.ppsHigh := rfl
@[simp] theorem State.bump_ppsDue (s : State) (f : Fld) (n : Nat) : (s.bump f n).ppsDue = s.ppsDue := rfl
@[simp] theorem State.bump_perst (s : State) (f : Fld) (n : Nat) : (s.bump f n).perst = s.perst := rfl
@[simp] theorem State.bump_tripped (s : State) (f : Fld) (n : Nat) : (s.bump f n).tripped = s.tripped := rfl
@[simp] theorem State.bump_walkerOnce (s : State) (f : Fld) (n : Nat) : (s.bump f n).walkerOnce = s.walkerOnce := rfl
@[simp] theorem State.bump_powerGood (s : State) (f : Fld) (n : Nat) : (s.bump f n).powerGood = s.powerGood := rfl
@[simp] theorem State.bump_jtagIr (s : State) (f : Fld) (n : Nat) : (s.bump f n).jtagIr = s.jtagIr := rfl
@[simp] theorem State.bump_boundary (s : State) (f : Fld) (n : Nat) : (s.bump f n).boundary = s.boundary := rfl
@[simp] theorem State.queue_bump (s : State) (f : Fld) (n : Nat) (q2 : Nat) : (s.bump f n).queue q2 = s.queue q2 := rfl
@[simp] theorem State.allot_bump (s : State) (f : Fld) (n : Nat) (a2 : Nat) : (s.bump f n).allot a2 = s.allot a2 := rfl
@[simp] theorem State.core_bump (s : State) (f : Fld) (n : Nat) (c2 : Nat) : (s.bump f n).core c2 = s.core c2 := rfl
@[simp] theorem State.rd_bump (s : State) (f : Fld) (n : Nat) (a2 : Nat) : (s.bump f n).rd a2 = s.rd a2 := rfl

/-! ## setQueue -/

@[simp] theorem State.setQueue_pending (s : State) (q : Nat) (x : Queue) : (s.setQueue q x).pending = s.pending := rfl
@[simp] theorem State.setQueue_stores (s : State) (q : Nat) (x : Queue) : (s.setQueue q x).stores = s.stores := rfl
@[simp] theorem State.setQueue_mem (s : State) (q : Nat) (x : Queue) : (s.setQueue q x).mem = s.mem := rfl
@[simp] theorem State.setQueue_free (s : State) (q : Nat) (x : Queue) : (s.setQueue q x).free = s.free := rfl
@[simp] theorem State.setQueue_regs (s : State) (q : Nat) (x : Queue) : (s.setQueue q x).regs = s.regs := rfl
@[simp] theorem State.setQueue_latch (s : State) (q : Nat) (x : Queue) : (s.setQueue q x).latch = s.latch := rfl
@[simp] theorem State.setQueue_spmCounts (s : State) (q : Nat) (x : Queue) : (s.setQueue q x).spmCounts = s.spmCounts := rfl
@[simp] theorem State.setQueue_spmLatch (s : State) (q : Nat) (x : Queue) : (s.setQueue q x).spmLatch = s.spmLatch := rfl
@[simp] theorem State.setQueue_wck (s : State) (q : Nat) (x : Queue) : (s.setQueue q x).wck = s.wck := rfl
@[simp] theorem State.setQueue_granted (s : State) (q : Nat) (x : Queue) : (s.setQueue q x).granted = s.granted := rfl
@[simp] theorem State.setQueue_inflight (s : State) (q : Nat) (x : Queue) : (s.setQueue q x).inflight = s.inflight := rfl
@[simp] theorem State.setQueue_waiting (s : State) (q : Nat) (x : Queue) : (s.setQueue q x).waiting = s.waiting := rfl
@[simp] theorem State.setQueue_staged (s : State) (q : Nat) (x : Queue) : (s.setQueue q x).staged = s.staged := rfl
@[simp] theorem State.setQueue_fallowDue (s : State) (q : Nat) (x : Queue) : (s.setQueue q x).fallowDue = s.fallowDue := rfl
@[simp] theorem State.setQueue_allots (s : State) (q : Nat) (x : Queue) : (s.setQueue q x).allots = s.allots := rfl
@[simp] theorem State.setQueue_load (s : State) (q : Nat) (x : Queue) : (s.setQueue q x).load = s.load := rfl
@[simp] theorem State.setQueue_fences (s : State) (q : Nat) (x : Queue) : (s.setQueue q x).fences = s.fences := rfl
@[simp] theorem State.setQueue_scrubs (s : State) (q : Nat) (x : Queue) : (s.setQueue q x).scrubs = s.scrubs := rfl
@[simp] theorem State.setQueue_tcache (s : State) (q : Nat) (x : Queue) : (s.setQueue q x).tcache = s.tcache := rfl
@[simp] theorem State.setQueue_vfEnabled (s : State) (q : Nat) (x : Queue) : (s.setQueue q x).vfEnabled = s.vfEnabled := rfl
@[simp] theorem State.setQueue_cores (s : State) (q : Nat) (x : Queue) : (s.setQueue q x).cores = s.cores := rfl
@[simp] theorem State.setQueue_blkTag (s : State) (q : Nat) (x : Queue) : (s.setQueue q x).blkTag = s.blkTag := rfl
@[simp] theorem State.setQueue_blkCode (s : State) (q : Nat) (x : Queue) : (s.setQueue q x).blkCode = s.blkCode := rfl
@[simp] theorem State.setQueue_fluUntil (s : State) (q : Nat) (x : Queue) : (s.setQueue q x).fluUntil = s.fluUntil := rfl
@[simp] theorem State.setQueue_early (s : State) (q : Nat) (x : Queue) : (s.setQueue q x).early = s.early := rfl
@[simp] theorem State.setQueue_bufSet (s : State) (q : Nat) (x : Queue) : (s.setQueue q x).bufSet = s.bufSet := rfl
@[simp] theorem State.setQueue_rewriteQ (s : State) (q : Nat) (x : Queue) : (s.setQueue q x).rewriteQ = s.rewriteQ := rfl
@[simp] theorem State.setQueue_hotStacks (s : State) (q : Nat) (x : Queue) : (s.setQueue q x).hotStacks = s.hotStacks := rfl
@[simp] theorem State.setQueue_hotDies (s : State) (q : Nat) (x : Queue) : (s.setQueue q x).hotDies = s.hotDies := rfl
@[simp] theorem State.setQueue_log (s : State) (q : Nat) (x : Queue) : (s.setQueue q x).log = s.log := rfl
@[simp] theorem State.setQueue_sent (s : State) (q : Nat) (x : Queue) : (s.setQueue q x).sent = s.sent := rfl
@[simp] theorem State.setQueue_corrLogged (s : State) (q : Nat) (x : Queue) : (s.setQueue q x).corrLogged = s.corrLogged := rfl
@[simp] theorem State.setQueue_aqds (s : State) (q : Nat) (x : Queue) : (s.setQueue q x).aqds = s.aqds := rfl
@[simp] theorem State.setQueue_linkSlots (s : State) (q : Nat) (x : Queue) : (s.setQueue q x).linkSlots = s.linkSlots := rfl
@[simp] theorem State.setQueue_routesNow (s : State) (q : Nat) (x : Queue) : (s.setQueue q x).routesNow = s.routesNow := rfl
@[simp] theorem State.setQueue_ings (s : State) (q : Nat) (x : Queue) : (s.setQueue q x).ings = s.ings := rfl
@[simp] theorem State.setQueue_encQ (s : State) (q : Nat) (x : Queue) : (s.setQueue q x).encQ = s.encQ := rfl
@[simp] theorem State.setQueue_viss (s : State) (q : Nat) (x : Queue) : (s.setQueue q x).viss = s.viss := rfl
@[simp] theorem State.setQueue_basins (s : State) (q : Nat) (x : Queue) : (s.setQueue q x).basins = s.basins := rfl
@[simp] theorem State.setQueue_gnss (s : State) (q : Nat) (x : Queue) : (s.setQueue q x).gnss = s.gnss := rfl
@[simp] theorem State.setQueue_slotMem (s : State) (q : Nat) (x : Queue) : (s.setQueue q x).slotMem = s.slotMem := rfl
@[simp] theorem State.setQueue_bne (s : State) (q : Nat) (x : Queue) : (s.setQueue q x).bne = s.bne := rfl
@[simp] theorem State.setQueue_sym (s : State) (q : Nat) (x : Queue) : (s.setQueue q x).sym = s.sym := rfl
@[simp] theorem State.setQueue_nextSession (s : State) (q : Nat) (x : Queue) : (s.setQueue q x).nextSession = s.nextSession := rfl
@[simp] theorem State.setQueue_drbg (s : State) (q : Nat) (x : Queue) : (s.setQueue q x).drbg = s.drbg := rfl
@[simp] theorem State.setQueue_wellStopped (s : State) (q : Nat) (x : Queue) : (s.setQueue q x).wellStopped = s.wellStopped := rfl
@[simp] theorem State.setQueue_idKey (s : State) (q : Nat) (x : Queue) : (s.setQueue q x).idKey = s.idKey := rfl
@[simp] theorem State.setQueue_closed (s : State) (q : Nat) (x : Queue) : (s.setQueue q x).closed = s.closed := rfl
@[simp] theorem State.setQueue_reopens (s : State) (q : Nat) (x : Queue) : (s.setQueue q x).reopens = s.reopens := rfl
@[simp] theorem State.setQueue_chipSince (s : State) (q : Nat) (x : Queue) : (s.setQueue q x).chipSince = s.chipSince := rfl
@[simp] theorem State.setQueue_lastSluice (s : State) (q : Nat) (x : Queue) : (s.setQueue q x).lastSluice = s.lastSluice := rfl
@[simp] theorem State.setQueue_bringingUp (s : State) (q : Nat) (x : Queue) : (s.setQueue q x).bringingUp = s.bringingUp := rfl
@[simp] theorem State.setQueue_ramps (s : State) (q : Nat) (x : Queue) : (s.setQueue q x).ramps = s.ramps := rfl
@[simp] theorem State.setQueue_bringup (s : State) (q : Nat) (x : Queue) : (s.setQueue q x).bringup = s.bringup := rfl
@[simp] theorem State.setQueue_rampStarts (s : State) (q : Nat) (x : Queue) : (s.setQueue q x).rampStarts = s.rampStarts := rfl
@[simp] theorem State.setQueue_failedUnits (s : State) (q : Nat) (x : Queue) : (s.setQueue q x).failedUnits = s.failedUnits := rfl
@[simp] theorem State.setQueue_test (s : State) (q : Nat) (x : Queue) : (s.setQueue q x).test = s.test := rfl
@[simp] theorem State.setQueue_testsWaiting (s : State) (q : Nat) (x : Queue) : (s.setQueue q x).testsWaiting = s.testsWaiting := rfl
@[simp] theorem State.setQueue_testRuns (s : State) (q : Nat) (x : Queue) : (s.setQueue q x).testRuns = s.testRuns := rfl
@[simp] theorem State.setQueue_testTurn (s : State) (q : Nat) (x : Queue) : (s.setQueue q x).testTurn = s.testTurn := rfl
@[simp] theorem State.setQueue_testUnit (s : State) (q : Nat) (x : Queue) : (s.setQueue q x).testUnit = s.testUnit := rfl
@[simp] theorem State.setQueue_fuseTrim (s : State) (q : Nat) (x : Queue) : (s.setQueue q x).fuseTrim = s.fuseTrim := rfl
@[simp] theorem State.setQueue_fuseFault (s : State) (q : Nat) (x : Queue) : (s.setQueue q x).fuseFault = s.fuseFault := rfl
@[simp] theorem State.setQueue_fuseSpm (s : State) (q : Nat) (x : Queue) : (s.setQueue q x).fuseSpm = s.fuseSpm := rfl
@[simp] theorem State.setQueue_fuseHbm (s : State) (q : Nat) (x : Queue) : (s.setQueue q x).fuseHbm = s.fuseHbm := rfl
@[simp] theorem State.setQueue_vsel (s : State) (q : Nat) (x : Queue) : (s.setQueue q x).vsel = s.vsel := rfl
@[simp] theorem State.setQueue_pinRecs (s : State) (q : Nat) (x : Queue) : (s.setQueue q x).pinRecs = s.pinRecs := rfl
@[simp] theorem State.setQueue_i2cs (s : State) (q : Nat) (x : Queue) : (s.setQueue q x).i2cs = s.i2cs := rfl
@[simp] theorem State.setQueue_gau (s : State) (q : Nat) (x : Queue) : (s.setQueue q x).gau = s.gau := rfl
@[simp] theorem State.setQueue_strobes (s : State) (q : Nat) (x : Queue) : (s.setQueue q x).strobes = s.strobes := rfl
@[simp] theorem State.setQueue_strobeHigh (s : State) (q : Nat) (x : Queue) : (s.setQueue q x).strobeHigh = s.strobeHigh := rfl
@[simp] theorem State.setQueue_pinRaw (s : State) (q : Nat) (x : Queue) : (s.setQueue q x).pinRaw = s.pinRaw := rfl
@[simp] theorem State.setQueue_pinSince (s : State) (q : Nat) (x : Queue) : (s.setQueue q x).pinSince = s.pinSince := rfl
@[simp] theorem State.setQueue_prevLength (s : State) (q : Nat) (x : Queue) : (s.setQueue q x).prevLength = s.prevLength := rfl
@[simp] theorem State.setQueue_prevHz (s : State) (q : Nat) (x : Queue) : (s.setQueue q x).prevHz = s.prevHz := rfl
@[simp] theorem State.setQueue_prevTurn (s : State) (q : Nat) (x : Queue) : (s.setQueue q x).prevTurn = s.prevTurn := rfl
@[simp] theorem State.setQueue_ppsHigh (s : State) (q : Nat) (x : Queue) : (s.setQueue q x).ppsHigh = s.ppsHigh := rfl
@[simp] theorem State.setQueue_ppsDue (s : State) (q : Nat) (x : Queue) : (s.setQueue q x).ppsDue = s.ppsDue := rfl
@[simp] theorem State.setQueue_perst (s : State) (q : Nat) (x : Queue) : (s.setQueue q x).perst = s.perst := rfl
@[simp] theorem State.setQueue_tripped (s : State) (q : Nat) (x : Queue) : (s.setQueue q x).tripped = s.tripped := rfl
@[simp] theorem State.setQueue_walkerOnce (s : State) (q : Nat) (x : Queue) : (s.setQueue q x).walkerOnce = s.walkerOnce := rfl
@[simp] theorem State.setQueue_powerGood (s : State) (q : Nat) (x : Queue) : (s.setQueue q x).powerGood = s.powerGood := rfl
@[simp] theorem State.setQueue_jtagIr (s : State) (q : Nat) (x : Queue) : (s.setQueue q x).jtagIr = s.jtagIr := rfl
@[simp] theorem State.setQueue_boundary (s : State) (q : Nat) (x : Queue) : (s.setQueue q x).boundary = s.boundary := rfl
@[simp] theorem State.reg_setQueue (s : State) (q : Nat) (x : Queue) (o2 : Nat) : (s.setQueue q x).reg o2 = s.reg o2 := rfl
@[simp] theorem State.get_setQueue (s : State) (q : Nat) (x : Queue) (g : Fld) : (s.setQueue q x).get g = s.get g := rfl
@[simp] theorem State.allot_setQueue (s : State) (q : Nat) (x : Queue) (a2 : Nat) : (s.setQueue q x).allot a2 = s.allot a2 := rfl
@[simp] theorem State.core_setQueue (s : State) (q : Nat) (x : Queue) (c2 : Nat) : (s.setQueue q x).core c2 = s.core c2 := rfl
@[simp] theorem State.rd_setQueue (s : State) (q : Nat) (x : Queue) (a2 : Nat) : (s.setQueue q x).rd a2 = s.rd a2 := rfl

/-! ## setAllot -/

@[simp] theorem State.setAllot_pending (s : State) (a : Nat) (x : Allot) : (s.setAllot a x).pending = s.pending := rfl
@[simp] theorem State.setAllot_stores (s : State) (a : Nat) (x : Allot) : (s.setAllot a x).stores = s.stores := rfl
@[simp] theorem State.setAllot_mem (s : State) (a : Nat) (x : Allot) : (s.setAllot a x).mem = s.mem := rfl
@[simp] theorem State.setAllot_free (s : State) (a : Nat) (x : Allot) : (s.setAllot a x).free = s.free := rfl
@[simp] theorem State.setAllot_regs (s : State) (a : Nat) (x : Allot) : (s.setAllot a x).regs = s.regs := rfl
@[simp] theorem State.setAllot_latch (s : State) (a : Nat) (x : Allot) : (s.setAllot a x).latch = s.latch := rfl
@[simp] theorem State.setAllot_spmCounts (s : State) (a : Nat) (x : Allot) : (s.setAllot a x).spmCounts = s.spmCounts := rfl
@[simp] theorem State.setAllot_spmLatch (s : State) (a : Nat) (x : Allot) : (s.setAllot a x).spmLatch = s.spmLatch := rfl
@[simp] theorem State.setAllot_wck (s : State) (a : Nat) (x : Allot) : (s.setAllot a x).wck = s.wck := rfl
@[simp] theorem State.setAllot_queues (s : State) (a : Nat) (x : Allot) : (s.setAllot a x).queues = s.queues := rfl
@[simp] theorem State.setAllot_granted (s : State) (a : Nat) (x : Allot) : (s.setAllot a x).granted = s.granted := rfl
@[simp] theorem State.setAllot_inflight (s : State) (a : Nat) (x : Allot) : (s.setAllot a x).inflight = s.inflight := rfl
@[simp] theorem State.setAllot_waiting (s : State) (a : Nat) (x : Allot) : (s.setAllot a x).waiting = s.waiting := rfl
@[simp] theorem State.setAllot_staged (s : State) (a : Nat) (x : Allot) : (s.setAllot a x).staged = s.staged := rfl
@[simp] theorem State.setAllot_fallowDue (s : State) (a : Nat) (x : Allot) : (s.setAllot a x).fallowDue = s.fallowDue := rfl
@[simp] theorem State.setAllot_load (s : State) (a : Nat) (x : Allot) : (s.setAllot a x).load = s.load := rfl
@[simp] theorem State.setAllot_fences (s : State) (a : Nat) (x : Allot) : (s.setAllot a x).fences = s.fences := rfl
@[simp] theorem State.setAllot_scrubs (s : State) (a : Nat) (x : Allot) : (s.setAllot a x).scrubs = s.scrubs := rfl
@[simp] theorem State.setAllot_tcache (s : State) (a : Nat) (x : Allot) : (s.setAllot a x).tcache = s.tcache := rfl
@[simp] theorem State.setAllot_vfEnabled (s : State) (a : Nat) (x : Allot) : (s.setAllot a x).vfEnabled = s.vfEnabled := rfl
@[simp] theorem State.setAllot_cores (s : State) (a : Nat) (x : Allot) : (s.setAllot a x).cores = s.cores := rfl
@[simp] theorem State.setAllot_blkTag (s : State) (a : Nat) (x : Allot) : (s.setAllot a x).blkTag = s.blkTag := rfl
@[simp] theorem State.setAllot_blkCode (s : State) (a : Nat) (x : Allot) : (s.setAllot a x).blkCode = s.blkCode := rfl
@[simp] theorem State.setAllot_fluUntil (s : State) (a : Nat) (x : Allot) : (s.setAllot a x).fluUntil = s.fluUntil := rfl
@[simp] theorem State.setAllot_early (s : State) (a : Nat) (x : Allot) : (s.setAllot a x).early = s.early := rfl
@[simp] theorem State.setAllot_bufSet (s : State) (a : Nat) (x : Allot) : (s.setAllot a x).bufSet = s.bufSet := rfl
@[simp] theorem State.setAllot_rewriteQ (s : State) (a : Nat) (x : Allot) : (s.setAllot a x).rewriteQ = s.rewriteQ := rfl
@[simp] theorem State.setAllot_hotStacks (s : State) (a : Nat) (x : Allot) : (s.setAllot a x).hotStacks = s.hotStacks := rfl
@[simp] theorem State.setAllot_hotDies (s : State) (a : Nat) (x : Allot) : (s.setAllot a x).hotDies = s.hotDies := rfl
@[simp] theorem State.setAllot_log (s : State) (a : Nat) (x : Allot) : (s.setAllot a x).log = s.log := rfl
@[simp] theorem State.setAllot_sent (s : State) (a : Nat) (x : Allot) : (s.setAllot a x).sent = s.sent := rfl
@[simp] theorem State.setAllot_corrLogged (s : State) (a : Nat) (x : Allot) : (s.setAllot a x).corrLogged = s.corrLogged := rfl
@[simp] theorem State.setAllot_aqds (s : State) (a : Nat) (x : Allot) : (s.setAllot a x).aqds = s.aqds := rfl
@[simp] theorem State.setAllot_linkSlots (s : State) (a : Nat) (x : Allot) : (s.setAllot a x).linkSlots = s.linkSlots := rfl
@[simp] theorem State.setAllot_routesNow (s : State) (a : Nat) (x : Allot) : (s.setAllot a x).routesNow = s.routesNow := rfl
@[simp] theorem State.setAllot_ings (s : State) (a : Nat) (x : Allot) : (s.setAllot a x).ings = s.ings := rfl
@[simp] theorem State.setAllot_encQ (s : State) (a : Nat) (x : Allot) : (s.setAllot a x).encQ = s.encQ := rfl
@[simp] theorem State.setAllot_viss (s : State) (a : Nat) (x : Allot) : (s.setAllot a x).viss = s.viss := rfl
@[simp] theorem State.setAllot_basins (s : State) (a : Nat) (x : Allot) : (s.setAllot a x).basins = s.basins := rfl
@[simp] theorem State.setAllot_gnss (s : State) (a : Nat) (x : Allot) : (s.setAllot a x).gnss = s.gnss := rfl
@[simp] theorem State.setAllot_slotMem (s : State) (a : Nat) (x : Allot) : (s.setAllot a x).slotMem = s.slotMem := rfl
@[simp] theorem State.setAllot_bne (s : State) (a : Nat) (x : Allot) : (s.setAllot a x).bne = s.bne := rfl
@[simp] theorem State.setAllot_sym (s : State) (a : Nat) (x : Allot) : (s.setAllot a x).sym = s.sym := rfl
@[simp] theorem State.setAllot_nextSession (s : State) (a : Nat) (x : Allot) : (s.setAllot a x).nextSession = s.nextSession := rfl
@[simp] theorem State.setAllot_drbg (s : State) (a : Nat) (x : Allot) : (s.setAllot a x).drbg = s.drbg := rfl
@[simp] theorem State.setAllot_wellStopped (s : State) (a : Nat) (x : Allot) : (s.setAllot a x).wellStopped = s.wellStopped := rfl
@[simp] theorem State.setAllot_idKey (s : State) (a : Nat) (x : Allot) : (s.setAllot a x).idKey = s.idKey := rfl
@[simp] theorem State.setAllot_closed (s : State) (a : Nat) (x : Allot) : (s.setAllot a x).closed = s.closed := rfl
@[simp] theorem State.setAllot_reopens (s : State) (a : Nat) (x : Allot) : (s.setAllot a x).reopens = s.reopens := rfl
@[simp] theorem State.setAllot_chipSince (s : State) (a : Nat) (x : Allot) : (s.setAllot a x).chipSince = s.chipSince := rfl
@[simp] theorem State.setAllot_lastSluice (s : State) (a : Nat) (x : Allot) : (s.setAllot a x).lastSluice = s.lastSluice := rfl
@[simp] theorem State.setAllot_bringingUp (s : State) (a : Nat) (x : Allot) : (s.setAllot a x).bringingUp = s.bringingUp := rfl
@[simp] theorem State.setAllot_ramps (s : State) (a : Nat) (x : Allot) : (s.setAllot a x).ramps = s.ramps := rfl
@[simp] theorem State.setAllot_bringup (s : State) (a : Nat) (x : Allot) : (s.setAllot a x).bringup = s.bringup := rfl
@[simp] theorem State.setAllot_rampStarts (s : State) (a : Nat) (x : Allot) : (s.setAllot a x).rampStarts = s.rampStarts := rfl
@[simp] theorem State.setAllot_failedUnits (s : State) (a : Nat) (x : Allot) : (s.setAllot a x).failedUnits = s.failedUnits := rfl
@[simp] theorem State.setAllot_test (s : State) (a : Nat) (x : Allot) : (s.setAllot a x).test = s.test := rfl
@[simp] theorem State.setAllot_testsWaiting (s : State) (a : Nat) (x : Allot) : (s.setAllot a x).testsWaiting = s.testsWaiting := rfl
@[simp] theorem State.setAllot_testRuns (s : State) (a : Nat) (x : Allot) : (s.setAllot a x).testRuns = s.testRuns := rfl
@[simp] theorem State.setAllot_testTurn (s : State) (a : Nat) (x : Allot) : (s.setAllot a x).testTurn = s.testTurn := rfl
@[simp] theorem State.setAllot_testUnit (s : State) (a : Nat) (x : Allot) : (s.setAllot a x).testUnit = s.testUnit := rfl
@[simp] theorem State.setAllot_fuseTrim (s : State) (a : Nat) (x : Allot) : (s.setAllot a x).fuseTrim = s.fuseTrim := rfl
@[simp] theorem State.setAllot_fuseFault (s : State) (a : Nat) (x : Allot) : (s.setAllot a x).fuseFault = s.fuseFault := rfl
@[simp] theorem State.setAllot_fuseSpm (s : State) (a : Nat) (x : Allot) : (s.setAllot a x).fuseSpm = s.fuseSpm := rfl
@[simp] theorem State.setAllot_fuseHbm (s : State) (a : Nat) (x : Allot) : (s.setAllot a x).fuseHbm = s.fuseHbm := rfl
@[simp] theorem State.setAllot_vsel (s : State) (a : Nat) (x : Allot) : (s.setAllot a x).vsel = s.vsel := rfl
@[simp] theorem State.setAllot_pinRecs (s : State) (a : Nat) (x : Allot) : (s.setAllot a x).pinRecs = s.pinRecs := rfl
@[simp] theorem State.setAllot_i2cs (s : State) (a : Nat) (x : Allot) : (s.setAllot a x).i2cs = s.i2cs := rfl
@[simp] theorem State.setAllot_gau (s : State) (a : Nat) (x : Allot) : (s.setAllot a x).gau = s.gau := rfl
@[simp] theorem State.setAllot_strobes (s : State) (a : Nat) (x : Allot) : (s.setAllot a x).strobes = s.strobes := rfl
@[simp] theorem State.setAllot_strobeHigh (s : State) (a : Nat) (x : Allot) : (s.setAllot a x).strobeHigh = s.strobeHigh := rfl
@[simp] theorem State.setAllot_pinRaw (s : State) (a : Nat) (x : Allot) : (s.setAllot a x).pinRaw = s.pinRaw := rfl
@[simp] theorem State.setAllot_pinSince (s : State) (a : Nat) (x : Allot) : (s.setAllot a x).pinSince = s.pinSince := rfl
@[simp] theorem State.setAllot_prevLength (s : State) (a : Nat) (x : Allot) : (s.setAllot a x).prevLength = s.prevLength := rfl
@[simp] theorem State.setAllot_prevHz (s : State) (a : Nat) (x : Allot) : (s.setAllot a x).prevHz = s.prevHz := rfl
@[simp] theorem State.setAllot_prevTurn (s : State) (a : Nat) (x : Allot) : (s.setAllot a x).prevTurn = s.prevTurn := rfl
@[simp] theorem State.setAllot_ppsHigh (s : State) (a : Nat) (x : Allot) : (s.setAllot a x).ppsHigh = s.ppsHigh := rfl
@[simp] theorem State.setAllot_ppsDue (s : State) (a : Nat) (x : Allot) : (s.setAllot a x).ppsDue = s.ppsDue := rfl
@[simp] theorem State.setAllot_perst (s : State) (a : Nat) (x : Allot) : (s.setAllot a x).perst = s.perst := rfl
@[simp] theorem State.setAllot_tripped (s : State) (a : Nat) (x : Allot) : (s.setAllot a x).tripped = s.tripped := rfl
@[simp] theorem State.setAllot_walkerOnce (s : State) (a : Nat) (x : Allot) : (s.setAllot a x).walkerOnce = s.walkerOnce := rfl
@[simp] theorem State.setAllot_powerGood (s : State) (a : Nat) (x : Allot) : (s.setAllot a x).powerGood = s.powerGood := rfl
@[simp] theorem State.setAllot_jtagIr (s : State) (a : Nat) (x : Allot) : (s.setAllot a x).jtagIr = s.jtagIr := rfl
@[simp] theorem State.setAllot_boundary (s : State) (a : Nat) (x : Allot) : (s.setAllot a x).boundary = s.boundary := rfl
@[simp] theorem State.reg_setAllot (s : State) (a : Nat) (x : Allot) (o2 : Nat) : (s.setAllot a x).reg o2 = s.reg o2 := rfl
@[simp] theorem State.get_setAllot (s : State) (a : Nat) (x : Allot) (g : Fld) : (s.setAllot a x).get g = s.get g := rfl
@[simp] theorem State.queue_setAllot (s : State) (a : Nat) (x : Allot) (q2 : Nat) : (s.setAllot a x).queue q2 = s.queue q2 := rfl
@[simp] theorem State.core_setAllot (s : State) (a : Nat) (x : Allot) (c2 : Nat) : (s.setAllot a x).core c2 = s.core c2 := rfl
@[simp] theorem State.rd_setAllot (s : State) (a : Nat) (x : Allot) (a2 : Nat) : (s.setAllot a x).rd a2 = s.rd a2 := rfl

/-! ## setCore -/

@[simp] theorem State.setCore_pending (s : State) (c : Nat) (x : Core) : (s.setCore c x).pending = s.pending := rfl
@[simp] theorem State.setCore_stores (s : State) (c : Nat) (x : Core) : (s.setCore c x).stores = s.stores := rfl
@[simp] theorem State.setCore_mem (s : State) (c : Nat) (x : Core) : (s.setCore c x).mem = s.mem := rfl
@[simp] theorem State.setCore_free (s : State) (c : Nat) (x : Core) : (s.setCore c x).free = s.free := rfl
@[simp] theorem State.setCore_regs (s : State) (c : Nat) (x : Core) : (s.setCore c x).regs = s.regs := rfl
@[simp] theorem State.setCore_latch (s : State) (c : Nat) (x : Core) : (s.setCore c x).latch = s.latch := rfl
@[simp] theorem State.setCore_spmCounts (s : State) (c : Nat) (x : Core) : (s.setCore c x).spmCounts = s.spmCounts := rfl
@[simp] theorem State.setCore_spmLatch (s : State) (c : Nat) (x : Core) : (s.setCore c x).spmLatch = s.spmLatch := rfl
@[simp] theorem State.setCore_wck (s : State) (c : Nat) (x : Core) : (s.setCore c x).wck = s.wck := rfl
@[simp] theorem State.setCore_queues (s : State) (c : Nat) (x : Core) : (s.setCore c x).queues = s.queues := rfl
@[simp] theorem State.setCore_granted (s : State) (c : Nat) (x : Core) : (s.setCore c x).granted = s.granted := rfl
@[simp] theorem State.setCore_inflight (s : State) (c : Nat) (x : Core) : (s.setCore c x).inflight = s.inflight := rfl
@[simp] theorem State.setCore_waiting (s : State) (c : Nat) (x : Core) : (s.setCore c x).waiting = s.waiting := rfl
@[simp] theorem State.setCore_staged (s : State) (c : Nat) (x : Core) : (s.setCore c x).staged = s.staged := rfl
@[simp] theorem State.setCore_fallowDue (s : State) (c : Nat) (x : Core) : (s.setCore c x).fallowDue = s.fallowDue := rfl
@[simp] theorem State.setCore_allots (s : State) (c : Nat) (x : Core) : (s.setCore c x).allots = s.allots := rfl
@[simp] theorem State.setCore_load (s : State) (c : Nat) (x : Core) : (s.setCore c x).load = s.load := rfl
@[simp] theorem State.setCore_fences (s : State) (c : Nat) (x : Core) : (s.setCore c x).fences = s.fences := rfl
@[simp] theorem State.setCore_scrubs (s : State) (c : Nat) (x : Core) : (s.setCore c x).scrubs = s.scrubs := rfl
@[simp] theorem State.setCore_tcache (s : State) (c : Nat) (x : Core) : (s.setCore c x).tcache = s.tcache := rfl
@[simp] theorem State.setCore_vfEnabled (s : State) (c : Nat) (x : Core) : (s.setCore c x).vfEnabled = s.vfEnabled := rfl
@[simp] theorem State.setCore_blkTag (s : State) (c : Nat) (x : Core) : (s.setCore c x).blkTag = s.blkTag := rfl
@[simp] theorem State.setCore_blkCode (s : State) (c : Nat) (x : Core) : (s.setCore c x).blkCode = s.blkCode := rfl
@[simp] theorem State.setCore_fluUntil (s : State) (c : Nat) (x : Core) : (s.setCore c x).fluUntil = s.fluUntil := rfl
@[simp] theorem State.setCore_early (s : State) (c : Nat) (x : Core) : (s.setCore c x).early = s.early := rfl
@[simp] theorem State.setCore_bufSet (s : State) (c : Nat) (x : Core) : (s.setCore c x).bufSet = s.bufSet := rfl
@[simp] theorem State.setCore_rewriteQ (s : State) (c : Nat) (x : Core) : (s.setCore c x).rewriteQ = s.rewriteQ := rfl
@[simp] theorem State.setCore_hotStacks (s : State) (c : Nat) (x : Core) : (s.setCore c x).hotStacks = s.hotStacks := rfl
@[simp] theorem State.setCore_hotDies (s : State) (c : Nat) (x : Core) : (s.setCore c x).hotDies = s.hotDies := rfl
@[simp] theorem State.setCore_log (s : State) (c : Nat) (x : Core) : (s.setCore c x).log = s.log := rfl
@[simp] theorem State.setCore_sent (s : State) (c : Nat) (x : Core) : (s.setCore c x).sent = s.sent := rfl
@[simp] theorem State.setCore_corrLogged (s : State) (c : Nat) (x : Core) : (s.setCore c x).corrLogged = s.corrLogged := rfl
@[simp] theorem State.setCore_aqds (s : State) (c : Nat) (x : Core) : (s.setCore c x).aqds = s.aqds := rfl
@[simp] theorem State.setCore_linkSlots (s : State) (c : Nat) (x : Core) : (s.setCore c x).linkSlots = s.linkSlots := rfl
@[simp] theorem State.setCore_routesNow (s : State) (c : Nat) (x : Core) : (s.setCore c x).routesNow = s.routesNow := rfl
@[simp] theorem State.setCore_ings (s : State) (c : Nat) (x : Core) : (s.setCore c x).ings = s.ings := rfl
@[simp] theorem State.setCore_encQ (s : State) (c : Nat) (x : Core) : (s.setCore c x).encQ = s.encQ := rfl
@[simp] theorem State.setCore_viss (s : State) (c : Nat) (x : Core) : (s.setCore c x).viss = s.viss := rfl
@[simp] theorem State.setCore_basins (s : State) (c : Nat) (x : Core) : (s.setCore c x).basins = s.basins := rfl
@[simp] theorem State.setCore_gnss (s : State) (c : Nat) (x : Core) : (s.setCore c x).gnss = s.gnss := rfl
@[simp] theorem State.setCore_slotMem (s : State) (c : Nat) (x : Core) : (s.setCore c x).slotMem = s.slotMem := rfl
@[simp] theorem State.setCore_bne (s : State) (c : Nat) (x : Core) : (s.setCore c x).bne = s.bne := rfl
@[simp] theorem State.setCore_sym (s : State) (c : Nat) (x : Core) : (s.setCore c x).sym = s.sym := rfl
@[simp] theorem State.setCore_nextSession (s : State) (c : Nat) (x : Core) : (s.setCore c x).nextSession = s.nextSession := rfl
@[simp] theorem State.setCore_drbg (s : State) (c : Nat) (x : Core) : (s.setCore c x).drbg = s.drbg := rfl
@[simp] theorem State.setCore_wellStopped (s : State) (c : Nat) (x : Core) : (s.setCore c x).wellStopped = s.wellStopped := rfl
@[simp] theorem State.setCore_idKey (s : State) (c : Nat) (x : Core) : (s.setCore c x).idKey = s.idKey := rfl
@[simp] theorem State.setCore_closed (s : State) (c : Nat) (x : Core) : (s.setCore c x).closed = s.closed := rfl
@[simp] theorem State.setCore_reopens (s : State) (c : Nat) (x : Core) : (s.setCore c x).reopens = s.reopens := rfl
@[simp] theorem State.setCore_chipSince (s : State) (c : Nat) (x : Core) : (s.setCore c x).chipSince = s.chipSince := rfl
@[simp] theorem State.setCore_lastSluice (s : State) (c : Nat) (x : Core) : (s.setCore c x).lastSluice = s.lastSluice := rfl
@[simp] theorem State.setCore_bringingUp (s : State) (c : Nat) (x : Core) : (s.setCore c x).bringingUp = s.bringingUp := rfl
@[simp] theorem State.setCore_ramps (s : State) (c : Nat) (x : Core) : (s.setCore c x).ramps = s.ramps := rfl
@[simp] theorem State.setCore_bringup (s : State) (c : Nat) (x : Core) : (s.setCore c x).bringup = s.bringup := rfl
@[simp] theorem State.setCore_rampStarts (s : State) (c : Nat) (x : Core) : (s.setCore c x).rampStarts = s.rampStarts := rfl
@[simp] theorem State.setCore_failedUnits (s : State) (c : Nat) (x : Core) : (s.setCore c x).failedUnits = s.failedUnits := rfl
@[simp] theorem State.setCore_test (s : State) (c : Nat) (x : Core) : (s.setCore c x).test = s.test := rfl
@[simp] theorem State.setCore_testsWaiting (s : State) (c : Nat) (x : Core) : (s.setCore c x).testsWaiting = s.testsWaiting := rfl
@[simp] theorem State.setCore_testRuns (s : State) (c : Nat) (x : Core) : (s.setCore c x).testRuns = s.testRuns := rfl
@[simp] theorem State.setCore_testTurn (s : State) (c : Nat) (x : Core) : (s.setCore c x).testTurn = s.testTurn := rfl
@[simp] theorem State.setCore_testUnit (s : State) (c : Nat) (x : Core) : (s.setCore c x).testUnit = s.testUnit := rfl
@[simp] theorem State.setCore_fuseTrim (s : State) (c : Nat) (x : Core) : (s.setCore c x).fuseTrim = s.fuseTrim := rfl
@[simp] theorem State.setCore_fuseFault (s : State) (c : Nat) (x : Core) : (s.setCore c x).fuseFault = s.fuseFault := rfl
@[simp] theorem State.setCore_fuseSpm (s : State) (c : Nat) (x : Core) : (s.setCore c x).fuseSpm = s.fuseSpm := rfl
@[simp] theorem State.setCore_fuseHbm (s : State) (c : Nat) (x : Core) : (s.setCore c x).fuseHbm = s.fuseHbm := rfl
@[simp] theorem State.setCore_vsel (s : State) (c : Nat) (x : Core) : (s.setCore c x).vsel = s.vsel := rfl
@[simp] theorem State.setCore_pinRecs (s : State) (c : Nat) (x : Core) : (s.setCore c x).pinRecs = s.pinRecs := rfl
@[simp] theorem State.setCore_i2cs (s : State) (c : Nat) (x : Core) : (s.setCore c x).i2cs = s.i2cs := rfl
@[simp] theorem State.setCore_gau (s : State) (c : Nat) (x : Core) : (s.setCore c x).gau = s.gau := rfl
@[simp] theorem State.setCore_strobes (s : State) (c : Nat) (x : Core) : (s.setCore c x).strobes = s.strobes := rfl
@[simp] theorem State.setCore_strobeHigh (s : State) (c : Nat) (x : Core) : (s.setCore c x).strobeHigh = s.strobeHigh := rfl
@[simp] theorem State.setCore_pinRaw (s : State) (c : Nat) (x : Core) : (s.setCore c x).pinRaw = s.pinRaw := rfl
@[simp] theorem State.setCore_pinSince (s : State) (c : Nat) (x : Core) : (s.setCore c x).pinSince = s.pinSince := rfl
@[simp] theorem State.setCore_prevLength (s : State) (c : Nat) (x : Core) : (s.setCore c x).prevLength = s.prevLength := rfl
@[simp] theorem State.setCore_prevHz (s : State) (c : Nat) (x : Core) : (s.setCore c x).prevHz = s.prevHz := rfl
@[simp] theorem State.setCore_prevTurn (s : State) (c : Nat) (x : Core) : (s.setCore c x).prevTurn = s.prevTurn := rfl
@[simp] theorem State.setCore_ppsHigh (s : State) (c : Nat) (x : Core) : (s.setCore c x).ppsHigh = s.ppsHigh := rfl
@[simp] theorem State.setCore_ppsDue (s : State) (c : Nat) (x : Core) : (s.setCore c x).ppsDue = s.ppsDue := rfl
@[simp] theorem State.setCore_perst (s : State) (c : Nat) (x : Core) : (s.setCore c x).perst = s.perst := rfl
@[simp] theorem State.setCore_tripped (s : State) (c : Nat) (x : Core) : (s.setCore c x).tripped = s.tripped := rfl
@[simp] theorem State.setCore_walkerOnce (s : State) (c : Nat) (x : Core) : (s.setCore c x).walkerOnce = s.walkerOnce := rfl
@[simp] theorem State.setCore_powerGood (s : State) (c : Nat) (x : Core) : (s.setCore c x).powerGood = s.powerGood := rfl
@[simp] theorem State.setCore_jtagIr (s : State) (c : Nat) (x : Core) : (s.setCore c x).jtagIr = s.jtagIr := rfl
@[simp] theorem State.setCore_boundary (s : State) (c : Nat) (x : Core) : (s.setCore c x).boundary = s.boundary := rfl
@[simp] theorem State.reg_setCore (s : State) (c : Nat) (x : Core) (o2 : Nat) : (s.setCore c x).reg o2 = s.reg o2 := rfl
@[simp] theorem State.get_setCore (s : State) (c : Nat) (x : Core) (g : Fld) : (s.setCore c x).get g = s.get g := rfl
@[simp] theorem State.queue_setCore (s : State) (c : Nat) (x : Core) (q2 : Nat) : (s.setCore c x).queue q2 = s.queue q2 := rfl
@[simp] theorem State.allot_setCore (s : State) (c : Nat) (x : Core) (a2 : Nat) : (s.setCore c x).allot a2 = s.allot a2 := rfl
@[simp] theorem State.rd_setCore (s : State) (c : Nat) (x : Core) (a2 : Nat) : (s.setCore c x).rd a2 = s.rd a2 := rfl

/-! ## emit -/

@[simp] theorem State.emit_pending (s : State) (x : Sent) : (s.emit x).pending = s.pending := rfl
@[simp] theorem State.emit_stores (s : State) (x : Sent) : (s.emit x).stores = s.stores := rfl
@[simp] theorem State.emit_mem (s : State) (x : Sent) : (s.emit x).mem = s.mem := rfl
@[simp] theorem State.emit_free (s : State) (x : Sent) : (s.emit x).free = s.free := rfl
@[simp] theorem State.emit_regs (s : State) (x : Sent) : (s.emit x).regs = s.regs := rfl
@[simp] theorem State.emit_latch (s : State) (x : Sent) : (s.emit x).latch = s.latch := rfl
@[simp] theorem State.emit_spmCounts (s : State) (x : Sent) : (s.emit x).spmCounts = s.spmCounts := rfl
@[simp] theorem State.emit_spmLatch (s : State) (x : Sent) : (s.emit x).spmLatch = s.spmLatch := rfl
@[simp] theorem State.emit_wck (s : State) (x : Sent) : (s.emit x).wck = s.wck := rfl
@[simp] theorem State.emit_queues (s : State) (x : Sent) : (s.emit x).queues = s.queues := rfl
@[simp] theorem State.emit_granted (s : State) (x : Sent) : (s.emit x).granted = s.granted := rfl
@[simp] theorem State.emit_inflight (s : State) (x : Sent) : (s.emit x).inflight = s.inflight := rfl
@[simp] theorem State.emit_waiting (s : State) (x : Sent) : (s.emit x).waiting = s.waiting := rfl
@[simp] theorem State.emit_staged (s : State) (x : Sent) : (s.emit x).staged = s.staged := rfl
@[simp] theorem State.emit_fallowDue (s : State) (x : Sent) : (s.emit x).fallowDue = s.fallowDue := rfl
@[simp] theorem State.emit_allots (s : State) (x : Sent) : (s.emit x).allots = s.allots := rfl
@[simp] theorem State.emit_load (s : State) (x : Sent) : (s.emit x).load = s.load := rfl
@[simp] theorem State.emit_fences (s : State) (x : Sent) : (s.emit x).fences = s.fences := rfl
@[simp] theorem State.emit_scrubs (s : State) (x : Sent) : (s.emit x).scrubs = s.scrubs := rfl
@[simp] theorem State.emit_tcache (s : State) (x : Sent) : (s.emit x).tcache = s.tcache := rfl
@[simp] theorem State.emit_vfEnabled (s : State) (x : Sent) : (s.emit x).vfEnabled = s.vfEnabled := rfl
@[simp] theorem State.emit_cores (s : State) (x : Sent) : (s.emit x).cores = s.cores := rfl
@[simp] theorem State.emit_blkTag (s : State) (x : Sent) : (s.emit x).blkTag = s.blkTag := rfl
@[simp] theorem State.emit_blkCode (s : State) (x : Sent) : (s.emit x).blkCode = s.blkCode := rfl
@[simp] theorem State.emit_fluUntil (s : State) (x : Sent) : (s.emit x).fluUntil = s.fluUntil := rfl
@[simp] theorem State.emit_early (s : State) (x : Sent) : (s.emit x).early = s.early := rfl
@[simp] theorem State.emit_bufSet (s : State) (x : Sent) : (s.emit x).bufSet = s.bufSet := rfl
@[simp] theorem State.emit_rewriteQ (s : State) (x : Sent) : (s.emit x).rewriteQ = s.rewriteQ := rfl
@[simp] theorem State.emit_hotStacks (s : State) (x : Sent) : (s.emit x).hotStacks = s.hotStacks := rfl
@[simp] theorem State.emit_hotDies (s : State) (x : Sent) : (s.emit x).hotDies = s.hotDies := rfl
@[simp] theorem State.emit_log (s : State) (x : Sent) : (s.emit x).log = s.log := rfl
@[simp] theorem State.emit_corrLogged (s : State) (x : Sent) : (s.emit x).corrLogged = s.corrLogged := rfl
@[simp] theorem State.emit_aqds (s : State) (x : Sent) : (s.emit x).aqds = s.aqds := rfl
@[simp] theorem State.emit_linkSlots (s : State) (x : Sent) : (s.emit x).linkSlots = s.linkSlots := rfl
@[simp] theorem State.emit_routesNow (s : State) (x : Sent) : (s.emit x).routesNow = s.routesNow := rfl
@[simp] theorem State.emit_ings (s : State) (x : Sent) : (s.emit x).ings = s.ings := rfl
@[simp] theorem State.emit_encQ (s : State) (x : Sent) : (s.emit x).encQ = s.encQ := rfl
@[simp] theorem State.emit_viss (s : State) (x : Sent) : (s.emit x).viss = s.viss := rfl
@[simp] theorem State.emit_basins (s : State) (x : Sent) : (s.emit x).basins = s.basins := rfl
@[simp] theorem State.emit_gnss (s : State) (x : Sent) : (s.emit x).gnss = s.gnss := rfl
@[simp] theorem State.emit_slotMem (s : State) (x : Sent) : (s.emit x).slotMem = s.slotMem := rfl
@[simp] theorem State.emit_bne (s : State) (x : Sent) : (s.emit x).bne = s.bne := rfl
@[simp] theorem State.emit_sym (s : State) (x : Sent) : (s.emit x).sym = s.sym := rfl
@[simp] theorem State.emit_nextSession (s : State) (x : Sent) : (s.emit x).nextSession = s.nextSession := rfl
@[simp] theorem State.emit_drbg (s : State) (x : Sent) : (s.emit x).drbg = s.drbg := rfl
@[simp] theorem State.emit_wellStopped (s : State) (x : Sent) : (s.emit x).wellStopped = s.wellStopped := rfl
@[simp] theorem State.emit_idKey (s : State) (x : Sent) : (s.emit x).idKey = s.idKey := rfl
@[simp] theorem State.emit_closed (s : State) (x : Sent) : (s.emit x).closed = s.closed := rfl
@[simp] theorem State.emit_reopens (s : State) (x : Sent) : (s.emit x).reopens = s.reopens := rfl
@[simp] theorem State.emit_chipSince (s : State) (x : Sent) : (s.emit x).chipSince = s.chipSince := rfl
@[simp] theorem State.emit_lastSluice (s : State) (x : Sent) : (s.emit x).lastSluice = s.lastSluice := rfl
@[simp] theorem State.emit_bringingUp (s : State) (x : Sent) : (s.emit x).bringingUp = s.bringingUp := rfl
@[simp] theorem State.emit_ramps (s : State) (x : Sent) : (s.emit x).ramps = s.ramps := rfl
@[simp] theorem State.emit_bringup (s : State) (x : Sent) : (s.emit x).bringup = s.bringup := rfl
@[simp] theorem State.emit_rampStarts (s : State) (x : Sent) : (s.emit x).rampStarts = s.rampStarts := rfl
@[simp] theorem State.emit_failedUnits (s : State) (x : Sent) : (s.emit x).failedUnits = s.failedUnits := rfl
@[simp] theorem State.emit_test (s : State) (x : Sent) : (s.emit x).test = s.test := rfl
@[simp] theorem State.emit_testsWaiting (s : State) (x : Sent) : (s.emit x).testsWaiting = s.testsWaiting := rfl
@[simp] theorem State.emit_testRuns (s : State) (x : Sent) : (s.emit x).testRuns = s.testRuns := rfl
@[simp] theorem State.emit_testTurn (s : State) (x : Sent) : (s.emit x).testTurn = s.testTurn := rfl
@[simp] theorem State.emit_testUnit (s : State) (x : Sent) : (s.emit x).testUnit = s.testUnit := rfl
@[simp] theorem State.emit_fuseTrim (s : State) (x : Sent) : (s.emit x).fuseTrim = s.fuseTrim := rfl
@[simp] theorem State.emit_fuseFault (s : State) (x : Sent) : (s.emit x).fuseFault = s.fuseFault := rfl
@[simp] theorem State.emit_fuseSpm (s : State) (x : Sent) : (s.emit x).fuseSpm = s.fuseSpm := rfl
@[simp] theorem State.emit_fuseHbm (s : State) (x : Sent) : (s.emit x).fuseHbm = s.fuseHbm := rfl
@[simp] theorem State.emit_vsel (s : State) (x : Sent) : (s.emit x).vsel = s.vsel := rfl
@[simp] theorem State.emit_pinRecs (s : State) (x : Sent) : (s.emit x).pinRecs = s.pinRecs := rfl
@[simp] theorem State.emit_i2cs (s : State) (x : Sent) : (s.emit x).i2cs = s.i2cs := rfl
@[simp] theorem State.emit_gau (s : State) (x : Sent) : (s.emit x).gau = s.gau := rfl
@[simp] theorem State.emit_strobes (s : State) (x : Sent) : (s.emit x).strobes = s.strobes := rfl
@[simp] theorem State.emit_strobeHigh (s : State) (x : Sent) : (s.emit x).strobeHigh = s.strobeHigh := rfl
@[simp] theorem State.emit_pinRaw (s : State) (x : Sent) : (s.emit x).pinRaw = s.pinRaw := rfl
@[simp] theorem State.emit_pinSince (s : State) (x : Sent) : (s.emit x).pinSince = s.pinSince := rfl
@[simp] theorem State.emit_prevLength (s : State) (x : Sent) : (s.emit x).prevLength = s.prevLength := rfl
@[simp] theorem State.emit_prevHz (s : State) (x : Sent) : (s.emit x).prevHz = s.prevHz := rfl
@[simp] theorem State.emit_prevTurn (s : State) (x : Sent) : (s.emit x).prevTurn = s.prevTurn := rfl
@[simp] theorem State.emit_ppsHigh (s : State) (x : Sent) : (s.emit x).ppsHigh = s.ppsHigh := rfl
@[simp] theorem State.emit_ppsDue (s : State) (x : Sent) : (s.emit x).ppsDue = s.ppsDue := rfl
@[simp] theorem State.emit_perst (s : State) (x : Sent) : (s.emit x).perst = s.perst := rfl
@[simp] theorem State.emit_tripped (s : State) (x : Sent) : (s.emit x).tripped = s.tripped := rfl
@[simp] theorem State.emit_walkerOnce (s : State) (x : Sent) : (s.emit x).walkerOnce = s.walkerOnce := rfl
@[simp] theorem State.emit_powerGood (s : State) (x : Sent) : (s.emit x).powerGood = s.powerGood := rfl
@[simp] theorem State.emit_jtagIr (s : State) (x : Sent) : (s.emit x).jtagIr = s.jtagIr := rfl
@[simp] theorem State.emit_boundary (s : State) (x : Sent) : (s.emit x).boundary = s.boundary := rfl
@[simp] theorem State.reg_emit (s : State) (x : Sent) (o2 : Nat) : (s.emit x).reg o2 = s.reg o2 := rfl
@[simp] theorem State.get_emit (s : State) (x : Sent) (g : Fld) : (s.emit x).get g = s.get g := rfl
@[simp] theorem State.queue_emit (s : State) (x : Sent) (q2 : Nat) : (s.emit x).queue q2 = s.queue q2 := rfl
@[simp] theorem State.allot_emit (s : State) (x : Sent) (a2 : Nat) : (s.emit x).allot a2 = s.allot a2 := rfl
@[simp] theorem State.core_emit (s : State) (x : Sent) (c2 : Nat) : (s.emit x).core c2 = s.core c2 := rfl
@[simp] theorem State.rd_emit (s : State) (x : Sent) (a2 : Nat) : (s.emit x).rd a2 = s.rd a2 := rfl

/-! ## stage -/

@[simp] theorem State.stage_pending (s : State) (o : Ord) (c : Change) : (s.stage o c).pending = s.pending := rfl
@[simp] theorem State.stage_stores (s : State) (o : Ord) (c : Change) : (s.stage o c).stores = s.stores := rfl
@[simp] theorem State.stage_mem (s : State) (o : Ord) (c : Change) : (s.stage o c).mem = s.mem := rfl
@[simp] theorem State.stage_free (s : State) (o : Ord) (c : Change) : (s.stage o c).free = s.free := rfl
@[simp] theorem State.stage_regs (s : State) (o : Ord) (c : Change) : (s.stage o c).regs = s.regs := rfl
@[simp] theorem State.stage_latch (s : State) (o : Ord) (c : Change) : (s.stage o c).latch = s.latch := rfl
@[simp] theorem State.stage_spmCounts (s : State) (o : Ord) (c : Change) : (s.stage o c).spmCounts = s.spmCounts := rfl
@[simp] theorem State.stage_spmLatch (s : State) (o : Ord) (c : Change) : (s.stage o c).spmLatch = s.spmLatch := rfl
@[simp] theorem State.stage_wck (s : State) (o : Ord) (c : Change) : (s.stage o c).wck = s.wck := rfl
@[simp] theorem State.stage_queues (s : State) (o : Ord) (c : Change) : (s.stage o c).queues = s.queues := rfl
@[simp] theorem State.stage_granted (s : State) (o : Ord) (c : Change) : (s.stage o c).granted = s.granted := rfl
@[simp] theorem State.stage_inflight (s : State) (o : Ord) (c : Change) : (s.stage o c).inflight = s.inflight := rfl
@[simp] theorem State.stage_waiting (s : State) (o : Ord) (c : Change) : (s.stage o c).waiting = s.waiting := rfl
@[simp] theorem State.stage_fallowDue (s : State) (o : Ord) (c : Change) : (s.stage o c).fallowDue = s.fallowDue := rfl
@[simp] theorem State.stage_allots (s : State) (o : Ord) (c : Change) : (s.stage o c).allots = s.allots := rfl
@[simp] theorem State.stage_load (s : State) (o : Ord) (c : Change) : (s.stage o c).load = s.load := rfl
@[simp] theorem State.stage_fences (s : State) (o : Ord) (c : Change) : (s.stage o c).fences = s.fences := rfl
@[simp] theorem State.stage_scrubs (s : State) (o : Ord) (c : Change) : (s.stage o c).scrubs = s.scrubs := rfl
@[simp] theorem State.stage_tcache (s : State) (o : Ord) (c : Change) : (s.stage o c).tcache = s.tcache := rfl
@[simp] theorem State.stage_vfEnabled (s : State) (o : Ord) (c : Change) : (s.stage o c).vfEnabled = s.vfEnabled := rfl
@[simp] theorem State.stage_cores (s : State) (o : Ord) (c : Change) : (s.stage o c).cores = s.cores := rfl
@[simp] theorem State.stage_blkTag (s : State) (o : Ord) (c : Change) : (s.stage o c).blkTag = s.blkTag := rfl
@[simp] theorem State.stage_blkCode (s : State) (o : Ord) (c : Change) : (s.stage o c).blkCode = s.blkCode := rfl
@[simp] theorem State.stage_fluUntil (s : State) (o : Ord) (c : Change) : (s.stage o c).fluUntil = s.fluUntil := rfl
@[simp] theorem State.stage_early (s : State) (o : Ord) (c : Change) : (s.stage o c).early = s.early := rfl
@[simp] theorem State.stage_bufSet (s : State) (o : Ord) (c : Change) : (s.stage o c).bufSet = s.bufSet := rfl
@[simp] theorem State.stage_rewriteQ (s : State) (o : Ord) (c : Change) : (s.stage o c).rewriteQ = s.rewriteQ := rfl
@[simp] theorem State.stage_hotStacks (s : State) (o : Ord) (c : Change) : (s.stage o c).hotStacks = s.hotStacks := rfl
@[simp] theorem State.stage_hotDies (s : State) (o : Ord) (c : Change) : (s.stage o c).hotDies = s.hotDies := rfl
@[simp] theorem State.stage_log (s : State) (o : Ord) (c : Change) : (s.stage o c).log = s.log := rfl
@[simp] theorem State.stage_sent (s : State) (o : Ord) (c : Change) : (s.stage o c).sent = s.sent := rfl
@[simp] theorem State.stage_corrLogged (s : State) (o : Ord) (c : Change) : (s.stage o c).corrLogged = s.corrLogged := rfl
@[simp] theorem State.stage_aqds (s : State) (o : Ord) (c : Change) : (s.stage o c).aqds = s.aqds := rfl
@[simp] theorem State.stage_linkSlots (s : State) (o : Ord) (c : Change) : (s.stage o c).linkSlots = s.linkSlots := rfl
@[simp] theorem State.stage_routesNow (s : State) (o : Ord) (c : Change) : (s.stage o c).routesNow = s.routesNow := rfl
@[simp] theorem State.stage_ings (s : State) (o : Ord) (c : Change) : (s.stage o c).ings = s.ings := rfl
@[simp] theorem State.stage_encQ (s : State) (o : Ord) (c : Change) : (s.stage o c).encQ = s.encQ := rfl
@[simp] theorem State.stage_viss (s : State) (o : Ord) (c : Change) : (s.stage o c).viss = s.viss := rfl
@[simp] theorem State.stage_basins (s : State) (o : Ord) (c : Change) : (s.stage o c).basins = s.basins := rfl
@[simp] theorem State.stage_gnss (s : State) (o : Ord) (c : Change) : (s.stage o c).gnss = s.gnss := rfl
@[simp] theorem State.stage_slotMem (s : State) (o : Ord) (c : Change) : (s.stage o c).slotMem = s.slotMem := rfl
@[simp] theorem State.stage_bne (s : State) (o : Ord) (c : Change) : (s.stage o c).bne = s.bne := rfl
@[simp] theorem State.stage_sym (s : State) (o : Ord) (c : Change) : (s.stage o c).sym = s.sym := rfl
@[simp] theorem State.stage_nextSession (s : State) (o : Ord) (c : Change) : (s.stage o c).nextSession = s.nextSession := rfl
@[simp] theorem State.stage_drbg (s : State) (o : Ord) (c : Change) : (s.stage o c).drbg = s.drbg := rfl
@[simp] theorem State.stage_wellStopped (s : State) (o : Ord) (c : Change) : (s.stage o c).wellStopped = s.wellStopped := rfl
@[simp] theorem State.stage_idKey (s : State) (o : Ord) (c : Change) : (s.stage o c).idKey = s.idKey := rfl
@[simp] theorem State.stage_closed (s : State) (o : Ord) (c : Change) : (s.stage o c).closed = s.closed := rfl
@[simp] theorem State.stage_reopens (s : State) (o : Ord) (c : Change) : (s.stage o c).reopens = s.reopens := rfl
@[simp] theorem State.stage_chipSince (s : State) (o : Ord) (c : Change) : (s.stage o c).chipSince = s.chipSince := rfl
@[simp] theorem State.stage_lastSluice (s : State) (o : Ord) (c : Change) : (s.stage o c).lastSluice = s.lastSluice := rfl
@[simp] theorem State.stage_bringingUp (s : State) (o : Ord) (c : Change) : (s.stage o c).bringingUp = s.bringingUp := rfl
@[simp] theorem State.stage_ramps (s : State) (o : Ord) (c : Change) : (s.stage o c).ramps = s.ramps := rfl
@[simp] theorem State.stage_bringup (s : State) (o : Ord) (c : Change) : (s.stage o c).bringup = s.bringup := rfl
@[simp] theorem State.stage_rampStarts (s : State) (o : Ord) (c : Change) : (s.stage o c).rampStarts = s.rampStarts := rfl
@[simp] theorem State.stage_failedUnits (s : State) (o : Ord) (c : Change) : (s.stage o c).failedUnits = s.failedUnits := rfl
@[simp] theorem State.stage_test (s : State) (o : Ord) (c : Change) : (s.stage o c).test = s.test := rfl
@[simp] theorem State.stage_testsWaiting (s : State) (o : Ord) (c : Change) : (s.stage o c).testsWaiting = s.testsWaiting := rfl
@[simp] theorem State.stage_testRuns (s : State) (o : Ord) (c : Change) : (s.stage o c).testRuns = s.testRuns := rfl
@[simp] theorem State.stage_testTurn (s : State) (o : Ord) (c : Change) : (s.stage o c).testTurn = s.testTurn := rfl
@[simp] theorem State.stage_testUnit (s : State) (o : Ord) (c : Change) : (s.stage o c).testUnit = s.testUnit := rfl
@[simp] theorem State.stage_fuseTrim (s : State) (o : Ord) (c : Change) : (s.stage o c).fuseTrim = s.fuseTrim := rfl
@[simp] theorem State.stage_fuseFault (s : State) (o : Ord) (c : Change) : (s.stage o c).fuseFault = s.fuseFault := rfl
@[simp] theorem State.stage_fuseSpm (s : State) (o : Ord) (c : Change) : (s.stage o c).fuseSpm = s.fuseSpm := rfl
@[simp] theorem State.stage_fuseHbm (s : State) (o : Ord) (c : Change) : (s.stage o c).fuseHbm = s.fuseHbm := rfl
@[simp] theorem State.stage_vsel (s : State) (o : Ord) (c : Change) : (s.stage o c).vsel = s.vsel := rfl
@[simp] theorem State.stage_pinRecs (s : State) (o : Ord) (c : Change) : (s.stage o c).pinRecs = s.pinRecs := rfl
@[simp] theorem State.stage_i2cs (s : State) (o : Ord) (c : Change) : (s.stage o c).i2cs = s.i2cs := rfl
@[simp] theorem State.stage_gau (s : State) (o : Ord) (c : Change) : (s.stage o c).gau = s.gau := rfl
@[simp] theorem State.stage_strobes (s : State) (o : Ord) (c : Change) : (s.stage o c).strobes = s.strobes := rfl
@[simp] theorem State.stage_strobeHigh (s : State) (o : Ord) (c : Change) : (s.stage o c).strobeHigh = s.strobeHigh := rfl
@[simp] theorem State.stage_pinRaw (s : State) (o : Ord) (c : Change) : (s.stage o c).pinRaw = s.pinRaw := rfl
@[simp] theorem State.stage_pinSince (s : State) (o : Ord) (c : Change) : (s.stage o c).pinSince = s.pinSince := rfl
@[simp] theorem State.stage_prevLength (s : State) (o : Ord) (c : Change) : (s.stage o c).prevLength = s.prevLength := rfl
@[simp] theorem State.stage_prevHz (s : State) (o : Ord) (c : Change) : (s.stage o c).prevHz = s.prevHz := rfl
@[simp] theorem State.stage_prevTurn (s : State) (o : Ord) (c : Change) : (s.stage o c).prevTurn = s.prevTurn := rfl
@[simp] theorem State.stage_ppsHigh (s : State) (o : Ord) (c : Change) : (s.stage o c).ppsHigh = s.ppsHigh := rfl
@[simp] theorem State.stage_ppsDue (s : State) (o : Ord) (c : Change) : (s.stage o c).ppsDue = s.ppsDue := rfl
@[simp] theorem State.stage_perst (s : State) (o : Ord) (c : Change) : (s.stage o c).perst = s.perst := rfl
@[simp] theorem State.stage_tripped (s : State) (o : Ord) (c : Change) : (s.stage o c).tripped = s.tripped := rfl
@[simp] theorem State.stage_walkerOnce (s : State) (o : Ord) (c : Change) : (s.stage o c).walkerOnce = s.walkerOnce := rfl
@[simp] theorem State.stage_powerGood (s : State) (o : Ord) (c : Change) : (s.stage o c).powerGood = s.powerGood := rfl
@[simp] theorem State.stage_jtagIr (s : State) (o : Ord) (c : Change) : (s.stage o c).jtagIr = s.jtagIr := rfl
@[simp] theorem State.stage_boundary (s : State) (o : Ord) (c : Change) : (s.stage o c).boundary = s.boundary := rfl
@[simp] theorem State.reg_stage (s : State) (o : Ord) (c : Change) (o2 : Nat) : (s.stage o c).reg o2 = s.reg o2 := rfl
@[simp] theorem State.get_stage (s : State) (o : Ord) (c : Change) (g : Fld) : (s.stage o c).get g = s.get g := rfl
@[simp] theorem State.queue_stage (s : State) (o : Ord) (c : Change) (q2 : Nat) : (s.stage o c).queue q2 = s.queue q2 := rfl
@[simp] theorem State.allot_stage (s : State) (o : Ord) (c : Change) (a2 : Nat) : (s.stage o c).allot a2 = s.allot a2 := rfl
@[simp] theorem State.core_stage (s : State) (o : Ord) (c : Change) (c2 : Nat) : (s.stage o c).core c2 = s.core c2 := rfl
@[simp] theorem State.rd_stage (s : State) (o : Ord) (c : Change) (a2 : Nat) : (s.stage o c).rd a2 = s.rd a2 := rfl

/-! ## park -/

@[simp] theorem State.park_pending (s : State) (o : Ord) : (s.park o).pending = s.pending := rfl
@[simp] theorem State.park_stores (s : State) (o : Ord) : (s.park o).stores = s.stores := rfl
@[simp] theorem State.park_mem (s : State) (o : Ord) : (s.park o).mem = s.mem := rfl
@[simp] theorem State.park_free (s : State) (o : Ord) : (s.park o).free = s.free := rfl
@[simp] theorem State.park_regs (s : State) (o : Ord) : (s.park o).regs = s.regs := rfl
@[simp] theorem State.park_latch (s : State) (o : Ord) : (s.park o).latch = s.latch := rfl
@[simp] theorem State.park_spmCounts (s : State) (o : Ord) : (s.park o).spmCounts = s.spmCounts := rfl
@[simp] theorem State.park_spmLatch (s : State) (o : Ord) : (s.park o).spmLatch = s.spmLatch := rfl
@[simp] theorem State.park_wck (s : State) (o : Ord) : (s.park o).wck = s.wck := rfl
@[simp] theorem State.park_queues (s : State) (o : Ord) : (s.park o).queues = s.queues := rfl
@[simp] theorem State.park_granted (s : State) (o : Ord) : (s.park o).granted = s.granted := rfl
@[simp] theorem State.park_inflight (s : State) (o : Ord) : (s.park o).inflight = s.inflight := rfl
@[simp] theorem State.park_staged (s : State) (o : Ord) : (s.park o).staged = s.staged := rfl
@[simp] theorem State.park_fallowDue (s : State) (o : Ord) : (s.park o).fallowDue = s.fallowDue := rfl
@[simp] theorem State.park_allots (s : State) (o : Ord) : (s.park o).allots = s.allots := rfl
@[simp] theorem State.park_load (s : State) (o : Ord) : (s.park o).load = s.load := rfl
@[simp] theorem State.park_fences (s : State) (o : Ord) : (s.park o).fences = s.fences := rfl
@[simp] theorem State.park_scrubs (s : State) (o : Ord) : (s.park o).scrubs = s.scrubs := rfl
@[simp] theorem State.park_tcache (s : State) (o : Ord) : (s.park o).tcache = s.tcache := rfl
@[simp] theorem State.park_vfEnabled (s : State) (o : Ord) : (s.park o).vfEnabled = s.vfEnabled := rfl
@[simp] theorem State.park_cores (s : State) (o : Ord) : (s.park o).cores = s.cores := rfl
@[simp] theorem State.park_blkTag (s : State) (o : Ord) : (s.park o).blkTag = s.blkTag := rfl
@[simp] theorem State.park_blkCode (s : State) (o : Ord) : (s.park o).blkCode = s.blkCode := rfl
@[simp] theorem State.park_fluUntil (s : State) (o : Ord) : (s.park o).fluUntil = s.fluUntil := rfl
@[simp] theorem State.park_early (s : State) (o : Ord) : (s.park o).early = s.early := rfl
@[simp] theorem State.park_bufSet (s : State) (o : Ord) : (s.park o).bufSet = s.bufSet := rfl
@[simp] theorem State.park_rewriteQ (s : State) (o : Ord) : (s.park o).rewriteQ = s.rewriteQ := rfl
@[simp] theorem State.park_hotStacks (s : State) (o : Ord) : (s.park o).hotStacks = s.hotStacks := rfl
@[simp] theorem State.park_hotDies (s : State) (o : Ord) : (s.park o).hotDies = s.hotDies := rfl
@[simp] theorem State.park_log (s : State) (o : Ord) : (s.park o).log = s.log := rfl
@[simp] theorem State.park_sent (s : State) (o : Ord) : (s.park o).sent = s.sent := rfl
@[simp] theorem State.park_corrLogged (s : State) (o : Ord) : (s.park o).corrLogged = s.corrLogged := rfl
@[simp] theorem State.park_aqds (s : State) (o : Ord) : (s.park o).aqds = s.aqds := rfl
@[simp] theorem State.park_linkSlots (s : State) (o : Ord) : (s.park o).linkSlots = s.linkSlots := rfl
@[simp] theorem State.park_routesNow (s : State) (o : Ord) : (s.park o).routesNow = s.routesNow := rfl
@[simp] theorem State.park_ings (s : State) (o : Ord) : (s.park o).ings = s.ings := rfl
@[simp] theorem State.park_encQ (s : State) (o : Ord) : (s.park o).encQ = s.encQ := rfl
@[simp] theorem State.park_viss (s : State) (o : Ord) : (s.park o).viss = s.viss := rfl
@[simp] theorem State.park_basins (s : State) (o : Ord) : (s.park o).basins = s.basins := rfl
@[simp] theorem State.park_gnss (s : State) (o : Ord) : (s.park o).gnss = s.gnss := rfl
@[simp] theorem State.park_slotMem (s : State) (o : Ord) : (s.park o).slotMem = s.slotMem := rfl
@[simp] theorem State.park_bne (s : State) (o : Ord) : (s.park o).bne = s.bne := rfl
@[simp] theorem State.park_sym (s : State) (o : Ord) : (s.park o).sym = s.sym := rfl
@[simp] theorem State.park_nextSession (s : State) (o : Ord) : (s.park o).nextSession = s.nextSession := rfl
@[simp] theorem State.park_drbg (s : State) (o : Ord) : (s.park o).drbg = s.drbg := rfl
@[simp] theorem State.park_wellStopped (s : State) (o : Ord) : (s.park o).wellStopped = s.wellStopped := rfl
@[simp] theorem State.park_idKey (s : State) (o : Ord) : (s.park o).idKey = s.idKey := rfl
@[simp] theorem State.park_closed (s : State) (o : Ord) : (s.park o).closed = s.closed := rfl
@[simp] theorem State.park_reopens (s : State) (o : Ord) : (s.park o).reopens = s.reopens := rfl
@[simp] theorem State.park_chipSince (s : State) (o : Ord) : (s.park o).chipSince = s.chipSince := rfl
@[simp] theorem State.park_lastSluice (s : State) (o : Ord) : (s.park o).lastSluice = s.lastSluice := rfl
@[simp] theorem State.park_bringingUp (s : State) (o : Ord) : (s.park o).bringingUp = s.bringingUp := rfl
@[simp] theorem State.park_ramps (s : State) (o : Ord) : (s.park o).ramps = s.ramps := rfl
@[simp] theorem State.park_bringup (s : State) (o : Ord) : (s.park o).bringup = s.bringup := rfl
@[simp] theorem State.park_rampStarts (s : State) (o : Ord) : (s.park o).rampStarts = s.rampStarts := rfl
@[simp] theorem State.park_failedUnits (s : State) (o : Ord) : (s.park o).failedUnits = s.failedUnits := rfl
@[simp] theorem State.park_test (s : State) (o : Ord) : (s.park o).test = s.test := rfl
@[simp] theorem State.park_testsWaiting (s : State) (o : Ord) : (s.park o).testsWaiting = s.testsWaiting := rfl
@[simp] theorem State.park_testRuns (s : State) (o : Ord) : (s.park o).testRuns = s.testRuns := rfl
@[simp] theorem State.park_testTurn (s : State) (o : Ord) : (s.park o).testTurn = s.testTurn := rfl
@[simp] theorem State.park_testUnit (s : State) (o : Ord) : (s.park o).testUnit = s.testUnit := rfl
@[simp] theorem State.park_fuseTrim (s : State) (o : Ord) : (s.park o).fuseTrim = s.fuseTrim := rfl
@[simp] theorem State.park_fuseFault (s : State) (o : Ord) : (s.park o).fuseFault = s.fuseFault := rfl
@[simp] theorem State.park_fuseSpm (s : State) (o : Ord) : (s.park o).fuseSpm = s.fuseSpm := rfl
@[simp] theorem State.park_fuseHbm (s : State) (o : Ord) : (s.park o).fuseHbm = s.fuseHbm := rfl
@[simp] theorem State.park_vsel (s : State) (o : Ord) : (s.park o).vsel = s.vsel := rfl
@[simp] theorem State.park_pinRecs (s : State) (o : Ord) : (s.park o).pinRecs = s.pinRecs := rfl
@[simp] theorem State.park_i2cs (s : State) (o : Ord) : (s.park o).i2cs = s.i2cs := rfl
@[simp] theorem State.park_gau (s : State) (o : Ord) : (s.park o).gau = s.gau := rfl
@[simp] theorem State.park_strobes (s : State) (o : Ord) : (s.park o).strobes = s.strobes := rfl
@[simp] theorem State.park_strobeHigh (s : State) (o : Ord) : (s.park o).strobeHigh = s.strobeHigh := rfl
@[simp] theorem State.park_pinRaw (s : State) (o : Ord) : (s.park o).pinRaw = s.pinRaw := rfl
@[simp] theorem State.park_pinSince (s : State) (o : Ord) : (s.park o).pinSince = s.pinSince := rfl
@[simp] theorem State.park_prevLength (s : State) (o : Ord) : (s.park o).prevLength = s.prevLength := rfl
@[simp] theorem State.park_prevHz (s : State) (o : Ord) : (s.park o).prevHz = s.prevHz := rfl
@[simp] theorem State.park_prevTurn (s : State) (o : Ord) : (s.park o).prevTurn = s.prevTurn := rfl
@[simp] theorem State.park_ppsHigh (s : State) (o : Ord) : (s.park o).ppsHigh = s.ppsHigh := rfl
@[simp] theorem State.park_ppsDue (s : State) (o : Ord) : (s.park o).ppsDue = s.ppsDue := rfl
@[simp] theorem State.park_perst (s : State) (o : Ord) : (s.park o).perst = s.perst := rfl
@[simp] theorem State.park_tripped (s : State) (o : Ord) : (s.park o).tripped = s.tripped := rfl
@[simp] theorem State.park_walkerOnce (s : State) (o : Ord) : (s.park o).walkerOnce = s.walkerOnce := rfl
@[simp] theorem State.park_powerGood (s : State) (o : Ord) : (s.park o).powerGood = s.powerGood := rfl
@[simp] theorem State.park_jtagIr (s : State) (o : Ord) : (s.park o).jtagIr = s.jtagIr := rfl
@[simp] theorem State.park_boundary (s : State) (o : Ord) : (s.park o).boundary = s.boundary := rfl
@[simp] theorem State.reg_park (s : State) (o : Ord) (o2 : Nat) : (s.park o).reg o2 = s.reg o2 := rfl
@[simp] theorem State.get_park (s : State) (o : Ord) (g : Fld) : (s.park o).get g = s.get g := rfl
@[simp] theorem State.queue_park (s : State) (o : Ord) (q2 : Nat) : (s.park o).queue q2 = s.queue q2 := rfl
@[simp] theorem State.allot_park (s : State) (o : Ord) (a2 : Nat) : (s.park o).allot a2 = s.allot a2 := rfl
@[simp] theorem State.core_park (s : State) (o : Ord) (c2 : Nat) : (s.park o).core c2 = s.core c2 := rfl
@[simp] theorem State.rd_park (s : State) (o : Ord) (a2 : Nat) : (s.park o).rd a2 = s.rd a2 := rfl

/-! ## took -/

@[simp] theorem State.took_pending (s : State) (o : Ord) : (s.took o).pending = s.pending := rfl
@[simp] theorem State.took_stores (s : State) (o : Ord) : (s.took o).stores = s.stores := rfl
@[simp] theorem State.took_mem (s : State) (o : Ord) : (s.took o).mem = s.mem := rfl
@[simp] theorem State.took_free (s : State) (o : Ord) : (s.took o).free = s.free := rfl
@[simp] theorem State.took_regs (s : State) (o : Ord) : (s.took o).regs = s.regs := rfl
@[simp] theorem State.took_latch (s : State) (o : Ord) : (s.took o).latch = s.latch := rfl
@[simp] theorem State.took_spmCounts (s : State) (o : Ord) : (s.took o).spmCounts = s.spmCounts := rfl
@[simp] theorem State.took_spmLatch (s : State) (o : Ord) : (s.took o).spmLatch = s.spmLatch := rfl
@[simp] theorem State.took_wck (s : State) (o : Ord) : (s.took o).wck = s.wck := rfl
@[simp] theorem State.took_queues (s : State) (o : Ord) : (s.took o).queues = s.queues := rfl
@[simp] theorem State.took_granted (s : State) (o : Ord) : (s.took o).granted = s.granted := rfl
@[simp] theorem State.took_waiting (s : State) (o : Ord) : (s.took o).waiting = s.waiting := rfl
@[simp] theorem State.took_staged (s : State) (o : Ord) : (s.took o).staged = s.staged := rfl
@[simp] theorem State.took_fallowDue (s : State) (o : Ord) : (s.took o).fallowDue = s.fallowDue := rfl
@[simp] theorem State.took_allots (s : State) (o : Ord) : (s.took o).allots = s.allots := rfl
@[simp] theorem State.took_load (s : State) (o : Ord) : (s.took o).load = s.load := rfl
@[simp] theorem State.took_fences (s : State) (o : Ord) : (s.took o).fences = s.fences := rfl
@[simp] theorem State.took_scrubs (s : State) (o : Ord) : (s.took o).scrubs = s.scrubs := rfl
@[simp] theorem State.took_tcache (s : State) (o : Ord) : (s.took o).tcache = s.tcache := rfl
@[simp] theorem State.took_vfEnabled (s : State) (o : Ord) : (s.took o).vfEnabled = s.vfEnabled := rfl
@[simp] theorem State.took_cores (s : State) (o : Ord) : (s.took o).cores = s.cores := rfl
@[simp] theorem State.took_blkTag (s : State) (o : Ord) : (s.took o).blkTag = s.blkTag := rfl
@[simp] theorem State.took_blkCode (s : State) (o : Ord) : (s.took o).blkCode = s.blkCode := rfl
@[simp] theorem State.took_fluUntil (s : State) (o : Ord) : (s.took o).fluUntil = s.fluUntil := rfl
@[simp] theorem State.took_early (s : State) (o : Ord) : (s.took o).early = s.early := rfl
@[simp] theorem State.took_bufSet (s : State) (o : Ord) : (s.took o).bufSet = s.bufSet := rfl
@[simp] theorem State.took_rewriteQ (s : State) (o : Ord) : (s.took o).rewriteQ = s.rewriteQ := rfl
@[simp] theorem State.took_hotStacks (s : State) (o : Ord) : (s.took o).hotStacks = s.hotStacks := rfl
@[simp] theorem State.took_hotDies (s : State) (o : Ord) : (s.took o).hotDies = s.hotDies := rfl
@[simp] theorem State.took_log (s : State) (o : Ord) : (s.took o).log = s.log := rfl
@[simp] theorem State.took_sent (s : State) (o : Ord) : (s.took o).sent = s.sent := rfl
@[simp] theorem State.took_corrLogged (s : State) (o : Ord) : (s.took o).corrLogged = s.corrLogged := rfl
@[simp] theorem State.took_aqds (s : State) (o : Ord) : (s.took o).aqds = s.aqds := rfl
@[simp] theorem State.took_linkSlots (s : State) (o : Ord) : (s.took o).linkSlots = s.linkSlots := rfl
@[simp] theorem State.took_routesNow (s : State) (o : Ord) : (s.took o).routesNow = s.routesNow := rfl
@[simp] theorem State.took_ings (s : State) (o : Ord) : (s.took o).ings = s.ings := rfl
@[simp] theorem State.took_encQ (s : State) (o : Ord) : (s.took o).encQ = s.encQ := rfl
@[simp] theorem State.took_viss (s : State) (o : Ord) : (s.took o).viss = s.viss := rfl
@[simp] theorem State.took_basins (s : State) (o : Ord) : (s.took o).basins = s.basins := rfl
@[simp] theorem State.took_gnss (s : State) (o : Ord) : (s.took o).gnss = s.gnss := rfl
@[simp] theorem State.took_slotMem (s : State) (o : Ord) : (s.took o).slotMem = s.slotMem := rfl
@[simp] theorem State.took_bne (s : State) (o : Ord) : (s.took o).bne = s.bne := rfl
@[simp] theorem State.took_sym (s : State) (o : Ord) : (s.took o).sym = s.sym := rfl
@[simp] theorem State.took_nextSession (s : State) (o : Ord) : (s.took o).nextSession = s.nextSession := rfl
@[simp] theorem State.took_drbg (s : State) (o : Ord) : (s.took o).drbg = s.drbg := rfl
@[simp] theorem State.took_wellStopped (s : State) (o : Ord) : (s.took o).wellStopped = s.wellStopped := rfl
@[simp] theorem State.took_idKey (s : State) (o : Ord) : (s.took o).idKey = s.idKey := rfl
@[simp] theorem State.took_closed (s : State) (o : Ord) : (s.took o).closed = s.closed := rfl
@[simp] theorem State.took_reopens (s : State) (o : Ord) : (s.took o).reopens = s.reopens := rfl
@[simp] theorem State.took_chipSince (s : State) (o : Ord) : (s.took o).chipSince = s.chipSince := rfl
@[simp] theorem State.took_lastSluice (s : State) (o : Ord) : (s.took o).lastSluice = s.lastSluice := rfl
@[simp] theorem State.took_bringingUp (s : State) (o : Ord) : (s.took o).bringingUp = s.bringingUp := rfl
@[simp] theorem State.took_ramps (s : State) (o : Ord) : (s.took o).ramps = s.ramps := rfl
@[simp] theorem State.took_bringup (s : State) (o : Ord) : (s.took o).bringup = s.bringup := rfl
@[simp] theorem State.took_rampStarts (s : State) (o : Ord) : (s.took o).rampStarts = s.rampStarts := rfl
@[simp] theorem State.took_failedUnits (s : State) (o : Ord) : (s.took o).failedUnits = s.failedUnits := rfl
@[simp] theorem State.took_test (s : State) (o : Ord) : (s.took o).test = s.test := rfl
@[simp] theorem State.took_testsWaiting (s : State) (o : Ord) : (s.took o).testsWaiting = s.testsWaiting := rfl
@[simp] theorem State.took_testRuns (s : State) (o : Ord) : (s.took o).testRuns = s.testRuns := rfl
@[simp] theorem State.took_testTurn (s : State) (o : Ord) : (s.took o).testTurn = s.testTurn := rfl
@[simp] theorem State.took_testUnit (s : State) (o : Ord) : (s.took o).testUnit = s.testUnit := rfl
@[simp] theorem State.took_fuseTrim (s : State) (o : Ord) : (s.took o).fuseTrim = s.fuseTrim := rfl
@[simp] theorem State.took_fuseFault (s : State) (o : Ord) : (s.took o).fuseFault = s.fuseFault := rfl
@[simp] theorem State.took_fuseSpm (s : State) (o : Ord) : (s.took o).fuseSpm = s.fuseSpm := rfl
@[simp] theorem State.took_fuseHbm (s : State) (o : Ord) : (s.took o).fuseHbm = s.fuseHbm := rfl
@[simp] theorem State.took_vsel (s : State) (o : Ord) : (s.took o).vsel = s.vsel := rfl
@[simp] theorem State.took_pinRecs (s : State) (o : Ord) : (s.took o).pinRecs = s.pinRecs := rfl
@[simp] theorem State.took_i2cs (s : State) (o : Ord) : (s.took o).i2cs = s.i2cs := rfl
@[simp] theorem State.took_gau (s : State) (o : Ord) : (s.took o).gau = s.gau := rfl
@[simp] theorem State.took_strobes (s : State) (o : Ord) : (s.took o).strobes = s.strobes := rfl
@[simp] theorem State.took_strobeHigh (s : State) (o : Ord) : (s.took o).strobeHigh = s.strobeHigh := rfl
@[simp] theorem State.took_pinRaw (s : State) (o : Ord) : (s.took o).pinRaw = s.pinRaw := rfl
@[simp] theorem State.took_pinSince (s : State) (o : Ord) : (s.took o).pinSince = s.pinSince := rfl
@[simp] theorem State.took_prevLength (s : State) (o : Ord) : (s.took o).prevLength = s.prevLength := rfl
@[simp] theorem State.took_prevHz (s : State) (o : Ord) : (s.took o).prevHz = s.prevHz := rfl
@[simp] theorem State.took_prevTurn (s : State) (o : Ord) : (s.took o).prevTurn = s.prevTurn := rfl
@[simp] theorem State.took_ppsHigh (s : State) (o : Ord) : (s.took o).ppsHigh = s.ppsHigh := rfl
@[simp] theorem State.took_ppsDue (s : State) (o : Ord) : (s.took o).ppsDue = s.ppsDue := rfl
@[simp] theorem State.took_perst (s : State) (o : Ord) : (s.took o).perst = s.perst := rfl
@[simp] theorem State.took_tripped (s : State) (o : Ord) : (s.took o).tripped = s.tripped := rfl
@[simp] theorem State.took_walkerOnce (s : State) (o : Ord) : (s.took o).walkerOnce = s.walkerOnce := rfl
@[simp] theorem State.took_powerGood (s : State) (o : Ord) : (s.took o).powerGood = s.powerGood := rfl
@[simp] theorem State.took_jtagIr (s : State) (o : Ord) : (s.took o).jtagIr = s.jtagIr := rfl
@[simp] theorem State.took_boundary (s : State) (o : Ord) : (s.took o).boundary = s.boundary := rfl
@[simp] theorem State.reg_took (s : State) (o : Ord) (o2 : Nat) : (s.took o).reg o2 = s.reg o2 := rfl
@[simp] theorem State.get_took (s : State) (o : Ord) (g : Fld) : (s.took o).get g = s.get g := rfl
@[simp] theorem State.queue_took (s : State) (o : Ord) (q2 : Nat) : (s.took o).queue q2 = s.queue q2 := rfl
@[simp] theorem State.allot_took (s : State) (o : Ord) (a2 : Nat) : (s.took o).allot a2 = s.allot a2 := rfl
@[simp] theorem State.core_took (s : State) (o : Ord) (c2 : Nat) : (s.took o).core c2 = s.core c2 := rfl
@[simp] theorem State.rd_took (s : State) (o : Ord) (a2 : Nat) : (s.took o).rd a2 = s.rd a2 := rfl

end Sys2Proof.Machine
end

