-- ==== Sys2Proof/Laws/Ops.lean ====
section
/-! SUPPORT. What each shared operation can do, said once: how a meaning ends, and which fields the log, a tally, the
clock, a store, the consumption and the end of an order may change. -/

namespace Sys2Proof.Machine

/-! ## How a meaning ends -/

/-- A meaning answers the state of its effect, the queue as the step left it, its stores drained into memory. -/
theorem run_eq (s : State) (f : State → State) :
    run s f = .next { f { s with stores := [] } with
      pending := s.pending, mem := memDrain s.mem (f { s with stores := [] }).stores, stores := [] } := rfl

/-- A command that names an existing unit runs; another stops. -/
theorem unit_of_lt {n i : Nat} (h : i < n) (s : State) (f : State → State) : unit n i s f = run s f := if_pos h

theorem unit_of_ge {n i : Nat} (h : n ≤ i) (s : State) (f : State → State) : unit n i s f = .fault .noSuchUnit :=
  if_neg (Nat.not_lt.2 h)

/-- An effect that stores nothing is answered as it is. -/
theorem settle_clean {s t : State} (hp : t.pending = s.pending) (hm : t.mem = s.mem) (hs : t.stores = []) :
    settle s t = .next t := by
  unfold settle
  rw [← hp, hs, ← hm]
  obtain ⟨⟩ := t
  simp only at hs
  subst hs
  rfl

/-- What every meaning that ends in `run` answers. -/
theorem run_spec {s t : State} {f : State → State} (h : run s f = .next t) :
    t.pending = s.pending ∧ t.stores = [] ∧ (memWf s.mem = true → memWf t.mem = true) := by
  rw [run_eq] at h
  cases h
  exact ⟨rfl, rfl, memWf_memDrain _ _⟩

/-- What every meaning that ends in `unit` answers. -/
theorem unit_spec {n i : Nat} {s t : State} {f : State → State} (h : unit n i s f = .next t) :
    t.pending = s.pending ∧ t.stores = [] ∧ (memWf s.mem = true → memWf t.mem = true) := by
  unfold unit at h
  split at h
  · exact run_spec h
  · cases h

/-- A running command reads what it stored, and elsewhere what external memory holds. -/
theorem rd_nil (s : State) (a : Nat) (h : s.stores = []) : s.rd a = smGet memDefault s.mem a := by
  simp [State.rd, h, storedByte]

/-- The byte at an address after a command, read through the state that its effect gives. -/
theorem rd_run {s t : State} {f : State → State} (h : run s f = .next t)
    (hm : (f { s with stores := [] }).mem = s.mem) (a : Nat) : t.rd a = (f { s with stores := [] }).rd a := by
  rw [run_eq] at h
  cases h
  simp only [State.rd, storedByte, Option.getD_none, smGet_memDrain, hm]

/-! ## Stores -/

theorem wrRaw_eq (s : State) (a : Nat) (b : Bytes) : s.wrRaw a b = { s with stores := (s.wrRaw a b).stores } := by
  induction b generalizing s a with
  | nil => rfl
  | cons x r ih => rw [State.wrRaw, ih]

theorem storedByte_wrRaw (s : State) (a x : Nat) (b : Bytes) :
    storedByte x (s.wrRaw a b).stores = if a ≤ x ∧ x < a + b.length then some (b.getD (x - a) 0) else storedByte x s.stores := by
  induction b generalizing s a with
  | nil => rw [if_neg (by simp only [List.length_nil]; omega)]; rfl
  | cons v r ih =>
    rw [State.wrRaw, ih]
    simp only [storedByte, List.length_cons]
    by_cases h : x = a
    · subst h; rw [if_neg (by omega), if_pos rfl, if_pos (by omega)]; simp
    · by_cases h1 : a + 1 ≤ x ∧ x < a + 1 + r.length
      · rw [if_pos h1, if_pos (by omega)]
        have : x - a = (x - (a + 1)) + 1 := by omega
        rw [this, List.getD_cons_succ]
      · rw [if_neg h1, if_neg h, if_neg (by omega)]

/-- After a write, the bytes written read as written and every other byte as before. -/
theorem rd_wrRaw (s : State) (a x : Nat) (b : Bytes) :
    (s.wrRaw a b).rd x = if a ≤ x ∧ x < a + b.length then b.getD (x - a) 0 else s.rd x := by
  unfold State.rd
  rw [storedByte_wrRaw, wrRaw_eq]
  split <;> rfl

/-! ## Log, tallies, clock -/

/-- A log entry changes the log and its registers, nothing else. -/
theorem logEntry_eq (s : State) (e : LogEntry) : ∃ regs log, s.logEntry e = { s with regs := regs, log := log } := by
  unfold State.logEntry
  dsimp only
  split
  · exact ⟨_, _, rfl⟩
  · exact ⟨_, _, rfl⟩

/-- A tally changes its queue and the count of tallies held, nothing else. -/
theorem pushTally_eq (s : State) (q : Nat) (t : Tally) :
    ∃ regs queues, s.pushTally q t = { s with regs := regs, queues := queues } := ⟨_, _, rfl⟩

/-- A tally is added at the end of its queue. -/
theorem queue_pushTally (s : State) (q : Nat) (t : Tally) :
    (s.pushTally q t).queue q =
      { s.queue q with out := (s.queue q).out ++ [{ t with cycle := s.wck.cycle, turn := s.wck.turn }] } := by
  simp [State.pushTally]

theorem queue_pushTally_ne (s : State) {q r : Nat} (t : Tally) (h : r ≠ q) : (s.pushTally q t).queue r = s.queue r := by
  simp [State.pushTally, h]

/-- The clock's advance changes the clock alone. -/
theorem addCycles_eq (s : State) (n : Nat) : ∃ w, s.addCycles n = { s with wck := w } := by
  unfold State.addCycles
  dsimp only
  split
  · exact ⟨_, rfl⟩
  · exact ⟨_, rfl⟩

theorem advanceTo_eq (s : State) (c : Nat) : ∃ w, s.advanceTo c = { s with wck := w } := by
  unfold State.advanceTo
  dsimp only
  split
  · exact addCycles_eq _ _
  · exact ⟨_, rfl⟩

/-! ## Orders -/

theorem foldl_setQueue (f : State → Nat → Queue) (l : List Nat) (s : State) :
    ∃ x, l.foldl (fun t q => t.setQueue q (f t q)) s = { s with queues := x } := by
  induction l generalizing s with
  | nil => exact ⟨_, rfl⟩
  | cons q r ih =>
    obtain ⟨x, h⟩ := ih (s.setQueue q (f s q))
    exact ⟨x, h⟩

/-- A grant changes the credits alone. -/
theorem settleCredits_eq (s : State) (g : Nat) : ∃ x, s.settleCredits g = { s with queues := x } := by
  unfold State.settleCredits
  split
  · exact ⟨_, rfl⟩
  · exact foldl_setQueue _ _ _

/-- Consuming an order changes its queue's record, the credits and registers, nothing else. -/
theorem consume_eq (s : State) (q : Nat) (b : Bytes) :
    ∃ regs queues, s.consume q b = { s with regs := regs, queues := queues } := by
  obtain ⟨x, h⟩ := settleCredits_eq s q
  unfold State.consume
  rw [h]
  exact ⟨_, _, rfl⟩

/-- An order in flight changes the orders in flight, their counts, the count of grants. -/
theorem launch_eq (s : State) (o : Ord) :
    ∃ regs, s.launch o = { s with regs := regs, inflight := s.inflight ++ [o], granted := s.granted + 1 } := ⟨_, rfl⟩

theorem acceptCounter_eq (s : State) (o : Ord) : ∃ x, s.acceptCounter o = { s with allots := x } := by
  unfold State.acceptCounter
  split
  · exact ⟨_, rfl⟩
  · split
    · exact ⟨_, rfl⟩
    · exact ⟨_, rfl⟩

theorem freeLoad_eq (s : State) (o : Ord) :
    ∃ regs allots load, s.freeLoad o = { s with regs := regs, allots := allots, load := load } := by
  unfold State.freeLoad
  dsimp only
  split
  · split
    · exact ⟨_, _, _, rfl⟩
    · exact ⟨_, _, _, rfl⟩
  · exact ⟨_, _, _, rfl⟩

/-- What the end of an order may change. -/
theorem endOrder_eq (s : State) (o : Ord) :
    ∃ regs allots load inflight,
      s.endOrder o = { s with regs := regs, allots := allots, load := load, inflight := inflight } := by
  unfold State.endOrder
  split
  · obtain ⟨r, a, l, h⟩ := freeLoad_eq s o
    rw [h]
    exact ⟨_, _, _, _, rfl⟩
  · exact ⟨_, _, _, _, rfl⟩

/-- What the final tally of an order may change: orders in flight, the load of its allotment, its queue, registers. -/
theorem finish_eq (s : State) (o : Ord) (st item detail : Nat) (m : Bool) :
    ∃ regs allots load inflight queues, s.finish o st item detail m =
      { s with regs := regs, allots := allots, load := load, inflight := inflight, queues := queues } := by
  unfold State.finish
  split
  · obtain ⟨r, a, l, i, h⟩ := endOrder_eq s o
    rw [h]
    exact ⟨_, _, _, _, _, rfl⟩
  · exact ⟨_, _, _, _, _, rfl⟩

end Sys2Proof.Machine
end

