-- ==== Sys2Proof/Laws/Orders.lean ====
section
/-! SUPPORT. What the grant of an order and its final tally do, once for every order. -/

namespace Sys2Proof.Machine

theorem stores_nil {s : State} (h : s.stores = []) : { s with stores := [] } = s := by
  rw [← h]

/-- An order that is granted and passes its checks runs its body in flight. -/
theorem order_taken {sp : Spec} {q : Nat} {host b : Bytes} {s : State} (h : Taken sp q host b s) :
    order sp q host s = sp.body (s.flown q b host) (s.mkOrd q b host) := by
  unfold order
  simp only [h.granted, h.unmarked, h.passes, Spec.apply, State.flown]
  rfl

/-- The outcome of the command of its row. -/
theorem exec_taken {sp : Spec} {q : Nat} {host b : Bytes} {s : State} (h : Taken sp q host b s) :
    unit 64 q s (order sp q host) = settle s (sp.body (s.flown q b host) (s.mkOrd q b host)) := by
  rw [unit_of_lt h.queue, run, stores_nil h.stores, order_taken h]

/-- What the grant may change. -/
theorem flown_eq (s : State) (q : Nat) (b host : Bytes) : ∃ regs queues allots,
    s.flown q b host = { s with
      regs := regs, queues := queues, allots := allots, inflight := s.inflight ++ [s.mkOrd q b host], granted := s.granted + 1 } := by
  obtain ⟨r, x, h⟩ := consume_eq s q b
  unfold State.flown
  obtain ⟨y, hy⟩ := acceptCounter_eq ((s.consume q b).launch (s.mkOrd q b host)) (s.mkOrd q b host)
  rw [hy, h]
  exact ⟨_, _, _, rfl⟩

@[simp] theorem flown_wck (s : State) (q : Nat) (b host : Bytes) : (s.flown q b host).wck = s.wck := by
  obtain ⟨r, x, a, h⟩ := flown_eq s q b host; rw [h]

@[simp] theorem flown_stores (s : State) (q : Nat) (b host : Bytes) : (s.flown q b host).stores = s.stores := by
  obtain ⟨r, x, a, h⟩ := flown_eq s q b host; rw [h]

@[simp] theorem flown_inflight (s : State) (q : Nat) (b host : Bytes) :
    (s.flown q b host).inflight = s.inflight ++ [s.mkOrd q b host] := by
  obtain ⟨r, x, a, h⟩ := flown_eq s q b host; rw [h]

theorem queue_congr {s t : State} (h : s.queues = t.queues) (r : Nat) : s.queue r = t.queue r := by
  unfold State.queue; rw [h]

theorem reg_congr {s t : State} (h : s.regs = t.regs) (r : Nat) : s.reg r = t.reg r := by
  unfold State.reg; rw [h]

theorem acceptCounter_queues (s : State) (o : Ord) : (s.acceptCounter o).queues = s.queues := by
  obtain ⟨x, h⟩ := acceptCounter_eq s o; rw [h]

theorem acceptCounter_regs (s : State) (o : Ord) : (s.acceptCounter o).regs = s.regs := by
  obtain ⟨x, h⟩ := acceptCounter_eq s o; rw [h]

theorem settleCredits_regs (s : State) (g : Nat) : (s.settleCredits g).regs = s.regs := by
  obtain ⟨x, h⟩ := settleCredits_eq s g; rw [h]

/-- Two records of a queue that differ in its credit alone. -/
def SameBut (x y : Queue) : Prop := ∃ c, y = { x with credit := c }

theorem foldl_credit (f : State → Nat → Int) (l : List Nat) (s : State) (r : Nat) :
    SameBut (s.queue r) ((l.foldl (fun t q => t.setQueue q { t.queue q with credit := f t q }) s).queue r) := by
  induction l generalizing s with
  | nil => exact ⟨_, rfl⟩
  | cons q l ih =>
    obtain ⟨c, hc⟩ := ih (s.setQueue q { s.queue q with credit := f s q })
    rw [List.foldl_cons, hc]
    by_cases h : r = q
    · subst h; rw [State.queue_setQueue_self]; exact ⟨_, rfl⟩
    · rw [State.queue_setQueue_ne _ _ h]; exact ⟨_, rfl⟩

theorem settleCredits_queue (s : State) (g r : Nat) : SameBut (s.queue r) ((s.settleCredits g).queue r) := by
  unfold State.settleCredits
  split
  · exact ⟨_, rfl⟩
  · exact foldl_credit _ _ _ _

/-- What a grant leaves of a queue's record. -/
theorem consume_queue (s : State) (q r : Nat) (b : Bytes) : ∃ c f m p,
    (s.consume q b).queue r = { s.queue r with credit := c, fetched := f, tied := m, past := p } := by
  obtain ⟨c, h⟩ := settleCredits_queue s q r
  unfold State.consume
  dsimp only
  rw [State.queue_bump, State.queue_put, State.queue_put]
  by_cases hr : r = q
  · subst hr
    rw [State.queue_setQueue_self, h]; exact ⟨_, _, _, _, rfl⟩
  · rw [State.queue_setQueue_ne _ _ hr, h]; exact ⟨_, _, _, _, rfl⟩

theorem launch_queues (s : State) (o : Ord) : (s.launch o).queues = s.queues := rfl

theorem flown_queue (s : State) (q r : Nat) (b host : Bytes) : ∃ c f m p,
    (s.flown q b host).queue r = { s.queue r with credit := c, fetched := f, tied := m, past := p } := by
  obtain ⟨c, f, m, p, h⟩ := consume_queue s q r b
  refine ⟨c, f, m, p, ?_⟩
  rw [← h]
  exact queue_congr ((acceptCounter_queues _ _).trans (launch_queues _ _)) r

theorem launch_reg (s : State) (o : Ord) {q r : Nat} (hq : o.q = q) (h1 : r ≠ 0x30008) (h2 : r ≠ 0x3102C + 0x40 * q) :
    (s.launch o).reg r = s.reg r := by
  subst hq
  unfold State.launch
  dsimp only
  refine (State.reg_put_ne _ (F.DR_QLOAD_INFLIGHT o.q) _ h2).trans ?_
  refine (State.reg_put_ne _ F.DR_INFLIGHT_ORDERS _ h1).trans ?_
  exact reg_congr rfl r

theorem consume_reg (s : State) (q : Nat) (b : Bytes) {r : Nat} (h1 : r ≠ 0x30010) (h2 : r ≠ 0x31018 + 0x40 * q)
    (h3 : r ≠ 0x31028 + 0x40 * q) : (s.consume q b).reg r = s.reg r := by
  unfold State.consume
  dsimp only
  refine (State.reg_bump_ne _ F.DR_COUNTS_GRANTS _ h1).trans ?_
  refine (State.reg_put_ne _ (F.DR_QSEQ_EXPECT q) _ h3).trans ?_
  refine (State.reg_put_ne _ (F.DR_QPTR_HEAD q) _ h2).trans ?_
  exact reg_congr (settleCredits_regs _ _) r

@[simp] theorem mkOrd_q (s : State) (q : Nat) (b host : Bytes) : (s.mkOrd q b host).q = q := rfl

@[simp] theorem mkOrd_bytes (s : State) (q : Nat) (b host : Bytes) : (s.mkOrd q b host).bytes = b := rfl

/-- Registers that the grant does not write. -/
theorem flown_reg (s : State) (q : Nat) (b host : Bytes) (a r : Nat) (h : r ∉ orderRegs q a) :
    (s.flown q b host).reg r = s.reg r := by
  simp only [orderRegs, List.mem_cons, List.not_mem_nil, or_false, not_or] at h
  obtain ⟨h1, h2, h3, h4, h5, -⟩ := h
  unfold State.flown
  rw [reg_congr (acceptCounter_regs _ _), launch_reg _ _ (mkOrd_q ..) h1 h5, consume_reg _ _ _ h2 h3 h4]

/-- A field that the grant does not write. -/
theorem flown_get_ne (s : State) (q : Nat) (b host : Bytes) (f : Fld) (h1 : f.reg ≠ 0x30008) (h2 : f.reg ≠ 0x30010)
    (h3 : f.reg ≠ 0x31018 + 0x40 * q) (h4 : f.reg ≠ 0x31028 + 0x40 * q) (h5 : f.reg ≠ 0x3102C + 0x40 * q) :
    (s.flown q b host).get f = s.get f := by
  unfold State.get State.flown
  rw [reg_congr (acceptCounter_regs _ _), launch_reg _ _ (mkOrd_q ..) h1 h5, consume_reg _ _ _ h2 h3 h4]

/-- The grant writes only registers of the Ditch Rider. -/
theorem flown_get_far (s : State) (q : Nat) (b host : Bytes) (f : Fld) (hq : q < 64) (h : f.reg < 0x30000 ∨ 0x32000 ≤ f.reg) :
    (s.flown q b host).get f = s.get f := by
  apply flown_get_ne <;> omega

theorem flown_altState (s : State) (q : Nat) (b host : Bytes) (a : Nat) (hq : q < 64) :
    (s.flown q b host).altState a = s.altState a :=
  flown_get_far s q b host (F.ALT_STATE_STATE a) hq (.inr (by show 0x32000 ≤ 0x40100 + 0x100 * a; omega))

theorem flown_anyRunning (s : State) (q : Nat) (b host : Bytes) (hq : q < 64) : (s.flown q b host).anyRunning = s.anyRunning := by
  unfold State.anyRunning
  congr 1
  funext a
  rw [flown_altState _ _ _ _ _ hq]

theorem flown_fallowTurn (s : State) (q : Nat) (b host : Bytes) (hq : q < 64) : (s.flown q b host).fallowTurn = s.fallowTurn := by
  unfold State.fallowTurn
  rw [flown_anyRunning _ _ _ _ hq, flown_wck]

/-! ## The final tally -/

theorem freeLoad_queues (s : State) (o : Ord) : (s.freeLoad o).queues = s.queues := by
  obtain ⟨r, a, l, h⟩ := freeLoad_eq s o; rw [h]

theorem endOrder_queues (s : State) (o : Ord) : (s.endOrder o).queues = s.queues := by
  obtain ⟨r, a, l, i, h⟩ := endOrder_eq s o; rw [h]

theorem endOrder_wck (s : State) (o : Ord) : (s.endOrder o).wck = s.wck := by
  obtain ⟨r, a, l, i, h⟩ := endOrder_eq s o; rw [h]

theorem endOrder_inflight (s : State) (o : Ord) : (s.endOrder o).inflight = s.inflight.filter (fun x => x.id != o.id) := by
  unfold State.endOrder
  split
  · obtain ⟨r, a, l, h⟩ := freeLoad_eq s o
    rw [h]; rfl
  · rename_i h
    symm
    rw [List.filter_eq_self]
    intro x hx
    simp only [List.any_eq_true, not_exists, not_and, beq_iff_eq] at h
    simpa using h x hx

theorem freeLoad_reg (s : State) (o : Ord) {r : Nat} (h : r ≠ 0x40100 + 0x100 * o.allot) : (s.freeLoad o).reg r = s.reg r := by
  unfold State.freeLoad
  dsimp only
  split
  · split
    · exact (State.reg_put_ne _ (F.ALT_STATE_BUSY o.allot) _ h).trans (reg_congr rfl r)
    · rfl
  · rfl

theorem endOrder_reg (s : State) (o : Ord) {r : Nat} (h1 : r ≠ 0x30008) (h2 : r ≠ 0x3102C + 0x40 * o.q)
    (h3 : r ≠ 0x40100 + 0x100 * o.allot) : (s.endOrder o).reg r = s.reg r := by
  unfold State.endOrder
  split
  · dsimp only
    refine (State.reg_put_ne _ (F.DR_QLOAD_INFLIGHT o.q) _ h2).trans ?_
    refine (State.reg_put_ne _ F.DR_INFLIGHT_ORDERS _ h1).trans ?_
    exact (reg_congr rfl r).trans (freeLoad_reg s o h3)
  · rfl

theorem pushTally_reg (s : State) (q : Nat) (t : Tally) {r : Nat} :
    (s.pushTally q t).reg r = s.reg r := reg_congr rfl r

theorem pushTally_inflight (s : State) (q : Nat) (t : Tally) : (s.pushTally q t).inflight = s.inflight := rfl

/-- The final tally of an order in flight. -/
theorem finish_spec (s : State) (o : Ord) (st item detail : Nat) (m : Bool) (h : o ∈ s.inflight) :
    Reports s (s.finish o st item detail m) o st item detail ∧ Ended (s.finish o st item detail m) o
      ∧ (∀ r, r ≠ o.q → (s.finish o st item detail m).queue r = s.queue r)
      ∧ ∀ r, r ≠ 0x30008 → r ≠ 0x3102C + 0x40 * o.q → r ≠ 0x40100 + 0x100 * o.allot →
        (s.finish o st item detail m).reg r = s.reg r := by
  unfold State.finish
  have hs : (s.inflight.find? (fun x => x.id == o.id)).isSome = true := by
    rw [List.find?_isSome]; exact ⟨o, h, by simp⟩
  obtain ⟨x, hx⟩ := Option.isSome_iff_exists.1 hs
  simp only [hx]
  refine ⟨⟨m || x.margin, ?_⟩, ?_, ?_, ?_⟩
  · rw [queue_pushTally, queue_congr (endOrder_queues s o), endOrder_wck]
  · intro y hy
    rw [pushTally_inflight, endOrder_inflight] at hy
    simpa using (List.mem_filter.1 hy).2
  · intro r hr
    rw [queue_pushTally_ne _ _ hr, queue_congr (endOrder_queues s o)]
  · intro r h1 h2 h3
    rw [pushTally_reg, endOrder_reg _ _ h1 h2 h3]

theorem mkOrd_mem_flown (s : State) (q : Nat) (b host : Bytes) : s.mkOrd q b host ∈ (s.flown q b host).inflight := by
  simp

/-! ## The commands that are orders -/

/-- The command of an order's row is that row's order. -/
theorem orderRow_exec {c : Instr} {sp q host} (h : orderRow c = some (sp, q, host)) (s : State) :
    exec c s = unit 64 q s (order sp q host) := by
  cases c
  all_goals first
    | (simp only [orderRow, Option.some.injEq, Prod.mk.injEq] at h
       obtain ⟨rfl, rfl, rfl⟩ := h
       rfl)
    | (simp only [orderRow, reduceCtorEq] at h)

theorem consume_get_seq (s : State) (q b) : (s.consume q b).get (F.DR_QSEQ_EXPECT q) = (s.get (F.DR_QSEQ_EXPECT q) + 1) % 2 ^ 32
   ∧ (s.consume q b).get (F.DR_QPTR_HEAD q) = (s.get (F.DR_QPTR_HEAD q) + unitsOf b) % 2 ^ 32 := by
  have hs : ∀ f, State.get (State.setQueue (s.settleCredits q) q { (s.settleCredits q).queue q with fetched := none, tied := false, past := smSet (0, 255) ((s.settleCredits q).queue q).past (hdrSeq b) (hdrOp b, hdrAllot b) }) f = s.get f := by
    intro f; rw [State.get_setQueue]; unfold State.get; rw [reg_congr (settleCredits_regs s q)]
  unfold State.consume State.bump
  dsimp only
  constructor
  · rw [State.get_put_reg _ F.DR_COUNTS_GRANTS _ _ (by show 0x31028 + 0x40 * q ≠ 0x30010; omega)]
    rw [State.get_put_self _ _ _ (by show 0 + 32 ≤ 64; omega)]
    rw [State.get_put_reg _ (F.DR_QPTR_HEAD q) _ _ (by show 0x31028 + 0x40 * q ≠ 0x31018 + 0x40 * q; omega), hs]
    rfl
  · rw [State.get_put_reg _ F.DR_COUNTS_GRANTS _ _ (by show 0x31018 + 0x40 * q ≠ 0x30010; omega)]
    rw [State.get_put_reg _ (F.DR_QSEQ_EXPECT q) _ _ (by show 0x31018 + 0x40 * q ≠ 0x31028 + 0x40 * q; omega)]
    rw [State.get_put_self _ _ _ (by show 0 + 32 ≤ 64; omega), hs]
    rfl

theorem flown_get (s : State) (q b host) (f : Fld) (h1 : f.reg ≠ 0x30008) (h2 : f.reg ≠ 0x3102C + 0x40 * q) : (s.flown q b host).get f = (s.consume q b).get f := by
  unfold State.get State.flown
  rw [reg_congr (acceptCounter_regs _ _), launch_reg _ _ (mkOrd_q ..) h1 h2]

theorem consume_fetched (s : State) (q b) : ((s.consume q b).queue q).fetched = none := by
  unfold State.consume
  dsimp only
  rw [State.queue_bump, State.queue_put, State.queue_put, State.queue_setQueue_self]
theorem finish_wck (s : State) (o st i d m) : (s.finish o st i d m).wck = s.wck := by
  obtain ⟨_, _, _, _, _, h⟩ := finish_eq s o st i d m; rw [h]

theorem only_of {s u t : State} {q a : Nat} {o : Ord} {st i d m} (hq : o.q = q) (ha : o.allot = a)
    (hu : ∃ regs queues allots inflight granted sent, u = { s with regs := regs, queues := queues, allots := allots, inflight := inflight, granted := granted, sent := sent })
    (hr : ∀ r, r ∉ orderRegs q a → u.reg r = s.reg r)
    (hqq : ∀ r, ∃ c f m p, u.queue r = { s.queue r with credit := c, fetched := f, tied := m, past := p })
    (ho : o ∈ u.inflight) (ht : t = u.finish o st i d m) : OnlyOrder s t q a := by
  obtain ⟨e1, e2, e3, e4⟩ := finish_spec u o st i d m ho
  obtain ⟨x1, x2, x3, x4, x5, hf⟩ := finish_eq u o st i d m
  obtain ⟨y1, y2, y3, y4, y5, y6, hu⟩ := hu
  subst ht
  have hrest : u.finish o st i d m = { s with
    regs := (u.finish o st i d m).regs, queues := (u.finish o st i d m).queues, inflight := (u.finish o st i d m).inflight, granted := (u.finish o st i d m).granted, allots := (u.finish o st i d m).allots, load := (u.finish o st i d m).load, sent := (u.finish o st i d m).sent } := by
    rw [hf, hu]
  refine ⟨hrest, ?_, ?_, ?_⟩
  · intro r h
    rw [← hr r h]
    simp only [orderRegs, List.mem_cons, List.not_mem_nil, or_false, not_or] at h
    exact e4 r h.1 (by rw [hq]; exact h.2.2.2.2.1) (by rw [ha]; exact h.2.2.2.2.2)
  · intro x; rw [hrest]; rfl
  · intro r h
    rw [e3 r (by rw [hq]; exact h)]
    obtain ⟨c, f, m, p, hh⟩ := hqq r
    rw [hh]; exact ⟨rfl, rfl⟩

theorem launch_inflight (s : State) (o : Ord) : (s.launch o).inflight = s.inflight ++ [o] := rfl

/-- What consuming an order and taking it into flight may change. -/
theorem launched_eq (s : State) (q : Nat) (b : Bytes) (o : Ord) : ∃ regs queues inflight granted,
    (s.consume q b).launch o = { s with regs := regs, queues := queues, inflight := inflight, granted := granted } := by
  obtain ⟨r, x, h⟩ := consume_eq s q b
  rw [h]; exact ⟨_, _, _, _, rfl⟩

/-- A state that differs from `s` in the record of orders alone: a final tally keeps it so. -/
theorem finish_clean {s u : State} (o : Ord) (st i d : Nat) (m : Bool) (hp : u.pending = s.pending) (hm : u.mem = s.mem)
    (hs : u.stores = []) : settle s (u.finish o st i d m) = .next (u.finish o st i d m) := by
  obtain ⟨_, _, _, _, _, h⟩ := finish_eq u o st i d m
  apply settle_clean
  · rw [h]; exact hp
  · rw [h]; exact hm
  · rw [h]; exact hs

/-- The final tally of an order, told against the state before its grant. -/
theorem reports_of {s u : State} {o : Ord} {st i d : Nat} {m : Bool} (ho : o ∈ u.inflight)
    (hq : (u.queue o.q).out = (s.queue o.q).out) (hw : u.wck = s.wck) : Reports s (u.finish o st i d m) o st i d := by
  obtain ⟨⟨m', e1⟩, -⟩ := finish_spec u o st i d m ho
  exact ⟨m', by rw [e1, hq, hw]⟩

theorem finish_sent (s : State) (o : Ord) (st i d : Nat) (m : Bool) : (s.finish o st i d m).sent = s.sent := by
  obtain ⟨_, _, _, _, _, h⟩ := finish_eq s o st i d m; rw [h]

/-- An order whose effect is to send something and to end: it completes, its tally is its one tally, the frame is
`OnlyOrder`. -/
theorem exec_sends {c : Instr} {sp : Spec} {q : Nat} {host b : Bytes} {s : State} (hc : orderRow c = some (sp, q, host))
    (ht : Taken sp q host b s) (l : List Sent) (st i d : Nat)
    (hb : sp.body (s.flown q b host) (s.mkOrd q b host) =
      { s.flown q b host with sent := (s.flown q b host).sent ++ l }.finish (s.mkOrd q b host) st i d) :
    ∃ t, exec c s = .next t ∧ Reports s t (s.mkOrd q b host) st i d ∧ Ended t (s.mkOrd q b host) ∧
      OnlyOrder s t q (hdrAllot b) ∧ t.sent = s.sent ++ l := by
  have he : exec c s = settle s (sp.body (s.flown q b host) (s.mkOrd q b host)) := by
    rw [orderRow_exec hc, exec_taken ht]
  have hq := flown_queue s q (b := b) (host := host)
  have hr := flown_reg s q b host (hdrAllot b)
  have hin := mkOrd_mem_flown s q b host
  rw [hb] at he
  obtain ⟨y1, y2, y3, hl⟩ := flown_eq s q b host
  generalize s.flown q b host = v at *
  have hq' : ∀ r, ({ v with sent := v.sent ++ l } : State).queue r = v.queue r := fun r => queue_congr rfl r
  have hr' : ∀ r, ({ v with sent := v.sent ++ l } : State).reg r = v.reg r := fun r => reg_congr rfl r
  have hin' : s.mkOrd q b host ∈ ({ v with sent := v.sent ++ l } : State).inflight := hin
  have hu : ∃ regs queues allots inflight granted sent, ({ v with sent := v.sent ++ l } : State) = { s with
      regs := regs, queues := queues, allots := allots, inflight := inflight, granted := granted, sent := sent } :=
    ⟨_, _, _, _, _, _, by rw [hl]⟩
  have hs' : ({ v with sent := v.sent ++ l } : State).sent = s.sent ++ l := by rw [hl]
  generalize ({ v with sent := v.sent ++ l } : State) = u at *
  obtain ⟨_, _, _, _, _, _, hu'⟩ := hu
  rw [finish_clean _ _ _ _ _ (by rw [hu']) (by rw [hu']) (by rw [hu']; exact ht.stores)] at he
  have hqq : ∀ r, ∃ c f m p, u.queue r = { s.queue r with credit := c, fetched := f, tied := m, past := p } := by
    intro r; rw [hq' r]; exact hq r
  refine ⟨_, he, reports_of hin' ?_ ?_, (finish_spec u _ _ _ _ _ hin').2.1,
    only_of (mkOrd_q ..) rfl ⟨_, _, _, _, _, _, hu'⟩ ?_ hqq hin' rfl, ?_⟩
  · obtain ⟨_, _, _, _, h⟩ := hqq q
    rw [mkOrd_q, h]
  · rw [hu']
  · intro r h; rw [hr' r]; exact hr r h
  · rw [finish_sent, hs']

/-- What an order in flight with no tally leaves: the effect differs from the grant in what is staged, due or waits. -/
theorem exec_flies {c : Instr} {sp : Spec} {q : Nat} {host b : Bytes} {s : State} (hc : orderRow c = some (sp, q, host))
    (ht : Taken sp q host b s) (st : List Staged) (fd : List FallowDue) (wt : List Ord) (fl : List Nat)
    (hb : sp.body (s.flown q b host) (s.mkOrd q b host) =
      { s.flown q b host with staged := st, fallowDue := fd, waiting := wt, wck := { (s.flown q b host).wck with fallow := fl } }) :
    ∃ t, exec c s = .next t ∧ InFlight s t (s.mkOrd q b host) ∧ t.staged = st ∧ t.fallowDue = fd ∧ t.waiting = wt ∧
      t.wck = { s.wck with fallow := fl } := by
  have he : exec c s = settle s (sp.body (s.flown q b host) (s.mkOrd q b host)) := by
    rw [orderRow_exec hc, exec_taken ht]
  have hq := flown_queue s q (b := b) (host := host)
  have hr := flown_reg s q b host (hdrAllot b)
  have hin := mkOrd_mem_flown s q b host
  rw [hb] at he
  obtain ⟨y1, y2, y3, hl⟩ := flown_eq s q b host
  generalize s.flown q b host = v at *
  have hq' : ∀ r, ({ v with staged := st, fallowDue := fd, waiting := wt, wck := { v.wck with fallow := fl } } : State).queue r = v.queue r :=
    fun r => queue_congr rfl r
  have hr' : ∀ r, ({ v with staged := st, fallowDue := fd, waiting := wt, wck := { v.wck with fallow := fl } } : State).reg r = v.reg r :=
    fun r => reg_congr rfl r
  have hin' : s.mkOrd q b host ∈ ({ v with staged := st, fallowDue := fd, waiting := wt, wck := { v.wck with fallow := fl } } : State).inflight := hin
  have hu : ∃ regs queues allots inflight granted, ({ v with staged := st, fallowDue := fd, waiting := wt, wck := { v.wck with fallow := fl } } : State) = { s with
      regs := regs, queues := queues, allots := allots, inflight := inflight, granted := granted, staged := st, fallowDue := fd
      waiting := wt, wck := { s.wck with fallow := fl } } :=
    ⟨_, _, _, _, _, by rw [hl]⟩
  generalize ({ v with staged := st, fallowDue := fd, waiting := wt, wck := { v.wck with fallow := fl } } : State) = u at *
  obtain ⟨_, _, _, _, _, hu⟩ := hu
  rw [settle_clean (by rw [hu]) (by rw [hu]) (by rw [hu]; exact ht.stores)] at he
  refine ⟨u, he, ⟨hin', ?_, ?_, ?_, ?_⟩, by rw [hu], by rw [hu], by rw [hu], by rw [hu]⟩
  · intro r
    obtain ⟨_, _, _, _, h⟩ := hq r
    rw [hq' r, h]
  · rw [hu]
  · intro r h
    rw [hr' r]; exact hr r h
  · intro x
    unfold State.rd; rw [hu]

/-- The body of a staged order. -/
theorem exec_stages {c : Instr} {sp : Spec} {q : Nat} {host b : Bytes} {s : State} (hc : orderRow c = some (sp, q, host))
    (ht : Taken sp q host b s) (x : Change)
    (hb : sp.body (s.flown q b host) (s.mkOrd q b host) = (s.flown q b host).stage (s.mkOrd q b host) x) :
    ∃ t, exec c s = .next t ∧ Stages s t (s.mkOrd q b host) x := by
  obtain ⟨y1, y2, y3, hl⟩ := flown_eq s q b host
  obtain ⟨t, h1, h2, h3, h4, h5, h6⟩ := exec_flies hc ht ((s.flown q b host).staged ++ [⟨s.mkOrd q b host, x, false, (s.flown q b host).wck.now⟩])
    (s.flown q b host).fallowDue (s.flown q b host).waiting (s.flown q b host).wck.fallow (by rw [hb]; rfl)
  refine ⟨t, h1, h2, ?_, ?_, ?_, ?_⟩
  · rw [h3, hl]
  · rw [h4, hl]
  · rw [h5, hl]
  · rw [h6, hl]

/-- The body of an order that waits for its unit. -/
theorem exec_parks {c : Instr} {sp : Spec} {q : Nat} {host b : Bytes} {s : State} (hc : orderRow c = some (sp, q, host))
    (ht : Taken sp q host b s)
    (hb : sp.body (s.flown q b host) (s.mkOrd q b host) = (s.flown q b host).park (s.mkOrd q b host)) :
    ∃ t, exec c s = .next t ∧ Parks s t (s.mkOrd q b host) := by
  obtain ⟨y1, y2, y3, hl⟩ := flown_eq s q b host
  obtain ⟨t, h1, h2, h3, h4, h5, h6⟩ := exec_flies hc ht (s.flown q b host).staged
    (s.flown q b host).fallowDue ((s.flown q b host).waiting ++ [s.mkOrd q b host]) (s.flown q b host).wck.fallow (by rw [hb]; rfl)
  refine ⟨t, h1, h2, ?_, ?_, ?_, ?_⟩
  · rw [h5, hl]
  · rw [h3, hl]
  · rw [h4, hl]
  · rw [h6, hl]

/-- The body of an order whose change is due in a fallow turn. -/
theorem exec_dues {c : Instr} {sp : Spec} {q : Nat} {host b : Bytes} {s : State} (hc : orderRow c = some (sp, q, host))
    (ht : Taken sp q host b s) (k : Nat) (x : Change)
    (hb : sp.body (s.flown q b host) (s.mkOrd q b host) =
      { (s.flown q b host).addFallow k with fallowDue := (s.flown q b host).fallowDue ++ [⟨s.mkOrd q b host, k, x⟩] }) :
    ∃ t, exec c s = .next t ∧ Dues s t (s.mkOrd q b host) k x := by
  obtain ⟨y1, y2, y3, hl⟩ := flown_eq s q b host
  obtain ⟨t, h1, h2, h3, h4, h5, h6⟩ := exec_flies hc ht (s.flown q b host).staged
    ((s.flown q b host).fallowDue ++ [⟨s.mkOrd q b host, k, x⟩]) (s.flown q b host).waiting
    (if (s.flown q b host).wck.fallow.contains k then (s.flown q b host).wck.fallow else (s.flown q b host).wck.fallow ++ [k])
    (by rw [hb]; unfold State.addFallow; split <;> rfl)
  have hw : (s.flown q b host).wck = s.wck := by rw [hl]
  rw [hw] at h6
  refine ⟨t, h1, h2, ?_, ?_, ?_, ?_, ?_, ?_⟩
  · rw [h4, hl]
  · rw [h6]; dsimp only; split
    · rename_i h; simpa using h
    · simp
  · intro j hj; rw [h6]; dsimp only; split
    · exact hj
    · simp [hj]
  · intro j hj; rw [h6] at hj; dsimp only at hj; split at hj
    · exact .inl hj
    · simpa using hj
  · rw [h3, hl]
  · rw [h5, hl]

end Sys2Proof.Machine
end

