-- ==== Sys2Proof/Laws/Resets.lean ====
section
/-! SUPPORT. What a warm reset leaves in the registers, and what a command for an instant of the lagoon clock does. -/

namespace Sys2Proof.Machine

/-- An instant that the turn reaches. -/
theorem State.atLagoon_of_reaches {s : State} {l : Nat} {f : State → State} (h : s.reaches l = true) : s.atLagoon l f = f (s.toLagoon l) :=
  if_pos h

/-- An instant beyond the turn. -/
theorem State.atLagoon_beyond {s : State} {l : Nat} {f : State → State} (h : s.reaches l = false) : s.atLagoon l f = s := by
  simp [State.atLagoon, h]

/-- A register that is not listed reads its reset value. -/
theorem State.reg_unlisted {s : State} {r : Nat} (h : ∀ x ∈ s.regs, x.1 ≠ r) : s.reg r = regReset r := by
  unfold State.reg
  generalize s.regs = l at h
  induction l with
  | nil => rfl
  | cons x t ih => simp_all [smGet]

/-- Of a register at its reset value a warm reset leaves the reset value. -/
theorem State.sticky_of_reset {s : State} {r : Nat} (h : s.reg r = regReset r) : s.sticky r = regReset r := by
  unfold State.sticky
  rw [h]
  split
  · rename_i w _
    ext i hi
    simp only [BitVec.getElem_or, BitVec.getElem_and, BitVec.getElem_not]
    cases (regReset r)[i] <;> cases (rsMask w)[i] <;> rfl
  · rfl

/-- What setting each key of a list from its key leaves at a key. -/
theorem smGet_setKeys (f : Nat → BitVec 64) (r : Nat) (l m : SMap (BitVec 64)) :
    smGet (regReset r) (l.foldl (fun m x => smSet (regReset x.1) m x.1 (f x.1)) m) r =
      if l.any (fun x => x.1 == r) then f r else smGet (regReset r) m r := by
  induction l generalizing m with
  | nil => rfl
  | cons x t ih =>
    rw [List.foldl_cons, ih]
    by_cases h : x.1 = r
    · subst h; simp
    · simp [h, smGet_smSet_ne _ _ _ _ (Ne.symm h)]

/-- After a warm reset every register keeps its RS fields and has its reset value elsewhere (R487, Table 20-4). -/
theorem State.keepSticky_reg (s : State) (r : Nat) : smGet (regReset r) s.keepSticky r = s.sticky r := by
  unfold State.keepSticky
  rw [smGet_setKeys s.sticky]
  split
  · rfl
  · rename_i h
    exact (State.sticky_of_reset (State.reg_unlisted fun x hx e => h (List.any_eq_true.2 ⟨x, hx, by simp [e]⟩))).symm

end Sys2Proof.Machine
end

