-- ==== Sys2Proof/Tests/Slice0.lean ====
section
/-! SUPPORT. The model's own tests: ill-formed commands are refused, and every hypothesis and clause of the statements is met
by a concrete state. Each witness is one small state built by the helpers below. -/

namespace Sys2Proof.Tests
open Sys2Proof.Machine
set_option Elab.async false

/-! ## Small states and orders -/

/-- All ones. -/
def ones : BitVec 64 := BitVec.ofNat 64 (2 ^ 64 - 1)

/-- Registers of a READY device: stack 0 the home stack, every unit powered and working, every tile enabled, queues 0 and 1 running,
allotment 0 CLAIMED for function 1 with tile 0. -/
def upRegs : SMap (BitVec 64) :=
  [(0x31008, 0x40c), (0x31020, 1), (0x31024, 1), (0x31048, 0x40c), (0x31060, 1), (0x31064, 1), (0x40100, 0x10101), (0x40108, 1), (0x40128, 0xE00001),
   (0x50000, ones), (0x50008, ones), (0x50010, 0xffff), (0x110000, 4), (0x110010, ones), (0x110018, ones), (0x110020, ones),
   (0x110028, 0x1ff), (0x110030, ones), (0x110038, ones), (0x110040, ones), (0x110048, 0x1ff), (0x110050, 0xff)]

/-- A turnout table of one level at 0xE00000 that maps allotment pages 0 to 9 to granules 0 to 9. -/
def upMem : List Host.Cell :=
  [(0xE00000, 1), (0xE00008, 1), (0xE0000A, 32), (0xE00010, 1), (0xE00012, 64), (0xE00018, 1), (0xE0001A, 96), (0xE00020, 1), (0xE00022, 128), 
   (0xE00028, 1), (0xE0002A, 160), (0xE00030, 1), (0xE00032, 192), (0xE00038, 1), (0xE0003A, 224), (0xE00040, 1), (0xE00043, 1), (0xE00048, 1), (0xE0004A, 32), (0xE0004B, 1)]

/-- A READY device with turns running. Allotment 0 holds granules 0 to 7 (every permission but SEALED) and 8 to 9 (SEALED too), mapped one to one. -/
def up : State :=
  { State.reset with
    mem := upMem, regs := upRegs, wck := { Wck.reset with running := true }, powerGood := true, vfEnabled := [1, 2, 3]
    queues := [(1, { Queue.reset with bound := 0 })], allots := [(0, { Allot.reset with rights := [(0, 8, 0x5F), (8, 2, 0x7F)] })] }

/-- `f n`, with `n` evaluated first. -/
def forced {α : Type} (n : Nat) (f : Nat → α) : α := match n with | 0 => f 0 | k + 1 => f (k + 1)

/-- The first `len` bytes of a number. -/
def bytesOf (len n : Nat) : Bytes := forced n fun n => (List.range len).map fun i => BitVec.ofNat 8 (n / 256 ^ i)

/-- An order: opcode, length in units with flags, queue, ALLOT, and fields at byte offsets. -/
def mkBytes (op units q allot : Nat) (l : List (Nat × Nat)) : Bytes :=
  let len := 32 * (units % 4096)
  forced (op + 2 ^ 16 * units + 2 ^ 64 * allot + 2 ^ 72 * q + (l.map fun x => x.2 * 2 ^ (8 * x.1)).sum) fun n =>
    bytesOf len (n + 2 ^ 224 * orderCrc (bytesOf len n))

/-- The state with an order at the head of queue `q`. -/
def atHead (s : State) (q : Nat) (b : Bytes) : State := s.setQueue q { s.queue q with fetched := some b }

/-- The hypotheses of `Taken`, with the order at the head of its queue. -/
def takes (sp : Spec) (q : Nat) (b : Bytes) (s : State) : Bool :=
  decide (q < 64) && s.stores.isEmpty && s.grantable sp q == some b && !s.marked q && (sp.verdict s (s.mkOrd q b [])).isNone

theorem taken_of {sp : Spec} {q : Nat} {b : Bytes} {s : State} (h : takes sp q b s = true) : Taken sp q [] b s := by
  simp only [takes, Bool.and_eq_true, decide_eq_true_eq, beq_iff_eq, Bool.not_eq_true', List.isEmpty_iff, Option.isNone_iff_eq_none] at h
  exact ⟨h.1.1.1.1, h.1.1.1.2, h.1.1.2, h.1.2, h.2⟩

/-- Fields of a state set. -/
def with_ (s : State) (l : List (Fld × Nat)) : State := l.foldl (fun s x => s.put x.1 x.2) s

/-! ## Orders that pass every check -/

def nopB : Bytes := mkBytes 0x100 1 1 0 []
def devInfoB : Bytes := mkBytes 0x101 1 0 255 [(16, 0x1000), (24, 256)]
def devStatusB : Bytes := mkBytes 0x102 1 0 255 [(16, 0x1000), (24, 256)]
def altStatusB : Bytes := mkBytes 0x122 1 1 0 [(16, 0x1000), (24, 192)]
def testResultB : Bytes := mkBytes 0xD01 1 0 255 [(16, 0x1000), (24, 128)]
def powerB (unit on : Nat) : Bytes := mkBytes 0xB00 1 0 255 [(16, unit), (18, on)]
def gateB (tile on : Nat) : Bytes := mkBytes 0xB01 1 1 0 [(16, tile), (18, on)]
def pinsB (first n : Nat) : Bytes := mkBytes 0xA00 (1 + n) 0 255 [(16, first), (17, n)]
def weightB : Bytes := mkBytes 0x112 1 0 0 [(16, 1), (17, 255)]
def claimB (a : Nat) : Bytes := mkBytes 0x120 2 0 a [(16, 0x11), (17, 2), (18, 1), (32, 2 ^ 143)]
def turnoutB : Bytes := mkBytes 0x301 1 1 0 [(16, 0x1000), (24, 3)]
def retireB : Bytes := mkBytes 0x402 1 1 0 [(16, 4095)]
def sourcesB (ref : Nat) : Bytes := mkBytes 0x700 1 0 255 [(16, 1), (17, 0x3214), (19, 11), (20, ref)]
def hostTimeB : Bytes := mkBytes 0x701 1 0 255 [(16, 999999999), (20, 7)]
def epochB : Bytes := mkBytes 0x702 1 0 255 [(16, 7)]
def refreshB (c : Nat) : Bytes := mkBytes 0x302 1 0 255 [(16, c)]
def fallowB : Bytes := mkBytes 0x704 1 0 255 [(16, 2)]
def turnSetB : Bytes := mkBytes 0x703 1 0 255 [(16, 120), (20, 15000000)]
def rightsB : Bytes := mkBytes 0x300 2 0 0 [(16, 1), (32, 100), (36, 4), (40, 1)]
def reopenB (scope tile : Nat) : Bytes := mkBytes 0xC00 1 0 0 [(16, scope), (17, tile)]
def createB : Bytes := mkBytes 0x110 2 0 0 [(16, 63), (17, 0), (18, 1), (20, 6), (21, 14), (32, 0x40), (40, 0x1000)]
def destroyB : Bytes := mkBytes 0x111 1 0 0 [(16, 1)]
def logReadB : Bytes := mkBytes 0xC01 2 0 255 [(32, 64)]
/-- Key 4,095 of allotment 0 has an entry. -/
def keyed : State := up.setAllot 0 { up.allot 0 with keys := [(4095, ⟨0, 0, 0⟩)] }
/-- Allotment 0 is SLUICED with its sluice closed; its tile 0 is closed too where `tile`. -/
def sluiced (tile : Bool) : State :=
  let s := with_ up [(F.ALT_STATE_STATE 0, 6), (F.SLU_ALLOT_STATE 0, 1)]
  if tile then s.setMapBit F.SLU_TILE_CLOSED_MAP 0 true else s

/-! ## States for the events -/

/-- Queue 1 in the given state, with published units up to `tail`. -/
def queueAt (state tail : Nat) : State := with_ up [(F.DR_QSTAT_STATE 1, state), (F.DR_QPTR_TAIL 1, tail)]
/-- Queue 0 disabled and stopped. -/
def queue0Off : State := with_ up [(F.DR_QCTL_ENABLE 0, 0), (F.DR_QSTAT_STATE 0, 0)]
def eightMarks : State := up.setQueue 1 { up.queue 1 with marks := [1, 2, 3, 4, 5, 6, 7, 8] }
/-- The water clock in the given state with the given source. -/
def clockAt (state source : Nat) : State := with_ up [(F.WCK_STATE_STATE, state), (F.WCK_STATE_SOURCE, source)]
/-- An order in flight. -/
def aloft (op : Nat) : Ord := { (atHead up 0 nopB).mkOrd 0 (mkBytes op 2 0 0 []) [] with id := 0 }
/-- Cycle 0 of a fallow turn in which one change of the order `aloft` is due. -/
def fallowWith (c : List Change) : State :=
  { up with wck := { up.wck with isFallow := true }, inflight := [aloft 0x704], granted := 1, fallowDue := c.map fun x => ⟨aloft 0x704, 0, x⟩ }
/-- A plan of 16 turns with the given sections. -/
def planWith (secs : List (Nat × Nat × Bytes)) : Plan := ⟨[], 16, true, 0, 0, 0, 15000000, 1, secs, [], [], []⟩
/-- The same state with a staged change and its order in flight. -/
def stagedWith (s : State) (c : Change) (rdy : Bool) : State := { s with inflight := [aloft 0x300], granted := 1, staged := [⟨aloft 0x300, c, rdy, 0⟩] }
def relockWith (phase used : Nat) : State :=
  { up with wck := { up.wck with relock := some ⟨[aloft 0x703], true, 100, 18000000, 0, 120, 15000000, 0, phase, used, false, false⟩ }, inflight := [aloft 0x703], granted := 1 }
/-- Tile 0 of allotment 0 holds a plan that starts with the next turn. -/
def armedUp : State :=
  let s := with_ up [(F.ALT_STATE_STATE 0, 3)]
  let o := aloft 0x201
  { s.setAllot 0 { s.allot 0 with standby := some (planWith []), armed := some ⟨o, 1⟩ } with inflight := [o], granted := 1 }
/-- Queue 1 holds one tally; `written` tallies have been written before. -/
def tallyUp (written : Nat) : State :=
  up.setQueue 1 { up.queue 1 with out := [⟨7, 0x100, 0, false, false, false, 0, 0, 0, 0, 0⟩], written := written, tallyHead := written }
/-- Slots 0 to 3 defined for allotment 0, of `n` words. -/
def slots (n : Nat) : State := with_ up ((List.range 4).flatMap fun i => [(F.BNE_SLOT_DEFINED i, 1), (F.BNE_SLOT_WORDS i, n)])
def bneB (op : Nat) (l : List (Nat × Nat)) : Bytes := mkBytes 0x500 (if op = 1 then 3 else 2) 1 0 ((16, op) :: l)
def symB (alg op : Nat) (l : List (Nat × Nat)) : Bytes := mkBytes 0x510 3 1 0 ((16, alg) :: (17, op) :: l)
/-- The same state with each shared unit at work for another order. -/
def busyUnits (s : State) : State :=
  let o := { aloft 0x500 with id := 900 }
  { s with
    bne := some ⟨o, 0x10, [], 0⟩, sym := some ⟨o, [], [], [], 0⟩, gau := some ⟨o, 0, 0, 0⟩, i2cs := [(0, ⟨some o, false, 0⟩)]
    basins := [(0, { Basin.reset with problem := some ⟨0, 1, 0, 128, []⟩, result := some [], loading := some (o, ⟨0, 1, 0, 128, []⟩) })] }
/-- The engine at work on operation `op` for an order with the given fields. -/
def bneRun (op : Nat) (vals : List (Nat × Nat)) (l : List (Nat × Nat)) : State :=
  let o := (atHead up 1 (bneB op l)).mkOrd 1 (bneB op l) []
  { slots 4 with bne := some ⟨o, op, [], 0⟩, inflight := [o], granted := 1, slotMem := vals }
def rngB : Bytes := mkBytes 0x520 1 1 0 [(24, 64)]
def attestB : Bytes := mkBytes 0x502 2 1 0 [(24, 512)]
def sessionB : Bytes := mkBytes 0x503 3 1 0 [(16, 3), (40, 256), (64, 9)]
/-- The modulus q = 2^32 − 2^20 + 1 at index 63. -/
def modB : Bytes := mkBytes 0x400 2 1 0 [(16, 1), (32, 0xFFF00001), (36, 32), (37, 0x74), (38, 0x40), (40, 0x16CBF4FF), (44, 10), (45, 63)]
def keyB : Bytes := mkBytes 0x401 3 1 0 [(16, 1), (20, 0), (32, 0x1000), (40, 128), (44, 9 + 2 ^ 18 + 10 * 2 ^ 30 + 2 ^ 35)]
/-- A session of allotment 0, which is sealed. -/
def sealedUp : State :=
  (with_ up [(F.ALT_STATE_SEALED 0, 1)]).setAllot 0 { up.allot 0 with session := some ⟨7, List.replicate 32 1, 0⟩ }
/-- The order of `mkBytes` in an envelope under that session, with counter 1. -/
def mkSealed (op units q allot : Nat) (l : List (Nat × Nat)) : Bytes :=
  let b := mkBytes op (units + 1 + 2 ^ 14) q allot l
  let env := toLe 8 1 ++ toLe 4 7
  let g := gcmSeal (List.replicate 32 1) env (b.take 28) (slice b 32 (32 * (units - 1)))
  let n := b.take 28 ++ [0, 0, 0, 0] ++ env ++ [0, 0, 0, 0] ++ g.2 ++ g.1
  b.take 28 ++ toLe 4 (orderCrc n) ++ n.drop 32
def camRec : List (Nat × Nat) := [(32, 1), (33, 1), (34, 16), (36, 16), (39, 0x2B), (47, 1), (48, 1), (64, 2048), (68, 128), (72, 0x2000)]
def camB : Bytes := mkBytes 0x600 4 1 0 camRec
/-- Camera port 0, of allotment 0, in a state: one exposure of RAW10, 16 by 16, one buffer. -/
def camAt (st : Nat) : State :=
  (with_ up [(F.ING_PORT_STATE_STATE 0, st), (F.ING_PORT_STATE_ALLOT 0, 0)]).setIng 0 { IngPort.reset with cfg := slice camB 32 96 }
/-- A key slot of the port: log2 N 10, one limb. -/
def camKey : IngKeySlot := ⟨0x2000, [], 4095, 10, 1, 0, 0, 0, 0⟩
/-- In FRAME, with `rows` rows received. -/
def camRows (rows : Nat) (ended : Bool) : State :=
  let s := camAt 3
  s.setIng 0 { s.ing 0 with frames := [⟨1, 0, 0, none, [(0, List.replicate rows (List.replicate 16 5))], ended, 0, [], 0, 0⟩], count := 1, calib := List.replicate 5120 0 }
def gnsRec : List (Nat × Nat) := [(33, 1), (34, 1), (35, 1), (36, 5000000), (48, 500), (52, 10), (64, 1), (68, 60), (84, 1), (85, 1)]
def gnsB : Bytes := mkBytes 0x710 3 0 255 gnsRec
/-- The baseband configured and running, with an epoch open. -/
def gnssUp : State :=
  { with_ up [(F.GNS_STATE_CONFIGURED, 1)] with gnss := { Gnss.reset with cfg := some (slice gnsB 32 64), epochOpen := true } }
/-- One spin with no neighbour, field 3, at allotment address 0x2000. -/
def problemMem : List Host.Cell := [(0x2000, 1), (0x2008, 128), (0x2040, 3)]
def loadB : Bytes := mkBytes 0x800 1 1 0 [(20, 0x2000)]
def runB : Bytes := mkBytes 0x801 4 1 0 [(17, 1), (20, 5), (32, 1), (36, 2), (48, 0x4000), (96, 5), (100, 1), (104, 1), (108, 257), (110, 1)]
/-- Basin 0 of allotment 0 with that problem bound. -/
def basinUp : State :=
  { with_ up [(F.BSN_STATE_STATE 0, 1), (F.BSN_STATE_ALLOT 0, 0), (F.BSN_STATE_BOUND 0, 1)] with
    mem := problemMem ++ upMem, basins := [(0, { Basin.reset with problem := some ⟨0x2000, 1, 0, 128, []⟩ })] }
def readB : Bytes := mkBytes 0x802 1 1 0 [(17, 64), (20, 0x1000)]
def graphB : Bytes := mkBytes 0x900 2 1 0 [(17, 1)]
def visB (n : Nat) : Bytes :=
  mkBytes 0x901 5 1 0 [(32, n), (36, 2), (96, 0x2000), (104, 0x8000), (96 + 32, 0x10000), (96 + 40, 64), (96 + 42, 64), (96 + 44, 128), (96 + 48, 128), (96 + 54, 4), (96 + 55, 2), (96 + 56, 2)]
def gauB (mask : Nat) : Bytes := mkBytes 0xA02 1 0 255 [(16, mask), (17, 64)]
def i2cB : Bytes := mkBytes 0xA01 3 0 255 [(17, 0x55), (18, 2), (20, 3), (40, 64), (64, 0x1234)]
/-- Bus `k` with a transfer, begun or not, after `r` retries. -/
def i2cUp (k : Nat) (going : Bool) (r : Nat) : State :=
  let o := (atHead up 0 i2cB).mkOrd 0 i2cB []
  { up with i2cs := [(k, ⟨some o, going, r⟩)], inflight := [o], granted := 1 }
/-- One ramp under way, of an order in flight. -/
def rampUp (unit : Nat) (on : Bool) (stage : Nat) : State :=
  { with_ up [] with ramps := [⟨unit, on, some (aloft 0xB00), stage⟩], inflight := [aloft 0xB00], granted := 1 }
def testB (unit : Nat) : Bytes := mkBytes 0xD00 1 0 255 [(16, unit)]
/-- Tile 0 of allotment 0 runs a plan with the given sections. -/
def runningWith (secs : List (Nat × Nat × Bytes)) (nplan : Nat := 15000000) : State :=
  let s := with_ up [(F.ALT_STATE_STATE 0, 4)]
  s.setAllot 0 { s.allot 0 with active := some { planWith secs with nplan := nplan } }
/-- A delivery of 128 bytes from 0x2000 in plan turn 0, stamp 100; a FLUME record for core 3 of tile 0, four lines; a RECV record
of exchange 9 on port 11 for core 5, slot 7, eight lines; a SEND record of exchange 9 on port 11. -/
def dvRec : Bytes := bytesOf 32 (1 + 2 ^ 24 + 100 * 2 ^ 64 + 0x2000 * 2 ^ 96 + 128 * 2 ^ 160)
def fluRec : Bytes := bytesOf 64 (1 + 15 * 2 ^ 8 + 2 ^ 64 + 2 ^ 96 + 2 ^ 144 + 100 * 2 ^ 256 + 6 * 2 ^ 288 + 2 * 2 ^ 320 + 2 * 2 ^ 352 + 2 * 2 ^ 368 + 8 * 2 ^ 384)
def recvRec : Bytes := bytesOf 32 (2 + 11 * 2 ^ 8 + 9 * 2 ^ 32 + 50 * 2 ^ 64 + 200 * 2 ^ 96 + 7 * 2 ^ 136 + 5 * 2 ^ 144 + 8 * 2 ^ 160)
def sendRec : Bytes := bytesOf 32 (1 + 11 * 2 ^ 8 + 2 * 2 ^ 12 + 9 * 2 ^ 32 + 1 * 2 ^ 64 + 4 * 2 ^ 96)
/-- A delivery of that record in flight since cycle 100 of the turn before. -/
def delivering : State :=
  let s := runningWith [(4, 1, dvRec)]
  { s.setAllot 0 { s.allot 0 with delivs := [⟨dvRec, 0, 0, 100, false, [], []⟩] } with wck := { s.wck with turn := 1 } }
/-- Slot 63 of core 4,607 receives two lines from host memory, into line 40. -/
def landing : State :=
  up.setCore 4607 { Core.reset with slots := [(63, { Slot.reset with flying := some ⟨3, 0, 0, 40, 2, 0, 0, []⟩ })] }
/-- Port 11 up, its SEND buffer of nine lines at hand. -/
def sending : State :=
  let s := with_ (runningWith [(7, 1, sendRec)]) [(F.AQD_PORT_STATE_STATE 11, 4)]
  { s.setAllot 0 { s.allot 0 with txs := [⟨0, 0, 0, List.replicate 9 (List.replicate 128 3, 0), 0⟩] } with wck := { s.wck with cycle := 100 } }

/-- Every one holds. -/
def every (l : List Bool) : Bool := l.all id
/-- `takes`, with the order put at the head of the queue first. -/
def goes (sp : Spec) (q : Nat) (b : Bytes) (s : State) : Bool := takes sp q b (atHead s q b)
/-- No access, cursor read or accumulator result is left (`State.coresIdle`). -/
def idle (s : State) : Bool := s.coreNext == none && s.cores.all fun x => x.2.acc0.pends == [] && x.2.acc1.pends == []
/-- The order itself. -/
def ordOf (s : State) (q : Nat) (b : Bytes) : Ord := (atHead s q b).mkOrd q b []
/-- The state in which it has been granted. -/
def flownOf (s : State) (q : Nat) (b : Bytes) : State := (atHead s q b).flown q b []
def okay {ε α : Type} : Except ε α → Bool
  | .ok _ => true
  | .error _ => false

theorem clean_of {s : State} (h : s.blkCode = []) (k : Nat) : s.blockEcc k = .clean := by
  simp [State.blockEcc, State.blockCode, h, smGet, BlockCode.good, BlockCode.ecc]

/-! ## Ill-formed commands -/

theorem test_wf_queue : every ([Instr.nop 64, .orderFetch 64 [], .tallyHead 0 64 0 4 0, .queueResume 0 64, .selftestRun 64].map (!·.wellFormed)) = true := by
  decide
theorem test_wf_function : every ([Instr.registerWrite 32 0 4 0 0, .rcFieldRead 32 0 4 false [], .bar2Read 32 0 1, .vfFlr 32, .orderTail 32 0 0 4 0,
    .pwrReset 32 0, .gpioOut 32 0, .mgtCci 32 0 0, .sluLedgerAck 32 0 0].map (!·.wellFormed)) = true := by decide
theorem test_wf_allotment : every ([Instr.altReleaseEnd 16, .planLoadEnd 16, .drainComplete 16, .deliveryStart 16 0, .recvOpen 16 0,
    .flumeTransferStart 16 0, .sluLedgerAck 0 16 0].map (!·.wellFormed)) = true := by decide
theorem test_wf_core : every ([Instr.sets 4608, .mm 4608, .rneMac 4608, .cvt 4608, .memRd 4608, .bitRefresh 4608, .clamp (some 4608),
    .transferLanding 4608 0 []].map (!·.wellFormed)) = true := by decide
theorem test_wf_port : every ([Instr.aqdPortEnable 12, .markerReceive 12 [] false, .csiFrameStart 8 0 0, .pipelineRowOut 8].map (!·.wellFormed)) = true := by
  decide
theorem test_wf_unit : every ([Instr.refWindowClose 4, .drbgReseed 4, .bsnRunStart 2, .visFrameStart 4, .lostArb 5 0, .domainSwitch 264,
    .granuleScrubEnd 8, .channelLoss 64, .dieTempSample 3 0, .turnStrobeRise 2, .railMonitorExpiry 10, .mgtCci 0 4 0, .transferLanding 0 64 []].map
      (!·.wellFormed)) = true := by decide
theorem test_wf_boundary : every ([Instr.nop 63, .vfFlr 31, .altReleaseEnd 15, .mm 4607, .clamp none, .aqdPortEnable 11, .pipelineRowOut 7,
    .refWindowClose 3, .domainSwitch 263, .dieTempSample 2 0, .transferLanding 4607 63 []].map (·.wellFormed)) = true := by decide
theorem test_ill_formed_faults : exec (.nop 64) up = .fault .noSuchUnit ∧ exec (.mm 4608) up = .fault .noSuchUnit := ⟨rfl, rfl⟩

/-! ## The whole block -/

/-- EmptyQueueTicksTheClock: while turns run, with and without a cycle left; while they do not. -/
theorem test_tick : every [up.pending.isEmpty, up.wck.running, decide (up.wck.cycle + 1 < up.turnLength),
    decide (up.turnLength ≤ { up with wck := { up.wck with cycle := 14999999 } }.wck.cycle + 1), !State.reset.wck.running] = true := by decide +kernel
/-- EveryStepKeepsInvariant: a state that lists memory and waiting commands, and steps. -/
theorem test_invariant_step :
    (let s : State := { up with pending := [.samplePreload 5 9, .nop 64] }
     every [memWf s.mem, s.stores == [], match step s with | .next t => t.pending.length == 1 && memWf t.mem | _ => false]) = true := by decide +kernel
/-- MemoryReadsWhatWasStored: bytes that replace, add and remove entries. -/
theorem test_memory : every [up.stores == [], memWf up.mem, memWf problemMem,
    memDrain up.mem (up.wrRaw 0xE00000 [0, 5, 6]).stores == [(0xE00001, 5), (0xE00002, 6)] ++ up.mem.drop 1] = true := by decide +kernel
/-- GrantedOrderTakesEffect, with NOP; DEV_INFO does so for queue 0 below. -/
theorem test_granted : every [goes specNop 1 nopB up] = true := by decide +kernel
/-- RefusedOrderReportsFirstFailure: a NOP with a reserved byte set, and a CLAIM that is too short. -/
theorem test_refused :
    (let b := mkBytes 0x100 1 1 0 [(20, 7)]; let s := atHead up 1 b
     let d := mkBytes 0x120 1 0 15 []; let u := atHead up 0 d
     every [s.stores == [], s.grantable specNop 1 == some b, !s.marked 1, u.grantable specAltClaim 0 == some d, !u.marked 0,
       match specNop.verdict s (s.mkOrd 1 b []) with | some w => !w.ofLength | none => false,
       match specAltClaim.verdict u (u.mkOrd 0 d []) with | some w => w.ofLength | none => false]) = true := by decide +kernel
/-- MarkCancelsItsTarget: a mark on the expected number and another. -/
theorem test_marked :
    (let s := atHead (with_ (up.setQueue 1 { up.queue 1 with marks := [0, 5] }) [(F.DR_QSTAT_MARKS 1, 2)]) 1 nopB
     every [s.stores == [], s.grantable specNop 1 == some nopB, s.marked 1,
       match exec (.nop 1) s with | .next t => (t.queue 1).marks == [5] && ((t.queue 1).out.map (·.status)) == [stCancelled] | _ => false]) = true := by
  decide +kernel
/-- ArbitrationGrantsGreatestCredit: queue 0 eligible; a tenant queue alone; none. -/
theorem test_arbitration : every [(atHead up 0 nopB).eligible 0, !(atHead up 1 nopB).eligible 0, (atHead up 1 nopB).arbWinner == some 1,
    up.arbWinner == none, ((atHead up 1 nopB).eligibleTenants) == [1]] = true := by decide +kernel

/-! ## Orders -/

/-- StatusOrdersReply. -/
theorem test_status_orders : every [goes specNop 1 nopB up, goes specDevInfo 0 devInfoB up, goes specDevStatus 0 devStatusB up,
    goes specAltStatus 1 altStatusB up, goes specSelftestResult 0 testResultB up] = true := by decide +kernel
theorem test_status_orders_nothing_to_do : every [goes specPwrDomainSet 0 (powerB 172 1) up, up.powered 172, goes specTileGate 1 (gateB 0 1) up,
    up.powered 0, goes specGpioConfig 0 (pinsB 47 0) up] = true := by decide +kernel
/-- StagedOrdersWaitForHeadgate; ALT_CLAIM of a named and of any allotment, TIME_SOURCE_SET with and without another reference. -/
theorem test_staged_orders : every [goes specQueueWeightSet 0 weightB up, goes specAltClaim 0 (claimB 15) up, goes specAltClaim 0 (claimB 255) up,
    up.freeAllot == some 1, goes specTurnoutSet 1 turnoutB up, goes specKeyRetire 1 retireB keyed] = true := by decide +kernel
theorem test_staged_orders_sources : every [goes specGpioConfig 0 (pinsB 0 1) up, goes specTimeSourceSet 0 (sourcesB 0) up,
    goes specTimeSourceSet 0 (sourcesB 1) up, up.wck.pllRef == 0] = true := by decide +kernel
/-- FallowOnlyOrdersAreDueInTheirTurn. -/
theorem test_fallow_orders : every [goes specTimeHostSet 0 hostTimeB up, goes specTimeEpochSet 0 epochB up, goes specRefreshClassSet 0 (refreshB 0) up,
    goes specPwrDomainSet 0 (powerB 172 0) up, goes specTileGate 1 (gateB 0 0) up, goes specTimeFallow 0 fallowB up] = true := by decide +kernel
/-- TURN_SET with no earlier one undecided, with one, and with one that waits. -/
theorem test_turn_set :
    (let s : State := { up with fallowDue := [⟨ordOf up 0 turnSetB, 5, .turnSet 120 15000000⟩], inflight := [ordOf up 0 turnSetB], granted := 1 }
     every [goes specTurnSet 0 turnSetB up, !up.turnSetBusy, !up.queued (ordOf up 0 turnSetB), goes specTurnSet 0 turnSetB s, s.turnSetBusy,
       goes specTurnSet 0 turnSetB { up with waiting := [ordOf up 0 turnSetB] }, { up with waiting := [ordOf up 0 turnSetB] }.queued (ordOf up 0 turnSetB)]) = true := by decide +kernel
/-- RightsAndReopeningsAreAccepted; a reopening of each scope. -/
theorem test_rights_and_reopenings : every [goes specRightsSet 0 rightsB up, goes specSluiceReopen 0 (reopenB 1 0) (sluiced true),
    goes specSluiceReopen 0 (reopenB 2 0) (sluiced false)] = true := by decide +kernel
/-- QueuesAreCreatedAndDestroyed, LogReadReturnsPickedEntries, with no block in error and with the only entry's block in error. -/
theorem test_queue_orders : every [goes specQueueCreate 0 createB up, goes specQueueDestroy 0 destroyB up, goes specLogRead 0 logReadB up, up.blkCode == [],
    (let s : State := (with_ up [(F.PWR_STATUS_HOME_STACK, 0)]).logCause 0x101 7 255 0xFFFF 0xFFFFFFFF
     let u : State := { s with blkCode := [(s.bookBlock none 0, ⟨true, []⟩)] }
     goes specLogRead 0 logReadB u && !lrBook (ordOf s 0 logReadB) && ((flownOf u 0 logReadB).logPick (ordOf s 0 logReadB)).map (·.1) == [0] && u.get F.PWR_STATUS_HOME_STACK != 15 && !u.chipClosed)] = true := by
  decide +kernel
theorem test_block_in_error (s : State) (k : Nat) : ({ s with blkCode := [(k, ⟨true, []⟩)] }.blockEcc k).usable = false := by
  simp [State.blockEcc, State.blockCode, smGet, BlockCode.ecc, Ecc.usable]

/-! ## Doorbells and queues -/

/-- The common hypotheses of a doorbell of function 1 on its queue 1. -/
def rings (s : State) : Bool := s.stores == [] && s.isReady && s.ownsPage 1 1 && s.queueLive 1
/-- Queue 1 with sequence number 3 granted and 4 expected. -/
def granted4 : State := with_ (up.setQueue 1 { up.queue 1 with past := [(3, 0x100, 0)] }) [(F.DR_QSEQ_EXPECT 1, 4)]

/-- DoorbellsActOnTheirQueue: the ring is filled by 4,096 units and overrun by 4,097; a head from h to w and beyond; targets
past, marked, to come, and a ninth. -/
theorem test_doorbell_tail : every [rings up, up.ringSize 1 == 4096, up.get (F.DR_QPTR_HEAD 1) == 0, up.get (F.DR_QPTR_TAIL 1) == 0,
    up.get (F.DR_QSTAT_STATE 1) == 1, rings (queueAt 2 0), rings (queueAt 1 4097)] = true := by decide +kernel
theorem test_doorbell_head : every [rings up, (up.queue 1).written == 0, (up.queue 1).tallyHead == 0,
    rings (up.setQueue 1 { up.queue 1 with written := 4 })] = true := by decide +kernel
theorem test_doorbell_cancel : every [rings granted4, decide (2 ^ 31 ≤ (3 + 2 ^ 32 - granted4.get (F.DR_QSEQ_EXPECT 1)) % 2 ^ 32),
    decide (¬ 2 ^ 31 ≤ (4 + 2 ^ 32 - granted4.get (F.DR_QSEQ_EXPECT 1)) % 2 ^ 32), rings eightMarks, (eightMarks.queue 1).marks.contains 8,
    !(eightMarks.queue 1).marks.contains 9, (eightMarks.queue 1).marks.length == 8, !(granted4.queue 1).marks.contains 4] = true := by
  decide +kernel
/-- StrayDoorbellsChangeNoQueue. -/
theorem test_stray_doorbells : every [up.stores == [], up.isReady, !up.ownsPage 1 0, !up.ownsPage 31 1, up.ownsPage 0 63, !up.queueLive 63] = true := by
  decide +kernel
/-- QueueControlsActOnTheirQueue. -/
theorem test_queue_controls :
    (let h : State := with_ ((queueAt 2 9).setQueue 1 { up.queue 1 with marks := [9], credit := 5 }) [(F.DR_QSTAT_MARKS 1, 1)]
     let d : State := with_ up [(F.DR_QCTL_ENABLE 0, 0), (F.DR_QSTAT_STATE 0, 3)]
     let p : State := (queueAt 1 1).setQueue 1 { up.queue 1 with short := true }
     every [h.stores == [], h.isReady, h.ownsPage 1 1, h.get (F.DR_QSTAT_STATE 1) == 2, !h.on F.SLU_STATUS_WALKER_HALT,
       queue0Off.isReady, queue0Off.get (F.DR_QSTAT_STATE 0) != 3, !queue0Off.queueLive 0, up.get (F.DR_QSTAT_STATE 0) != 3, up.queueLive 0,
       d.get (F.DR_QSTAT_STATE 0) == 3, d.get (F.DR_QLOAD_INFLIGHT 0) == 0, (d.dueTallies 0).1 == [],
       p.get (F.DR_QSTAT_STATE 1) == 1, (p.queue 1).short]) = true := by decide +kernel
/-- OrderIsFetchedWhole: a two-unit order, published whole and in part. -/
theorem test_order_fetch :
    (let b := mkBytes 0x110 2 1 0 [(40, 7)]; let s := queueAt 1 2
     every [s.stores == [], s.get (F.DR_QSTAT_STATE 1) == 1, !s.on F.SLU_STATUS_WALKER_HALT, (s.queue 1).fetched == none, !s.on (F.DR_QBASE_LOC 1),
       b.length == 64, hdrLength b == 2, decide (2 ≤ s.ringSize 1), s.published 1 == 2, padTo 64 (b.take 64) == b, s.wellFormed 1 b,
       opcodes.contains (hdrOp b), hdrOp b == 0x110, (queueAt 1 1).published 1 == 1]) = true := by decide +kernel

/-! ## Host accesses -/

/-- HostWritesActByAccessCode, HostReadsClearAndLatch, UnusedOffsetsReadZero; the model's functions 0 and 1 are served. -/
theorem test_host_accesses : every [up.stores == [], up.isReady, up.bar2Up 0, up.bar2Up 1, !bar0Shape 0x20020 3, !bar0Shape 0x20022 4, !bar0Shape 0x20024 8,
    regRowAt 0x3FFFC == none, regRowAt 0x4FFFC == none, regRowAt 0x20078 == none, bar0Shape 0x3FFF8 8, regRowAt 0x3FFF8 == none,
    bar0Shape 0x20074 4, decide (up.wck.turn < 2 ^ 48)] = true := by decide +kernel
/-- A limit of 1 and of 10,000 waits, 0 and 10,001 do not. -/
theorem test_limit_boundary :
    (let n (d : Nat) : List (Nat × Nat) := match exec (.registerWrite 0 0x2004C 4 d 0) up with | .next t => t.wck.limits | _ => []
     every [n 1 == [(0x2004C, 1)], n 10000 == [(0x2004C, 10000)], n 0 == [], n 10001 == []]) = true := by decide +kernel

/-! ## Time -/

/-- ReferenceEventsMoveTheirSource: a filter of no length and one of 9 cycles. -/
theorem test_reference_events :
    (let s := clockAt 0 0
     every [s.stores == [], s.wckState == wckFreeRun, s.wckSource == 0, !s.wck.pps.pred, decide (s.wck.pps.accepts < 15),
       (with_ s [(F.WCK_PIN_FILTER_PPS_GLITCH, 0)]).get F.WCK_PIN_FILTER_PPS_GLITCH == 0, (with_ s [(F.WCK_PIN_FILTER_PPS_GLITCH, 9)]).get F.WCK_PIN_FILTER_PPS_GLITCH == 9, (with_ s [(F.WCK_PIN_FILTER_PPS_GLITCH, 9)]).wckState == 0,
       decide (s.wck.pps.rejects < 2), decide (s.wck.marker.rejects < 2), decide (2 ≤ { s with wck := { s.wck with good10M := 2 } }.wck.good10M)]) = true := by
  decide +kernel
/-- ClockLocksAndHoldsOver. -/
theorem test_clock_states :
    (let a := clockAt 1 1; let l := clockAt 2 1; let h := clockAt 3 1
     every [a.stores == [], a.wckState == wckAcquire, a.wck.step == none, l.wckState == wckLocked, l.wckSource == 1,
       l.get F.WCK_HOLDOVER_LIMIT_SECONDS != 0, h.wckState == wckHoldover, !h.pastHoldLimit,
       { h with wck := { h.wck with sec := 2 ^ 31 } }.pastHoldLimit, (List.range 16).all (fun x => !h.exchanges x),
       (clockAt 0 0).wckState != wckAcquire, (clockAt 0 0).wckSource == 0]) = true := by decide +kernel
/-- MonitorsRaiseChipDoubtBeyondLimits, DoubtClosesItsSubject. -/
theorem test_monitors : every [up.stores == [], !up.on F.WCK_STATE_ON_LAGOON, { up with wck := { up.wck with pllRef := 1 } }.wck.pllRef != 0,
    !up.hotDies.contains 0, !up.chipClosed, !up.isEmpty 0, up.sluiceOf 0 == 0, up.isEmpty 15,
    !up.tripped, up.powerGood, !State.reset.powerGood, !State.reset.tripped, (up.allot 0).delivs == [], !up.walkerOnce] = true := by decide +kernel
/-- The 50 ppm of REF_OSC_IN at 10 MHz, at 100 MHz, and where it is not the PLL reference. -/
theorem test_oscillator_limits :
    (let f (ref : Nat) : State := { up with wck := { up.wck with pllRef := ref } }
     every [(f 1).oscOk 10000500 false, !(f 1).oscOk 10000501 false, !(f 1).oscOk 10000000 true, !(f 1).oscOk 100000000 false,
       (f 2).oscOk 99995000 false, !(f 2).oscOk 99994999 false, (f 0).oscOk 9999500 false, (f 0).oscOk 100005000 false,
       !(f 0).oscOk 0 false]) = true := by decide +kernel
/-- Times of Tables 18-1, 18-2 and 18-7: MODMUL and MODEXP on 24 words, SIGN on P-384; two SHA-384 blocks of 112 bytes. -/
theorem test_engine_times :
    (let o := ordOf up 1 (bneB 0x13 [(19, 1), (32, 2), (33, 1)])
     every [(slots 24).bneTime 0x12 o == 328, (slots 24).bneTime 0x13 o == 1007816, (slots 48).bneTime 0x10 o == 68, (slots 6).bneTime 0x28 o == 290000,
       symTime 2 (ordOf up 1 (symB 1 0 [(48, 112)])) == 40]) = true := by decide +kernel
/-- FallowChangesAreApplied; TIME_HOST_SET in FREE_RUN and in LOCKED. -/
theorem test_fallow_changes :
    (let h (s : State) : Bool := s.stores == [] && s.wck.cycle == 0 && s.wck.isFallow && s.inflight.contains (aloft 0x704)
     let c : State := with_ ((fallowWith [.refresh 1]).setAllot 3 { Allot.reset with active := some (planWith []) }) [(F.ALT_STATE_STATE 3, 2)]
     let d : State := { fallowWith [] with wck := { (fallowWith []).wck with step := some (-5) } }
     every [h (fallowWith [.fallowOnly]), h (fallowWith [.refresh 0]), (fallowWith [.refresh 0]).classConflict 0 == none, h c,
       c.classConflict 1 == some 3, h (fallowWith [.epoch 5]), h d, d.fallowDue.isEmpty, h (fallowWith [.hostTime 9 8]),
       (fallowWith [.hostTime 9 8]).wckState == wckFreeRun, h (with_ (fallowWith [.hostTime 9 8]) [(F.WCK_STATE_STATE, 2)])]) = true := by decide +kernel
/-- A step back over a second's start. -/
theorem test_step_back :
    (let s : State := { fallowWith [] with wck := { (fallowWith []).wck with step := some (-5), sec := 9, ns := 3 } }
     match exec .timeStepApply s with | .next t => t.wck.sec == 8 && t.wck.ns == 999999998 | _ => false) = true := by decide +kernel
/-- RelockStartsConfirmsAndFallsBack: the 15th and the 16th turn, and the previous frequency's confirmation. -/
theorem test_relock :
    (let s : State := { up with fallowDue := [⟨aloft 0x703, 0, .turnSet 100 18000000⟩], inflight := [aloft 0x703] }
     let k (s : State) (ph n : Nat) : Bool := match s.wck.relock with
       | some k => k.phase == ph && !k.confirmed && k.used == n && k.ords == s.inflight && s.inflight.length == 1 && !s.chipClosed | none => false
     let late : State := { relockWith 1 3 with wck := { (relockWith 1 3).wck with cycle := 14999999 } }
     every [s.stores == [], s.wck.cycle == 0, s.wck.relock.isNone, k (relockWith 1 15) 1 15, k (relockWith 1 16) 1 16, k (relockWith 2 1) 2 1,
       k (relockWith 2 31) 2 31, k (relockWith 2 32) 2 32, k late 1 3, decide (late.guardCycle 0 < late.wck.cycle), decide ((relockWith 1 3).wck.cycle ≤ (relockWith 1 3).guardCycle 0)]) = true := by
  decide +kernel
/-- TurnBoundaryBeginsNextTurn: into a fallow turn, over the end of the count; with the block of the turn's only log entry in error. -/
theorem test_turn_boundary :
    (let s : State := { up with wck := { up.wck with turn := 2 ^ 48 - 1, fallow := [0], limits := [(0x2004C, 7)] } }
     let l : State := (with_ up [(F.PWR_STATUS_HOME_STACK, 0)]).logCause 0x101 7 255 0xFFFF 0xFFFFFFFF
     let b : State := { l with blkCode := [(l.bookBlock none 0, ⟨true, []⟩)] }
     every [up.blkCode == [], b.wck.running, idle b, b.wck.relock.isNone, !b.chipClosed, b.allots.all (fun x => x.2.ledger == []), b.log.map (·.seq) == [0],
       b.log.all (fun e => e.turn == b.wck.turn), b.get F.PWR_STATUS_HOME_STACK == 0, s.stores == [], s.wck.running, idle s, s.wck.relock.isNone, s.wck.fallow.contains ((s.wck.turn + 1) % 2 ^ 48),
       !State.reset.wck.running]) = true := by
  decide +kernel

/-! ## The guard -/

/-- GuardOpenSamplesReadiness. -/
theorem test_guard_open :
    (let s : State := { up with fences := [(100, 4, true), (200, 2, false)], inflight := [aloft 0x300], staged := [⟨aloft 0x300, .weight 1 2, false, 0⟩] }
     every [s.stores == [], s.wck.running, idle s, (List.range 12).all (fun p => s.apState p != apUp), s.ramps == [], s.reopens == [],
       (List.range 16).all (fun a => s.altState a != 6), decide (0 < (s.atGuard 0).guardNow)]) = true := by decide +kernel
/-- The common hypotheses of HeadgateCommitsStagedChanges. -/
def gates (s : State) (o : Ord) : Bool :=
  s.stores == [] && s.wck.running && idle s && s.reopens == [] && s.inflight.contains o && s.fallowDue.isEmpty && s.wck.relock.isNone && o.op != 0x121
/-- HeadgateCommitsStagedChanges: a weight, a turnout, rights that change the table and that do not, a key. -/
theorem test_headgate :
    (let o := aloft 0x300
     let r (es : List (Nat × Nat × Nat × Bool)) (same : Bool) : Bool :=
       gates (stagedWith up (.rights 0 es) true) o && up.rangeHeld 0 (es.filter fun e => !e.2.2.2) == none &&
         rightsFull (applyEntries (up.allot 0).rights es) == none && (applyEntries (up.allot 0).rights es == (up.allot 0).rights) == same
     let held : State := up.setAllot 1 { Allot.reset with rights := [(100, 1, 3)] }
     every [gates (stagedWith up (.weight 1 255) true) o, up.queueLive 1, gates (stagedWith up (.turnout 0 0x3000 3) true) o,
       held.rangeHeld 0 [(100, 4, 3, false)] == some 100, gates (stagedWith held (.rights 0 [(100, 4, 3, false)]) true) o,
       gates (stagedWith up (.keyEntry 0 9 1 2 3) true) o, gates (stagedWith sealedUp (.session 0 5 []) true) o, gates (stagedWith up (.pins 3 [7]) true) o,
       gates (stagedWith up (.sources 3 0x3214 11) true) o, gates (stagedWith (camAt 1) (.ingKey 0 1 0 camKey true) true) o, ipState (camAt 1) 0 == 1, ipAllot (camAt 1) 0 == 0,
       r [(100, 4, 3, false)] false, r [(0, 8, 0x5F, false)] true, gates (stagedWith keyed (.keyRetire 0 4095) true) o]) = true := by decide +kernel
/-- Two staged turnout tables, of one allotment and of two, the first ready or not. -/
theorem test_headgate_order :
    (let o := aloft 0x300; let q (b : Nat) := { aloft 0x301 with id := 1, bytes := mkBytes 0x301 2 0 b [] }; let p := q 0
     let s (b : Nat) (rdy : Bool) : State := { up with inflight := [o, q b], granted := 2, staged := [⟨o, .turnout 0 0x3000 3, rdy, 0⟩, ⟨q b, .turnout b 0x5000 2, true, 0⟩] }
     every [gates (s 0 true) o, (s 0 false).inflight.contains p, p.id != o.id, p.op != 0x121, p.q == o.q, o.allot == 0, (q 1).allot == 1, !turnPassed up o.deadline, o.deadline != up.wck.turn,
       match exec .headgateCommit (s 0 true) with | .next t => t.get (F.ALT_TURNOUT_LEVELS 0) == 2 && ((t.queue 0).out.map (·.op)) == [0x300, 0x301] | _ => false,
       match exec .headgateCommit (s 0 false) with | .next t => t.staged.length == 2 | _ => false,
       match exec .headgateCommit (s 1 false) with | .next t => t.staged.length == 1 && t.get (F.ALT_TURNOUT_LEVELS 1) == 2 | _ => false]) = true := by decide +kernel
/-- A claim; a change not ready in its deadline turn and before it. -/
theorem test_headgate_claim :
    (let o := { aloft 0x120 with bytes := mkBytes 0x120 2 0 15 [] }
     let s : State := { up with inflight := [o], granted := 1, staged := [⟨o, .claim 15 2 3 true [143], true, 0⟩] }
     let p := aloft 0x300; let late : Ord := { p with deadline := 0 }
     let u : State := { up with inflight := [late], granted := 1, staged := [⟨late, .weight 1 200, false, 0⟩] }
     every [gates s o, s.isEmpty 15, !s.fnBound 2, s.tileFree 143, o.allot == 15, gates u late, late.deadline == u.wck.turn,
       gates (stagedWith up (.weight 1 200) false) p, p.deadline != up.wck.turn, !turnPassed up p.deadline,
       turnPassed { up with wck := { up.wck with turn := 1 } } 0]) = true := by decide +kernel
/-- SwapStartsArmedPlanAndFlushWritesTallies. -/
theorem test_swap_and_flush :
    (let s := armedUp; let u := tallyUp 4095
     every [s.stores == [], s.wck.running, idle s, s.altState 0 == 3, (List.range 15).all (fun b => s.altState (b + 1) == 0),
       (s.allot 0).stops == [], match (s.allot 0).armed with | some m => turnsAhead s.nextNumber m.t0 == some 0 | none => false,
       (s.allot 0).runOrd == none, (s.allot 0).standby.isSome, (List.range 16).all (fun a => up.altState a != 3 && up.altState a != 4),
       !u.chipClosed, !u.on F.SLU_STATUS_WALKER_HALT, (List.range 16).all (fun a => !(u.allot a).ledgerDue), u.inflight == [],
       u.queues.all (fun r => r.1 == 1 || r.2.out == []), u.queues.all (fun r => !r.2.closing), u.queueLive 1, (u.queue 1).out.length == 1,
       decide (0 < u.ringRoom 1), decide (0 < (tallyUp 4096).ringRoom 1)]) = true := by decide +kernel
/-- An order that asks for an ACCEPTED tally at the first flush; a chip whose sluice is closed. -/
theorem test_accepted :
    (let o := { aloft 0x300 with bytes := mkBytes 0x300 (2 + 2 ^ 12) 0 0 [] }; let s : State := { up with inflight := [o], granted := 1 }
     every [o.rspAlways, !o.acc, o.q == 0, s.queueLive 0, decide (0 < s.ringRoom 0), s.queues.all (fun r => r.2.out == [] && !r.2.closing), s.get (F.DR_QSTAT_STATE 0) != 3,
       (with_ (tallyUp 9) [(F.SLU_STATUS_CHIP_CLOSED, 1)]).chipClosed]) = true := by decide +kernel
/-- GuardRewritesDryCheckRouteSwitch. -/
theorem test_guard_rest : every [up.stores == [], up.wck.running, idle up, (List.range 16).all (fun a => (up.atGuard 4095).wetRoutes a == []),
    (let v := up.atGuard 4095; let w : State := { v with routesNow := v.nextProgram v.nextFallow }
     (List.range 144).all fun r => decide (w.programUse.count r ≤ 256)), !State.reset.wck.running] = true := by
  decide +kernel

/-! ## Shared units -/

/-- Orders of the big-number engine, one of each kind. -/
def bneOrders : List (Spec × Bytes × State) :=
  let s := slots 4; let l := with_ s [(F.BNE_SLOT_WORDS 0, 8)]
  [(specSlotDefine, bneB 0 [(17, 255), (34, 4)], s), (specBneLoad, bneB 1 [(34, 4), (64, 5)], s), (specBneCopy, bneB 3 [], s),
   (specRngFill, bneB 4 [], s), (specModadd, bneB 0x10 [], s), (specModsub, bneB 0x11 [], s), (specModmul, bneB 0x12 [], s),
   (specModexp, bneB 0x13 [], s), (specModinv, bneB 0x14 [], s), (specEcMul, bneB 0x20 [(33, 3)], s), (specEcMulBase, bneB 0x21 [(33, 3)], s),
   (specEcKeygen, bneB 0x22 [], s), (specEcdh, bneB 0x23 [(33, 3)], s), (specSign, bneB 0x28 [(33, 4), (18, 1), (19, 1)], l),
   (specVerify, bneB 0x29 [(33, 4), (17, 1), (19, 1), (32, 1)], l)]
def storeB : Bytes := bneB 2 [(40, 0x2000)]
def clearB (first n : Nat) : Bytes := mkBytes 0x501 1 1 0 [(16, first), (18, n)]
/-- Orders of the symmetric unit, one of each kind. -/
def symOrders : List (Spec × Nat × Bytes) :=
  [(specGcmEncrypt, 0, symB 0 0 [(32, 0x1000), (40, 0x2000), (48, 64), (56, 0x3000), (52, 65)]),
   (specGcmDecrypt, 1, symB 0 1 [(32, 0x1000), (40, 0x2000), (48, 64)]), (specSha384, 2, symB 1 0 [(32, 0x1000), (48, 65)]),
   (specSha3x256, 3, symB 2 0 [(40, 0x2000)]), (specSha3x384, 4, symB 3 0 []), (specShake128, 5, symB 4 0 [(80, 64)]),
   (specShake256, 6, symB 5 0 [(80, 64)]), (specHmacSha384, 7, symB 6 0 [(48, 128)])]

/-- EngineTakesOperation and, with the engine busy, OrdersWaitForTheirUnit. -/
theorem test_engine_orders : every ((bneOrders.take 8).map fun x => goes x.1 1 x.2.1 x.2.2 && x.2.2.bne.isNone) = true := by decide +kernel
theorem test_engine_orders_curves : every ((bneOrders.drop 8).map fun x => goes x.1 1 x.2.1 x.2.2 && x.2.2.bne.isNone) = true := by decide +kernel
theorem test_engine_orders_wait : every ((bneOrders.take 4).map fun x => goes x.1 1 x.2.1 (busyUnits x.2.2) && (busyUnits x.2.2).bne.isSome) = true := by
  decide +kernel
theorem test_store :
    (let u := flownOf (slots 4) 1 storeB; let o := ordOf (slots 4) 1 storeB
     every [goes specBneStore 1 storeB (slots 4), goes specBneStore 1 storeB (busyUnits (slots 4)),
       match u.orderWalk o o.allot (bneAddr o) (cdiv (8 * u.slotWords (bneD o)) 64 * 64) permHostWrite with | .ok l => !u.sealedOut o l | _ => false]) = true := by
  decide +kernel
/-- Two defined slots with one on either side, and the last slot. -/
theorem test_clear : every [goes specSlotClear 1 (clearB 1 2) (slots 4), goes specSlotClear 1 (clearB 255 1) (slots 4),
    goes specSlotClear 1 (clearB 1 2) (busyUnits (slots 4))] = true := by decide +kernel
/-- SymmetricOperations, with the walks of each order; with the unit busy they wait. -/
def symGoes (x : Spec × Nat × Bytes) : Bool :=
    let u := flownOf (slots 4) 1 x.2.2; let o := ordOf (slots 4) 1 x.2.2
    goes x.1 1 x.2.2 (slots 4) && okay (u.orderWalk o o.allot (symSrc o) (symLen o) permHostRead) &&
      (decide (1 < x.2.1) || okay (u.orderWalk o o.allot (symAad o) (symAadLen o) permHostRead)) &&
      match u.orderWalk o o.allot (symDst o) (symOutBytes x.2.1 o) permHostWrite with | .ok d => !u.sealedOut o d | _ => false
theorem test_gcm_orders : every ((symOrders.take 2).map symGoes) = true := by decide +kernel
theorem test_hash_orders : every (((symOrders.drop 2).take 3).map symGoes) = true := by decide +kernel
theorem test_more_hash_orders : every ((symOrders.drop 5).map symGoes) = true := by decide +kernel
theorem test_symmetric_orders_wait : every (((symOrders.drop 2).take 2).map fun x => goes x.1 1 x.2.2 (busyUnits (slots 4))) = true := by decide +kernel
/-- Every hash ends with its pieces usable and its digest within the slot named. -/
theorem test_hash_end : every ((List.range 5).map fun i =>
    let b := mkBytes 0x510 3 1 0 [(16, i + 1), (77, 0), (78, 1), (32, 0x1000), (48, 65), (80, if 3 ≤ i then 64 else 0)]
    let o := ordOf up 1 b
    let s : State := { slots 8 with inflight := [o], sym := some ⟨o, [(0x1000, 65)], [], [], 0⟩, slotMem := [(0, 2 ^ 512 - 1)] }
    symKind o.bytes == some (i + 2) && (s.orderRead [(0x1000, 65)] o.allot).2.1 && symToSlot o && s.slotWords (symTagSlot o) == 8 &&
      decide (s.slotVal (symTagSlot o) < 2 ^ 512)) = true := by decide +kernel
/-- BigNumberResults: odd, even, 1 and 0 as C, for each operation; the slots hold what the clauses ask. -/
theorem test_big_numbers :
    (let abc := [(18, 1), (19, 2), (32, 3)]
     let h (op : Nat) (v : List (Nat × Nat)) (l : List (Nat × Nat)) : Bool := let s := bneRun op v l
       s.stores == [] && match s.bne with | some j => j.op == op && s.inflight.contains j.ord && s.slotVal (bneC j.ord) == (smGet 0 v (bneC j.ord)) && s.slotWords (bneD j.ord) == 4 | none => false
     every [h 0x10 [(1, 5), (2, 9), (3, 7)] abc, h 0x11 [(1, 5), (2, 9), (3, 7)] abc, h 0x12 [(3, 2 ^ 256 - 189)] abc, h 0x13 [(1, 5), (2, 9), (3, 7)] abc,
       h 0x14 [(1, 5), (3, 7)] abc, h 0x10 [(3, 8)] abc, h 0x12 [(3, 1)] abc, h 0x14 [] abc, h 1 [] [(34, 4), (64, 5)], h 3 [(1, 9)] [(18, 1)],
       h 4 [] [], h 0x22 [] [], h 0x29 [] [(33, 4), (17, 1), (19, 1), (32, 1)]]) = true := by decide +kernel
/-- Its curve operations, on a point of the curve and off it, on every kind of curve; SLOT_DEFINE, BNE_STORE; an end beyond the turn. -/
theorem test_curve_results :
    (let e := curveP256; let g := ofPoint 8 e.gx e.gy
     let h (op cv a b : Nat) (p : Machine.Ord → State → Bool) : Bool := match (bneRun op [(1, a), (2, b)] [(18, 1), (19, 2), (33, cv)]) with
       | s => let s : State := with_ s [(F.BNE_SLOT_WORDS 2, 8)]
         match s.bne with | some j => bneCurve j.ord == cv && s.inflight.contains j.ord && s.reaches j.due && !s.wellFailed && s.slotVal (bneA j.ord) == a && p j.ord s | none => false
     let pt (o : Machine.Ord) (s : State) : Nat × Nat := pointOf (s.slotWords (Machine.bneB o)) (s.slotVal (Machine.bneB o))
     every [h 0x20 0 1 g (fun o s => ecOn e (pt o s).1 (pt o s).2 && ecMul e 1 (some (pt o s)) == some (e.gx, e.gy)), h 0x20 2 1 0 (fun o s => !ecOn curveP521 (pt o s).1 (pt o s).2),
       h 0x23 0 0 g (fun o s => ecOn e (pt o s).1 (pt o s).2 && ecMul e 0 (some (pt o s)) == none), h 0x21 0 1 0 (fun _ _ => true), h 0x28 0 1 0 (fun _ _ => true),
       h 0x23 3 1 9 (fun _ _ => true), h 0x21 3 1 0 (fun _ _ => true), h 0x21 4 1 0 (fun _ _ => true), h 0x28 4 1 1 (fun _ _ => true)]) = true := by decide +kernel
theorem test_define_and_store :
    (let s := bneRun 0 [] [(17, 9), (34, 128)]; let o := ordOf up 1 (bneB 2 [(40, 0x2000)])
     let v : State := { slots 4 with bne := some ⟨o, 2, [(0x2000, 0, 64)], 0⟩, inflight := [o] }
     every [match s.bne with | some j => !s.slotOn (bneD j.ord) && bneWords j.ord == 128 && decide (128 ≤ s.get F.BNE_STATE_FREE) && s.inflight.contains j.ord | none => false,
       cdiv (8 * v.slotWords (bneD o)) 64 * 64 == 64, v.blkCode == [], v.reaches 0, !v.reaches (2 ^ 40), v.bne.isSome]) = true := by decide +kernel
/-- AES-256-GCM of the zero key and IV: GCM_DECRYPT with the tag of no text at all and with another, GCM_ENCRYPT of a block. -/
theorem test_gcm_end :
    (let go (op tag len : Nat) (src : List (Nat × Nat × Nat)) : Machine.Ord × State := match ordOf up 1 (symB 0 op [(48, len), (80, tag)]) with
       | o => (o, { slots 4 with inflight := [o], sym := some ⟨o, src, [], [(0x2000, 0, if op = 0 then len else cdiv len 64 * 64)], 0⟩ })
     let opens (x : Machine.Ord × State) : Option Nat := (gcmOpen (x.2.slotBytes (symKey x.1)) (x.1.data 64 12) [] (x.2.orderRead [] 0).1 (x.1.data 80 16)).map (·.length)
     let d := go 1 0x8B73CBC4F1B463A9B93645C7FB8A0F53 0 []; let g := go 0 0 16 [(0x1000, 0, 16)]
     every [symKind d.1.bytes == some 1, opens d == some 0, symLen d.1 == 0, (opens (go 1 0 0 [])).isNone,
       symKind g.1.bytes == some 0, (g.2.orderRead [(0x1000, 0, 16)] g.1.allot).1.length == 16, g.2.slotWords (symTagSlot g.1) == 4, g.2.slotVal (symTagSlot g.1) == 0,
       d.2.inflight.contains d.1, d.2.blkCode == [], d.2.reaches 0, !d.2.reaches (2 ^ 40)]) = true := by decide +kernel
theorem test_big_number_values :
    (let g (op : Nat) (v : List (Nat × Nat)) : Nat × Nat := match exec (.bneOpEnd true) (bneRun op v [(18, 1), (19, 2), (32, 3)]) with
       | .next t => (t.slotVal 0, ((t.queue 1).out.map (·.detail)).sum) | _ => (0, 9)
     every [g 0x10 [(1, 5), (2, 9), (3, 7)] == (0, 1), g 0x11 [(1, 5), (2, 9), (3, 7)] == (3, 1), g 0x13 [(1, 5), (2, 9), (3, 7)] == (6, 1),
       g 0x14 [(1, 5), (3, 7)] == (3, 1), g 0x12 [(0, 77), (1, 5), (2, 9), (3, 8)] == (0, 0)]) = true := by decide +kernel
/-- Basins, gauges and buses: their orders wait too. -/
theorem test_units_wait :
    (let s := busyUnits up; let rd := mkBytes 0x802 1 1 0 []
     let g := mkBytes 0xA02 1 0 255 []; let i := mkBytes 0xA01 2 0 255 []
     every [goes specBsnRun 1 runB s, goes specBsnRead 1 rd s, goes specBsnLoad 1 loadB s, bsState s 0 == 0, bsState basinUp 0 == 1, !up.queued (ordOf up 1 runB), { up with waiting := [ordOf up 1 runB] }.queued (ordOf up 1 runB), s.bsnBusy (bsBasin (ordOf s 1 runB)), goes specGauSample 0 g s, s.gau.isSome,
       goes specMgtI2cXfer 0 i s, (s.i2c (ixBus (ordOf s 0 i))).ord.isSome]) = true := by decide +kernel
theorem test_waiting_order :
    (let s : State := { up with waiting := [aloft 0x500], inflight := [aloft 0x500] }; let o := { aloft 0x500 with deadline := 0 }
     every [(aloft 0x500).op == 0x500, (aloft 0x500).field 16 1 != 2, s.bne.isNone, (busyUnits s).bne.isSome, up.waiting.isEmpty, slots 4 |>.waiting.isEmpty,
       o.deadline == up.wck.turn, o.q == 0, { up with waiting := [o], inflight := [o] }.inflight.contains o]) = true := by decide +kernel
/-- RandomAttestAndSession. -/
theorem test_random_attest_session :
    (let o := ordOf sealedUp 1 sessionB; let f : State := { up with wellStopped := true }
     every [goes specRngRead 1 rngB up, goes (specAttest true) 1 attestB up, up.bne.isNone, !up.wellFailed, goes (specSessionOpen true) 1 sessionB sealedUp,
       sealedUp.bne.isNone, !sealedUp.wellFailed, o.field 16 1 == 3, o.data 64 32 == bytesOf 32 9, f.wellFailed, (List.range 8).all (fun p => (up.ing p).receiving.isNone)]) = true := by
  decide +kernel
/-- ModulusAndKeyLoads. -/
theorem test_modulus_and_key :
    (let u := flownOf up 1 keyB; let o := ordOf up 1 keyB
     let k (form : Nat) : Bytes := mkBytes 0x401 3 1 0 [(16, 1), (32, 0x1000), (40, 128), (44, 9 + 2 ^ 18 + 10 * 2 ^ 30 + 2 ^ 35), (52, form)]
     every [goes specModTableLoad 1 modB up, goes specKeyLoad 1 keyB up, klForm o == 0, match u.keyDest o with | .ok [(_, 0, n)] => n == klSize o | _ => false, up.blkCode == [],
       (u.keyOpen o (List.replicate 128 5)).isSome, goes specKeyLoad 1 (k 1) up, (up.keyOpen (ordOf up 1 (k 1)) (List.replicate 128 5)).isNone,
       goes specKeyLoad 1 (k 2) up, klForm (ordOf up 1 (k 2)) == 2,
       match u.orderWalk o o.allot (klSrc o) (klSize o) permHostRead with | .ok l => (u.orderRead l o.allot).2.1 | _ => false]) = true := by decide +kernel

/-! ## Plans and allotments -/

def loadPlanB : Bytes := mkBytes 0x200 1 1 0 [(24, 128)]
def loadedUp : State := with_ (up.setAllot 0 { up.allot 0 with active := some (planWith []) }) [(F.ALT_STATE_STATE 0, 2)]
/-- PlanLifeCycle: loads. -/
theorem test_plan_load :
    (let l2 : PlanLoad := ⟨{ aloft 0x200 with id := 77, bytes := mkBytes 0x200 1 0 3 [] }, none, none, planWith [], []⟩
     every [goes specSchedLoad 1 loadPlanB up, !slLoc (ordOf up 1 loadPlanB), up.load.isNone, up.waiting.isEmpty, decide (slBytes (ordOf up 1 loadPlanB) < 192),
       goes specSchedLoad 1 loadPlanB { up with load := some l2 }, !up.queued (ordOf up 1 loadPlanB),
       (let b := mkBytes 0x200 1 1 0 [(16, 0x2001), (24, 128)]; let v : LoadView := ⟨ordOf up 1 b, (up.allot 0).rights, up.turnoutRoot 0, up.turnoutLevels 0⟩
        goes specSchedLoad 1 b up && slLoc (ordOf up 1 b) && okay ((flownOf up 1 b).readImage v).1)]) = true := by decide +kernel
theorem test_plan_load_end :
    (let o := aloft 0x200; let s : State := { up with load := some ⟨o, none, none, planWith [], []⟩, inflight := [o] }
     let s := s.setAllot 0 { s.allot 0 with loading := some ⟨o, [], 0, 0⟩ }
     every [s.load.isSome, o.allot == 0, s.inflight.contains o, s.altState 0 == 1, up.load.isNone,
       match { s with load := some ⟨o, some (stBadLength, 9), none, planWith [], []⟩ }.load with | some l => l.fail == some (stBadLength, 9) && l.walk.isNone | none => false]) = true := by
  decide +kernel
theorem test_plan_orders :
    (let r := aloft 0x201
     let d : State := { with_ (up.setAllot 0 { up.allot 0 with active := some (planWith []), runOrd := some r, executed := 9 }) [(F.ALT_STATE_STATE 0, 5)] with inflight := [r] }
     every [goes specSchedArm 1 (mkBytes 0x201 1 1 0 [(16, 2)]) loadedUp, goes specSchedStop 1 (mkBytes 0x202 1 1 0 [(16, 2)]) (with_ up [(F.ALT_STATE_STATE 0, 4)]),
       goes specSchedUnload 1 (mkBytes 0x203 1 1 0 []) loadedUp, d.altState 0 == 5, (d.allot 0).delivs == [], (d.allot 0).runOrd == some r, (d.allot 0).stops == [],
       (d.allot 0).partialPoison.isNone, (d.setAllot 0 { d.allot 0 with partialPoison := some (3, 0) }).inflight.contains r, d.inflight.contains r, up.altState 0 != 5]) = true := by decide +kernel
/-- AllotmentIsReleased. -/
theorem test_release :
    (let s : State := with_ (up.setQueue 1 Queue.reset) [(F.DR_QCTL_ENABLE 1, 0), (F.DR_QSTAT_STATE 1, 0)]; let o := aloft 0x121
     let e : State := { up with inflight := [o] }; let e := e.setAllot 0 { e.allot 0 with release := some o, rights := [] }
     every [goes specAltRelease 0 (mkBytes 0x121 1 0 0 []) s, s.waiting.isEmpty, s.bne.isNone, s.sym.isNone, (List.range 63).all (fun r => !s.boundTo (r + 1) 0),
       (List.range 8).all (fun p => s.get (F.ING_PORT_STATE_ALLOT p) != 0), (List.range 4).all (fun p => s.get (F.VIS_STATE_ALLOT p) != 0),
       (List.range 2).all (fun p => s.get (F.BSN_STATE_ALLOT p) != 0), e.releaseDone 0 o, o.allot == 0, (e.allot 0).release == some o,
       (up.allot 15).release.isNone, { e with staged := [⟨o, .rights 0 [], false, 0⟩] }.staged.any fun x => x.ord.id == o.id]) = true := by decide +kernel

/-! ## Camera ports -/

def startB : Bytes := mkBytes 0x601 1 1 0 []
/-- CameraPortOrders. -/
theorem test_camera_orders : every [goes specIngPortConfig 1 camB up, goes specIngStart 1 startB (camAt 1), goes specIngStop 1 (mkBytes 0x602 1 1 0 []) (camAt 4),
    goes specIngStop 1 (mkBytes 0x602 1 1 0 [(17, 1)]) (camRows 3 false)] = true := by decide +kernel
theorem test_camera_start :
    (let u := flownOf (camAt 1) 1 startB; let o := ordOf (camAt 1) 1 startB; let c := (u.ing 0).cfg
     every [okay (u.translate o.allot (icBase c) (icNbuf c * icStride c) (fun v => bit v permIngress && (!icSealed c || bit v permSealed))),
       match u.orderWalk o o.allot (icTables c) (if icMosaic c = 3 then 0 else 0x1400 + 4 * icDefects c) permHostRead with | .ok w => w != [] | _ => false, up.blkCode == []]) = true := by
  decide +kernel
/-- CameraPackets: the first and the last row, the frame's end, a frame beyond its turns, DISCARD, a port that does not hear. -/
theorem test_camera_packets :
    (let c := ((camAt 2).ing 0).cfg; let late : State := { camRows 16 false with wck := { up.wck with turn := 2 } }
     let f (n : Nat) : Bool := match ((camRows n false).ing 0).receiving with
       | some g => (rowsOf g 0).length == n && !(camRows n false).stalled 0 && ipState (camRows n false) 0 == 3 | none => false
     every [!ipHears up 0, ipState (camAt 2) 0 == 2, !icBind c, !icSealed c, icNbuf c == 1, icNexp c == 1, icLineBytes c == 20, icHeight c == 16,
       f 0, f 15, f 16, !ipLate (camRows 16 false) 0, ipLate late 0, ipState late 0 == 3, ipState (camAt 4) 0 == 4, ipHears (camAt 2) 0, !ipLate (camAt 2) 0]) = true := by
  decide +kernel
/-- A receive FIFO within and beyond its 32 KiB with the next line; a sealed port after a failure of the well. -/
theorem test_camera_fifo :
    (let grown (s : State) : Nat := match (s.ing 0).receiving with
       | some f => { s.ing 0 with frames := (s.ing 0).frames.dropLast ++ [{ f with rows := smSet [] f.rows 0 (rowsOf f 0 ++ [[]]) }] }.fifoBytes | none => 0
     let wide : List (Nat × Nat) := camRec.map fun x => if x.1 = 34 then (34, 4096) else x
     let s : State := camRows 9 false; let v : State := s.setIng 0 { s.ing 0 with cfg := slice (mkBytes 0x600 4 1 0 wide) 32 96 }; let c := (v.ing 0).cfg
     let k : State := { camAt 2 with wellStopped := true }; let k : State := k.setIng 0 { k.ing 0 with cfg := slice (mkBytes 0x600 4 1 0 (camRec ++ [(32, 8)])) 32 96 }
     every [decide (grown s ≤ 32768), decide (32768 < grown v), decide (9 < icHeight c), icNexp c == 1, ipState v 0 == 3,
       ipState k 0 == 2, icSealed (k.ing 0).cfg, !icBind (k.ing 0).cfg, k.wellFailed, icNbuf (k.ing 0).cfg == 1]) = true := by decide +kernel
/-- The blocks of a write are usable and its bytes fall on distinct addresses. -/
def free (s : State) (m : SMap Nat) (at_ n : Nat) : Bool :=
  (List.range n).all (fun i => (s.blockEcc (xl m (at_ + i) / 64)).usable) && ((List.range n).map fun i => xl m (at_ + i)).dedup.length == n
/-- FramesLeaveThePipeline: the first and the last row; under a key with an empty and with both staging buffers full. -/
theorem test_rows_out :
    (let c := ((camRows 16 true).ing 0).cfg
     let h (out : Nat) (key : Option IngKeySlot) (q : List EncJob) : Bool := let s : State := { camRows 16 true with encQ := q }; match (s.ing 0).frames with
       | [f] => let g := { f with out := out, key := key }; rowReady (s.ing 0) g && decide (g.buf < 8) && s.stalled 0 == decide (q.length = 2) &&
           free s [] (icBase c + g.buf * icStride c + g.out * icPitch c) (icWidth c * icOutBits c / 8)
       | _ => false
     every [h 0 none [], h 15 none [], h 0 (some camKey) [], h 15 (some camKey) [], h 0 (some camKey) [⟨0, 1, 0, []⟩, ⟨0, 1, 1, []⟩], (up.ing 0).frames.isEmpty,
       up.encQ == []]) = true := by decide +kernel
/-- A staged ciphertext of a frame under a key, which is the frame's last, and one of a frame that is gone. -/
theorem test_ciphertext :
    (let k : IngKeySlot := { camKey with logN := 1 }; let j : EncJob := ⟨0, 1, 0, [5]⟩
     let s : State := (camAt 2).setIng 0 { (camAt 2).ing 0 with frames := [⟨1, 0, 0, some k, [], true, 16, [], 1, icCts ((camAt 2).ing 0).cfg k - 1⟩] }
     let s : State := { s with encQ := [j] }; let c := (s.ing 0).cfg
     let data := ({ s with encQ := [] }.noteEnc.encrypt 0 k (icOutBits c) j.vals).1.flatMap fun (l : List Nat) => l.flatMap (toLe 4)
     every [(s.ing 0).frames.any (fun f => f.id == j.frame && f.written + 1 == icCts c k), decide (0 < data.length), free s [] (icBase c) data.length,
       (up.ing 0).frames.all fun f => f.id != j.frame, !s.wellFailed, { s with wellStopped := true }.wellFailed,
       (s.ing 0).frames.all fun f => f.key.isSome && 0 + 1 != icCts c k]) = true := by decide +kernel

/-! ## The field units -/

/-- Channel `n` of that baseband in a state. -/
def chanAt (n st : Nat) (x : GnssChan) : State := (with_ gnssUp [(F.GNS_CHAN_STATE n, st)]).setChan n x
/-- GnssBaseband: the first record, the same again, one that changes a late field, one that restarts; a record that waits. -/
theorem test_gnss_config :
    (let o := aloft 0x710; let w : State := { gnssUp with gnss := { gnssUp.gnss with wait := [(o, slice gnsB 32 64)] }, inflight := [o] }
     let other (l : List (Nat × Nat)) : Bytes := mkBytes 0x710 3 0 255 ((gnsRec.filter fun x => l.all fun y => y.1 != x.1) ++ l)
     let ch (l : List (Nat × Nat)) (p : Nat → Bool) : Bool := let new := (ordOf gnssUp 0 (other l)).data 32 64
       goes specGnssConfig 0 (other l) gnssUp && (List.range 64).any fun i => p i && new.getD i 0 != gnssUp.gnss.record.getD i 0
     every [goes specGnssConfig 0 gnsB up, up.gnss.cfg.isNone, up.gnss.wait == [], goes specGnssConfig 0 gnsB gnssUp, gnssUp.gnss.cfg.isSome,
       (ordOf gnssUp 0 gnsB).data 32 64 == gnssUp.gnss.record, ch [(52, 20)] gcLate, ch [(48, 600)] (fun i => !gcLate i), w.gnss.wait != [], w.inflight.contains o]) = true := by
  decide +kernel
/-- Channels and seconds in each state the clauses ask; what a solution gives is free, so that one is held invalid here for want of satellites. -/
theorem test_gnss :
    (let g (c : GnssChan) : State := chanAt 63 2 c; let f : State := { gnssUp with gnss := { gnssUp.gnss with fault := true, goodWindows := 999 } }
     let m := towPeriods 0 0
     every [gnssUp.gnssOn, !gnssUp.gnss.fault, gcFs gnssUp.gnss.record == 5000000, f.gnss.fault, (g GnssChan.reset).gnssOn, (g GnssChan.reset).chanState 63 == 2,
       ((g GnssChan.reset).chan 63).tow.isNone, ((g { GnssChan.reset with tow := some (m - 1) }).chan 63).tow == some (m - 1), (chanAt 0 1 GnssChan.reset).chanState 0 == 1,
       (chanAt 0 3 { GnssChan.reset with weak := 2000 }).chanState 0 == 3, ((chanAt 0 3 { GnssChan.reset with weak := 2000 }).chan 0).lost, !((g GnssChan.reset).chan 63).lost,
       gnssUp.gnss.epochOpen, !up.gnss.epochOpen, decide (gnssUp.wck.gnss.rejects < 2), !gnssUp.solutionOk]) = true := by decide +kernel
/-- A search that has seen its samples, with a cell above the threshold and without one; the lowest IDLE channel is the last. -/
theorem test_search :
    (let a (l : List (GnssCell × Nat)) : Gnss := { gnssUp.gnss with acq := { GnssAcq.reset with pass := 100000, found := l } }
     let full := with_ gnssUp ((List.range 63).map fun k => (F.GNS_CHAN_STATE k, 3)); let cell : GnssCell := ⟨10 ^ 12, 5, -3⟩
     every [(a []).searched, (a []).detection == none, (a [(cell, 1)]).detection == some cell, !gnssUp.gnss.searched, gnssUp.reaches gnssUp.wck.lagoon, !gcFft gnssUp.gnss.record, full.chanState 63 == 0,
       (List.range 63).all (fun k => full.chanState k != 0)]) = true := by decide +kernel
/-- A front-end clock at the limit and 1 Hz beyond it. -/
theorem test_front_end :
    (let f (n : Nat) : Nat := match exec (.gnssClkWindow n false []) gnssUp with | .next t => t.get F.GNS_STATE_FRONT_END | _ => 9
     every [f 5002500 == 1, f 4997500 == 1, f 5002501 == 0]) = true := by decide +kernel
/-- A run of BSN_RUN's order, of five sweeps, with the first energy −3. -/
def runOf (going : Bool) : BsnRun :=
  let o := ordOf basinUp 1 runB
  ⟨o, 0, rsSched o, 5, 0x4000, [], going, [], 0, [true], -3, [true], -3, 0, 0, 0, 0, false⟩
def basinRun (going : Bool) (turn : Nat) : State :=
  { basinUp.setBasin 0 { basinUp.basin 0 with run := some (runOf going) } with wck := { basinUp.wck with turn := turn } }
/-- SettlingBasins: the orders. -/
theorem test_basin_load :
    (let s : State := { up with mem := problemMem ++ upMem }; let o := ordOf s 1 loadB
     let v := ((flownOf s 1 loadB).put (F.BSN_STATE_STATE 0) 1).put (F.BSN_STATE_ALLOT 0) o.allot
     every [goes specBsnLoad 1 loadB s, !s.bsnBusy 0, bsState s 0 == 0, match v.bsnWalk o.allot (o.field 20 8) 64 permHostRead with
       | .ok m => let h := (v.readVia m (o.field 20 8) 64 1 o.allot).1
         okay (v.bsnWalk o.allot (o.field 20 8) (loadExtent h) permHostRead)
       | _ => false]) = true := by decide +kernel
theorem test_basin_run_and_read :
    (let r : State := basinUp.setBasin 0 { basinUp.basin 0 with result := some (List.replicate 64 7) }; let o := ordOf basinUp 1 runB
     every [goes specBsnRun 1 runB basinUp, !basinUp.bsnBusy 0, okay ((flownOf basinUp 1 runB).bsnWalk o.allot (rsResult (rsSched o)) (resultSize 1) permHostWrite),
       goes specBsnRead 1 readB r, !r.bsnBusy 0, decide (64 ≤ (ordOf r 1 readB).field 17 3)]) = true := by decide +kernel
/-- The check of a sound problem and of one with a fault; runs before, in and after their turn. -/
theorem test_basin_check :
    (let o := aloft 0x800; let p : BsnProblem := ⟨0x2000, 1, 0, 128, []⟩
     let s (m : List Host.Cell) : State := { up with mem := m, inflight := [o], basins := [(0, { Basin.reset with loading := some (o, p) })] }
     let r (m : List Host.Cell) : Bytes × Bool := let u := s m
       let h := (u.readVia p.pages p.addr 64 1 o.allot).1
       let x := u.readVia p.pages p.addr (loadExtent h) 1 o.allot
       (x.1, x.2.1 && u.inflight.contains o)
     every [(r problemMem).2, problemFault (r problemMem).1 == none,
       !({ s problemMem with blkCode := [(0x80, ⟨true, []⟩)] }.readVia [] 0x2000 64 1 0).2.1, (r [(0x2000, 1), (0x2008, 128), (0x2048, 3)]).2,
       (problemFault (r [(0x2000, 1), (0x2008, 128), (0x2048, 3)]).1).isSome, (up.basin 1).loading.isNone]) = true := by decide +kernel
theorem test_basin_runs :
    (let r := runOf true
     every [((basinRun false 0).basin 0).run.isSome, ((basinRun false 0).basin 0).problem.isSome, turnsAhead 0 (rsTurn r.sched) == some 2, turnsAhead 2 (rsTurn r.sched) == some 0,
       r.sweeps == 5, !rsWell r.sched, !r.poison, !rsTarget r.sched, decide (r.sweep + 1 < r.sweeps),
       match ((basinRun true 2).basin 0).problem with | some p => ((basinRun true 2).readProblem p r.ord.allot).2.1 | none => false, (up.basin 1).run.isNone,
       { r with sweep := 4 }.sweep + 1 == r.sweeps, !rsRelease r.sched, { basinRun false 2 with wellStopped := true }.wellFailed,
       rsWell (rsSched (ordOf basinUp 1 (mkBytes 0x801 4 1 0 [(17, 1), (20, 5)])))]) = true := by
  decide +kernel
/-- VisitKeepsEnergy: two spins that lie in each other's list; a visit that flips one. -/
def twoSpins : Bytes :=
  bytesOf 144 (2 + 2 ^ 33 + 128 * 2 ^ 64 + 2 ^ (8 * 76) + 2 * 2 ^ (8 * 84) + 2 ^ (8 * 128) + 5 * 2 ^ (8 * 132) + 5 * 2 ^ (8 * 140))
theorem test_visit :
    (let v := visitSpin twoSpins 0 [1, 2, 3, 4] ([false, true], energyOf twoSpins 2 [false, true]) 1
     every [problemFault twoSpins == none, pbN twoSpins == 2, energyOf twoSpins 2 [false, true] == 5, v.1 == [false, false], v.2 == -5,
       energyOf twoSpins 2 [false, false] == -5]) = true := by decide +kernel
/-- VisionPipelines. -/
def visReady : State := with_ up [(F.VIS_STATE_STATE 0, 1), (F.VIS_STATE_ALLOT 0, 0)]
theorem test_vision_orders :
    (let o := ordOf visReady 1 (visB 1); let u := flownOf visReady 1 (visB 1)
     every [goes specVisGraphLoad 1 graphB up, (up.vis 0).run.isNone, goes specVisRun 1 (visB 1) visReady, (visReady.vis 0).run.isNone, vpState visReady 0 == 1,
       !visReady.queued o, okay (u.visWalks o.allot 0 (visAreas (o.field 17 1) (visReady.vis 0).graph (vrHeader o) (vrDescs o)) []),
       (up.vis 3).run.isNone]) = true := by decide +kernel

/-- The run of that order, its frame started or not. -/
def visRun (going : Bool) : VisRun :=
  let o := ordOf visReady 1 (visB 1); let h := vrHeader o
  ⟨o, o.field 17 1, vrRelease h, vrTurn h, vrCycle h, vrDescs o, [], going, 0, 0, 0, false, false, [], if going then [(0, 9)] else [], 0, false, 0⟩
/-- A basin, a pipeline and the self-test that work, or are free behind an order that waits. -/
theorem test_later_units_wait :
    (let w (s : State) (b : Bytes) : State := { s with waiting := [ordOf s 1 b] }; let l (u : State) (q : Nat) (b : Bytes) : Bool := u.queued (ordOf u q b)
     let v : State := visReady.setVis 0 { visReady.vis 0 with run := some (visRun false) }; let t : State := { up with waiting := [ordOf up 0 (testB 263)] }
     every [goes specBsnLoad 1 loadB (w basinUp loadB), l (w basinUp loadB) 1 loadB, goes specVisGraphLoad 1 graphB (w up graphB), l (w up graphB) 1 graphB,
       vpState up 0 == 0, goes specVisRun 1 (visB 1) v, (v.vis 0).run.isSome, vpState v 0 == 1, goes specVisGraphLoad 1 graphB v,
       goes specSelftestRun 0 (testB 263) t, l t 0 (testB 263), goes specSelftestRun 0 (testB 152) { up with test := some ⟨aloft 0xD00, [263], false⟩ }, up.testsWaiting.isEmpty]) = true := by decide +kernel
theorem test_vision_frames :
    (let r := visRun false; let d := r.descs.getD 0 []; let g := visRun true
     every [turnsAhead 0 ((r.t0 + fdDelta d) % 2 ^ 48) == some 2, turnsAhead 2 ((r.t0 + fdDelta d) % 2 ^ 48) == some 0, r.running == [],
       (frameNodes g.mode (visReady.vis 0).graph d).length == 1, g.ended == [], !g.poison, !g.release, g.frame + 1 == g.descs.length, visReady.blkCode == []]) = true := by
  decide +kernel

/-! ## Pins, buses, sidebands -/

/-- BusTransfersAndGauges. -/
theorem test_bus_and_gauge_orders : every [goes specMgtI2cXfer 0 i2cB up, (up.i2c (ixBus (ordOf up 0 i2cB))).ord.isNone,
    goes specGauSample 0 (gauB 0x80) { up with pinRecs := [(47, 4)] }, (ordOf up 0 (gauB 0x80)).field 16 1 == 0x80, up.gau.isNone, goes specGauSample 0 (gauB 0) up,
    (ordOf up 0 (gauB 0)).field 16 1 == 0] = true := by decide +kernel
theorem test_bus_events :
    (let s (g : Bool) (r : Nat) := i2cUp 4 g r; let n := up.get F.MGT_RETRY_COUNT; let o := ordOf up 0 i2cB
     let u := ordOf up 0 (gauB 0x82); let v : State := { up with gau := some ⟨u, 3, 4, 5⟩, inflight := [u] }
     every [(s false 1).i2c 4 == ⟨some o, false, 1⟩, (s true 2).i2c 4 == ⟨some o, true, 2⟩, decide (2 < n), (s true n).i2c 4 == ⟨some o, true, n⟩, (s true 2).inflight.contains o,
       ixRead o != 0, decide (0 < ixWrite o), v.gau == some ⟨u, 3, 4, 5⟩, v.reaches 5, !v.reaches (2 ^ 40), v.inflight.contains u, up.isReady, (up.i2c 4).ord.isNone, up.waiting.isEmpty]) = true := by decide +kernel
/-- PinsAndSidebands: a strobe in the turn's last cycle, a stamp fed by one pin, a device before fuse load. -/
theorem test_pins :
    (let t : State := { up with strobes := [(1, 2 ^ 48 + 14999999)] }; let f : State := with_ { up with pinRecs := [(47, 4 * 2 ^ 24)] } [(F.GPIO_STAMP_VALID 3, 1)]
     let a := with_ up [(F.SLU_STATUS_ALERT, 1)]
     every [up.isReady, bit (t.strobe 1) 48, decide (bits (t.strobe 1) 0 32 < t.turnLength), !t.chipClosed, t.strobeHigh.isEmpty, !bit (t.strobe 0) 48,
       f.feeders 4 == [47], f.get (F.GPIO_STAMP_VALID 3) == 1, !bit (f.get F.GPIO_IN_IN) 47, up.feeders 4 == [],
       { t with strobeHigh := [(1, 9)] }.strobeHigh == [(1, 9)], t.reaches 9,
       (match exec (.stampEdge (List.replicate 47 0 ++ [3300]) 1) f with
        | .next n => bit (n.get F.GPIO_IN_IN) 47 && n.get (F.GPIO_STAMP_OVERRUN 3) == 1 && n.get (F.GPIO_STAMP_VALID 2) == 0 &&
            (match exec (.stampEdge [] 1) n with | .next m => m.get F.GPIO_IN_IN == 0 | _ => false)
        | _ => false), (clockAt 2 1).ppsDriven, !(clockAt 2 1).ppsHigh, !up.ppsDriven,
       (let l (ns : Nat) : Bool := let s : State := { clockAt 2 1 with wck := { (clockAt 2 1).wck with ns := ns } }; s.reaches (s.nextPps / 8)
        l 0 && !l 1),
       { up with ppsHigh := true }.ppsHigh, up.get F.PWR_STATUS_PHASE == 4, a.get F.SLU_STATUS_ALERT == 1, State.reset.get F.PWR_STATUS_PHASE == 0, !up.perst,
       { up with perst := true }.perst]) = true := by decide +kernel

/-! ## Power, resets, memory -/

/-- DomainsAndSelfTests: units with and without a follow-up, each of the kinds of unit that a test names. -/
theorem test_domains :
    (let f := (fallowWith [.power 200 true]).setMapBit F.PWR_ON_MAP_MAP 200 false; let g := fallowWith [.power 200 false]; let r (u st : Nat) : Bool := (rampUp u true st).ramps == [⟨u, true, some (aloft 0xB00), st⟩] && (rampUp u true st).inflight.contains (aloft 0xB00)
     every [f.get F.PWR_STATUS_PHASE == 4, f.wck.isFallow, f.rampStarts.isEmpty, f.inflight.contains (aloft 0x704), r 0 0, followUp 0, r 199 0, !followUp 199, r 152 0, r 152 1, r 199 1, (rampUp 3 false 0).ramps == [⟨3, false, some (aloft 0xB00), 0⟩],
       r 3 1, r 200 1, r 200 2, !(rampUp 200 true 2).identityOk, !(rampUp 200 true 2).underTest 200, (with_ (rampUp 200 true 2) [(F.PWR_STATUS_PHASE, 2)]).get F.PWR_STATUS_PHASE == 2, !f.chipClosed,
       r 144 1, r 151 1, (rampUp 151 true 1).get (F.PWR_TRAIN_RETRIED 7) == 0, (with_ (rampUp 151 true 1) [(F.PWR_TRAIN_RETRIED 7, 1)]).get (F.PWR_TRAIN_RETRIED 7) == 1,
       !f.powered 200, f.ramps == [], f.fallowDue.length == 1, g.powered 200, g.ramps == [], !(rampUp 199 true 0).underTest 199, (rampUp 172 true 0).apState 0 != apUp,
       (rampUp 170 true 1).powered 170, (rampUp 170 true 1).powered 171]) = true := by decide +kernel
/-- The private key 1, whose public key is the base point, and the fuses that name that point. -/
theorem test_identity :
    (let w (v i : Nat) : Nat := v / 2 ^ (64 * i) % 2 ^ 64
     let s := with_ (rampUp 200 true 2) ((List.range 6).flatMap fun i => [(F.SEC_ID_PUB_WORD i, w curveP384.gx i), (F.SEC_ID_PUB_WORD (6 + i), w curveP384.gy i)])
     { s with idKey := 1 }.identityOk) = true := by decide +kernel
theorem test_selftests :
    (let t : State := { up with test := some ⟨aloft 0xD00, [263], false⟩, inflight := [aloft 0xD00] }
     every [goes specSelftestRun 0 (testB 152) up, goes specSelftestRun 0 (testB 263) up, goes specSelftestRun 0 (testB 0xFFFF) up, up.test.isNone, t.test.isSome,
       t.inflight.contains (aloft 0xD00), up.mayWork 3, up.mayWork 200, (with_ up [(F.PWR_TRAIN_PASS 7, 1)]).mayWork 151]) = true := by decide +kernel
/-- ResetsAndBringup: a device in each phase of bring-up. -/
theorem test_bringup :
    (let r := State.reset; let fuse : State := { r with bringingUp := true }; let dom := with_ fuse [(F.PWR_STATUS_PHASE, 1)]
     let init (h : Nat) : State := (with_ fuse [(F.PWR_STATUS_PHASE, 2)]).setWorking (144 + h) true
     let sw : State := { dom with ramps := [⟨151, true, none, 1⟩, ⟨200, true, none, 2⟩] }
     every [!up.tripped, !up.perst, up.isReady, up.powerGood, !r.powerGood, up.get F.PWR_STATUS_RESET_CAUSE == 0, sw.get F.PWR_STATUS_PHASE == 1, sw.bringup.isEmpty, !r.tripped, !r.bringingUp, r.get F.PWR_STATUS_PHASE == 0, fuse.bringingUp, fuse.get F.PWR_STATUS_PHASE == 0,
       dom.get F.PWR_STATUS_PHASE == 1, dom.bringup.isEmpty, dom.ramps.isEmpty, (init 7).get F.PWR_STATUS_PHASE == 2, (init 7).ramps.isEmpty,
       (let t := with_ { fuse with ramps := [⟨151, true, none, 1⟩] } [(F.PWR_STATUS_PHASE, 2), (F.PWR_TRAIN_PASS 7, 1)]
        t.get F.PWR_STATUS_PHASE == 2 && t.get (F.PWR_TRAIN_PASS 7) == 1 && (match exec (.unitFollowupEnd 151 true false) t with
          | .next n => n.get F.PWR_STATUS_PHASE == 3 && n.get F.PWR_STATUS_HOME_STACK == 7 | _ => false)),
       (let t := with_ fuse [(F.PWR_STATUS_PHASE, 3), (F.PWR_STATUS_HOME_STACK, 7)]
        t.get F.PWR_STATUS_PHASE == 3 && t.get F.PWR_STATUS_HOME_STACK == 7 && t.ramps.isEmpty),
       !(init 7).fuseFault, (init 7).working 151, (List.range 7).all (fun i => !(init 7).working (144 + i)), (init 0).working 144,
       up.queueLive 1, up.get (F.DR_QSTAT_STATE 1) == 1, (up.queue 1).bound == 0, up.get (F.ALT_STATE_FUNCTION 0) == 1]) = true := by decide +kernel
/-- MemoryServicesAct: windows that end in the last byte of a page, in a sealed granule, outside the table. -/
theorem test_bar2 :
    (let w (perm addr : Nat) : Option Bool := match up.bar2Pieces 0 perm (pagesOf addr 5) with
       | (.ok [(_, 0, 5, sealed_)], _) => some sealed_ | (.error _, _) => none | _ => some true
     every [up.bar2Up 1, up.window 1 == some 0, w permHostWrite 0x1FFFFB == some false, w permHostRead 0x1FFFFB == some false, w permHostWrite 0x1000000 == some true,
       w permHostRead 0x1000000 == some true, (w permHostWrite 0x3000000).isNone, (w permHostRead 0x3000000).isNone, up.blkCode == [], !State.reset.bar2Up 31,
       !State.reset.perst]) = true := by decide +kernel
theorem test_memory_services :
    (let s : State := { up with scrubs := [(7 * 24576 + 5, 1)] }; let q : State := { up with rewriteQ := [(7, [5, 9])], blkCode := [(5, ⟨false, [(0, 1)]⟩)] }
     let l := with_ up [(F.SLU_LEDGER_NEXT 0, 4), (F.SLU_LEDGER_ACK 0, 2 ^ 32 - 3)]
     let d (v : Nat) : Nat := (v + 2 ^ 32 - l.get (F.SLU_LEDGER_ACK 0)) % 2 ^ 32
     every [(7 * 24576 + 5) / 24576 == 7, s.ramps.isEmpty, s.scrubs.all (fun x => x.1 / 24576 != 6), !(s.setWorking 151 false).working 151, smGet [] q.rewriteQ 7 == [5, 9], q.blockEcc 5 == .correctable,
       smGet [] q.rewriteQ 6 == [], up.get (F.HBM_STACK_INSERTING 7) == 0, (with_ up [(F.HBM_STACK_NOTICE_ARMED 7, 1)]).get (F.HBM_STACK_NOTICE_ARMED 7) == 1,
       up.get F.HBM_CLASS_CLASS == 1, (with_ up [(F.HBM_CLASS_CLASS, 0)]).get F.HBM_CLASS_CLASS == 0, !up.hotStacks.contains 0, !up.chipClosed, !up.tripped,
       up.allotOfFn 1 == some 0, up.allotOfFn 2 != some 0, d (2 ^ 32 - 3) == 0, decide (d 4 ≤ l.unacked 0), decide (l.unacked 0 < d 5), decide (l.unacked 0 < d (2 ^ 32 - 4))]) = true := by
  decide +kernel
theorem test_reopening :
    (let s (sc : Nat) : State := { up with wck := { up.wck with isFallow := true }, reopens := [⟨aloft 0xC00, sc, 0, 0, false⟩] }
     every [(s 1).wck.cycle == 0, (s 1).wck.isFallow, (s 1).reopens.length == 1, (s 2).reopens.length == 1, !up.wck.isFallow]) = true := by decide +kernel

/-! ## A running plan -/

/-- PlanTransportActs: a delivery due and one in flight, before, at and past its release turn. -/
theorem test_deliveries :
    (let s := runningWith [(4, 1, dvRec)]; let p := planWith [(4, 1, dvRec)]; let d : Delivery := ⟨dvRec, 0, 0, 100, false, [], []⟩
     every [s.stores == [], idle s, s.planRuns 0, (s.allot 0).active == some p, p.deliveries.getD 0 [] == dvRec, dvTurn dvRec == (s.allot 0).planTurn,
       dvStamp dvRec == 100, !dvSealed dvRec, (s.allot 0).delivs == [], (s.allot 0).ledger == [], !loadedUp.planRuns 0, !loadedUp.shutNow 0, (loadedUp.allot 0).active.isSome,
       (delivering.allot 0).delivs == [d], delivering.early.isEmpty, decide (delivering.unacked 0 < 61439), delivering.blkCode == [], d.release == delivering.wck.turn,
       !turnPassed delivering d.release, decide (max delivering.wck.cycle (d.startCycle + 1) < delivering.guardCycle 0),
       decide (delivering.wck.cycle ≤ delivering.guardCycle 0), turnsAhead 0 d.release == some 1,
       (up.allot 15).delivs == []]) = true := by decide +kernel
/-- Flume transfers and exchange openings due; landings that are ready, last and not last, and not. -/
theorem test_transfers :
    (let s := runningWith [(5, 1, fluRec), (7, 1, recvRec)]; let l := s.flumeCores 0 fluRec
     let z (n : Nat) : Slot := { Slot.reset with flying := some ⟨3, 0, 0, 40, 2, n, 0, []⟩ }; let u := landing.setCore 4607 { Core.reset with slots := [(63, z 1)] }
     let r (s : State) (landed : Nat) : Bool := match (smGet Slot.reset (s.core 4607).slots 63).flying with
       | some x => x.ready s.wck.cycle && x.landed == landed && x.lines == 2 && (s.core 4607).writes == [] && decide ((s.core 4607).macroEnd ≤ s.wck.cycle) | none => false
     let w := up.setCore 4607 { Core.reset with slots := [(63, { Slot.reset with flying := some ⟨2, 0, 0, 40, 2, 0, 0, []⟩ })] }
     every [s.planRuns 0, idle s, rvKind fluRec == 1, rvApplies fluRec 0, rvStamp fluRec == 100, !rvMacro fluRec, l == [3],
       l.all (fun c => (smGet Slot.reset (s.core c).slots (rvLslot fluRec)).flying == none), flumeShare fluRec 0 1 == 4, lkKind recvRec == 2, lkApplies recvRec 0,
       decide (s.wck.cycle ≤ lkA recvRec), (smGet Slot.reset (s.core (s.phyCore 0 (lkCore recvRec))).slots (lkSlot recvRec)).flying == none, r landing 0, r u 1,
       match (smGet Slot.reset (w.core 4607).slots 63).flying with | some x => !x.ready w.wck.cycle | none => false,
       (smGet Slot.reset (up.core 4607).slots 63).flying == none]) = true := by decide +kernel
/-- A link slot that serves one record, in its first slot. -/
theorem test_link_slot :
    (let s := sending; let k := max s.linkSlots (cdiv s.wck.cycle 128)
     every [idle s, s.planRuns 0, (List.range 15).all (fun x => !s.planRuns (x + 1)), match (s.allot 0).active with | some p => p.links == [sendRec] | none => false,
       lkKind sendRec == 1, lkApplies sendRec 0, s.portSends (lkPort sendRec), (s.allot 0).txs.length == 1, k == 1, lkA sendRec == 1, lkB sendRec == 4, decide (lkPort sendRec < 12), min (7 * lkShare sendRec) 9 != 0, !State.reset.wck.running,
       { up with wck := { up.wck with isFallow := true } }.wck.isFallow]) = true := by decide +kernel

/-! ## Aqueducts -/

/-- Port `p` in a state. -/
def portAt (p st : Nat) : State := with_ up [(F.AQD_PORT_STATE_STATE p, st)]
/-- Port 11 UP, with a RECV record of a running plan. -/
def usedPort : State := with_ (runningWith [(7, 1, recvRec)]) [(F.AQD_PORT_STATE_STATE 11, 4)]
/-- AqueductPortsAct: bring-up, timers and ranging. -/
theorem test_ports :
    (let s : State := (portAt 11 3).setAqd 11 { AqdPort.reset with samples := 1024, sum := -3072, lo := -3, hi := -3, vlLimit := 4000 }; let x := s.aqd 11
     every [(portAt 11 0).apState 11 == apDown, (portAt 11 0).working 183, !((portAt 11 0).setWorking 183 false).working 183, (portAt 11 4).portUsers 11 == [],
       usedPort.portUsers 11 == [0], (portAt 11 5).apState 11 == apFault, (portAt 11 1).apState 11 == apTrain, (portAt 11 2).apState 11 == apAlign,
       s.apState 11 == apRange, x.sum == (x.samples : Int) * (-3), x.lo == -3, x.hi == -3, decide (s.get F.AQD_ASYM_ASYM ≤ x.vlLimit), decide (x.vlLimit < (with_ s [(F.AQD_ASYM_ASYM, 4001)]).get F.AQD_ASYM_ASYM),
       ((up.aqd 11).frames.filter id).length == 0,
       (((portAt 0 2).setAqd 0 { AqdPort.reset with moved := 1 }).aqd 0).moved == up.wck.lagoon + 1, (up.aqd 11).samples == 0]) = true := by decide +kernel
theorem forced_eq {α : Type} (n : Nat) (f : Nat → α) : forced n f = f n := by cases n <;> rfl
/-- CRC-32C, each byte's step evaluated before the next. -/
def crcRun : Nat → Bytes → Nat
  | c, [] => c
  | c, b :: r => forced (crcByte c b) fun d => crcRun d r
theorem crcRun_eq (b : Bytes) (c : Nat) : crcRun c b = b.foldl crcByte c := by
  induction b generalizing c with
  | nil => rfl
  | cons x r ih => simp [crcRun, forced_eq, ih]
def flitGood (f : Bytes) : Bool :=
  f.length == 256 && fieldAt f 12 4 == Nat.xor (crcRun 0xFFFFFFFF (slice f 0 12 ++ [0, 0, 0, 0] ++ slice f 16 240)) 0xFFFFFFFF
theorem flitOk_eq : flitOk = flitGood := by funext f; simp [flitOk, flitGood, crcRun_eq, crc32c]
/-- A flit of 256 bytes with its CRC. -/
def flitOf (kind b1 exch base : Nat) (body : Bytes) : Bytes :=
  let h := kind + 2 ^ 8 * b1 + 2 ^ 16 * exch + 2 ^ 32 * base
  forced (h + 2 ^ 128 * leNat body) fun n => forced (crcRun 0xFFFFFFFF (bytesOf 256 n)) fun c => bytesOf 256 (n + 2 ^ 96 * Nat.xor c 0xFFFFFFFF)
/-- A good flit of kind `k` of a chip that is open. -/
def flitIs (f : Bytes) (k : Nat) : Bool := flitOk f && ftKind f == k && !ftChipSluiced f
/-- A ranging request, its answer, and a sluice flit that names exchange 9. -/
def askFlit : Bytes := flitOf 2 0 0 0 (toLe 8 9)
def ansFlit : Bytes := flitOf 2 0 0 0 (toLe 8 9 ++ toLe 8 10)
def sluFlit : Bytes := flitOf 4 0 0 0 ([0, 1] ++ List.replicate 14 0 ++ toLe 2 9)
/-- One flit of each kind, and a bad one. -/
theorem test_flits : every [!flitOk [], flitIs (flitOf 1 0 0 0 [0, 0, 0, 0, 0, 0, 0x5A]) 1, up.wck.port != 11] = true := by
  rw [flitIs, flitOk_eq]; decide +kernel
/-- A marker of a peer that is not LOCKED, and of the peer above at stratum 5, on the marker port in FREE_RUN. -/
theorem test_flits_marker : (let s := portAt 0 4
    every [flitIs (flitOf 1 0 0 0 []) 1, s.wck.port == 0, s.apState 0 == apUp, s.wckState == wckFreeRun, !s.wck.marker.pred, s.wck.marker.accepts == 0]) = true := by
  rw [flitIs, flitOk_eq]; decide +kernel
theorem test_flits_ask : every [flitIs askFlit 2, fieldAt askFlit 24 8 == 0, fieldAt askFlit 32 8 == 0] = true := by
  rw [flitIs, flitOk_eq]; decide +kernel
theorem test_flits_answer : every [flitIs ansFlit 2, fieldAt ansFlit 24 8 == 10] = true := by
  rw [flitIs, flitOk_eq]; decide +kernel
theorem test_flits_sluice : every [flitIs sluFlit 4, (portAt 11 4).recvs 11 == [], usedPort.recvs 11 == [(0, 0, recvRec)],
    fieldAt sluFlit 32 2 == lkExch recvRec] = true := by
  rw [flitIs, flitOk_eq]; decide +kernel
/-- The CRC of each flit of a quad of exchange 9 of bytes 7. -/
def quadCrc (i : Nat) : Nat := [0x7942C7D4, 0x2D3F3F5B, 0xD1B936CA, 0x85C4CE45].getD i 0
/-- A flit of that quad. -/
def quadFlit (i : Nat) : Bytes := bytesOf 16 (3 + 2 ^ 8 * i + 2 ^ 16 * 9 + 2 ^ 96 * quadCrc i) ++ List.replicate 240 7
theorem quad_ok0 : flitOk (quadFlit 0) = true := by rw [flitOk_eq]; decide +kernel
theorem quad_ok1 : flitOk (quadFlit 1) = true := by rw [flitOk_eq]; decide +kernel
theorem quad_ok2 : flitOk (quadFlit 2) = true := by rw [flitOk_eq]; decide +kernel
theorem quad_ok3 : flitOk (quadFlit 3) = true := by rw [flitOk_eq]; decide +kernel
theorem slice_append_left (x b : Bytes) : slice (x ++ b) 0 x.length = x := by
  refine List.ext_getElem (by simp [slice]) fun i h₁ h₂ => ?_
  simp only [slice, List.getElem_map, List.getElem_range, Nat.zero_add]
  rw [List.getD_eq_getElem?_getD, List.getElem?_append_left h₂, List.getElem?_eq_getElem h₂]; rfl
theorem slice_append_right (x b : Bytes) (off n : Nat) : slice (x ++ b) (x.length + off) n = slice b off n := by
  refine List.map_congr_left fun i _ => ?_
  rw [List.getD_eq_getElem?_getD, List.getD_eq_getElem?_getD, List.getElem?_append_right (by omega)]
  congr 2; omega
/-- Records laid one after the other are read back one by one. -/
theorem recs_append (n : Nat) (hn : 0 < n) (x b : Bytes) (h : x.length = n) : recs n (x ++ b) = x :: recs n b := by
  subst h
  have e : (x ++ b).length / x.length = b.length / x.length + 1 := by
    rw [List.length_append, Nat.add_comm, Nat.add_div_right _ hn]
  simp only [recs, e, List.range_succ_eq_map, List.map_cons, List.map_map, Nat.zero_mul, slice_append_left]
  refine congrArg (x :: ·) (List.map_congr_left fun i _ => ?_)
  rw [Function.comp_apply, Nat.succ_mul, Nat.add_comm, slice_append_right]
theorem recs_flatten (n : Nat) (hn : 0 < n) (l : List Bytes) (h : ∀ x ∈ l, x.length = n) : recs n l.flatten = l := by
  induction l with
  | nil => simp [recs]
  | cons x r ih =>
    rw [List.flatten_cons, recs_append n hn x _ (h x (by simp)), ih fun y hy => h y (by simp [hy])]
theorem test_quad_recs : recs 256 ((List.range 4).flatMap quadFlit) = (List.range 4).map quadFlit :=
  recs_flatten 256 (by decide) _ fun x hx => by
    obtain ⟨i, -, rfl⟩ := List.mem_map.1 hx
    rw [quadFlit, List.length_append, List.length_replicate, bytesOf, forced_eq, List.length_map, List.length_range]
theorem test_quad :
    (let s : State := { usedPort with wck := { usedPort.wck with cycle := 50 } }; let l := (List.range 4).map quadFlit
     every [l.zipIdx.all (fun x => ftPos x.1 == x.2 && ftKind x.1 == 3 && !ftChipSluiced x.1),
       ftExch (quadFlit 0) == lkExch recvRec, !bit (fieldAt (quadFlit 0) 1 1) 2, !s.held 0, lkA recvRec == 50,
       (quadLines l).all (fun y => decide (y.1 < lkLines recvRec)), (portAt 11 4).recvs 11 == []]) = true := by decide +kernel

/-! ## Native commands -/

/-- Core `c` of tile 0 about to issue one command in cycle 64. -/
def about (c w : Nat) (x : Core) (keys : SMap KeyEntry) : State :=
  let s := runningWith []
  let s := { s.setAllot 0 { s.allot 0 with keys := keys } with wck := { s.wck with cycle := 64 } }
  s.setCore c { x with bank0 := [⟨BitVec.ofNat 128 w, .clean, 0⟩] }
/-- The conditions of `Issues`, for that command. -/
def issues (eng op : Nat) (s : State) (c : Nat) : Bool :=
  match (s.program c)[((s.core c).atIssue (s.program c) 0 64).cursor]? with
  | none => false
  | some e =>
    let y := s.cycleChecked 0 64
    decide (c < 4608) && s.stores.isEmpty && memWf s.mem && s.coreOwner c == some 0 && s.mayIssue 0 c && (s.allot 0).planTurn == 0 &&
      (Core.toNext (s.program c) 0 (stepsOf (s.program c)) (s.core c) []).1.cycleOf e == 64 && decide (s.wck.cycle ≤ 64 ∧ 64 < s.turnLength) &&
      cmdEng e.w == eng && cmdOp e.w == op && ((s.coresTo 64).advanceTo 64).mayIssue 0 c && !y.1 && y.2.mayIssue 0 c &&
      (y.2.cores.all fun x => x.2.runs == [] && x.2.writes == []) && !((y.2.core c).atIssue (s.program c) 0 64).empty e.w
def regCore : Core := { Core.reset with s := [(1, 0xFFFFFFF8), (2, 35)], a := [(3, 1024), (4, 8192), (5, 16384), (6, 32768)], k := [(2, 3)] }
def word (eng op l : Nat) : Nat := eng + 16 * op + 64 * 2 ^ 16 + l
/-- SequencerCommandsWriteRegisters, on core 31: every row, and LOOP with three iterations and with none. -/
theorem test_sequencer :
    every ([1, 2, 3, 4, 5, 6, 7, 8, 9, 10, 11, 0x10, 0x11, 0x12, 0x13, 0x14, 0x18, 0x19, 0x1A].map fun op =>
      issues 0 op (about 31 (word 0 op (15 * 2 ^ 64 + 3 * 2 ^ 68 + 2 * 2 ^ 72)) regCore []) 31) = true := by decide +kernel
theorem test_loop : every ([1, 2].map fun k => issues 0 0x20 (about 31 (word 0 0x20 (k * 2 ^ 64 + 100 * 2 ^ 68 + 3 * 2 ^ 92)) regCore []) 31) = true := by decide +kernel
/-- EngineCommandsStart: a command with operands A3 to A6. -/
def engine (eng op l : Nat) : Bool :=
  issues eng op (about 31 (word eng op (3 * 2 ^ 64 + 4 * 2 ^ 68 + 5 * 2 ^ 72 + 6 * 2 ^ 76 + l)) regCore []) 31
theorem test_matrix_and_moves : every ([engine 1 0 (32 * 2 ^ 80), engine 1 1 0, engine 1 2 0] ++
    [0, 1, 2, 3, 4, 5, 6].map fun op => engine 4 op (2 ^ 80 + 63 * 2 ^ 110)) = true := by decide +kernel
theorem test_ring_commands : every ([0, 1, 2, 3, 4].map (fun op => engine 2 op (128 * 2 ^ 80)) ++ [8, 9, 10, 11, 0x10, 0x11, 0x12, 0x13, 0x14].map (fun op =>
    engine 2 op (32 * 2 ^ 80 + 10 * 2 ^ 116)) ++ [engine 2 12 (2 ^ 102)]) = true := by decide +kernel
theorem test_vector_commands : every (([0, 1, 2, 3, 4, 5, 6, 7, 8, 9, 10, 11, 12, 13, 14, 15, 16, 17, 18, 20, 21, 22, 23, 24, 25, 26, 27, 0x20, 0x3F] : List Nat).map fun op =>
    engine 3 op (32 * 2 ^ 80 + 6 * 2 ^ 102)) = true := by decide +kernel
/-- The macros, on one limb of an input of their scheme and logN, with the key 4,095 of their kind. -/
theorem test_macros :
    every ([(0, 0, 0, 2, 16), (1, 2, 0, 3, 15), (2, 3, 0, 4, 11), (3, 4, 1, 2, 16)].map fun m =>
      match macroSet m.2.1 m.2.2.1 with
      | none => false
      | some k =>
        let x : Core := { regCore with p := [(9, 4095)], tags := [(64, tagOf (m.2.2.2.1 + 2 ^ 18 * 7 + 2 ^ 30 * m.2.2.2.2 + 2 ^ 35))] }
        issues 5 m.1 (about 31 (word 5 m.1 (3 * 2 ^ 64 + 4 * 2 ^ 68 + 5 * 2 ^ 72 + 6 * 2 ^ 76 + m.2.2.1 * 2 ^ 102 + m.2.1 * 2 ^ 116 + 9 * 2 ^ 96)) x [(4095, ⟨k.keyKind, 7, 8⟩)]) 31) = true := by
  decide +kernel
/-- LaneReductionIsCanonicalResidue and the ring's element operations: a modulus that is admitted, at the ends of x. -/
theorem test_modulus :
    (let e := slice modB 32 32; let m := modulusOf e
     every [(modRefusal e).isNone, reduceLane m 0 == 0, reduceLane m (2 ^ 64 - 1) == ((2 ^ 64 - 1) % 0xFFF00001 : Nat), reduceLane m 0xFFF00001 == 0,
       rneElem m 3 5 0xFFF00000 0 == 0xFFF00001 - 5]) = true := by decide +kernel

/-- The stopped port 0 of the sealed allotment 0 with its session and a modulus at index 63; an ING_KEY_SET in an envelope. -/
def ksS : State := with_ ((camAt 1).setAllot 0 { (sealedUp.allot 0) with mods := [(63, { Modulus.none with q := 5, maxlog := 17 })] }) [(F.ALT_STATE_SEALED 0, 1),(F.RNE_MODTAB_VALID 0 63, 1)]
def ksB : Bytes := [3, 6, 5, 64, 0, 0, 0, 0, 0, 1, 0, 0, 0, 0, 0, 0, 0, 0, 0, 0, 0, 0, 0, 0, 0, 0, 0, 0, 50, 63, 8, 59, 1, 0, 0, 0, 0, 0, 0, 0, 7, 0, 0, 0, 0, 0, 0, 0, 184, 11, 130, 149, 94, 219, 64, 176, 133, 202, 247, 126, 142, 195, 242, 216, 15, 94, 220, 201, 137, 243, 46, 170, 98, 88, 168, 97, 13, 12, 76, 163, 7, 224, 28, 224, 4, 202, 99, 61, 195, 218, 82, 58, 6, 136, 94, 12, 63, 179, 250, 104, 27, 238, 57, 169, 191, 253, 74, 13, 246, 164, 56, 94, 30, 253, 0, 141, 177, 247, 212, 169, 59, 27, 116, 155, 87, 33, 243, 104, 235, 38, 251, 159, 115, 124, 120, 168, 77, 202, 92, 123, 150, 158, 223, 182, 9, 184, 123, 109, 76, 210, 109, 174, 247, 194, 214, 209, 3, 144, 148, 148]
/-- Its order and the state in which it has been granted. -/
def ksO : Ord := ordOf ksS 1 ksB
def ksU : State := flownOf ksS 1 ksB
/-- CameraPortOrders: a sealed ING_KEY_SET whose envelope opens. -/
theorem test_camera_key : every [goes specIngKeySet 1 ksB ksS, okay (ksU.orderWalk ksO ksO.allot (bits (ksO.field 32 8) 0 48) (ikBytes ksO) permHostRead),
    okay (ksU.translate ksO.allot (ikDest ksO) (ikBytes ksO) (fun v => bit v permSealed && bit v permPlanRead)), up.blkCode == []] = true := by
  decide +kernel

end Sys2Proof.Tests
end

section
/-! PROOFS. Host accesses to BAR0 (spec/00_scope.md, R6 to R12) and bytes stored in external memory: laws of the log, of
writes by access code and of reads, and from them the statements of the scope chapter. -/

namespace Sys2Proof.Machine

/-! ## External memory -/

/-- Settles O7: the drained memory reads what the running command reads after its stores. -/
theorem memoryReadsWhatWasStored : Obligations.MemoryReadsWhatWasStored := by
  intro s a b hs hm
  refine ⟨memWf_memDrain _ _ hm, fun x => ?_⟩
  rw [smGet_memDrain, storedByte_wrRaw, rd_nil s x hs, hs]
  split <;> rfl

/-! ## How an access ends -/

/-- An effect that leaves queue, external memory and stores alone. -/
structure Untouched (s t : State) : Prop where
  pending : t.pending = s.pending
  mem : t.mem = s.mem
  stores : t.stores = s.stores

/-- The command of an existing unit answers such an effect as it stands. -/
theorem unit_next {n i : Nat} {s t : State} {f : State → State} (hi : i < n) (hs : s.stores = []) (h : f s = t)
    (hk : Untouched s t) : unit n i s f = .next t := by
  rw [unit_of_lt hi, run, stores_nil hs, h, settle_clean hk.pending hk.mem (hk.stores.trans hs)]

section
variable {s t : State} {fn off size data hw : Nat} {hits : List (Nat × Nat)} (hfn : fn < 32) (hs : s.stores = [])
include hfn hs

theorem registerWrite_next (h : hostWrite fn off size data hw s = t) (hk : Untouched s t) :
    exec (.registerWrite fn off size data hw) s = .next t := unit_next hfn hs h hk

theorem rcFieldRead_next (h : hostRead fn off size hits s = t) (hk : Untouched s t) :
    exec (.rcFieldRead fn off size false hits) s = .next t := unit_next hfn hs h hk

theorem bar4Read_next (h : bar4Read fn size s = t) (hk : Untouched s t) :
    exec (.rcFieldRead fn off size true hits) s = .next t := unit_next hfn hs h hk

theorem highHalfLatch_next (h : hostRead fn off 4 [] s = t) (hk : Untouched s t) :
    exec (.highHalfLatch fn off) s = .next t := unit_next hfn hs h hk

theorem misalignedBar0Read_next (h : hostRead fn off size [] s = t) (hk : Untouched s t) :
    exec (.misalignedBar0Read fn off size) s = .next t := unit_next hfn hs h hk

end

/-! ## The error log -/

/-- The entry added is the newest one, with the next number and the position of the clock. -/
theorem logEntry_last (s : State) (e : LogEntry) : (s.logEntry e).log.getLast? =
    some { e with seq := s.get F.SLU_LOG_NEXT, cycle := s.wck.cycle, turn := s.wck.turn } := by
  unfold State.logEntry
  dsimp only
  split <;> exact List.getLast?_concat

/-- Of the registers, a log entry changes SLU_LOG alone. -/
theorem logEntry_reg (s : State) (e : LogEntry) {r : Nat} (h : r ≠ 0x100010) : (s.logEntry e).reg r = s.reg r := by
  unfold State.logEntry
  dsimp only
  split
  · exact (reg_congr (t := s.put F.SLU_LOG_NEXT (s.get F.SLU_LOG_NEXT + 1)) rfl r).trans (State.reg_put_ne s _ _ h)
  · exact (reg_congr (t := (s.put F.SLU_LOG_NEXT (s.get F.SLU_LOG_NEXT + 1)).bump F.SLU_LOG_WRAPPED) rfl r).trans
      ((State.reg_bump_ne _ _ _ h).trans (State.reg_put_ne s _ _ h))

section
variable (s : State) (cause value allot : Nat)

theorem logCause_eq : s.logCause cause value allot =
    { s with regs := (s.logCause cause value allot).regs, log := (s.logCause cause value allot).log } := by
  obtain ⟨_, _, h⟩ := logEntry_eq s ⟨0, 0, 0, allot, 0, false, false, cause, 0xFFFF, 0xFFFFFFFF, value⟩
  rw [State.logCause, h]

theorem logCause_untouched : Untouched s (s.logCause cause value allot) := by
  rw [logCause_eq]
  exact ⟨rfl, rfl, rfl⟩

theorem logCause_last : ∃ e, (s.logCause cause value allot).log.getLast? = some e ∧ e.cause = cause :=
  ⟨_, logEntry_last _ _, rfl⟩

theorem logCause_reg {r : Nat} (h : r ≠ 0x100010) : (s.logCause cause value allot).reg r = s.reg r :=
  logEntry_reg _ _ h

end

/-! ## Who is served, and which registers an access reaches -/

theorem bar2Up_pf {s : State} (h : s.isReady = true) : s.bar2Up 0 = true := by simp [State.bar2Up, h]

theorem isReady_of_bar2Up {s : State} {fn : Nat} (h : s.bar2Up fn = true) : s.isReady = true :=
  (Bool.and_eq_true_iff.1 h).1

theorem linkLost_of_bar2Up {s : State} {fn : Nat} (h : s.bar2Up fn = true) : s.linkLost = false := by
  simpa using (Bool.and_eq_true_iff.1 (isReady_of_bar2Up h)).2

/-- A register begins at or before the offsets it holds. -/
theorem offsetOf_le {r : RegRow} {off o : Nat} (h : r.offsetOf off = some o) : o ≤ off := by
  unfold RegRow.offsetOf at h
  dsimp only at h
  generalize hi : (if r.n1 = 0 then 0 else (off - r.base) / (if r.n1 = 0 then 1 else r.s1)) = i at h
  generalize hk : (if r.n2 = 0 then 0 else (off - r.base - i * r.s1) / r.s2) = k at h
  have h1 : i * r.s1 ≤ off - r.base := by
    rw [← hi]
    split
    · simp
    · exact Nat.div_mul_le_self _ _
  have h2 : k * r.s2 ≤ off - r.base - i * r.s1 := by
    rw [← hk]
    split
    · simp
    · exact Nat.div_mul_le_self _ _
  simp only [Option.ite_none_right_eq_some, Bool.and_eq_true, decide_eq_true_eq, Option.some.injEq] at h
  omega

/-- The part of an access in one register: the register's row, and its offset at or before that of the access. -/
theorem accessPart_spec {off size : Nat} {p : RegRow × Nat × Nat × Nat} (h : accessPart off size = some p) :
    p.1 ∈ regTable ∧ p.2.1 ≤ off := by
  unfold accessPart at h
  split at h
  · rename_i r hr
    split at h
    · rename_i o ho
      cases h
      exact ⟨List.mem_of_find?_eq_some hr, offsetOf_le ho⟩
    · cases h
  · cases h

theorem accessPart_none {off size : Nat} (h : regRowAt off = none) : accessPart off size = none := by
  simp only [accessPart, h]

/-- Every part of an access lies in a register of the table that begins before the end of the access. -/
theorem accessParts_spec {off size : Nat} {p : Nat × RegRow × Nat × Nat × Nat} (h : p ∈ accessParts off size) :
    p.2.1 ∈ regTable ∧ p.2.2.1 ≤ off + 4 := by
  have hpart {a n d : Nat} {x} (hx : accessPart a n = some x) (ha : a ≤ off + 4) (hp : p = (d, x)) :
      p.2.1 ∈ regTable ∧ p.2.2.1 ≤ off + 4 := by
    subst hp
    exact ⟨(accessPart_spec hx).1, (accessPart_spec hx).2.trans ha⟩
  have hone {a n : Nat} (ha : a ≤ off + 4) (hm : p ∈ match accessPart a n with | some x => [(a - off, x)] | none => []) :
      p.2.1 ∈ regTable ∧ p.2.2.1 ≤ off + 4 := by
    split at hm
    · rename_i x hx; exact hpart hx ha (List.mem_singleton.1 hm)
    · cases hm
  unfold accessParts at h
  dsimp only at h
  split at h
  · split at h
    · rename_i x hx
      split at h
      · exact hpart hx (Nat.le_add_right _ _) (List.mem_singleton.1 h)
      · rcases List.mem_cons.1 h with h | h
        · exact hpart hx (Nat.le_add_right _ _) h
        · exact hone (Nat.le_refl _) h
    · exact hone (Nat.le_refl _) h
  · exact hone (Nat.le_add_right _ _) h

theorem row_mem_regTable {off size d o lo hi : Nat} {r : RegRow} (h : accessParts off size = [(d, r, o, lo, hi)]) : r ∈ regTable :=
  (accessParts_spec (h ▸ List.mem_singleton_self _)).1

/-- An access to offsets that hold no register has no part. -/
theorem accessParts_none {off size : Nat} (h : regRowAt off = none) (h8 : size = 8 → regRowAt (off + 4) = none) :
    accessParts off size = [] := by
  unfold accessParts
  by_cases hs : size = 8
  · simp only [hs, if_pos, accessPart_none h, accessPart_none (h8 hs)]
  · simp only [hs, if_false, accessPart_none h]

/-! ## Writes by access code (R6, R8) -/

/-- What a write leaves in a field that held `old`: `mask` the bits written, `val` their values, `hw` the bits that hardware
sets in the same cycle. -/
def RField.written (f : RField) (mask val hw : Nat) (codes : List Access) (old : Nat) : Nat :=
  if !codes.contains f.acc then old
  else match f.acc with
    | .rw => Nat.lor (Nat.land (bits val f.lo f.w) (bits mask f.lo f.w)) (Nat.land old (2 ^ f.w - 1 - bits mask f.lo f.w))
    | .w1c => Nat.lor (Nat.land old (2 ^ f.w - 1 - Nat.land (bits val f.lo f.w) (bits mask f.lo f.w))) (bits hw f.lo f.w)
    | _ => old

/-- A number with bits `lo` to `lo + w - 1` replaced. -/
def replaceBits (v lo w new : Nat) : Nat := v - bits v lo w * 2 ^ lo + new * 2 ^ lo

/-- A register's value with one field written. -/
def writeField (mask val hw : Nat) (codes : List Access) (v : Nat) (f : RField) : Nat :=
  replaceBits v f.lo f.w (f.written mask val hw codes (bits v f.lo f.w))

theorem writeCodes_eq (s : State) (r : RegRow) (o mask val hw : Nat) (codes : List Access) :
    s.writeCodes r o mask val hw codes =
      s.setReg o (BitVec.ofNat 64 (r.fields.foldl (writeField mask val hw codes) (s.reg o).toNat)) := rfl

theorem bits_lt (v lo w : Nat) : bits v lo w < 2 ^ w := Nat.mod_lt _ (Nat.two_pow_pos w)

/-- A written field stays within its width. -/
theorem RField.written_lt (f : RField) (mask val hw : Nat) (codes : List Access) {old : Nat} (h : old < 2 ^ f.w) :
    f.written mask val hw codes old < 2 ^ f.w := by
  unfold RField.written
  split
  · exact h
  · split
    · exact Nat.or_lt_two_pow (Nat.and_lt_two_pow _ (bits_lt _ _ _)) (Nat.lt_of_le_of_lt Nat.and_le_left h)
    · exact Nat.or_lt_two_pow (Nat.lt_of_le_of_lt Nat.and_le_left h) (bits_lt _ _ _)
    · exact h

/-- The three parts of a number with bits replaced: those above, the new ones, those below. -/
theorem replaceBits_eq (v lo w new : Nat) :
    replaceBits v lo w new = (v / 2 ^ lo / 2 ^ w * 2 ^ w + new) * 2 ^ lo + v % 2 ^ lo := by
  have h1 := Nat.div_add_mod' v (2 ^ lo)
  have h2 := Nat.div_add_mod' (v / 2 ^ lo) (2 ^ w)
  have h3 : v / 2 ^ lo / 2 ^ w * 2 ^ w * 2 ^ lo + bits v lo w * 2 ^ lo + v % 2 ^ lo = v := by
    rw [← Nat.add_mul, bits, h2, h1]
  rw [replaceBits, Nat.add_mul]
  omega

/-- Beside the bits replaced a number keeps its value, and there it has the new one. -/
theorem replaceBits_parts (v lo w : Nat) {new : Nat} (h : new < 2 ^ w) :
    replaceBits v lo w new % 2 ^ lo = v % 2 ^ lo ∧ bits (replaceBits v lo w new) lo w = new ∧
      replaceBits v lo w new / 2 ^ (lo + w) = v / 2 ^ (lo + w) := by
  have hlow : v % 2 ^ lo < 2 ^ lo := Nat.mod_lt _ (Nat.two_pow_pos lo)
  have hdiv : replaceBits v lo w new / 2 ^ lo = v / 2 ^ lo / 2 ^ w * 2 ^ w + new := by
    rw [replaceBits_eq, Nat.mul_comm, Nat.mul_add_div (Nat.two_pow_pos lo), Nat.div_eq_of_lt hlow, Nat.add_zero]
  refine ⟨?_, ?_, ?_⟩
  · rw [replaceBits_eq, Nat.mul_add_mod_self_right, Nat.mod_mod]
  · rw [bits, hdiv, Nat.mul_add_mod_self_right, Nat.mod_eq_of_lt h]
  · rw [Nat.pow_add, ← Nat.div_div_eq_div_mul, ← Nat.div_div_eq_div_mul, hdiv, Nat.mul_comm, Nat.mul_add_div (Nat.two_pow_pos w),
      Nat.div_eq_of_lt h, Nat.add_zero]

/-- Bits below a place depend on the number modulo it. -/
theorem bits_congr_mod {u v k lo w : Nat} (h : u % 2 ^ k = v % 2 ^ k) (hk : lo + w ≤ k) : bits u lo w = bits v lo w := by
  apply Nat.eq_of_testBit_eq
  intro i
  have hi := congrArg (·.testBit (i + lo)) h
  simp only [Nat.testBit_mod_two_pow] at hi
  rw [bits_testBit, bits_testBit]
  by_cases hw : i < w
  · have hlt : i + lo < k := by omega
    simpa [hlt, hw] using hi
  · simp [hw]

/-- Bits from a place on depend on the number divided by it. -/
theorem bits_congr_div {u v k lo w : Nat} (h : u / 2 ^ k = v / 2 ^ k) (hk : k ≤ lo) : bits u lo w = bits v lo w := by
  obtain ⟨d, rfl⟩ := Nat.exists_eq_add_of_le hk
  rw [bits, bits, Nat.pow_add, ← Nat.div_div_eq_div_mul, ← Nat.div_div_eq_div_mul, h]

/-- Two fields share no bit. -/
def RField.apart (f g : RField) : Bool := decide (f.lo + f.w ≤ g.lo ∨ g.lo + g.w ≤ f.lo)

theorem RField.apart_symm {f g : RField} (h : f.apart g = true) : g.apart f = true := by
  simpa [RField.apart, or_comm] using h

section
variable (mask val hw : Nat) (codes : List Access)

theorem bits_writeField_self (v : Nat) (f : RField) : bits (writeField mask val hw codes v f) f.lo f.w =
    f.written mask val hw codes (bits v f.lo f.w) :=
  (replaceBits_parts v f.lo f.w (f.written_lt mask val hw codes (bits_lt _ _ _))).2.1

theorem bits_writeField_apart (v : Nat) {f g : RField} (h : f.apart g = true) :
    bits (writeField mask val hw codes v f) g.lo g.w = bits v g.lo g.w := by
  obtain ⟨hmod, -, hdiv⟩ := replaceBits_parts v f.lo f.w (f.written_lt mask val hw codes (bits_lt v _ _))
  rcases of_decide_eq_true h with h | h
  · exact bits_congr_div hdiv h
  · exact bits_congr_mod hmod h

/-- Writing fields leaves the bits of a field apart from them alone. -/
theorem bits_foldl_writeField_apart (l : List RField) (v : Nat) {g : RField} (h : ∀ f ∈ l, f.apart g = true) :
    bits (l.foldl (writeField mask val hw codes) v) g.lo g.w = bits v g.lo g.w := by
  induction l generalizing v with
  | nil => rfl
  | cons f l ih =>
    rw [List.foldl_cons, ih _ fun x hx => h x (List.mem_cons_of_mem _ hx)]
    exact bits_writeField_apart _ _ _ _ _ (h f List.mem_cons_self)

/-- Of fields that share no bit, each is written by its own access code. -/
theorem bits_foldl_writeField {l : List RField} (hl : l.Pairwise (RField.apart · · = true)) (v : Nat) {g : RField} (hg : g ∈ l) :
    bits (l.foldl (writeField mask val hw codes) v) g.lo g.w = g.written mask val hw codes (bits v g.lo g.w) := by
  induction l generalizing v with
  | nil => cases hg
  | cons f l ih =>
    obtain ⟨hf, hl⟩ := List.pairwise_cons.1 hl
    rw [List.foldl_cons]
    rcases List.mem_cons.1 hg with rfl | hg
    · rw [bits_foldl_writeField_apart _ _ _ _ _ _ fun x hx => RField.apart_symm (hf x hx), bits_writeField_self]
    · rw [ih hl _ hg, bits_writeField_apart _ _ _ _ _ (hf g hg)]

end

/-- The fields of a register share no bit and lie within 64 bits. -/
theorem regTable_fields : ∀ r ∈ regTable, r.fields.Pairwise (RField.apart · · = true) ∧ ∀ f ∈ r.fields, f.lo + f.w ≤ 64 := by
  decide +kernel

/-- What a field holds after a write by access code. -/
theorem get_writeCodes (s : State) {r : RegRow} (hr : r ∈ regTable) {f : RField} (hf : f ∈ r.fields) (o mask val hw : Nat)
    (codes : List Access) : (s.writeCodes r o mask val hw codes).get ⟨o, f.lo, f.w⟩ =
      f.written mask val hw codes (s.get ⟨o, f.lo, f.w⟩) := by
  obtain ⟨hl, h64⟩ := regTable_fields r hr
  rw [State.get, writeCodes_eq, State.reg_setReg_self, BitVec.toNat_ofNat,
    bits_congr_mod (Nat.mod_mod _ _) (h64 f hf), bits_foldl_writeField _ _ _ _ hl _ hf]
  rfl

theorem reg_writeCodes (s : State) (r : RegRow) {o x : Nat} (h : x ≠ o) (mask val hw : Nat) (codes : List Access) :
    (s.writeCodes r o mask val hw codes).reg x = s.reg x := State.reg_setReg_ne _ _ h

/-- A whole write of a word replaces an RW field. -/
theorem RField.written_rw {f : RField} (hf : f.acc = .rw) (h32 : f.lo + f.w ≤ 32) (val hw old : Nat) :
    f.written (2 ^ 32 - 2 ^ 0) val hw [.rw, .w1c] old = bits val f.lo f.w := by
  have hmask : bits (2 ^ 32 - 2 ^ 0) f.lo f.w = 2 ^ f.w - 1 := by
    apply Nat.eq_of_testBit_eq
    intro i
    rw [bits_testBit, pow_zero, Nat.testBit_two_pow_sub_one, Nat.testBit_two_pow_sub_one]
    by_cases hi : i < f.w
    · have : i + f.lo < 32 := by omega
      simp [hi, this]
    · simp [hi]
  have hval : bits val f.lo f.w &&& 2 ^ f.w - 1 = bits val f.lo f.w := by
    rw [Nat.and_two_pow_sub_one_eq_mod, Nat.mod_eq_of_lt (bits_lt _ _ _)]
  simp only [RField.written, hf, hmask]
  simp [hval]

/-- No core takes part in an access below the registers of the cores or beyond them. -/
theorem noCore {off : Nat} (h : off < 0x50000 ∨ 0xA0000 ≤ off) (P : Prop) : ¬ (0x50000 ≤ off ∧ off < 0xA0000 ∧ P) := by
  rintro ⟨h1, h2, -⟩
  omega

/-- The physical function writes an aligned word. -/
theorem hostWrite_pf_word {s : State} (hr : s.isReady = true) {off : Nat} {r : RegRow}
    (hp : accessParts off 4 = [(0, r, off, 0, 32)]) (ha : off % 4 = 0) (hc : off < 0x50000 ∨ 0xA0000 ≤ off) (data hw : Nat) :
    hostWrite 0 off 4 data hw s = writePf r off 0 32 (data % 2 ^ 32) (hw % 2 ^ 32) s := by
  have hshape : bar0Shape off 4 = true := by simp [bar0Shape, ha]
  simp only [hostWrite, bar2Up_pf hr, hshape, noCore hc, hp, List.foldl_cons, List.foldl_nil, Bool.not_true, Bool.false_eq_true,
    if_true, if_false]
  simp

/-- A write to offsets that hold no register changes nothing. -/
theorem hostWrite_unused {s : State} {fn off size : Nat} (hu : s.bar2Up fn = true) (hb : bar0Shape off size = true)
    (hp : accessParts off size = []) (data hw : Nat) : hostWrite fn off size data hw s = s := by
  simp [hostWrite, hu, hb, hp]

/-- A write of another shape is dropped and logged. -/
theorem hostWrite_misaligned {s : State} {fn off size : Nat} (hu : s.bar2Up fn = true) (hb : bar0Shape off size = false)
    (data hw : Nat) : hostWrite fn off size data hw s = s.logCause 0x101 (off + size * 2 ^ 56) (s.fnAllot fn) := by
  simp [hostWrite, hu, hb]

/-- A virtual function's write of a register below 0x30000 is ignored. -/
theorem writeVf_clock (fn : Nat) (r : RegRow) {o : Nat} (ho : o < 0x30000) (lo hi val hw : Nat) (s : State) :
    writeVf fn r o lo hi val hw s = s := by
  unfold writeVf
  dsimp only
  split
  · rfl
  · repeat rw [if_neg (by omega)]

/-- A virtual function's access to the block of the water clock writes nothing (R62). -/
theorem hostWrite_vf_clock {s : State} {fn off : Nat} (hfn : fn ≠ 0) (ho : off + 4 < 0x30000) (hu : s.bar2Up fn = true)
    {size : Nat} (hb : bar0Shape off size = true) (data hw : Nat) : hostWrite fn off size data hw s = s := by
  have hcore := noCore (off := off) (.inl (by omega))
  simp only [hostWrite, hu, hb, hcore, hfn, if_false, Bool.not_true, Bool.false_eq_true]
  refine List.foldlRecOn (motive := (· = s)) _ _ rfl ?_
  rintro _ rfl ⟨d, r, o, lo, hi⟩ hp
  have hle : o ≤ off + 4 := (accessParts_spec hp).2
  have ho : o < 0x30000 := by omega
  exact writeVf_clock fn r ho lo hi _ _ _

/-! ### The registers that the statement names -/

/-- A whole write of a register whose one field, from bit 0, is RW, and whose writes have no rule of their own. -/
theorem exec_write_field {s : State} (hs : s.stores = []) (hr : s.isReady = true) {o w : Nat} {r : RegRow}
    (hp : accessParts o 4 = [(0, r, o, 0, 32)]) (hf : ⟨0, w, .rw⟩ ∈ r.fields)
    (ho : w ≤ 32 ∧ o % 4 = 0 ∧ (o < 0x50000 ∨ 0xA0000 ≤ o))
    (hplain : ∀ val hw s, writePf r o 0 32 val hw s = s.writeCodes r o (2 ^ 32 - 2 ^ 0) val hw [.rw, .w1c]) (data : Nat) :
    ∃ t, exec (.registerWrite 0 o 4 data 0) s = .next t ∧ t.get ⟨o, 0, w⟩ = data % 2 ^ w ∧ (∀ r, r ≠ o → t.reg r = s.reg r) ∧
      t = { s with regs := t.regs } ∧ ∀ a, t.rd a = s.rd a := by
  obtain ⟨hw, ha, hc⟩ := ho
  have hwrite := (hostWrite_pf_word hr hp ha hc data 0).trans (hplain _ _ s)
  refine ⟨_, registerWrite_next (by decide) hs hwrite ⟨rfl, rfl, rfl⟩, ?_, fun x hx => reg_writeCodes s r hx _ _ _ _, rfl,
    fun _ => rfl⟩
  refine (get_writeCodes s (row_mem_regTable hp) hf ..).trans ((RField.written_rw rfl (by simpa using hw) ..).trans ?_)
  simp [bits, Nat.mod_mod_of_dvd, Nat.pow_dvd_pow 2 hw]

/-- The row of WCK_STATE in the register table. -/
def wckStateRow : RegRow :=
  ⟨"WCK_STATE", 0x20020, 0, 0, 0, 0, 32, 0,
    [⟨0, 3, .ro⟩, ⟨3, 3, .ro⟩, ⟨6, 1, .ro⟩, ⟨7, 1, .w1c⟩, ⟨8, 1, .rs⟩, ⟨9, 1, .w1c⟩, ⟨10, 1, .ro⟩, ⟨11, 12, .ro⟩]⟩

theorem accessParts_wckState : accessParts 0x20020 4 = [(0, wckStateRow, 0x20020, 0, 32)] := by decide +kernel

theorem wckStateRow_mem : wckStateRow ∈ regTable := row_mem_regTable accessParts_wckState

/-- The row of WCK_SLEW. -/
def wckSlewRow : RegRow := ⟨"WCK_SLEW", 0x2004C, 0, 0, 0, 0, 32, 200, [⟨0, 14, .rw⟩]⟩

theorem accessParts_wckSlew : accessParts 0x2004C 4 = [(0, wckSlewRow, 0x2004C, 0, 32)] := by decide +kernel

/-- A write of 0x80 to WCK_STATE acts on its fields by their access codes. -/
theorem exec_write_wckState {s : State} (hs : s.stores = []) (hr : s.isReady = true) (hw : Nat) :
    exec (.registerWrite 0 0x20020 4 0x80 hw) s =
      .next (s.writeCodes wckStateRow 0x20020 (2 ^ 32 - 2 ^ 0) 0x80 (hw % 2 ^ 32) [.rw, .w1c]) :=
  registerWrite_next (by decide) hs (hostWrite_pf_word hr accessParts_wckState (by decide) (by decide) 0x80 hw) ⟨rfl, rfl, rfl⟩

/-- A write of WCK_SLEW waits for the turn boundary where it lies in its range, and is logged where it does not (R61). -/
theorem hostWrite_wckSlew {s : State} (hr : s.isReady = true) (data : Nat) : hostWrite 0 0x2004C 4 data 0 s =
    if 1 ≤ data % 2 ^ 14 ∧ data % 2 ^ 14 ≤ 10000
    then { s with wck := { s.wck with limits := s.wck.limits ++ [(0x2004C, data % 2 ^ 14)] } }
    else s.rangeLog 0 0x2004C (data % 2 ^ 32) := by
  have hv : bits (data % 2 ^ 32) 0 14 = data % 2 ^ 14 := by simp [bits, Nat.mod_mod_of_dvd]
  have hwrite : ∀ v, writePf wckSlewRow 0x2004C 0 32 v 0 s = if 1 ≤ bits v 0 14 ∧ bits v 0 14 ≤ 10000
      then { s with wck := { s.wck with limits := s.wck.limits ++ [(0x2004C, bits v 0 14)] } }
      else s.rangeLog 0 0x2004C (v / 2 ^ 0) := fun _ => rfl
  rw [hostWrite_pf_word hr accessParts_wckSlew (by decide) (by decide), Nat.zero_mod, hwrite, hv, pow_zero, Nat.div_one]

/-- Settles O22, register by register: what each write does is a law of writes by access code, or the rule of its register. -/
theorem hostWritesActByAccessCode : Obligations.HostWritesActByAccessCode := by
  intro s data hs hr
  have hu := bar2Up_pf hr
  refine ⟨?fields, ?w1c, ?setWins, ?inRange, ?outOfRange, ?shape, ?unused, ?virtual⟩
  case fields =>
    intro x hx
    simp only [List.mem_cons, List.not_mem_nil, or_false] at hx
    rcases hx with rfl | rfl | rfl | rfl
    · exact exec_write_field (r := ⟨"WCK_PIN_FILTER", 0x20058, 0, 0, 0, 0, 32, 8, [⟨0, 8, .rw⟩]⟩) hs hr (by decide +kernel)
        List.mem_cons_self (by decide) (fun _ _ _ => rfl) data
    · exact exec_write_field (r := ⟨"AQD_VL_LIMIT", 0xB8004, 0, 0, 0, 0, 32, 12, [⟨0, 16, .rw⟩]⟩) hs hr (by decide +kernel)
        List.mem_cons_self (by decide) (fun _ _ _ => rfl) data
    · exact exec_write_field (r := ⟨"AQD_ASYM", 0xB8008, 0, 0, 0, 0, 32, 4, [⟨0, 16, .rw⟩]⟩) hs hr (by decide +kernel)
        List.mem_cons_self (by decide) (fun _ _ _ => rfl) data
    · exact exec_write_field (r := ⟨"MGT_RETRY", 0x128000, 0, 0, 0, 0, 32, 3, [⟨0, 4, .rw⟩]⟩) hs hr (by decide +kernel)
        List.mem_cons_self (by decide) (fun _ _ _ => rfl) data
  case w1c =>
    refine ⟨_, exec_write_wckState hs hr 0, ?_, ?_, ?_, fun x hx => reg_writeCodes s _ hx _ _ _ _⟩
    · exact (get_writeCodes s wckStateRow_mem (f := ⟨7, 1, .w1c⟩) (by decide) ..).trans (by simp [RField.written, bits])
    · exact (get_writeCodes s wckStateRow_mem (f := ⟨9, 1, .w1c⟩) (by decide) ..).trans
        (by simpa [RField.written, bits, F.WCK_STATE_MARGIN0] using Nat.mod_eq_of_lt (s.get_lt F.WCK_STATE_MARGIN0))
    · exact get_writeCodes s wckStateRow_mem (f := ⟨0, 3, .ro⟩) (by decide) ..
  case setWins =>
    refine ⟨_, exec_write_wckState hs hr 0x80, ?_⟩
    exact (get_writeCodes s wckStateRow_mem (f := ⟨7, 1, .w1c⟩) (by decide) ..).trans (by simp [RField.written, bits])
  case inRange =>
    intro h1 h2
    exact ⟨_, registerWrite_next (by decide) hs ((hostWrite_wckSlew hr data).trans (if_pos ⟨h1, h2⟩)) ⟨rfl, rfl, rfl⟩, rfl, rfl, rfl⟩
  case outOfRange =>
    intro h
    have hwrite := (hostWrite_wckSlew hr data).trans (if_neg (by omega))
    rw [State.rangeLog] at hwrite
    refine ⟨_, registerWrite_next (by decide) hs hwrite (logCause_untouched _ _ _ _), ?_, ?_, logCause_last s 0x102 _ _⟩
    · rw [logCause_eq]
    · rw [State.get, logCause_reg _ _ _ _ (by decide)]; rfl
  case shape =>
    intro off size hb
    exact ⟨_, registerWrite_next (by decide) hs (hostWrite_misaligned hu hb data 0) (logCause_untouched _ _ _ _),
      fun x hx => logCause_reg s _ _ _ hx, logCause_eq _ _ _ _, logCause_last s 0x101 _ _⟩
  case unused =>
    intro off ha _ hn
    have hb : bar0Shape off 4 = true := by simp [bar0Shape, ha]
    have hp : accessParts off 4 = [] := accessParts_none hn (absurd · (by decide))
    exact registerWrite_next (by decide) hs (hostWrite_unused hu hb hp data 0) ⟨rfl, rfl, rfl⟩
  case virtual =>
    intro fn off hfn hlt hu _ ho ha
    exact registerWrite_next hlt hs (hostWrite_vf_clock (by omega) (by omega) hu (by simp [bar0Shape, ha]) data 0) ⟨rfl, rfl, rfl⟩

/-! ## Reads (R6, R7, R11) -/

theorem toLe_zero (n : Nat) : toLe n 0 = List.replicate n 0 := by
  induction n with
  | zero => rfl
  | succ n ih => rw [toLe, Nat.zero_div, ih]; rfl

/-- What a read may change: registers, the latches of high halves, the scratchpad's counts. -/
def OnlyRead (s t : State) : Prop :=
  ∃ regs latch counts spmLatch, t = { s with regs := regs, latch := latch, spmCounts := counts, spmLatch := spmLatch }

theorem OnlyRead.refl (s : State) : OnlyRead s s := ⟨_, _, _, _, rfl⟩

theorem OnlyRead.trans {s t u : State} (h : OnlyRead s t) (h' : OnlyRead t u) : OnlyRead s u := by
  obtain ⟨_, _, _, _, rfl⟩ := h
  obtain ⟨_, _, _, _, rfl⟩ := h'
  exact ⟨_, _, _, _, rfl⟩

theorem clearSpm_only (s : State) (o lo : Nat) (latched : Bool) : OnlyRead s (s.clearSpm o lo latched) := by
  unfold State.clearSpm
  split
  · exact .refl s
  · exact ⟨_, _, _, _, rfl⟩

theorem reg_clearSpm (s : State) (o lo : Nat) (latched : Bool) (r : Nat) : (s.clearSpm o lo latched).reg r = s.reg r := by
  unfold State.clearSpm
  split <;> rfl

theorem put_only (s : State) (f : Fld) (v : Nat) : OnlyRead s (s.put f v) := ⟨_, _, _, _, rfl⟩

theorem readField_only (s : State) (fn o : Nat) (f : RField) (latched : Option Nat) (n : Nat) :
    OnlyRead s (s.readField fn o f latched n) := by
  unfold State.readField
  dsimp only
  split
  · exact put_only _ _ _
  · split <;> exact (put_only _ _ _).trans (clearSpm_only _ _ _ _)

theorem readFields_only (s : State) (fn o lo hi : Nat) (r : RegRow) (latched : Option Nat) (hits : List (Nat × Nat)) :
    OnlyRead s (s.readFields fn o lo hi r latched hits) :=
  List.foldlRecOn (motive := OnlyRead s) _ _ (.refl s) fun _ h _ _ => h.trans (readField_only _ _ _ _ _ _)

theorem readPart_only (s : State) (fn size : Nat) (hits : List (Nat × Nat)) (p : Nat × RegRow × Nat × Nat × Nat) :
    OnlyRead s (s.readPart fn size hits p).2 := by
  unfold State.readPart
  dsimp only
  split
  · split
    · exact OnlyRead.trans ⟨_, _, _, _, rfl⟩ (readFields_only _ _ _ _ _ _ _ _)
    · split
      · exact readFields_only _ _ _ _ _ _ _ _
      · exact OnlyRead.trans ⟨_, _, _, _, rfl⟩ (readFields_only _ _ _ _ _ _ _ _)
  · exact readFields_only _ _ _ _ _ _ _ _

/-- Writing back the bits that stand in a register leaves it as it was. -/
theorem insertBits_bits (v : BitVec 64) (lo w : Nat) : insertBits v lo w (bits v.toNat lo w) = v := by
  apply BitVec.eq_of_getLsbD_eq
  intro i hi
  have hx : (bits v.toNat lo w % 2 ^ w).testBit (i - lo) = (decide (i - lo < w) && v.getLsbD (i - lo + lo)) := by
    rw [bits, Nat.mod_mod, ← bits, bits_testBit, BitVec.testBit_toNat]
  have h64 : i - lo < 64 := by omega
  simp only [insertBits, BitVec.getLsbD_or, BitVec.getLsbD_and, BitVec.getLsbD_not, BitVec.getLsbD_shiftLeft, BitVec.getLsbD_ofNat,
    Nat.testBit_two_pow_sub_one, hi, h64, hx, decide_true, Bool.true_and]
  by_cases hlo : i < lo
  · simp [hlo]
  · rw [Nat.sub_add_cancel (Nat.not_lt.1 hlo)]
    by_cases hw : i - lo < w <;> simp [hlo, hw]

/-- Writing back what a field holds leaves every register as it was. -/
theorem reg_put_get (s : State) (f : Fld) (r : Nat) : (s.put f (s.get f)).reg r = s.reg r := by
  by_cases hr : r = f.reg
  · subst hr
    rw [State.put, State.reg_setReg_self, State.get, insertBits_bits]
  · exact State.reg_put_ne _ _ _ hr

/-- A virtual function's read of a field that no event reaches clears nothing. -/
theorem reg_readField_vf (s : State) {fn : Nat} (hfn : fn ≠ 0) (o : Nat) (f : RField) (latched : Option Nat) (r : Nat) :
    (s.readField fn o f latched 0).reg r = s.reg r := by
  have hmin : min (2 ^ f.w - 1) (s.get ⟨o, f.lo, f.w⟩) = s.get ⟨o, f.lo, f.w⟩ :=
    Nat.min_eq_right (Nat.le_sub_one_of_lt (s.get_lt ⟨o, f.lo, f.w⟩))
  rw [State.readField.eq_def]
  dsimp only
  rw [if_pos hfn, Nat.add_zero, hmin, reg_put_get]

theorem reg_readFields_vf (s : State) {fn : Nat} (hfn : fn ≠ 0) (o lo hi : Nat) (w : RegRow) (latched : Option Nat) (r : Nat) :
    (s.readFields fn o lo hi w latched []).reg r = s.reg r :=
  List.foldlRecOn (motive := fun t => t.reg r = s.reg r) _ _ rfl fun t h f _ => (reg_readField_vf t hfn o f latched r).trans h

theorem reg_readPart_vf (s : State) {fn : Nat} (hfn : fn ≠ 0) (size : Nat) (p : Nat × RegRow × Nat × Nat × Nat) (r : Nat) :
    (s.readPart fn size [] p).2.reg r = s.reg r := by
  unfold State.readPart
  dsimp only [partHits, List.filterMap_nil]
  split
  · split
    · exact reg_readFields_vf _ hfn _ _ _ _ _ _
    · split <;> exact reg_readFields_vf _ hfn _ _ _ _ _ _
  · exact reg_readFields_vf _ hfn _ _ _ _ _ _

/-- The parts of an access read one after the other: the value put together and the state after them. -/
def State.readParts (s : State) (fn size : Nat) (hits : List (Nat × Nat)) (l : List (Nat × RegRow × Nat × Nat × Nat)) : Nat × State :=
  l.foldl (fun x p =>
    let y := x.2.readPart fn size hits p
    (x.1 + y.1 * 2 ^ (8 * p.1), y.2)) (0, s)

theorem readParts_only (s : State) (fn size : Nat) (hits : List (Nat × Nat)) (l : List (Nat × RegRow × Nat × Nat × Nat)) :
    OnlyRead s (s.readParts fn size hits l).2 :=
  List.foldlRecOn (motive := fun x : Nat × State => OnlyRead s x.2) _ _ (.refl s) fun _ h _ _ => h.trans (readPart_only _ _ _ _ _)

theorem reg_readParts_vf (s : State) {fn : Nat} (hfn : fn ≠ 0) (size : Nat) (l : List (Nat × RegRow × Nat × Nat × Nat)) (r : Nat) :
    (s.readParts fn size [] l).2.reg r = s.reg r :=
  List.foldlRecOn (motive := fun x : Nat × State => x.2.reg r = s.reg r) _ _ rfl
    fun x h p _ => (reg_readPart_vf x.2 hfn size p r).trans h

/-- A served read of an admitted shape, where no core takes part in it, completes with what its parts show. -/
theorem hostRead_served {s : State} {fn off size : Nat} (hu : s.bar2Up fn = true) (hb : bar0Shape off size = true)
    (hc : ¬ (0x50000 ≤ off ∧ off < 0xA0000 ∧ accessParts off size ≠ [])) (hits : List (Nat × Nat)) :
    hostRead fn off size hits s =
      (s.readParts fn size hits (accessParts off size)).2.emit
        (.completion fn (toLe size (s.readParts fn size hits (accessParts off size)).1)) := by
  simp only [hostRead, linkLost_of_bar2Up hu, hu, hb, if_neg hc, Bool.not_true, Bool.false_eq_true, if_false, State.readParts]

/-- A read in one register. -/
theorem hostRead_one {s : State} {fn off size : Nat} (hu : s.bar2Up fn = true) (hb : bar0Shape off size = true)
    (hc : off < 0x50000 ∨ 0xA0000 ≤ off) {p : RegRow × Nat × Nat × Nat} (hp : accessParts off size = [(0, p)])
    (hits : List (Nat × Nat)) : hostRead fn off size hits s =
      (s.readPart fn size hits (0, p)).2.emit (.completion fn (toLe size (s.readPart fn size hits (0, p)).1)) := by
  rw [hostRead_served hu hb (noCore hc _), hp]
  simp [State.readParts]

/-- A read of offsets that hold no register completes with zeros. -/
theorem hostRead_unused {s : State} {fn off size : Nat} (hu : s.bar2Up fn = true) (hb : bar0Shape off size = true)
    (hp : accessParts off size = []) (hits : List (Nat × Nat)) :
    hostRead fn off size hits s = s.emit (.completion fn (List.replicate size 0)) := by
  rw [hostRead_served hu hb (by simp [hp]), hp, ← toLe_zero]
  rfl

/-- A read of another shape is completed with Completer Abort and logged. -/
theorem hostRead_misaligned {s : State} {fn off size : Nat} (hu : s.bar2Up fn = true) (hb : bar0Shape off size = false)
    (hits : List (Nat × Nat)) : hostRead fn off size hits s =
      (s.logCause 0x101 (off + size * 2 ^ 56) (s.fnAllot fn)).emit (.completerAbort fn) := by
  simp [hostRead, linkLost_of_bar2Up hu, hu, hb]

theorem bar4Read_served {s : State} {fn : Nat} (hu : s.bar2Up fn = true) (size : Nat) :
    bar4Read fn size s = s.emit (.completion fn (List.replicate size 0)) := by
  simp [bar4Read, linkLost_of_bar2Up hu, hu]

/-- Settles O60: an access whose offsets hold no register has no part to act on. -/
theorem unusedOffsetsReadZero : Obligations.UnusedOffsetsReadZero := by
  intro s fn off size data hw hits hs hfn hu hb hn hn8
  have hp := accessParts_none hn hn8
  exact ⟨rcFieldRead_next hfn hs (hostRead_unused hu hb hp hits) ⟨rfl, rfl, rfl⟩,
    registerWrite_next hfn hs (hostWrite_unused hu hb hp data hw) ⟨rfl, rfl, rfl⟩⟩

/-! ### Fields cleared by a read -/

/-- The RC fields of a register with their lowest bit in [lo, hi). -/
def RegRow.rcFields (r : RegRow) (lo hi : Nat) : List RField :=
  r.fields.filter fun f => f.acc == .rc && decide (lo ≤ f.lo ∧ f.lo < hi)

/-- The events that reach the field in the cycle of the read. -/
def RField.events (f : RField) (hits : List (Nat × Nat)) : Nat := ((hits.filter fun h => h.1 == f.lo).map fun h => h.2).sum

theorem readFields_eq (s : State) (fn o lo hi : Nat) (r : RegRow) (latched : Option Nat) (hits : List (Nat × Nat)) :
    s.readFields fn o lo hi r latched hits =
      (r.rcFields lo hi).foldl (fun s f => s.readField fn o f latched (f.events hits)) s := rfl

/-- The read of a register beside the scratchpad's counts changes registers alone. -/
theorem readFields_regs (s : State) {o : Nat} (ho : ∀ lo, spmKind o lo = none) (fn lo hi : Nat) (r : RegRow) (latched : Option Nat)
    (hits : List (Nat × Nat)) : ∃ regs, s.readFields fn o lo hi r latched hits = { s with regs := regs } := by
  have hclear (t : State) (x : Nat) (b : Bool) : t.clearSpm o x b = t := by rw [State.clearSpm, ho]
  refine List.foldlRecOn (motive := fun t : State => ∃ regs, t = { s with regs := regs }) _ _ ⟨_, rfl⟩ ?_
  rintro _ ⟨regs, rfl⟩ f -
  rw [State.readField.eq_def]
  dsimp only
  split
  · exact ⟨_, rfl⟩
  · split <;> (rw [hclear]; exact ⟨_, rfl⟩)

section
variable (s : State) (o : Nat) (hits : List (Nat × Nat))

theorem reg_readFields_ne (fn lo hi : Nat) (r : RegRow) (latched : Option Nat) {x : Nat} (hx : x ≠ o) :
    (s.readFields fn o lo hi r latched hits).reg x = s.reg x := by
  refine List.foldlRecOn (motive := fun t : State => t.reg x = s.reg x) _ _ rfl fun t h f _ => Eq.trans ?_ h
  unfold State.readField
  dsimp only
  split
  · exact State.reg_put_ne _ _ _ hx
  · split <;> exact (reg_clearSpm _ _ _ _ _).trans (State.reg_put_ne _ _ _ hx)

/-- The physical function's read leaves in an RC field the events of the same cycle, up to its largest value (R7). -/
theorem get_readField_self {f : RField} (h64 : f.lo + f.w ≤ 64) (n : Nat) :
    (s.readField 0 o f none n).get ⟨o, f.lo, f.w⟩ = min (2 ^ f.w - 1) n := by
  have hlt : min (2 ^ f.w - 1) n < 2 ^ f.w := by have := Nat.two_pow_pos f.w; omega
  have hself := s.get_put_self ⟨o, f.lo, f.w⟩ (min (2 ^ f.w - 1) n) h64
  rw [Nat.mod_eq_of_lt hlt] at hself
  rw [State.get, State.readField, if_neg (by simp), reg_clearSpm]
  exact hself

theorem get_readField_apart {f g : RField} (h64 : f.lo + f.w ≤ 64) (h : f.apart g = true) (n : Nat) :
    (s.readField 0 o f none n).get ⟨o, g.lo, g.w⟩ = s.get ⟨o, g.lo, g.w⟩ := by
  have hbeside := s.get_put_beside ⟨o, f.lo, f.w⟩ ⟨o, g.lo, g.w⟩ (min (2 ^ f.w - 1) n) h64 (of_decide_eq_true h)
  rw [State.get, State.readField, if_neg (by simp), reg_clearSpm]
  exact hbeside

theorem get_foldl_readField_apart (l : List RField) (h64 : ∀ f ∈ l, f.lo + f.w ≤ 64) {g : RField}
    (h : ∀ f ∈ l, f.apart g = true) :
    (l.foldl (fun s f => s.readField 0 o f none (f.events hits)) s).get ⟨o, g.lo, g.w⟩ = s.get ⟨o, g.lo, g.w⟩ :=
  List.foldlRecOn (motive := fun t => t.get ⟨o, g.lo, g.w⟩ = s.get ⟨o, g.lo, g.w⟩) _ _ rfl
    fun t ht f hf => (get_readField_apart t o (h64 f hf) (h f hf) _).trans ht

theorem get_foldl_readField {l : List RField} (hl : l.Pairwise (RField.apart · · = true)) (h64 : ∀ f ∈ l, f.lo + f.w ≤ 64)
    {g : RField} (hg : g ∈ l) : (l.foldl (fun s f => s.readField 0 o f none (f.events hits)) s).get ⟨o, g.lo, g.w⟩ =
      min (2 ^ g.w - 1) (g.events hits) := by
  induction l generalizing s with
  | nil => cases hg
  | cons f l ih =>
    obtain ⟨hf, hl⟩ := List.pairwise_cons.1 hl
    obtain ⟨hf64, hl64⟩ := List.forall_mem_cons.1 h64
    rw [List.foldl_cons]
    rcases List.mem_cons.1 hg with rfl | hg
    · exact (get_foldl_readField_apart (s.readField 0 o g none _) o hits l hl64 fun x hx => RField.apart_symm (hf x hx)).trans
        (get_readField_self s o hf64 _)
    · exact ih _ hl hl64 hg

/-- After the physical function's read of a register, each RC field in reach holds the events of the cycle of the read. -/
theorem get_readFields_pf {r : RegRow} (hr : r ∈ regTable) {lo hi : Nat} {f : RField} (hf : f ∈ r.rcFields lo hi) :
    (s.readFields 0 o lo hi r none hits).get ⟨o, f.lo, f.w⟩ = min (2 ^ f.w - 1) (f.events hits) := by
  obtain ⟨hl, h64⟩ := regTable_fields r hr
  exact get_foldl_readField s o hits (hl.filter _) (fun x hx => h64 x (List.mem_of_mem_filter hx)) hf

end

/-! ### The registers that the statement names -/

/-- The row of DR_COUNTS. -/
def drCountsRow : RegRow := ⟨"DR_COUNTS", 0x30010, 0, 0, 0, 0, 64, 0, [⟨0, 32, .rc⟩, ⟨32, 16, .rc⟩, ⟨48, 16, .rc⟩]⟩

/-- The row of WCK_TURN_NUMBER. -/
def wckTurnNumberRow : RegRow := ⟨"WCK_TURN_NUMBER", 0x20008, 0, 0, 0, 0, 64, 0, [⟨0, 48, .ro⟩]⟩

theorem view_drCounts (s : State) : s.view 0 drCountsRow 0x30010 = (s.reg 0x30010).toNat := by
  have hlive : s.live 0x30010 = (s.reg 0x30010).toNat := rfl
  have hmask : drCountsRow.readMask = 2 ^ 64 - 1 := rfl
  rw [State.view, if_pos rfl, hlive, hmask, Nat.land_eq, Nat.and_two_pow_sub_one_eq_mod, Nat.mod_eq_of_lt (BitVec.isLt _)]

theorem view_wckTurnNumber (s : State) (h : s.wck.turn < 2 ^ 48) : s.view 0 wckTurnNumberRow 0x20008 = s.wck.turn := by
  have hlive : s.live 0x20008 = s.wck.turn := rfl
  have hmask : wckTurnNumberRow.readMask = 2 ^ 48 - 1 := rfl
  rw [State.view, if_pos rfl, hlive, hmask, Nat.land_eq, Nat.and_two_pow_sub_one_eq_mod, Nat.mod_eq_of_lt h]

/-- The physical function's read of DR_COUNTS as a whole: what it shows, what it leaves, and what it leaves alone. -/
theorem exec_read_drCounts {s : State} (hs : s.stores = []) (hr : s.isReady = true) (hits : List (Nat × Nat)) :
    ∃ t, exec (.rcFieldRead 0 0x30010 8 false hits) s = .next t ∧
      t.sent = s.sent ++ [.completion 0 (toLe 8 (s.reg 0x30010).toNat)] ∧
      (∀ f ∈ drCountsRow.fields, t.get ⟨0x30010, f.lo, f.w⟩ = min (2 ^ f.w - 1) (f.events (partHits 0 0 hits))) ∧
      (∀ r, r ≠ 0x30010 → t.reg r = s.reg r) ∧ t = { s with regs := t.regs, sent := t.sent } := by
  have hp : accessParts 0x30010 8 = [(0, drCountsRow, 0x30010, 0, 64)] := by decide +kernel
  have hpart : s.readPart 0 8 hits (0, drCountsRow, 0x30010, 0, 64) =
      (s.view 0 drCountsRow 0x30010, s.readFields 0 0x30010 0 64 drCountsRow none (partHits 0 0 hits)) := rfl
  have hread := hostRead_one (bar2Up_pf hr) (by decide) (by decide) hp hits
  rw [hpart, view_drCounts] at hread
  have hrc : drCountsRow.rcFields 0 64 = drCountsRow.fields := rfl
  have hcounts (f : RField) (hf : f ∈ drCountsRow.fields) :=
    get_readFields_pf s 0x30010 (partHits 0 0 hits) (row_mem_regTable hp) (hrc ▸ hf)
  have hbeside (r : Nat) (h : r ≠ 0x30010) := reg_readFields_ne s 0x30010 (partHits 0 0 hits) 0 0 64 drCountsRow none h
  obtain ⟨regs, h⟩ := readFields_regs s (o := 0x30010) (fun _ => rfl) 0 0 64 drCountsRow none (partHits 0 0 hits)
  rw [h] at hread hcounts hbeside
  exact ⟨_, rcFieldRead_next (by decide) hs hread ⟨rfl, rfl, rfl⟩, rfl, hcounts, hbeside, rfl⟩

/-- The read of the low half of WCK_TURN_NUMBER latches the high half of that instant (R11). -/
theorem hostRead_turnNumber_low {s : State} (hr : s.isReady = true) (h : s.wck.turn < 2 ^ 48) :
    hostRead 0 0x20008 4 [] s = { s with
      latch := smSet 0 s.latch (32 * 0x2000C + 0) (s.wck.turn / 2 ^ 32 + 1),
      sent := s.sent ++ [.completion 0 (toLe 4 (s.wck.turn % 2 ^ 32))] } := by
  have hp : accessParts 0x20008 4 = [(0, wckTurnNumberRow, 0x20008, 0, 32)] := by decide +kernel
  rw [hostRead_one (bar2Up_pf hr) (by decide) (by decide) hp]
  have hpart : s.readPart 0 4 [] (0, wckTurnNumberRow, 0x20008, 0, 32) =
      (s.view 0 wckTurnNumberRow 0x20008 % 2 ^ 32,
        { s with latch := smSet 0 s.latch (32 * 0x2000C + 0) (s.view 0 wckTurnNumberRow 0x20008 / 2 ^ 32 + 1) }) := rfl
  rw [hpart, view_wckTurnNumber s h]
  rfl

/-- The next read of its high half returns what was latched. -/
theorem hostRead_turnNumber_high {s : State} (hr : s.isReady = true) {k : Nat} (h : smGet 0 s.latch (32 * 0x2000C + 0) = k + 1) :
    hostRead 0 0x2000C 4 [] s = { s with
      latch := smSet 0 s.latch (32 * 0x2000C + 0) 0, sent := s.sent ++ [.completion 0 (toLe 4 k)] } := by
  have hp : accessParts 0x2000C 4 = [(0, wckTurnNumberRow, 0x20008, 32, 64)] := by decide +kernel
  have hpart : s.readPart 0 4 [] (0, wckTurnNumberRow, 0x20008, 32, 64) =
      (k, { s with latch := smSet 0 s.latch (32 * 0x2000C + 0) 0 }) := by
    unfold State.readPart
    dsimp only
    rw [if_pos (by decide), if_neg (by decide), h]
    rfl
  rw [hostRead_one (bar2Up_pf hr) (by decide) (by decide) hp, hpart]
  rfl

/-- Settles O23: a read clears by the law of RC fields, latches by that of high halves, or is answered by its shape. -/
theorem hostReadsClearAndLatch : Obligations.HostReadsClearAndLatch := by
  intro s hs hr
  refine ⟨?clears, ?event, ?virtual, ?latch, ?bar4, ?shape⟩
  case clears =>
    obtain ⟨t, hexec, hsent, hcounts, hbeside, hframe⟩ := exec_read_drCounts hs hr []
    exact ⟨t, hexec, hsent, hcounts ⟨0, 32, .rc⟩ (by decide), hcounts ⟨32, 16, .rc⟩ (by decide), hcounts ⟨48, 16, .rc⟩ (by decide),
      hbeside, hframe⟩
  case event =>
    obtain ⟨t, hexec, hsent, hcounts, -⟩ := exec_read_drCounts hs hr [(0, 1)]
    exact ⟨t, hexec, hsent, hcounts ⟨0, 32, .rc⟩ (by decide)⟩
  case virtual =>
    intro fn off size hits hfn hlt hu hb hc
    have hread := hostRead_served hu hb (noCore hc _) hits
    have hregs : hits = [] → ∀ r, (s.readParts fn size hits (accessParts off size)).2.reg r = s.reg r := by
      rintro rfl r
      exact reg_readParts_vf s (by omega) size _ r
    obtain ⟨regs, latch, counts, spmLatch, h⟩ := readParts_only s fn size hits (accessParts off size)
    rw [h] at hread hregs
    exact ⟨_, rcFieldRead_next hlt hs hread ⟨rfl, rfl, rfl⟩, hregs, rfl, _, rfl⟩
  case latch =>
    intro k hturn _
    have hlatched := smGet_smSet_self 0 s.latch (32 * 0x2000C + 0) (s.wck.turn / 2 ^ 32 + 1)
    refine ⟨_, _, highHalfLatch_next (by decide) hs (hostRead_turnNumber_low hr hturn) ⟨rfl, rfl, rfl⟩, rfl, fun _ => rfl,
      rcFieldRead_next (by decide) hs (hostRead_turnNumber_high (by exact hr) (by exact hlatched)) ⟨rfl, rfl, rfl⟩, rfl⟩
  case bar4 =>
    intro fn off size hits hlt hu
    exact bar4Read_next hlt hs (bar4Read_served hu size) ⟨rfl, rfl, rfl⟩
  case shape =>
    intro fn off size hlt hu hb
    have hk := logCause_untouched s 0x101 (off + size * 2 ^ 56) (s.fnAllot fn)
    refine ⟨_, misalignedBar0Read_next hlt hs (hostRead_misaligned hu hb []) ⟨hk.pending, hk.mem, hk.stores⟩, ?_,
      fun x hx => logCause_reg s _ _ _ hx, logCause_last s 0x101 _ _⟩
    rw [logCause_eq]; rfl

end Sys2Proof.Machine
end

section
/-! PROOFS. Orders of the water clock that wait for the headgate or for a fallow turn (R24, R37, R39, R42, R47, R51, R52): what
the grant leaves alone of what their bodies read, and from it the statements of the two kinds of order. -/

namespace Sys2Proof.Machine

/-! ## What the grant leaves alone -/

section
variable {s : State} {q : Nat} {b host : Bytes}

theorem flown_staged : (s.flown q b host).staged = s.staged := by
  obtain ⟨_, _, _, h⟩ := flown_eq s q b host; rw [h]

theorem flown_fallowDue : (s.flown q b host).fallowDue = s.fallowDue := by
  obtain ⟨_, _, _, h⟩ := flown_eq s q b host; rw [h]

theorem flown_queued (o : Ord) : (s.flown q b host).queued o = s.queued o := by
  obtain ⟨_, _, _, h⟩ := flown_eq s q b host; rw [h]; rfl

theorem flown_turnSetBusy : (s.flown q b host).turnSetBusy = s.turnSetBusy := by
  unfold State.turnSetBusy
  rw [flown_fallowDue, flown_wck]

theorem flown_freeAllot (hq : q < 64) : (s.flown q b host).freeAllot = s.freeAllot := by
  have hempty : ∀ a, (s.flown q b host).isEmpty a = s.isEmpty a := fun a => by
    unfold State.isEmpty
    rw [flown_altState _ _ _ _ _ hq]
  have hclaims : (s.flown q b host).stagedClaims = s.stagedClaims := by
    unfold State.stagedClaims
    rw [flown_staged]
  simp only [State.freeAllot, hempty, hclaims]

theorem flown_powered (hq : q < 64) (u : Nat) : (s.flown q b host).powered u = s.powered u := by
  unfold State.powered State.mapBit
  rw [flown_get_far s q b host (F.PWR_ON_MAP_MAP (u / 64)) hq (.inr (by show 0x32000 ≤ 0x110010 + 0x8 * (u / 64); omega))]

theorem flown_nextSecondTurn (hq : q < 64) (k : Nat) : (s.flown q b host).nextSecondTurn k = s.nextSecondTurn k := by
  have hfar : ∀ f : Fld, f.reg < 0x30000 → (s.flown q b host).get f = s.get f := fun f hf =>
    flown_get_far s q b host f hq (.inl hf)
  unfold State.nextSecondTurn State.fromAnchor
  rw [hfar F.WCK_TURN_RATE_RATE (by decide), hfar F.WCK_ANCHOR_TURN_TURN (by decide)]

end

/-! ## Orders staged for the headgate -/

/-- The list of fallow turns with one more turn listed. -/
def listed (l : List Nat) (k : Nat) : List Nat := if l.contains k then l else l ++ [k]

theorem mem_listed (l : List Nat) (k : Nat) : k ∈ listed l k := by
  unfold listed
  split
  · rename_i h; simpa using h
  · simp

theorem addFallow_eq (s : State) (k : Nat) : s.addFallow k = { s with wck := { s.wck with fallow := listed s.wck.fallow k } } := by
  unfold State.addFallow listed
  split <;> rfl

/-- An order with a staged part and a part due in the fallow turn. -/
theorem stage_acceptFallow (s : State) (o : Ord) (c d : Change) : (s.stage o c).acceptFallow o d =
    { s with
      staged := s.staged ++ [⟨o, c, false, s.wck.now⟩], fallowDue := s.fallowDue ++ [⟨o, s.fallowTurn, d⟩], waiting := s.waiting
      wck := { s.wck with fallow := listed s.wck.fallow s.fallowTurn } } := by
  simp only [State.acceptFallow, addFallow_eq]
  rfl

/-- Settles O13: the body of each order stages its change; that of a TIME_SOURCE_SET that names another reference has a second
part, due in the fallow turn. -/
theorem stagedOrdersWaitForHeadgate : Obligations.StagedOrdersWaitForHeadgate := by
  intro q b s
  refine ⟨fun h => exec_stages rfl h _ rfl, fun h a ha => exec_stages rfl h _ ?claim, fun h => exec_stages rfl h _ rfl,
    fun h => exec_stages rfl h _ rfl, fun h hn => exec_stages rfl h _ (if_neg hn), fun h hr => exec_stages rfl h _ ?sameRef,
    fun h hr => ?otherRef⟩
  case claim =>
    show claimBody _ _ = _
    unfold claimBody
    rw [flown_freeAllot h.queue, ha]
  case sameRef => exact if_pos (by rw [State.stage_wck, flown_wck, hr])
  case otherRef =>
    obtain ⟨t, hexec, hfly, hstaged, hdue, -, hwck⟩ := exec_flies (c := .timeSourceSet q) rfl h _ _ _ _
      ((if_neg (by rw [State.stage_wck, flown_wck]; exact hr)).trans (stage_acceptFallow _ _ _ _))
    rw [flown_staged, flown_wck] at hstaged
    rw [flown_fallowDue, flown_fallowTurn s q b [] h.queue] at hdue
    rw [flown_wck, flown_fallowTurn s q b [] h.queue] at hwck
    exact ⟨t, hexec, hfly, hstaged, hdue, by rw [hwck]; exact mem_listed _ _⟩

/-! ## Orders due in a fallow turn -/

/-- The body of a fallow-only order whose change is due in the turn of R52. -/
theorem exec_acceptFallow {c : Instr} {sp : Spec} {q : Nat} {b : Bytes} {s : State} (hc : orderRow c = some (sp, q, []))
    (ht : Taken sp q [] b s) (x : Change)
    (hb : sp.body (s.flown q b []) (s.mkOrd q b []) = (s.flown q b []).acceptFallow (s.mkOrd q b []) x) :
    ∃ t, exec c s = .next t ∧ Dues s t (s.mkOrd q b []) s.fallowTurn x := by
  refine exec_dues hc ht _ _ (hb.trans ?_)
  unfold State.acceptFallow
  rw [flown_fallowTurn s q b [] ht.queue]

/-- The switch of a unit that stands the other way is accepted for its fallow turn. -/
theorem switch_of_powered_ne {s : State} {u : Nat} {v : Bool} (h : s.powered u ≠ v) (o : Ord) :
    s.switch o u v = s.acceptFallow o (.power u v) := if_neg h

/-- Settles O14: the change of each order is due in its turn; a TURN_SET behind an earlier one is parked. -/
theorem fallowOnlyOrdersAreDueInTheirTurn : Obligations.FallowOnlyOrdersAreDueInTheirTurn := by
  intro q b s
  refine ⟨rfl, fun h => exec_acceptFallow rfl h _ rfl, fun h => exec_acceptFallow rfl h _ rfl, fun h => exec_acceptFallow rfl h _ rfl,
    fun h hp => exec_acceptFallow rfl h _ (switch_of_powered_ne ?_ _), fun h hp => exec_acceptFallow rfl h _ (switch_of_powered_ne ?_ _),
    fun h => exec_dues rfl h _ _ rfl, fun h hbusy hwait => exec_dues rfl h _ _ ?turnSet, fun h hlate => exec_parks rfl h ?late⟩
  · rwa [flown_powered h.queue]
  · rwa [flown_powered h.queue]
  case turnSet =>
    refine (if_neg (by simp [flown_turnSetBusy, flown_queued, hbusy, hwait])).trans ?_
    unfold State.acceptTurnSet
    rw [← State.fallowTurn, flown_fallowTurn s q b [] h.queue, flown_nextSecondTurn h.queue]
  case late => exact if_pos (by simp [flown_turnSetBusy, flown_queued, hlate])

end Sys2Proof.Machine
end

section
/-! PROOFS. The reference sources and the states of the water clock (R26 to R36, R44, R59): what an event of a source leaves of its
record and of the registers, and what each transition of Table 2-3 does. -/

namespace Sys2Proof.Machine

/-! ## Effects that leave queue, external memory and stores alone -/

theorem Untouched.refl (s : State) : Untouched s s := ⟨rfl, rfl, rfl⟩

theorem Untouched.trans {s t u : State} (h : Untouched s t) (k : Untouched t u) : Untouched s u :=
  ⟨k.pending.trans h.pending, k.mem.trans h.mem, k.stores.trans h.stores⟩

theorem Untouched.rd {s t : State} (h : Untouched s t) (x : Nat) : t.rd x = s.rd x := by
  unfold State.rd
  rw [h.mem, h.stores]

section
variable {s t : State} (h : Untouched s t)
include h

theorem Untouched.put {f : Fld} {v : Nat} : Untouched s (t.put f v) := ⟨h.1, h.2, h.3⟩

theorem Untouched.bump {f : Fld} {n : Nat} : Untouched s (t.bump f n) := ⟨h.1, h.2, h.3⟩

theorem Untouched.setWck {w : Wck} : Untouched s { t with wck := w } := ⟨h.1, h.2, h.3⟩

end

/-- A command that names no unit answers such an effect as it stands. -/
theorem run_next {s t : State} {f : State → State} (hs : s.stores = []) (h : f s = t) (hk : Untouched s t) : run s f = .next t :=
  (unit_of_lt (Nat.zero_lt_one) s f).symm.trans (unit_next Nat.zero_lt_one hs h hk)

theorem run_same {s : State} {f : State → State} (hs : s.stores = []) (h : f s = s) : run s f = .next s :=
  run_next hs h (Untouched.refl s)

/-! ## Sources -/

section
variable (s : State) (n : Nat)

theorem setSrc_eq (x : Src) : ∃ w, s.setSrc n x = { s with wck := w } := by
  unfold State.setSrc
  split <;> exact ⟨_, rfl⟩

theorem setGood_eq (b : Bool) : ∃ r, s.setGood n b = { s with regs := r } := by
  unfold State.setGood
  dsimp only
  split <;> exact ⟨_, rfl⟩

@[simp] theorem setGood_wck (b : Bool) : (s.setGood n b).wck = s.wck := by
  obtain ⟨_, h⟩ := setGood_eq s n b; rw [h]

@[simp] theorem setSrc_get (x : Src) (f : Fld) : (s.setSrc n x).get f = s.get f := by
  obtain ⟨_, h⟩ := setSrc_eq s n x; rw [h]; rfl

@[simp] theorem setSrc_reg (x : Src) (r : Nat) : (s.setSrc n x).reg r = s.reg r := by
  obtain ⟨_, h⟩ := setSrc_eq s n x; rw [h]; rfl

theorem setGood_reg (b : Bool) {r : Nat} (h : r ≠ 0x20024) : (s.setGood n b).reg r = s.reg r := by
  unfold State.setGood
  dsimp only
  split
  · rfl
  · exact State.reg_put_ne _ _ _ h

theorem setGood_get (b : Bool) {f : Fld} (h : f.reg ≠ 0x20024) : (s.setGood n b).get f = s.get f := by
  unfold State.get
  rw [setGood_reg s n b h]

theorem bit_sub_two_pow : ∀ n < 4, ∀ v < 16, bit v n ≠ false → bit ((v - 2 ^ n) % 16) n = false := by decide

/-- A source made doubtful is not good. -/
theorem srcGood_setGood_false (hn : n < 4) : (s.setGood n false).srcGood n = false := by
  have hv := s.get_lt F.WCK_SRC_STATUS_GOOD
  unfold State.setGood State.srcGood
  dsimp only
  split
  · assumption
  · rename_i hb
    rw [State.get_put_self _ _ _ (by decide)]
    exact bit_sub_two_pow n hn _ hv hb

variable {s} {t : State}

theorem Untouched.setSrc (h : Untouched s t) {n : Nat} {x : Src} : Untouched s (t.setSrc n x) := by
  obtain ⟨_, e⟩ := setSrc_eq t n x; rw [e]; exact ⟨h.1, h.2, h.3⟩

theorem Untouched.setGood (h : Untouched s t) {n : Nat} {b : Bool} : Untouched s (t.setGood n b) := by
  obtain ⟨_, e⟩ := setGood_eq t n b; rw [e]; exact ⟨h.1, h.2, h.3⟩

end

/-! ## FREE_RUN -/

/-- In FREE_RUN or DOUBT nothing comes of a review in which no enabled source becomes good. -/
theorem review_unrisen {s : State} (h : s.wckState = wckFreeRun ∨ s.wckState = wckDoubt) (ev : Nat) : s.review ev false = s := by
  unfold State.review
  dsimp only
  rw [if_pos h]
  rfl

/-- The field of WCK_REJECTS that counts the rejects of a source. -/
def rejectsFld : Nat → Fld
  | 1 => F.WCK_REJECTS_GNSS
  | 2 => F.WCK_REJECTS_PPS
  | _ => F.WCK_REJECTS_MARKER

/-- A reject counted: one more in the run and in WCK_REJECTS, no run of accepted events; the third leaves the source not good. -/
structure CountsReject (s t : State) (n : Nat) : Prop where
  rejects : (t.src n).rejects = min 3 ((s.src n).rejects + 1)
  accepts : (t.src n).accepts = 0
  counted : t.get (rejectsFld n) = min 255 (s.get (rejectsFld n) + 1)
  doubtful : 2 ≤ (s.src n).rejects → t.srcGood n = false
  regs : (s.src n).rejects < 2 → ∀ r, r ≠ 0x20028 → t.reg r = s.reg r
  state : t.wckState = s.wckState
  untouched : Untouched s t

theorem countReject_spec (s : State) {n : Nat} (hn : n = 2 ∨ n = 3) : CountsReject s (s.countReject n) n := by
  have hcount : ∃ f : Fld, rejectsFld n = f ∧ f.reg = 0x20028 ∧ f.lo + f.w ≤ 64 ∧ f.w = 8 ∧ s.countReject n =
      let t := (s.bump f).setSrc n { s.src n with rejects := min 3 ((s.src n).rejects + 1), accepts := 0, goodFor := 0 }
      if 3 ≤ (s.src n).rejects + 1 then t.setGood n false else t := by
    rcases hn with rfl | rfl <;> exact ⟨_, rfl, rfl, by decide, rfl, rfl⟩
  obtain ⟨f, hf, hreg, hw, h8, heq⟩ := hcount
  rw [heq]
  have hsrc : ∀ x, (((s.bump f).setSrc n x).src n) = x := fun x => by rcases hn with rfl | rfl <;> rfl
  have hget : (s.bump f).get f = min 255 (s.get f + 1) := by
    rw [State.get_bump_self _ _ _ hw, h8]; rfl
  have hfar : ∀ g : Fld, g.reg ≠ 0x20028 → (s.bump f).get g = s.get g := fun g h => State.get_put_reg s f g _ (by rw [hreg]; exact h)
  generalize hx : { s.src n with rejects := min 3 ((s.src n).rejects + 1), accepts := 0, goodFor := 0 } = x
  have hu : Untouched s ((s.bump f).setSrc n x) := (Untouched.refl s).bump.setSrc
  dsimp only
  split
  · rename_i h3
    have hsame : (((s.bump f).setSrc n x).setGood n false).src n = ((s.bump f).setSrc n x).src n := by
      unfold State.src
      rw [setGood_wck]
    refine ⟨?_, ?_, ?_, fun _ => srcGood_setGood_false _ _ (by omega), fun h => by omega, ?_, hu.setGood⟩
    · rw [hsame, hsrc, ← hx]
    · rw [hsame, hsrc, ← hx]
    · rw [hf, setGood_get _ _ _ (by rw [hreg]; decide), setSrc_get, hget]
    · unfold State.wckState
      rw [setGood_get _ _ _ (by decide), setSrc_get, hfar _ (by decide)]
  · rename_i h3
    refine ⟨?_, ?_, ?_, fun h => by omega, fun _ r hr => ?_, ?_, hu⟩
    · rw [hsrc, ← hx]
    · rw [hsrc, ← hx]
    · rw [hf, setSrc_get, hget]
    · rw [setSrc_reg]; exact State.reg_bump_ne _ _ _ (by rw [hreg]; exact hr)
    · unfold State.wckState
      rw [setSrc_get, hfar _ (by decide)]

section
variable {s : State} (hfree : s.wckState = wckFreeRun)
include hfree

/-- In FREE_RUN a reject is counted and nothing else. -/
theorem srcReject_spec {n : Nat} (hn : n = 2 ∨ n = 3) : CountsReject s (s.srcReject n) n := by
  have h := countReject_spec s hn
  have hsame : s.srcReject n = s.countReject n := by
    unfold State.srcReject
    dsimp only
    split
    · exact review_unrisen (.inl (h.state.trans hfree)) 0
    · rfl
  rwa [hsame]

/-- In FREE_RUN a loss of REF_10M_IN leaves source 2 not good, with its good seconds to be found again. -/
theorem lose10M_spec : (lose10M s).srcGood 2 = false ∧ (lose10M s).wck.good10M = 16 ∧ (lose10M s).wck.pps.accepts = 0 ∧
    Untouched s (lose10M s) := by
  generalize hx : { s.src 2 with accepts := 0, goodFor := 0 } = x
  have heq : lose10M s = (({ s with wck := { s.wck with good10M := 16 } } : State).setSrc 2 x).setGood 2 false := by
    refine (congrArg (fun t => State.review t 0 false) ?_).trans (review_unrisen (.inl ?_) 0)
    · rw [← hx]; rfl
    · unfold State.wckState
      rw [setGood_get _ _ _ (by decide), setSrc_get]
      exact hfree
  rw [heq]
  refine ⟨srcGood_setGood_false _ _ (by decide), by rw [setGood_wck]; rfl, ?_, (Untouched.refl s).setWck.setSrc.setGood⟩
  rw [setGood_wck, ← hx]
  rfl

/-- In FREE_RUN an accepted event that leaves its source short of good changes nothing else. -/
theorem reviewGood_short {n : Nat} (h : (s.src n).accepts < 16) : s.reviewGood n = s := by
  have hshort : s.settleGood n = s := if_neg (by omega)
  unfold State.reviewGood
  dsimp only
  rw [hshort, Bool.and_not_self, review_unrisen (.inl hfree)]

/-- In FREE_RUN no event is a third jump of a source that the clock is locked to. -/
theorem jumpTest_freeRun (n : Nat) (d : Int) : ∃ j, s.jumpTest n d = (s.setSrc n { s.src n with jumps := j }, false) := by
  refine ⟨_, Prod.ext rfl ?_⟩
  show (_ && (s.wckState == wckLocked)) = false
  rw [hfree]
  simp [wckFreeRun, wckLocked]

end

/-- An event of REF_PPS_IN accepted early in its run: its record, and what it leaves alone. -/
structure AcceptsPps (s t : State) (d : Int) (tie : Bool) : Prop where
  rejects : t.wck.pps.rejects = 0
  accepts : t.wck.pps.accepts = s.wck.pps.accepts + 1
  pred : t.wck.pps.pred = true
  dis : t.wck.pps.dis = d
  state : t.wckState = s.wckState
  gnss : t.wck.gnss = s.wck.gnss
  margin : tie = true → t.get F.WCK_SRC_STATUS_MARGIN0 = 1
  marker : t.wck.marker = s.wck.marker
  untouched : Untouched s t

/-- Source 2 with an event of disagreement `d` accepted, the `n`-th of its run. -/
def State.takePps (s : State) (n : Nat) (d : Int) (more : Nat) : State :=
  s.setSrc 2 { s.src 2 with rejects := 0, accepts := min 16 n, pred := true, dis := d, goodFor := more }

/-- MARGIN0 of the sources shows a tie. -/
def State.markTie (s : State) (tie : Bool) : State := if tie then s.put F.WCK_SRC_STATUS_MARGIN0 1 else s

/-- The record of source 2 with the event taken; `u` is the state with the phase error shown and the jump test made. -/
theorem acceptsPps_of {s u : State} {d : Int} {tie : Bool} (hu : Untouched s u) (hstate : u.wckState = s.wckState)
    (hgnss : u.wck.gnss = s.wck.gnss) (hmarker : u.wck.marker = s.wck.marker) (hacc : s.wck.pps.accepts < 15) (more : Nat) :
    AcceptsPps s ((u.markTie tie).takePps (s.wck.pps.accepts + 1) d more) d tie := by
  have hmin : min 16 (s.wck.pps.accepts + 1) = s.wck.pps.accepts + 1 := by omega
  cases tie with
  | false => exact ⟨rfl, hmin, rfl, rfl, hstate, hgnss, fun h => (Bool.false_ne_true h).elim, hmarker, hu.setSrc⟩
  | true =>
    have hput : ∀ f : Fld, f.reg ≠ 0x20024 → (u.put F.WCK_SRC_STATUS_MARGIN0 1).get f = u.get f := fun f h =>
      State.get_put_reg _ _ _ _ h
    have hmargin : ((u.put F.WCK_SRC_STATUS_MARGIN0 1).takePps (s.wck.pps.accepts + 1) d more).get F.WCK_SRC_STATUS_MARGIN0 = 1 :=
      (setSrc_get _ 2 _ _).trans (State.get_put_self u _ _ (by decide))
    exact ⟨rfl, hmin, rfl, rfl, (hput _ (by decide)).trans hstate, hgnss, fun _ => hmargin, hmarker, hu.put.setSrc⟩

/-- In FREE_RUN an event of REF_PPS_IN without a prediction is accepted. -/
theorem srcEvent_open {s : State} (hfree : s.wckState = wckFreeRun) (hpred : s.wck.pps.pred = false)
    (hacc : s.wck.pps.accepts < 15) (d : Int) (tie : Bool) : AcceptsPps s (s.srcEvent 2 d tie) d tie := by
  have hphase : ∃ u, (if s.wckSource = 2 then s.put F.WCK_PHASE_PHASE_ERR (unsigned 32 d) else s) = u ∧ Untouched s u ∧
      u.wckState = s.wckState ∧ u.wck = s.wck := by
    refine ⟨_, rfl, ?_⟩
    split
    · exact ⟨(Untouched.refl s).put, State.get_put_reg _ _ _ _ (by decide), rfl⟩
    · exact ⟨Untouched.refl s, rfl, rfl⟩
  obtain ⟨u, hu, huntouched, hstate, hwck⟩ := hphase
  obtain ⟨j, hjump⟩ := jumpTest_freeRun (hstate.trans hfree) 2 d
  have hopen : (!(s.src 2).pred && (s.wckState == wckFreeRun || s.wckState == wckDoubt)) = true := by
    show (!s.wck.pps.pred && _) = true
    rw [hpred, hfree]
    rfl
  have hevent : ∃ more, s.srcEvent 2 d tie =
      (((u.setSrc 2 { u.src 2 with jumps := j }).markTie tie).takePps (s.wck.pps.accepts + 1) d more).reviewGood 2 := by
    unfold State.srcEvent
    simp only [hu, hjump, hopen, Bool.true_or, if_true, Bool.false_eq_true, if_false]
    exact ⟨_, rfl⟩
  obtain ⟨more, hevent⟩ := hevent
  have h := acceptsPps_of (d := d) (tie := tie) (u := u.setSrc 2 { u.src 2 with jumps := j }) huntouched.setSrc
    ((setSrc_get u 2 _ _).trans hstate) (congrArg Wck.gnss hwck :) (congrArg Wck.marker hwck :) hacc more
  rw [hevent, reviewGood_short (h.state.trans hfree)]
  · exact h
  · show min 16 (s.wck.pps.accepts + 1) < 16
    omega

/-- In FREE_RUN a window of source 2 or 3 that closes is a reject. -/
theorem exec_refWindowClose {s : State} (hs : s.stores = []) (hfree : s.wckState = wckFreeRun) {n : Nat} (hn : n = 2 ∨ n = 3) :
    exec (.refWindowClose n) s = .next (s.srcReject n) :=
  unit_next (show n < 4 by omega) hs (if_pos hn) (srcReject_spec hfree hn).untouched

/-- Settles O24: each event is the accepted event, the counted reject or the loss that its rule names. -/
theorem referenceEventsMoveTheirSource : Obligations.ReferenceEventsMoveTheirSource := by
  intro s hs hfree
  refine ⟨fun high seen tie hshort => run_same hs (if_pos hshort), fun high seen tie hlong hlow hhigh hpred hacc => ?accepted,
    fun high seen tie hlong hwidth => ?badWidth, ?window2, ?window3, ?loss, fun ppb hoff => ?off, fun ppb hin hgood => ?within⟩
  case accepted =>
    have h := srcEvent_open hfree hpred hacc (s.ppsDis seen) tie
    have hedge : ppsEdge high seen tie s = s.srcEvent 2 (s.ppsDis seen) tie :=
      (if_neg (by omega)).trans (if_neg (by omega))
    exact ⟨_, run_next hs hedge h.untouched, h.rejects, h.accepts, h.pred, h.dis, h.state.trans hfree, h.gnss, h.margin, h.marker,
      h.untouched.rd⟩
  case badWidth =>
    have h := srcReject_spec hfree (.inl rfl : 2 = 2 ∨ 2 = 3)
    have hedge : ppsEdge high seen tie s = s.srcReject 2 := (if_neg (by omega)).trans (if_pos hwidth)
    exact ⟨_, run_next hs hedge h.untouched, h.rejects, h.accepts, h.doubtful, h.counted, h.untouched.rd⟩
  case window2 =>
    have h := srcReject_spec hfree (.inl rfl : 2 = 2 ∨ 2 = 3)
    exact ⟨_, exec_refWindowClose hs hfree (by decide), h.rejects, h.accepts, h.counted, h.doubtful, h.regs, h.untouched.rd⟩
  case window3 =>
    have h := srcReject_spec hfree (.inr rfl : 3 = 2 ∨ 3 = 3)
    exact ⟨_, exec_refWindowClose hs hfree (by decide), h.rejects, h.accepts, h.counted, h.doubtful, h.regs, h.untouched.rd⟩
  case loss =>
    obtain ⟨hgood, h10M, hacc, hu⟩ := lose10M_spec hfree
    exact ⟨_, run_next hs rfl hu, hgood, h10M, hacc, hu.rd⟩
  case off =>
    obtain ⟨hgood, h10M, -, hu⟩ := lose10M_spec hfree
    exact ⟨_, run_next hs (if_pos hoff) hu, hgood, h10M, hu.rd⟩
  case within =>
    refine run_next hs ?_ (Untouched.refl s).setWck
    unfold check10M
    rw [if_neg (by omega), if_neg (by omega)]
    exact if_neg (show s.wck.good10M - 1 ≠ 0 by omega)

/-! ## LOCKED, HOLDOVER, DOUBT -/

theorem ppsLow_eq (s : State) : ∃ b l, s.ppsLow = { s with ppsHigh := b, sent := l } ∧ b = false := by
  unfold State.ppsLow
  split
  · exact ⟨_, _, rfl, rfl⟩
  · rename_i h
    exact ⟨s.ppsHigh, s.sent, rfl, by simpa using h⟩

theorem ppsHold_eq (s : State) : ∃ b l, s.ppsHold = { s with ppsHigh := b, sent := l } := by
  unfold State.ppsHold
  split
  · exact ⟨_, _, rfl⟩
  · obtain ⟨b, l, h, -⟩ := ppsLow_eq s
    exact ⟨b, l, h⟩

/-- A source made doubtful: not good, with the runs of its record ended. -/
theorem srcDoubtful_eq (s : State) (n : Nat) : ∃ w, s.srcDoubtful n = (({ s with wck := w } : State).setGood n false).review 0 false ∧
    w.sec = s.wck.sec := by
  unfold State.srcDoubtful
  generalize { s.src n with accepts := 0, goodFor := 0 } = x
  unfold State.setSrc
  split <;> exact ⟨_, rfl, rfl⟩

/-- In LOCKED the loss of the selected source begins holdover. -/
theorem review_lockedLost {s : State} (h : s.wckState = wckLocked) (hl : s.lost = true) (ev : Nat) (rose : Bool) :
    s.review ev rose = s.holdover := by
  unfold State.review
  simp [h, hl, wckFreeRun, wckDoubt, wckAcquire, wckLocked]

/-- What holdover keeps of its entry (R59): phase error, frequency uncertainty, second and nanosecond. -/
def State.noteEntry (s : State) : State :=
  { s with
    free := s.free + 1
    wck := { s.wck with
      holdE0 := (s.get F.WCK_PHASE_PHASE_ERR |> signed 32).natAbs, holdY0 := Config.anyNat s.free, holdFrom := s.wck.sec, holdNs := s.wck.ns } }

/-- Holdover with a limit that is not 0: its timer starts, time goes on, the sources stay as they are. -/
structure HoldsOver (s t : State) : Prop where
  state : t.wckState = wckHoldover
  good : ∀ n, t.srcGood n = s.srcGood n
  elapsed : t.get F.WCK_HOLDOVER_ELAPSED = 0
  since : t.wck.holdFrom = s.wck.sec
  untouched : Untouched s t

theorem holdover_spec {s : State} (h : s.get F.WCK_HOLDOVER_LIMIT_SECONDS ≠ 0) : HoldsOver s s.holdover := by
  generalize hu : ((s.put F.WCK_STATE_STATE wckHoldover).put F.WCK_HOLDOVER_ELAPSED 0).put F.WCK_HOLDOVER_TERR_EST 0 = u
  have hstate : u.wckState = wckHoldover := by
    rw [← hu]
    unfold State.wckState
    rw [State.get_put_reg _ _ _ _ (by decide), State.get_put_reg _ _ _ _ (by decide), State.get_put_self _ _ _ (by decide)]
    rfl
  have helapsed : u.get F.WCK_HOLDOVER_ELAPSED = 0 := by
    rw [← hu, State.get_put_beside _ _ _ _ (by decide) (by decide), State.get_put_self _ _ _ (by decide)]
    rfl
  have hfar : ∀ f : Fld, f.reg ≠ 0x20020 → f.reg ≠ 0x20038 → u.get f = s.get f := fun f h1 h2 => by
    rw [← hu, State.get_put_reg _ _ _ _ h2, State.get_put_reg _ _ _ _ h2, State.get_put_reg _ _ _ _ h1]
  have huntouched : Untouched s u := by rw [← hu]; exact (Untouched.refl s).put.put.put
  have hsec : u.wck.sec = s.wck.sec := by rw [← hu]; rfl
  have hholdover : s.holdover = if u.noteEntry.get F.WCK_HOLDOVER_LIMIT_SECONDS = 0 then u.noteEntry.timeDoubt else u.noteEntry.ppsHold := by
    rw [← hu]; rfl
  have hend : ∃ w n b l, s.holdover = { u with wck := w, free := n, ppsHigh := b, sent := l } ∧ w.holdFrom = u.wck.sec := by
    obtain ⟨b, l, hhold⟩ := ppsHold_eq u.noteEntry
    rw [hholdover, if_neg, hhold]
    · exact ⟨_, _, b, l, rfl, rfl⟩
    · exact fun h0 => h ((hfar _ (by decide) (by decide)).symm.trans h0)
  obtain ⟨w, n, b, l, hend, hw⟩ := hend
  rw [hend]
  exact ⟨hstate, fun n => congrArg (bit · n) (hfar F.WCK_SRC_STATUS_GOOD (by decide) (by decide)), helapsed, hw.trans hsec,
    huntouched.1, huntouched.2, huntouched.3⟩

/-- In LOCKED the selected source made doubtful leaves the clock in holdover. -/
theorem srcDoubtful_selected {s : State} (hl : s.wckState = wckLocked) (hlt : s.wckSource < 4)
    (hlim : s.get F.WCK_HOLDOVER_LIMIT_SECONDS ≠ 0) :
    ∃ w, w.sec = s.wck.sec ∧ HoldsOver (({ s with wck := w } : State).setGood s.wckSource false) (s.srcDoubtful s.wckSource) := by
  obtain ⟨w, heq, hsec⟩ := srcDoubtful_eq s s.wckSource
  generalize hu : ({ s with wck := w } : State).setGood s.wckSource false = u at heq
  have hget : ∀ f : Fld, f.reg ≠ 0x20024 → u.get f = s.get f := fun f hf => by rw [← hu, setGood_get _ _ _ hf]; rfl
  have hlost : u.lost = true := by
    have hsrc : u.wckSource = s.wckSource := hget _ (by decide)
    have hgood : u.srcGood s.wckSource = false := by rw [← hu]; exact srcGood_setGood_false _ _ hlt
    unfold State.lost
    simp [hsrc, hgood]
  rw [heq, review_lockedLost ((hget _ (by decide)).trans hl) hlost]
  exact ⟨w, hsec, hu.symm ▸ holdover_spec (by rwa [hget _ (by decide)])⟩

/-- Time doubt where no allotment declares exchanges: DOUBT alone, with no prediction and PPS_OUT low. -/
structure DoubtsTime (s t : State) : Prop where
  state : t.wckState = wckDoubt
  seen : t.get F.WCK_STATE_DOUBT_SEEN = 1
  gnss : t.wck.gnss.pred = false
  pps : t.wck.pps.pred = false
  marker : t.wck.marker.pred = false
  low : t.ppsHigh = false
  log : t.log = s.log
  untouched : Untouched s t

theorem timeDoubt_spec {s : State} (h : ∀ a < 16, s.exchanges a = false) : DoubtsTime s s.timeDoubt := by
  generalize hu : ((s.put F.WCK_STATE_STATE wckDoubt).put F.WCK_STATE_DOUBT_SEEN 1).dropPredictions = u
  have hstate : u.wckState = wckDoubt := by
    rw [← hu]
    unfold State.dropPredictions
    exact (State.get_put_beside (s.put F.WCK_STATE_STATE wckDoubt) F.WCK_STATE_DOUBT_SEEN F.WCK_STATE_STATE 1 (by decide)
      (by decide)).trans (State.get_put_self s _ _ (by decide))
  have hseen : u.get F.WCK_STATE_DOUBT_SEEN = 1 := by
    rw [← hu]
    exact State.get_put_self (s.put F.WCK_STATE_STATE wckDoubt) F.WCK_STATE_DOUBT_SEEN 1 (by decide)
  have hframe : u.allots = s.allots ∧ u.log = s.log ∧ Untouched s u := by rw [← hu]; exact ⟨rfl, rfl, rfl, rfl, rfl⟩
  have hpred : u.wck.gnss.pred = false ∧ u.wck.pps.pred = false ∧ u.wck.marker.pred = false := by rw [← hu]; exact ⟨rfl, rfl, rfl⟩
  obtain ⟨hallots, hlog, huntouched⟩ := hframe
  obtain ⟨_, l, hlow, rfl⟩ := ppsLow_eq u
  have hclose : ∀ l' : List Nat, (∀ a ∈ l', a < 16) → l'.foldl (fun s a =>
      if !s.isEmpty a && s.exchanges a then s.doubtAllot a { cause := cTime } else s) u.ppsLow = u.ppsLow := by
    intro l' hl'
    induction l' with
    | nil => rfl
    | cons a r ih =>
      have hex : u.ppsLow.exchanges a = false := by
        rw [← h a (hl' a List.mem_cons_self), hlow]
        unfold State.exchanges State.allot
        rw [← hallots]
      rw [List.foldl_cons, hex, Bool.and_false, if_neg Bool.false_ne_true]
      exact ih fun b hb => hl' b (List.mem_cons_of_mem _ hb)
  have htime : s.timeDoubt = { u with ppsHigh := false, sent := l } := by
    unfold State.timeDoubt
    rw [hu, ← hlow]
    exact hclose _ fun a ha => List.mem_range.1 ha
  rw [htime]
  exact ⟨hstate, hseen, hpred.1, hpred.2.1, hpred.2.2, rfl, hlog, huntouched.1, huntouched.2, huntouched.3⟩

/-- Settles O25: each event makes its row of Table 2-3, or finds the clock in another state. -/
theorem clockLocksAndHoldsOver : Obligations.ClockLocksAndHoldsOver := by
  intro s hs
  refine ⟨fun hst hstep => ?lock, fun hl h0 h4 hlim => ?trim, fun hst hpast hex => ?expired, fun hst => ?noLock, fun h0 => ?noTrim,
    fun hnot => ?noEnd⟩
  case lock =>
    have hexec : exec .wckLock s = .next (s.put F.WCK_STATE_STATE wckLocked) := by
      show execWckLock s = _
      unfold execWckLock
      exact run_next hs (if_pos ⟨hst, hstep⟩) (Untouched.refl s).put
    exact ⟨_, hexec, State.get_put_self _ _ _ (by decide), State.get_put_beside _ _ _ _ (by decide) (by decide),
      fun r hr => State.reg_put_ne _ _ _ hr, rfl⟩
  case trim =>
    obtain ⟨w, hsec, h⟩ := srcDoubtful_selected hl h4 hlim
    have hu : Untouched s (s.srcDoubtful s.wckSource) := (Untouched.refl s).setWck.setGood.trans h.untouched
    have hexec : exec .trimLimitExceeded s = .next (s.srcDoubtful s.wckSource) := by
      show execTrimLimitExceeded s = _
      unfold execTrimLimitExceeded
      exact run_next hs (if_neg h0) hu
    refine ⟨_, hexec, h.state, ?_, h.elapsed, ?_, hu.rd⟩
    · rw [h.good]; exact srcGood_setGood_false _ _ h4
    · rw [h.since, setGood_wck]; exact hsec
  case expired =>
    have h := timeDoubt_spec hex
    have hexec : exec .holdoverEnd s = .next s.timeDoubt := by
      show execHoldoverEnd s = _
      unfold execHoldoverEnd
      exact run_next hs (if_pos ⟨hst, hpast⟩) h.untouched
    exact ⟨_, hexec, h.state, h.seen, h.gnss, h.pps, h.marker, h.low, h.log, h.untouched.rd⟩
  case noLock =>
    show execWckLock s = _
    unfold execWckLock
    exact run_same hs (if_neg fun h => hst h.1)
  case noTrim =>
    show execTrimLimitExceeded s = _
    unfold execTrimLimitExceeded
    exact run_same hs (if_pos h0)
  case noEnd =>
    show execHoldoverEnd s = _
    unfold execHoldoverEnd
    refine run_same hs (if_neg fun h => hnot.elim (fun hn => hn h.1) fun hn => ?_)
    exact Bool.false_ne_true (hn.symm.trans h.2)

end Sys2Proof.Machine
end

section
/-! PROOFS. Changes due in a fallow turn (R35, R37, R39, R52, R305): what a final tally and a renumbering of turns leave alone, which
change is made first, and what each change leaves. -/

namespace Sys2Proof.Machine

/-! ## Final tallies -/

/-- ALLOT is one byte of the header. -/
theorem Ord.allot_lt (o : Ord) : o.allot < 256 := by
  show leNat (slice o.bytes 8 1) < 256
  simp only [slice, List.range_one, List.map_cons, List.map_nil, leNat]
  omega

section
variable {s t : State} (o : Ord) (st item detail : Nat) (m : Bool)

/-- Registers that the end of an order does not write. -/
theorem finish_reg {r : Nat} (h1 : r ≠ 0x30008) (h2 : r ≠ 0x3102C + 0x40 * o.q) (h3 : r ≠ 0x40100 + 0x100 * o.allot) :
    (s.finish o st item detail m).reg r = s.reg r := by
  unfold State.finish
  split
  · exact (pushTally_reg _ _ _).trans (endOrder_reg s o h1 h2 h3)
  · rfl

/-- The end of an order writes no register of the clock. -/
theorem finish_reg_clock {r : Nat} (h : r < 0x30000) : (s.finish o st item detail m).reg r = s.reg r :=
  finish_reg o st item detail m (by omega) (by omega) (by omega)

/-- Beyond the allotments' registers the end of an order writes none at a multiple of 64. -/
theorem finish_reg_far {r : Nat} (h : 0x50100 ≤ r) (h64 : r % 64 = 0) : (s.finish o st item detail m).reg r = s.reg r :=
  finish_reg o st item detail m (by omega) (by omega) (by have := o.allot_lt; omega)

theorem finish_fallowDue : (s.finish o st item detail m).fallowDue = s.fallowDue := by
  obtain ⟨_, _, _, _, _, h⟩ := finish_eq s o st item detail m; rw [h]

variable {o st item detail m}

theorem Untouched.finish (h : Untouched s t) : Untouched s (t.finish o st item detail m) := by
  obtain ⟨_, _, _, _, _, e⟩ := finish_eq t o st item detail m; rw [e]; exact ⟨h.1, h.2, h.3⟩

end

/-- A field reads as before where its register does. -/
theorem get_of_reg {s t : State} {f : Fld} (h : t.reg f.reg = s.reg f.reg) : t.get f = s.get f := by
  unfold State.get
  rw [h]

/-! ## Which change is made -/

/-- Nothing is due in a fallow turn. -/
def State.offDue (s : State) : State := { s with fallowDue := [] }

section
variable {s : State} {x : FallowDue} (hdue : s.fallowDue = [x])
include hdue

theorem dropDue_only : s.dropDue [x] = s.offDue := by
  unfold State.dropDue State.offDue
  simp [hdue]

theorem dueNow_only (hx : x.turn = s.wck.turn) (p : Change → Bool) : s.dueNow p = if p x.change then [x] else [] := by
  unfold State.dueNow
  simp [hdue, hx, List.filter_cons]

/-- No change that satisfies the test is due. -/
theorem makeAll_other (hx : x.turn = s.wck.turn) {p : Change → Bool} (hp : p x.change = false) : s.makeAll p = s := by
  unfold State.makeAll
  rw [hdue]
  unfold State.makeDue
  exact if_pos (by rw [dueNow_only hdue hx, hp]; rfl)

/-- The one change due now is of time or epoch: it is made. -/
theorem makeAll_numbers (hx : x.turn = s.wck.turn) (hn : x.change.numbers = true) :
    s.makeAll Change.numbers = s.offDue.applyNumbering x := by
  have hnext : s.nextDue = some x := by
    unfold State.nextDue
    rw [dueNow_only hdue hx]
    simp [hn]
  unfold State.makeAll
  rw [hdue]
  show State.makeDue _ 1 s = _
  unfold State.makeDue
  rw [if_neg (by rw [dueNow_only hdue hx, hn]; simp), hnext]
  dsimp only
  rw [if_pos hn, dropDue_only hdue]
  rfl

end

theorem makeAll_nothing {s : State} (hdue : s.fallowDue = []) (p : Change → Bool) : s.makeAll p = s := by
  unfold State.makeAll
  rw [hdue]
  rfl

/-- The changes that FALLOW_CHANGE_APPLY makes beside those of time and epoch. -/
def Change.ofFallow : Change → Bool
  | .fallowOnly => true
  | .refresh _ => true
  | _ => false

theorem applyFallows_eq {s : State} (hc : s.wck.cycle = 0) (hf : s.wck.isFallow = true) : applyFallows s =
    let t := s.makeAll Change.numbers
    (t.dueNow Change.ofFallow).foldl State.applyFallow (t.dropDue (t.dueNow Change.ofFallow)) := by
  unfold applyFallows
  rw [if_neg (by simp [hc, hf])]
  rfl

/-- The one change due is made by FALLOW_CHANGE_APPLY itself. -/
theorem applyFallows_own {s : State} {x : FallowDue} (hc : s.wck.cycle = 0) (hf : s.wck.isFallow = true) (hdue : s.fallowDue = [x])
    (hx : x.turn = s.wck.turn) (hn : x.change.numbers = false) (ho : x.change.ofFallow = true) :
    applyFallows s = s.offDue.applyFallow x := by
  rw [applyFallows_eq hc hf, makeAll_other hdue hx hn]
  simp only [dueNow_only hdue hx, ho, if_true, dropDue_only hdue, List.foldl_cons, List.foldl_nil]

/-- The one change due is of time or epoch. -/
theorem applyFallows_numbers {s t : State} {x : FallowDue} (hc : s.wck.cycle = 0) (hf : s.wck.isFallow = true) (hdue : s.fallowDue = [x])
    (hx : x.turn = s.wck.turn) (hn : x.change.numbers = true) (ht : s.offDue.applyNumbering x = t)
    (hleft : t.fallowDue = []) : applyFallows s = t := by
  rw [applyFallows_eq hc hf, makeAll_numbers hdue hx hn, ht]
  have hnone : t.dueNow Change.ofFallow = [] := by unfold State.dueNow; rw [hleft]; rfl
  simp only [hnone, List.foldl_nil]
  unfold State.dropDue
  rw [hleft]
  obtain ⟨⟩ := t
  cases hleft
  rfl

/-! ## Turn numbering -/

/-- A renumbering leaves time, the offset in the turn, a pending step and every register but WCK_STEP as they are. -/
structure Renumbers (s t : State) : Prop where
  sec : t.wck.sec = s.wck.sec
  ns : t.wck.ns = s.wck.ns
  cycle : t.wck.cycle = s.wck.cycle
  step : t.wck.step = s.wck.step
  reg : ∀ r, r ≠ 0x20070 → t.reg r = s.reg r
  due : s.fallowDue = [] → t.fallowDue = []
  untouched : Untouched s t

theorem renumber_spec (s : State) (n : Nat) : Renumbers s (s.renumber n) := by
  unfold State.renumber
  dsimp only
  split
  · exact ⟨rfl, rfl, rfl, rfl, fun _ _ => rfl, id, Untouched.refl s⟩
  · generalize signed 48 (n + 2 ^ 48 - s.wck.turn) = d
    generalize hu : s.moveTurns d = u
    have hmoved : Renumbers s u := by
      rw [← hu]
      exact ⟨rfl, rfl, rfl, rfl, fun _ _ => rfl, fun h => by unfold State.moveTurns; rw [h]; rfl, rfl, rfl, rfl⟩
    refine ⟨hmoved.sec, hmoved.ns, hmoved.cycle, hmoved.step, fun r hr => ?_, hmoved.due, hmoved.untouched.1, hmoved.untouched.2,
      hmoved.untouched.3⟩
    refine Eq.trans ?_ (hmoved.reg r hr)
    refine (pushTally_reg _ _ _).trans ?_
    exact (State.reg_put_ne _ F.WCK_STEP_VALID _ hr).trans (State.reg_put_ne _ F.WCK_STEP_DELTA _ hr)

/-- What setting time leaves: the new time, cycle 0 and a pending step as they were. -/
structure SetsTime (s t : State) (sec ns : Nat) : Prop where
  sec : t.wck.sec = sec
  ns : t.wck.ns = ns
  cycle : t.wck.cycle = s.wck.cycle
  step : t.wck.step = s.wck.step
  reg : ∀ r, r ≠ 0x20070 → t.reg r = s.reg r
  due : s.fallowDue = [] → t.fallowDue = []
  untouched : Untouched s t

theorem setTime_spec (s : State) (sec ns frac : Nat) : SetsTime s (s.setTime sec ns frac) sec ns := by
  generalize hu : ({ s with wck := { s.wck with sec := sec, ns := ns, frac := frac } } : State) = u
  have h : s.setTime sec ns frac = u.renumber u.turnAt := by rw [← hu]; rfl
  have hr := renumber_spec u u.turnAt
  have hframe : u.wck.sec = sec ∧ u.wck.ns = ns ∧ u.wck.cycle = s.wck.cycle ∧ u.wck.step = s.wck.step ∧ u.regs = s.regs ∧
      u.fallowDue = s.fallowDue ∧ Untouched s u := by
    rw [← hu]; exact ⟨rfl, rfl, rfl, rfl, rfl, rfl, rfl, rfl, rfl⟩
  obtain ⟨hsec, hns, hcycle, hstep, hregs, hdue, hun⟩ := hframe
  rw [h]
  exact ⟨hr.sec.trans hsec, hr.ns.trans hns, hr.cycle.trans hcycle, hr.step.trans hstep,
    fun r hne => (hr.reg r hne).trans (reg_congr hregs r), fun h0 => hr.due (hdue.trans h0), hun.trans hr.untouched⟩

/-- Time moved by a host's setting. -/
theorem hostTime_spec (s : State) (sec ns : Nat) : SetsTime s (s.hostTime sec ns) sec ns := by
  unfold State.hostTime
  generalize ((sec * 1000000000 + ns : Nat) - (s.wck.sec * 1000000000 + s.wck.ns : Nat) : Int) = d
  have h := setTime_spec (s.shiftSources d) sec ns 0
  exact ⟨h.sec, h.ns, h.cycle, h.step, h.reg, h.due, h.untouched.1, h.untouched.2, h.untouched.3⟩

/-- Time moved by a pending step, which is no longer pending. -/
theorem stepTime_spec (s : State) (d : Int) : ∃ u, SetsTime u (s.stepTime d)
    (unsigned 32 (((s.wck.sec * 1000000000 + s.wck.ns : Nat) + d) / 1000000000))
    ((((s.wck.sec * 1000000000 + s.wck.ns : Nat) : Int) + d) % 1000000000).toNat ∧
      u.wck.cycle = s.wck.cycle ∧ u.wck.step = none ∧ u.get F.WCK_STATE_STEP_PENDING = 0 ∧ Untouched s u := by
  have ht : (s.wck.sec * 1000000000 + s.wck.ns + d : Int) = ((s.wck.sec * 1000000000 + s.wck.ns : Nat) : Int) + d := by push_cast; rfl
  unfold State.stepTime
  dsimp only
  rw [ht]
  generalize hu : s.dropStep.shiftSources d = u
  have hframe : u.wck.cycle = s.wck.cycle ∧ u.wck.step = none ∧ Untouched s u := by rw [← hu]; exact ⟨rfl, rfl, rfl, rfl, rfl⟩
  have hpending : u.get F.WCK_STATE_STEP_PENDING = (s.put F.WCK_STATE_STEP_PENDING 0).get F.WCK_STATE_STEP_PENDING := by rw [← hu]; rfl
  rw [State.get_put_self _ _ _ (by decide)] at hpending
  exact ⟨u, setTime_spec u _ _ _, hframe.1, hframe.2.1, hpending, hframe.2.2⟩

/-! ## The changes -/

/-- An order in flight ends after an effect `u` that is off the list and leaves queues, clock and orders in flight alone. -/
theorem endsDue_finish {s u : State} {o : Ord} (ho : o ∈ s.inflight) (hin : u.inflight = s.inflight) (hq : u.queues = s.queues)
    (hw : u.wck = s.wck) (hd : u.fallowDue = []) (hun : Untouched s u) (st item detail : Nat) :
    let t := u.finish o st item detail
    Reports s t o st item detail ∧ Ended t o ∧ t.fallowDue = [] ∧ t.wck = s.wck ∧ Untouched s t := by
  have hmem : o ∈ u.inflight := by rw [hin]; exact ho
  exact ⟨reports_of hmem (congrArg Queue.out (queue_congr hq _)) hw, (finish_spec u o st item detail false hmem).2.1,
    (finish_fallowDue ..).trans hd, (finish_wck ..).trans hw, hun.finish⟩

theorem classConflict_congr {s t : State} (h : t.allots = s.allots) (c : Nat) : t.classConflict c = s.classConflict c := by
  unfold State.classConflict State.allot
  rw [h]

/-- A TIME_EPOCH_SET sets the anchor and renumbers the turn. -/
theorem applyEpoch_spec (s : State) (o : Ord) (k e : Nat) : let t := s.applyNumbering ⟨o, k, .epoch e⟩
    t.get F.WCK_ANCHOR_SEC_SEC = e % 2 ^ 32 ∧ t.get F.WCK_ANCHOR_TURN_TURN = 0 ∧ (s.fallowDue = [] → t.fallowDue = []) ∧
      t.wck.sec = s.wck.sec ∧ t.wck.ns = s.wck.ns ∧ Untouched s t := by
  generalize hu : (s.put F.WCK_ANCHOR_SEC_SEC e).put F.WCK_ANCHOR_TURN_TURN 0 = u
  have happly : s.applyNumbering ⟨o, k, .epoch e⟩ = (u.renumber u.turnAt).done o := by rw [← hu]; rfl
  have hr := renumber_spec u u.turnAt
  have hsec : u.get F.WCK_ANCHOR_SEC_SEC = e % 2 ^ 32 := by
    rw [← hu, State.get_put_reg _ _ _ _ (by decide), State.get_put_self _ _ _ (by decide)]; rfl
  have hturn : u.get F.WCK_ANCHOR_TURN_TURN = 0 := by rw [← hu, State.get_put_self _ _ _ (by decide)]; rfl
  have hframe : u.fallowDue = s.fallowDue ∧ u.wck = s.wck ∧ Untouched s u := by rw [← hu]; exact ⟨rfl, rfl, rfl, rfl, rfl⟩
  obtain ⟨hdue, hwck, hun⟩ := hframe
  have hdone : ∀ f : Fld, f.reg < 0x30000 → f.reg ≠ 0x20070 → ((u.renumber u.turnAt).done o).get f = u.get f := fun f h1 h2 =>
    get_of_reg ((finish_reg_clock o stDone 0 0 false h1).trans (hr.reg _ h2))
  rw [happly]
  exact ⟨(hdone _ (by decide) (by decide)).trans hsec, (hdone _ (by decide) (by decide)).trans hturn,
    fun h => (finish_fallowDue ..).trans (hr.due (hdue.trans h)),
    (congrArg Wck.sec (finish_wck ..)).trans (hr.sec.trans (congrArg Wck.sec hwck)),
    (congrArg Wck.ns (finish_wck ..)).trans (hr.ns.trans (congrArg Wck.ns hwck)), (hun.trans hr.untouched).finish⟩

/-- A TIME_HOST_SET in FREE_RUN or DOUBT sets the host's time. -/
theorem applyHostTime_spec {s : State} (h : s.wckState = wckFreeRun ∨ s.wckState = wckDoubt) (o : Ord) (k sec ns : Nat) :
    let t := s.applyNumbering ⟨o, k, .hostTime sec ns⟩
    (s.fallowDue = [] → t.fallowDue = []) ∧ t.wck.sec = sec ∧ t.wck.ns = ns ∧ t.wck.cycle = s.wck.cycle ∧ Untouched s t := by
  have happly : s.applyNumbering ⟨o, k, .hostTime sec ns⟩ = (s.hostTime sec ns).done o := if_pos h
  have ht := hostTime_spec s sec ns
  have hwck : ((s.hostTime sec ns).done o).wck = (s.hostTime sec ns).wck := finish_wck ..
  rw [happly]
  dsimp only
  rw [hwck]
  exact ⟨fun h0 => (finish_fallowDue ..).trans (ht.due h0), ht.sec, ht.ns, ht.cycle, ht.untouched.finish⟩

/-- In another state a TIME_HOST_SET ends STATE with that state. -/
theorem applyHostTime_refused {s : State} (h : ¬ (s.wckState = wckFreeRun ∨ s.wckState = wckDoubt)) (o : Ord) (k sec ns : Nat) :
    s.applyNumbering ⟨o, k, .hostTime sec ns⟩ = s.finish o stState 0 (detailOf 0x2E s.wckState) := if_neg h

/-- A REFRESH_CLASS_SET with no plan of another class sets the class. -/
theorem applyRefresh_set {s : State} {c : Nat} (h : s.classConflict c = none) (o : Ord) (k : Nat) :
    s.applyFallow ⟨o, k, .refresh c⟩ = (s.put F.HBM_CLASS_CLASS c).done o := by
  unfold State.applyFallow
  dsimp only
  rw [h]

/-- With such a plan it ends STATE. -/
theorem applyRefresh_refused {s : State} {c a : Nat} (h : s.classConflict c = some a) (o : Ord) (k : Nat) :
    s.applyFallow ⟨o, k, .refresh c⟩ = s.finish o stState 0 (detailOf 0x45 a) := by
  unfold State.applyFallow
  dsimp only
  rw [h]
  rfl

theorem exec_fallowChangeApply {s t : State} (hs : s.stores = []) (h : applyFallows s = t) (hu : Untouched s t) :
    exec .fallowChangeApply s = .next t := run_next hs h hu

/-- Settles O28: the one change due is made by `applyFallow` or `applyNumbering`; a pending step by `stepTime`. -/
theorem fallowChangesAreApplied : Obligations.FallowChangesAreApplied := by
  intro s o hs hc hf ho
  have hoff : Untouched s s.offDue := ⟨rfl, rfl, rfl⟩
  have hends := endsDue_finish (s := s) (u := s.offDue) ho rfl rfl rfl rfl hoff
  refine ⟨fun hdue => ?fallow, fun c hdue hok => ?refresh, fun c a hdue hbad => ?conflict, fun e hdue => ?epoch, fun sec ns hdue => ?host,
    fun d hdue hstep => ?step⟩
  case fallow =>
    obtain ⟨hrep, hend, hd, hw, hu⟩ := hends stDone 0 0
    exact ⟨_, exec_fallowChangeApply hs (applyFallows_own hc hf hdue rfl rfl rfl) hu, hrep, hend, hd, hw, hu.rd⟩
  case refresh =>
    have h := (applyFallows_own hc hf hdue rfl rfl rfl).trans (applyRefresh_set (s := s.offDue) ((classConflict_congr rfl c).trans hok) o s.wck.turn)
    obtain ⟨hrep, hend, hd, hw, hu⟩ := endsDue_finish (s := s) (u := s.offDue.put F.HBM_CLASS_CLASS c)
      ho rfl rfl rfl rfl hoff.put stDone 0 0
    have hclass : ((s.offDue.put F.HBM_CLASS_CLASS c).done o).get F.HBM_CLASS_CLASS = c % 2 :=
      (get_of_reg (finish_reg_far o stDone 0 0 false (by decide) (by decide))).trans (State.get_put_self _ _ _ (by decide))
    exact ⟨_, exec_fallowChangeApply hs h hu, hrep, hend, hclass, hd, hw, hu.rd⟩
  case conflict =>
    have h := (applyFallows_own hc hf hdue rfl rfl rfl).trans (applyRefresh_refused (s := s.offDue) ((classConflict_congr rfl c).trans hbad) o s.wck.turn)
    obtain ⟨hrep, hend, hd, -, hu⟩ := hends stState 0 (detailOf 0x45 a)
    have hclass : (s.offDue.finish o stState 0 (detailOf 0x45 a)).get F.HBM_CLASS_CLASS = s.offDue.get F.HBM_CLASS_CLASS :=
      get_of_reg (finish_reg_far o _ _ _ false (by decide) (by decide))
    exact ⟨_, exec_fallowChangeApply hs h hu, hrep, hend, hclass, hd, hu.rd⟩
  case epoch =>
    obtain ⟨hsec, hturn, hd, h1, h2, hu⟩ := applyEpoch_spec s.offDue o s.wck.turn e
    have hu' := hoff.trans hu
    exact ⟨_, exec_fallowChangeApply hs (applyFallows_numbers hc hf hdue rfl rfl rfl (hd rfl)) hu', hsec, hturn, hd rfl, h1, h2, hu'.rd⟩
  case host =>
    by_cases h : s.wckState = wckFreeRun ∨ s.wckState = wckDoubt
    · obtain ⟨hd, h1, h2, h3, hu⟩ := applyHostTime_spec (s := s.offDue) h o s.wck.turn sec ns
      have hu' := hoff.trans hu
      exact ⟨_, exec_fallowChangeApply hs (applyFallows_numbers hc hf hdue rfl rfl rfl (hd rfl)) hu', hd rfl,
        fun _ => ⟨h1, h2, h3.trans hc⟩, fun n1 n2 => (h.elim n1 n2).elim, hu'.rd⟩
    · obtain ⟨hrep, hend, hd, hw, hu⟩ := hends stState 0 (detailOf 0x2E s.wckState)
      exact ⟨_, exec_fallowChangeApply hs (applyFallows_numbers hc hf hdue rfl rfl (applyHostTime_refused (s := s.offDue) h ..) hd) hu, hd,
        fun h' => (h h').elim, fun _ _ => ⟨hw, hrep, hend⟩, hu.rd⟩
  case step =>
    obtain ⟨u, ht, hcycle, hnone, hpending, hu⟩ := stepTime_spec s d
    have h : applyTime s = s.stepTime d := by
      unfold applyTime
      rw [if_neg (by simp [hc]), makeAll_nothing hdue]
      dsimp only
      rw [hstep]
      exact if_pos (by rw [hf, Bool.true_or])
    have hu' := hu.trans ht.untouched
    have hexec : exec .timeStepApply s = .next (s.stepTime d) := run_next hs h hu'
    exact ⟨_, hexec, ht.step.trans hnone, (get_of_reg (ht.reg _ (by decide))).trans hpending, ht.sec, ht.ns,
      (ht.cycle.trans hcycle).trans hc, hu'.rd⟩

end Sys2Proof.Machine
end

section
/-! PROOFS. The tailwater guard where no core has an access left (R46 to R49, R182, R217, R327 to R329): that its events bring the
clock alone to their offset, and what each of them then does. -/

namespace Sys2Proof.Machine

/-! ## The cores stand -/

theorem catchUp_none {s : State} (h : s.coreNext = none) (lim : Nat) : ∀ n, State.catchUp n lim s = s
  | 0 => rfl
  | n + 1 => by
    unfold State.catchUp
    rw [h]

/-- Where no core has an access left and no accumulator waits, carrying the cores forward changes nothing. -/
theorem coresTo_idle {s : State} (h : s.coresIdle) (c : Nat) : s.coresTo c = s := by
  obtain ⟨hnext, hpends⟩ := h
  have hnone : s.cores.filter (fun x => !(x.2.acc0.pends.isEmpty && x.2.acc1.pends.isEmpty)) = [] := by
    rw [List.filter_eq_nil_iff]
    intro x hx
    obtain ⟨h0, h1⟩ := hpends x hx
    simp [h0, h1]
  unfold State.coresTo State.settleAccs
  rw [catchUp_none hnext, hnone]
  rfl

/-! ## The clock at a guard offset -/

section
variable (s : State) (g : Nat)

theorem atGuard_eq : ∃ w, s.atGuard g = { s with wck := w } := advanceTo_eq s _

@[simp] theorem atGuard_get (f : Fld) : (s.atGuard g).get f = s.get f := by
  obtain ⟨_, h⟩ := atGuard_eq s g; rw [h]; rfl

variable {s g}

theorem Untouched.atGuard {t : State} (h : Untouched s t) : Untouched s (t.atGuard g) := by
  obtain ⟨_, e⟩ := atGuard_eq t g; rw [e]; exact ⟨h.1, h.2, h.3⟩

/-- An event of the guard while turns run and the cores stand. -/
theorem guardEvent_idle (hr : s.wck.running = true) (hi : s.coresIdle) (f : State → State) : guardEvent g f s = f (s.atGuard g) := by
  unfold guardEvent
  rw [if_pos hr, coresTo_idle hi]

/-- Before turns run an event of the guard does nothing. -/
theorem guardEvent_still (hr : s.wck.running = false) (f : State → State) : guardEvent g f s = s := by
  unfold guardEvent
  rw [hr]
  rfl

end

/-! ## Folds of effects -/

/-- A fold whose every step leaves the state as it is. -/
theorem foldl_fixed {α β : Type} (f : α → β → α) (s : α) (l : List β) (h : ∀ x ∈ l, f s x = s) : l.foldl f s = s := by
  induction l with
  | nil => rfl
  | cons x l ih =>
    rw [List.foldl_cons, h x List.mem_cons_self]
    exact ih fun y hy => h y (List.mem_cons_of_mem _ hy)

/-- What every step of a fold keeps, the fold keeps. -/
theorem foldl_keeps {α β : Type} {R : α → α → Prop} (hrefl : ∀ s, R s s) (htrans : ∀ {s t u}, R s t → R t u → R s u)
    {f : α → β → α} (l : List β) (h : ∀ s, ∀ x ∈ l, R s (f s x)) (s : α) : R s (l.foldl f s) := by
  induction l generalizing s with
  | nil => exact hrefl s
  | cons x l ih =>
    exact htrans (h s x List.mem_cons_self) (ih (fun s y hy => h s y (List.mem_cons_of_mem _ hy)) _)

/-! ## Water rights in the registers -/

/-- Between two states only the registers of the allotments' rights and ALT_SCRUB may differ. -/
structure NotesRights (s t : State) : Prop where
  rest : t = { s with regs := t.regs }
  reg : ∀ r, r ≠ 0x40010 → (∀ a < 16, r ≠ 0x40120 + 0x100 * a) → t.reg r = s.reg r

theorem NotesRights.refl (s : State) : NotesRights s s := ⟨rfl, fun _ _ _ => rfl⟩

theorem NotesRights.trans {s t u : State} (h : NotesRights s t) (k : NotesRights t u) : NotesRights s u := by
  refine ⟨?_, fun r h1 h2 => (k.reg r h1 h2).trans (h.reg r h1 h2)⟩
  rw [k.rest, h.rest]

theorem noteRights_spec (s : State) {a : Nat} (ha : a < 16) : NotesRights s (s.noteRights a) := by
  refine ⟨rfl, fun r _ h => ?_⟩
  have hr := h a ha
  unfold State.noteRights
  exact (State.reg_put_ne _ (F.ALT_RIGHTS_WAITING a) _ hr).trans
    ((State.reg_put_ne _ (F.ALT_RIGHTS_STAGED a) _ hr).trans (State.reg_put_ne _ (F.ALT_RIGHTS_RANGES a) _ hr))

theorem noteAllRights_spec (s : State) : NotesRights s s.noteAllRights :=
  (foldl_keeps NotesRights.refl NotesRights.trans (List.range 16) (fun s _ h => noteRights_spec s (List.mem_range.1 h)) s).trans
    ⟨rfl, fun _ h _ => State.reg_put_ne _ F.ALT_SCRUB_PENDING _ h⟩

/-! ## g = 0 -/

/-- The fences of a state with their granules handed to the scrubbers. -/
theorem confirmFences_eq (s : State) : ∃ r, s.confirmFences = { s with
      scrubs := s.scrubs ++ s.fences.filterMap (fun x => if x.2.2 then some (x.1, x.2.1) else none), fences := [], regs := r } ∧
    ∀ x, x ≠ 0x40010 → (∀ a < 16, x ≠ 0x40120 + 0x100 * a) → smGet (regReset x) r x = s.reg x := by
  have h := noteAllRights_spec { s with
    scrubs := s.scrubs ++ s.fences.filterMap (fun x => if x.2.2 then some (x.1, x.2.1) else none), fences := [] }
  exact ⟨_, h.rest, h.reg⟩

/-- A change that waits for no tile and no granule. -/
def Change.free (c : Change) : Prop := (∀ a fn p b ts, c ≠ .claim a fn p b ts) ∧ ∀ a es, c ≠ .rights a es

theorem unitsReady_free {s : State} {c : Change} (h : c.free) : s.unitsReady c = true := by
  obtain ⟨hclaim, hrights⟩ := h
  cases c with
  | claim a fn p b ts => exact absurd rfl (hclaim a fn p b ts)
  | rights a es => exact absurd rfl (hrights a es)
  | _ => rfl

theorem rampsDown_none {s : State} (h : s.ramps = []) : s.rampsDown = s := by
  obtain ⟨⟩ := s
  cases h
  rfl

theorem reopenTest_none {s : State} (h : s.reopens = []) : s.reopenTest = s := by
  unfold State.reopenTest State.reopensNow
  rw [h]
  rfl

theorem sendMarkers_none {s : State} (h : ∀ p < 12, s.apState p ≠ apUp) (fallow : Bool) : s.sendMarkers fallow = s :=
  foldl_fixed _ _ _ fun p hp => if_neg (h p (List.mem_range.1 hp))

/-- The readiness that the opening guard samples: `was` is the state before it, `s` the one whose fences are confirmed. -/
def sampled (was s : State) (x : Staged) : Bool := decide (x.at_ < was.guardNow) && s.unitsReady x.change

/-- Some change is ready by a report of this very cycle (R49). -/
def tiedAt (tie : Bool) (was s : State) : Bool := s.staged.any fun x => sampled was s x && (tie || !was.unitsReady x.change)

/-- Every staged change with its readiness sampled, and the tie shown. -/
def sample (tie : Bool) (was s : State) : State :=
  let t := { s with staged := s.staged.map fun (x : Staged) => { x with ready := sampled was s x } }
  if tiedAt tie was s then t.put F.WCK_STATE_MARGIN0 1 else t

theorem sample_get (tie : Bool) (was s : State) {f : Fld} (h : f.reg ≠ 0x20020) : (sample tie was s).get f = s.get f := by
  unfold sample
  dsimp only
  split
  · exact State.get_put_reg _ _ _ _ h
  · rfl

theorem sample_rest (tie : Bool) (was s : State) : ∃ r, sample tie was s =
    { s with regs := r, staged := s.staged.map fun (x : Staged) => { x with ready := sampled was s x } } := by
  unfold sample
  dsimp only
  split <;> exact ⟨_, rfl⟩

theorem sample_wck (tie : Bool) (was s : State) : (sample tie was s).wck = s.wck := by
  obtain ⟨_, h⟩ := sample_rest tie was s
  rw [h]

theorem confirmFences_wck (s : State) : s.confirmFences.wck = s.wck := by
  obtain ⟨_, h, -⟩ := confirmFences_eq s
  rw [h]

/-- What a change is whose readiness has been sampled by `p`. -/
theorem mem_sampled {p : Staged → Bool} {l : List Staged} {x : Staged} (h : x ∈ l.map fun (x : Staged) => { x with ready := p x }) :
    ∃ y ∈ l, y.change = x.change ∧ y.at_ = x.at_ ∧ p y = x.ready := by
  obtain ⟨y, hy, rfl⟩ := List.mem_map.1 h
  exact ⟨y, hy, rfl, rfl, rfl⟩

/-- With no port up, no ramp, no reopening and no allotment sluiced, the guard confirms the fences and samples. -/
theorem guardOpen_eq {s : State} (tie : Bool) (hports : ∀ p < 12, s.apState p ≠ apUp) (hramps : s.ramps = []) (hreopens : s.reopens = [])
    (hopen : ∀ a < 16, s.altState a ≠ 6) : guardOpen tie s = sample tie s s.confirmFences := by
  obtain ⟨r, hfences, hr⟩ := confirmFences_eq s
  have hreg : ∀ x, x ≠ 0x40010 → (∀ a < 16, x ≠ 0x40120 + 0x100 * a) → s.confirmFences.reg x = s.reg x := by rw [hfences]; exact hr
  have hframe : s.confirmFences.ramps = s.ramps ∧ s.confirmFences.reopens = s.reopens := by rw [hfences]; exact ⟨rfl, rfl⟩
  generalize hc : s.confirmFences = c at *
  obtain ⟨r', hsample⟩ := sample_rest tie s c
  have hget : ∀ f : Fld, f.reg ≠ 0x20020 → f.reg ≠ 0x40010 → (∀ a < 16, f.reg ≠ 0x40120 + 0x100 * a) →
      (sample tie s c).get f = s.get f := fun f h0 h1 h2 => (sample_get tie s c h0).trans (get_of_reg (hreg _ h1 h2))
  have hports' : ∀ p < 12, (sample tie s c).apState p ≠ apUp := fun p hp => by
    unfold State.apState
    rw [hget (F.AQD_PORT_STATE_STATE p) (show 0xb8104 + 0x100 * p ≠ 0x20020 by omega) (show 0xb8104 + 0x100 * p ≠ 0x40010 by omega)
      (fun a _ => show 0xb8104 + 0x100 * p ≠ 0x40120 + 0x100 * a by omega)]
    exact hports p hp
  have hopen' : ∀ a < 16, (sample tie s c).altState a ≠ 6 := fun a ha => by
    unfold State.altState
    rw [hget (F.ALT_STATE_STATE a) (show 0x40100 + 0x100 * a ≠ 0x20020 by omega) (show 0x40100 + 0x100 * a ≠ 0x40010 by omega)
      (fun b _ => show 0x40100 + 0x100 * a ≠ 0x40120 + 0x100 * b by omega)]
    exact hopen a ha
  have hreopens' : (sample tie s c).reopens = [] := by rw [hsample]; exact hframe.2.trans hreopens
  have hopened : guardOpen tie s = ((List.range 16).foldl (fun s a => if s.altState a = 6 ∧ ¬ s.chipClosed then s.aqdSluice a else s)
      (if (sample tie s c).chipClosed then sample tie s c
        else (sample tie s c).sendMarkers (sample tie s c).nextFallow)).reopenTest := by
    unfold guardOpen
    rw [hc, rampsDown_none (hframe.1.trans hramps)]
    rfl
  rw [hopened, sendMarkers_none hports', ite_self]
  rw [foldl_fixed _ _ _ fun a ha => if_neg fun h => hopen' a (List.mem_range.1 ha) h.1, reopenTest_none hreopens']

/-- Settles O31: the guard confirms the fences and samples the readiness of what is staged. -/
theorem guardOpenSamplesReadiness : Obligations.GuardOpenSamplesReadiness := by
  intro s tie hs hr hi hports hramps hreopens hopen
  obtain ⟨w, hw⟩ := atGuard_eq s 0
  have hguard : guardEvent 0 (guardOpen tie) s = sample tie (s.atGuard 0) (s.atGuard 0).confirmFences := by
    rw [guardEvent_idle hr hi]
    refine guardOpen_eq tie (fun p hp => ?_) ?_ ?_ fun a ha => ?_
    · unfold State.apState; rw [atGuard_get]; exact hports p hp
    · rw [hw]; exact hramps
    · rw [hw]; exact hreopens
    · unfold State.altState; rw [atGuard_get]; exact hopen a ha
  obtain ⟨r, hfences, -⟩ := confirmFences_eq (s.atGuard 0)
  obtain ⟨r', hsample⟩ := sample_rest tie (s.atGuard 0) (s.atGuard 0).confirmFences
  have hstaged : (s.atGuard 0).confirmFences.staged = s.staged := by rw [hfences, hw]
  have hsampled : (sample tie (s.atGuard 0) (s.atGuard 0).confirmFences).staged = (s.atGuard 0).confirmFences.staged.map
      fun (x : Staged) => { x with ready := sampled (s.atGuard 0) (s.atGuard 0).confirmFences x } := by rw [hsample]
  have hu : Untouched s (sample tie (s.atGuard 0) (s.atGuard 0).confirmFences) := by rw [hsample, hfences, hw]; exact ⟨rfl, rfl, rfl⟩
  have hexec : exec (.guardOpen tie) s = .next (sample tie (s.atGuard 0) (s.atGuard 0).confirmFences) := run_next hs hguard hu
  refine ⟨_, hexec, ?clock, ?fences, ?scrubs, ?kept, ?ready, ?margin, ?queues, ?allots, ?sent, hu.rd⟩
  case clock => exact (sample_wck _ _ _).trans (confirmFences_wck _)
  case fences => rw [hsample, hfences]
  case scrubs => rw [hsample, hfences, hw]
  case kept =>
    rw [hsampled, List.map_map, hstaged]
    rfl
  case ready =>
    intro x hx hclaim hrights
    rw [hsampled] at hx
    obtain ⟨y, -, hchange, hat, hready⟩ := mem_sampled hx
    rw [← hready, sampled, unitsReady_free (hchange ▸ ⟨hclaim, hrights⟩), Bool.and_true, hat]
  case margin =>
    rintro rfl ⟨x, hx, hready⟩
    rw [hsampled] at hx
    obtain ⟨y, hy, -, -, hy'⟩ := mem_sampled hx
    have htied : tiedAt true (s.atGuard 0) (s.atGuard 0).confirmFences = true := by
      unfold tiedAt
      rw [List.any_eq_true]
      exact ⟨y, hy, by rw [Bool.true_or, Bool.and_true, hy', hready]⟩
    unfold sample
    dsimp only
    rw [if_pos htied]
    exact State.get_put_self _ _ _ (by decide)
  case queues => rw [hsample, hfences, hw]
  case allots => rw [hsample, hfences, hw]
  case sent => rw [hsample, hfences, hw]

end Sys2Proof.Machine
end

section
/-! PROOFS. The guard after its flush: the rewrites of the scratchpads (R182, R217), the dry check and the route switch (R327 to R329). -/

namespace Sys2Proof.Machine

/-! ## Rewrites -/

/-- Core `c` is at work: no other core and no register but a scrub count may differ. -/
structure CoreAlone (c : Nat) (s t : State) : Prop where
  rest : t = { s with regs := t.regs, cores := t.cores, spmCounts := t.spmCounts }
  other : ∀ d, d ≠ c → t.core d = s.core d

theorem CoreAlone.refl (c : Nat) (s : State) : CoreAlone c s s := ⟨rfl, fun _ _ => rfl⟩

theorem CoreAlone.trans {c : Nat} {s t u : State} (h : CoreAlone c s t) (k : CoreAlone c t u) : CoreAlone c s u :=
  ⟨by rw [k.rest, h.rest], fun d hd => (k.other d hd).trans (h.other d hd)⟩

theorem CoreAlone.setCore (c : Nat) (s : State) (x : Core) : CoreAlone c s (s.setCore c x) :=
  ⟨rfl, fun _ hd => smGet_smSet_ne _ _ _ _ hd⟩

theorem CoreAlone.bumpSpm (c : Nat) (s : State) (f : Fld) (k n : Nat) : CoreAlone c s (s.bumpSpm f k n) := ⟨rfl, fun _ _ => rfl⟩

theorem rewriteLine_alone (s : State) (c l : Nat) : CoreAlone c s (s.rewriteLine c l) := by
  unfold State.rewriteLine
  refine foldl_keeps (CoreAlone.refl c) CoreAlone.trans _ (fun s b _ => ?_) s
  dsimp only
  split
  · exact (CoreAlone.setCore c _ _).trans (CoreAlone.bumpSpm c _ _ _ _)
  · exact CoreAlone.refl c s

/-- A core has nothing to rewrite. -/
def Core.rewritten (x : Core) : Prop := x.rewrite = [] ∧ x.rewriteStore = []

theorem rewriteCore_spec (s : State) (c : Nat) : CoreAlone c s (s.rewriteCore c) ∧ ((s.rewriteCore c).core c).rewritten := by
  refine ⟨(foldl_keeps (CoreAlone.refl c) CoreAlone.trans _ (fun s l _ => rewriteLine_alone s c l) s).trans (CoreAlone.setCore c _ _), ?_⟩
  unfold State.rewriteCore
  dsimp only
  rw [State.core, State.setCore, smGet_smSet_self]
  exact ⟨rfl, rfl⟩

theorem rewriteCores_spec (l : List Nat) (s : State) (h : ∀ d, d ∉ l → (s.core d).rewritten) :
    (∃ r x k, l.foldl State.rewriteCore s = { s with regs := r, cores := x, spmCounts := k }) ∧
      ∀ d, ((l.foldl State.rewriteCore s).core d).rewritten := by
  induction l generalizing s with
  | nil => exact ⟨⟨_, _, _, rfl⟩, fun d => h d List.not_mem_nil⟩
  | cons c l ih =>
    obtain ⟨halone, hself⟩ := rewriteCore_spec s c
    obtain ⟨⟨r, x, k, hrest⟩, hcores⟩ := ih (s.rewriteCore c) fun d hd => by
      by_cases hdc : d = c
      · rw [hdc]; exact hself
      · rw [halone.other d hdc]; exact h d fun hm => (List.mem_cons.1 hm).elim hdc hd
    refine ⟨⟨r, x, k, ?_⟩, hcores⟩
    rw [List.foldl_cons, hrest, halone.rest]

theorem smGet_unlisted {α : Type} (d : α) {m : SMap α} {k : Nat} (h : k ∉ m.map (·.1)) : smGet d m k = d := by
  induction m with
  | nil => rfl
  | cons e m ih =>
    obtain ⟨i, v⟩ := e
    rw [List.map_cons, List.mem_cons, not_or] at h
    exact (if_neg (Ne.symm h.1)).trans (ih h.2)

/-- After the rewrites no core, listed or at reset, has a line or an entry to rewrite. -/
theorem guardRewrite_spec (s : State) : (∃ r x k, guardRewrite s = { s with regs := r, cores := x, spmCounts := k }) ∧
    ∀ d, ((guardRewrite s).core d).rewritten :=
  rewriteCores_spec _ s fun d hd => by
    have hreset : s.core d = Core.reset := smGet_unlisted _ hd
    rw [hreset]
    exact ⟨rfl, rfl⟩

theorem guardRewrite_wck (s : State) : (guardRewrite s).wck = s.wck := by
  obtain ⟨⟨_, _, _, h⟩, -⟩ := guardRewrite_spec s
  rw [h]

/-! ## The fullest router -/

/-- `best` of the first `n` routers, by the count `f`. -/
def fullest (f : Nat → Nat) (n : Nat) : Nat × Nat := (List.range n).foldl (fun (m : Nat × Nat) r => if m.1 < f r then (f r, r) else m) (0, 0)

theorem fullest_succ (f : Nat → Nat) (n : Nat) : fullest f (n + 1) = if (fullest f n).1 < f n then (f n, n) else fullest f n := by
  unfold fullest
  rw [List.range_succ, List.foldl_append]
  rfl

/-- The fullest router is the lowest of the largest count. -/
theorem fullest_spec (f : Nat → Nat) (n : Nat) : (fullest f n).2 ≤ n ∧ (∀ r < n, f r ≤ (fullest f n).1) ∧
    (0 < (fullest f n).1 → f (fullest f n).2 = (fullest f n).1 ∧ (fullest f n).2 < n ∧ ∀ r < (fullest f n).2, f r < (fullest f n).1) := by
  induction n with
  | zero => exact ⟨Nat.le_refl 0, fun r h => absurd h (Nat.not_lt_zero r), fun h => absurd h (Nat.lt_irrefl 0)⟩
  | succ n ih =>
    obtain ⟨hle, hmax, hbest⟩ := ih
    rw [fullest_succ]
    by_cases hmore : (fullest f n).1 < f n
    · rw [if_pos hmore]
      refine ⟨Nat.le_succ n, fun r hr => ?_, fun _ => ⟨rfl, Nat.lt_succ_self n, fun r hr => (hmax r hr).trans_lt hmore⟩⟩
      rcases Nat.lt_succ_iff_lt_or_eq.1 hr with h | rfl
      · exact (hmax r h).trans hmore.le
      · exact Nat.le_refl _
    · rw [if_neg hmore]
      refine ⟨hle.trans (Nat.le_succ n), fun r hr => ?_, fun h => ?_⟩
      · rcases Nat.lt_succ_iff_lt_or_eq.1 hr with h | rfl
        · exact hmax r h
        · exact Nat.not_lt.1 hmore
      · obtain ⟨heq, hlt, hlow⟩ := hbest h
        exact ⟨heq, hlt.trans (Nat.lt_succ_self n), hlow⟩

theorem noteRoutes_eq (s : State) : s.noteRoutes =
    (s.put F.CAN_ROUTERS_PEAK (fullest (s.programUse.count ·) 144).1).put F.CAN_ROUTERS_ROUTER (fullest (s.programUse.count ·) 144).2 := rfl

theorem noteRoutes_get (s : State) (h : ∀ r < 144, s.programUse.count r ≤ 256) :
    s.noteRoutes.get F.CAN_ROUTERS_PEAK = (fullest (s.programUse.count ·) 144).1 ∧
      s.noteRoutes.get F.CAN_ROUTERS_ROUTER = (fullest (s.programUse.count ·) 144).2 := by
  obtain ⟨hle, -, hbest⟩ := fullest_spec (s.programUse.count ·) 144
  have hpeak : (fullest (s.programUse.count ·) 144).1 ≤ 256 := by
    rcases Nat.eq_zero_or_pos (fullest (s.programUse.count ·) 144).1 with h0 | hpos
    · omega
    · obtain ⟨heq, hlt, -⟩ := hbest hpos
      exact heq ▸ h _ hlt
  rw [noteRoutes_eq]
  constructor
  · rw [State.get_put_beside _ _ _ _ (by decide) (by decide), State.get_put_self _ _ _ (by decide)]
    exact Nat.mod_eq_of_lt (hpeak.trans_lt (by decide))
  · rw [State.get_put_self _ _ _ (by decide)]
    exact Nat.mod_eq_of_lt (hle.trans_lt (by decide))

theorem noteRoutes_spec (s : State) (h : ∀ r < 144, s.programUse.count r ≤ 256) :
    (∀ r < 144, s.programUse.count r ≤ s.noteRoutes.get F.CAN_ROUTERS_PEAK) ∧ ((∃ r < 144, 0 < s.programUse.count r) →
      s.programUse.count (s.noteRoutes.get F.CAN_ROUTERS_ROUTER) = s.noteRoutes.get F.CAN_ROUTERS_PEAK ∧
      ∀ r, r < s.noteRoutes.get F.CAN_ROUTERS_ROUTER → s.programUse.count r < s.noteRoutes.get F.CAN_ROUTERS_PEAK) := by
  obtain ⟨-, hmax, hbest⟩ := fullest_spec (s.programUse.count ·) 144
  obtain ⟨hpeak, hrouter⟩ := noteRoutes_get s h
  rw [hpeak, hrouter]
  refine ⟨hmax, fun hsome => ?_⟩
  obtain ⟨r, hr, hpos⟩ := hsome
  obtain ⟨heq, -, hlow⟩ := hbest (hpos.trans_le (hmax r hr))
  exact ⟨heq, hlow⟩

theorem noteRoutes_frame (s : State) : ∃ x, s.noteRoutes = { s with regs := x } ∧ ∀ r, r ≠ 0xB0000 → smGet (regReset r) x r = s.reg r :=
  ⟨_, rfl, fun _ h => (State.reg_put_ne _ F.CAN_ROUTERS_ROUTER _ h).trans (State.reg_put_ne _ F.CAN_ROUTERS_PEAK _ h)⟩

/-! ## O34 -/

theorem dryCheck_dry {s : State} (h : ∀ a < 16, s.wetRoutes a = []) : s.dryCheck = s :=
  foldl_fixed _ _ _ fun a ha => by
    dsimp only
    rw [h a (List.mem_range.1 ha)]
    rfl

theorem exec_guardStill {s : State} (hs : s.stores = []) (hr : s.wck.running = false) {g : Nat} {f : State → State} :
    run s (guardEvent g f) = .next s := run_same hs (guardEvent_still hr f)

theorem exec_routeSwitch {s v : State} {l : List (Nat × Nat × Bool)} (hs : s.stores = []) (hv : ∃ w, v = { s with wck := w })
    (hev : guardEvent 4095 (fun s => s.switchRoutes s.nextFallow) s = State.noteRoutes { v with routesNow := l }) :
    let use := State.programUse { v with routesNow := l }
    ∃ t, exec .routeSwitch s = .next t ∧ t.routesNow = l ∧ ((∀ r < 144, use.count r ≤ 256) →
        (∀ r < 144, use.count r ≤ t.get F.CAN_ROUTERS_PEAK) ∧ ((∃ r < 144, 0 < use.count r) →
          use.count (t.get F.CAN_ROUTERS_ROUTER) = t.get F.CAN_ROUTERS_PEAK ∧
          ∀ r, r < t.get F.CAN_ROUTERS_ROUTER → use.count r < t.get F.CAN_ROUTERS_PEAK)) ∧
      (∀ r, r ≠ 0xB0000 → t.reg r = s.reg r) ∧ t = { s with regs := t.regs, wck := t.wck, routesNow := l } ∧ ∀ x, t.rd x = s.rd x := by
  obtain ⟨w, rfl⟩ := hv
  obtain ⟨x, hx, hregs⟩ := noteRoutes_frame { s with wck := w, routesNow := l }
  have hnote := noteRoutes_spec { s with wck := w, routesNow := l }
  rw [hx] at hev hnote
  have hu : Untouched s { s with wck := w, routesNow := l, regs := x } := ⟨rfl, rfl, rfl⟩
  have hexec : exec .routeSwitch s = .next { s with wck := w, routesNow := l, regs := x } := run_next hs hev hu
  exact ⟨_, hexec, rfl, hnote, hregs, rfl, hu.rd⟩

/-- Settles O34: each event of the guard after the flush, on cores that stand. -/
theorem guardRewritesDryCheckRouteSwitch : Obligations.GuardRewritesDryCheckRouteSwitch := by
  intro s hs
  refine ⟨fun hr hi => ⟨?rewrite, fun hdry => ?dry, ?route⟩, fun hr => ?still⟩
  case rewrite =>
    obtain ⟨⟨r, x, k, hrest⟩, hcores⟩ := guardRewrite_spec (s.atGuard 3072)
    obtain ⟨w, hw⟩ := atGuard_eq s 3072
    have hwck : (guardRewrite (s.atGuard 3072)).wck = (s.atGuard 3072).wck := guardRewrite_wck _
    have hev := guardEvent_idle hr hi guardRewrite (g := 3072)
    generalize guardRewrite (s.atGuard 3072) = t at *
    have ht : t = { s with regs := t.regs, cores := t.cores, spmCounts := t.spmCounts, wck := t.wck } := by rw [hrest, hw]
    have hu : Untouched s t := by rw [ht]; exact ⟨rfl, rfl, rfl⟩
    have hexec : exec .spmGuardRewrite s = .next t := run_next hs hev hu
    exact ⟨t, hexec, hcores, hwck, ht, hu.rd⟩
  case dry => exact run_next hs ((guardEvent_idle hr hi _).trans (dryCheck_dry hdry)) (Untouched.refl s).atGuard
  case route =>
    exact exec_routeSwitch hs (atGuard_eq s 4095) (guardEvent_idle hr hi _)
  case still =>
    intro c hc
    simp only [List.mem_cons, List.not_mem_nil, or_false] at hc
    rcases hc with rfl | rfl | rfl | rfl | rfl | rfl | rfl <;> exact exec_guardStill hs hr

end Sys2Proof.Machine
end

section
/-! PROOFS. The bank swap (R139, R177, R181) and the flush of the tally queues (R98, R99, R104, R460). -/

namespace Sys2Proof.Machine

/-! ## The clock brought forward within its turn -/

theorem advanceTo_turn (s : State) (c : Nat) : (s.advanceTo c).wck.turn = s.wck.turn := by
  unfold State.advanceTo State.addCycles
  dsimp only
  split
  · split <;> rfl
  · rfl

theorem toLagoon_eq (s : State) (l : Nat) : ∃ w, s.toLagoon l = { s with wck := w } := by
  unfold State.toLagoon
  dsimp only
  split
  · split
    · exact advanceTo_eq s _
    · split
      · exact advanceTo_eq s _
      · exact addCycles_eq s _
  · exact ⟨_, rfl⟩

/-- A fold in which one element alone has an effect. -/
theorem foldl_only {α β : Type} {f : α → β → α} {s t : α} {l : List β} {x : β} (hx : x ∈ l) (hl : l.Nodup)
    (hbefore : ∀ y ∈ l, y ≠ x → f s y = s) (hat : f s x = t) (hafter : ∀ y ∈ l, y ≠ x → f t y = t) : l.foldl f s = t := by
  obtain ⟨l₁, l₂, rfl⟩ := List.append_of_mem hx
  rw [List.nodup_append, List.nodup_cons] at hl
  obtain ⟨-, ⟨hx₂, -⟩, hx₁⟩ := hl
  rw [List.foldl_append, List.foldl_cons,
    foldl_fixed f s l₁ fun y hy => hbefore y (List.mem_append_left _ hy) (hx₁ y hy x List.mem_cons_self), hat]
  exact foldl_fixed f t l₂ fun y hy => hafter y (List.mem_append_right _ (List.mem_cons_of_mem _ hy)) fun h => hx₂ (h ▸ hy)

/-! ## The swap -/

/-- Only cores and their registers may differ. -/
structure CoresOnly (s t : State) : Prop where
  rest : t = { s with regs := t.regs, cores := t.cores }
  reg : ∀ r, r < 0x50000 → t.reg r = s.reg r

theorem CoresOnly.refl (s : State) : CoresOnly s s := ⟨rfl, fun _ _ => rfl⟩

theorem CoresOnly.trans {s t u : State} (h : CoresOnly s t) (k : CoresOnly t u) : CoresOnly s u :=
  ⟨by rw [k.rest, h.rest], fun r hr => (k.reg r hr).trans (h.reg r hr)⟩

theorem CoresOnly.setCore {s t : State} (h : CoresOnly s t) (c : Nat) (x : Core) : CoresOnly s (t.setCore c x) :=
  ⟨congrArg (State.setCore · c x) h.rest, h.reg⟩

theorem CoresOnly.put {s t : State} (h : CoresOnly s t) {f : Fld} (hf : 0x50000 ≤ f.reg) (v : Nat) : CoresOnly s (t.put f v) :=
  ⟨congrArg (State.put · f v) h.rest, fun r hr => (State.reg_put_ne t f v (by omega)).trans (h.reg r hr)⟩

theorem CoresOnly.setReg {s t : State} (h : CoresOnly s t) {o : Nat} (ho : 0x50000 ≤ o) (v : BitVec 64) : CoresOnly s (t.setReg o v) :=
  ⟨congrArg (State.setReg · o v) h.rest, fun r hr => (smGet_smSet_ne _ _ _ _ (by omega)).trans (h.reg r hr)⟩

theorem coreState_ge (c : Nat) : 0x50000 ≤ 0x51000 + 0x10 * c := by omega

theorem swapBank_only (s : State) (c : Nat) : CoresOnly s (s.swapBank c) :=
  (((CoresOnly.refl s).setCore c _).put (coreState_ge c) _).put (coreState_ge c) _

theorem freshCore_only (s : State) (a c : Nat) (p : Plan) : CoresOnly s (s.freshCore a c p) :=
  (((CoresOnly.refl s).setCore c _).setCore c _).setReg (by omega) _

theorem noteWindow_only (s : State) (c : Nat) : CoresOnly s (s.noteWindow c) :=
  (((CoresOnly.refl s).put (coreState_ge c) _).put (coreState_ge c) _).put (coreState_ge c) _

theorem rewind_only (s : State) (fallow : Bool) : CoresOnly s (s.rewind fallow) := by
  refine foldl_keeps CoresOnly.refl CoresOnly.trans _ (fun s a _ => ?_) s
  split
  · exact foldl_keeps CoresOnly.refl CoresOnly.trans _ (fun s c _ => ((CoresOnly.refl s).setCore c _).trans (noteWindow_only _ c)) s
  · exact CoresOnly.refl s

/-- With nothing running no core is rewound. -/
theorem rewind_none {s : State} (h : ∀ a < 16, s.altState a ≠ 4) (fallow : Bool) : s.rewind fallow = s :=
  foldl_fixed _ _ _ fun a ha => by
    have hnone : s.comesNext fallow a = none := if_pos (by simp [h a (List.mem_range.1 ha)])
    dsimp only
    rw [hnone]

/-- The plan `p` of allotment `a` begins, as the run of order `m`. -/
structure Begins (s t : State) (a : Nat) (p : Plan) (m : Armed) : Prop where
  rest : t = { s with regs := t.regs, cores := t.cores, allots := t.allots }
  running : t.altState a = 4
  own : (t.allot a).armed = none ∧ (t.allot a).runOrd = some m.ord ∧ (t.allot a).active = some p ∧ (t.allot a).standby = none ∧
    (t.allot a).executed = 0
  other : ∀ b, b ≠ a → t.allot b = s.allot b
  reg : ∀ r, r < 0x50000 → r ≠ 0x40100 + 0x100 * a → t.reg r = s.reg r

theorem Begins.wck {s t : State} {a : Nat} {p : Plan} {m : Armed} (h : Begins s t a p m) : t.wck = s.wck := by
  rw [h.rest]

theorem swapAllot_begins {s : State} {a : Nat} {p : Plan} {m : Armed} (hstops : (s.allot a).stops = []) (harmed : (s.allot a).armed = some m)
    (hnow : turnsAhead s.nextNumber m.t0 = some 0) (hrun : (s.allot a).runOrd = none) (hstandby : (s.allot a).standby = some p) :
    Begins s (s.swapAllot a) a p m := by
  have hfirst : (s.allot a).stopsFirst m s.nextNumber = false := by
    unfold Allot.stopsFirst
    rw [hstops]
    rfl
  obtain ⟨hz, hzreg⟩ := foldl_keeps CoresOnly.refl CoresOnly.trans (s.coresOf a) (fun s c _ => swapBank_only s c) s
  have hfresh := foldl_keeps CoresOnly.refl CoresOnly.trans (s.coresOf a) (fun t c _ => freshCore_only t a c p)
  unfold State.swapAllot
  simp only [harmed, hnow, hfirst, hrun, hstandby, Option.getD_some, Option.isSome_some, Nat.lt_irrefl, if_true, if_false, Bool.false_eq_true]
  generalize (s.coresOf a).foldl State.swapBank s = z at *
  generalize hy : z.setAllot a { z.allot a with
    active := some p, standby := none, armed := none, runOrd := some m.ord, executed := 0, partialPoison := none, txs := [] } = y
  obtain ⟨hw, hwreg⟩ := hfresh y
  generalize (s.coresOf a).foldl (fun s c => s.freshCore a c p) y = w at *
  have hwallot : ∀ b, w.allot b = y.allot b := fun b => by rw [hw]; rfl
  have hyreg : ∀ r, y.reg r = z.reg r := fun r => by rw [← hy]; rfl
  refine ⟨?_, State.get_put_self _ (F.ALT_STATE_STATE a) 4 (Nat.le_of_ble_eq_true rfl), ?_, fun b hb => ?_, fun r h1 h2 => ?_⟩
  · rw [hw, ← hy, hz]; rfl
  · rw [State.allot_put, hwallot, ← hy, State.allot_setAllot_self]
    exact ⟨rfl, rfl, rfl, rfl, rfl⟩
  · rw [State.allot_put, hwallot, ← hy, State.allot_setAllot_ne _ _ hb, hz]; rfl
  · exact (State.reg_put_ne _ (F.ALT_STATE_STATE a) _ h2).trans ((hwreg r h1).trans ((hyreg r).trans (hzreg r h1)))

/-- Where one allotment alone is armed or running, the swap is its own and the rewind of the cores. -/
theorem bankSwap_begins {s : State} {a : Nat} {p : Plan} {m : Armed} (ha : a < 16) (hstate : s.altState a = 3)
    (hothers : ∀ b < 16, b ≠ a → s.altState b ≠ 3 ∧ s.altState b ≠ 4) (hstops : (s.allot a).stops = [])
    (harmed : (s.allot a).armed = some m) (hnow : turnsAhead s.nextNumber m.t0 = some 0) (hrun : (s.allot a).runOrd = none)
    (hstandby : (s.allot a).standby = some p) : Begins s (bankSwap s) a p m := by
  obtain ⟨hrest, hrunning, hown, hother, hreg⟩ := swapAllot_begins hstops harmed hnow hrun hstandby
  have hswap : (List.range 16).foldl (fun s a => if s.altState a = 3 ∨ s.altState a = 4 then s.swapAllot a else s) s = s.swapAllot a := by
    refine foldl_only (List.mem_range.2 ha) List.nodup_range (fun b hb hne => ?_) (if_pos (.inl hstate)) fun b hb hne => ?_
    · obtain ⟨h3, h4⟩ := hothers b (List.mem_range.1 hb) hne
      exact if_neg (not_or.2 ⟨h3, h4⟩)
    · obtain ⟨h3, h4⟩ := hothers b (List.mem_range.1 hb) hne
      have hb16 := List.mem_range.1 hb
      have hsame : (s.swapAllot a).altState b = s.altState b :=
        get_of_reg (hreg _ (show 0x40100 + 0x100 * b < 0x50000 by omega) (show 0x40100 + 0x100 * b ≠ 0x40100 + 0x100 * a by omega))
      exact if_neg (by rw [hsame]; exact not_or.2 ⟨h3, h4⟩)
  unfold bankSwap
  rw [hswap]
  obtain ⟨hwrest, hwreg⟩ := rewind_only (s.swapAllot a) (s.swapAllot a).nextFallow
  generalize (s.swapAllot a).rewind (s.swapAllot a).nextFallow = w at *
  generalize s.swapAllot a = t at *
  have hallot : ∀ b, w.allot b = t.allot b := fun b => by rw [hwrest]; rfl
  refine ⟨?_, (get_of_reg (hwreg _ (show 0x40100 + 0x100 * a < 0x50000 by omega))).trans hrunning, ?_, fun b hb => (hallot b).trans (hother b hb),
    fun r h1 h2 => (hwreg r h1).trans (hreg r h1 h2)⟩
  · rw [hwrest, hrest]
  · rw [hallot]; exact hown

/-- Where nothing is armed or running the swap does nothing. -/
theorem bankSwap_idle {s : State} (h : ∀ a < 16, s.altState a ≠ 3 ∧ s.altState a ≠ 4) : bankSwap s = s := by
  have hswap : (List.range 16).foldl (fun s a => if s.altState a = 3 ∨ s.altState a = 4 then s.swapAllot a else s) s = s :=
    foldl_fixed _ _ _ fun a ha => if_neg (not_or.2 (h a (List.mem_range.1 ha)))
  unfold bankSwap
  rw [hswap]
  exact rewind_none (fun a ha => (h a ha).2) _

/-! ## The flush -/

/-- A queue that is not closing is not reaped. -/
theorem reapQueue_open {s : State} {q : Nat} (h : (s.queue q).closing = false) : s.reapQueue q = s :=
  if_neg fun hc => Bool.false_ne_true (h.symm.trans hc.1)

theorem flushQueue_empty {s : State} {q : Nat} (hout : (s.queue q).out = []) (hopen : (s.queue q).closing = false) : s.flushQueue q = s := by
  unfold State.flushQueue
  split
  · rfl
  · exact reapQueue_open hopen

/-- The write of a tally into the ring slot of the written count. -/
def State.ringWrite (s : State) (q : Nat) (y : Tally) : Sent := .hostWrite (s.fnOf q)
  (s.get (F.DR_TBASE_BASE q) * 64 + 32 * ((s.queue q).written % 2 ^ s.get (F.DR_QSIZE_TALLY_LOG2 q)))
  (y.encode q (1 - (s.queue q).written / 2 ^ s.get (F.DR_QSIZE_TALLY_LOG2 q) % 2)) false

theorem flushOne_eq {s : State} {q : Nat} {y : Tally} {l : List Tally} (h : (s.queue q).out = y :: l) :
    s.flushOne q = (s.emit (s.ringWrite q y)).setQueue q { s.queue q with out := l, written := (s.queue q).written + 1 } := by
  unfold State.flushOne
  dsimp only
  rw [h]
  rfl

/-- Queue `q` has written its one tally `y`. -/
structure Flushed (s t : State) (q : Nat) (y : Tally) : Prop where
  rest : t = { s with regs := t.regs, queues := t.queues, sent := t.sent }
  out : (t.queue q).out = []
  written : (t.queue q).written = (s.queue q).written + 1
  other : ∀ r, r ≠ q → t.queue r = s.queue r
  opens : (t.queue q).closing = (s.queue q).closing
  sent : t.sent = s.sent ++ [s.ringWrite q y, .msix (s.fnOf q) (s.get (F.DR_QSIZE_VECTOR q))]

theorem fnOf_congr {s t : State} {q : Nat} (hreg : t.regs = s.regs) (hbound : (t.queue q).bound = (s.queue q).bound) : t.fnOf q = s.fnOf q := by
  unfold State.fnOf State.get
  rw [hbound, reg_congr hreg]

/-- Where a queue has one tally due and its ring has room, the flush writes it and raises the vector. -/
theorem flushQueue_one {s : State} {q : Nat} {y : Tally} (hlive : s.queueLive q = true) (hdrain : q = 0 → s.get (F.DR_QSTAT_STATE 0) ≠ 3)
    (hopen : (s.queue q).closing = false) (hroom : 0 < s.ringRoom q) (hout : (s.queue q).out = [y]) : Flushed s (s.flushQueue q) q y := by
  have hmay : s.mayFlush q = true := by unfold State.mayFlush; rw [hlive]; rfl
  have hdue : s.dueTallies q = ([y], []) := by
    unfold State.dueTallies
    dsimp only
    rw [if_neg fun h => hdrain h.1 h.2, hout]
  have hn : min 1 (s.ringRoom q) = 1 := by omega
  unfold State.flushQueue
  rw [hmay, hdue]
  simp only [hout, Bool.not_true, Bool.false_eq_true, if_false, List.cons_ne_nil, List.length_singleton, hn, Nat.zero_lt_one, if_true,
    List.append_nil, List.range_one, List.foldl_cons, List.foldl_nil]
  generalize hv : s.setQueue q { s.queue q with out := [y], before := (s.queue q).before - 1 } = v
  have hvq : v.queue q = { s.queue q with out := [y], before := (s.queue q).before - 1 } := by rw [← hv, State.queue_setQueue_self]
  have hfn : v.fnOf q = s.fnOf q := fnOf_congr (by rw [← hv]; rfl) (by rw [hvq])
  have hwrite : v.ringWrite q y = s.ringWrite q y := by
    unfold State.ringWrite
    rw [hfn, hvq, ← hv]
    rfl
  have hone := flushOne_eq (l := []) (by rw [hvq] : (v.queue q).out = [y])
  rw [hwrite] at hone
  have hzq : (v.flushOne q).queue q = { v.queue q with out := [], written := (v.queue q).written + 1 } := by
    rw [hone, State.queue_setQueue_self]
  have hzfn : (v.flushOne q).fnOf q = s.fnOf q := (fnOf_congr (by rw [hone]; rfl) (by rw [hzq])).trans hfn
  have hzget : ∀ f, (v.flushOne q).get f = s.get f := fun f => by rw [hone, ← hv]; rfl
  have hother : ∀ r, r ≠ q → (v.flushOne q).queue r = s.queue r := fun r hr => by
    rw [hone, State.queue_setQueue_ne _ _ hr, State.queue_emit, ← hv, State.queue_setQueue_ne _ _ hr]
  have hsent : (v.flushOne q).sent = s.sent ++ [s.ringWrite q y] := by rw [hone, ← hv]; rfl
  have hrest : v.flushOne q = { s with queues := (v.flushOne q).queues, sent := (v.flushOne q).sent } := by rw [hone, ← hv]; rfl
  rw [hvq] at hzq
  generalize v.flushOne q = z at *
  rw [hzfn, hzget, reapQueue_open (by rw [State.queue_put, State.queue_emit, hzq]; exact hopen)]
  refine ⟨?_, ?_, ?_, hother, ?_, ?_⟩
  · rw [hrest]; rfl
  · rw [State.queue_put, State.queue_emit, hzq]
  · rw [State.queue_put, State.queue_emit, hzq]
  · rw [State.queue_put, State.queue_emit, hzq]
  · show z.sent ++ _ = _
    rw [hsent, List.append_assoc]
    rfl

/-- Queue `q` alone has a tally to write, `y`, once the orders that meet their first flush are marked. -/
structure Holds (s v : State) (q : Nat) (y : Tally) : Prop where
  rest : v = { s with queues := v.queues, inflight := v.inflight }
  own : v.queue q = { s.queue q with out := [y] }
  other : ∀ r, r ≠ q → v.queue r = s.queue r
  marked : ∀ o ∈ v.inflight, o.acc = true

/-- Every order in flight has met a flush. -/
def State.met (s : State) : State := { s with inflight := s.inflight.map fun o => { o with acc := true } }

theorem met_marked {s : State} {o : Ord} (h : o ∈ s.met.inflight) : o.acc = true := by
  obtain ⟨x, -, rfl⟩ := List.mem_map.1 h
  rfl

/-- A held tally, and no order that is to be reported ACCEPTED. -/
theorem noteAccepted_held {s : State} {q : Nat} {y : Tally} (hout : (s.queue q).out = [y])
    (h : ∀ o ∈ s.inflight, o.acc = true ∨ o.rspAlways = false) : Holds s s.noteAccepted q y := by
  have hmet : s.noteAccepted = s.met := by
    refine foldl_fixed _ _ _ fun o ho => ?_
    obtain ⟨hmem, hacc⟩ := List.mem_filter.1 ho
    rcases h o hmem with hyes | hno
    · rw [hyes] at hacc; exact absurd hacc Bool.false_ne_true
    · exact if_neg (by rw [hno]; exact Bool.false_ne_true)
  rw [hmet]
  refine ⟨rfl, ?_, fun _ _ => rfl, fun _ => met_marked⟩
  show s.queue q = { s.queue q with out := [y] }
  rw [← hout]

/-- One order that is reported ACCEPTED, and no tally held. -/
theorem noteAccepted_one {s : State} {o : Ord} (hout : (s.queue o.q).out = []) (hin : s.inflight = [o]) (hacc : o.acc = false)
    (hrsp : o.rspAlways = true) :
    Holds s s.noteAccepted o.q { o.tally stAccepted 0 0 false false with cycle := s.wck.cycle, turn := s.wck.turn } := by
  have hpush : s.noteAccepted = s.met.pushTally o.q (o.tally stAccepted 0 0 false false) := by
    unfold State.noteAccepted
    dsimp only
    rw [hin, List.filter_cons_of_pos (by rw [hacc]; rfl), List.filter_nil, List.foldl_cons, List.foldl_nil, if_pos hrsp, ← hin]
    rfl
  rw [hpush]
  refine ⟨rfl, ?_, fun r hr => queue_pushTally_ne _ _ hr, fun _ => met_marked⟩
  have hempty : (s.met.queue o.q).out = [] := hout
  rw [queue_pushTally, hempty]
  rfl

/-- What the flush of every queue leaves where queue `q` alone had a tally to write. -/
structure FlushedAll (s t : State) (q : Nat) (y : Tally) : Prop where
  rest : t = { s with regs := t.regs, queues := t.queues, inflight := t.inflight, sent := t.sent }
  out : (t.queue q).out = []
  written : (t.queue q).written = (s.queue q).written + 1
  other : ∀ r, r ≠ q → t.queue r = s.queue r
  marked : ∀ o ∈ t.inflight, o.acc = true
  sent : t.sent = s.sent ++ [s.ringWrite q y, .msix (s.fnOf q) (s.get (F.DR_QSIZE_VECTOR q))]

theorem flushAll_one {s : State} {q : Nat} {y : Tally} (hq : q < 64) (hdrain : q = 0 → s.get (F.DR_QSTAT_STATE 0) ≠ 3)
    (hledger : ∀ a < 16, (s.allot a).ledgerDue = false) (hempty : ∀ r, r ≠ q → (s.queue r).out = []) (hopen : ∀ r, (s.queue r).closing = false)
    (hlive : s.queueLive q = true) (hroom : 0 < s.ringRoom q) (hheld : Holds s s.noteAccepted q y) : FlushedAll s s.flushAll q y := by
  obtain ⟨hrest, hown, hother, hmarked⟩ := hheld
  unfold State.flushAll
  dsimp only
  generalize s.noteAccepted = v at *
  have hget : ∀ f, v.get f = s.get f := fun f => by rw [hrest]; rfl
  have hvroom : v.ringRoom q = s.ringRoom q := by unfold State.ringRoom; rw [hown, hget]
  have hflushed : Flushed v (v.flushQueue q) q y := flushQueue_one (by unfold State.queueLive State.on; rw [hget]; exact hlive)
    (by rw [hget]; exact hdrain) (by rw [hown]; exact hopen q) (by rw [hvroom]; exact hroom) (by rw [hown])
  obtain ⟨htrest, htout, htwritten, htother, htopens, htsent⟩ := hflushed
  have hfold : (List.range 64).foldl State.flushQueue v = v.flushQueue q := by
    refine foldl_only (List.mem_range.2 hq) List.nodup_range (fun r _ hr => ?_) rfl fun r _ hr => ?_
    · exact flushQueue_empty (by rw [hother r hr]; exact hempty r hr) (by rw [hother r hr]; exact hopen r)
    · have hsame := (htother r hr).trans (hother r hr)
      exact flushQueue_empty (by rw [hsame]; exact hempty r hr) (by rw [hsame]; exact hopen r)
  rw [hfold]
  have hvfn : v.fnOf q = s.fnOf q := fnOf_congr (by rw [hrest]) (by rw [hown])
  have hwrite : v.ringWrite q y = s.ringWrite q y := by unfold State.ringWrite; rw [hvfn, hget, hget, hown]
  rw [hvfn, hget, hwrite] at htsent
  generalize v.flushQueue q = t at *
  have hallot : ∀ a, t.allot a = s.allot a := fun a => by rw [htrest, hrest]; rfl
  rw [foldl_fixed _ _ _ fun a ha => if_neg (by rw [hallot, hledger a (List.mem_range.1 ha)]; exact Bool.false_ne_true)]
  refine ⟨?_, htout, ?_, fun r hr => (htother r hr).trans (hother r hr), ?_, ?_⟩
  · rw [htrest, hrest]
  · rw [htwritten, hown]
  · rw [htrest]; exact hmarked
  · rw [htsent, hrest]

/-- A command that flushes the queues in the state `w`, which differs from the one before it in the clock and the instants of the chip's sluice. -/
theorem exec_flushes {s w : State} {i : Instr} {c : Wck} {n : Nat} (hw : w = { s with wck := c, chipSince := n })
    (hexec : ∀ t, Untouched s t → w.flushAll = t → exec i s = .next t) {q : Nat} {y : Tally} (hq : q < 64)
    (hdrain : q = 0 → s.get (F.DR_QSTAT_STATE 0) ≠ 3) (hledger : ∀ a < 16, (s.allot a).ledgerDue = false)
    (hempty : ∀ r, r ≠ q → (s.queue r).out = []) (hopen : ∀ r, (s.queue r).closing = false) (hlive : s.queueLive q = true)
    (hroom : 0 < s.ringRoom q)
    (hdue : ((s.queue q).out = [y] ∧ ∀ o ∈ s.inflight, o.acc = true ∨ o.rspAlways = false) ∨
      ((s.queue q).out = [] ∧ ∃ o, s.inflight = [o] ∧ o.q = q ∧ o.acc = false ∧ o.rspAlways = true ∧
        y = { o.tally stAccepted 0 0 false false with cycle := w.wck.cycle, turn := w.wck.turn })) :
    ∃ t, exec i s = .next t ∧ (t.queue q).out = [] ∧ (t.queue q).written = (s.queue q).written + 1 ∧
      (∀ r, r ≠ q → t.queue r = s.queue r) ∧ (∀ o ∈ t.inflight, o.acc = true) ∧
      t.sent = s.sent ++ [s.ringWrite q y, .msix (s.fnOf q) (s.get (F.DR_QSIZE_VECTOR q))] ∧ t.wck = w.wck ∧ ∀ x, t.rd x = s.rd x := by
  subst hw
  have hheld : Holds { s with wck := c, chipSince := n } (State.noteAccepted { s with wck := c, chipSince := n }) q y := by
    rcases hdue with ⟨hout, hacc⟩ | ⟨hout, o, hin, rfl, hacc, hrsp, rfl⟩
    · exact noteAccepted_held hout hacc
    · exact noteAccepted_one hout hin hacc hrsp
  obtain ⟨hrest, hout, hwritten, hother, hmarked, hsent⟩ :=
    flushAll_one (s := { s with wck := c, chipSince := n }) hq hdrain hledger hempty hopen hlive hroom hheld
  generalize State.flushAll { s with wck := c, chipSince := n } = t at *
  have hu : Untouched s t := by rw [hrest]; exact ⟨rfl, rfl, rfl⟩
  exact ⟨t, hexec t hu rfl, hout, hwritten, hother, hmarked, hsent, by rw [hrest], hu.rd⟩

/-- On a closed chip whose Ditch Rider runs, the flush of R460 is that of its next instant. -/
theorem chipFlush_closed {s : State} (hclosed : s.chipClosed = true) (hhalt : s.on F.SLU_STATUS_WALKER_HALT = false) :
    chipFlush s = s.atLagoon (s.chipSince + 65536 * max 1 ((s.wck.lagoon - s.chipSince + 32768) / 65536)) fun u =>
      State.flushAll { u with chipSince := s.chipSince + 65536 * max 1 ((s.wck.lagoon - s.chipSince + 32768) / 65536) } :=
  if_neg (by rw [hclosed, hhalt]; decide)

/-- Settles O33: the swap starts the armed plan, the flush writes the one tally that is due. -/
theorem swapStartsArmedPlanAndFlushWritesTallies : Obligations.SwapStartsArmedPlanAndFlushWritesTallies := by
  intro s hs
  refine ⟨fun hr hi a m p ha hstate hothers hstops harmed hnow hrun hstandby => ?swap, fun hr hi hidle => ?idle, fun hr hi hopen => ?flush,
    fun hclosed => ⟨fun hreach => ?chipFlush, fun hbeyond => ?beyond⟩, fun hopen => ?opened⟩
  case swap =>
    obtain ⟨w, hw⟩ := atGuard_eq s 1024
    have hnext : (s.atGuard 1024).nextNumber = s.nextNumber := by
      unfold State.nextNumber State.atGuard
      rw [advanceTo_turn]
    have hstates : ∀ b, (s.atGuard 1024).altState b = s.altState b := fun b => atGuard_get s 1024 _
    have hev := guardEvent_idle hr hi bankSwap (g := 1024)
    have hallot : ∀ b, (s.atGuard 1024).allot b = s.allot b := fun b => by rw [hw]; rfl
    generalize s.atGuard 1024 = v at *
    have hbegins := bankSwap_begins ha ((hstates a).trans hstate) (fun b hb hne => by rw [hstates]; exact hothers b hb hne)
      (by rw [hallot]; exact hstops) (by rw [hallot]; exact harmed) (by rw [hnext]; exact hnow) (by rw [hallot]; exact hrun)
      (by rw [hallot]; exact hstandby)
    have hwck := hbegins.wck
    obtain ⟨hrest, hrunning, hown, hother, -⟩ := hbegins
    obtain ⟨harm, hord, hactive, hstand, hexecuted⟩ := hown
    generalize bankSwap v = t at *
    have hu : Untouched s t := by rw [hrest, hw]; exact ⟨rfl, rfl, rfl⟩
    have hexec : exec .bankSwap s = .next t := run_next hs hev hu
    exact ⟨t, hexec, hrunning, harm, hord, hactive, hstand, hexecuted, fun b hb => (hother b hb).trans (hallot b),
      by rw [hrest, hw], by rw [hrest, hw], hwck, hu.rd⟩
  case idle =>
    have hstates : ∀ a < 16, (s.atGuard 1024).altState a ≠ 3 ∧ (s.atGuard 1024).altState a ≠ 4 := fun a ha => by
      unfold State.altState
      rw [atGuard_get]
      exact hidle a ha
    exact run_next hs ((guardEvent_idle hr hi _).trans (bankSwap_idle hstates)) (Untouched.refl s).atGuard
  case flush =>
    intro q y hq hdrain hhalt hledger hempty hclosing hlive hroom hdue
    obtain ⟨c, hw⟩ := atGuard_eq s 2048
    have hgo : ((s.atGuard 2048).chipClosed || (s.atGuard 2048).on F.SLU_STATUS_WALKER_HALT) = false := by
      unfold State.chipClosed State.on at *
      rw [atGuard_get, atGuard_get, hopen, hhalt]
      rfl
    have hev := guardEvent_idle hr hi (fun s => if s.chipClosed || s.on F.SLU_STATUS_WALKER_HALT then s else s.flushAll) (g := 2048)
    rw [hgo, if_neg Bool.false_ne_true] at hev
    generalize s.atGuard 2048 = w at *
    exact exec_flushes (i := .tallyFlush) hw (fun t hu ht => run_next hs (hev.trans ht) hu) hq hdrain hledger hempty hclosing hlive hroom hdue
  case chipFlush =>
    intro q y hq hdrain hhalt hledger hempty hclosing hlive hroom hdue
    obtain ⟨c, hw⟩ := toLagoon_eq s (s.chipSince + 65536 * max 1 ((s.wck.lagoon - s.chipSince + 32768) / 65536))
    have hev := (chipFlush_closed hclosed hhalt).trans (State.atLagoon_of_reaches hreach)
    generalize s.chipSince + 65536 * max 1 ((s.wck.lagoon - s.chipSince + 32768) / 65536) = n at *
    generalize s.toLagoon n = w at *
    exact exec_flushes (i := .chipSluiceFlush) (w := { w with chipSince := n }) (by rw [hw]) (fun t hu ht => run_next hs (hev.trans ht) hu)
      hq hdrain hledger hempty hclosing hlive hroom hdue
  case beyond =>
    refine run_same hs ?_
    by_cases hhalt : s.on F.SLU_STATUS_WALKER_HALT = false
    · exact (chipFlush_closed hclosed hhalt).trans (State.atLagoon_beyond hbeyond)
    · exact if_pos (by rw [Bool.not_eq_false] at hhalt; rw [hhalt, Bool.or_true])
  case opened =>
    refine run_same hs ?_
    unfold chipFlush
    rw [hopen]
    rfl

end Sys2Proof.Machine
end

section
/-! PROOFS. What the closing of sluices leaves as it is (R453 to R457, R464, R465): the clock, external memory, what the chip's sluice shows,
tallies already produced; and what ends of orders leave as it is. -/

namespace Sys2Proof.Machine

/-! ## Registers that ends of orders and closings do not write -/

/-- The registers of the chip's sluice, of the time receiver, of the die temperatures, of the queues' states and of the time sources. -/
def Calm (r : Nat) : Prop := r = 0x100000 ∨ r = 0xE0000 ∨ r = 0x110060 ∨ (∃ q < 64, r = 0x31024 + 0x40 * q) ∨ r = 0x20024

theorem not_calm {r : Nat} (h1 : r ≠ 0x100000) (h2 : r ≠ 0xE0000) (h3 : r ≠ 0x110060) (h4 : ∀ q < 64, r ≠ 0x31024 + 0x40 * q)
    (h5 : r ≠ 0x20024 := by omega) : ¬ Calm r := by
  rintro (h | h | h | ⟨q, hq, h⟩ | h)
  · exact h1 h
  · exact h2 h
  · exact h3 h
  · exact h4 q hq h
  · exact h5 h

section
variable {a : Nat}
theorem not_calm_orders : ¬ Calm 0x30008 := not_calm (by decide) (by decide) (by decide) (by omega)
theorem not_calm_load : ¬ Calm (0x3102C + 0x40 * a) := not_calm (by omega) (by omega) (by omega) (by omega)
theorem not_calm_allot (h : a < 256) : ¬ Calm (0x40100 + 0x100 * a) := not_calm (by omega) (by omega) (by omega) (by omega)
theorem not_calm_working (h : a < 4) : ¬ Calm (0x110030 + 0x8 * a) := not_calm (by omega) (by omega) (by omega) (by omega)
theorem not_calm_power : ¬ Calm 0x110000 := not_calm (by decide) (by decide) (by decide) (by omega)
theorem not_calm_log : ¬ Calm 0x100010 := not_calm (by decide) (by decide) (by decide) (by omega)
theorem not_calm_ecc : ¬ Calm (0xA0108 + 0x20 * a) := not_calm (by omega) (by omega) (by omega) (by omega)
theorem not_calm_eccFirst : ¬ Calm (0xA0110 + 0x20 * a) := not_calm (by omega) (by omega) (by omega) (by omega)
theorem not_calm_camera (h : a < 8) : ¬ Calm (0xC0100 + 0x80 * a) := not_calm (by omega) (by omega) (by omega) (by omega)
theorem not_calm_frames (h : a < 8) : ¬ Calm (0xC0108 + 0x80 * a) := not_calm (by omega) (by omega) (by omega) (by omega)
theorem not_calm_cipher : ¬ Calm 0xC0000 := not_calm (by decide) (by decide) (by decide) (by omega)
theorem not_calm_vision (h : a < 4) : ¬ Calm (0xD0000 + 0x40 * a) := not_calm (by omega) (by omega) (by omega) (by omega)
theorem not_calm_basin (h : a < 2) : ¬ Calm (0xD8000 + 0x40 * a) := not_calm (by omega) (by omega) (by omega) (by omega)
theorem not_calm_bne : ¬ Calm 0xF0000 := not_calm (by decide) (by decide) (by decide) (by omega)
theorem not_calm_slot (h : a < 256) : ¬ Calm (0xF0100 + 0x4 * a) := not_calm (by omega) (by omega) (by omega) (by omega)
theorem not_calm_session (h : a < 16) : ¬ Calm (0xF8100 + 0x8 * a) := not_calm (by omega) (by omega) (by omega) (by omega)
theorem not_calm_bus : ¬ Calm (0x128010 + 0x4 * a) := not_calm (by omega) (by omega) (by omega) (by omega)
theorem not_calm_tiles (h : a < 3) : ¬ Calm (0x100020 + 0x8 * a) := not_calm (by omega) (by omega) (by omega) (by omega)
theorem not_calm_sluice (h : a < 16) : ¬ Calm (0x100100 + 0x20 * a) := not_calm (by omega) (by omega) (by omega) (by omega)
theorem not_calm_ledger : ¬ Calm (0x100108 + 0x20 * a) := not_calm (by omega) (by omega) (by omega) (by omega)
theorem not_calm_ledgerCounts : ¬ Calm (0x100118 + 0x20 * a) := not_calm (by omega) (by omega) (by omega) (by omega)
end

/-! ## Tallies and orders in flight -/

/-- A tally of `l` stands in `l'`, under the same sequence number, FAILED_SLUICE when it was. -/
def TalliesKept (l l' : List Tally) : Prop := ∀ m ∈ l, ∃ m' ∈ l', m'.seq = m.seq ∧ (m.status = stSluice → m'.status = stSluice)

theorem TalliesKept.refl (l : List Tally) : TalliesKept l l := fun m h => ⟨m, h, rfl, id⟩

theorem TalliesKept.trans {l l' l'' : List Tally} (h : TalliesKept l l') (k : TalliesKept l' l'') : TalliesKept l l'' := fun m hm => by
  obtain ⟨m', hm', hseq, hst⟩ := h m hm
  obtain ⟨m'', hm'', hseq', hst'⟩ := k m' hm'
  exact ⟨m'', hm'', hseq'.trans hseq, fun hs => hst' (hst hs)⟩

/-- Orders leave, none joins. -/
def Leaves (l l' : List Ord) : Prop := ∀ x ∈ l', ∃ y ∈ l, y.id = x.id

theorem Leaves.refl (l : List Ord) : Leaves l l := fun x h => ⟨x, h, rfl⟩

theorem Leaves.trans {l l' l'' : List Ord} (h : Leaves l l') (k : Leaves l' l'') : Leaves l l'' := fun x hx => by
  obtain ⟨y, hy, hyx⟩ := k x hx
  obtain ⟨z, hz, hzy⟩ := h y hy
  exact ⟨z, hz, hzy.trans hyx⟩

theorem Ended.leaves {s t : State} {o : Ord} (h : Ended s o) (k : Leaves s.inflight t.inflight) : Ended t o := fun x hx => by
  obtain ⟨y, hy, hyx⟩ := k x hx
  exact hyx ▸ h y hy

/-- What the end of an order changes of the orders in flight. -/
theorem finish_leaves (s : State) (o : Ord) (st i d : Nat) (m : Bool) : Leaves s.inflight (s.finish o st i d m).inflight := by
  unfold State.finish
  split
  · rw [pushTally_inflight, endOrder_inflight]
    exact fun x hx => ⟨x, (List.mem_filter.1 hx).1, rfl⟩
  · exact Leaves.refl _

theorem finish_tallies (s : State) (o : Ord) (st i d : Nat) (m : Bool) (q : Nat) :
    TalliesKept (s.queue q).out ((s.finish o st i d m).queue q).out := by
  unfold State.finish
  split
  · rw [← queue_congr (endOrder_queues s o) q]
    by_cases hq : q = o.q
    · rw [hq, queue_pushTally]
      exact fun x hx => ⟨x, List.mem_append_left _ hx, rfl, id⟩
    · rw [queue_pushTally_ne _ _ hq]
      exact TalliesKept.refl _
  · exact TalliesKept.refl _

/-! ## Ends of orders and of self-tests -/

/-- Between two states orders and self-tests have ended, units joined: what that may change. -/
structure Settles (s t : State) : Prop where
  rest : t = { s with
                     regs := t.regs, queues := t.queues, inflight := t.inflight, allots := t.allots, load := t.load
                     waiting := t.waiting, testsWaiting := t.testsWaiting, ramps := t.ramps }
  reg : ∀ r, Calm r → t.reg r = s.reg r
  tallies : ∀ q, TalliesKept (s.queue q).out (t.queue q).out
  inflight : Leaves s.inflight t.inflight

namespace Settles

theorem refl (s : State) : Settles s s := ⟨rfl, fun _ _ => rfl, fun _ => TalliesKept.refl _, Leaves.refl _⟩

variable {s t u : State}

theorem trans (h : Settles s t) (k : Settles t u) : Settles s u :=
  ⟨by rw [k.rest, h.rest], fun r hr => (k.reg r hr).trans (h.reg r hr), fun q => (h.tallies q).trans (k.tallies q), h.inflight.trans k.inflight⟩

theorem put (h : Settles s t) {f : Fld} (hf : ¬ Calm f.reg) (v : Nat) : Settles s (t.put f v) :=
  ⟨congrArg (State.put · f v) h.rest, fun r hr => (State.reg_put_ne t f v fun e => hf (e ▸ hr)).trans (h.reg r hr), h.tallies, h.inflight⟩

theorem get (h : Settles s t) {f : Fld} (hf : Calm f.reg) : t.get f = s.get f := get_of_reg (h.reg _ hf)

end Settles

theorem finish_settles (s : State) (o : Ord) (st i d : Nat) (m : Bool) : Settles s (s.finish o st i d m) := by
  refine ⟨?_, fun r hr => ?_, finish_tallies s o st i d m, finish_leaves s o st i d m⟩
  · obtain ⟨_, _, _, _, _, h⟩ := finish_eq s o st i d m
    rw [h]
  · exact finish_reg o st i d m (fun e => not_calm_orders (e ▸ hr)) (fun e => not_calm_load (a := o.q) (e ▸ hr))
      fun e => not_calm_allot o.allot_lt (e ▸ hr)

theorem setWorking_settles (s : State) {u : Nat} (hu : u ≤ 200) (b : Bool) : Settles s (s.setWorking u b) := by
  unfold State.setWorking State.setMapBit
  dsimp only
  split
  · exact Settles.refl s
  · exact (Settles.refl s).put (not_calm_working (a := u / 64) (by omega)) _

theorem unitUp_settles (s : State) {u : Nat} (hu : u ≤ 200) : Settles s (s.unitUp u) := by
  have h := (setWorking_settles s hu true).put (f := F.PWR_STATUS_MINIMAL) not_calm_power
  unfold State.unitUp
  dsimp only
  split
  · exact (h _).put not_calm_power _
  · exact h _

theorem dropRamp_settles (s : State) (u : Nat) (on : Bool) : Settles s (s.dropRamp u on) :=
  ⟨rfl, fun _ _ => rfl, fun _ => TalliesKept.refl _, Leaves.refl _⟩

theorem setRamp_settles (s : State) (u : Nat) (on : Bool) (n : Nat) : Settles s (s.setRamp u on n) :=
  ⟨rfl, fun _ _ => rfl, fun _ => TalliesKept.refl _, Leaves.refl _⟩

theorem finishAll_settles (l : List Ord) (st i d : Nat) (s : State) : Settles s (l.foldl (fun s o => s.finish o st i d) s) :=
  foldl_keeps Settles.refl Settles.trans l (fun s o _ => finish_settles s o st i d false) s

theorem switchDone_settles (s : State) {u : Nat} (hu : u ≤ 200) : Settles s (s.switchDone u) := by
  unfold State.switchDone
  split
  · exact setRamp_settles s u true 4
  · exact ((unitUp_settles s hu).trans (dropRamp_settles _ u true)).trans (finishAll_settles _ stDone 0 0 _)

theorem unitBack_settles (s : State) (u : Nat) : Settles s (s.unitBack u) := by
  unfold State.unitBack
  split
  · exact Settles.refl s
  next h =>
    have hu : u ≤ 200 := by omega
    split
    · exact switchDone_settles s hu
    · split
      · exact unitUp_settles s hu
      · exact Settles.refl s

theorem leaveTest_settles (s : State) (o : Ord) : Settles s (s.leaveTest o) := by
  unfold State.leaveTest
  dsimp only
  have hdrop : Settles s { s with testsWaiting := s.testsWaiting.filter fun t => t.ord.id != o.id } :=
    ⟨rfl, fun _ _ => rfl, fun _ => TalliesKept.refl _, Leaves.refl _⟩
  exact hdrop.trans (foldl_keeps Settles.refl Settles.trans _
    (fun s t _ => foldl_keeps Settles.refl Settles.trans t.units (fun s u _ => unitBack_settles s u) s) _)

/-! ## What a closing keeps -/

/-- No change is staged or due in `t` that was not in `s`. -/
structure Due (s t : State) : Prop where
  staged : ∀ x ∈ t.staged, x ∈ s.staged
  fallow : ∀ x ∈ t.fallowDue, x ∈ s.fallowDue
  reopens : ∀ x ∈ t.reopens, x ∈ s.reopens

theorem Due.refl (s : State) : Due s s := ⟨fun _ h => h, fun _ h => h, fun _ h => h⟩

theorem Due.of {s t : State} (hs : t.staged = s.staged) (hf : t.fallowDue = s.fallowDue) (hr : t.reopens = s.reopens) : Due s t :=
  ⟨fun _ h => hs ▸ h, fun _ h => hf ▸ h, fun _ h => hr ▸ h⟩

theorem Due.trans {s t u : State} (h : Due s t) (k : Due t u) : Due s u :=
  ⟨fun x hx => h.staged x (k.staged x hx), fun x hx => h.fallow x (k.fallow x hx), fun x hx => h.reopens x (k.reopens x hx)⟩

/-- `u` with the clock, memory, registers, queues, orders and records of sluices of `t`. -/
def State.keeping (u t : State) : State := { u with
  pending := t.pending, mem := t.mem, stores := t.stores, wck := t.wck, hotDies := t.hotDies, walkerOnce := t.walkerOnce
  staged := t.staged, fallowDue := t.fallowDue, reopens := t.reopens
  regs := t.regs, queues := t.queues, inflight := t.inflight, closed := t.closed }

/-- What every step of a closing keeps. -/
structure Keeps (ok : Prop) (s t : State) : Prop where
  untouched : Untouched s t
  clock : t.wck = s.wck
  known : t.hotDies = s.hotDies ∧ t.walkerOnce = s.walkerOnce
  sluice : t.get F.SLU_STATUS_CHIP_CLOSED = s.get F.SLU_STATUS_CHIP_CLOSED ∧ t.get F.SLU_STATUS_CHIP_CAUSE = s.get F.SLU_STATUS_CHIP_CAUSE
  reg : ∀ r, Calm r → r ≠ 0x100000 → t.reg r = s.reg r
  tallies : ok → ∀ q, TalliesKept (s.queue q).out (t.queue q).out
  inflight : Leaves s.inflight t.inflight
  closed : ∀ c ∈ s.closed, c.scope = 3 → c ∈ t.closed
  due : Due s t

namespace Keeps

theorem refl {ok : Prop} (s : State) : Keeps ok s s :=
  ⟨.refl s, rfl, ⟨rfl, rfl⟩, ⟨rfl, rfl⟩, fun _ _ _ => rfl, fun _ _ => .refl _, .refl _, fun _ h _ => h, .refl s⟩

variable {ok : Prop} {s t u : State}

theorem trans (h : Keeps ok s t) (k : Keeps ok t u) : Keeps ok s u where
  untouched := h.untouched.trans k.untouched
  clock := k.clock.trans h.clock
  known := ⟨k.known.1.trans h.known.1, k.known.2.trans h.known.2⟩
  sluice := ⟨k.sluice.1.trans h.sluice.1, k.sluice.2.trans h.sluice.2⟩
  reg r hr h0 := (k.reg r hr h0).trans (h.reg r hr h0)
  tallies hok q := (h.tallies hok q).trans (k.tallies hok q)
  inflight := h.inflight.trans k.inflight
  closed c hc h3 := k.closed c (h.closed c hc h3) h3
  due := h.due.trans k.due

/-- A change of other parts of the state. -/
theorem same (h : Keeps ok s t) (e : u = u.keeping t) : Keeps ok s u := by
  refine h.trans ?_
  rw [e]
  exact ⟨⟨rfl, rfl, rfl⟩, rfl, ⟨rfl, rfl⟩, ⟨rfl, rfl⟩, fun _ _ _ => rfl, fun _ _ => .refl _, .refl _, fun _ h _ => h, .of rfl rfl rfl⟩

theorem put (h : Keeps ok s t) {f : Fld} (hf : ¬ Calm f.reg) (v : Nat) : Keeps ok s (t.put f v) where
  untouched := h.untouched.put
  clock := h.clock
  known := h.known
  sluice := ⟨(State.get_put_reg t f _ v fun e => hf (.inl e.symm)).trans h.sluice.1, (State.get_put_reg t f _ v fun e => hf (.inl e.symm)).trans h.sluice.2⟩
  reg r hr h0 := (State.reg_put_ne t f v fun e => hf (e ▸ hr)).trans (h.reg r hr h0)
  tallies := h.tallies
  inflight := h.inflight
  closed := h.closed
  due := h.due.trans (.of rfl rfl rfl)

theorem bump (h : Keeps ok s t) {f : Fld} (hf : ¬ Calm f.reg) (n : Nat) : Keeps ok s (t.bump f n) := h.put hf _

/-- The notice of a closing stands in SLU_STATUS. -/
theorem alert (h : Keeps ok s t) : Keeps ok s (t.put F.SLU_STATUS_ALERT 1) where
  untouched := h.untouched.put
  clock := h.clock
  known := h.known
  sluice := ⟨(State.get_put_beside t _ _ _ (by decide) (by decide)).trans h.sluice.1,
    (State.get_put_beside t _ _ _ (by decide) (by decide)).trans h.sluice.2⟩
  reg r hr h0 := (State.reg_put_ne t F.SLU_STATUS_ALERT 1 h0).trans (h.reg r hr h0)
  tallies := h.tallies
  inflight := h.inflight
  closed := h.closed
  due := h.due.trans (.of rfl rfl rfl)

/-- A tally is added. -/
theorem pushTally (h : Keeps ok s t) (q : Nat) (y : Tally) : Keeps ok s (t.pushTally q y) :=
  h.trans ⟨⟨rfl, rfl, rfl⟩, rfl, ⟨rfl, rfl⟩, ⟨rfl, rfl⟩, fun _ _ _ => rfl, fun _ r => by
    by_cases hr : r = q
    · rw [hr, queue_pushTally]
      exact fun x hx => ⟨x, List.mem_append_left _ hx, rfl, id⟩
    · rw [queue_pushTally_ne _ _ hr]
      exact .refl _, .refl _, fun _ h _ => h, .of rfl rfl rfl⟩

theorem emit (h : Keeps ok s t) (x : Sent) : Keeps ok s (t.emit x) := h.same rfl

theorem setBlock (h : Keeps ok s t) (b : Nat) (tag : BitVec 64) (e : BlockCode) : Keeps ok s (t.setBlock b tag e) := h.same rfl

theorem logEntry (h : Keeps ok s t) (e : LogEntry) : Keeps ok s (t.logEntry e) := by
  unfold State.logEntry
  dsimp only
  split
  · exact (h.put not_calm_log _).same rfl
  · exact ((h.put not_calm_log _).bump not_calm_log _).same rfl

end Keeps

section
variable {ok : Prop}

theorem Settles.keeps {s t : State} (h : Settles s t) : Keeps ok s t where
  untouched := by rw [h.rest]; exact ⟨rfl, rfl, rfl⟩
  clock := by rw [h.rest]
  known := by rw [h.rest]; exact ⟨rfl, rfl⟩
  sluice := ⟨h.get (.inl rfl), h.get (.inl rfl)⟩
  reg r hr _ := h.reg r hr
  tallies _ := h.tallies
  inflight := h.inflight
  closed := by rw [h.rest]; exact fun _ h _ => h
  due := by rw [h.rest]; exact .of rfl rfl rfl

theorem finish_keeps (s : State) (o : Ord) (st i d : Nat) (m : Bool) : Keeps ok s (s.finish o st i d m) := (finish_settles s o st i d m).keeps

theorem finishAll_keeps (l : List Ord) (st i d : Nat) (s : State) : Keeps ok s (l.foldl (fun s o => s.finish o st i d) s) :=
  (finishAll_settles l st i d s).keeps

/-- A fold whose every step keeps. -/
theorem keeps_foldl {β : Type} {f : State → β → State} (l : List β) (h : ∀ s, ∀ x ∈ l, Keeps ok s (f s x)) (s : State) : Keeps ok s (l.foldl f s) :=
  foldl_keeps Keeps.refl Keeps.trans l h s

/-! ### Units -/

theorem abortFrames_keeps (s : State) {p : Nat} (hp : p < 8) : Keeps ok s (s.abortFrames p) := by
  have h : Keeps ok s ({ s.setIng p { s.ing p with frames := [], fifo := 0 } with
      encQ := s.encQ.filter fun j => j.port != p }.noteEnc) :=
    (((Keeps.refl s).same rfl).put not_calm_cipher _).put not_calm_cipher _
  unfold State.abortFrames
  dsimp only
  split
  · exact h
  · exact (h.bump (not_calm_frames hp) _).put (not_calm_camera hp) _

theorem portHold_keeps (s : State) {p : Nat} (hp : p < 8) : Keeps ok s (s.portHold p) := by
  unfold State.portHold
  dsimp only
  split
  · exact (abortFrames_keeps s hp).put (not_calm_camera hp) _
  · exact .refl s

theorem visSluice_keeps (s : State) {p : Nat} (hp : p < 4) (cause : Nat) : Keeps ok s (s.visSluice p cause) := by
  unfold State.visSluice
  split
  · exact .refl s
  · exact ((((Keeps.refl s).same rfl).put (not_calm_vision hp) _).put (not_calm_vision hp) _).trans (finish_keeps ..)

theorem bsnSluice_keeps (s : State) {b : Nat} (hb : b < 2) (cause : Nat) : Keeps ok s (s.bsnSluice b cause) := by
  unfold State.bsnSluice
  dsimp only
  have h : Keeps ok s (match (s.basin b).run with
      | some r => s.finish r.ord stSluice r.sweep (openCause cause)
      | none => s) := by
    split
    · exact finish_keeps ..
    · exact .refl s
  split
  · exact (h.same rfl).put (not_calm_basin hb) _
  · exact h

theorem bneStop_keeps (s : State) (p : Nat → Bool) (cause : Nat) : Keeps ok s (s.bneStop p cause) := by
  unfold State.bneStop
  have h : Keeps ok s (match s.bne with
      | some j => if p (ownerCode j.ord.allot) then s.bneIdle.finish j.ord stSluice 0 (openCause cause) else s
      | none => s) := by
    split
    · split
      · exact ((((Keeps.refl s).same rfl).put not_calm_bne _).put not_calm_bne _).trans (finish_keeps ..)
      · exact .refl s
    · exact .refl s
  dsimp only
  split
  · split
    · exact (h.same rfl).trans (finish_keeps ..)
    · exact h
  · exact h

theorem undefineSlot_keeps (s : State) {i : Nat} (hi : i < 256) : Keeps ok s (s.undefineSlot i) := by
  unfold State.undefineSlot
  split
  · exact (((((Keeps.refl s).same rfl).put (not_calm_slot hi) _).put (not_calm_slot hi) _).put (not_calm_slot hi) _).put not_calm_bne _
  · exact .refl s

theorem clearSlots_keeps (s : State) (p : Nat → Bool) : Keeps ok s (s.clearSlots p) :=
  keeps_foldl _ (fun s i hi => by
    split
    · exact undefineSlot_keeps s (List.mem_range.1 hi)
    · exact .refl s) s

theorem setI2c_keeps (s : State) (b : Nat) (x : I2cBus) : Keeps ok s (s.setI2c b x) := by
  unfold State.setI2c
  dsimp only
  split
  · exact (Keeps.refl s).same rfl
  · exact ((Keeps.refl s).same rfl).put not_calm_bus _

theorem i2cSluice_keeps (s : State) (b cause : Nat) : Keeps ok s (s.i2cSluice b cause) := by
  unfold State.i2cSluice
  split
  · exact (setI2c_keeps ..).trans (finish_keeps ..)
  · exact .refl s

theorem ppsLow_keeps (s : State) : Keeps ok s s.ppsLow := by
  unfold State.ppsLow
  split
  · exact (Keeps.refl s).same rfl
  · exact .refl s

theorem endSession_keeps (s : State) {a : Nat} (ha : a < 16) : Keeps ok s (s.endSession a) :=
  (((Keeps.refl s).same rfl).put (not_calm_session ha) _).put (not_calm_session ha) _

/-! ### Deliveries -/

theorem logCorrected_keeps {s t : State} (h : Keeps ok s t) (kind idx cause value allot subject origin : Nat) :
    Keeps ok s (t.logCorrected kind idx cause value allot subject origin) := by
  unfold State.logCorrected
  split
  · exact h
  · exact (h.logEntry _).same rfl

theorem readEvent_keeps (s : State) (b of_ allot : Nat) : Keeps ok s (s.readEvent b of_ allot) := by
  have h : Keeps ok s s := .refl s
  unfold State.readEvent
  dsimp only
  split
  · exact h
  · have h' := logCorrected_keeps (h.bump (f := F.HBM_ECC_CORRECTED (b * 64 / stackSize)) not_calm_ecc 1) 1 (b * 64 / stackSize) 0x10A (blockIn (b * 64))
      allot (b * 64 / stackSize) 0xFFFFFFFF
    split
    · exact h'
    · split
      · exact h'.same rfl
      · exact h'.bump not_calm_ecc _
  · have h' : Keeps ok s ((s.bump (F.HBM_ECC_UNCORRECTABLE (b * 64 / stackSize))).logCause 0x10B (blockIn (b * 64)) allot (b * 64 / stackSize)) :=
      (h.bump not_calm_ecc _).logEntry _
    split
    · exact h'
    · exact ((h'.put not_calm_eccFirst _).put not_calm_eccFirst _).put not_calm_eccFirst _

theorem planEvent_keeps (s : State) (x : OldBlock) (a : Nat) : Keeps ok s (s.planEvent x a) := by
  unfold State.planEvent
  exact (((Keeps.refl s).setBlock _ _ _).trans (readEvent_keeps ..)).setBlock _ _ _

theorem sendBlocks_keeps (s : State) (a : Nat) (d : Delivery) (n : Nat) : Keeps ok s (s.sendBlocks a d n).2 := by
  unfold State.sendBlocks
  dsimp only
  refine foldl_keeps (R := fun (x y : Delivery × State) => Keeps ok x.2 y.2) (fun x => .refl x.2) .trans _ (fun x i _ => ?_) (d, s)
  exact (planEvent_keeps x.2 _ a).emit _

theorem ledgerPut_keeps (s : State) (a : Nat) (e : Ledger) : Keeps ok s (s.ledgerPut a e) := by
  unfold State.ledgerPut
  dsimp only
  split
  · exact (((Keeps.refl s).same rfl).put not_calm_ledger _).bump not_calm_ledgerCounts _
  · exact (((Keeps.refl s).same rfl).put not_calm_ledger _).bump not_calm_ledgerCounts _

theorem withholdAll_keeps (s : State) (a : Nat) : Keeps ok s (s.withholdAll a) := by
  unfold State.withholdAll
  dsimp only
  refine ((Keeps.refl s).same (u := s.setAllot a _) rfl).trans (keeps_foldl _ (fun s x _ => ?_) _)
  exact (((Keeps.refl s).same rfl).trans (sendBlocks_keeps ..)).trans (ledgerPut_keeps ..)

/-! ### Together -/

/-- A step that is taken only where a condition holds. -/
theorem keeps_ite {s t : State} (p : Prop) [Decidable p] (h : Keeps ok s t) : Keeps ok s (if p then t else s) := by
  split
  · exact h
  · exact .refl s

theorem harmless_keeps (s : State) {a : Nat} (ha : a < 16) (cause : Nat) : Keeps ok s (s.harmless a cause) := by
  unfold State.harmless
  exact ((((((withholdAll_keeps s a).trans
    (keeps_foldl _ (fun s p hp => keeps_ite _ (portHold_keeps s (List.mem_range.1 hp))) _)).trans
    (keeps_foldl _ (fun s p hp => keeps_ite _ (visSluice_keeps s (List.mem_range.1 hp) cause)) _)).trans
    (keeps_foldl _ (fun s b hb => keeps_ite _ (bsnSluice_keeps s (List.mem_range.1 hb) cause)) _)).trans
    ((bneStop_keeps _ _ _).trans (clearSlots_keeps _ _))).trans (endSession_keeps _ ha)).trans
    (keeps_foldl _ (fun s k _ => keeps_ite _ (i2cSluice_keeps s (k + 1) cause)) _)

theorem harmlessChip_keeps (s : State) (cause : Nat) : Keeps ok s (s.harmlessChip cause) := by
  unfold State.harmlessChip
  exact (((((keeps_foldl _ (fun s p hp => portHold_keeps s (List.mem_range.1 hp)) s).trans
    (keeps_foldl _ (fun s p hp => visSluice_keeps s (List.mem_range.1 hp) cause) _)).trans
    (keeps_foldl _ (fun s b hb => bsnSluice_keeps s (List.mem_range.1 hb) cause) _)).trans
    ((bneStop_keeps _ _ _).trans (clearSlots_keeps _ _))).trans
    (keeps_foldl _ (fun s b _ => i2cSluice_keeps s b cause) _)).trans (ppsLow_keeps _)

theorem sendFull_keeps (p : Nat) (l : List (List Bytes)) (s : State) : Keeps ok s (s.sendFull p l) := by
  induction l generalizing s with
  | nil => exact .refl s
  | cons x l ih => exact ((Keeps.refl s).same (u := s.sendFrame p 0 (s.aqd p).txLast x) rfl).trans (ih _)

theorem sendFlits_keeps (s : State) (p : Nat) (l : List Bytes) : Keeps ok s (s.sendFlits p l) := by
  unfold State.sendFlits
  exact ((Keeps.refl s).same rfl).trans (sendFull_keeps p _ _)

theorem aqdSluice_keeps (s : State) (a : Nat) : Keeps ok s (s.aqdSluice a) :=
  keeps_foldl _ (fun _ _ _ => keeps_ite _ (sendFlits_keeps ..)) s

theorem aqdChipSluice_keeps (s : State) : Keeps ok s s.aqdChipSluice :=
  keeps_foldl _ (fun _ _ _ => keeps_ite _ (sendFlits_keeps ..)) s

theorem took_keeps (s : State) (o : Ord) : Keeps ok s (s.took o) :=
  ⟨⟨rfl, rfl, rfl⟩, rfl, ⟨rfl, rfl⟩, ⟨rfl, rfl⟩, fun _ _ _ => rfl, fun _ _ => .refl _, fun x hx => by
    obtain ⟨y, hy, rfl⟩ := List.mem_map.1 hx
    refine ⟨y, hy, ?_⟩
    split <;> rfl, fun _ h _ => h, .of rfl rfl rfl⟩

theorem switchesBegun_keeps (s : State) : Keeps ok s s.switchesBegun := by
  unfold State.switchesBegun
  split
  · exact .refl s
  · refine keeps_foldl _ (fun s x _ => ?_) s
    split
    · exact keeps_ite _ (took_keeps s x.ord)
    · exact .refl s

/-- Changes leave those staged and due. -/
theorem Keeps.narrow {s t u : State} (h : Keeps ok s t) (hdue : Due t u)
    (e : u = { u.keeping t with staged := u.staged, fallowDue := u.fallowDue, reopens := u.reopens }) : Keeps ok s u := by
  refine h.trans ?_
  rw [e]
  exact ⟨⟨rfl, rfl, rfl⟩, rfl, ⟨rfl, rfl⟩, ⟨rfl, rfl⟩, fun _ _ _ => rfl, fun _ _ => .refl _, .refl _, fun _ h _ => h,
    hdue.staged, hdue.fallow, hdue.reopens⟩

theorem discard_keeps (s : State) (p : Ord → Bool) (cause : Nat) : Keeps ok s (s.discard p cause) := by
  unfold State.discard
  dsimp only
  refine .trans (.narrow ((switchesBegun_keeps s).trans (keeps_foldl _ (fun s o _ => (leaveTest_settles s o).keeps) _)) ?_ rfl) (finishAll_keeps ..)
  exact ⟨fun _ h => (List.mem_filter.1 h).1, fun _ h => (List.mem_filter.1 h).1, fun _ h => h⟩

theorem failReopen_keeps (s : State) (p : Reopen → Bool) (cause : Nat) : Keeps ok s (s.failReopen p cause) := by
  unfold State.failReopen
  refine .trans (.narrow (.refl s) ?_ rfl) (keeps_foldl _ (fun _ _ _ => finish_keeps ..) _)
  exact ⟨fun _ h => h, fun _ h => h, fun _ h => (List.mem_filter.1 h).1⟩

theorem armFinals_keeps (s : State) (a : Nat) (d : Doubt) : Keeps ok s (s.armFinals a d) := by
  unfold State.armFinals
  dsimp only
  refine Keeps.same ?_ rfl
  refine .trans ?_ (keeps_foldl _ (fun _ _ _ => finish_keeps ..) _)
  have hrun : Keeps ok s (match (s.allot a).runOrd with
      | some o => s.finish o (statusOf d.cause) ((s.allot a).executed % 2 ^ 32) (planDetail d.cause d.index d.core)
      | none => s) := by
    split
    · exact finish_keeps ..
    · exact .refl s
  split
  · exact hrun.trans (finish_keeps ..)
  · exact hrun

theorem markClosed_keeps (s : State) (scope subj : Nat) (d : Doubt) : Keeps ok s (s.markClosed scope subj d) :=
  ⟨⟨rfl, rfl, rfl⟩, rfl, ⟨rfl, rfl⟩, ⟨rfl, rfl⟩, fun _ _ _ => rfl, fun _ _ => .refl _, .refl _, fun _ h _ => List.mem_append_left _ h, .of rfl rfl rfl⟩

theorem announce_keeps (s : State) (scope subj allot : Nat) (d : Doubt) : Keeps ok s (s.announce scope subj allot d) :=
  ((((Keeps.refl s).logEntry _).pushTally 0 _).same rfl).alert

theorem shutAllot_keeps (s : State) {a : Nat} (ha : a < 16) (d : Doubt) (chip : Bool) : Keeps ok s (s.shutAllot a d chip) := by
  unfold State.shutAllot
  dsimp only
  refine .trans ?_ (discard_keeps ..)
  have hbase : ∀ v, Keeps ok s v →
      Keeps ok s ((((v.markClosed 2 a d).put (F.SLU_ALLOT_STATE a) 1).put (F.SLU_ALLOT_CAUSE a) d.cause).put (F.ALT_STATE_STATE a) 6) := fun v h =>
    (((h.trans (markClosed_keeps v 2 a d)).put (f := F.SLU_ALLOT_STATE a) (not_calm_sluice ha) _).put (f := F.SLU_ALLOT_CAUSE a)
      (not_calm_sluice ha) _).put (f := F.ALT_STATE_STATE a) (not_calm_allot (by omega)) _
  have hshut := hbase _ (keeps_ite (s.altState a = 4 ∧ s.wck.running = true ∧ s.wck.isFallow = false)
    ((Keeps.refl s).same (u := s.setAllot a { s.allot a with shutRunning := s.wck.now + 1 }) rfl))
  split
  · exact hshut.trans (harmless_keeps _ ha d.cause)
  · exact (hshut.trans (harmless_keeps _ ha d.cause)).trans (aqdSluice_keeps ..)

/-! ### The amendment of a record (R454) -/

theorem amendTally_kept (c : Closed) {d : Doubt} (hd : statusOf d.cause = stSluice) (a : Nat) (y : Tally) :
    (amendTally c d a y).seq = y.seq ∧ (y.status = stSluice → (amendTally c d a y).status = stSluice) := by
  unfold amendTally
  split
  · split
    · exact ⟨rfl, id⟩
    · split
      · exact ⟨rfl, fun _ => hd⟩
      · split
        · exact ⟨rfl, id⟩
        · exact ⟨rfl, id⟩
  · exact ⟨rfl, id⟩

theorem smGet_map {α β : Type} (f : α → β) (d : α) (m : SMap α) (k : Nat) :
    smGet (f d) (m.map fun e => (e.1, f e.2)) k = f (smGet d m k) := by
  induction m with
  | nil => rfl
  | cons e m ih =>
    obtain ⟨i, v⟩ := e
    show (if i = k then f v else smGet (f d) (m.map fun e => (e.1, f e.2)) k) = f (if i = k then v else smGet d m k)
    rw [ih, apply_ite f]

/-- A queue whose held tallies are rewritten by `f`. -/
def Queue.mapOut (f : Tally → Tally) (x : Queue) : Queue := { x with out := x.out.map f }

theorem smGet_mapOut (f : Tally → Tally) (m : SMap Queue) (q : Nat) :
    smGet Queue.reset (m.map fun x => (x.1, { x.2 with out := x.2.out.map f })) q = (smGet Queue.reset m q).mapOut f :=
  smGet_map (Queue.mapOut f) Queue.reset m q

/-- The amendment of a tile's or an allotment's record leaves the chip's. -/
theorem amend_keeps (s : State) {scope subj : Nat} (hs : scope = 1 ∨ scope = 2 ∧ subj < 16) (a : Nat) {d : Doubt}
    (hd : ok → statusOf d.cause = stSluice) : Keeps ok s (s.amend scope subj a d) := by
  have h3 : scope ≠ 3 := by omega
  unfold State.amend
  split
  · exact .refl s
  next c hc =>
    split
    · dsimp only
      have h : Keeps ok s { s with
          closed := s.closed.map fun x => if x.scope == scope && x.subj == subj then
            { x with cause := d.cause, index := d.index, core := d.core, queue := d.queue } else x
          queues := s.queues.map fun q => (q.1, { q.2 with out := q.2.out.map (amendTally c d a) })
          lastSluice := if s.lastSluice = noticeDetail scope c.cause a subj then noticeDetail scope d.cause a subj else s.lastSluice } := by
        refine ⟨⟨rfl, rfl, rfl⟩, rfl, ⟨rfl, rfl⟩, ⟨rfl, rfl⟩, fun _ _ _ => rfl, fun hok q y hy => ?_, .refl _, fun x hx hx3 => ?_, .of rfl rfl rfl⟩
        · refine ⟨_, ?_, amendTally_kept c (hd hok) a y⟩
          rw [State.queue, smGet_mapOut]
          exact List.mem_map_of_mem hy
        · refine List.mem_map.2 ⟨x, hx, if_neg fun e => h3 ?_⟩
          rw [Bool.and_eq_true, beq_iff_eq] at e
          exact e.1.symm.trans hx3
      split
      · exact h.put (not_calm_sluice (by omega)) _
      · exact h
    · exact .refl s

theorem bookFilled_keeps (s : State) {a : Nat} (ha : a < 16) (n : Nat) : Keeps ok s (s.bookFilled a n) := by
  unfold State.bookFilled
  split
  · exact (((Keeps.refl s).bump (f := F.SLU_ALLOT_DOUBTS a) (not_calm_sluice ha) _).logEntry _).trans
      (amend_keeps _ (.inr ⟨rfl, ha⟩) a fun _ => rfl)
  · exact .refl s

theorem endAllot_keeps (s : State) (a : Nat) (d : Doubt) : Keeps ok s (s.endAllot a d) := (armFinals_keeps s a d).trans (announce_keeps ..)

section
variable {d : Doubt} (hd : ok → statusOf d.cause = stSluice)
include hd

theorem reachAllot_keeps (s : State) {a : Nat} (ha : a < 16) : Keeps ok s (s.reachAllot a d) := by
  unfold State.reachAllot
  dsimp only
  refine .trans ?_ (amend_keeps _ (.inr ⟨rfl, ha⟩) a hd)
  split
  · exact (failReopen_keeps ..).put (not_calm_sluice ha) _
  · exact .refl s

theorem closeTile_keeps (s : State) {t : Nat} (ht : t < 144) : Keeps ok s (s.closeTile t d) := by
  unfold State.closeTile
  split
  · exact (failReopen_keeps ..).trans (amend_keeps _ (.inl rfl) _ hd)
  · refine .trans ?_ (discard_keeps ..)
    unfold State.setMapBit
    dsimp only
    split
    · exact markClosed_keeps ..
    · exact (markClosed_keeps s 1 t d).put (f := F.SLU_TILE_CLOSED_MAP (t / 64)) (not_calm_tiles (by omega)) _

end

end

/-! ## A doubt of chip scope -/

/-- The chip's sluice, open before, has closed with the cause. -/
structure Doubted (ok : Prop) (s t : State) (cause : Nat) : Prop where
  untouched : Untouched s t
  clock : t.wck = s.wck
  known : t.hotDies = s.hotDies ∧ t.walkerOnce = s.walkerOnce
  shut : t.chipClosed = true
  named : t.get F.SLU_STATUS_CHIP_CAUSE = cause
  reg : ∀ r, Calm r → r ≠ 0x100000 → t.reg r = s.reg r
  tallies : ok → ∀ q, TalliesKept (s.queue q).out (t.queue q).out
  inflight : Leaves s.inflight t.inflight
  closed : ∃ c ∈ t.closed, c.scope = 3 ∧ c.cause = cause

theorem Doubted.keeps {ok : Prop} {s t u : State} {cause : Nat} (h : Doubted ok s t cause) (k : Keeps ok t u) : Doubted ok s u cause where
  untouched := h.untouched.trans k.untouched
  clock := k.clock.trans h.clock
  known := ⟨k.known.1.trans h.known.1, k.known.2.trans h.known.2⟩
  shut := (congrArg (fun x => decide (x = 1)) k.sluice.1).trans h.shut
  named := k.sluice.2.trans h.named
  reg r hr h0 := (k.reg r hr h0).trans (h.reg r hr h0)
  tallies hok q := (h.tallies hok q).trans (k.tallies hok q)
  inflight := h.inflight.trans k.inflight
  closed := by
    obtain ⟨c, hc, h3, hcause⟩ := h.closed
    exact ⟨c, k.closed c hc h3, h3, hcause⟩

/-- The chip's sluice closes: what shows it, before what it ends. -/
def State.shutChip (s : State) (cause : Nat) : State := (s.put F.SLU_STATUS_CHIP_CLOSED 1).put F.SLU_STATUS_CHIP_CAUSE cause

theorem shutChip_closed (s : State) (cause : Nat) : (s.shutChip cause).get F.SLU_STATUS_CHIP_CLOSED = 1 :=
  (State.get_put_beside (s.put F.SLU_STATUS_CHIP_CLOSED 1) F.SLU_STATUS_CHIP_CAUSE F.SLU_STATUS_CHIP_CLOSED cause (by decide) (by decide)).trans
    (State.get_put_self s _ _ (by decide))

theorem shutChip_cause (s : State) {cause : Nat} (h : cause < 256) : (s.shutChip cause).get F.SLU_STATUS_CHIP_CAUSE = cause :=
  (State.get_put_self (s.put F.SLU_STATUS_CHIP_CLOSED 1) F.SLU_STATUS_CHIP_CAUSE cause (by decide)).trans (Nat.mod_eq_of_lt h)

theorem shutChip_reg (s : State) (cause : Nat) {r : Nat} (h : r ≠ 0x100000) : (s.shutChip cause).reg r = s.reg r :=
  (State.reg_put_ne _ F.SLU_STATUS_CHIP_CAUSE _ h).trans (State.reg_put_ne s F.SLU_STATUS_CHIP_CLOSED _ h)

theorem shutChip_doubted {ok : Prop} {s t : State} {cause : Nat} (h : Keeps ok s t) (hd : cause < 256)
    (hrec : ∃ c ∈ t.closed, c.scope = 3 ∧ c.cause = cause) : Doubted ok s (t.shutChip cause) cause where
  untouched := h.untouched.put.put
  clock := h.clock
  known := h.known
  shut := decide_eq_true (shutChip_closed t cause)
  named := shutChip_cause t hd
  reg r hr h0 := (shutChip_reg t cause h0).trans (h.reg r hr h0)
  tallies := h.tallies
  inflight := h.inflight
  closed := hrec

/-- A live allotment under a closing of the chip: shut, or reached by the doubt, and marked. -/
theorem chipAllot_keeps {ok : Prop} (s : State) {a : Nat} (ha : a < 16) {d : Doubt} (hd : ok → statusOf d.cause = stSluice) (opened : Bool) :
    Keeps ok s ((((if opened then s.shutAllot a d true else s.reachAllot a d).put (F.SLU_ALLOT_CHIP a) 1).put (F.ALT_STATE_CHIP_SLUICED a) 1).put
      (F.SLU_ALLOT_STATE a) 1) := by
  have h : Keeps ok s (if opened then s.shutAllot a d true else s.reachAllot a d) := by
    split
    · exact shutAllot_keeps s ha d true
    · exact reachAllot_keeps hd s ha
  exact ((h.put (f := F.SLU_ALLOT_CHIP a) (not_calm_sluice ha) _).put (f := F.ALT_STATE_CHIP_SLUICED a) (not_calm_allot (by omega)) _).put
    (f := F.SLU_ALLOT_STATE a) (not_calm_sluice ha) _

theorem live_lt {s : State} {a : Nat} (h : a ∈ (List.range 16).filter fun a => !s.isEmpty a) : a < 16 :=
  List.mem_range.1 (List.mem_filter.1 h).1

/-- A doubt of chip scope on an open chip (R453, R457). -/
theorem doubtChip_open {ok : Prop} {s : State} (hopen : s.chipClosed = false) {d : Doubt} (hc : d.cause < 256)
    (hd : ok → statusOf d.cause = stSluice) : Doubted ok s (s.doubtChip d) d.cause := by
  have hbump : Keeps ok s (((List.range 16).filter fun a => !s.isEmpty a).foldl (fun s a => s.bump (F.SLU_ALLOT_DOUBTS a)) s) :=
    keeps_foldl _ (fun s a ha => (Keeps.refl s).bump (f := F.SLU_ALLOT_DOUBTS a) (not_calm_sluice (live_lt ha)) 1) s
  unfold State.doubtChip
  dsimp only
  generalize hv : ((List.range 16).filter fun a => !s.isEmpty a).foldl (fun s a => s.bump (F.SLU_ALLOT_DOUBTS a)) s = v at *
  have hvopen : v.chipClosed = false := (congrArg (fun x => decide (x = 1)) hbump.sluice.1).trans hopen
  rw [hvopen, if_neg Bool.false_ne_true]
  have hshut := shutChip_doubted (hbump.trans (markClosed_keeps v 3 0 d)) hc ⟨_, List.mem_append_right _ (List.mem_singleton_self _), rfl, rfl⟩
  refine (hshut.keeps ((Keeps.refl _).same (u := { (v.markClosed 3 0 d).shutChip d.cause with chipSince := v.wck.lagoon }) rfl)).keeps ?_
  refine .trans ?_ (keeps_foldl _ (fun s x hx => (endAllot_keeps s x.1 d).trans (bookFilled_keeps _ ?_ x.2)) _)
  · refine .trans ?_ (keeps_foldl _ (fun s t _ => announce_keeps ..) _)
    refine .trans ?_ (announce_keeps ..)
    refine .trans ?_ (discard_keeps ..)
    refine .trans ?_ (aqdChipSluice_keeps _)
    refine .trans ?_ (harmlessChip_keeps ..)
    refine .trans ?_ (keeps_foldl _ (fun s a ha => chipAllot_keeps s (live_lt ha) hd _) _)
    refine .trans ?_ (keeps_foldl _ (fun s t ht => closeTile_keeps hd s (List.mem_range.1 ht)) _)
    exact failReopen_keeps ..
  · obtain ⟨a, ha, rfl⟩ := List.mem_map.1 hx
    exact live_lt (List.mem_filter.1 ha).1

/-- A doubt with that cause has been counted, or recorded in the place of another, on a closed chip. -/
structure Amends (cause : Nat) (s t : State) : Prop where
  rest : t = { s with regs := t.regs, queues := t.queues, closed := t.closed, lastSluice := t.lastSluice }
  sluice : t.get F.SLU_STATUS_CHIP_CLOSED = s.get F.SLU_STATUS_CHIP_CLOSED ∧ t.get F.SLU_STATUS_WALKER_HALT = s.get F.SLU_STATUS_WALKER_HALT
  named : t.get F.SLU_STATUS_CHIP_CAUSE = s.get F.SLU_STATUS_CHIP_CAUSE ∨ t.get F.SLU_STATUS_CHIP_CAUSE = cause
  reg : ∀ r, Calm r → r ≠ 0x100000 → t.reg r = s.reg r

namespace Amends
variable {cause : Nat} {s t u : State}

theorem refl (s : State) : Amends cause s s := ⟨rfl, ⟨rfl, rfl⟩, .inl rfl, fun _ _ _ => rfl⟩

theorem trans (h : Amends cause s t) (k : Amends cause t u) : Amends cause s u where
  rest := by rw [k.rest, h.rest]
  sluice := ⟨k.sluice.1.trans h.sluice.1, k.sluice.2.trans h.sluice.2⟩
  named := k.named.elim (fun e => h.named.imp e.trans e.trans) .inr
  reg r hr h0 := (k.reg r hr h0).trans (h.reg r hr h0)

theorem put (s : State) {f : Fld} (hf : ¬ Calm f.reg) (v : Nat) : Amends cause s (s.put f v) :=
  have h0 : f.reg ≠ 0x100000 := fun e => hf (.inl e)
  ⟨rfl, ⟨State.get_put_reg s f _ v h0.symm, State.get_put_reg s f _ v h0.symm⟩, .inl (State.get_put_reg s f _ v h0.symm),
    fun _ hr _ => State.reg_put_ne s f v fun e => hf (e ▸ hr)⟩

theorem putCause (s : State) (h : cause < 256) : Amends cause s (s.put F.SLU_STATUS_CHIP_CAUSE cause) :=
  ⟨rfl, ⟨State.get_put_beside s _ _ _ (by decide) (by decide), State.get_put_beside s _ _ _ (by decide) (by decide)⟩,
    .inr ((State.get_put_self s _ _ (by decide)).trans (Nat.mod_eq_of_lt h)), fun _ _ h0 => State.reg_put_ne s F.SLU_STATUS_CHIP_CAUSE _ h0⟩

theorem untouched (h : Amends cause s t) : Untouched s t := by rw [h.rest]; exact ⟨rfl, rfl, rfl⟩

theorem chipClosed (h : Amends cause s t) : t.chipClosed = s.chipClosed := congrArg (fun x => decide (x = 1)) h.sluice.1

end Amends

theorem amend_amends (s : State) {scope subj : Nat} (h : scope = 2 → subj < 16) (a : Nat) {d : Doubt} (hd : d.cause < 256) :
    Amends d.cause s (s.amend scope subj a d) := by
  unfold State.amend
  split
  · exact .refl s
  next c _ =>
    split
    · dsimp only
      have h' : Amends d.cause s { s with
          closed := s.closed.map fun x => if x.scope == scope && x.subj == subj then
            { x with cause := d.cause, index := d.index, core := d.core, queue := d.queue } else x
          queues := s.queues.map fun q => (q.1, { q.2 with out := q.2.out.map (amendTally c d a) })
          lastSluice := if s.lastSluice = noticeDetail scope c.cause a subj then noticeDetail scope d.cause a subj else s.lastSluice } :=
        ⟨rfl, ⟨rfl, rfl⟩, .inl rfl, fun _ _ _ => rfl⟩
      split
      next h2 => exact h'.trans (.put _ (f := F.SLU_ALLOT_CAUSE subj) (not_calm_sluice (h h2)) _)
      · split
        · exact h'.trans (.putCause _ hd)
        · exact h'
    · exact .refl s

/-- What a doubt of chip scope does on a closed chip: it is logged, and may be recorded in the place of a lower one (R454). -/
theorem doubtChip_closed {s : State} (hclosed : s.chipClosed = true) {d : Doubt} (hd : d.cause < 256) :
    ∃ u e, Amends d.cause s u ∧ e.cause = d.cause ∧ e.sluice = false ∧ Amends d.cause (u.logEntry e) (s.doubtChip d) := by
  have hbump : Amends d.cause s (((List.range 16).filter fun a => !s.isEmpty a).foldl (fun s a => s.bump (F.SLU_ALLOT_DOUBTS a)) s) :=
    foldl_keeps .refl .trans _ (fun s a ha => .put s (f := F.SLU_ALLOT_DOUBTS a) (not_calm_sluice (live_lt ha)) _) s
  unfold State.doubtChip
  dsimp only
  generalize hv : ((List.range 16).filter fun a => !s.isEmpty a).foldl (fun s a => s.bump (F.SLU_ALLOT_DOUBTS a)) s = v at *
  rw [hbump.chipClosed.trans hclosed, if_pos rfl]
  refine ⟨v, ⟨0, 0, 0, 255, 0, false, false, d.cause, d.subject, d.index, d.value⟩, hbump, rfl, rfl, ?_⟩
  refine .trans (.trans ?_ (foldl_keeps .refl .trans _ (fun s a ha => amend_amends s (fun _ => live_lt ha) a hd) _))
    (amend_amends _ (fun h => absurd h (by decide)) 255 hd)
  exact foldl_keeps .refl .trans _ (fun s t _ => amend_amends s (fun h => absurd h (by decide)) _ hd) _

theorem logEntry_shut (s : State) (e : LogEntry) : (s.logEntry e).chipClosed = s.chipClosed :=
  congrArg (fun x => decide (x = 1)) (get_of_reg (logEntry_reg s e (by decide)))

/-- On a closed chip the last log entry is that of the doubt, and no register shown to be calm moves but the chip's cause. -/
structure Relogged (s t : State) (cause : Nat) : Prop where
  rest : t = { s with regs := t.regs, log := t.log, queues := t.queues, closed := t.closed, lastSluice := t.lastSluice }
  shut : t.chipClosed = true
  halt : t.get F.SLU_STATUS_WALKER_HALT = s.get F.SLU_STATUS_WALKER_HALT
  named : t.get F.SLU_STATUS_CHIP_CAUSE = s.get F.SLU_STATUS_CHIP_CAUSE ∨ t.get F.SLU_STATUS_CHIP_CAUSE = cause
  reg : ∀ r, Calm r → r ≠ 0x100000 → t.reg r = s.reg r
  logged : ∃ e, t.log.getLast? = some e ∧ e.cause = cause ∧ e.sluice = false

theorem doubtChip_relogs {s : State} (hclosed : s.chipClosed = true) {d : Doubt} (hd : d.cause < 256) : Relogged s (s.doubtChip d) d.cause := by
  obtain ⟨u, e, hu, hcause, hsluice, ht⟩ := doubtChip_closed hclosed hd
  have hlast := logEntry_last u e
  have hshut := logEntry_shut u e
  have hreg : ∀ r, Calm r → (u.logEntry e).reg r = u.reg r := fun r hr => logEntry_reg u e fun h => not_calm_log (h ▸ hr)
  obtain ⟨x, l, hrest⟩ := logEntry_eq u e
  generalize u.logEntry e = v at *
  generalize s.doubtChip d = t at *
  have hget : ∀ f : Fld, f.reg = 0x100000 → v.get f = u.get f := fun f hf => get_of_reg (hreg _ (.inl hf))
  refine ⟨?_, ?_, ?_, ?_, fun r hr h0 => (ht.reg r hr h0).trans ((hreg r hr).trans (hu.reg r hr h0)), ?_⟩
  · rw [ht.rest, hrest, hu.rest]
  · rw [ht.chipClosed, hshut, hu.chipClosed, hclosed]
  · rw [ht.sluice.2, hget _ rfl, hu.sluice.2]
  · rcases ht.named with h | h
    · rw [h, hget _ rfl]; exact hu.named
    · exact .inr h
  · have hlog : t.log = v.log := by rw [ht.rest]
    exact ⟨_, (congrArg List.getLast? hlog).trans hlast, hcause, hsluice⟩

end Sys2Proof.Machine
end

section
/-! PROOFS. The monitors of Table 19-1: the frequency checker, the oscillators, the rails, the die temperatures and the ditch walker
(R45, R58, R429, R461, R462, R534, R538). -/

namespace Sys2Proof.Machine

/-! ## A chip doubt, whatever the chip's sluice -/

/-- A chip doubt with a cause has reached the state `s`. -/
structure Raised (s t : State) (cause : Nat) : Prop where
  shut : t.chipClosed = true
  closes : s.chipClosed = false → t.get F.SLU_STATUS_CHIP_CAUSE = cause ∧ ∃ c ∈ t.closed, c.scope = 3 ∧ c.cause = cause
  logs : s.chipClosed = true → ∃ e, t.log.getLast? = some e ∧ e.cause = cause ∧ e.sluice = false

/-- What a chip doubt leaves as it is. -/
structure Bystands (s t : State) : Prop where
  untouched : Untouched s t
  known : t.hotDies = s.hotDies ∧ t.walkerOnce = s.walkerOnce
  reg : ∀ r, Calm r → r ≠ 0x100000 → t.reg r = s.reg r
  halt : s.chipClosed = true → t.get F.SLU_STATUS_WALKER_HALT = s.get F.SLU_STATUS_WALKER_HALT

theorem doubtChip_raises (s : State) {d : Doubt} (hd : d.cause < 256) : Raised s (s.doubtChip d) d.cause ∧ Bystands s (s.doubtChip d) := by
  rcases hc : s.chipClosed with _ | _
  · have h := doubtChip_open (ok := False) hc hd False.elim
    exact ⟨⟨h.shut, fun _ => ⟨h.named, h.closed⟩, fun e => absurd (hc.symm.trans e) Bool.false_ne_true⟩,
      ⟨h.untouched, h.known, h.reg, fun e => absurd (hc.symm.trans e) Bool.false_ne_true⟩⟩
  · have h := doubtChip_relogs hc hd
    refine ⟨⟨h.shut, fun e => absurd (e.symm.trans hc) Bool.false_ne_true, fun _ => h.logged⟩, ⟨?_, ?_, h.reg, fun _ => h.halt⟩⟩
    · rw [h.rest]; exact ⟨rfl, rfl, rfl⟩
    · rw [h.rest]; exact ⟨rfl, rfl⟩

/-- The doubt of a monitor that has changed the state to `u` first. -/
theorem Raised.of {s u t : State} {cause : Nat} (h : Raised u t cause) (hu : u.chipClosed = s.chipClosed) : Raised s t cause :=
  ⟨h.shut, fun e => h.closes (hu.trans e), fun e => h.logs (hu.trans e)⟩

/-! ## Oscillators -/

theorem oscOk_iff (s : State) (freq : Nat) (gap : Bool) : s.oscOk freq gap = true ↔
    gap = false ∧ ((s.wck.pllRef ≤ 1 ∧ (20000 * ((freq : Int) - (10000000 : Nat))).natAbs ≤ 10000000) ∨
      (s.wck.pllRef ≠ 1 ∧ (20000 * ((freq : Int) - (100000000 : Nat))).natAbs ≤ 100000000)) := by
  unfold State.oscOk
  rw [Bool.and_eq_true, Bool.not_eq_true']
  refine and_congr_right fun _ => ?_
  split
  next h0 =>
    have hle : s.wck.pllRef ≤ 1 := by omega
    have hne : s.wck.pllRef ≠ 1 := by omega
    rw [and_iff_right hle, and_iff_right hne, Bool.or_eq_true, Bool.and_eq_true, Bool.and_eq_true, decide_eq_true_iff, decide_eq_true_iff,
      decide_eq_true_iff, decide_eq_true_iff]
    exact or_congr (by omega) (by omega)
  next h1 =>
    rw [Bool.and_eq_true, decide_eq_true_iff, decide_eq_true_iff]
    refine .trans ?_ ((or_iff_left fun h => h.1 h1).trans (and_iff_right (le_of_eq h1))).symm
    omega
  next h0 h1 =>
    rw [Bool.and_eq_true, decide_eq_true_iff, decide_eq_true_iff]
    refine .trans ?_ ((or_iff_right fun h => ?_).trans (and_iff_right h1)).symm
    · omega
    · have h0' : s.wck.pllRef ≠ 0 := h0
      have h1' : s.wck.pllRef ≠ 1 := h1
      have hle := h.1
      omega

theorem checkOsc_quiet {s : State} {freq : Nat} {gap : Bool} (h : s.oscOk freq gap = true ∨ s.wck.pllRef = 0 ∨ s.tripped = true) :
    checkOsc freq gap s = s.put F.GNS_STATE_OSC_OK (b2n (s.oscOk freq gap)) := by
  unfold checkOsc
  refine if_neg ?_
  rcases h with h | h | h <;> simp [h]

theorem checkOsc_doubts {s : State} {freq : Nat} {gap : Bool} (h : s.oscOk freq gap = false) (hp : s.wck.pllRef ≠ 0) (ht : s.tripped = false) :
    checkOsc freq gap s = (s.put F.GNS_STATE_OSC_OK 0).doubtChip { cause := cClock } := by
  unfold checkOsc
  rw [h]
  exact if_pos (by simp [hp, ht])

/-! ## The walker -/

/-- A queue that runs is halted. -/
def State.stopQueue (s : State) (q : Nat) : State := if s.get (F.DR_QSTAT_STATE q) = 1 then s.put (F.DR_QSTAT_STATE q) 2 else s

theorem stopQueue_self (s : State) (q : Nat) : (s.stopQueue q).get (F.DR_QSTAT_STATE q) ≠ 1 := by
  unfold State.stopQueue
  split
  · rw [State.get_put_self s (F.DR_QSTAT_STATE q) 2 (Nat.le_of_ble_eq_true rfl)]
    exact Nat.succ_ne_self 1
  next h => exact h

theorem stopQueue_other (s : State) {q r : Nat} (h : r ≠ q) : (s.stopQueue q).get (F.DR_QSTAT_STATE r) = s.get (F.DR_QSTAT_STATE r) := by
  unfold State.stopQueue
  split
  · exact State.get_put_reg s (F.DR_QSTAT_STATE q) (F.DR_QSTAT_STATE r) 2 (show 0x31024 + 0x40 * r ≠ 0x31024 + 0x40 * q by omega)
  · rfl

theorem stopQueues_none (l : List Nat) (s : State) {q : Nat} (h : q ∈ l ∨ s.get (F.DR_QSTAT_STATE q) ≠ 1) :
    (l.foldl State.stopQueue s).get (F.DR_QSTAT_STATE q) ≠ 1 := by
  induction l generalizing s with
  | nil => exact h.resolve_left List.not_mem_nil
  | cons r l ih =>
    refine ih (s.stopQueue r) ?_
    by_cases hr : q = r
    · exact .inr (hr ▸ stopQueue_self s r)
    · rw [stopQueue_other s hr]
      exact h.imp_left fun hm => (List.mem_cons.1 hm).resolve_left hr

/-- Between two states only registers differ, not those of the die temperatures or SLU_STATUS. -/
theorem stopQueues_rest (l : List Nat) (s : State) : (∃ r, l.foldl State.stopQueue s = { s with regs := r }) ∧
    (l.foldl State.stopQueue s).reg 0x100000 = s.reg 0x100000 := by
  induction l generalizing s with
  | nil => exact ⟨⟨_, rfl⟩, rfl⟩
  | cons q l ih =>
    obtain ⟨⟨x, hx⟩, hreg⟩ := ih (s.stopQueue q)
    have hq : (∃ r, s.stopQueue q = { s with regs := r }) ∧ (s.stopQueue q).reg 0x100000 = s.reg 0x100000 := by
      unfold State.stopQueue
      split
      · exact ⟨⟨_, rfl⟩, State.reg_put_ne s (F.DR_QSTAT_STATE q) 2 (show 0x100000 ≠ 0x31024 + 0x40 * q by omega)⟩
      · exact ⟨⟨_, rfl⟩, rfl⟩
    obtain ⟨⟨y, hy⟩, hreg'⟩ := hq
    exact ⟨⟨x, by rw [List.foldl_cons, hx, hy]⟩, hreg.trans hreg'⟩

/-! ## The commands -/

/-- What a monitor's doubt answers where the monitor changed the state to `u` first. -/
theorem doubt_next {s u : State} {f : State → State} {cause : Nat} (hs : s.stores = []) (hu : Untouched s u) (hclosed : u.chipClosed = s.chipClosed)
    (hc : cause < 256) (hf : f s = u.doubtChip { cause := cause }) :
    ∃ t, run s f = .next t ∧ Raised s t cause ∧ Bystands u t ∧ ∀ x, t.rd x = s.rd x := by
  obtain ⟨hraised, hby⟩ := doubtChip_raises u (d := { cause := cause }) hc
  exact ⟨_, run_next hs hf (hu.trans hby.untouched), hraised.of hclosed, hby, (hu.trans hby.untouched).rd⟩

/-- The temperature of a die. -/
def dieFld (d : Nat) : Fld := ⟨0x110060, 8 * d, 8⟩

/-- A die's sample as it is shown. -/
def State.showTemp (s : State) (d temp : Nat) : State := s.put (dieFld d) temp

theorem dieTemp_eq {s : State} {d : Nat} (hd : d < 3) (ht : s.tripped = false) (temp : Nat) : dieTemp d temp s =
    if 110 ≤ temp then
      if s.hotDies.contains d then s.showTemp d temp
      else { s.showTemp d temp with hotDies := s.hotDies ++ [d] }.doubtChip { cause := cTemperature }
    else { s.showTemp d temp with hotDies := s.hotDies.filter (· != d) } := by
  unfold dieTemp
  rw [ht, if_neg Bool.false_ne_true]
  have hcases : d = 0 ∨ d = 1 ∨ d = 2 := by omega
  rcases hcases with rfl | rfl | rfl <;> rfl

theorem showTemp_get (s : State) {d : Nat} (hd : d < 3) (temp : Nat) :
    (s.showTemp d temp).get (dieFld d) = temp % 2 ^ 8 ∧ ∀ k < 3, k ≠ d → (s.showTemp d temp).get (dieFld k) = s.get (dieFld k) :=
  ⟨State.get_put_self s (dieFld d) temp (show 8 * d + 8 ≤ 64 by omega), fun k hk hne =>
    State.get_put_beside s (dieFld d) (dieFld k) temp (show 8 * d + 8 ≤ 64 by omega) 
      (show 8 * d + 8 ≤ 8 * k ∨ 8 * k + 8 ≤ 8 * d by omega)⟩

theorem Bystands.get {s t : State} (h : Bystands s t) {f : Fld} (hf : Calm f.reg) (h0 : f.reg ≠ 0x100000) : t.get f = s.get f :=
  get_of_reg (h.reg _ hf h0)

/-- A rail of the memory's supplies: its contents are lost. -/
theorem loseMem_spec {s : State} (hs : s.stores = []) : s.loseMem.stores = [.zero 0 (8 * stackSize)] ∧ s.loseMem.pending = s.pending ∧
    s.loseMem.mem = s.mem ∧ s.loseMem.chipClosed = s.chipClosed ∧ s.loseMem.powerGood = s.powerGood := by
  unfold State.loseMem State.zeroMem
  rw [hs]
  exact ⟨rfl, rfl, rfl, rfl, rfl⟩

/-- A command that has stored zeros over the whole external memory. -/
theorem run_lost {s u : State} {f : State → State} (hs : s.stores = []) (hf : f s = u) (hu : Untouched s.loseMem u) :
    ∃ t, run s f = .next t ∧ t = { u with pending := t.pending, mem := t.mem, stores := [] } ∧ ∀ x < 8 * stackSize, t.rd x = 0 := by
  obtain ⟨hstores, -, -⟩ := loseMem_spec hs
  refine ⟨_, by rw [run_eq, stores_nil hs, hf], rfl, fun x hx => ?_⟩
  rw [rd_nil _ _ rfl]
  dsimp only
  rw [hu.stores, hstores, smGet_memDrain]
  unfold storedByte
  rw [if_pos ⟨Nat.zero_le x, by omega⟩]
  rfl

/-! ## The walker's expiry -/

/-- What the walker ends beside the doubt: every order that has not taken effect, and the tests of those. -/
def State.walkerEnds (s : State) : State :=
  let t := (s.inflight.filter fun o => !o.took).foldl (fun s o => s.finish o stSluice 0 (openCause cWalker)) s
  let v := { t with waiting := t.waiting.filter fun o => t.inflight.any fun x => x.id == o.id }
  (v.testsWaiting.filter fun x => !(v.inflight.any fun y => y.id == x.ord.id)).foldl (fun s x => s.leaveTest x.ord) v

theorem walkerEnds_settles (s : State) : Settles s s.walkerEnds := by
  unfold State.walkerEnds
  dsimp only
  refine (finishAll_settles (s.inflight.filter fun o => !o.took) stSluice 0 (openCause cWalker) s).trans ?_
  refine .trans ?_ (foldl_keeps Settles.refl Settles.trans _ (fun s x _ => leaveTest_settles s x.ord) _)
  exact ⟨rfl, fun _ _ => rfl, fun _ => .refl _, .refl _⟩

/-- The halt of the Ditch Rider. -/
def State.haltRider (s : State) : State := ((List.range 64).foldl State.stopQueue s).put F.SLU_STATUS_WALKER_HALT 1

theorem walker_eq {s : State} (ht : s.tripped = false) : walker false s =
    if (s.walkerOnce && s.chipClosed) = true then (({ s with walkerOnce := true }.doubtChip { cause := cWalker }).walkerEnds).haltRider
    else ({ s with walkerOnce := true }.doubtChip { cause := cWalker }).walkerEnds := by
  unfold walker
  rw [ht]
  rfl

/-- What the end of orders leaves of a doubt. -/
theorem Raised.settles {s t u : State} {cause : Nat} (h : Raised s t cause) (k : Settles t u) : Raised s u cause where
  shut := (congrArg (fun x => decide (x = 1)) (k.get (.inl rfl))).trans h.shut
  closes hs := by
    obtain ⟨hcause, hrec⟩ := h.closes hs
    refine ⟨(k.get (.inl rfl)).trans hcause, ?_⟩
    rw [k.rest]
    exact hrec
  logs hs := by rw [k.rest]; exact h.logs hs

theorem haltRider_rest (s : State) : ∃ r, s.haltRider = { s with regs := r } := by
  obtain ⟨⟨r, h⟩, -⟩ := stopQueues_rest (List.range 64) s
  unfold State.haltRider
  rw [h]
  exact ⟨_, rfl⟩

theorem haltRider_get (s : State) : s.haltRider.get F.SLU_STATUS_WALKER_HALT = 1 ∧
    s.haltRider.get F.SLU_STATUS_CHIP_CLOSED = s.get F.SLU_STATUS_CHIP_CLOSED ∧ s.haltRider.get F.SLU_STATUS_CHIP_CAUSE = s.get F.SLU_STATUS_CHIP_CAUSE ∧
    ∀ q < 64, s.haltRider.get (F.DR_QSTAT_STATE q) ≠ 1 := by
  obtain ⟨-, hreg⟩ := stopQueues_rest (List.range 64) s
  have hnone := fun q (hq : q < 64) => stopQueues_none (List.range 64) s (.inl (List.mem_range.2 hq) : q ∈ List.range 64 ∨ _)
  unfold State.haltRider
  generalize (List.range 64).foldl State.stopQueue s = t at *
  refine ⟨State.get_put_self t _ _ (by decide), ?_, ?_, fun q hq => ?_⟩
  · exact (State.get_put_beside t _ _ _ (by decide) (by decide)).trans (get_of_reg hreg)
  · exact (State.get_put_beside t _ _ _ (by decide) (by decide)).trans (get_of_reg hreg)
  · rw [State.get_put_reg t F.SLU_STATUS_WALKER_HALT (F.DR_QSTAT_STATE q) 1 (show 0x31024 + 0x40 * q ≠ 0x100000 by omega)]
    exact hnone q hq

theorem Raised.halts {s t : State} {cause : Nat} (h : Raised s t cause) : Raised s t.haltRider cause := by
  obtain ⟨-, hclosed, hcause, -⟩ := haltRider_get t
  obtain ⟨r, hr⟩ := haltRider_rest t
  refine ⟨(congrArg (fun x => decide (x = 1)) hclosed).trans h.shut, fun hs => ?_, fun hs => ?_⟩
  · obtain ⟨hnamed, hrec⟩ := h.closes hs
    refine ⟨hcause.trans hnamed, ?_⟩
    rw [hr]
    exact hrec
  · rw [hr]
    exact h.logs hs

theorem walker_spec {s : State} (ht : s.tripped = false) : Raised s (walker false s) cWalker ∧ Untouched s (walker false s) ∧
    (walker false s).walkerOnce = true ∧
    (s.chipClosed = true → s.walkerOnce = true → (walker false s).get F.SLU_STATUS_WALKER_HALT = 1 ∧
      ∀ q < 64, (walker false s).get (F.DR_QSTAT_STATE q) ≠ 1) ∧
    (s.chipClosed = true → s.walkerOnce = false → (walker false s).get F.SLU_STATUS_WALKER_HALT = s.get F.SLU_STATUS_WALKER_HALT ∧
      ∀ q < 64, (walker false s).get (F.DR_QSTAT_STATE q) = s.get (F.DR_QSTAT_STATE q)) := by
  obtain ⟨hraised, hby⟩ := doubtChip_raises { s with walkerOnce := true } (d := { cause := cWalker }) (by decide)
  rw [walker_eq ht]
  generalize hu : ({ s with walkerOnce := true } : State).doubtChip { cause := cWalker } = u at *
  have hsettles := walkerEnds_settles u
  generalize u.walkerEnds = v at *
  have hv : Raised s v cWalker := (Raised.of (s := s) hraised rfl).settles hsettles
  have honce : v.walkerOnce = true := by rw [hsettles.rest]; exact hby.known.2
  have huntouched : Untouched s v := by
    rw [hsettles.rest]
    exact ⟨hby.untouched.pending, hby.untouched.mem, hby.untouched.stores⟩
  split
  next hagain =>
    obtain ⟨honce', hclosed⟩ := Bool.and_eq_true_iff.1 hagain
    obtain ⟨hhalt, -, -, hstopped⟩ := haltRider_get v
    obtain ⟨r, hr⟩ := haltRider_rest v
    refine ⟨hv.halts, ?_, ?_, fun _ _ => ⟨hhalt, hstopped⟩, fun _ h => absurd (h.symm.trans honce') Bool.false_ne_true⟩
    · rw [hr]; exact ⟨huntouched.pending, huntouched.mem, huntouched.stores⟩
    · rw [hr]; exact honce
  next hagain =>
    refine ⟨hv, huntouched, honce, fun hc ho => absurd (by rw [hc, ho]; rfl) hagain, fun hc _ => ⟨?_, fun q hq => ?_⟩⟩
    · exact (hsettles.get (.inl rfl)).trans (hby.halt hc)
    · have hcalm : Calm (F.DR_QSTAT_STATE q).reg := .inr (.inr (.inr (.inl ⟨q, hq, rfl⟩)))
      exact (hsettles.get hcalm).trans (hby.get hcalm (show 0x31024 + 0x40 * q ≠ 0x100000 by omega))

/-! ## O26 -/

theorem exec_dieDoubt {s : State} (hs : s.stores = []) (ht : s.tripped = false) {d temp : Nat} (hd : d < 3) (hot : 110 ≤ temp) (hnew : d ∉ s.hotDies) :
    ∃ t, exec (.dieTempSample d temp) s = .next t ∧ Raised s t cTemperature ∧
      (t.get (dieFld d) = temp % 2 ^ 8 ∧ ∀ k < 3, k ≠ d → t.get (dieFld k) = s.get (dieFld k)) ∧ d ∈ t.hotDies ∧ ∀ x, t.rd x = s.rd x := by
  have hev : dieTemp d temp s = ({ s.showTemp d temp with hotDies := s.hotDies ++ [d] } : State).doubtChip { cause := cTemperature } := by
    rw [dieTemp_eq hd ht, if_pos hot, if_neg (by rw [List.contains_iff_mem]; exact hnew)]
  obtain ⟨hshown, hothers⟩ := showTemp_get s hd temp
  have hshut : (s.showTemp d temp).chipClosed = s.chipClosed :=
    congrArg (fun x => decide (x = 1)) (State.get_put_reg s (dieFld d) F.SLU_STATUS_CHIP_CLOSED temp (show 0x100000 ≠ 0x110060 by decide))
  have hu : Untouched s (s.showTemp d temp) := (Untouched.refl s).put
  generalize s.showTemp d temp = v at *
  obtain ⟨hraised, hby⟩ := doubtChip_raises { v with hotDies := s.hotDies ++ [d] } (d := { cause := cTemperature }) (by decide)
  generalize ({ v with hotDies := s.hotDies ++ [d] } : State).doubtChip { cause := cTemperature } = t at *
  have hut : Untouched s t := ⟨hby.untouched.pending.trans hu.pending, hby.untouched.mem.trans hu.mem, hby.untouched.stores.trans hu.stores⟩
  have hget : ∀ k, t.get (dieFld k) = v.get (dieFld k) := fun k => hby.get (.inr (.inr (.inl rfl))) (show 0x110060 ≠ 0x100000 by decide)
  have hexec : exec (.dieTempSample d temp) s = .next t := unit_next hd hs hev hut
  refine ⟨t, hexec, Raised.of (s := s) hraised hshut, ⟨(hget d).trans hshown, fun k hk hne => (hget k).trans (hothers k hk hne)⟩, ?_, hut.rd⟩
  rw [hby.known.1]
  exact List.mem_append_right _ (List.mem_singleton_self d)

theorem exec_railDoubt {s : State} (hs : s.stores = []) (ht : s.tripped = false) (hp : s.powerGood = true) {rail : Nat} (h1 : 1 ≤ rail) (h10 : rail < 10) :
    ∃ t, exec (.railMonitorExpiry rail) s = .next t ∧ Raised s t cVoltage ∧
      if rail = 6 ∨ rail = 7 then ∀ x < 8 * stackSize, t.rd x = 0 else ∀ x, t.rd x = s.rd x := by
  have hgo : (s.tripped || rail == 0) = false := by simp [ht]; omega
  have hunit : exec (.railMonitorExpiry rail) s = run s (railExpiry rail) := unit_of_lt h10 _ _
  rw [hunit]
  by_cases hmem : rail = 6 ∨ rail = 7
  · obtain ⟨-, -, -, hshut, hgood⟩ := loseMem_spec hs
    have hev : railExpiry rail s = s.loseMem.doubtChip { cause := cVoltage } := by
      unfold railExpiry
      rw [hgo, if_neg Bool.false_ne_true, if_pos hmem]
      exact if_pos (hgood.trans hp)
    obtain ⟨hraised, hby⟩ := doubtChip_raises s.loseMem (d := { cause := cVoltage }) (by decide)
    generalize s.loseMem.doubtChip { cause := cVoltage } = u at *
    obtain ⟨t, hexec, ht, hrd⟩ := run_lost hs hev hby.untouched
    refine ⟨t, hexec, ?_, by rw [if_pos hmem]; exact hrd⟩
    rw [ht]
    have h := Raised.of (s := s) hraised hshut
    exact ⟨h.shut, h.closes, h.logs⟩
  · have hev : railExpiry rail s = s.doubtChip { cause := cVoltage } := by
      unfold railExpiry
      rw [hgo, if_neg Bool.false_ne_true, if_neg hmem]
      exact if_pos hp
    obtain ⟨t, hexec, hraised, -, hrd⟩ := doubt_next hs (.refl s) rfl (by decide) hev
    exact ⟨t, hexec, hraised, by rw [if_neg hmem]; exact hrd⟩

theorem exec_railFall {s : State} (hs : s.stores = []) (ht : s.tripped = false) (hp : s.powerGood = false) {rail : Nat} (h1 : 1 ≤ rail) (h10 : rail < 10) :
    ∃ t, exec (.railMonitorExpiry rail) s = .next t ∧ t.chipClosed = s.chipClosed ∧
      if rail = 6 ∨ rail = 7 then ∀ x < 8 * stackSize, t.rd x = 0 else t = s := by
  have hgo : (s.tripped || rail == 0) = false := by simp [ht]; omega
  have hunit : exec (.railMonitorExpiry rail) s = run s (railExpiry rail) := unit_of_lt h10 _ _
  rw [hunit]
  by_cases hmem : rail = 6 ∨ rail = 7
  · obtain ⟨-, -, -, hshut, hgood⟩ := loseMem_spec hs
    have hev : railExpiry rail s = s.loseMem := by
      unfold railExpiry
      rw [hgo, if_neg Bool.false_ne_true, if_pos hmem]
      exact if_neg (by rw [hgood, hp]; exact Bool.false_ne_true)
    obtain ⟨t, hexec, ht, hrd⟩ := run_lost hs hev (.refl _)
    refine ⟨t, hexec, ?_, by rw [if_pos hmem]; exact hrd⟩
    rw [ht, ← hshut]
    rfl
  · have hev : railExpiry rail s = s := by
      unfold railExpiry
      rw [hgo, if_neg Bool.false_ne_true, if_neg hmem]
      exact if_neg (by rw [hp]; exact Bool.false_ne_true)
    exact ⟨s, run_same hs hev, rfl, by rw [if_neg hmem]⟩

theorem exec_railStill {s : State} (hs : s.stores = []) {rail : Nat} (h : s.tripped = true ∨ rail = 0) (h10 : rail < 10) :
    exec (.railMonitorExpiry rail) s = .next s := by
  have hev : railExpiry rail s = s := if_pos (by rcases h with h | h <;> simp [h])
  exact unit_next h10 hs hev (.refl s)

/-- Settles O26: each monitor raises its doubt beyond its limit, and shows its reading within it. -/
theorem monitorsRaiseChipDoubtBeyondLimits : Obligations.MonitorsRaiseChipDoubtBeyondLimits := by
  intro s hs
  dsimp only
  refine ⟨fun ht ppb hppb hlag => ?freq, fun ppb hppb => ?within, fun ht => ?xtal, fun freq gap => ⟨fun hgood => ?oscGood, fun hbad hp ht => ?oscBad,
    fun hbad hp => ?oscQuiet⟩, fun ht hp rail h1 h10 => ?rail, fun ht hp rail h1 h10 => exec_railFall hs ht hp h1 h10, exec_railStill hs (.inr rfl) (by decide),
    fun ht => ⟨?xtalTripped, fun tie => ?walkerTripped, fun rail h10 => exec_railStill hs (.inl ht) h10, fun d hd temp => ?dieTripped⟩,
    fun ht d hd temp hot hnew => ?dieHot, fun ht d hd temp hot hold => ?dieStill, fun ht d hd temp hcool => ?dieCool, fun ht => ?walkerTie, fun ht => ?walker⟩
  case freq =>
    obtain ⟨t, hexec, hraised, -, hrd⟩ := doubt_next (cause := cClock)
      (f := fun s => if 500000 < ppb.natAbs ∧ ¬ s.on F.WCK_STATE_ON_LAGOON ∧ s.tripped = false then s.doubtChip { cause := cClock } else s)
      hs (.refl s) rfl (by decide) (if_pos ⟨hppb, by rw [hlag]; exact Bool.false_ne_true, ht⟩)
    exact ⟨t, hexec, hraised.shut, hraised.closes, hraised.logs, hrd⟩
  case within =>
    refine run_same hs (if_neg ?_)
    rintro ⟨hmore, hlag, ht⟩
    rcases hppb with h | h | h
    · omega
    · exact hlag h
    · exact Bool.false_ne_true (ht.symm.trans h)
  case xtal =>
    obtain ⟨t, hexec, hraised, -, hrd⟩ := doubt_next (cause := cClock) (f := fun s => if s.tripped then s else s.doubtChip { cause := cClock })
      hs (.refl s) rfl (by decide) (if_neg (by rw [ht]; exact Bool.false_ne_true))
    exact ⟨t, hexec, hraised.shut, hraised.closes, hraised.logs, hrd⟩
  case oscGood =>
    have hok := (oscOk_iff s freq gap).2 hgood
    have hev := checkOsc_quiet (freq := freq) (gap := gap) (.inl hok)
    rw [hok] at hev
    exact ⟨_, run_next hs hev (Untouched.refl s).put, State.get_put_self s _ _ (by decide), fun r h => State.reg_put_ne s F.GNS_STATE_OSC_OK _ h, rfl⟩
  case oscBad =>
    have hok : s.oscOk freq gap = false := by
      rw [Bool.eq_false_iff]
      exact fun h => hbad ((oscOk_iff s freq gap).1 h)
    obtain ⟨t, hexec, hraised, hby, hrd⟩ := doubt_next (u := s.put F.GNS_STATE_OSC_OK 0) hs (Untouched.refl s).put
      (congrArg (fun x => decide (x = 1)) (State.get_put_reg s F.GNS_STATE_OSC_OK F.SLU_STATUS_CHIP_CLOSED 0 (by decide))) (by decide)
      (checkOsc_doubts hok hp ht)
    exact ⟨t, hexec, hraised.shut, hraised.closes, hraised.logs,
      (hby.get (.inr (.inl rfl)) (by decide)).trans (State.get_put_self s F.GNS_STATE_OSC_OK 0 (by decide)), hrd⟩
  case oscQuiet =>
    have hok : s.oscOk freq gap = false := by
      rw [Bool.eq_false_iff]
      exact fun h => hbad ((oscOk_iff s freq gap).1 h)
    have hev := checkOsc_quiet (freq := freq) (gap := gap) (.inr hp : s.oscOk freq gap = true ∨ _)
    rw [hok] at hev
    exact ⟨_, run_next hs hev (Untouched.refl s).put, State.get_put_self s _ _ (by decide), fun r h => State.reg_put_ne s F.GNS_STATE_OSC_OK _ h, rfl⟩
  case rail =>
    obtain ⟨t, hexec, hraised, hmem⟩ := exec_railDoubt hs ht hp h1 h10
    exact ⟨t, hexec, hraised.shut, hraised.closes, hraised.logs, hmem⟩
  case xtalTripped => exact run_same (f := fun s => if s.tripped then s else s.doubtChip { cause := cClock }) hs (if_pos ht)
  case walkerTripped => exact run_same hs (if_pos ht)
  case dieTripped => exact unit_next hd hs (if_pos ht) (.refl s)
  case dieHot =>
    obtain ⟨t, hexec, hraised, hone, hknown, hrd⟩ := exec_dieDoubt hs ht hd hot hnew
    exact ⟨t, hexec, hraised.shut, hraised.closes, hraised.logs, hone, hknown, hrd⟩
  case dieStill =>
    have hev : dieTemp d temp s = s.showTemp d temp := by
      rw [dieTemp_eq hd ht, if_pos hot, if_pos (by rw [List.contains_iff_mem]; exact hold)]
    exact ⟨_, unit_next hd hs hev (Untouched.refl s).put, showTemp_get s hd temp, rfl⟩
  case dieCool =>
    have hev : dieTemp d temp s = { s.showTemp d temp with hotDies := s.hotDies.filter (· != d) } := by
      rw [dieTemp_eq hd ht, if_neg (by omega)]
    have hu : Untouched s { s.showTemp d temp with hotDies := s.hotDies.filter (· != d) } := ⟨rfl, rfl, rfl⟩
    refine ⟨_, unit_next hd hs hev hu, showTemp_get s hd temp, fun h => ?_, fun _ => rfl, hu.rd⟩
    have hne := (List.mem_filter.1 h).2
    rw [bne_self_eq_false] at hne
    exact Bool.false_ne_true hne
  case walkerTie =>
    have hev : walker true s = s.put F.SLU_WALKER_MARGIN0 1 := by
      unfold walker
      rw [ht]
      rfl
    exact ⟨_, run_next hs hev (Untouched.refl s).put, State.get_put_self s _ _ (by decide), rfl⟩
  case walker =>
    obtain ⟨hraised, hu, honce, hagain, hfirst⟩ := walker_spec ht
    exact ⟨_, run_next hs rfl hu, hraised.shut, hraised.closes, hraised.logs, hu.rd, honce, hagain, hfirst⟩

end Sys2Proof.Machine
end

section
/-! PROOFS. The relock of the PLL (R42, R54, R56): how it begins, is confirmed, falls back, and closes the chip's sluice. -/

namespace Sys2Proof.Machine

/-! ## Beginning a relock -/

/-- What taking the core to the lagoon clock for a due change does. -/
structure Begun (s t : State) (x : FallowDue) : Prop where
  untouched : Untouched s t
  clock : t.wck = { s.wck with relock := some (s.relockOf x), pllRef := (s.relockOf x).newRef }
  lagoon : t.on F.WCK_STATE_ON_LAGOON = true
  extended : t.get F.WCK_STATE_FALLOW_EXT = 1
  reg : ∀ r, r ≠ 0x20020 → t.reg r = s.reg r
  due : t.fallowDue = (s.dropDue [x]).fallowDue
  taken : t.inflight = (s.took x.ord).inflight

theorem beginRelock_begun (s : State) (x : FallowDue) : Begun s (s.beginRelock x) x := by
  unfold State.beginRelock
  dsimp only
  generalize hu : ({ (s.dropDue [x]).took x.ord with
    wck := { ((s.dropDue [x]).took x.ord).wck with relock := some (s.relockOf x), pllRef := (s.relockOf x).newRef } } : State) = u
  have huntouched : Untouched s u := by rw [← hu]; exact ⟨rfl, rfl, rfl⟩
  have hclock : u.wck = { s.wck with relock := some (s.relockOf x), pllRef := (s.relockOf x).newRef } := by rw [← hu]; rfl
  have hreg : ∀ r, u.reg r = s.reg r := fun r => by rw [← hu]; rfl
  have hlists : u.fallowDue = (s.dropDue [x]).fallowDue ∧ u.inflight = (s.took x.ord).inflight := by rw [← hu]; exact ⟨rfl, rfl⟩
  refine ⟨huntouched.put.put, hclock, decide_eq_true ?_, ?_, fun r h => ?_, hlists.1, hlists.2⟩
  · exact (State.get_put_beside (u.put F.WCK_STATE_ON_LAGOON 1) F.WCK_STATE_FALLOW_EXT F.WCK_STATE_ON_LAGOON 1 (by decide) (by decide)).trans
      (State.get_put_self u _ _ (by decide))
  · exact State.get_put_self (u.put F.WCK_STATE_ON_LAGOON 1) F.WCK_STATE_FALLOW_EXT 1 (by decide)
  · exact ((State.reg_put_ne _ F.WCK_STATE_FALLOW_EXT 1 h).trans (State.reg_put_ne u F.WCK_STATE_ON_LAGOON 1 h)).trans (hreg r)

/-- The next change to make is a relock: it begins. -/
theorem makeDue_relock {s : State} {x : FallowDue} {p : Change → Bool} (hdue : s.dueNow p ≠ []) (hnext : s.nextDue = some x)
    (hn : x.change.numbers = false) (n : Nat) : State.makeDue p (n + 1) s = State.makeDue p n (s.beginRelock x) := by
  unfold State.makeDue
  rw [if_neg hdue, hnext]
  dsimp only
  rw [hn, if_neg Bool.false_ne_true]
  cases n <;> rfl

/-- The first of the changes due is a relock that may begin. -/
theorem nextDue_first {s : State} {x : FallowDue} {l : List FallowDue} (hdue : s.fallowDue = x :: l) (hx : x.turn = s.wck.turn)
    (hr : x.change.relocks = true) (hfree : s.relockFree x.change = true) : s.dueNow Change.relocks ≠ [] ∧ s.nextDue = some x := by
  constructor
  · unfold State.dueNow
    rw [hdue, List.filter_cons_of_pos (by simp [hx, hr])]
    exact List.cons_ne_nil _ _
  · unfold State.nextDue State.dueNow
    rw [hdue, List.filter_cons_of_pos (by simp [hx, hr]), List.find?_cons_of_pos (by simp [hfree])]

theorem relocks_not_numbers {c : Change} (h : c.relocks = true) : c.numbers = false := by
  cases c with
  | turnSet => rfl
  | pllRef => rfl
  | _ => exact absurd h Bool.false_ne_true

/-- One relock due now, none under way. -/
theorem relockStart_one {s : State} {x : FallowDue} (hc : s.wck.cycle = 0) (hnone : s.wck.relock = none) (hdue : s.fallowDue = [x])
    (hx : x.turn = s.wck.turn) (hr : x.change.relocks = true) : relockStart s = s.beginRelock x := by
  have hfree : s.relockFree x.change = true := by unfold State.relockFree; rw [hnone]
  obtain ⟨hsome, hnext⟩ := nextDue_first hdue hx hr hfree
  unfold relockStart State.makeAll
  rw [if_neg (fun h => h hc), hdue]
  exact makeDue_relock hsome hnext (relocks_not_numbers hr) 0

/-- Two relocks due now share one. -/
theorem relockStart_two {s : State} {x y : FallowDue} (hc : s.wck.cycle = 0) (hnone : s.wck.relock = none) (hdue : s.fallowDue = [x, y])
    (hx : x.turn = s.wck.turn) (hy : y.turn = s.wck.turn) (hrx : x.change.relocks = true) (hry : y.change.relocks = true)
    (hxy : x.change ≠ y.change) : (s.beginRelock x).fallowDue = [y] ∧ relockStart s = (s.beginRelock x).beginRelock y := by
  have hfree : s.relockFree x.change = true := by unfold State.relockFree; rw [hnone]
  obtain ⟨hsome, hnext⟩ := nextDue_first hdue hx hrx hfree
  have hbegun := beginRelock_begun s x
  have hleft : (s.beginRelock x).fallowDue = [y] := by
    rw [hbegun.due]
    unfold State.dropDue
    rw [hdue]
    simp [hxy]
  have hfree' : (s.beginRelock x).relockFree y.change = true := by
    unfold State.relockFree
    rw [hbegun.clock]
    unfold State.relockOf
    rw [hnone]
    rfl
  obtain ⟨hsome', hnext'⟩ := nextDue_first hleft (by rw [hbegun.clock]; exact hy) hry hfree'
  refine ⟨hleft, ?_⟩
  unfold relockStart State.makeAll
  rw [if_neg (fun h => h hc), hdue]
  refine (makeDue_relock hsome hnext (relocks_not_numbers hrx) 1).trans ?_
  exact makeDue_relock hsome' hnext' (relocks_not_numbers hry) 0

/-- The orders that `took` marks. -/
theorem took_taken {s : State} {o x : Ord} (hx : x ∈ (s.took o).inflight) (h : x.id = o.id) : x.took = true := by
  obtain ⟨y, -, rfl⟩ := List.mem_map.1 hx
  by_cases hy : (y.id == o.id) = true
  · rw [if_pos hy]
  · rw [if_neg hy] at h
    exact absurd (beq_iff_eq.2 h) hy

/-- What has taken effect stays so. -/
theorem took_still {s : State} {o x : Ord} (hx : x ∈ (s.took o).inflight) : ∃ y ∈ s.inflight, y.id = x.id ∧ (y.took = true → x.took = true) := by
  obtain ⟨y, hy, rfl⟩ := List.mem_map.1 hx
  refine ⟨y, hy, ?_⟩
  split
  · exact ⟨rfl, fun _ => rfl⟩
  · exact ⟨rfl, id⟩

/-- What PLL_RELOCK_START answers where the relock `k` begins. -/
def StartsRelock (s t : State) (k : Relock) : Prop :=
  t.on F.WCK_STATE_ON_LAGOON = true ∧ t.get F.WCK_STATE_FALLOW_EXT = 1 ∧ t.fallowDue = [] ∧
    t.get F.WCK_TURN_RATE_RATE = s.get F.WCK_TURN_RATE_RATE ∧ t.wck.relock = some k ∧ t.wck.pllRef = k.newRef ∧
    (∀ x ∈ t.inflight, (∃ o ∈ k.ords, x.id = o.id) → x.took = true) ∧ ∀ x, t.rd x = s.rd x

theorem exec_relockStart_one {s : State} {x : FallowDue} {k : Relock} (hs : s.stores = []) (hc : s.wck.cycle = 0) (hnone : s.wck.relock = none)
    (hdue : s.fallowDue = [x]) (hx : x.turn = s.wck.turn) (hr : x.change.relocks = true) (hk : s.relockOf x = k) (hords : k.ords = [x.ord]) :
    ∃ t, exec .pllRelockStart s = .next t ∧ StartsRelock s t k := by
  have hb := beginRelock_begun s x
  have hexec : exec .pllRelockStart s = .next (s.beginRelock x) := run_next hs (relockStart_one hc hnone hdue hx hr) hb.untouched
  refine ⟨_, hexec, hb.lagoon, hb.extended, ?_, get_of_reg (hb.reg _ (by decide)), ?_, ?_, fun y hy ho => ?_, hb.untouched.rd⟩
  · rw [hb.due, dropDue_only hdue]; rfl
  · rw [hb.clock, hk]
  · rw [hb.clock, hk]
  · obtain ⟨o, ho, hid⟩ := ho
    rw [hords, List.mem_singleton] at ho
    rw [hb.taken] at hy
    exact took_taken hy (ho ▸ hid)

theorem exec_relockStart_two {s : State} {x y : FallowDue} {k : Relock} (hs : s.stores = []) (hc : s.wck.cycle = 0) (hnone : s.wck.relock = none)
    (hdue : s.fallowDue = [x, y]) (hx : x.turn = s.wck.turn) (hy : y.turn = s.wck.turn) (hrx : x.change.relocks = true)
    (hry : y.change.relocks = true) (hxy : x.change ≠ y.change) (hk : (s.beginRelock x).relockOf y = k) (hords : k.ords = [x.ord, y.ord]) :
    ∃ t, exec .pllRelockStart s = .next t ∧ StartsRelock s t k := by
  obtain ⟨hleft, hstart⟩ := relockStart_two hc hnone hdue hx hy hrx hry hxy
  have hb := beginRelock_begun s x
  generalize s.beginRelock x = v at *
  have hb' := beginRelock_begun v y
  have hu := hb.untouched.trans hb'.untouched
  have hexec : exec .pllRelockStart s = .next (v.beginRelock y) := run_next hs hstart hu
  refine ⟨_, hexec, hb'.lagoon, hb'.extended, ?_, ?_, ?_, ?_, fun z hz ho => ?_, hu.rd⟩
  · rw [hb'.due, dropDue_only hleft]; rfl
  · exact (get_of_reg (hb'.reg _ (by decide))).trans (get_of_reg (hb.reg _ (by decide)))
  · rw [hb'.clock, hk]
  · rw [hb'.clock, hk]
  · obtain ⟨o, ho, hid⟩ := ho
    rw [hb'.taken] at hz
    rw [hords, List.mem_cons, List.mem_singleton] at ho
    rcases ho with rfl | rfl
    · obtain ⟨w, hw, hwid, htook⟩ := took_still hz
      rw [hb.taken] at hw
      exact htook (took_taken hw (hwid.trans hid))
    · exact took_taken hz hid

/-! ## Confirmation -/

/-- The orders of a relock that is confirmed at the previous frequency end. -/
def confirms (k : Relock) (tie : Bool) (late : Bool) : Relock :=
  { k with ords := if tie then k.ords.map fun o => { o with margin := true } else k.ords
           confirmed := true, phase := if k.phase = 2 then 3 else k.phase, late := late }

/-- The relock confirmed at the frequency it was programmed for, and the state that shows it. -/
def State.showConfirm (s t : State) (k : Relock) : State :=
  let u : State := { t with wck := { t.wck with relock := some k } }
  if s.guardCycle 0 < s.wck.cycle then u.addFallow ((s.wck.turn + 1) % 2 ^ 48) else u

theorem lockConfirm_eq {s : State} {k : Relock} (hk : s.wck.relock = some k) (hconf : k.confirmed = false) (hphase : k.phase ≠ 4) (tie : Bool) :
    lockConfirm tie s =
      let v := s.showConfirm (if tie then s.tieOrders k.ords else s) (confirms k tie (decide (s.guardCycle 0 < s.wck.cycle)))
      if k.phase = 2 then (confirms k tie false).ords.foldl (fun s o => s.finish o stTimeout 0 openTimeout) v else v := by
  unfold lockConfirm
  rw [hk]
  dsimp only
  rw [hconf, Bool.false_or, if_neg (fun h => hphase (beq_iff_eq.1 h))]
  cases tie <;> rfl

theorem lockConfirm_done {s : State} {k : Relock} (hk : s.wck.relock = some k) (hconf : k.confirmed = true) (tie : Bool) : lockConfirm tie s = s := by
  unfold lockConfirm
  rw [hk]
  dsimp only
  rw [hconf]
  rfl

theorem relockTimeout_done {s : State} {k : Relock} (hk : s.wck.relock = some k) (hconf : k.confirmed = true) : relockTimeout s = s := by
  unfold relockTimeout
  rw [hk]
  dsimp only
  rw [hconf]
  rfl

/-- A relock's clock with one more fallow turn listed, or not. -/
theorem addFallow_rest (s : State) (n : Nat) : ∃ l, s.addFallow n = { s with wck := { s.wck with fallow := l } } ∧ n ∈ l := by
  unfold State.addFallow
  split
  next h => exact ⟨_, rfl, List.contains_iff_mem.1 h⟩
  · exact ⟨_, rfl, List.mem_append_right _ (List.mem_singleton_self n)⟩

/-- The final tally of an order that tied. -/
theorem finish_tied {s : State} {o : Ord} (st i d : Nat) (ho : ∃ x ∈ s.inflight, x.id = o.id) (htied : ∀ x ∈ s.inflight, x.id = o.id → x.margin = true) :
    ((s.finish o st i d).queue o.q).out =
      (s.queue o.q).out ++ [{ o.tally st i d false true with cycle := s.wck.cycle, turn := s.wck.turn }] ∧ Ended (s.finish o st i d) o := by
  obtain ⟨x, hx, hid⟩ := ho
  have hs : (s.inflight.find? (fun x => x.id == o.id)).isSome = true := by
    rw [List.find?_isSome]; exact ⟨x, hx, by simp [hid]⟩
  obtain ⟨y, hy⟩ := Option.isSome_iff_exists.1 hs
  have hmargin : y.margin = true := htied y (List.mem_of_find?_eq_some hy) (beq_iff_eq.1 (List.find?_some hy :))
  unfold State.finish
  rw [hy]
  dsimp only
  rw [hmargin]
  constructor
  · rw [queue_pushTally, queue_congr (endOrder_queues s o), endOrder_wck]
    rfl
  · intro z hz
    rw [pushTally_inflight, endOrder_inflight] at hz
    simpa using (List.mem_filter.1 hz).2

theorem showConfirm_rest (s t : State) (k : Relock) : ∃ l, s.showConfirm t k = { t with wck := { t.wck with relock := some k, fallow := l } } ∧
    (s.guardCycle 0 < s.wck.cycle → (s.wck.turn + 1) % 2 ^ 48 ∈ l) := by
  unfold State.showConfirm
  dsimp only
  split
  · obtain ⟨l, hl, hmem⟩ := addFallow_rest { t with wck := { t.wck with relock := some k } } ((s.wck.turn + 1) % 2 ^ 48)
    exact ⟨l, hl, fun _ => hmem⟩
  next h => exact ⟨_, rfl, fun h' => absurd h' h⟩

/-- A confirmation at the new frequency. -/
theorem lockConfirm_new {s : State} {k : Relock} (hk : s.wck.relock = some k) (hphase : k.phase = 1) (hconf : k.confirmed = false) :
    lockConfirm false s = s.showConfirm s { k with confirmed := true, late := decide (s.guardCycle 0 < s.wck.cycle) } := by
  rw [lockConfirm_eq hk hconf (by rw [hphase]; decide)]
  have hnew : confirms k false (decide (s.guardCycle 0 < s.wck.cycle)) =
      { k with confirmed := true, late := decide (s.guardCycle 0 < s.wck.cycle) } := by
    unfold confirms
    rw [hphase]
    rfl
  dsimp only
  rw [if_neg (by rw [hphase]; decide), hnew, if_neg Bool.false_ne_true]

/-- A confirmation at the previous frequency, with one order. -/
theorem lockConfirm_old {s : State} {k : Relock} {o : Ord} (hk : s.wck.relock = some k) (hphase : k.phase = 2) (hconf : k.confirmed = false)
    (hords : k.ords = [o]) :
    lockConfirm false s = (s.showConfirm s { k with confirmed := true, phase := 3, late := decide (s.guardCycle 0 < s.wck.cycle) }).finish o
      stTimeout 0 openTimeout ∧
    lockConfirm true s = (s.showConfirm (s.tieOrders [o]) (confirms k true (decide (s.guardCycle 0 < s.wck.cycle)))).finish { o with margin := true }
      stTimeout 0 openTimeout := by
  constructor
  · have hnew : confirms k false (decide (s.guardCycle 0 < s.wck.cycle)) =
        { k with confirmed := true, phase := 3, late := decide (s.guardCycle 0 < s.wck.cycle) } := by
      unfold confirms
      rw [if_pos hphase]
      rfl
    have hl : (confirms k false false).ords = [o] := hords
    rw [lockConfirm_eq hk hconf (by rw [hphase]; decide)]
    dsimp only
    rw [if_pos hphase, hnew, hl, if_neg Bool.false_ne_true, List.foldl_cons, List.foldl_nil]
  · have hl : (confirms k true false).ords = [{ o with margin := true }] := by
      unfold confirms
      rw [if_pos rfl, hords]
      rfl
    rw [lockConfirm_eq hk hconf (by rw [hphase]; decide)]
    dsimp only
    rw [if_pos hphase, hl, hords, if_pos rfl, List.foldl_cons, List.foldl_nil]

theorem tieOrders_tied {s : State} {o : Ord} (ho : o ∈ s.inflight) : (∃ x ∈ (s.tieOrders [o]).inflight, x.id = o.id) ∧
    ∀ x ∈ (s.tieOrders [o]).inflight, x.id = o.id → x.margin = true := by
  constructor
  · refine ⟨_, List.mem_map_of_mem ho, ?_⟩
    split <;> rfl
  · intro x hx hid
    obtain ⟨y, -, rfl⟩ := List.mem_map.1 hx
    by_cases hy : ([o].any (·.id == y.id)) = true
    · rw [if_pos hy]
    · rw [if_neg hy] at hid
      exact absurd (by simp [hid]) hy

/-! ## The time of a relock passes -/

theorem relockTimeout_fallsBack {s : State} {k : Relock} (hk : s.wck.relock = some k) (hphase : k.phase = 1) (hconf : k.confirmed = false)
    (hused : 16 ≤ k.used) :
    relockTimeout s = { s with wck := { s.wck with relock := some { k with phase := 2, used := 16 }, pllRef := k.oldRef } } := by
  unfold relockTimeout
  rw [hk]
  dsimp only
  rw [hconf, hphase, if_neg (by decide), if_pos rfl, if_pos hused]

theorem relockTimeout_early {s : State} {k : Relock} (hk : s.wck.relock = some k)
    (hearly : k.phase = 1 ∧ k.used < 16 ∨ k.phase = 2 ∧ k.used < 32) (hconf : k.confirmed = false) : relockTimeout s = s := by
  unfold relockTimeout
  rw [hk]
  dsimp only
  rcases hearly with ⟨hphase, hused⟩ | ⟨hphase, hused⟩
  · rw [hconf, hphase, if_neg (by decide), if_pos rfl, if_neg (by omega)]
  · rw [hconf, hphase, if_neg (by decide), if_neg (by decide), if_neg (by omega)]

theorem relockTimeout_closes {s : State} {k : Relock} {o : Ord} (hk : s.wck.relock = some k) (hphase : k.phase = 2) (hconf : k.confirmed = false)
    (hused : 32 ≤ k.used) (hords : k.ords = [o]) : relockTimeout s =
      (({ s with wck := { s.wck with relock := some { k with phase := 4 } } } : State).finish o stSluice 0 (openCause cClock)).doubtChip
        { cause := cClock } := by
  unfold relockTimeout
  rw [hk]
  dsimp only
  rw [hconf, hphase, if_neg (by decide), if_neg (by decide), if_pos hused, hords]
  rfl

/-- The relock that finds no frequency: its order ends FAILED_SLUICE, the chip's sluice closes. -/
theorem exec_relockTimeout_closes {s : State} {k : Relock} {o : Ord} (hs : s.stores = []) (hk : s.wck.relock = some k) (hphase : k.phase = 2)
    (hconf : k.confirmed = false) (hused : 32 ≤ k.used) (hords : k.ords = [o]) (ho : o ∈ s.inflight) (hopen : s.chipClosed = false) :
    ∃ t, exec .relockTimeout s = .next t ∧ t.wck.relock = some { k with phase := 4 } ∧ Ended t o ∧
      (∃ m ∈ (t.queue o.q).out, m.seq = o.seq ∧ m.status = stSluice) ∧ t.chipClosed = true ∧ t.get F.SLU_STATUS_CHIP_CAUSE = 0xFB := by
  have hev := relockTimeout_closes hk hphase hconf hused hords
  have hu : Untouched s { s with wck := { s.wck with relock := some { k with phase := 4 } } } := ⟨rfl, rfl, rfl⟩
  have hin : o ∈ ({ s with wck := { s.wck with relock := some { k with phase := 4 } } } : State).inflight := ho
  have hclock : ({ s with wck := { s.wck with relock := some { k with phase := 4 } } } : State).wck.relock = some { k with phase := 4 } := rfl
  have hopen' : ({ s with wck := { s.wck with relock := some { k with phase := 4 } } } : State).chipClosed = false := hopen
  generalize ({ s with wck := { s.wck with relock := some { k with phase := 4 } } } : State) = u at *
  obtain ⟨⟨m, hreport⟩, hended, -, -⟩ := finish_spec u o stSluice 0 (openCause cClock) false hin
  have hsettles := finish_settles u o stSluice 0 (openCause cClock) false
  have hwck := finish_wck u o stSluice 0 (openCause cClock) false
  have huv : Untouched s (u.finish o stSluice 0 (openCause cClock)) := hu.finish
  generalize u.finish o stSluice 0 (openCause cClock) = v at *
  have hvopen : v.chipClosed = false := (congrArg (fun x => decide (x = 1)) (hsettles.get (f := F.SLU_STATUS_CHIP_CLOSED) (.inl rfl))).trans hopen'
  have hd := doubtChip_open (ok := True) hvopen (d := { cause := cClock }) (by decide) (fun _ => rfl)
  generalize v.doubtChip { cause := cClock } = t at *
  have hexec : exec .relockTimeout s = .next t := run_next hs hev (huv.trans hd.untouched)
  refine ⟨t, hexec, ?_, hended.leaves hd.inflight, ?_, hd.shut, hd.named⟩
  · rw [hd.clock, hwck, hclock]
  · obtain ⟨y, hy, hseq, hstatus⟩ := hd.tallies trivial o.q _ (by rw [hreport]; exact List.mem_append_right _ (List.mem_singleton_self _))
    exact ⟨y, hy, hseq, hstatus rfl⟩

/-! ## O29 -/

/-- A relock at the frequency in force, by its fields. -/
theorem relock_ext {k m : Relock} (hords : k.ords = m.ords) (hturn : k.turnSet = m.turnSet) (hr : k.newR = m.newR) (hn : k.newN = m.newN)
    (href : k.newRef = m.newRef) (hold : k.oldR = m.oldR ∧ k.oldN = m.oldN ∧ k.oldRef = m.oldRef ∧ k.phase = m.phase ∧ k.used = m.used ∧
      k.confirmed = m.confirmed ∧ k.late = m.late) : k = m := by
  obtain ⟨h1, h2, h3, h4, h5, h6, h7⟩ := hold
  cases k
  cases m
  simp only at hords hturn hr hn href h1 h2 h3 h4 h5 h6 h7
  subst hords hturn hr hn href h1 h2 h3 h4 h5 h6 h7
  rfl

/-- The relock of a change due while none is under way. -/
def freshRelock (s : State) (x : FallowDue) : Relock :=
  let new := x.change.target (s.get F.WCK_TURN_RATE_RATE, s.get F.WCK_TURN_CYCLES_COUNT, s.wck.pllRef)
  ⟨[x.ord], x.change.setsTurn, new.1, new.2.1, new.2.2, s.get F.WCK_TURN_RATE_RATE, s.get F.WCK_TURN_CYCLES_COUNT, s.wck.pllRef, 1, 1, false, false⟩

theorem relockOf_fresh {s : State} (h : s.wck.relock = none) (x : FallowDue) : s.relockOf x = freshRelock s x := by
  unfold State.relockOf
  rw [h]
  rfl

/-- The relock that a second change due in the same turn shares. -/
theorem relockOf_shared {s v : State} {x y : FallowDue} (h : v.wck.relock = some (freshRelock s x)) :
    v.relockOf y = let new := y.change.target ((freshRelock s x).newR, (freshRelock s x).newN, (freshRelock s x).newRef)
      { freshRelock s x with
        ords := [x.ord, y.ord], turnSet := x.change.setsTurn || y.change.setsTurn, newR := new.1, newN := new.2.1, newRef := new.2.2 } := by
  unfold State.relockOf
  rw [h]
  rfl

theorem showConfirm_frame (s t : State) (k : Relock) : (s.showConfirm t k).wck.relock = some k ∧ (s.showConfirm t k).wck.cycle = t.wck.cycle ∧
    (s.showConfirm t k).wck.turn = t.wck.turn ∧ (s.showConfirm t k).inflight = t.inflight ∧ (s.showConfirm t k).queues = t.queues ∧
    Untouched t (s.showConfirm t k) := by
  obtain ⟨l, hl, -⟩ := showConfirm_rest s t k
  rw [hl]
  exact ⟨rfl, rfl, rfl, rfl, rfl, ⟨rfl, rfl, rfl⟩⟩

/-- Settles O29: PLL_RELOCK_START begins one relock, a confirmation ends or keeps it by its phase, its time falls back and then closes the chip. -/
theorem relockStartsConfirmsAndFallsBack : Obligations.RelockStartsConfirmsAndFallsBack := by
  intro s hs
  refine ⟨fun due k hc hnone hdue hold hforms => ?start, fun k hk hphase hconf => ⟨fun hearly => ?confirm, fun hlate => ?confirmLate⟩,
    fun k o hk hphase hconf hords ho => ⟨?previous, ?previousTie⟩,
    fun k tie hk hconf => ⟨run_same hs (lockConfirm_done hk hconf tie), run_same hs (relockTimeout_done hk hconf)⟩,
    fun k hk hphase hconf hused => run_next hs (relockTimeout_fallsBack hk hphase hconf hused) ⟨rfl, rfl, rfl⟩,
    fun k hk hearly hconf => run_same hs (relockTimeout_early hk hearly hconf),
    fun k o hk hphase hconf hused hords ho hopen => exec_relockTimeout_closes hs hk hphase hconf hused hords ho hopen⟩
  case start =>
    obtain ⟨hR, hN, hRef, hphase, hused, hconf, hlate⟩ := hold
    rcases hforms with ⟨o, r, n, rfl, hords, hturn, hnewR, hnewN, hnewRef⟩ | ⟨o, p, rfl, hords, hturn, hnewR, hnewN, hnewRef⟩ |
      ⟨o, r, n, x, p, rfl, hords, hturn, hnewR, hnewN, hnewRef⟩
    · refine exec_relockStart_one hs hc hnone hdue rfl rfl ?_ hords
      rw [relockOf_fresh hnone]
      exact (relock_ext hords hturn hnewR hnewN hnewRef ⟨hR, hN, hRef, hphase, hused, hconf, hlate⟩).symm
    · refine exec_relockStart_one hs hc hnone hdue rfl rfl ?_ hords
      rw [relockOf_fresh hnone]
      exact (relock_ext hords hturn (hnewR.trans hR) (hnewN.trans hN) hnewRef ⟨hR, hN, hRef, hphase, hused, hconf, hlate⟩).symm
    · refine exec_relockStart_two hs hc hnone hdue rfl rfl rfl rfl (fun h => nomatch h) ?_ hords
      have hrelock : (s.beginRelock ⟨o, s.wck.turn, .turnSet r n⟩).wck.relock = some (freshRelock s ⟨o, s.wck.turn, .turnSet r n⟩) := by
        rw [(beginRelock_begun s _).clock, relockOf_fresh hnone]
      rw [relockOf_shared hrelock]
      exact (relock_ext hords hturn hnewR hnewN hnewRef ⟨hR, hN, hRef, hphase, hused, hconf, hlate⟩).symm
  case confirm =>
    have hev := lockConfirm_new hk hphase hconf
    have hnot : ¬ s.guardCycle 0 < s.wck.cycle := Nat.not_lt.2 hearly
    unfold State.showConfirm at hev
    dsimp only at hev
    rw [if_neg hnot, decide_eq_false hnot] at hev
    exact run_next hs hev ⟨rfl, rfl, rfl⟩
  case confirmLate =>
    have hev := lockConfirm_new hk hphase hconf
    obtain ⟨l, hl, hmem⟩ := showConfirm_rest s s { k with confirmed := true, late := decide (s.guardCycle 0 < s.wck.cycle) }
    rw [hl, decide_eq_true hlate] at hev
    have hu : Untouched s { s with wck := { s.wck with relock := some { k with confirmed := true, late := true }, fallow := l } } := ⟨rfl, rfl, rfl⟩
    have hexec : exec (.pllLockConfirm false) s =
      .next { s with wck := { s.wck with relock := some { k with confirmed := true, late := true }, fallow := l } } := run_next hs hev hu
    exact ⟨_, hexec, rfl, hmem hlate, fun _ => rfl, hu.rd⟩
  case previous =>
    obtain ⟨hrelock, hcycle, hturn, hin, hq, hu⟩ := showConfirm_frame s s
      { k with confirmed := true, phase := 3, late := decide (s.guardCycle 0 < s.wck.cycle) }
    have hev := (lockConfirm_old hk hphase hconf hords).1
    generalize s.showConfirm s { k with confirmed := true, phase := 3, late := decide (s.guardCycle 0 < s.wck.cycle) } = u at *
    have hreports : Reports s (u.finish o stTimeout 0 openTimeout) o stTimeout 0 openTimeout := by
      obtain ⟨m, hm⟩ := (finish_spec u o stTimeout 0 openTimeout false (hin ▸ ho)).1
      exact ⟨m, by rw [hm, hcycle, hturn, queue_congr hq]⟩
    have hended := (finish_spec u o stTimeout 0 openTimeout false (hin ▸ ho)).2.1
    have hwck := finish_wck u o stTimeout 0 openTimeout false
    have hexec : exec (.pllLockConfirm false) s = .next (u.finish o stTimeout 0 openTimeout) := run_next hs hev hu.finish
    exact ⟨_, hexec, hreports, hended, by rw [hwck, hrelock], hu.finish.rd⟩
  case previousTie =>
    obtain ⟨hsome, htied⟩ := tieOrders_tied ho
    obtain ⟨-, hcycle, hturn, hin, hq, hu⟩ := showConfirm_frame s (s.tieOrders [o]) (confirms k true (decide (s.guardCycle 0 < s.wck.cycle)))
    have hev := (lockConfirm_old hk hphase hconf hords).2
    generalize s.showConfirm (s.tieOrders [o]) (confirms k true (decide (s.guardCycle 0 < s.wck.cycle))) = u at *
    rw [← hin] at hsome htied
    obtain ⟨htally, hended⟩ := finish_tied (o := { o with margin := true }) stTimeout 0 openTimeout hsome htied
    have hut : Untouched s u := ⟨hu.pending, hu.mem, hu.stores⟩
    have hexec : exec (.pllLockConfirm true) s = .next (u.finish { o with margin := true } stTimeout 0 openTimeout) := run_next hs hev hut.finish
    refine ⟨_, hexec, hended, htally.trans ?_⟩
    rw [hcycle, hturn, queue_congr hq]
    rfl

end Sys2Proof.Machine
end

section
/-! PROOFS. The turn boundary (R38, R40, R61, R63, R139, R182, R329): what ends with a turn, what the next one begins with. -/

namespace Sys2Proof.Machine

/-! ## What the cores keep -/

/-- A core that reads nothing more and has nothing left to write. -/
def Core.still (x : Core) : Prop := x.runs = [] ∧ x.writes = []

theorem setRegister_writes (x : Core) (w : LateWrite) : (x.setRegister w).writes = x.writes := by
  unfold Core.setRegister
  dsimp only
  split <;> rfl

theorem visible_writes (x : Core) (t : Nat) : (x.visible t).writes = x.writes := by
  unfold Core.visible
  exact foldl_keeps (R := fun x y : Core => y.writes = x.writes) (fun _ => rfl) (fun h k => k.trans h) _ (fun x w _ => setRegister_writes x w) _

theorem core_writes_of_next {x : Core} (h : x.next = none) : x.writes = [] := by
  unfold Core.next at h
  dsimp only at h
  split at h
  next hl =>
    obtain ⟨hruns, -⟩ := List.append_eq_nil_iff.1 hl
    exact List.map_eq_nil_iff.1 (List.append_eq_nil_iff.1 hruns).2
  next => exact nomatch h

theorem writes_of_coreNext {s : State} (h : s.coreNext = none) {x : Nat × Core} (hx : x ∈ s.cores) : x.2.writes = [] := by
  unfold State.coreNext at h
  split at h
  next hl =>
    refine core_writes_of_next ?_
    rw [Option.eq_none_iff_forall_ne_some]
    intro t ht
    have : t ∈ s.cores.filterMap fun x => x.2.next := List.mem_filterMap.2 ⟨x, hx, ht⟩
    rw [hl] at this
    exact List.not_mem_nil this
  next => exact nomatch h

/-- What every entry of a map and the default satisfy, every lookup does. -/
theorem smGet_forall {α : Type} {p : α → Prop} {d : α} {m : SMap α} (hd : p d) (h : ∀ e ∈ m, p e.2) (k : Nat) : p (smGet d m k) := by
  induction m with
  | nil => exact hd
  | cons e m ih =>
    obtain ⟨i, v⟩ := e
    unfold smGet
    split
    · exact h _ List.mem_cons_self
    · exact ih fun e he => h e (List.mem_cons_of_mem _ he)

/-- After a turn's end no core reads or has a write left, where none had an access left before. -/
theorem endCores_still {s : State} (h : s.coreNext = none) (c : Nat) : (s.endCores.core c).still := by
  unfold State.core
  refine smGet_forall ⟨rfl, rfl⟩ (fun e he => ?_) c
  unfold State.endCores at he
  obtain ⟨x, hx, he⟩ := List.mem_filterMap.1 he
  dsimp only at he
  split at he
  · exact nomatch he
  · obtain rfl := Option.some.inj he
    refine ⟨rfl, ?_⟩
    dsimp only
    rw [visible_writes, writes_of_coreNext h hx]
    rfl

/-! ## The last cycle of a turn -/

/-- A register of the cores or of the flume engines that a turn's end clears. -/
def TurnReg (r : Nat) : Prop := (∃ c < 4608, r = 0x51000 + 0x10 * c) ∨ ∃ e < 16, r = 0xA8000 + 0x10 * e

/-- What has ended with the turn, in its last cycle. -/
structure TurnEnded (s v : State) : Prop where
  rest : v = { s with regs := v.regs, cores := v.cores, wck := v.wck }
  clock : v.wck.turn = s.wck.turn ∧ v.wck.limits = s.wck.limits ∧ v.wck.fallow = s.wck.fallow ∧ v.wck.relock = s.wck.relock
  reg : ∀ r, ¬ TurnReg r → v.reg r = s.reg r
  running : ∀ c < 4608, v.get (F.TIL_CORE_STATE_RUNNING c) = 0
  still : ∀ c, (v.core c).still

/-- Puts of 0 into registers of a family. -/
theorem clearAll_spec (f : Nat → Fld) (l : List Nat) (s : State) (h64 : ∀ c, (f c).lo + (f c).w ≤ 64) :
    (∃ r, l.foldl (fun s c => s.put (f c) 0) s = { s with regs := r }) ∧
      (∀ r, (∀ c ∈ l, r ≠ (f c).reg) → (l.foldl (fun s c => s.put (f c) 0) s).reg r = s.reg r) ∧
      ∀ g : Fld, (s.get g = 0 ∨ g ∈ l.map f) → (∀ c ∈ l, (f c).reg = g.reg → f c = g ∨ (f c).lo + (f c).w ≤ g.lo ∨ g.lo + g.w ≤ (f c).lo) →
        (l.foldl (fun s c => s.put (f c) 0) s).get g = 0 := by
  induction l generalizing s with
  | nil => exact ⟨⟨_, rfl⟩, fun _ _ => rfl, fun g hg _ => hg.resolve_right List.not_mem_nil⟩
  | cons c l ih =>
    obtain ⟨⟨x, hx⟩, hreg, hget⟩ := ih (s.put (f c) 0)
    refine ⟨⟨x, by rw [List.foldl_cons, hx]; rfl⟩, fun r hr => ?_, fun g hg hsep => hget g ?_ fun d hd => hsep d (List.mem_cons_of_mem _ hd)⟩
    · exact (hreg r fun d hd => hr d (List.mem_cons_of_mem _ hd)).trans (State.reg_put_ne s (f c) 0 (hr c List.mem_cons_self))
    · by_cases hc : f c = g
      · exact .inl (by rw [← hc, State.get_put_self s (f c) 0 (h64 c), Nat.zero_mod])
      · have hkeep : (s.put (f c) 0).get g = s.get g := by
          by_cases hr : (f c).reg = g.reg
          · exact State.get_put_beside s (f c) g 0 (h64 c) ((hsep c List.mem_cons_self hr).resolve_left hc)
          · exact State.get_put_reg s (f c) g 0 (Ne.symm hr)
        rw [hkeep]
        refine hg.imp_right fun hm => ?_
        rw [List.map_cons, List.mem_cons] at hm
        exact hm.resolve_left (Ne.symm hc)

theorem advanceTo_clock (s : State) (c : Nat) : (s.advanceTo c).wck.turn = s.wck.turn ∧ (s.advanceTo c).wck.limits = s.wck.limits ∧
    (s.advanceTo c).wck.fallow = s.wck.fallow ∧ (s.advanceTo c).wck.relock = s.wck.relock := by
  unfold State.advanceTo State.addCycles
  dsimp only
  split
  · split <;> exact ⟨rfl, rfl, rfl, rfl⟩
  · exact ⟨rfl, rfl, rfl, rfl⟩

/-- The turn's end up to the books of its log. -/
def State.endTurn (s : State) : State :=
  let s := s.endCores.clearRunning
  let s := (List.range 16).foldl (fun s e => s.put (F.FLU_ENGINE_BUSY e) 0) s
  s.advanceTo (s.turnLength - 1)

theorem clearRunning_spec (s : State) : (∃ r, s.clearRunning = { s with regs := r }) ∧
    (∀ r, (∀ c < 4608, r ≠ 0x51000 + 0x10 * c) → s.clearRunning.reg r = s.reg r) ∧
    ∀ c < 4608, s.clearRunning.get (F.TIL_CORE_STATE_RUNNING c) = 0 := by
  obtain ⟨hrest, hreg, hget⟩ := clearAll_spec F.TIL_CORE_STATE_RUNNING
    ((List.range 4608).filter fun c => s.on (F.TIL_CORE_STATE_RUNNING c)) s fun c => Nat.le_of_ble_eq_true rfl
  refine ⟨hrest, fun r hr => hreg r fun c hc => hr c (List.mem_range.1 (List.mem_filter.1 hc).1), fun c hc => ?_⟩
  refine hget (F.TIL_CORE_STATE_RUNNING c) ?_ fun d _ hd => .inl ?_
  · by_cases hon : s.on (F.TIL_CORE_STATE_RUNNING c) = true
    · exact .inr (List.mem_map_of_mem (List.mem_filter.2 ⟨List.mem_range.2 hc, hon⟩))
    · have hlt : s.get (F.TIL_CORE_STATE_RUNNING c) < 2 ^ 1 := s.get_lt (F.TIL_CORE_STATE_RUNNING c)
      have hne : s.get (F.TIL_CORE_STATE_RUNNING c) ≠ 1 := fun h => hon (decide_eq_true h)
      exact .inl (by omega)
  · have hdc : 0x51000 + 0x10 * d = 0x51000 + 0x10 * c := hd
    obtain rfl : d = c := by omega
    rfl

/-- Registers alone are cleared: a state of which a turn's end keeps the rest. -/
structure TurnCleared (s w : State) : Prop where
  rest : w = { s with regs := w.regs }
  reg : ∀ r, ¬ TurnReg r → w.reg r = s.reg r
  running : ∀ c < 4608, w.get (F.TIL_CORE_STATE_RUNNING c) = 0

theorem clearTurn_cleared (s : State) :
    TurnCleared s ((List.range 16).foldl (fun s e => s.put (F.FLU_ENGINE_BUSY e) 0) s.clearRunning) := by
  obtain ⟨⟨x, hx⟩, hreg, hrunning⟩ := clearRunning_spec s
  generalize s.clearRunning = v at *
  obtain ⟨⟨y, hy⟩, hreg', -⟩ := clearAll_spec F.FLU_ENGINE_BUSY (List.range 16) v fun c => Nat.le_of_ble_eq_true rfl
  generalize (List.range 16).foldl (fun s e => s.put (F.FLU_ENGINE_BUSY e) 0) v = w at *
  refine ⟨by rw [hy, hx], fun r hr => ?_, fun c hc => ?_⟩
  · exact (hreg' r fun e he h => hr (.inr ⟨e, List.mem_range.1 he, h⟩)).trans (hreg r fun c hc h => hr (.inl ⟨c, hc, h⟩))
  · have hapart : w.reg (0x51000 + 0x10 * c) = v.reg (0x51000 + 0x10 * c) := hreg' _ fun e he h => by
      have h' : 0x51000 + 0x10 * c = 0xA8000 + 0x10 * e := h
      have := List.mem_range.1 he
      omega
    exact (get_of_reg (f := F.TIL_CORE_STATE_RUNNING c) hapart).trans (hrunning c hc)

theorem TurnCleared.ended {s u w t : State} {x : SMap Core} {k : Wck} (h : TurnCleared u w) (hu : u = { s with cores := x })
    (ht : t = { w with wck := k }) (hclock : t.wck.turn = w.wck.turn ∧ t.wck.limits = w.wck.limits ∧ t.wck.fallow = w.wck.fallow ∧
      t.wck.relock = w.wck.relock) (hstill : ∀ c, (u.core c).still) : TurnEnded s t := by
  obtain ⟨hrest, hreg, hrunning⟩ := h
  have hw : w = { s with regs := w.regs, cores := x } := by rw [hrest, hu]
  have hwck : w.wck = s.wck := by rw [hrest, hu]
  have htreg : ∀ r, t.reg r = w.reg r := fun r => by rw [ht]; rfl
  have hureg : ∀ r, u.reg r = s.reg r := fun r => by rw [hu]; rfl
  have hcore : ∀ c, t.core c = u.core c := fun c => by rw [ht, hrest]; rfl
  rw [hwck] at hclock
  refine ⟨by rw [ht, hw], hclock, fun r hr => (htreg r).trans ((hreg r hr).trans (hureg r)), fun c hc => ?_, fun c => ?_⟩
  · exact (get_of_reg (f := F.TIL_CORE_STATE_RUNNING c) (htreg _)).trans (hrunning c hc)
  · rw [hcore]
    exact hstill c

/-- What a turn's end leaves in its last cycle. -/
theorem endTurn_ended {s : State} (h : s.coreNext = none) : TurnEnded s s.endTurn := by
  obtain ⟨x, hx⟩ : ∃ x, s.endCores = { s with cores := x } := ⟨_, rfl⟩
  unfold State.endTurn
  dsimp only
  have hclear := clearTurn_cleared s.endCores
  obtain ⟨k, hk⟩ := advanceTo_eq _ _
  exact hclear.ended hx hk (advanceTo_clock _ _) (endCores_still h)

/-! ## The books of the turn -/

theorem appendBooks_clean {s : State} (h : ∀ k, s.blockEcc k = .clean) : s.appendBooks = s := by
  have hone : ∀ book n, s.appendBook book n = s := fun book n => if_pos (.inr (h _))
  unfold State.appendBooks
  dsimp only
  rw [foldl_fixed (fun s (e : LogEntry) => s.appendBook none e.seq) s _ fun e _ => hone none e.seq]
  exact foldl_fixed _ _ _ fun a _ => foldl_fixed (fun s (e : Ledger) => s.appendBook (some a) e.seq) s _ fun e _ => hone (some a) e.seq

/-! ## Over the boundary -/

theorem addCycles_clock (s : State) (n : Nat) : (s.addCycles n).wck.turn = s.wck.turn ∧ (s.addCycles n).wck.limits = s.wck.limits ∧
    (s.addCycles n).wck.fallow = s.wck.fallow ∧ (s.addCycles n).wck.relock = s.wck.relock := by
  unfold State.addCycles
  dsimp only
  split <;> exact ⟨rfl, rfl, rfl, rfl⟩

/-- The clock at cycle 0 of the next turn. -/
structure Crossed (s t : State) : Prop where
  rest : t = { s with wck := t.wck, prevLength := t.prevLength, prevHz := t.prevHz, prevTurn := t.prevTurn }
  turn : t.wck.turn = (s.wck.turn + 1) % 2 ^ 48
  cycle : t.wck.cycle = 0
  lists : t.wck.limits = s.wck.limits ∧ t.wck.fallow = s.wck.fallow ∧ t.wck.relock = s.wck.relock

theorem Crossed.of {s u v : State} {k k' : Wck} (hu : u = { s with wck := k }) (hv : v = { u with wck := k' })
    (hcu : u.wck.turn = s.wck.turn ∧ u.wck.limits = s.wck.limits ∧ u.wck.fallow = s.wck.fallow ∧ u.wck.relock = s.wck.relock)
    (hcv : v.wck.turn = u.wck.turn ∧ v.wck.limits = u.wck.limits ∧ v.wck.fallow = u.wck.fallow ∧ v.wck.relock = u.wck.relock) (n h l : Nat) :
    Crossed s { v with wck := { v.wck with cycle := 0, turn := v.nextNumber }, prevLength := l, prevHz := h, prevTurn := n } := by
  obtain ⟨huturn, hulimits, hufallow, hurelock⟩ := hcu
  obtain ⟨hvturn, hvlimits, hvfallow, hvrelock⟩ := hcv
  refine ⟨?_, ?_, rfl, hvlimits.trans hulimits, hvfallow.trans hufallow, hvrelock.trans hurelock⟩
  · rw [hv, hu]
  · show v.nextNumber = _
    unfold State.nextNumber
    rw [hvturn, huturn]

theorem crossBoundary_crossed (s : State) : Crossed s s.crossBoundary := by
  unfold State.crossBoundary
  obtain ⟨k, hk⟩ := advanceTo_eq s (s.turnLength - 1)
  obtain ⟨k', hk'⟩ := addCycles_eq (s.advanceTo (s.turnLength - 1)) 1
  exact .of hk hk' (advanceTo_clock s _) (addCycles_clock _ 1) _ _ _

/-! ### The limits written in the turn (R61) -/

/-- A limit write that waits takes effect. -/
def State.applyLimit (s : State) (x : Nat × Nat) : State := if limitReg x.1 then s.setReg x.1 (BitVec.ofNat 64 x.2) else s

theorem applyLimit_frame (s : State) (x : Nat × Nat) : (∃ r, s.applyLimit x = { s with regs := r }) ∧
    ∀ r, limitReg r = false → (s.applyLimit x).reg r = s.reg r := by
  unfold State.applyLimit
  split
  next h => exact ⟨⟨_, rfl⟩, fun r hr => smGet_smSet_ne _ _ _ _ fun e => Bool.false_ne_true (hr.symm.trans (e ▸ h))⟩
  next => exact ⟨⟨_, rfl⟩, fun _ _ => rfl⟩

theorem applyLimit_reg (s : State) (x : Nat × Nat) {r : Nat} (hr : limitReg r = true) :
    (s.applyLimit x).reg r = if x.1 == r then BitVec.ofNat 64 x.2 else s.reg r := by
  unfold State.applyLimit
  by_cases h : x.1 = r
  · rw [if_pos (h ▸ hr), if_pos (beq_iff_eq.2 h), ← h]
    exact smGet_smSet_self _ _ _ _
  · rw [if_neg (fun e => h (beq_iff_eq.1 e))]
    split
    · exact smGet_smSet_ne _ _ _ _ (Ne.symm h)
    · rfl

theorem applyLimits_frame (l : List (Nat × Nat)) (s : State) : (∃ r, l.foldl State.applyLimit s = { s with regs := r }) ∧
    ∀ r, limitReg r = false → (l.foldl State.applyLimit s).reg r = s.reg r := by
  induction l generalizing s with
  | nil => exact ⟨⟨_, rfl⟩, fun _ _ => rfl⟩
  | cons x l ih =>
    obtain ⟨⟨y, hy⟩, hreg⟩ := applyLimit_frame s x
    obtain ⟨⟨z, hz⟩, hreg'⟩ := ih (s.applyLimit x)
    exact ⟨⟨z, by rw [List.foldl_cons, hz, hy]⟩, fun r hr => (hreg' r hr).trans (hreg r hr)⟩

/-- Each limit register holds what was written to it last, or what it held. -/
theorem applyLimits_reg (l : List (Nat × Nat)) (s : State) {r : Nat} (hr : limitReg r = true) :
    (l.foldl State.applyLimit s).reg r = match (l.filter fun x => x.1 == r).getLast? with
      | some x => BitVec.ofNat 64 x.2
      | none => s.reg r := by
  induction l using List.reverseRecOn with
  | nil => rfl
  | append_singleton l x ih =>
    rw [List.foldl_append, List.foldl_cons, List.foldl_nil, applyLimit_reg _ _ hr, List.filter_append]
    by_cases h : (x.1 == r) = true
    · have hx : [x].filter (fun x => x.1 == r) = [x] := List.filter_cons_of_pos (p := fun y : Nat × Nat => y.1 == r) h
      rw [if_pos h, hx, List.getLast?_concat]
    · have hx : [x].filter (fun x => x.1 == r) = [] := List.filter_cons_of_neg (p := fun y : Nat × Nat => y.1 == r) h
      rw [if_neg h, hx, List.append_nil]
      exact ih

/-! ## What the beginning of a turn leaves -/

/-- A register that no step of the beginning of a turn writes, of those that the turn's limits have set. -/
def Apart (r : Nat) : Prop := limitReg r = false ∧ r ≠ 0x100000 ∧ ∀ c < 4608, r ≠ 0x51000 + 0x10 * c

theorem apart_clock {r : Nat} (h : limitReg r = false) (hr : r < 0x51000) : Apart r := ⟨h, by omega, fun c _ => by omega⟩
theorem limitReg_false {r : Nat} (h : r < 0x20040 ∨ 0x20050 ≤ r) : limitReg r = false := by
  unfold limitReg
  simp only [Bool.or_eq_false_iff, beq_eq_false_iff_ne]
  omega
theorem apart_load {q : Nat} : Apart (0x3102C + 0x40 * q) := ⟨limitReg_false (by omega), by omega, fun c _ => by omega⟩
theorem apart_allot {a : Nat} (h : a < 256) : Apart (0x40100 + 0x100 * a) := ⟨limitReg_false (by omega), by omega, fun c _ => by omega⟩
theorem apart_log : Apart 0x100010 := ⟨limitReg_false (by omega), by omega, fun c _ => by omega⟩
theorem apart_links : Apart 0xB8000 := ⟨limitReg_false (by omega), by omega, fun c _ => by omega⟩

/-- What the beginning of a turn leaves, once the limits written in the old one are in force. -/
structure Passes (s t : State) : Prop where
  untouched : Untouched s t
  clock : t.wck.turn = s.wck.turn ∧ t.wck.cycle = s.wck.cycle ∧ t.wck.limits = s.wck.limits ∧ t.wck.isFallow = s.wck.isFallow
  links : t.linkSlots = s.linkSlots ∧ t.early = s.early
  reg : ∀ r, limitReg r = true ∨ r = 0x100000 → t.reg r = s.reg r
  running : ∀ c < 4608, t.get (F.TIL_CORE_STATE_RUNNING c) = s.get (F.TIL_CORE_STATE_RUNNING c)
  still : ∀ c, (s.core c).still → (t.core c).still

namespace Passes

theorem refl (s : State) : Passes s s := ⟨.refl s, ⟨rfl, rfl, rfl, rfl⟩, ⟨rfl, rfl⟩, fun _ _ => rfl, fun _ _ => rfl, fun _ h => h⟩

variable {s t u : State}

theorem trans (h : Passes s t) (k : Passes t u) : Passes s u where
  untouched := h.untouched.trans k.untouched
  clock := ⟨k.clock.1.trans h.clock.1, k.clock.2.1.trans h.clock.2.1, k.clock.2.2.1.trans h.clock.2.2.1, k.clock.2.2.2.trans h.clock.2.2.2⟩
  links := ⟨k.links.1.trans h.links.1, k.links.2.trans h.links.2⟩
  reg r hr := (k.reg r hr).trans (h.reg r hr)
  running c hc := (k.running c hc).trans (h.running c hc)
  still c hc := k.still c (h.still c hc)

/-- The parts that the beginning of a turn may change, registers aside. -/
theorem same (h : Passes s t) (e : u = { u with
    pending := t.pending, mem := t.mem, stores := t.stores, wck := t.wck, linkSlots := t.linkSlots, early := t.early, regs := t.regs
    cores := t.cores }) : Passes s u := by
  refine h.trans ?_
  rw [e]
  exact ⟨⟨rfl, rfl, rfl⟩, ⟨rfl, rfl, rfl, rfl⟩, ⟨rfl, rfl⟩, fun _ _ => rfl, fun _ _ => rfl, fun _ h => h⟩

theorem put (h : Passes s t) {f : Fld} (hf : Apart f.reg) (v : Nat) : Passes s (t.put f v) :=
  h.trans ⟨(Untouched.refl t).put, ⟨rfl, rfl, rfl, rfl⟩, ⟨rfl, rfl⟩, fun r hr => State.reg_put_ne t f v (by
      rintro rfl
      rcases hr with hr | hr
      · exact Bool.false_ne_true (hf.1.symm.trans hr)
      · exact hf.2.1 hr), fun c hc => State.get_put_reg t f (F.TIL_CORE_STATE_RUNNING c) v (Ne.symm (hf.2.2 c hc)), fun _ h => h⟩

theorem bump (h : Passes s t) {f : Fld} (hf : Apart f.reg) (n : Nat) : Passes s (t.bump f n) := h.put hf _

/-- The clock's estimates and lists. -/
theorem setWck (h : Passes s t) {w : Wck} (hw : w.turn = t.wck.turn ∧ w.cycle = t.wck.cycle ∧ w.limits = t.wck.limits ∧ w.isFallow = t.wck.isFallow) :
    Passes s { t with wck := w } :=
  h.trans ⟨⟨rfl, rfl, rfl⟩, hw, ⟨rfl, rfl⟩, fun _ _ => rfl, fun _ _ => rfl, fun _ h => h⟩

theorem logEntry (h : Passes s t) (e : LogEntry) : Passes s (t.logEntry e) := by
  unfold State.logEntry
  dsimp only
  split
  · exact (h.put apart_log _).same rfl
  · exact ((h.put apart_log _).bump apart_log _).same rfl

end Passes

theorem finish_passes (s : State) (o : Ord) (st i d : Nat) (m : Bool) : Passes s (s.finish o st i d m) := by
  have hreg : ∀ r, Apart r → ∀ x, (limitReg x = true ∨ x = 0x100000 ∨ ∃ c < 4608, x = 0x51000 + 0x10 * c) → x ≠ r := by
    rintro r ⟨h1, h2, h3⟩ x hx rfl
    rcases hx with hx | hx | ⟨c, hc, hx⟩
    · exact Bool.false_ne_true (h1.symm.trans hx)
    · exact h2 hx
    · exact h3 c hc hx
  have hkeep : ∀ x, (limitReg x = true ∨ x = 0x100000 ∨ ∃ c < 4608, x = 0x51000 + 0x10 * c) → (s.finish o st i d m).reg x = s.reg x := fun x hx =>
    finish_reg o st i d m (hreg _ (apart_clock (limitReg_false (by omega)) (by omega)) x hx) (hreg _ apart_load x hx) (hreg _ (apart_allot o.allot_lt) x hx)
  obtain ⟨_, _, _, _, _, h⟩ := finish_eq s o st i d m
  refine ⟨(Untouched.refl s).finish, by rw [h]; exact ⟨rfl, rfl, rfl, rfl⟩, by rw [h]; exact ⟨rfl, rfl⟩, fun r hr => hkeep r (hr.imp_right .inl),
    fun c hc => get_of_reg (hkeep _ (.inr (.inr ⟨c, hc, rfl⟩))), fun c hc => ?_⟩
  rw [h]
  exact hc

theorem passes_foldl {β : Type} {f : State → β → State} (l : List β) (h : ∀ s, ∀ x ∈ l, Passes s (f s x)) (s : State) : Passes s (l.foldl f s) :=
  foldl_keeps Passes.refl Passes.trans l h s

/-! ### The relock at a boundary -/

theorem apart_state : Apart 0x20020 := apart_clock (limitReg_false (by omega)) (by omega)

theorem setAnchor_passes {s t : State} (h : Passes s t) (k : Nat) : Passes s (t.setAnchor k) :=
  (h.put (f := F.WCK_ANCHOR_SEC_SEC) (apart_clock (limitReg_false (by decide)) (by decide)) _).put (f := F.WCK_ANCHOR_TURN_TURN)
    (apart_clock (limitReg_false (by decide)) (by decide)) _

theorem setRate_passes {s t : State} (h : Passes s t) (r n : Nat) : Passes s (t.setRate r n) :=
  (((h.put (f := F.WCK_TURN_RATE_RATE) (apart_clock (limitReg_false (by decide)) (by decide)) _).put (f := F.WCK_TURN_CYCLES_COUNT)
    (apart_clock (limitReg_false (by decide)) (by decide)) _).put (f := F.AQD_CHIP_Q_SLOT) apart_links _).setWck ⟨rfl, rfl, rfl, rfl⟩

theorem addFallow_passes (s : State) (n : Nat) : Passes s (s.addFallow n) := by
  unfold State.addFallow
  split
  · exact .refl s
  · exact (Passes.refl s).setWck ⟨rfl, rfl, rfl, rfl⟩

theorem rebook_passes {s t : State} (h : Passes s t) (k : Nat) : Passes s (t.rebook k) :=
  (h.same rfl).trans (passes_foldl _ (fun s _ _ => addFallow_passes s _) _)

theorem relockBoundary_none {s : State} (h : s.wck.relock = none) (k : Nat) : s.relockBoundary k = s := by
  unfold State.relockBoundary
  rw [h]

theorem relockBoundary_passes (s : State) (k : Nat) : Passes s (s.relockBoundary k) := by
  unfold State.relockBoundary
  split
  · exact .refl s
  next x hx =>
    dsimp only
    have hrate : ∀ v r n, Passes s v → Passes s (if x.turnSet = true then (v.setAnchor k).setRate r n else v) := fun v r n h => by
      split
      · exact setRate_passes (setAnchor_passes h k) r n
      · exact h
    have hfirst : Passes s (if x.turnSet = true ∧ x.used = 1 ∧ x.phase = 1 then (s.setAnchor k).setRate x.newR x.newN else s) := by
      split
      · exact setRate_passes (setAnchor_passes (.refl s) k) _ _
      · exact .refl s
    have hext : ∀ v, Passes s v → ∀ b : Bool, Passes s (if b = true then v.bump F.WCK_STATE_FALLOW_EXT else v) := fun v h b => by
      split
      · exact h.bump apart_state _
      · exact h
    have hmore : ∀ v, Passes s v → ∀ y, Passes s { v.bump F.WCK_STATE_FALLOW_EXT with wck := { v.wck with relock := some y } } := fun v h y =>
      (h.bump (f := F.WCK_STATE_FALLOW_EXT) apart_state 1).setWck ⟨rfl, rfl, rfl, rfl⟩
    have hclock : ∀ v, Passes s v → Passes s { v with wck := { v.wck with relock := none } } := fun v h => h.setWck ⟨rfl, rfl, rfl, rfl⟩
    have hpll : ∀ v, Passes s v → Passes s { v.put F.WCK_STATE_ON_LAGOON 0 with wck := { v.wck with relock := none } } := fun v h =>
      (h.put (f := F.WCK_STATE_ON_LAGOON) apart_state 0).setWck ⟨rfl, rfl, rfl, rfl⟩
    have hlate := fun b => hext _ hfirst b
    split
    · split
      · exact hmore _ (hlate _) _
      · exact rebook_passes (hpll _ (hrate _ _ _ (hlate _))) k
    · split
      · split
        · exact hmore _ (hlate _) _
        · exact rebook_passes (hclock _ (hrate _ _ _ (hlate _))) k
      · split
        · refine .trans (rebook_passes (hpll _ (hlate _)) k) (passes_foldl _ (fun s o _ => ?_) _)
          split
          · exact .refl s
          · exact finish_passes ..
        · exact hmore _ (hlate _) _

/-! ### Estimates, trims, peers and plans -/

theorem holdEstimate_passes (s : State) : Passes s s.holdEstimate := by
  unfold State.holdEstimate
  split
  · exact .refl s
  · exact (((Passes.refl s).same (u := { s with free := s.free + 1 }) rfl).put (f := F.WCK_HOLDOVER_ELAPSED)
      (apart_clock (limitReg_false (by decide)) (by decide)) _).put (f := F.WCK_HOLDOVER_TERR_EST) (apart_clock (limitReg_false (by decide)) (by decide)) _

theorem trim_passes (s : State) : Passes s s.trim := by
  unfold State.trim
  split
  · exact ((Passes.refl s).same (u := { s with free := s.free + 1 }) rfl).put (f := F.WCK_PHASE_FREQ_OFS)
      (apart_clock (limitReg_false (by decide)) (by decide)) _
  · exact .refl s

theorem notePeers_passes (s : State) : Passes s s.notePeers := by
  unfold State.notePeers
  split
  · exact .refl s
  · refine passes_foldl _ (fun s p _ => ?_) s
    split
    · exact (Passes.refl s).logEntry _
    · exact .refl s

theorem coresOf_lt {s : State} {a c : Nat} (h : c ∈ s.coresOf a) : c < 4608 := by
  obtain ⟨t, ht, hc⟩ := List.mem_flatMap.1 h
  obtain ⟨i, hi, rfl⟩ := List.mem_map.1 hc
  have h1 := List.mem_range.1 (List.mem_filter.1 ht).1
  have h2 := List.mem_range.1 hi
  omega

/-- A core's standby bank goes: what it reads and writes stays. -/
theorem setBank_passes (s : State) (c : Nat) {x : Core} (hx : x.runs = (s.core c).runs ∧ x.writes = (s.core c).writes) : Passes s (s.setCore c x) :=
  ⟨⟨rfl, rfl, rfl⟩, ⟨rfl, rfl, rfl, rfl⟩, ⟨rfl, rfl⟩, fun _ _ => rfl, fun _ _ => rfl, fun d hd => by
    by_cases h : d = c
    · subst h
      have hself : (s.setCore d x).core d = x := smGet_smSet_self _ _ _ _
      rw [hself]
      exact ⟨hx.1.trans hd.1, hx.2.trans hd.2⟩
    · have hother : (s.setCore c x).core d = s.core d := smGet_smSet_ne _ _ _ _ h
      rw [hother]
      exact hd⟩

theorem standby_passes (s : State) {c : Nat} (hc : c < 4608) (v : Nat) : Passes s (s.put (F.TIL_CORE_STATE_STANDBY_VALID c) v) :=
  ⟨⟨rfl, rfl, rfl⟩, ⟨rfl, rfl, rfl, rfl⟩, ⟨rfl, rfl⟩, fun r hr => State.reg_put_ne s (F.TIL_CORE_STATE_STANDBY_VALID c) v (by
      rintro rfl
      have hlow := limitReg_false (r := 0x51000 + 0x10 * c) (by omega)
      rcases hr with hr | hr
      · exact Bool.false_ne_true (hlow.symm.trans hr)
      · have : 0x51000 + 0x10 * c = 0x100000 := hr
        omega),
    fun d _ => State.get_put_beside s (F.TIL_CORE_STATE_STANDBY_VALID c) (F.TIL_CORE_STATE_RUNNING d) v (Nat.le_of_ble_eq_true rfl)
      (.inl (Nat.le_of_ble_eq_true rfl)), fun _ h => h⟩

theorem dropStandby_passes (s : State) (a : Nat) : Passes s (s.dropStandby a) := by
  unfold State.dropStandby
  dsimp only
  refine ((Passes.refl s).same (u := s.setAllot a _) rfl).trans (passes_foldl _ (fun s c hc => ?_) _)
  refine .trans (setBank_passes s c ?_) (standby_passes _ (coresOf_lt hc) 0)
  split <;> exact ⟨rfl, rfl⟩

theorem passes_disarm (s : State) (a : Nat) : Passes s (s.disarm a) := by
  unfold State.disarm
  dsimp only
  split
  · exact .refl s
  · exact ((Passes.refl s).same rfl).trans (finish_passes ..)

theorem endStops_passes (s : State) (a : Nat) : Passes s (s.endStops a) :=
  ((Passes.refl s).same (u := s.setAllot a { s.allot a with stops := [] }) rfl).trans (passes_foldl _ (fun _ _ _ => finish_passes ..) _)

theorem dropArmed_passes (s : State) (a : Nat) : Passes s (s.dropArmed a) := by
  unfold State.dropArmed
  split
  · exact (passes_disarm s a).trans (dropStandby_passes _ a)
  · exact .refl s

theorem took_passes (s : State) (o : Ord) : Passes s (s.took o) := (Passes.refl s).same rfl

/-- No flume moves for an allotment as a turn begins. -/
def State.dropFlumes (s : State) (a : Nat) : State := if (s.allot a).flumes = [] then s else s.setAllot a { s.allot a with flumes := [] }

/-- A stop of an allotment's plans takes effect. -/
def State.stopsNow (s : State) (a : Nat) : Bool := (s.allot a).stops.any fun m => turnPassed s m.2

/-- The orders of the stops that take effect have done so. -/
def State.takeStops (s : State) (a : Nat) : State :=
  (s.allot a).stops.foldl (fun s m => if turnPassed s m.2 then s.took m.1 else s) s

/-- The next turn of a plan. -/
def State.stepPlan (s : State) (a : Nat) (p : Plan) : State :=
  s.setAllot a { s.allot a with
    executed := (s.allot a).executed + 1
    planTurn := if (s.allot a).executed = 0 then 0 else ((s.allot a).planTurn + 1) % max 1 p.l
    txs := [] }

/-- A running plan at a boundary: it ends, stands still in a fallow turn, or steps. -/
def State.runningBoundary (s : State) (a : Nat) (p : Plan) : State :=
  if s.stopsNow a || (!p.repeat_ && decide (p.l ≤ (s.allot a).executed)) then ((s.takeStops a).dropArmed a).put (F.ALT_STATE_STATE a) 5
  else if s.wck.isFallow then s
  else s.stepPlan a p

/-- An allotment at a boundary, its flumes idle. -/
def State.boundaryOf (s : State) (a : Nat) : State :=
  if s.altState a = 3 then if s.stopsNow a then ((s.disarm a).endStops a).put (F.ALT_STATE_STATE a) 2 else s
  else if s.altState a = 4 then match (s.allot a).active with
    | none => s
    | some p => s.runningBoundary a p
  else s

theorem planBoundary_eq (s : State) (a : Nat) : s.planBoundary a = (s.dropFlumes a).boundaryOf a := rfl

theorem dropFlumes_passes (s : State) (a : Nat) : Passes s (s.dropFlumes a) := by
  unfold State.dropFlumes
  split
  · exact .refl s
  · exact (Passes.refl s).same rfl

theorem putState_passes {s t : State} (h : Passes s t) {a : Nat} (ha : a < 16) (n : Nat) : Passes s (t.put (F.ALT_STATE_STATE a) n) :=
  h.put (f := F.ALT_STATE_STATE a) (apart_allot (by omega)) n

theorem takeStops_passes (s : State) (a : Nat) : Passes s (s.takeStops a) := by
  refine passes_foldl _ (fun s m _ => ?_) _
  split
  · exact took_passes ..
  · exact .refl s

theorem runningBoundary_passes (s : State) {a : Nat} (ha : a < 16) (p : Plan) : Passes s (s.runningBoundary a p) := by
  unfold State.runningBoundary
  split
  · exact putState_passes ((takeStops_passes s a).trans (dropArmed_passes _ a)) ha 5
  · split
    · exact .refl s
    · exact (Passes.refl s).same rfl

theorem boundaryOf_passes (s : State) {a : Nat} (ha : a < 16) : Passes s (s.boundaryOf a) := by
  unfold State.boundaryOf
  split
  · split
    · exact putState_passes ((passes_disarm s a).trans (endStops_passes _ a)) ha 2
    · exact .refl s
  · split
    · split
      · exact .refl s
      · exact runningBoundary_passes s ha _
    · exact .refl s

theorem planBoundary_passes (s : State) {a : Nat} (ha : a < 16) : Passes s (s.planBoundary a) :=
  planBoundary_eq s a ▸ (dropFlumes_passes s a).trans (boundaryOf_passes _ ha)

/-! ### What the boundary leaves of an allotment's plan -/

/-- Nothing of an allotment that its plan's next turn depends on differs. -/
def Allot.samePlan (x y : Allot) : Prop :=
  y.active = x.active ∧ y.stops = x.stops ∧ y.armed = x.armed ∧ y.executed = x.executed ∧ y.planTurn = x.planTurn ∧ y.txs = x.txs

theorem Allot.samePlan.refl (x : Allot) : x.samePlan x := ⟨rfl, rfl, rfl, rfl, rfl, rfl⟩

theorem Allot.samePlan.trans {x y z : Allot} (h : x.samePlan y) (k : y.samePlan z) : x.samePlan z := by
  obtain ⟨h1, h2, h3, h4, h5, h6⟩ := h
  obtain ⟨k1, k2, k3, k4, k5, k6⟩ := k
  exact ⟨k1.trans h1, k2.trans h2, k3.trans h3, k4.trans h4, k5.trans h5, k6.trans h6⟩

/-- What steps that concern other allotments leave of allotment `a`. -/
structure PlanKept (a : Nat) (s t : State) : Prop where
  state : t.altState a = s.altState a
  plan : (s.allot a).samePlan (t.allot a)

namespace PlanKept

variable {a b : Nat} {s t u : State}

theorem refl (s : State) : PlanKept a s s := ⟨rfl, .refl _⟩

theorem trans (h : PlanKept a s t) (k : PlanKept a t u) : PlanKept a s u := ⟨k.state.trans h.state, h.plan.trans k.plan⟩

theorem same (h : PlanKept a s t) (e : u = { u with allots := t.allots, regs := t.regs }) : PlanKept a s u := by
  refine h.trans ?_
  rw [e]
  exact ⟨rfl, .refl _⟩

theorem put (h : PlanKept a s t) {f : Fld} (hf : f.reg ≠ 0x40100 + 0x100 * a) (v : Nat) : PlanKept a s (t.put f v) :=
  h.trans ⟨State.get_put_reg t f (F.ALT_STATE_STATE a) v hf.symm, .refl _⟩

/-- A register below those of the allotments. -/
theorem putClock (h : PlanKept a s t) {f : Fld} (hf : f.reg < 0x40100) (v : Nat) : PlanKept a s (t.put f v) := h.put (by omega) v

theorem bump (h : PlanKept a s t) {f : Fld} (hf : f.reg ≠ 0x40100 + 0x100 * a) (n : Nat) : PlanKept a s (t.bump f n) := h.put hf _

theorem setAllot (h : PlanKept a s t) (hb : b ≠ a) (x : Allot) : PlanKept a s (t.setAllot b x) :=
  h.trans ⟨rfl, by
    have hother : (t.setAllot b x).allot a = t.allot a := smGet_smSet_ne _ _ _ _ (Ne.symm hb)
    rw [hother]
    exact .refl _⟩

end PlanKept

theorem planKept_foldl {β : Type} {a : Nat} {f : State → β → State} (l : List β) (h : ∀ s, ∀ x ∈ l, PlanKept a s (f s x)) (s : State) :
    PlanKept a s (l.foldl f s) :=
  foldl_keeps PlanKept.refl PlanKept.trans l h s

theorem setLoading_planKept (s : State) (b : Nat) (a : Nat) : PlanKept a s (s.setAllot b { s.allot b with loading := none }) := by
  refine ⟨rfl, ?_⟩
  by_cases h : b = a
  · subst h
    have hself : (s.setAllot b { s.allot b with loading := none }).allot b = { s.allot b with loading := none } := smGet_smSet_self _ _ _ _
    rw [hself]
    exact ⟨rfl, rfl, rfl, rfl, rfl, rfl⟩
  · exact ((PlanKept.refl s).setAllot h _).plan

theorem putBusy_planKept {a : Nat} (s : State) (b v : Nat) : PlanKept a s (s.put (F.ALT_STATE_BUSY b) v) := by
  refine ⟨?_, .refl _⟩
  by_cases h : b = a
  · subst h
    exact State.get_put_beside s (F.ALT_STATE_BUSY b) (F.ALT_STATE_STATE b) v (Nat.le_of_ble_eq_true rfl) (.inr (Nat.le_of_ble_eq_true rfl))
  · exact State.get_put_reg s (F.ALT_STATE_BUSY b) (F.ALT_STATE_STATE a) v (by
      show 0x40100 + 0x100 * a ≠ 0x40100 + 0x100 * b
      omega)

theorem freeLoad_planKept {a : Nat} (s : State) (o : Ord) : PlanKept a s (s.freeLoad o) := by
  unfold State.freeLoad
  dsimp only
  split
  · split
    · refine .trans (t := { s with load := s.load.filter fun l => l.ord.id != o.id }) ((PlanKept.refl s).same rfl) ?_
      exact .trans (setLoading_planKept _ o.allot a) (putBusy_planKept _ _ 0)
    · exact .refl s
  · exact .refl s

theorem finish_planKept {a : Nat} (s : State) (o : Ord) (st i d : Nat) (m : Bool) : PlanKept a s (s.finish o st i d m) := by
  unfold State.finish
  split
  · refine .same (t := s.endOrder o) ?_ rfl
    unfold State.endOrder
    split
    · refine .put (.put (.same (freeLoad_planKept s o) rfl) ?_ _) ?_ _
      · show 0x30008 ≠ _
        omega
      · show 0x3102C + 0x40 * o.q ≠ 0x40100 + 0x100 * a
        omega
    · exact .refl s
  · exact .refl s

theorem logEntry_planKept {a : Nat} {s t : State} (h : PlanKept a s t) (ha : a < 16) (e : LogEntry) : PlanKept a s (t.logEntry e) := by
  have hlog : 0x100010 ≠ 0x40100 + 0x100 * a := by omega
  unfold State.logEntry
  dsimp only
  split
  · exact (h.put hlog _).same rfl
  · exact ((h.put hlog _).bump hlog _).same rfl

theorem holdEstimate_planKept (s : State) (a : Nat) : PlanKept a s s.holdEstimate := by
  unfold State.holdEstimate
  split
  · exact .refl s
  · exact .putClock (.putClock (.same (.refl s) rfl) (by decide) _) (by decide) _

theorem trim_planKept (s : State) (a : Nat) : PlanKept a s s.trim := by
  unfold State.trim
  split
  · exact .putClock (.same (.refl s) rfl) (by decide) _
  · exact .refl s

theorem notePeers_planKept (s : State) {a : Nat} (ha : a < 16) : PlanKept a s s.notePeers := by
  unfold State.notePeers
  split
  · exact .refl s
  · refine planKept_foldl _ (fun s p _ => ?_) s
    split
    · exact logEntry_planKept (.refl s) ha _
    · exact .refl s

theorem planKept_disarm (s : State) {a b : Nat} (h : b ≠ a) : PlanKept a s (s.disarm b) := by
  unfold State.disarm
  dsimp only
  split
  · exact .refl s
  · exact ((PlanKept.refl s).setAllot h _).trans (finish_planKept ..)

theorem endStops_planKept (s : State) {a b : Nat} (h : b ≠ a) : PlanKept a s (s.endStops b) :=
  ((PlanKept.refl s).setAllot h { s.allot b with stops := [] }).trans (planKept_foldl _ (fun _ _ _ => finish_planKept ..) _)

theorem dropStandby_planKept (s : State) {a b : Nat} (ha : a < 16) (h : b ≠ a) : PlanKept a s (s.dropStandby b) := by
  unfold State.dropStandby
  dsimp only
  refine ((PlanKept.refl s).setAllot h _).trans (planKept_foldl _ (fun s c _ => ?_) _)
  refine .put (.same (.refl s) rfl) ?_ _
  show 0x51000 + 0x10 * c ≠ _
  omega

theorem dropArmed_planKept (s : State) {a b : Nat} (ha : a < 16) (h : b ≠ a) : PlanKept a s (s.dropArmed b) := by
  unfold State.dropArmed
  split
  · exact (planKept_disarm s h).trans (dropStandby_planKept _ ha h)
  · exact .refl s

theorem takeStops_planKept (s : State) (a b : Nat) : PlanKept a s (s.takeStops b) := by
  refine planKept_foldl _ (fun s m _ => ?_) _
  split
  · exact (PlanKept.refl s).same rfl
  · exact .refl s

theorem putState_planKept {s t : State} {a b : Nat} (h : PlanKept a s t) (hb : b ≠ a) (n : Nat) : PlanKept a s (t.put (F.ALT_STATE_STATE b) n) :=
  h.put (f := F.ALT_STATE_STATE b) (by
    show 0x40100 + 0x100 * b ≠ 0x40100 + 0x100 * a
    omega) n

theorem dropFlumes_planKept (s : State) (a b : Nat) : PlanKept a s (s.dropFlumes b) := by
  unfold State.dropFlumes
  split
  · exact .refl s
  · by_cases h : b = a
    · subst h
      have hself : (s.setAllot b { s.allot b with flumes := [] }).allot b = { s.allot b with flumes := [] } := smGet_smSet_self _ _ _ _
      refine ⟨rfl, ?_⟩
      rw [hself]
      exact ⟨rfl, rfl, rfl, rfl, rfl, rfl⟩
    · exact (PlanKept.refl s).setAllot h _

/-- Another allotment's boundary leaves an allotment's plan as it is. -/
theorem planBoundary_planKept (s : State) {a b : Nat} (ha : a < 16) (h : b ≠ a) : PlanKept a s (s.planBoundary b) := by
  rw [planBoundary_eq]
  refine (dropFlumes_planKept s a b).trans ?_
  unfold State.boundaryOf
  split
  · split
    · exact putState_planKept ((planKept_disarm _ h).trans (endStops_planKept _ h)) h 2
    · exact .refl _
  · split
    · split
      · exact .refl _
      · unfold State.runningBoundary
        split
        · exact putState_planKept ((takeStops_planKept _ a b).trans (dropArmed_planKept _ ha h)) h 5
        · split
          · exact .refl _
          · exact (PlanKept.refl _).setAllot h _
    · exact .refl _

/-- A running plan without stops or a follower: its last turn is over, or it has turns left. -/
structure RunsAlone (s : State) (a : Nat) (p : Plan) : Prop where
  state : s.altState a = 4
  active : (s.allot a).active = some p
  stops : (s.allot a).stops = []
  armed : (s.allot a).armed = none

theorem RunsAlone.kept {s t : State} {a : Nat} {p : Plan} (h : RunsAlone s a p) (k : PlanKept a s t) : RunsAlone t a p := by
  obtain ⟨hactive, hstops, harmed, -⟩ := k.plan
  exact ⟨k.state.trans h.state, hactive.trans h.active, hstops.trans h.stops, harmed.trans h.armed⟩

theorem RunsAlone.boundaryOf {s : State} {a : Nat} {p : Plan} (h : RunsAlone s a p) : s.boundaryOf a = s.runningBoundary a p := by
  unfold State.boundaryOf
  rw [if_neg (by rw [h.state]; decide), if_pos h.state, h.active]

theorem RunsAlone.stopsNow {s : State} {a : Nat} {p : Plan} (h : RunsAlone s a p) : s.stopsNow a = false := by
  unfold State.stopsNow
  rw [h.stops]
  rfl

/-- All its turns executed, it drains. -/
theorem RunsAlone.drains {s : State} {a : Nat} {p : Plan} (h : RunsAlone s a p) (hrepeat : p.repeat_ = false) (hl : p.l ≤ (s.allot a).executed) :
    (s.boundaryOf a).altState a = 5 := by
  have hover : (s.stopsNow a || (!p.repeat_ && decide (p.l ≤ (s.allot a).executed))) = true := by
    rw [h.stopsNow, hrepeat, decide_eq_true hl]
    rfl
  rw [h.boundaryOf]
  unfold State.runningBoundary
  rw [if_pos hover]
  exact State.get_put_self _ (F.ALT_STATE_STATE a) 5 (Nat.le_of_ble_eq_true rfl)

/-- With turns left it executes the next one, unless the turn is fallow. -/
theorem RunsAlone.steps {s : State} {a : Nat} {p : Plan} (h : RunsAlone s a p) (hl : p.repeat_ = true ∨ (s.allot a).executed < p.l) :
    s.boundaryOf a = if s.wck.isFallow then s else s.stepPlan a p := by
  have hover : (s.stopsNow a || (!p.repeat_ && decide (p.l ≤ (s.allot a).executed))) = false := by
    rw [h.stopsNow, Bool.false_or, Bool.and_eq_false_iff, Bool.not_eq_false', decide_eq_false_iff_not, Nat.not_le]
    exact hl
  rw [h.boundaryOf]
  exact if_neg fun h => Bool.false_ne_true (hover.symm.trans h)

/-! ## The next turn -/

/-- The turns' plans at a boundary. -/
def State.planBoundaries (s : State) : State := (List.range 16).foldl State.planBoundary s

theorem planBoundaries_passes (s : State) : Passes s s.planBoundaries :=
  passes_foldl _ (fun s _ ha => planBoundary_passes s (List.mem_range.1 ha)) s

/-- At a boundary an allotment's own step is the one that its plan sees. -/
theorem planBoundaries_at (s : State) {a : Nat} (ha : a < 16) :
    ∃ u, PlanKept a s u ∧ u.wck.isFallow = s.wck.isFallow ∧ PlanKept a (u.boundaryOf a) s.planBoundaries := by
  obtain ⟨l₁, l₂, hl⟩ := List.append_of_mem (List.mem_range.2 ha)
  have hnodup : (l₁ ++ a :: l₂).Nodup := hl ▸ List.nodup_range
  have hlt : ∀ b ∈ l₁ ++ a :: l₂, b < 16 := fun b hb => List.mem_range.1 (hl ▸ hb)
  rw [List.nodup_append, List.nodup_cons] at hnodup
  obtain ⟨-, ⟨ha₂, -⟩, ha₁⟩ := hnodup
  have hbefore : PlanKept a s (l₁.foldl State.planBoundary s) :=
    planKept_foldl l₁ (fun s b hb => planBoundary_planKept s ha (ha₁ b hb a List.mem_cons_self)) s
  have hclock : Passes s (l₁.foldl State.planBoundary s) :=
    passes_foldl l₁ (fun s b hb => planBoundary_passes s (hlt b (List.mem_append_left _ hb))) s
  refine ⟨(l₁.foldl State.planBoundary s).dropFlumes a, hbefore.trans (dropFlumes_planKept _ a a), ?_, ?_⟩
  · exact (dropFlumes_passes _ a).clock.2.2.2.trans hclock.clock.2.2.2
  · unfold State.planBoundaries
    rw [hl, List.foldl_append, List.foldl_cons, planBoundary_eq]
    exact planKept_foldl l₂ (fun s b hb => planBoundary_planKept s ha fun h => ha₂ (h ▸ hb)) _

/-- What a running plan has become in the turn that begins. -/
structure PlanTurned (s t : State) (a : Nat) (p : Plan) : Prop where
  drains : p.repeat_ = false → p.l ≤ (s.allot a).executed → t.altState a = 5
  steps : p.repeat_ = true ∨ (s.allot a).executed < p.l → t.altState a = 4 ∧ (t.wck.isFallow = false →
    (t.allot a).executed = (s.allot a).executed + 1 ∧ (t.allot a).txs = [] ∧
    (t.allot a).planTurn = if (s.allot a).executed = 0 then 0 else ((s.allot a).planTurn + 1) % max 1 p.l)

theorem stepPlan_allot (s : State) (a : Nat) (p : Plan) : (s.stepPlan a p).allot a = { s.allot a with
    executed := (s.allot a).executed + 1
    planTurn := if (s.allot a).executed = 0 then 0 else ((s.allot a).planTurn + 1) % max 1 p.l
    txs := [] } := smGet_smSet_self _ _ _ _

theorem planBoundaries_turned {s : State} {a : Nat} {p : Plan} (ha : a < 16) (h : RunsAlone s a p) : PlanTurned s s.planBoundaries a p := by
  obtain ⟨u, hkept, hfallow, hafter⟩ := planBoundaries_at s ha
  have hruns := h.kept hkept
  have hlast := (planBoundaries_passes s).clock.2.2.2
  obtain ⟨-, -, -, hexecuted, hturn, -⟩ := hkept.plan
  refine ⟨fun hrepeat hl => hafter.state.trans (hruns.drains hrepeat (hexecuted ▸ hl)), fun hl => ?_⟩
  have hstep := hruns.steps (hexecuted.symm ▸ hl)
  obtain ⟨-, -, -, hexecuted', hturn', htxs'⟩ := hafter.plan
  refine ⟨?_, fun hnot => ?_⟩
  · rw [hafter.state, hstep]
    split <;> exact hruns.state
  · have hu : ¬ u.wck.isFallow = true := by
      rw [hfallow, ← hlast, hnot]
      exact Bool.false_ne_true
    rw [if_neg hu] at hstep
    rw [hstep, stepPlan_allot] at hexecuted' hturn' htxs'
    rw [hexecuted] at hexecuted' hturn'
    rw [hturn] at hturn'
    exact ⟨hexecuted', htxs', hturn'⟩

/-- What a turn begins with, once the limits are in force: its relock, its fallow state, its estimates, its plans. -/
def State.beginTurn (s : State) : State := ((s.relockBoundary s.wck.turn).enterTurn.holdEstimate.trim.notePeers).planBoundaries

theorem turnBoundary_eq {s : State} (hr : s.wck.running = true) :
    turnBoundary s = (s.coresTo s.turnLength).endTurn.appendBooks.crossBoundary.applyLimits.beginTurn :=
  if_neg (by rw [hr]; exact Bool.false_ne_true)

/-- What a turn that has begun shows, whatever its relock. -/
structure TurnBegun (s t : State) : Prop where
  untouched : Untouched s t
  clock : t.wck.turn = s.wck.turn ∧ t.wck.cycle = s.wck.cycle ∧ t.wck.limits = s.wck.limits
  links : t.linkSlots = 0 ∧ t.early = []
  reg : ∀ r, limitReg r = true ∨ r = 0x100000 → t.reg r = s.reg r
  running : ∀ c < 4608, t.get (F.TIL_CORE_STATE_RUNNING c) = s.get (F.TIL_CORE_STATE_RUNNING c)
  still : ∀ c, (s.core c).still → (t.core c).still

theorem enterTurn_begun {s v : State} (h : Passes s v) : TurnBegun s v.enterTurn := by
  obtain ⟨hturn, hcycle, hlimits, -⟩ := h.clock
  obtain ⟨hpending, hmem, hstores⟩ := h.untouched
  exact ⟨⟨hpending, hmem, hstores⟩, ⟨hturn, hcycle, hlimits⟩, ⟨rfl, rfl⟩, h.reg, h.running, h.still⟩

theorem TurnBegun.passes {s t u : State} (h : TurnBegun s t) (k : Passes t u) : TurnBegun s u := by
  obtain ⟨hturn, hcycle, hlimits⟩ := h.clock
  obtain ⟨kturn, kcycle, klimits, -⟩ := k.clock
  exact ⟨h.untouched.trans k.untouched, ⟨kturn.trans hturn, kcycle.trans hcycle, klimits.trans hlimits⟩,
    ⟨k.links.1.trans h.links.1, k.links.2.trans h.links.2⟩, fun r hr => (k.reg r hr).trans (h.reg r hr),
    fun c hc => (k.running c hc).trans (h.running c hc), fun c hc => k.still c (h.still c hc)⟩

/-- The estimates and the log of a turn that begins. -/
theorem estimates_passes (s : State) : Passes s s.holdEstimate.trim.notePeers :=
  ((holdEstimate_passes s).trans (trim_passes _)).trans (notePeers_passes _)

theorem beginTurn_begun (s : State) : TurnBegun s s.beginTurn :=
  (enterTurn_begun (relockBoundary_passes s _)).passes ((estimates_passes _).trans (planBoundaries_passes _))

/-- A plan that runs alone as a turn begins has become what the turn makes of it. -/
theorem beginTurn_turned {s : State} (hrelock : s.wck.relock = none) {a : Nat} {p : Plan} (ha : a < 16) (h : RunsAlone s a p) :
    PlanTurned s s.beginTurn a p := by
  have hkept : PlanKept a s s.enterTurn.holdEstimate.trim.notePeers :=
    .trans (.same (.refl s) rfl) (((holdEstimate_planKept _ a).trans (trim_planKept _ a)).trans (notePeers_planKept _ ha))
  unfold State.beginTurn
  rw [relockBoundary_none hrelock]
  generalize s.enterTurn.holdEstimate.trim.notePeers = v at *
  obtain ⟨hdrains, hsteps⟩ := planBoundaries_turned ha (h.kept hkept)
  obtain ⟨-, -, -, hexecuted, hturn, -⟩ := hkept.plan
  rw [hexecuted] at hdrains hsteps
  rw [hturn] at hsteps
  exact ⟨hdrains, hsteps⟩

theorem beginTurn_fallow {s : State} (hrelock : s.wck.relock = none) :
    s.beginTurn.wck.isFallow = (s.wck.fallow.contains s.wck.turn || s.on F.WCK_STATE_ON_LAGOON) := by
  have hpasses : Passes s.enterTurn s.enterTurn.holdEstimate.trim.notePeers.planBoundaries := (estimates_passes _).trans (planBoundaries_passes _)
  unfold State.beginTurn
  rw [relockBoundary_none hrelock]
  exact hpasses.clock.2.2.2

/-! ### The old turn's end and the limits -/

/-- Cycle 0 of the next turn, the limits of the old one in force. -/
structure Limited (s t : State) : Prop where
  rest : t = { s with regs := t.regs, wck := t.wck, prevLength := t.prevLength, prevHz := t.prevHz, prevTurn := t.prevTurn }
  clock : t.wck.turn = (s.wck.turn + 1) % 2 ^ 48 ∧ t.wck.cycle = 0 ∧ t.wck.limits = [] ∧ t.wck.fallow = s.wck.fallow ∧ t.wck.relock = s.wck.relock
  limit : ∀ r, limitReg r = true → t.reg r = match (s.wck.limits.filter fun x => x.1 == r).getLast? with
    | some x => BitVec.ofNat 64 x.2
    | none => s.reg r
  reg : ∀ r, limitReg r = false → t.reg r = s.reg r

theorem applyLimits_eq (s : State) : s.applyLimits = { s.wck.limits.foldl State.applyLimit s with wck := { s.wck with limits := [] } } := rfl

theorem Limited.of {s c t v : State} (h : Crossed s c) (hv : ∃ r, v = { c with regs := r })
    (hlimit : ∀ r, limitReg r = true → v.reg r = match (c.wck.limits.filter fun x => x.1 == r).getLast? with
      | some x => BitVec.ofNat 64 x.2
      | none => c.reg r) (hreg : ∀ r, limitReg r = false → v.reg r = c.reg r) (ht : t = { v with wck := { c.wck with limits := [] } }) :
    Limited s t := by
  obtain ⟨r, hv⟩ := hv
  obtain ⟨hrest, hturn, hcycle, hlimits, hfallow, hrelock⟩ := h
  have hcreg : ∀ r, c.reg r = s.reg r := fun r => by rw [hrest]; rfl
  have htreg : ∀ r, t.reg r = v.reg r := fun r => by rw [ht]; rfl
  refine ⟨?_, ?_, fun r hr => ?_, fun r hr => (htreg r).trans ((hreg r hr).trans (hcreg r))⟩
  · rw [ht, hv, hrest]
  · rw [ht]
    exact ⟨hturn, hcycle, rfl, hfallow, hrelock⟩
  · rw [htreg, hlimit r hr, hlimits, hcreg]

theorem crossed_limited {s c : State} (h : Crossed s c) : Limited s c.applyLimits :=
  .of h (applyLimits_frame c.wck.limits c).1 (fun _ hr => applyLimits_reg c.wck.limits c hr) (applyLimits_frame c.wck.limits c).2 (applyLimits_eq c)

/-- The next turn's cycle 0, seen from the turn that ends with no access left in a core. -/
structure NextTurn (s t : State) : Prop where
  untouched : Untouched s t
  clock : t.wck.turn = (s.wck.turn + 1) % 2 ^ 48 ∧ t.wck.cycle = 0 ∧ t.wck.limits = [] ∧ t.wck.fallow = s.wck.fallow ∧ t.wck.relock = s.wck.relock
  limit : ∀ r, limitReg r = true → t.reg r = match (s.wck.limits.filter fun x => x.1 == r).getLast? with
    | some x => BitVec.ofNat 64 x.2
    | none => s.reg r
  reg : ∀ r, limitReg r = false → r < 0x50000 → t.reg r = s.reg r
  allots : t.allots = s.allots
  running : ∀ c < 4608, t.get (F.TIL_CORE_STATE_RUNNING c) = 0
  still : ∀ c, (t.core c).still

theorem not_turnReg {r : Nat} (h : r < 0x51000) : ¬ TurnReg r := by
  rintro (⟨c, hc, rfl⟩ | ⟨e, he, rfl⟩) <;> omega

theorem not_turnReg_far {r : Nat} (h : 0xA8100 ≤ r) : ¬ TurnReg r := by
  rintro (⟨c, hc, rfl⟩ | ⟨e, he, rfl⟩) <;> omega

theorem not_turnReg_limit {r : Nat} (h : limitReg r = true) : ¬ TurnReg r := fun hr => by
  refine Bool.false_ne_true ((limitReg_false (.inr ?_)).symm.trans h)
  obtain ⟨c, hc, rfl⟩ | ⟨e, he, rfl⟩ := hr <;> omega

theorem Limited.nextTurn {s v t : State} (h : Limited v t) (hv : TurnEnded s v) : NextTurn s t := by
  obtain ⟨hrest, ⟨hturn, hcycle, hlimits, hfallow, hrelock⟩, hlimit, hreg⟩ := h
  obtain ⟨vrest, ⟨vturn, vlimits, vfallow, vrelock⟩, vreg, vrunning, vstill⟩ := hv
  refine ⟨?_, ⟨vturn ▸ hturn, hcycle, hlimits, hfallow.trans vfallow, hrelock.trans vrelock⟩, fun r hr => ?_, fun r hr hlt =>
    (hreg r hr).trans (vreg r (not_turnReg (by omega))), ?_, fun c hc => ?_, fun c => ?_⟩
  · rw [hrest, vrest]
    exact ⟨rfl, rfl, rfl⟩
  · rw [hlimit r hr, vlimits, vreg r (not_turnReg_limit hr)]
  · rw [hrest, vrest]
  · exact (get_of_reg (f := F.TIL_CORE_STATE_RUNNING c) (hreg _ (limitReg_false (by
      show _ ∨ 0x20050 ≤ 0x51000 + 0x10 * c
      omega)))).trans (vrunning c hc)
  · have hcore : t.core c = v.core c := by rw [hrest]; rfl
    rw [hcore]
    exact vstill c

/-- Where every block is clean, the old turn ends and cycle 0 of the next one comes. -/
theorem oldTurn_next {s : State} (hi : s.coresIdle) (hclean : ∀ k, s.blockEcc k = .clean) :
    NextTurn s (s.coresTo s.turnLength).endTurn.appendBooks.crossBoundary.applyLimits := by
  rw [coresTo_idle hi]
  have hended := endTurn_ended hi.1
  have hclean' : ∀ k, s.endTurn.blockEcc k = .clean := fun k => by
    rw [hended.rest]
    exact hclean k
  rw [appendBooks_clean hclean']
  exact (crossed_limited (crossBoundary_crossed _)).nextTurn hended

theorem RunsAlone.nextTurn {s t : State} {a : Nat} {p : Plan} (ha : a < 16) (h : RunsAlone s a p) (k : NextTurn s t) : RunsAlone t a p := by
  have hallot : t.allot a = s.allot a := congrArg (fun m => smGet _ m a) k.allots
  refine ⟨(get_of_reg (f := F.ALT_STATE_STATE a) (k.reg _ (limitReg_false (.inr ?_)) ?_)).trans h.state, hallot ▸ h.active, hallot ▸ h.stops,
    hallot ▸ h.armed⟩
  · show 0x20050 ≤ 0x40100 + 0x100 * a
    omega
  · show 0x40100 + 0x100 * a < 0x50000
    omega

theorem NextTurn.listed {s t : State} (h : NextTurn s t) :
    (t.wck.fallow.contains t.wck.turn || t.on F.WCK_STATE_ON_LAGOON) = true ↔
      (s.wck.turn + 1) % 2 ^ 48 ∈ s.wck.fallow ∨ s.on F.WCK_STATE_ON_LAGOON = true := by
  obtain ⟨hturn, -, -, hfallow, -⟩ := h.clock
  have hon : t.on F.WCK_STATE_ON_LAGOON = s.on F.WCK_STATE_ON_LAGOON :=
    congrArg (fun x => decide (x = 1)) (get_of_reg (f := F.WCK_STATE_ON_LAGOON) (h.reg _ (limitReg_false (by decide)) (by decide)))
  rw [Bool.or_eq_true, List.contains_iff_mem, hturn, hfallow, hon]

/-! ## A block of the books in error -/

/-- The chip's sluice is closed with the cause of an error in control state, and memory stands. -/
structure BooksLost (s t : State) : Prop where
  untouched : Untouched s t
  shut : t.chipClosed = true
  named : t.get F.SLU_STATUS_CHIP_CAUSE = 0xF7

/-- A write of no bytes leaves memory, and of the registers only those that count its block's errors move. -/
theorem writeNothing_keeps {ok : Prop} (s : State) (p : Nat) (tag : BitVec 64) (allot : Nat) : Keeps ok s (s.writeBlock p [] tag allot).2 := by
  unfold State.writeBlock
  dsimp only
  rw [if_neg (by decide)]
  split
  · exact ((Keeps.refl s).same (u := s.wrRaw p []) rfl).setBlock _ _ _
  · refine (Keeps.same (t := (s.bump (F.HBM_ECC_CORRECTED (stackOf p))).logCorrected 1 (stackOf p) 0x10A (blockIn p) allot (stackOf p) 0xFFFFFFFF)
      ?_ rfl).setBlock _ _ _
    exact logCorrected_keeps ((Keeps.refl s).bump (f := F.HBM_ECC_CORRECTED (stackOf p)) not_calm_ecc 1) ..
  · have h : Keeps ok s ((s.bump (F.HBM_ECC_REFUSED (stackOf p))).logCause 0x10C (blockIn p) allot (stackOf p)) :=
      ((Keeps.refl s).bump not_calm_ecc 1).logEntry _
    split
    · exact h
    · exact ((h.put not_calm_eccFirst _).put not_calm_eccFirst _).put not_calm_eccFirst _

theorem writeNothing_refused (s : State) (b : Nat) (tag : BitVec 64) (allot : Nat) (h : (s.blockEcc b).usable = false) :
    (s.writeBlock (64 * b) [] tag allot).1 = true := by
  have hb : 64 * b / 64 = b := by omega
  unfold State.writeBlock
  dsimp only
  rw [if_neg (by decide), hb]
  split
  next hecc => rw [hecc] at h; exact nomatch h
  next hecc => rw [hecc] at h; exact nomatch h
  next => rfl

theorem Keeps.chipClosed {ok : Prop} {s t : State} (h : Keeps ok s t) : t.chipClosed = s.chipClosed := congrArg (fun x => decide (x = 1)) h.sluice.1

/-- The entry of a log whose block cannot be used closes the chip's sluice. -/
theorem appendBook_lost {s : State} (hopen : s.chipClosed = false) (hhome : s.get F.PWR_STATUS_HOME_STACK ≠ 15) {book : Option Nat} {n : Nat}
    (hecc : (s.blockEcc (s.bookBlock book n)).usable = false) : BooksLost s (s.appendBook book n) := by
  have hdirty : s.blockEcc (s.bookBlock book n) ≠ .clean := fun h => by rw [h] at hecc; exact nomatch hecc
  have hrefused := writeNothing_refused s (s.bookBlock book n) (s.blockTag (s.bookBlock book n)) (book.getD 255) hecc
  have hkeeps : Keeps False s _ := writeNothing_keeps s (64 * s.bookBlock book n) (s.blockTag (s.bookBlock book n)) (book.getD 255)
  unfold State.appendBook
  dsimp only
  rw [if_neg (not_or.2 ⟨hhome, hdirty⟩)]
  generalize s.writeBlock (64 * s.bookBlock book n) [] (s.blockTag (s.bookBlock book n)) (book.getD 255) = w at *
  rw [if_pos hrefused]
  have hdoubt := doubtChip_open (ok := False) (hkeeps.chipClosed.trans hopen) (d := { cause := cCtrlEcc, subject := s.get F.PWR_STATUS_HOME_STACK })
    (by show cCtrlEcc < 256; decide) False.elim
  exact ⟨hkeeps.untouched.trans hdoubt.untouched, hdoubt.shut, hdoubt.named⟩

/-- Further entries leave it closed with that cause. -/
theorem BooksLost.appendBook {s t : State} (h : BooksLost s t) (book : Option Nat) (n : Nat) : BooksLost s (t.appendBook book n) := by
  have hkeeps : Keeps False t _ := writeNothing_keeps t (64 * t.bookBlock book n) (t.blockTag (t.bookBlock book n)) (book.getD 255)
  unfold State.appendBook
  dsimp only
  generalize t.writeBlock (64 * t.bookBlock book n) [] (t.blockTag (t.bookBlock book n)) (book.getD 255) = w at *
  have hw : BooksLost s w.2 := ⟨h.untouched.trans hkeeps.untouched, hkeeps.chipClosed.trans h.shut, hkeeps.sluice.2.trans h.named⟩
  split
  · exact h
  · split
    · have hlog := doubtChip_relogs hw.shut (d := { cause := cCtrlEcc, subject := t.get F.PWR_STATUS_HOME_STACK }) (by show cCtrlEcc < 256; decide)
      refine ⟨hw.untouched.trans ?_, hlog.shut, hlog.named.elim (·.trans hw.named) id⟩
      rw [hlog.rest]
      exact ⟨rfl, rfl, rfl⟩
    · exact hw

theorem BooksLost.appendAll {s t : State} {β : Type} {f : State → β → State} (hf : ∀ u x, BooksLost s u → BooksLost s (f u x)) (h : BooksLost s t)
    (l : List β) : BooksLost s (l.foldl f t) :=
  List.foldlRecOn l f h fun u hu x _ => hf u x hu

theorem appendBooks_lost {s : State} (hopen : s.chipClosed = false) (hhome : s.get F.PWR_STATUS_HOME_STACK ≠ 15) {e : LogEntry} (hlog : s.log = [e])
    (he : e.turn = s.wck.turn) (hecc : (s.blockEcc (s.bookBlock none e.seq)).usable = false) : BooksLost s s.appendBooks := by
  have hfilter : (s.log.filter fun e => e.turn == s.wck.turn) = [e] := by
    rw [hlog]
    exact List.filter_cons_of_pos (beq_iff_eq.2 he)
  unfold State.appendBooks
  dsimp only
  rw [hfilter]
  exact (appendBook_lost hopen hhome hecc).appendAll (fun u a hu => hu.appendAll (fun v e hv => hv.appendBook _ _) _) _

theorem BooksLost.limited {s v t : State} (h : BooksLost s v) (k : Limited v t) : BooksLost s t := by
  have hreg := k.reg 0x100000 (limitReg_false (by decide))
  refine ⟨h.untouched.trans ?_, (congrArg (fun x => decide (x = 1)) (get_of_reg (f := F.SLU_STATUS_CHIP_CLOSED) hreg)).trans h.shut,
    (get_of_reg (f := F.SLU_STATUS_CHIP_CAUSE) hreg).trans h.named⟩
  rw [k.rest]
  exact ⟨rfl, rfl, rfl⟩

theorem BooksLost.begun {s v t : State} (h : BooksLost s v) (k : TurnBegun v t) : BooksLost s t := by
  have hreg := k.reg 0x100000 (.inr rfl)
  exact ⟨h.untouched.trans k.untouched, (congrArg (fun x => decide (x = 1)) (get_of_reg (f := F.SLU_STATUS_CHIP_CLOSED) hreg)).trans h.shut,
    (get_of_reg (f := F.SLU_STATUS_CHIP_CAUSE) hreg).trans h.named⟩

/-- The turn's end leaves what the books of its log depend on. -/
theorem TurnEnded.books {s v : State} (h : TurnEnded s v) (hopen : s.chipClosed = false) (hhome : s.get F.PWR_STATUS_HOME_STACK ≠ 15) {e : LogEntry}
    (hlog : s.log = [e]) (he : e.turn = s.wck.turn) (hecc : (s.blockEcc (s.bookBlock none e.seq)).usable = false) : BooksLost v v.appendBooks := by
  have hsluice : v.get F.SLU_STATUS_CHIP_CLOSED = s.get F.SLU_STATUS_CHIP_CLOSED := get_of_reg (h.reg _ (not_turnReg_far (by decide)))
  have hstack : v.get F.PWR_STATUS_HOME_STACK = s.get F.PWR_STATUS_HOME_STACK := get_of_reg (h.reg _ (not_turnReg_far (by decide)))
  have hblock : ∀ b, v.blockEcc b = s.blockEcc b := fun b => by rw [h.rest]; rfl
  have hbook : v.bookBlock none e.seq = s.bookBlock none e.seq := by
    unfold State.bookBlock
    rw [hstack]
  refine appendBooks_lost ((congrArg (fun x => decide (x = 1)) hsluice).trans hopen) (hstack ▸ hhome) (e := e) ?_ (he.trans h.clock.1.symm) ?_
  · rw [h.rest]
    exact hlog
  · rw [hblock, hbook]
    exact hecc

/-- Settles O30: each step of the boundary has its own rule; cycle 0 of the next turn is the state that the old turn's end and its limits leave, and
what begins the turn passes over what the statement names. -/
theorem turnBoundaryBeginsNextTurn : Obligations.TurnBoundaryBeginsNextTurn := by
  unfold Obligations.TurnBoundaryBeginsNextTurn
  intro s hs
  refine ⟨fun hr hi hclean => ?begins, fun hr hi hrelock hopen hledger hhome e hlog he hecc => ?lost, fun hr => run_same hs (if_pos (by rw [hr]; rfl))⟩
  case begins =>
    have hnext := oldTurn_next hi hclean
    have heq := turnBoundary_eq hr
    generalize (s.coresTo s.turnLength).endTurn.appendBooks.crossBoundary.applyLimits = l at *
    have hbegun := beginTurn_begun l
    have hu := hnext.untouched.trans hbegun.untouched
    have hexec : exec .turnBoundary s = .next l.beginTurn := run_next hs heq hu
    obtain ⟨hturn, hcycle, hlimits, -, hrelock⟩ := hnext.clock
    refine ⟨_, hexec, hbegun.clock.1.trans hturn, hbegun.clock.2.1.trans hcycle, hbegun.clock.2.2.trans hlimits,
      fun r hlim => (hbegun.reg r (.inl hlim)).trans (hnext.limit r hlim), hbegun.links.1, hbegun.links.2,
      fun c hc => (hbegun.running c hc).trans (hnext.running c hc), fun c => hbegun.still c (hnext.still c), fun hnone => ⟨?_, ?_⟩, hu.rd⟩
    · rw [beginTurn_fallow (hrelock.trans hnone)]
      exact hnext.listed
    · intro a ha p hstate hactive hstops harmed
      have hallot : l.allot a = s.allot a := congrArg (fun m => smGet _ m a) hnext.allots
      have hruns : RunsAlone s a p := ⟨hstate, hactive, hstops, harmed⟩
      obtain ⟨hdrains, hsteps⟩ := beginTurn_turned (hrelock.trans hnone) ha (hruns.nextTurn ha hnext)
      rw [hallot] at hdrains hsteps
      exact ⟨hdrains, hsteps⟩
  case lost =>
    have hended := endTurn_ended hi.1
    have hlost := hended.books hopen hhome hlog he hecc
    have hu : Untouched s s.endTurn := by
      rw [hended.rest]
      exact ⟨rfl, rfl, rfl⟩
    have hlast := (hlost.limited (crossed_limited (crossBoundary_crossed _))).begun (beginTurn_begun _)
    have heq := turnBoundary_eq hr
    rw [coresTo_idle hi] at heq
    have hu' := hu.trans hlast.untouched
    have hexec : exec .turnBoundary s = .next _ := run_next hs heq hu'
    exact ⟨_, hexec, hlast.shut, hlast.named, hu'.rd⟩

end Sys2Proof.Machine
end

section
/-! PROOFS. The headgate commit (R46, R47, R147, R150): what the end of an order and the notes of the rights leave of what a change has put in
force, and the change of each kind. -/

namespace Sys2Proof.Machine

/-! ## What the end of a committed order leaves -/

/-- A field that neither the end of an order nor the notes that follow the commits write. -/
structure Aside (f : Fld) : Prop where
  orders : f.reg ≠ 0x30008
  epoch : f.reg ≠ 0x40000
  scrub : f.reg ≠ 0x40010
  rights : ∀ a < 16, f.reg ≠ 0x40120 + 0x100 * a
  load : ∀ q, f.reg = 0x3102C + 0x40 * q → f.lo + f.w ≤ 8 ∨ 14 ≤ f.lo
  busy : ∀ a < 256, f.reg = 0x40100 + 0x100 * a → f.lo + f.w ≤ 13 ∨ 14 ≤ f.lo

/-- What the end of an order, or the notes of the rights, may change. -/
structure Concludes (s t : State) : Prop where
  rest : t = { s with
    regs := t.regs, allots := t.allots, load := t.load, inflight := t.inflight, queues := t.queues, staged := t.staged }
  allot : ∀ a, ∃ x, t.allot a = { s.allot a with loading := x }
  get : ∀ f, Aside f → t.get f = s.get f

namespace Concludes

theorem refl (s : State) : Concludes s s := ⟨rfl, fun _ => ⟨_, rfl⟩, fun _ _ => rfl⟩

variable {s t u : State}

theorem trans (h : Concludes s t) (k : Concludes t u) : Concludes s u := by
  refine ⟨by rw [k.rest, h.rest], fun a => ?_, fun f hf => (k.get f hf).trans (h.get f hf)⟩
  obtain ⟨x, hx⟩ := h.allot a
  obtain ⟨y, hy⟩ := k.allot a
  exact ⟨y, by rw [hy, hx]⟩

/-- Other parts that an order's end may change. -/
theorem same (h : Concludes s t) (e : u = { t with load := u.load, inflight := u.inflight, queues := u.queues, staged := u.staged }) : Concludes s u := by
  refine h.trans ?_
  rw [e]
  exact ⟨rfl, fun _ => ⟨_, rfl⟩, fun _ _ => rfl⟩

theorem put (h : Concludes s t) {g : Fld} {v : Nat} (hg : ∀ f, Aside f → (t.put g v).get f = t.get f) : Concludes s (t.put g v) :=
  h.trans ⟨rfl, fun _ => ⟨_, rfl⟩, hg⟩

theorem untouched (h : Concludes s t) : Untouched s t := by
  rw [h.rest]
  exact ⟨rfl, rfl, rfl⟩

theorem rights (h : Concludes s t) (a : Nat) : (t.allot a).rights = (s.allot a).rights := by
  obtain ⟨x, hx⟩ := h.allot a
  rw [hx]

theorem allRights (h : Concludes s t) : t.allRights = s.allRights := List.map_congr_left fun a _ => h.rights a

end Concludes

theorem setLoading_concludes (s : State) (b : Nat) : Concludes s (s.setAllot b { s.allot b with loading := none }) := by
  refine ⟨rfl, fun a => ?_, fun _ _ => rfl⟩
  by_cases h : a = b
  · subst h
    exact ⟨none, smGet_smSet_self _ _ _ _⟩
  · exact ⟨_, smGet_smSet_ne _ _ _ _ h⟩

theorem putBusy_get (s : State) {a : Nat} (ha : a < 256) (v : Nat) {f : Fld} (hf : Aside f) : (s.put (F.ALT_STATE_BUSY a) v).get f = s.get f := by
  by_cases h : f.reg = 0x40100 + 0x100 * a
  · exact State.get_put_beside s (F.ALT_STATE_BUSY a) f v (Nat.le_of_ble_eq_true rfl) ((hf.busy a ha h).symm)
  · exact State.get_put_reg s (F.ALT_STATE_BUSY a) f v h

theorem putInflight_get (s : State) (q v : Nat) {f : Fld} (hf : Aside f) : (s.put (F.DR_QLOAD_INFLIGHT q) v).get f = s.get f := by
  by_cases h : f.reg = 0x3102C + 0x40 * q
  · exact State.get_put_beside s (F.DR_QLOAD_INFLIGHT q) f v (Nat.le_of_ble_eq_true rfl) ((hf.load q h).symm)
  · exact State.get_put_reg s (F.DR_QLOAD_INFLIGHT q) f v h

theorem freeLoad_concludes (s : State) (o : Ord) : Concludes s (s.freeLoad o) := by
  unfold State.freeLoad
  dsimp only
  split
  · split
    · refine .put (.trans (t := { s with load := s.load.filter fun l => l.ord.id != o.id }) ((Concludes.refl s).same rfl) ?_) fun f hf =>
        putBusy_get _ o.allot_lt _ hf
      exact setLoading_concludes _ o.allot
    · exact .refl s
  · exact .refl s

theorem finish_concludes (s : State) (o : Ord) (st i d : Nat) (m : Bool) : Concludes s (s.finish o st i d m) := by
  unfold State.finish
  split
  · refine .same (t := s.endOrder o) ?_ rfl
    unfold State.endOrder
    split
    · exact .put (.put (.same (freeLoad_concludes s o) rfl) fun f hf => State.get_put_reg _ F.DR_INFLIGHT_ORDERS f _ hf.orders) fun f hf =>
        putInflight_get _ _ _ hf
    · exact .refl s
  · exact .refl s

/-! ## After the commits -/

/-- What follows the commits: the epoch, the notes of the rights, the reopenings. -/
def State.shutGate (old : List (List (Nat × Nat × Nat))) (s : State) : State :=
  (if s.allRights = old then s else s.put F.ALT_EPOCH_EPOCH (s.get F.ALT_EPOCH_EPOCH + 1)).noteAllRights.reopenAll

theorem headgate_eq (s : State) : headgate s = ((s.staged.foldl commitOne ([], s)).2).shutGate s.allRights := rfl

theorem reopenAll_none {s : State} (h : s.reopens = []) : s.reopenAll = s := by
  unfold State.reopenAll State.reopensNow
  rw [h]
  rfl

/-- With no reopening only registers follow the commits: the epoch, and the notes of the rights. -/
structure GateShut (old : List (List (Nat × Nat × Nat))) (s t : State) : Prop where
  rest : t = { s with regs := t.regs }
  get : ∀ f, Aside f → t.get f = s.get f
  epoch : t.get F.ALT_EPOCH_EPOCH = if s.allRights = old then s.get F.ALT_EPOCH_EPOCH else (s.get F.ALT_EPOCH_EPOCH + 1) % 2 ^ 32

theorem GateShut.concludes {old : List (List (Nat × Nat × Nat))} {s t : State} (h : GateShut old s t) : Concludes s t := by
  refine ⟨?_, fun a => ⟨(s.allot a).loading, ?_⟩, h.get⟩
  · rw [h.rest]
  · rw [h.rest]
    rfl

theorem NotesRights.get_aside {s t : State} (h : NotesRights s t) {f : Fld} (hf : Aside f) : t.get f = s.get f :=
  get_of_reg (h.reg _ hf.scrub hf.rights)

theorem shutGate_shut {s : State} (h : s.reopens = []) (old : List (List (Nat × Nat × Nat))) : GateShut old s (s.shutGate old) := by
  have hepoch : ∀ v, NotesRights s v → v.get F.ALT_EPOCH_EPOCH = s.get F.ALT_EPOCH_EPOCH := fun v hv =>
    get_of_reg (hv.reg _ (by decide) fun a _ => by show 0x40000 ≠ _; omega)
  have hput : ∀ f, Aside f → (s.put F.ALT_EPOCH_EPOCH (s.get F.ALT_EPOCH_EPOCH + 1)).get f = s.get f := fun f hf =>
    State.get_put_reg s F.ALT_EPOCH_EPOCH f _ hf.epoch
  have hself : (s.put F.ALT_EPOCH_EPOCH (s.get F.ALT_EPOCH_EPOCH + 1)).get F.ALT_EPOCH_EPOCH = (s.get F.ALT_EPOCH_EPOCH + 1) % 2 ^ 32 :=
    State.get_put_self s F.ALT_EPOCH_EPOCH _ (by decide)
  obtain ⟨x, hx⟩ : ∃ x, s.put F.ALT_EPOCH_EPOCH (s.get F.ALT_EPOCH_EPOCH + 1) = { s with regs := x } := ⟨_, rfl⟩
  unfold State.shutGate
  split
  next hold =>
    have hn := noteAllRights_spec s
    generalize s.noteAllRights = v at *
    rw [reopenAll_none (show v.reopens = [] by rw [hn.rest]; exact h)]
    exact ⟨hn.rest, fun f hf => hn.get_aside hf, (hepoch v hn).trans (if_pos hold).symm⟩
  next hold =>
    generalize s.put F.ALT_EPOCH_EPOCH (s.get F.ALT_EPOCH_EPOCH + 1) = p at *
    have hn := noteAllRights_spec p
    have hpe : p.noteAllRights.get F.ALT_EPOCH_EPOCH = p.get F.ALT_EPOCH_EPOCH :=
      get_of_reg (hn.reg _ (by decide) fun a _ => by show 0x40000 ≠ _; omega)
    generalize p.noteAllRights = v at *
    rw [reopenAll_none (show v.reopens = [] by rw [hn.rest, hx]; exact h)]
    exact ⟨by rw [hn.rest, hx], fun f hf => (hn.get_aside hf).trans (hput f hf), (hpe.trans hself).trans (if_neg hold).symm⟩

/-! ## One staged change -/

/-- A staged change leaves those staged. -/
def State.unstage (s : State) (x : Staged) : State :=
  { s with staged := s.staged.filter fun y => !(y.ord.id == x.ord.id && decide (y.change = x.change)) }

section
variable {held : List Nat} {s t : State} {x : Staged}

theorem commitOne_commits (hready : x.ready = true) (hpast : x.past s = false) (hheld : held.contains x.allot = false) (h : s.commit x.change = .ok t)
    (hpart : t.partLeft x.ord = false) : commitOne (held, s) x = (held, (t.unstage x).done x.ord x.item) := by
  have hyes : (x.ready && !x.past s && !held.contains x.allot) = true := by rw [hready, hpast, hheld]; rfl
  unfold commitOne
  dsimp only
  rw [if_pos hyes, h]
  dsimp only
  rw [hpart]
  rfl

theorem commitOne_refuses {w : Why} (hready : x.ready = true) (hpast : x.past s = false) (hheld : held.contains x.allot = false)
    (h : s.commit x.change = .error w) : commitOne (held, s) x = (held, (s.unstage x).fail x.ord w) := by
  have hyes : (x.ready && !x.past s && !held.contains x.allot) = true := by rw [hready, hpast, hheld]; rfl
  unfold commitOne
  dsimp only
  rw [if_pos hyes, h]
  rfl

theorem commitOne_late (hready : x.ready = false ∨ x.past s = true) (hlate : x.late s = true) :
    commitOne (held, s) x = (held, (s.unstage x).finish x.ord stTimeout 0 openTimeout) := by
  have hnot : (x.ready && !x.past s && !held.contains x.allot) = false := by
    rcases hready with h | h <;> rw [h] <;> simp
  unfold commitOne
  dsimp only
  rw [hnot, if_neg Bool.false_ne_true, hlate, if_pos rfl]
  rfl

theorem commitOne_stays (hready : x.ready = false ∨ held.contains x.allot = true) (hlate : x.late s = false) :
    commitOne (held, s) x = (if x.allot < 16 then held ++ [x.allot] else held, s) := by
  have hnot : (x.ready && !x.past s && !held.contains x.allot) = false := by
    rcases hready with h | h <;> rw [h] <;> simp
  unfold commitOne
  dsimp only
  rw [hnot, if_neg Bool.false_ne_true, hlate, if_neg Bool.false_ne_true]

end

/-- No part of an order is left to come where no change waits for a fallow turn and no relock is under way. -/
theorem partLeft_false {s : State} {o : Ord} (hop : o.op ≠ 0x0121) (hf : s.fallowDue = []) (hr : s.wck.relock = none) : s.partLeft o = false := by
  unfold State.partLeft
  rw [hf, hr]
  simpa using hop

/-! ## The commit of a single change -/

/-- The gate's setting: turns run, no core has an access left, and the order is wholly staged. -/
structure AtGate (s : State) (o : Ord) : Prop where
  stores : s.stores = []
  running : s.wck.running = true
  idle : s.coresIdle
  reopens : s.reopens = []
  fallow : s.fallowDue = []
  relock : s.wck.relock = none
  inflight : o ∈ s.inflight
  op : o.op ≠ 0x0121

/-- What a change that commits leaves, so that its order may end. -/
structure CommitKept (s t : State) : Prop where
  untouched : Untouched s t
  due : t.staged = s.staged ∧ t.fallowDue = s.fallowDue ∧ t.reopens = s.reopens
  orders : t.inflight = s.inflight ∧ t.queues = s.queues ∧ t.wck = s.wck

theorem CommitKept.refl (s : State) : CommitKept s s := ⟨.refl s, ⟨rfl, rfl, rfl⟩, ⟨rfl, rfl, rfl⟩⟩

/-- An order has ended at the gate of `u`, the change in force as `w` shows it. -/
structure GateDone (u w t : State) (o : Ord) (st item d : Nat) : Prop where
  reports : Reports u t o st item d
  ended : Ended t o
  staged : t.staged = []
  untouched : Untouched u t
  concludes : Concludes w t
  epoch : t.get F.ALT_EPOCH_EPOCH = if w.allRights = u.allRights then w.get F.ALT_EPOCH_EPOCH else (w.get F.ALT_EPOCH_EPOCH + 1) % 2 ^ 32

theorem unstage_alone {s : State} {x : Staged} (h : s.staged = [x]) : (s.unstage x).staged = [] := by
  unfold State.unstage
  rw [h]
  simp

/-- The epoch's register is none of an order's. -/
theorem finish_epoch (s : State) (o : Ord) (st i d : Nat) (m : Bool) : (s.finish o st i d m).get F.ALT_EPOCH_EPOCH = s.get F.ALT_EPOCH_EPOCH :=
  get_of_reg (finish_reg o st i d m (by decide) (by show 0x40000 ≠ _; omega) (by show 0x40000 ≠ _; omega))

theorem gate_done {u w : State} {o : Ord} {x : Staged} {st item d : Nat} (hin : o ∈ u.inflight) (hre : u.reopens = []) (hstaged : u.staged = [x])
    (hkept : CommitKept u w) : GateDone u w (((w.unstage x).finish o st item d).shutGate u.allRights) o st item d := by
  obtain ⟨hu, ⟨hws, hwf, hwr⟩, hwi, hwq, hwk⟩ := hkept
  have hun : Concludes w (w.unstage x) := (Concludes.refl w).same rfl
  obtain ⟨hreports, hended, -, -⟩ := finish_spec (w.unstage x) o st item d false (show o ∈ w.inflight from hwi ▸ hin)
  have hfin := finish_concludes (w.unstage x) o st item d false
  have hepoch : ((w.unstage x).finish o st item d).get F.ALT_EPOCH_EPOCH = w.get F.ALT_EPOCH_EPOCH := finish_epoch (w.unstage x) o st item d false
  have hnone : ((w.unstage x).finish o st item d).staged = [] := by
    obtain ⟨_, _, _, _, _, h⟩ := finish_eq (w.unstage x) o st item d false
    rw [h]
    exact unstage_alone (hws.trans hstaged)
  generalize (w.unstage x).finish o st item d = v at *
  have hv := hun.trans hfin
  have hshut := shutGate_shut (s := v) (show v.reopens = [] by rw [hv.rest]; exact hwr.trans hre) u.allRights
  generalize v.shutGate u.allRights = t at *
  have ht := hv.trans hshut.concludes
  refine ⟨?_, ?_, ?_, hu.trans ht.untouched, ht, ?_⟩
  · obtain ⟨m, hm⟩ := hreports
    refine ⟨m, ?_⟩
    have htq : t.queue o.q = v.queue o.q := by rw [hshut.rest]; rfl
    have hwq' : (w.unstage x).queue o.q = u.queue o.q := congrArg (fun l => smGet Queue.reset l o.q) hwq
    have hwk' : (w.unstage x).wck = u.wck := hwk
    rw [htq, hm, hwq', hwk']
  · intro y hy
    rw [hshut.rest] at hy
    exact hended y hy
  · rw [hshut.rest]
    exact hnone
  · rw [hshut.epoch, hv.allRights, hepoch]

theorem atGuard_turn (s : State) (g : Nat) : (s.atGuard g).wck.turn = s.wck.turn ∧ (s.atGuard g).wck.relock = s.wck.relock := by
  unfold State.atGuard
  exact ⟨(advanceTo_clock s _).1, (advanceTo_clock s _).2.2.2⟩

theorem turnPassed_congr {s t : State} (h : t.wck.turn = s.wck.turn) (n : Nat) : turnPassed t n = turnPassed s n := by
  unfold turnPassed
  rw [h]

section
variable {s : State} {o : Ord} {c : Change} {at_ : Nat}

/-- The commit event, where what it does to the staged changes of its guard is known. -/
theorem gate_exec (h : AtGate s o) {t : State} (hev : headgate (s.atGuard 64) = t) (hu : Untouched (s.atGuard 64) t) :
    exec .headgateCommit s = .next t ∧ ∀ x, t.rd x = s.rd x := by
  have hus : Untouched s t := .trans (.atGuard (.refl s)) hu
  have hguard : guardEvent 64 headgate s = t := (guardEvent_idle h.running h.idle headgate).trans hev
  have hexec : exec .headgateCommit s = .next t := run_next h.stores hguard hus
  exact ⟨hexec, hus.rd⟩

theorem AtGate.guard (h : AtGate s o) : ∃ k, s.atGuard 64 = { s with wck := k } ∧ k.turn = s.wck.turn ∧ k.relock = none := by
  obtain ⟨k, hk⟩ := atGuard_eq s 64
  obtain ⟨hturn, hrelock⟩ := atGuard_turn s 64
  rw [hk] at hturn hrelock
  exact ⟨k, hk, hturn, hrelock.trans h.relock⟩

/-- What the commit finds at its gate. -/
structure Stands (s u : State) : Prop where
  inflight : u.inflight = s.inflight
  staged : u.staged = s.staged
  queues : u.queues = s.queues
  fallow : u.fallowDue = []
  reopens : u.reopens = []
  relock : u.wck.relock = none

theorem AtGate.stands (h : AtGate s o) : Stands s (s.atGuard 64) := by
  obtain ⟨k, hk, -, hrelock⟩ := h.guard
  rw [hk]
  exact ⟨rfl, rfl, rfl, h.fallow, h.reopens, hrelock⟩

/-- A step of the commit that ends the order of the one staged change. -/
theorem gate_ends (h : AtGate s o) {x : Staged} (hstaged : s.staged = [x]) {w : State} {st item d : Nat}
    (hone : (commitOne ([], s.atGuard 64) x).2 = (w.unstage x).finish o st item d) (hkept : CommitKept (s.atGuard 64) w) :
    ∃ t, exec .headgateCommit s = .next t ∧ GateDone (s.atGuard 64) w t o st item d ∧ ∀ x, t.rd x = s.rd x := by
  have hu := h.stands
  have hdone := gate_done (st := st) (item := item) (d := d) (hu.inflight ▸ h.inflight) hu.reopens (hu.staged.trans hstaged) hkept
  have hev : headgate (s.atGuard 64) = ((w.unstage x).finish o st item d).shutGate (s.atGuard 64).allRights := by
    rw [headgate_eq, hu.staged, hstaged, List.foldl_cons, List.foldl_nil, hone]
  obtain ⟨hexec, hrd⟩ := gate_exec h hev hdone.untouched
  exact ⟨_, hexec, hdone, hrd⟩

theorem past_eq (h : AtGate s o) {x : Staged} (hx : x.ord = o) : x.past (s.atGuard 64) = turnPassed s o.deadline := by
  unfold Staged.past
  rw [hx, turnPassed_congr (atGuard_turn s 64).1, bne_iff_ne.2 h.op, Bool.true_and]

/-- A ready change before its deadline turn has passed commits, and its order ends DONE. -/
theorem gate_commits (h : AtGate s o) (hstaged : s.staged = [⟨o, c, true, at_⟩]) (hpast : turnPassed s o.deadline = false) {w : State}
    (hw : (s.atGuard 64).commit c = .ok w) (hkept : CommitKept (s.atGuard 64) w) :
    ∃ t, exec .headgateCommit s = .next t ∧ GateDone (s.atGuard 64) w t o stDone (Staged.item ⟨o, c, true, at_⟩) 0 ∧ ∀ x, t.rd x = s.rd x := by
  have hu := h.stands
  have hpart : w.partLeft o = false := by
    obtain ⟨-, hf, -⟩ := hkept.due
    obtain ⟨-, -, hwck⟩ := hkept.orders
    exact partLeft_false h.op (hf.trans hu.fallow) (by rw [hwck]; exact hu.relock)
  refine gate_ends h hstaged ?_ hkept
  rw [commitOne_commits (x := ⟨o, c, true, at_⟩) rfl ((past_eq h rfl).trans hpast) rfl hw hpart]
  rfl

end

end Sys2Proof.Machine
end

section
/-! PROOFS. The changes that a headgate commit puts in force, kind by kind (R134, R147, R154, R284, R372, R445, R504). -/

namespace Sys2Proof.Machine

/-! ## Fields that a commit's end leaves -/

section
variable {a q : Nat}

theorem aside_weight : Aside (F.DR_QLOAD_WEIGHT q) where
  orders := by show 0x3102C + 0x40 * q ≠ _; omega
  epoch := by show 0x3102C + 0x40 * q ≠ _; omega
  scrub := by show 0x3102C + 0x40 * q ≠ _; omega
  rights b _ := by show 0x3102C + 0x40 * q ≠ _; omega
  load _ _ := .inl (Nat.le_refl 8)
  busy b _ h := by
    have h' : 0x3102C + 0x40 * q = 0x40100 + 0x100 * b := h
    omega

/-- A field of an allotment's state beside BUSY. -/
theorem aside_allotState {f : Fld} (hr : f.reg = 0x40100 + 0x100 * a) (hb : f.lo + f.w ≤ 13 ∨ 14 ≤ f.lo) : Aside f where
  orders := by omega
  epoch := by omega
  scrub := by omega
  rights b _ := by omega
  load _ h := by omega
  busy _ _ _ := hb

/-- A field of another of an allotment's registers than its state and its rights. -/
theorem aside_allot {f : Fld} {k : Nat} (hr : f.reg = 0x40100 + 0x100 * a + k) (hk : k = 0x8 ∨ k = 0x10 ∨ k = 0x18 ∨ k = 0x28) : Aside f where
  orders := by omega
  epoch := by omega
  scrub := by omega
  rights b _ := by omega
  load _ h := by omega
  busy _ _ h := by omega

theorem aside_turnout {f : Fld} (hr : f.reg = 0x40128 + 0x100 * a) : Aside f := aside_allot (a := a) (k := 0x28) (by omega) (by decide)

/-- A field of a register that lies behind those of the allotments. -/
theorem aside_far {f : Fld} (h : 0x50100 ≤ f.reg) (h8 : f.reg % 8 = 0) : Aside f where
  orders := by omega
  epoch := by omega
  scrub := by omega
  rights b _ := by omega
  load _ h := by omega
  busy _ _ h := by omega

end

/-- A change that is ready commits: its order ends DONE, and the state shows `p`. -/
def CommitsTo (s : State) (o : Ord) (c : Change) (item : Nat) (p : State → Prop) : Prop :=
  turnPassed s o.deadline = false → ∀ at_, s.staged = [⟨o, c, true, at_⟩] → ∃ t, exec .headgateCommit s = .next t ∧
    Reports (s.atGuard 64) t o stDone item 0 ∧ Ended t o ∧ t.staged = [] ∧ (∀ x, t.rd x = s.rd x) ∧ p t

/-- `t` concludes the commit of a change at the gate of `u`, which `w` shows in force. -/
structure InForce (u w t : State) : Prop where
  concludes : Concludes w t
  epoch : t.get F.ALT_EPOCH_EPOCH = if w.allRights = u.allRights then w.get F.ALT_EPOCH_EPOCH else (w.get F.ALT_EPOCH_EPOCH + 1) % 2 ^ 32

/-- The state at the gate: the clock alone has moved, within the turn. -/
structure Gated (s u : State) : Prop where
  rest : u = { s with wck := u.wck }
  turn : u.wck.turn = s.wck.turn

theorem gated_atGuard (s : State) (g : Nat) : Gated s (s.atGuard g) := by
  refine ⟨?_, (atGuard_turn s g).1⟩
  obtain ⟨k, hk⟩ := atGuard_eq s g
  rw [hk]

namespace Gated

variable {s u : State} (h : Gated s u)
include h

theorem reg (r : Nat) : u.reg r = s.reg r := by rw [h.rest]; rfl
theorem get (f : Fld) : u.get f = s.get f := get_of_reg (h.reg _)
theorem on (f : Fld) : u.on f = s.on f := congrArg (fun x => decide (x = 1)) (h.get f)
theorem allot (a : Nat) : u.allot a = s.allot a := by rw [h.rest]; rfl
theorem tcache : u.tcache = s.tcache := by rw [h.rest]

end Gated

namespace Concludes

variable {s t : State} (h : Concludes s t)
include h

theorem wck : t.wck = s.wck := by rw [h.rest]
theorem tcache : t.tcache = s.tcache := by rw [h.rest]

end Concludes

/-- A change commits where at every gate it has a commit that keeps the orders and that shows `p` when its own has ended. -/
theorem commitsTo {s : State} {o : Ord} (h : AtGate s o) {c : Change} {item : Nat} {p : State → State → Prop}
    (hitem : ∀ at_, Staged.item ⟨o, c, true, at_⟩ = item)
    (hc : ∀ u, Gated s u → ∃ w, u.commit c = .ok w ∧ CommitKept u w ∧ ∀ t, InForce u w t → p u t) :
    CommitsTo s o c item (p (s.atGuard 64)) := by
  intro hpast at_ hstaged
  obtain ⟨w, hw, hkept, hp⟩ := hc _ (gated_atGuard s 64)
  obtain ⟨t, hexec, hdone, hrd⟩ := gate_commits h hstaged hpast hw hkept
  obtain ⟨hreports, hended, hnone, -, hconcludes, hepoch⟩ := hdone
  exact ⟨t, hexec, hitem at_ ▸ hreports, hended, hnone, hrd, hp t ⟨hconcludes, hepoch⟩⟩

/-- The same where `p` does not speak of the gate. -/
theorem commitsTo_of {s : State} {o : Ord} (h : AtGate s o) {c : Change} {item : Nat} {p : State → Prop}
    (hitem : ∀ at_, Staged.item ⟨o, c, true, at_⟩ = item)
    (hc : ∀ u, Gated s u → ∃ w, u.commit c = .ok w ∧ CommitKept u w ∧ ∀ t, InForce u w t → p t) : CommitsTo s o c item p :=
  commitsTo h (p := fun _ => p) hitem hc

section
variable {s : State} {o : Ord} (h : AtGate s o)
include h

/-! ## A weight -/

theorem weight_commits (q w : Nat) (hlive : s.queueLive q = true) : CommitsTo s o (.weight q w) 0 fun t =>
    t.get (F.DR_QLOAD_WEIGHT q) = w % 2 ^ 8 ∧ t.get F.ALT_EPOCH_EPOCH = s.get F.ALT_EPOCH_EPOCH ∧ t.wck = (s.atGuard 64).wck := by
  have hfar : F.ALT_EPOCH_EPOCH.reg ≠ (F.DR_QLOAD_WEIGHT q).reg := by show 0x40000 ≠ 0x3102C + 0x40 * q; omega
  refine commitsTo h (p := fun u t => t.get (F.DR_QLOAD_WEIGHT q) = w % 2 ^ 8 ∧ t.get F.ALT_EPOCH_EPOCH = s.get F.ALT_EPOCH_EPOCH ∧ t.wck = u.wck)
    (fun _ => rfl) fun u hu => ⟨u.put (F.DR_QLOAD_WEIGHT q) w, congrArg Except.ok (if_pos ((hu.on _).trans hlive)),
      ⟨⟨rfl, rfl, rfl⟩, ⟨rfl, rfl, rfl⟩, ⟨rfl, rfl, rfl⟩⟩, fun t ht => ⟨?_, ?_, ht.concludes.wck⟩⟩
  · exact (ht.concludes.get _ aside_weight).trans (State.get_put_self _ (F.DR_QLOAD_WEIGHT q) w (Nat.le_of_ble_eq_true rfl))
  · exact (ht.epoch.trans (if_pos rfl)).trans ((State.get_put_reg u _ _ _ hfar).trans (hu.get _))

/-! ## A turnout table -/

end

/-- The table that a turnout change leaves. -/
structure TurnoutSet (u w : State) (a root n : Nat) : Prop where
  levels : w.get (F.ALT_TURNOUT_LEVELS a) = n % 2 ^ 2
  root : w.get (F.ALT_TURNOUT_ROOT a) = root / 4096 % 2 ^ 36
  walks : w.tcache = u.tcache.filter (fun x => x.1 != a)
  kept : CommitKept u w
  other : ∀ f, f.reg ≠ 0x40128 + 0x100 * a → w.get f = u.get f

theorem dropWalks_get (s : State) (a : Nat) (f : Fld) : (s.dropWalks a).get f = s.get f := rfl

theorem dropWalks_kept (s : State) (a : Nat) : CommitKept s (s.dropWalks a) := ⟨⟨rfl, rfl, rfl⟩, ⟨rfl, rfl, rfl⟩, ⟨rfl, rfl, rfl⟩⟩

theorem put_kept (s : State) (f : Fld) (v : Nat) : CommitKept s (s.put f v) := ⟨⟨rfl, rfl, rfl⟩, ⟨rfl, rfl, rfl⟩, ⟨rfl, rfl, rfl⟩⟩

theorem CommitKept.trans {s t u : State} (h : CommitKept s t) (k : CommitKept t u) : CommitKept s u := by
  obtain ⟨hu, ⟨h1, h2, h3⟩, h4, h5, h6⟩ := h
  obtain ⟨ku, ⟨k1, k2, k3⟩, k4, k5, k6⟩ := k
  exact ⟨hu.trans ku, ⟨k1.trans h1, k2.trans h2, k3.trans h3⟩, k4.trans h4, k5.trans h5, k6.trans h6⟩

theorem CommitKept.put {s t : State} (h : CommitKept s t) (f : Fld) (v : Nat) : CommitKept s (t.put f v) := h.trans (put_kept t f v)

theorem commitTurnout_set (u : State) (a root n : Nat) : TurnoutSet u (u.commitTurnout a root n) a root n where
  levels := (dropWalks_get _ a _).trans ((State.get_put_beside (u.put (F.ALT_TURNOUT_LEVELS a) n) (F.ALT_TURNOUT_ROOT a) (F.ALT_TURNOUT_LEVELS a)
    (root / 4096) (Nat.le_of_ble_eq_true rfl) (.inr (Nat.le_of_ble_eq_true rfl))).trans
    (State.get_put_self u (F.ALT_TURNOUT_LEVELS a) n (Nat.le_of_ble_eq_true rfl)))
  root := (dropWalks_get _ a _).trans (State.get_put_self (u.put (F.ALT_TURNOUT_LEVELS a) n) (F.ALT_TURNOUT_ROOT a) (root / 4096)
    (Nat.le_of_ble_eq_true rfl))
  walks := rfl
  kept := ((put_kept u _ _).put _ _).trans (dropWalks_kept _ a)
  other f hf := (dropWalks_get _ a _).trans ((State.get_put_reg (u.put (F.ALT_TURNOUT_LEVELS a) n) (F.ALT_TURNOUT_ROOT a) f _ hf).trans
    (State.get_put_reg u (F.ALT_TURNOUT_LEVELS a) f _ hf))

section
variable {s : State} {o : Ord} (h : AtGate s o)
include h

theorem turnout_commits (a root n : Nat) : CommitsTo s o (.turnout a root n) 0 fun t =>
    t.get (F.ALT_TURNOUT_LEVELS a) = n % 2 ^ 2 ∧ t.get (F.ALT_TURNOUT_ROOT a) = root / 4096 % 2 ^ 36 ∧
      t.tcache = s.tcache.filter (fun x => x.1 != a) := by
  refine commitsTo_of h (fun _ => rfl) fun u hu => ?_
  have hset := commitTurnout_set u a root n
  refine ⟨u.commitTurnout a root n, rfl, hset.kept, fun t ht => ⟨?_, ?_, ?_⟩⟩
  · exact (ht.concludes.get _ (aside_turnout rfl)).trans hset.levels
  · exact (ht.concludes.get _ (aside_turnout rfl)).trans hset.root
  · exact ht.concludes.tcache.trans (hset.walks.trans (by rw [hu.tcache]))

/-! ## Water rights -/

end

theorem Gated.rangeHeld {s u : State} (h : Gated s u) (a : Nat) (es : List RightsEntry) : u.rangeHeld a es = s.rangeHeld a es := by
  have hperm : ∀ x g, u.permOf x g = s.permOf x g := fun x g => congrArg (fun y : Allot => permIn y.rights g) (h.allot x)
  have hheld : ∀ g, u.heldByOther a g = s.heldByOther a g := fun g => by
    unfold State.heldByOther
    simp only [hperm]
  unfold State.rangeHeld
  simp only [hheld]

/-- The table of rights that a change leaves. -/
structure RightsSet (u w : State) (a : Nat) (new : List (Nat × Nat × Nat)) : Prop where
  table : (w.allot a).rights = new
  others : ∀ b, b ≠ a → (w.allot b).rights = (u.allot b).rights
  kept : CommitKept u w
  regs : w.regs = u.regs

theorem commitRights_set {u : State} {a : Nat} {es : List RightsEntry} (hheld : u.rangeHeld a (es.filter fun e => !e.2.2.2) = none)
    (hfull : rightsFull (applyEntries (u.allot a).rights es) = none) :
    ∃ w, u.commitRights a es = .ok w ∧ RightsSet u w a (applyEntries (u.allot a).rights es) := by
  unfold State.commitRights
  dsimp only
  rw [hheld]
  dsimp only
  rw [hfull]
  refine ⟨_, rfl, ?_, fun b hb => ?_, ⟨⟨rfl, rfl, rfl⟩, ⟨rfl, rfl, rfl⟩, ⟨rfl, rfl, rfl⟩⟩, rfl⟩
  · exact congrArg Allot.rights (smGet_smSet_self _ _ _ _)
  · exact congrArg Allot.rights (smGet_smSet_ne _ _ _ _ hb)

theorem RightsSet.allRights {u w : State} {a : Nat} {new : List (Nat × Nat × Nat)} (h : RightsSet u w a new) (ha : a < 16) :
    w.allRights = u.allRights ↔ new = (u.allot a).rights := by
  unfold State.allRights
  rw [List.map_inj_left]
  refine ⟨fun heq => h.table.symm.trans (heq a (List.mem_range.2 ha)), fun heq b _ => ?_⟩
  by_cases hb : b = a
  · rw [hb, h.table, heq]
  · exact h.others b hb

section
variable {s : State} {o : Ord} (h : AtGate s o)
include h

theorem rights_commits {a : Nat} (ha : a < 16) (es : List RightsEntry) (hheld : s.rangeHeld a (es.filter fun e => !e.2.2.2) = none)
    (hfull : rightsFull (applyEntries (s.allot a).rights es) = none) :
    CommitsTo s o (.rights a es) es.length fun t => (t.allot a).rights = applyEntries (s.allot a).rights es ∧
      (∀ b, b ≠ a → (t.allot b).rights = (s.allot b).rights) ∧
      (applyEntries (s.allot a).rights es = (s.allot a).rights → t.get F.ALT_EPOCH_EPOCH = s.get F.ALT_EPOCH_EPOCH) ∧
      (applyEntries (s.allot a).rights es ≠ (s.allot a).rights → t.get F.ALT_EPOCH_EPOCH = (s.get F.ALT_EPOCH_EPOCH + 1) % 2 ^ 32) := by
  refine commitsTo_of h (fun _ => rfl) fun u hu => ?_
  have hallot := hu.allot
  obtain ⟨w, hw, hset⟩ := commitRights_set ((hu.rangeHeld a _).trans hheld) (by rw [hallot]; exact hfull)
  have hall := hset.allRights ha
  have hepoch : w.get F.ALT_EPOCH_EPOCH = s.get F.ALT_EPOCH_EPOCH :=
    (get_of_reg (congrArg (fun r => smGet (regReset F.ALT_EPOCH_EPOCH.reg) r F.ALT_EPOCH_EPOCH.reg) hset.regs)).trans (hu.get _)
  have htable := hset.table
  rw [hallot] at hall htable
  refine ⟨w, hw, hset.kept, fun t ht => ⟨?_, fun b hb => ?_, fun hsame => ?_, fun hnew => ?_⟩⟩
  · exact (ht.concludes.rights a).trans htable
  · exact (ht.concludes.rights b).trans ((hset.others b hb).trans (congrArg Allot.rights (hallot b)))
  · exact (ht.epoch.trans (if_pos (hall.2 hsame))).trans hepoch
  · rw [ht.epoch, if_neg (fun e => hnew (hall.1 e)), hepoch]

/-- A change of rights that takes a granule of another allotment ends QUOTA with that granule. -/
theorem rights_refused {a : Nat} {es : List RightsEntry} {g : Nat} (hheld : s.rangeHeld a (es.filter fun e => !e.2.2.2) = some g)
    (hpast : turnPassed s o.deadline = false) {at_ : Nat} (hstaged : s.staged = [⟨o, .rights a es, true, at_⟩]) :
    ∃ t, exec .headgateCommit s = .next t ∧ Reports (s.atGuard 64) t o stQuota (itemOf es g) (detailOf 0x37 g) ∧ Ended t o ∧ t.staged = [] ∧
      (t.allot a).rights = (s.allot a).rights ∧ ∀ x, t.rd x = s.rd x := by
  have hu := gated_atGuard s 64
  have herror : (s.atGuard 64).commit (.rights a es) = .error (atGranule es (some g) (whyQuota 0x37)).2 := by
    have hheld' := (hu.rangeHeld a (es.filter fun e => !e.2.2.2)).trans hheld
    show State.commitRights _ a es = _
    unfold State.commitRights
    dsimp only
    rw [hheld']
  have hone : (commitOne ([], s.atGuard 64) ⟨o, .rights a es, true, at_⟩).2 =
      ((s.atGuard 64).unstage ⟨o, .rights a es, true, at_⟩).finish o stQuota (itemOf es g) (detailOf 0x37 g) := by
    rw [commitOne_refuses (x := ⟨o, .rights a es, true, at_⟩) rfl ((past_eq h rfl).trans hpast) rfl herror]
    rfl
  obtain ⟨t, hexec, hdone, hrd⟩ := gate_ends h hstaged hone (.refl _)
  exact ⟨t, hexec, hdone.reports, hdone.ended, hdone.staged, (hdone.concludes.rights a).trans (congrArg Allot.rights (hu.allot a)), hrd⟩

end

/-! ## Keys and sessions -/

theorem setAllot_kept (s : State) (a : Nat) (x : Allot) : CommitKept s (s.setAllot a x) := ⟨⟨rfl, rfl, rfl⟩, ⟨rfl, rfl, rfl⟩, ⟨rfl, rfl, rfl⟩⟩

theorem setCore_kept (s : State) (c : Nat) (x : Core) : CommitKept s (s.setCore c x) := ⟨⟨rfl, rfl, rfl⟩, ⟨rfl, rfl, rfl⟩, ⟨rfl, rfl, rfl⟩⟩

theorem setAllot_allot (s : State) (a : Nat) (x : Allot) : (s.setAllot a x).allot a = x := smGet_smSet_self _ _ _ _

namespace Concludes

variable {s t : State} (h : Concludes s t)
include h

theorem keys (a : Nat) : (t.allot a).keys = (s.allot a).keys := by
  obtain ⟨x, hx⟩ := h.allot a
  rw [hx]

theorem session (a : Nat) : (t.allot a).session = (s.allot a).session := by
  obtain ⟨x, hx⟩ := h.allot a
  rw [hx]

end Concludes

/-- What `retireKey` does to the cores leaves the allotments and what the commit keeps. -/
theorem retireSpent_spec (l : List Nat) (key : Nat) (s : State) :
    CommitKept s (l.foldl (fun s c => s.setCore c { s.core c with spent := (s.core c).spent.filter (· != key) }) s) ∧
      (l.foldl (fun s c => s.setCore c { s.core c with spent := (s.core c).spent.filter (· != key) }) s).allots = s.allots :=
  foldl_keeps (R := fun s t => CommitKept s t ∧ t.allots = s.allots) (fun s => ⟨.refl s, rfl⟩) (fun h k => ⟨h.1.trans k.1, k.2.trans h.2⟩) l
    (fun s c _ => ⟨setCore_kept s c _, rfl⟩) s

/-- An allotment's keys with one entry set. -/
structure KeySet (u w : State) (a key : Nat) (e : KeyEntry) : Prop where
  self : smGet ⟨255, 0, 0⟩ (w.allot a).keys key = e
  others : ∀ k, k ≠ key → smGet ⟨255, 0, 0⟩ (w.allot a).keys k = smGet ⟨255, 0, 0⟩ (u.allot a).keys k
  kept : CommitKept u w

theorem setKey_set (u : State) (a key : Nat) (e : KeyEntry) :
    KeySet u (u.setAllot a { u.allot a with keys := smSet ⟨255, 0, 0⟩ (u.allot a).keys key e }) a key e := by
  have hallot := setAllot_allot u a { u.allot a with keys := smSet ⟨255, 0, 0⟩ (u.allot a).keys key e }
  refine ⟨?_, fun k hk => ?_, setAllot_kept u a _⟩
  · rw [hallot]
    exact smGet_smSet_self _ _ _ _
  · rw [hallot]
    exact smGet_smSet_ne _ _ _ _ hk

theorem KeySet.kept_of {u w v : State} {a key : Nat} {e : KeyEntry} (h : KeySet u w a key e) (hkept : CommitKept w v) (hallots : v.allots = w.allots) :
    KeySet u v a key e := by
  have hallot : v.allot a = w.allot a := congrArg (fun m => smGet Allot.reset m a) hallots
  refine ⟨?_, fun k hk => ?_, h.kept.trans hkept⟩
  · rw [hallot]
    exact h.self
  · rw [hallot]
    exact h.others k hk

theorem retireKey_set (u : State) (a key : Nat) : KeySet u (u.retireKey a key) a key ⟨255, 0, 0⟩ := by
  have hset := setKey_set u a key ⟨255, 0, 0⟩
  unfold State.retireKey
  dsimp only
  generalize u.setAllot a { u.allot a with keys := smSet ⟨255, 0, 0⟩ (u.allot a).keys key ⟨255, 0, 0⟩ } = w at *
  obtain ⟨hkept, hallots⟩ := retireSpent_spec (w.coresOf a) key w
  exact hset.kept_of hkept hallots

section
variable {s : State} {o : Ord} (h : AtGate s o)
include h

/-- A change that sets one entry of an allotment's keys. -/
theorem key_commits {c : Change} {a key : Nat} {e : KeyEntry} (hitem : ∀ at_, Staged.item ⟨o, c, true, at_⟩ = 0)
    (hc : ∀ u, Gated s u → ∃ w, u.commit c = .ok w ∧ KeySet u w a key e) : CommitsTo s o c 0 fun t =>
    smGet ⟨255, 0, 0⟩ (t.allot a).keys key = e ∧ ∀ k, k ≠ key → smGet ⟨255, 0, 0⟩ (t.allot a).keys k = smGet ⟨255, 0, 0⟩ (s.allot a).keys k := by
  refine commitsTo_of h hitem fun u hu => ?_
  obtain ⟨w, hw, hset⟩ := hc u hu
  refine ⟨w, hw, hset.kept, fun t ht => ⟨?_, fun k hk => ?_⟩⟩
  · rw [ht.concludes.keys]
    exact hset.self
  · rw [ht.concludes.keys, hset.others k hk, hu.allot]

theorem keyEntry_commits (a key kind src dst : Nat) : CommitsTo s o (.keyEntry a key kind src dst) 0 fun t =>
    smGet ⟨255, 0, 0⟩ (t.allot a).keys key = ⟨kind, src, dst⟩ ∧
      ∀ k, k ≠ key → smGet ⟨255, 0, 0⟩ (t.allot a).keys k = smGet ⟨255, 0, 0⟩ (s.allot a).keys k :=
  key_commits h (fun _ => rfl) fun u _ => ⟨_, rfl, setKey_set u a key ⟨kind, src, dst⟩⟩

theorem keyRetire_commits (a key : Nat) : CommitsTo s o (.keyRetire a key) 0 fun t =>
    smGet ⟨255, 0, 0⟩ (t.allot a).keys key = ⟨255, 0, 0⟩ ∧
      ∀ k, k ≠ key → smGet ⟨255, 0, 0⟩ (t.allot a).keys k = smGet ⟨255, 0, 0⟩ (s.allot a).keys k :=
  key_commits h (fun _ => rfl) fun u _ => ⟨_, rfl, retireKey_set u a key⟩

end

/-- A session in force. -/
structure SessionSet (u w : State) (a id : Nat) (key : Bytes) : Prop where
  session : (w.allot a).session = some ⟨id, key, 0⟩
  id : w.get (F.SEC_SESSION_SESSION_ID a) = id % 2 ^ 48
  active : w.get (F.SEC_SESSION_ACTIVE a) = 1
  kept : CommitKept u w

theorem commitSession_set (u : State) (a id : Nat) (key : Bytes) : SessionSet u (u.commitSession a id key) a id key := by
  have hsession : ((u.setAllot a { u.allot a with session := some ⟨id, key, 0⟩ }).allot a).session = some ⟨id, key, 0⟩ :=
    congrArg Allot.session (setAllot_allot u a _)
  have hkept := setAllot_kept u a { u.allot a with session := some ⟨id, key, 0⟩ }
  unfold State.commitSession
  generalize u.setAllot a { u.allot a with session := some ⟨id, key, 0⟩ } = w at *
  refine ⟨hsession, ?_, ?_, (hkept.put _ _).put _ _⟩
  · exact (State.get_put_beside (w.put (F.SEC_SESSION_SESSION_ID a) id) (F.SEC_SESSION_ACTIVE a) (F.SEC_SESSION_SESSION_ID a) 1
      (Nat.le_of_ble_eq_true rfl) (.inr (Nat.le_of_ble_eq_true rfl))).trans (State.get_put_self w (F.SEC_SESSION_SESSION_ID a) id (Nat.le_of_ble_eq_true rfl))
  · exact State.get_put_self (w.put (F.SEC_SESSION_SESSION_ID a) id) (F.SEC_SESSION_ACTIVE a) 1 (Nat.le_of_ble_eq_true rfl)

section
variable {s : State} {o : Ord} (h : AtGate s o)
include h

theorem session_commits (a id : Nat) (key : Bytes) : CommitsTo s o (.session a id key) 0 fun t => (t.allot a).session = some ⟨id, key, 0⟩ ∧
    t.get (F.SEC_SESSION_SESSION_ID a) = id % 2 ^ 48 ∧ t.get (F.SEC_SESSION_ACTIVE a) = 1 := by
  refine commitsTo_of h (fun _ => rfl) fun u _ => ⟨_, rfl, (commitSession_set u a id key).kept, fun t ht => ?_⟩
  have hset := commitSession_set u a id key
  have haside : ∀ f : Fld, f.reg = 0xF8100 + 0x8 * a → Aside f := fun f hf => aside_far (by omega) (by omega)
  exact ⟨(ht.concludes.session a).trans hset.session, (ht.concludes.get _ (haside _ rfl)).trans hset.id,
    (ht.concludes.get _ (haside _ rfl)).trans hset.active⟩

end

/-! ## An ingress key -/

theorem setIng_kept (s : State) (p : Nat) (x : IngPort) : CommitKept s (s.setIng p x) := ⟨⟨rfl, rfl, rfl⟩, ⟨rfl, rfl, rfl⟩, ⟨rfl, rfl, rfl⟩⟩

/-- A key slot of a camera port in force. -/
structure IngKeySet (u w : State) (p slot : Nat) (k : IngKeySlot) (act : Bool) : Prop where
  key : (if slot = 0 then (w.ing p).key0 else (w.ing p).key1) = some k
  valid : w.get (F.ING_KEY_VALID p slot) = 1
  active : act = true → w.get (F.ING_PORT_STATE_ACTIVE_KEY p) = slot
  kept : CommitKept u w

theorem setIngKey_key (u : State) (p slot : Nat) (k : IngKeySlot) {w : State} (hw : w.ings =
    (u.setIng p (if slot = 0 then { u.ing p with key0 := some k } else { u.ing p with key1 := some k })).ings) :
    (if slot = 0 then (w.ing p).key0 else (w.ing p).key1) = some k := by
  have hing : w.ing p = if slot = 0 then { u.ing p with key0 := some k } else { u.ing p with key1 := some k } := by
    unfold State.ing
    rw [hw]
    exact smGet_smSet_self _ _ _ _
  rw [hing]
  split <;> rfl

/-- The registers of a key slot, the last of them VALID. -/
def State.noteIngKey (s : State) (p slot : Nat) (k : IngKeySlot) : State :=
  let s := ((s.put (F.ING_KEY_KEY_ID p slot) k.keyId).put (F.ING_KEY_LOG_N p slot) k.logN).put (F.ING_KEY_LIMBS p slot) k.limbs
  ((s.put (F.ING_KEY_LEVEL p slot) k.level).put (F.ING_KEY_SCALE p slot) k.scale).put (F.ING_KEY_VALID p slot) 1

theorem commitIngKey_eq {u : State} {p a : Nat} (hstate : ipState u p ≠ 0) (hallot : ipAllot u p = a) (slot : Nat) (k : IngKeySlot) (act : Bool) :
    u.commitIngKey p slot a k act =
      let w := (u.setIng p (if slot = 0 then { u.ing p with key0 := some k } else { u.ing p with key1 := some k })).noteIngKey p slot k
      if act then w.put (F.ING_PORT_STATE_ACTIVE_KEY p) slot else w :=
  if_neg (not_or.2 ⟨hstate, not_not.2 hallot⟩)

/-- Registers alone have been written, of what a commit of a key slot keeps. -/
structure IngNoted (s t : State) : Prop where
  kept : CommitKept s t
  ings : t.ings = s.ings

theorem IngNoted.put {s t : State} (h : IngNoted s t) (f : Fld) (v : Nat) : IngNoted s (t.put f v) := ⟨h.kept.put f v, h.ings⟩

theorem noteIngKey_noted (s : State) (p slot : Nat) (k : IngKeySlot) : IngNoted s (s.noteIngKey p slot k) :=
  ((((((⟨.refl s, rfl⟩ : IngNoted s s).put _ _).put _ _).put _ _).put _ _).put _ _).put _ _

theorem noteIngKey_valid (s : State) (p slot : Nat) (k : IngKeySlot) : (s.noteIngKey p slot k).get (F.ING_KEY_VALID p slot) = 1 :=
  State.get_put_self _ (F.ING_KEY_VALID p slot) 1 (Nat.le_of_ble_eq_true rfl)

theorem IngKeySet.of {u v w t : State} {p slot : Nat} {k : IngKeySlot} {act : Bool} (hslot : slot < 2) (hkept : CommitKept u v)
    (hkey : ∀ w : State, w.ings = v.ings → (if slot = 0 then (w.ing p).key0 else (w.ing p).key1) = some k) (hw : IngNoted v w)
    (hvalid : w.get (F.ING_KEY_VALID p slot) = 1) (ht : t = if act then w.put (F.ING_PORT_STATE_ACTIVE_KEY p) slot else w) :
    IngKeySet u t p slot k act := by
  have hreg : (F.ING_KEY_VALID p slot).reg ≠ (F.ING_PORT_STATE_ACTIVE_KEY p).reg := by
    show 0xC0120 + 0x80 * p + 8 * slot ≠ 0xC0100 + 0x80 * p
    omega
  subst ht
  cases act with
  | false => exact ⟨hkey w hw.ings, hvalid, fun h => absurd h Bool.false_ne_true, hkept.trans hw.kept⟩
  | true =>
    refine ⟨hkey (w.put (F.ING_PORT_STATE_ACTIVE_KEY p) slot) hw.ings, (State.get_put_reg w _ _ slot hreg).trans hvalid, fun _ => ?_,
      (hkept.trans hw.kept).put _ _⟩
    exact (State.get_put_self w (F.ING_PORT_STATE_ACTIVE_KEY p) slot (Nat.le_of_ble_eq_true rfl)).trans (Nat.mod_eq_of_lt hslot)

theorem commitIngKey_set {u : State} {p a slot : Nat} (hslot : slot < 2) (hstate : ipState u p ≠ 0) (hallot : ipAllot u p = a)
    (k : IngKeySlot) (act : Bool) : IngKeySet u (u.commitIngKey p slot a k act) p slot k act :=
  .of hslot (setIng_kept u p _) (fun _ hw => setIngKey_key u p slot k hw) (noteIngKey_noted _ p slot k) (noteIngKey_valid _ p slot k)
    (commitIngKey_eq hstate hallot slot k act)

theorem Concludes.ing {s t : State} (h : Concludes s t) (p : Nat) : t.ing p = s.ing p := by
  rw [h.rest]
  rfl

theorem ingKey_commits {s : State} {o : Ord} (h : AtGate s o) {p slot a : Nat} (k : IngKeySlot) (act : Bool) (hslot : slot < 2)
    (hstate : ipState s p ≠ 0) (hallot : ipAllot s p = a) : CommitsTo s o (.ingKey p slot a k act) 0 fun t =>
    (if slot = 0 then (t.ing p).key0 else (t.ing p).key1) = some k ∧ t.get (F.ING_KEY_VALID p slot) = 1 ∧
      (act = true → t.get (F.ING_PORT_STATE_ACTIVE_KEY p) = slot) := by
  refine commitsTo_of h (fun _ => rfl) fun u hu => ?_
  have hset := commitIngKey_set hslot (fun e => hstate ((hu.get _).symm.trans e)) ((hu.get _).trans hallot) k act
  refine ⟨_, rfl, hset.kept, fun t ht => ?_⟩
  have hvalid : Aside (F.ING_KEY_VALID p slot) := aside_far (by show _ ≤ 0xC0120 + 0x80 * p + 8 * slot; omega)
    (by show (0xC0120 + 0x80 * p + 8 * slot) % 8 = 0; omega)
  have hactive : Aside (F.ING_PORT_STATE_ACTIVE_KEY p) := aside_far (by show _ ≤ 0xC0100 + 0x80 * p; omega)
    (by show (0xC0100 + 0x80 * p) % 8 = 0; omega)
  rw [ht.concludes.ing]
  exact ⟨hset.key, (ht.concludes.get _ hvalid).trans hset.valid, fun hact => (ht.concludes.get _ hactive).trans (hset.active hact)⟩

/-! ## Pin records -/

/-- Between two states only registers may differ. -/
def RegsOnly (s t : State) : Prop := ∃ r, t = { s with regs := r }

theorem RegsOnly.refl (s : State) : RegsOnly s s := ⟨s.regs, rfl⟩

theorem RegsOnly.trans {s t u : State} (h : RegsOnly s t) (k : RegsOnly t u) : RegsOnly s u := by
  obtain ⟨_, h⟩ := h
  obtain ⟨r, k⟩ := k
  exact ⟨r, by rw [k, h]⟩

theorem RegsOnly.put {s t : State} (h : RegsOnly s t) (f : Fld) (v : Nat) : RegsOnly s (t.put f v) := h.trans ⟨_, rfl⟩

theorem regsOnly_foldl {β : Type} {f : State → β → State} (hf : ∀ s x, RegsOnly s (f s x)) (l : List β) (s : State) : RegsOnly s (l.foldl f s) :=
  foldl_keeps RegsOnly.refl RegsOnly.trans l (fun s x _ => hf s x) s

theorem captureStamp_regs (s : State) (k : Nat) : RegsOnly s (s.captureStamp k) := by
  have hover : RegsOnly s (if s.on (F.GPIO_STAMP_VALID k) = true then s.put (F.GPIO_STAMP_OVERRUN k) 1 else s) := by
    split
    · exact (RegsOnly.refl s).put _ _
    · exact .refl s
  exact ((hover.put _ _).put _ _).put _ _

theorem stampsRise_regs (s old : State) : RegsOnly s (s.stampsRise old) :=
  regsOnly_foldl (fun s k => by
    split
    · exact captureStamp_regs s k
    · exact .refl s) _ s

theorem noteConflicts_regs (s : State) : RegsOnly s s.noteConflicts :=
  regsOnly_foldl (fun s k => by
    dsimp only
    split
    · exact (RegsOnly.refl s).put _ _
    · exact .refl s) _ s

theorem RegsOnly.kept {s t : State} (h : RegsOnly s t) : CommitKept s t ∧ t.pinRecs = s.pinRecs := by
  obtain ⟨r, rfl⟩ := h
  exact ⟨⟨⟨rfl, rfl, rfl⟩, ⟨rfl, rfl, rfl⟩, ⟨rfl, rfl, rfl⟩⟩, rfl⟩

/-- The records of a list set from a first pin on. -/
theorem setPins_spec (first : Nat) (l : List Nat) (n : Nat) (s : State) :
    ∃ m, (l.zipIdx n).foldl (fun s x => { s with pinRecs := smSet 0 s.pinRecs (first + x.2) x.1 }) s = { s with pinRecs := m } ∧
      (∀ i v, l[i]? = some v → smGet 0 m (first + n + i) = v) ∧ ∀ k, k < first + n → smGet 0 m k = smGet 0 s.pinRecs k := by
  induction l generalizing n s with
  | nil => exact ⟨_, rfl, fun _ _ h => (nomatch h), fun _ _ => rfl⟩
  | cons x l ih =>
    obtain ⟨m, hm, hset, hlow⟩ := ih (n + 1) { s with pinRecs := smSet 0 s.pinRecs (first + n) x }
    refine ⟨m, hm, fun i v hv => ?_, fun k hk => ?_⟩
    · cases i with
      | zero =>
        obtain rfl : x = v := by simpa using hv
        exact (hlow (first + n) (by omega)).trans (smGet_smSet_self _ _ _ _)
      | succ i =>
        have := hset i v (by simpa using hv)
        rwa [show first + (n + 1) + i = first + n + (i + 1) by omega] at this
    · exact (hlow k (by omega)).trans (smGet_smSet_ne _ _ _ _ (by omega))

/-- What follows the records of a commit of pins. -/
theorem notePins_regs (s old : State) : RegsOnly s (s.filterPins.stampsRise old).noteConflicts :=
  (((RegsOnly.refl s).put F.GPIO_IN_IN _).trans (stampsRise_regs _ old)).trans (noteConflicts_regs _)

theorem pins_kept {u v w : State} {m : SMap Nat} (hv : v = { u with pinRecs := m }) (hw : RegsOnly v w) : CommitKept u w ∧ w.pinRecs = m := by
  obtain ⟨hkept, hrecs⟩ := hw.kept
  have hpins : CommitKept u v := by
    rw [hv]
    exact ⟨⟨rfl, rfl, rfl⟩, ⟨rfl, rfl, rfl⟩, ⟨rfl, rfl, rfl⟩⟩
  exact ⟨hpins.trans hkept, hrecs.trans (by rw [hv])⟩

theorem commitPins_spec (u : State) (first : Nat) (l : List Nat) : CommitKept u (u.commitPins first l) ∧
    ∀ i v, l[i]? = some v → (u.commitPins first l).pinRec (first + i) = v := by
  obtain ⟨m, hm, hset, -⟩ := setPins_spec first l 0 u
  obtain ⟨hkept, hrecs⟩ := pins_kept hm (notePins_regs _ u)
  exact ⟨hkept, fun i v hv => (congrArg (fun m => smGet 0 m (first + i)) hrecs).trans (hset i v hv)⟩

theorem Concludes.pinRec {s t : State} (h : Concludes s t) (n : Nat) : t.pinRec n = s.pinRec n := by
  rw [h.rest]
  rfl

theorem pins_commits {s : State} {o : Ord} (h : AtGate s o) (first : Nat) (l : List Nat) : CommitsTo s o (.pins first l) l.length fun t =>
    ∀ i v, l[i]? = some v → t.pinRec (first + i) = v := by
  refine commitsTo_of h (fun _ => rfl) fun u _ => ?_
  obtain ⟨hkept, hset⟩ := commitPins_spec u first l
  exact ⟨_, rfl, hkept, fun t ht i v hv => (ht.concludes.pinRec _).trans (hset i v hv)⟩

end Sys2Proof.Machine
end

section
/-! PROOFS. A claim at its headgate commit (R134), and changes that do not commit (R47, R150). -/

namespace Sys2Proof.Machine

/-! ## Maps of tiles -/

theorem bit_eq_testBit (v i : Nat) : bit v i = v.testBit i := Nat.testBit_eq_decide_div_mod_eq.symm

/-- Adding a power of two to a number without that bit sets the bit alone. -/
theorem testBit_add_two_pow {v i : Nat} (hv : v < 2 ^ 64) (h : v.testBit i = false) (hi : i < 64) (j : Nat) :
    ((v + 2 ^ i) % 2 ^ 64).testBit j = (v.testBit j || decide (i = j)) := by
  have hpow : 2 ^ i < 2 ^ 64 := Nat.pow_lt_pow_right (by decide) hi
  have hand : BitVec.ofNat 64 v &&& BitVec.ofNat 64 (2 ^ i) = 0#64 := by
    refine BitVec.eq_of_getLsbD_eq fun k hk => ?_
    rw [BitVec.getLsbD_and, BitVec.getLsbD_ofNat, BitVec.getLsbD_ofNat, BitVec.getLsbD_zero, Nat.testBit_two_pow]
    by_cases hik : i = k
    · rw [← hik, h]
      simp
    · simp [hik]
  have hsum := congrArg BitVec.toNat (BitVec.add_eq_or_of_and_eq_zero _ _ hand)
  rw [BitVec.toNat_add, BitVec.toNat_or, BitVec.toNat_ofNat, BitVec.toNat_ofNat, Nat.mod_eq_of_lt hv, Nat.mod_eq_of_lt hpow] at hsum
  rw [hsum, Nat.testBit_or, Nat.testBit_two_pow]

section
variable {a : Nat} (s : State) (k : Nat)

theorem claimTile_get {f : Fld} (hf : f.reg ≠ 0x40108 + 0x100 * a + 8 * (k / 64)) : (s.setMapBit (F.ALT_TILE_MAP_MAP a) k true).get f = s.get f := by
  unfold State.setMapBit
  dsimp only
  split
  · rfl
  · exact State.get_put_reg s (F.ALT_TILE_MAP_MAP a (k / 64)) f _ hf

theorem claimTile_regs : RegsOnly s (s.setMapBit (F.ALT_TILE_MAP_MAP a) k true) := by
  unfold State.setMapBit
  dsimp only
  split
  · exact .refl s
  · exact (RegsOnly.refl s).put _ _

/-- A tile that an allotment takes is its own, and so is each that it had. -/
theorem claimTile_owns (j : Nat) : (s.setMapBit (F.ALT_TILE_MAP_MAP a) k true).ownsTile a j = (s.ownsTile a j || decide (j = k)) := by
  have hlt : s.get (F.ALT_TILE_MAP_MAP a (k / 64)) < 2 ^ 64 := s.get_lt _
  have hmod : k % 64 < 64 := Nat.mod_lt _ (by decide)
  have hother : ∀ v, j / 64 ≠ k / 64 → (s.put (F.ALT_TILE_MAP_MAP a (k / 64)) v).ownsTile a j = s.ownsTile a j := fun v h =>
    congrArg (fun x => bit x (j % 64)) (State.get_put_reg s (F.ALT_TILE_MAP_MAP a (k / 64)) (F.ALT_TILE_MAP_MAP a (j / 64)) v (by
      show 0x40108 + 0x100 * a + 8 * (j / 64) ≠ 0x40108 + 0x100 * a + 8 * (k / 64)
      omega))
  have hself : ∀ v, j / 64 = k / 64 → (s.put (F.ALT_TILE_MAP_MAP a (k / 64)) v).ownsTile a j = (v % 2 ^ 64).testBit (j % 64) := fun v h => by
    rw [← bit_eq_testBit]
    refine congrArg (fun x => bit x (j % 64)) ?_
    rw [h]
    exact State.get_put_self s (F.ALT_TILE_MAP_MAP a (k / 64)) v (Nat.le_of_ble_eq_true rfl)
  unfold State.setMapBit
  dsimp only
  split
  next hset =>
    by_cases hjk : j = k
    · rw [hjk, show s.ownsTile a k = true from hset]
      rfl
    · rw [decide_eq_false hjk, Bool.or_false]
  next hset =>
    have hclear : (s.get (F.ALT_TILE_MAP_MAP a (k / 64))).testBit (k % 64) = false := by
      rw [← bit_eq_testBit]
      exact Bool.eq_false_iff.2 hset
    rw [if_pos rfl]
    by_cases hj : j / 64 = k / 64
    · have hown : s.ownsTile a j = (s.get (F.ALT_TILE_MAP_MAP a (k / 64))).testBit (j % 64) := by
        rw [← hj, ← bit_eq_testBit]
        rfl
      rw [hself _ hj, testBit_add_two_pow hlt hclear hmod, hown]
      exact congrArg _ (decide_eq_decide.2 ⟨fun h => by omega, fun h => by rw [h]⟩)
    · have hjk : j ≠ k := fun h => hj (h ▸ rfl)
      rw [hother _ hj, decide_eq_false hjk, Bool.or_false]

end

/-- The tiles of a claim, taken one by one. -/
def State.claimTiles (s : State) (a : Nat) (ts : List Nat) : State := ts.foldl (fun s t => s.setMapBit (F.ALT_TILE_MAP_MAP a) t true) s

theorem claimTiles_regs (s : State) (a : Nat) (ts : List Nat) : RegsOnly s (s.claimTiles a ts) := regsOnly_foldl (fun s k => claimTile_regs s k) ts s

theorem claimTiles_get (a : Nat) {f : Fld} (hf : ∀ i, f.reg ≠ 0x40108 + 0x100 * a + 8 * i) (ts : List Nat) (s : State) :
    (s.claimTiles a ts).get f = s.get f :=
  foldl_keeps (R := fun s t : State => t.get f = s.get f) (fun _ => rfl) (fun h k => k.trans h) ts (fun s k _ => claimTile_get s k (hf _)) s

theorem claimTiles_owns (a : Nat) {k : Nat} (ts : List Nat) (s : State) : (s.claimTiles a ts).ownsTile a k = (s.ownsTile a k || decide (k ∈ ts)) := by
  unfold State.claimTiles
  induction ts generalizing s with
  | nil => simp
  | cons t ts ih =>
    rw [List.foldl_cons, ih, claimTile_owns, Bool.or_assoc]
    simp [List.mem_cons]

/-! ## The claim -/

/-- The registers of a claimed allotment's state. -/
def State.noteClaim (s : State) (a fn party : Nat) (b : Bool) (n : Nat) : State :=
  ((((s.put (F.ALT_STATE_STATE a) 1).put (F.ALT_STATE_SEALED a) (b2n b)).put (F.ALT_STATE_PARTY a) party).put (F.ALT_STATE_FUNCTION a) fn).put
    (F.ALT_STATE_TILES a) n

/-- The state of a claimed allotment, as its registers show it. -/
structure ClaimNoted (s : State) (a fn party : Nat) (b : Bool) (n : Nat) : Prop where
  state : s.get (F.ALT_STATE_STATE a) = 1
  sealed : s.get (F.ALT_STATE_SEALED a) = b2n b
  party : s.get (F.ALT_STATE_PARTY a) = party % 2 ^ 4
  function : s.get (F.ALT_STATE_FUNCTION a) = fn % 2 ^ 5
  tiles : s.get (F.ALT_STATE_TILES a) = n % 2 ^ 8

theorem ClaimNoted.of {s t : State} {a fn party n : Nat} {b : Bool} (h : ClaimNoted s a fn party b n)
    (hget : ∀ f : Fld, f.reg = 0x40100 + 0x100 * a → f.lo + f.w ≤ 13 ∨ 14 ≤ f.lo → t.get f = s.get f) : ClaimNoted t a fn party b n where
  state := (hget _ rfl (.inl (Nat.le_of_ble_eq_true rfl))).trans h.state
  sealed := (hget _ rfl (.inl (Nat.le_of_ble_eq_true rfl))).trans h.sealed
  party := (hget _ rfl (.inl (Nat.le_of_ble_eq_true rfl))).trans h.party
  function := (hget _ rfl (.inl (Nat.le_of_ble_eq_true rfl))).trans h.function
  tiles := (hget _ rfl (.inr (Nat.le_of_ble_eq_true rfl))).trans h.tiles

theorem b2n_mod (b : Bool) : b2n b % 2 ^ 1 = b2n b := by cases b <;> rfl

theorem noteClaim_noted (s : State) (a fn party : Nat) (b : Bool) (n : Nat) : ClaimNoted (s.noteClaim a fn party b n) a fn party b n := by
  have hself : ∀ (u : State) (f : Fld) (v : Nat), f.lo + f.w ≤ 64 → (u.put f v).get f = v % 2 ^ f.w := fun u f v h => State.get_put_self u f v h
  have hbeside : ∀ (u : State) (f g : Fld) (v : Nat), f.lo + f.w ≤ 64 → f.lo + f.w ≤ g.lo ∨ g.lo + g.w ≤ f.lo → (u.put f v).get g = u.get g :=
    fun u f g v h h' => State.get_put_beside u f g v h h'
  have hle : ∀ {m k : Nat}, Nat.ble m k = true → m ≤ k := fun h => Nat.le_of_ble_eq_true h
  unfold State.noteClaim
  refine ⟨?_, ?_, ?_, ?_, ?_⟩
  · exact (hbeside _ _ _ n (hle rfl) (.inr (hle rfl))).trans ((hbeside _ _ _ fn (hle rfl) (.inr (hle rfl))).trans
      ((hbeside _ _ _ party (hle rfl) (.inr (hle rfl))).trans ((hbeside _ _ _ (b2n b) (hle rfl) (.inr (hle rfl))).trans (hself _ _ 1 (hle rfl)))))
  · exact (hbeside _ _ _ n (hle rfl) (.inr (hle rfl))).trans ((hbeside _ _ _ fn (hle rfl) (.inr (hle rfl))).trans
      ((hbeside _ _ _ party (hle rfl) (.inr (hle rfl))).trans ((hself _ _ (b2n b) (hle rfl)).trans (b2n_mod b))))
  · exact (hbeside _ _ _ n (hle rfl) (.inr (hle rfl))).trans ((hbeside _ _ _ fn (hle rfl) (.inr (hle rfl))).trans (hself _ _ party (hle rfl)))
  · exact (hbeside _ _ _ n (hle rfl) (.inr (hle rfl))).trans (hself _ _ fn (hle rfl))
  · exact hself _ _ n (hle rfl)

theorem noteClaim_regs (s : State) (a fn party : Nat) (b : Bool) (n : Nat) : RegsOnly s (s.noteClaim a fn party b n) :=
  (((((RegsOnly.refl s).put _ _).put _ _).put _ _).put _ _).put _ _

/-- An allotment as it stands before its first claim, its registers clear. -/
def State.freshAllot (s : State) (a : Nat) : State :=
  ((s.setAllot a Allot.reset).clearRegs (0x40100 + 0x100 * a) (0x40130 + 0x100 * a)).setReg (0x88000 + 8 * a) 0

/-- An empty ledger, and no doubt counted. -/
def State.emptyBook (s : State) (a : Nat) : State :=
  ((s.put (F.SLU_LEDGER_NEXT a) 0).put (F.SLU_LEDGER_ACK a) 0).put (F.SLU_ALLOT_DOUBTS a) 0

theorem emptyBook_regs (s : State) (a : Nat) : RegsOnly s (s.emptyBook a) := (((RegsOnly.refl s).put _ _).put _ _).put _ _

theorem emptyBook_get (s : State) {a : Nat} {f : Fld} (hf : f.reg < 0x100100) : (s.emptyBook a).get f = s.get f := by
  have hne : ∀ (u : State) (g : Fld), 0x100100 ≤ g.reg → (u.put g 0).get f = u.get f := fun u g hg => State.get_put_reg u g f 0 (by omega)
  exact (hne _ (F.SLU_ALLOT_DOUBTS a) (Nat.le_add_right _ _)).trans ((hne _ (F.SLU_LEDGER_ACK a) (by show _ ≤ 0x100108 + 0x20 * a; omega)).trans
    (hne _ (F.SLU_LEDGER_NEXT a) (by show _ ≤ 0x100108 + 0x20 * a; omega)))

theorem commitClaim_eq {s : State} {a fn party : Nat} {b : Bool} {ts : List Nat} (hempty : s.isEmpty a = true) (hfn : s.fnBound fn = false)
    (hts : ∀ k ∈ ts, s.tileFree k = true) :
    s.commitClaim a fn party b ts = .ok ((((s.freshAllot a).noteClaim a fn party b ts.length).claimTiles a ts).emptyBook a) := by
  have hfree : (ts.any fun t => !s.tileFree t) = false := by
    rw [List.any_eq_false]
    intro t ht
    rw [hts t ht]
    exact Bool.false_ne_true
  unfold State.commitClaim
  rw [if_neg (by rw [hempty]; exact Bool.false_ne_true), if_neg (by rw [hfn]; exact Bool.false_ne_true),
    if_neg (by rw [hfree]; exact Bool.false_ne_true)]
  rfl

/-- An allotment claimed. -/
structure ClaimSet (u w : State) (a fn party : Nat) (b : Bool) (ts : List Nat) : Prop where
  noted : ClaimNoted w a fn party b ts.length
  rights : (w.allot a).rights = []
  tiles : ∀ k ∈ ts, w.ownsTile a k = true
  kept : CommitKept u w

theorem freshAllot_spec (s : State) (a : Nat) : CommitKept s (s.freshAllot a) ∧ (s.freshAllot a).allot a = Allot.reset :=
  ⟨⟨⟨rfl, rfl, rfl⟩, ⟨rfl, rfl, rfl⟩, ⟨rfl, rfl, rfl⟩⟩, setAllot_allot s a Allot.reset⟩

theorem RegsOnly.allot {s t : State} (h : RegsOnly s t) (a : Nat) : t.allot a = s.allot a := by
  obtain ⟨r, rfl⟩ := h
  rfl

theorem ownsTile_of {s t : State} {a : Nat} (hget : ∀ f : Fld, f.reg < 0x100100 → t.get f = s.get f) (ha : a < 16) {k : Nat} (hk : k < 144) :
    t.ownsTile a k = s.ownsTile a k :=
  congrArg (fun x => bit x (k % 64)) (hget (F.ALT_TILE_MAP_MAP a (k / 64)) (by
    show 0x40108 + 0x100 * a + 8 * (k / 64) < _
    omega))

theorem ClaimSet.of {u v n c w : State} {a fn party : Nat} {b : Bool} {ts : List Nat} (ha : a < 16) (hts : ∀ k ∈ ts, k < 144) (hv : CommitKept u v)
    (hreset : v.allot a = Allot.reset) (hn : RegsOnly v n) (hnoted : ClaimNoted n a fn party b ts.length) (hc : c = n.claimTiles a ts)
    (hw : w = c.emptyBook a) : ClaimSet u w a fn party b ts := by
  subst hc hw
  have htiles := claimTiles_regs n a ts
  have hbook := emptyBook_regs (n.claimTiles a ts) a
  have hget : ∀ f : Fld, f.reg < 0x100100 → ((n.claimTiles a ts).emptyBook a).get f = (n.claimTiles a ts).get f := fun f hf => emptyBook_get _ hf
  refine ⟨hnoted.of fun f hf _ => ?_, ?_, fun k hk => ?_, hv.trans ((hn.trans htiles).trans hbook).kept.1⟩
  · exact (hget f (by omega)).trans (claimTiles_get a (fun i => by omega) ts n)
  · rw [((hn.trans htiles).trans hbook).allot a, hreset]
    rfl
  · rw [ownsTile_of hget ha (hts k hk), claimTiles_owns, decide_eq_true hk, Bool.or_true]

theorem commitClaim_set {u : State} {a fn party : Nat} {b : Bool} {ts : List Nat} (ha : a < 16) (hempty : u.isEmpty a = true)
    (hfn : u.fnBound fn = false) (hts : ∀ k ∈ ts, k < 144 ∧ u.tileFree k = true) :
    ∃ w, u.commitClaim a fn party b ts = .ok w ∧ ClaimSet u w a fn party b ts := by
  obtain ⟨hkept, hreset⟩ := freshAllot_spec u a
  exact ⟨_, commitClaim_eq hempty hfn fun k hk => (hts k hk).2, .of ha (fun k hk => (hts k hk).1) hkept hreset (noteClaim_regs ..)
    (noteClaim_noted ..) rfl rfl⟩

namespace Gated

variable {s u : State} (h : Gated s u)
include h

theorem isEmpty (a : Nat) : u.isEmpty a = s.isEmpty a := congrArg (fun x => decide (x = 0)) (h.get (F.ALT_STATE_STATE a))

theorem fnBound (fn : Nat) : u.fnBound fn = s.fnBound fn := by
  have hat : (fun a => !u.isEmpty a && u.get (F.ALT_STATE_FUNCTION a) == fn) = fun a => !s.isEmpty a && s.get (F.ALT_STATE_FUNCTION a) == fn :=
    funext fun a => by rw [h.isEmpty, h.get]
  unfold State.fnBound State.allotOfFn
  rw [hat]

theorem mapBit (f : Nat → Fld) (t : Nat) : u.mapBit f t = s.mapBit f t := congrArg (fun x => bit x (t % 64)) (h.get _)

theorem tileFree (t : Nat) : u.tileFree t = s.tileFree t := by
  have howner : u.tileOwner t = s.tileOwner t := congrArg (fun p => (List.range 16).find? p) (funext fun a => h.mapBit (F.ALT_TILE_MAP_MAP a) t)
  have htest : u.underTest t = s.underTest t := by rw [h.rest]; rfl
  unfold State.tileFree State.tileEnabled State.tileGated State.working State.tileClosed
  rw [h.mapBit, h.mapBit, h.mapBit, h.mapBit, howner, htest]

end Gated

theorem claim_commits {s : State} {o : Ord} (h : AtGate s o) {a fn : Nat} (party : Nat) (b : Bool) {ts : List Nat} (ha : a < 16)
    (hempty : s.isEmpty a = true) (hfn : s.fnBound fn = false) (hts : ∀ k ∈ ts, k < 144 ∧ s.tileFree k = true) :
    CommitsTo s o (.claim a fn party b ts) (if o.allot = 255 then a else 0) fun t =>
      t.altState a = 1 ∧ t.isSealed a = b ∧ t.get (F.ALT_STATE_PARTY a) = party % 2 ^ 4 ∧
      t.get (F.ALT_STATE_FUNCTION a) = fn % 2 ^ 5 ∧ t.get (F.ALT_STATE_TILES a) = ts.length % 2 ^ 8 ∧ (t.allot a).rights = [] ∧
      (∀ k ∈ ts, t.ownsTile a k = true) := by
  refine commitsTo_of h (fun _ => rfl) fun u hu => ?_
  obtain ⟨w, hw, hset⟩ := commitClaim_set (party := party) (b := b) ha ((hu.isEmpty a).trans hempty) ((hu.fnBound fn).trans hfn)
    fun k hk => ⟨(hts k hk).1, (hu.tileFree k).trans (hts k hk).2⟩
  refine ⟨w, hw, hset.kept, fun t ht => ?_⟩
  obtain ⟨hstate, hsealed, hparty, hfunction, htiles⟩ := hset.noted.of (t := t) fun f hr hb => ht.concludes.get f (aside_allotState hr hb)
  refine ⟨hstate, ?_, hparty, hfunction, htiles, (ht.concludes.rights a).trans hset.rights, fun k hk => ?_⟩
  · show decide (t.get (F.ALT_STATE_SEALED a) = 1) = b
    rw [hsealed]
    cases b <;> rfl
  · have hk3 : k / 64 < 3 := by have := (hts k hk).1; omega
    have haside : Aside (F.ALT_TILE_MAP_MAP a (k / 64)) := aside_allot (a := a) (k := 0x8 + 8 * (k / 64))
      (by show 0x40108 + 0x100 * a + 8 * (k / 64) = _; omega) (by omega)
    exact (congrArg (fun x => bit x (k % 64)) (ht.concludes.get _ haside)).trans (hset.tiles k hk)

/-! ## A change that does not commit -/

section
variable {s : State} {o : Ord} (h : AtGate s o) {q w at_ : Nat}
include h

/-- A change whose deadline turn has come unready, or has passed, ends TIMEOUT with nothing changed. -/
theorem weight_late {r : Bool} (hstaged : s.staged = [⟨o, .weight q w, r, at_⟩])
    (hlate : (r = false ∧ o.deadline = s.wck.turn) ∨ turnPassed s o.deadline = true) : ∃ t, exec .headgateCommit s = .next t ∧
    Reports (s.atGuard 64) t o stTimeout 0 openTimeout ∧ Ended t o ∧ t.staged = [] ∧
    (∀ r < 64, t.get (F.DR_QLOAD_WEIGHT r) = s.get (F.DR_QLOAD_WEIGHT r)) ∧ ∀ x, t.rd x = s.rd x := by
  have hu := gated_atGuard s 64
  have hpast : (⟨o, .weight q w, r, at_⟩ : Staged).past (s.atGuard 64) = turnPassed s o.deadline := past_eq h rfl
  have hready : r = false ∨ (⟨o, .weight q w, r, at_⟩ : Staged).past (s.atGuard 64) = true := hlate.imp (·.1) hpast.trans
  have hcome : (⟨o, .weight q w, r, at_⟩ : Staged).late (s.atGuard 64) = true := by
    unfold Staged.late
    rw [bne_iff_ne.2 h.op, Bool.true_and, Bool.or_eq_true, beq_iff_eq, hu.turn, turnPassed_congr hu.turn]
    exact hlate.imp_left (·.2)
  obtain ⟨t, hexec, hdone, hrd⟩ := gate_ends h hstaged (congrArg Prod.snd (commitOne_late (held := []) hready hcome)) (.refl _)
  exact ⟨t, hexec, hdone.reports, hdone.ended, hdone.staged, fun r _ => (hdone.concludes.get _ aside_weight).trans (hu.get _), hrd⟩

end

theorem late_false {s v : State} {x : Staged} (hne : x.ord.deadline ≠ s.wck.turn) (hpast : turnPassed s x.ord.deadline = false)
    (hv : v.wck.turn = s.wck.turn) : x.late v = false := by
  unfold Staged.late
  rw [hv, turnPassed_congr hv, hpast, beq_eq_false_iff_ne.2 hne, Bool.or_false, Bool.and_false]

/-- The commit event from the state that the staged changes leave. -/
theorem gate_from {s : State} {o : Ord} (h : AtGate s o) {v : State} {l : List Nat}
    (hfold : s.staged.foldl commitOne ([], s.atGuard 64) = (l, v)) (hre : v.reopens = []) (hu : Untouched (s.atGuard 64) v) :
    ∃ t, exec .headgateCommit s = .next t ∧ GateShut (s.atGuard 64).allRights v t ∧ ∀ x, t.rd x = s.rd x := by
  have hshut := shutGate_shut hre (s.atGuard 64).allRights
  have hev : headgate (s.atGuard 64) = v.shutGate (s.atGuard 64).allRights := by rw [headgate_eq, h.stands.staged, hfold]
  obtain ⟨hexec, hrd⟩ := gate_exec h hev (hu.trans hshut.concludes.untouched)
  exact ⟨_, hexec, hshut, hrd⟩

/-- Where no staged change commits or ends, only registers that Aside leaves out move. -/
theorem gate_idle {s : State} {o : Ord} (h : AtGate s o) {l : List Nat} (hfold : s.staged.foldl commitOne ([], s.atGuard 64) = (l, s.atGuard 64)) :
    ∃ t, exec .headgateCommit s = .next t ∧ t.staged = s.staged ∧ t.queues = s.queues ∧ t.inflight = s.inflight ∧
      (∀ f, Aside f → t.get f = s.get f) ∧ ∀ x, t.rd x = s.rd x := by
  have hu := gated_atGuard s 64
  obtain ⟨t, hexec, hshut, hrd⟩ := gate_from h hfold h.stands.reopens (.refl _)
  refine ⟨t, hexec, ?_, ?_, ?_, fun f hf => (hshut.get f hf).trans (hu.get f), hrd⟩
  · rw [hshut.rest, hu.rest]
  · rw [hshut.rest, hu.rest]
  · rw [hshut.rest, hu.rest]

/-- A change that is not ready stays staged before its deadline turn. -/
theorem weight_stays {s : State} {o : Ord} (h : AtGate s o) {q w at_ : Nat} (hstaged : s.staged = [⟨o, .weight q w, false, at_⟩])
    (hne : o.deadline ≠ s.wck.turn) (hpast : turnPassed s o.deadline = false) :
    ∃ t, exec .headgateCommit s = .next t ∧ t.staged = s.staged ∧ t.queues = s.queues ∧ t.inflight = s.inflight ∧
    (∀ r < 64, t.get (F.DR_QLOAD_WEIGHT r) = s.get (F.DR_QLOAD_WEIGHT r)) ∧ ∀ x, t.rd x = s.rd x := by
  have hstays : commitOne ([], s.atGuard 64) ⟨o, .weight q w, false, at_⟩ = (_, s.atGuard 64) :=
    commitOne_stays (.inl rfl) (late_false (x := ⟨o, .weight q w, false, at_⟩) hne hpast (gated_atGuard s 64).turn)
  obtain ⟨t, hexec, hst, hq, hin, hget, hrd⟩ := gate_idle h (by rw [hstaged, List.foldl_cons, List.foldl_nil, hstays])
  exact ⟨t, hexec, hst, hq, hin, fun r _ => hget _ aside_weight, hrd⟩

/-! ## Two turnout tables -/

/-- One of several staged turnout tables has committed, its order ended. -/
structure TurnoutDone (u v : State) (x : Staged) (a root n : Nat) : Prop where
  reports : Reports u v x.ord stDone 0 0
  ended : Ended v x.ord
  leaves : Leaves u.inflight v.inflight
  stays : ∀ p ∈ u.inflight, p.id ≠ x.ord.id → p ∈ v.inflight
  staged : v.staged = (u.unstage x).staged
  levels : v.get (F.ALT_TURNOUT_LEVELS a) = n % 2 ^ 2
  root : v.get (F.ALT_TURNOUT_ROOT a) = root / 4096 % 2 ^ 36
  other : ∀ b, b ≠ a → v.get (F.ALT_TURNOUT_LEVELS b) = u.get (F.ALT_TURNOUT_LEVELS b)
  due : v.fallowDue = u.fallowDue ∧ v.reopens = u.reopens
  clock : v.wck = u.wck
  untouched : Untouched u v

theorem finish_stays {s : State} {o : Ord} (st i d : Nat) (m : Bool) {p : Ord} (hp : p ∈ s.inflight) (hne : p.id ≠ o.id) :
    p ∈ (s.finish o st i d m).inflight := by
  unfold State.finish
  split
  · rw [pushTally_inflight, endOrder_inflight]
    exact List.mem_filter.2 ⟨hp, bne_iff_ne.2 hne⟩
  · exact hp

theorem unstage_concludes {w v : State} {x : Staged} (h : Concludes (w.unstage x) v) : Concludes w v :=
  .trans (.same (.refl w) rfl) h

theorem turnout_done {u w v : State} {x : Staged} {a root n : Nat} (hin : x.ord ∈ u.inflight) (hset : TurnoutSet u w a root n)
    (hv : v = (w.unstage x).finish x.ord stDone 0 0) : TurnoutDone u v x a root n := by
  subst hv
  obtain ⟨hu, ⟨hws, hwf, hwr⟩, hwi, hwq, hwk⟩ := hset.kept
  obtain ⟨⟨m, hm⟩, hended, -, -⟩ := finish_spec (w.unstage x) x.ord stDone 0 0 false (show x.ord ∈ w.inflight from hwi ▸ hin)
  have hcon := unstage_concludes (finish_concludes (w.unstage x) x.ord stDone 0 0 false)
  have hwq' : (w.unstage x).queue x.ord.q = u.queue x.ord.q := congrArg (fun l => smGet Queue.reset l x.ord.q) hwq
  have hwk' : (w.unstage x).wck = u.wck := hwk
  rw [hwq', hwk'] at hm
  refine ⟨⟨m, hm⟩, hended, ?_, fun p hp hne => finish_stays _ _ _ _ (hwi ▸ hp : p ∈ w.inflight) hne, ?_,
    (hcon.get _ (aside_turnout rfl)).trans hset.levels, (hcon.get _ (aside_turnout rfl)).trans hset.root, fun b hb =>
    (hcon.get _ (aside_turnout rfl)).trans (hset.other (F.ALT_TURNOUT_LEVELS b) ?_), ⟨?_, ?_⟩, hcon.wck.trans hwk, hu.trans hcon.untouched⟩
  · have hleaves := finish_leaves (w.unstage x) x.ord stDone 0 0 false
    exact (hwi ▸ Leaves.refl u.inflight : Leaves u.inflight w.inflight).trans hleaves
  · obtain ⟨_, _, _, _, _, h⟩ := finish_eq (w.unstage x) x.ord stDone 0 0 false
    rw [h]
    exact congrArg (List.filter fun y => !(y.ord.id == x.ord.id && decide (y.change = x.change))) hws
  · show 0x40128 + 0x100 * b ≠ 0x40128 + 0x100 * a
    omega
  · rw [hcon.rest]
    exact hwf
  · rw [hcon.rest]
    exact hwr

/-- A ready turnout table commits behind changes of other allotments that stay. -/
theorem turnout_step {u : State} {o : Ord} {a root n at_ : Nat} {held : List Nat} (hin : o ∈ u.inflight) (hop : o.op ≠ 0x0121)
    (hf : u.fallowDue = []) (hr : u.wck.relock = none) (hpast : turnPassed u o.deadline = false) (hheld : held.contains o.allot = false) :
    ∃ v, commitOne (held, u) ⟨o, .turnout a root n, true, at_⟩ = (held, v) ∧ TurnoutDone u v ⟨o, .turnout a root n, true, at_⟩ a root n := by
  have hset := commitTurnout_set u a root n
  have hpast' : (⟨o, .turnout a root n, true, at_⟩ : Staged).past u = false := by
    unfold Staged.past
    rw [hpast, Bool.and_false]
  have hpart : (u.commitTurnout a root n).partLeft o = false := partLeft_false hop (hset.kept.due.2.1.trans hf) (by rw [hset.kept.orders.2.2]; exact hr)
  exact ⟨_, commitOne_commits (x := ⟨o, .turnout a root n, true, at_⟩) rfl hpast' hheld rfl hpart, turnout_done hin hset rfl⟩

namespace GateShut

variable {old : List (List (Nat × Nat × Nat))} {v t : State} (h : GateShut old v t)
include h

theorem staged : t.staged = v.staged := by rw [h.rest]
theorem inflight : t.inflight = v.inflight := by rw [h.rest]
theorem queues : t.queues = v.queues := by rw [h.rest]
theorem queue (q : Nat) : t.queue q = v.queue q := congrArg (fun m => smGet Queue.reset m q) h.queues

theorem ended {o : Ord} (he : Ended v o) : Ended t o := fun x hx => he x (h.inflight ▸ hx)

theorem reports {u : State} {o : Ord} {st item d : Nat} (hr : Reports u v o st item d) : Reports u t o st item d := by
  obtain ⟨m, hm⟩ := hr
  exact ⟨m, (congrArg Queue.out (h.queue o.q)).trans hm⟩

end GateShut

/-- Two staged turnout tables, the second of them ready, before the deadline turns of their orders. -/
structure TwoTurnouts (s : State) (o p : Ord) (a b root n root' n' : Nat) (ready : Bool) (i j : Nat) : Prop where
  gate : AtGate s o
  inflight : p ∈ s.inflight
  ids : p.id ≠ o.id
  op : p.op ≠ 0x0121
  first : o.allot = a
  second : p.allot = b
  pastFirst : turnPassed s o.deadline = false
  pastSecond : turnPassed s p.deadline = false
  deadlines : o.deadline ≠ s.wck.turn ∧ p.deadline ≠ s.wck.turn
  staged : s.staged = [⟨o, .turnout a root n, ready, i⟩, ⟨p, .turnout b root' n', true, j⟩]

section
variable {s : State} {o p : Ord} {a b root n root' n' i j : Nat} {ready : Bool}

theorem TwoTurnouts.firstStays (h : TwoTurnouts s o p a b root n root' n' false i j) (ha : a < 16) :
    commitOne ([], s.atGuard 64) ⟨o, .turnout a root n, false, i⟩ = ([a], s.atGuard 64) :=
  (commitOne_stays (.inl rfl) (late_false (x := ⟨o, .turnout a root n, false, i⟩) h.deadlines.1 h.pastFirst (gated_atGuard s 64).turn)).trans
    (congrArg (·, _) ((if_pos (show o.allot < 16 from h.first ▸ ha)).trans (congrArg (fun c => [c]) h.first)))

/-- Both ready, they commit in the order in which they were staged. -/
theorem turnouts_both (h : TwoTurnouts s o p a b root n root' n' true i j) : ∃ t, exec .headgateCommit s = .next t ∧
    (t.staged = [] ∧ Ended t o ∧ Ended t p ∧ t.get (F.ALT_TURNOUT_LEVELS b) = n' % 2 ^ 2 ∧ t.get (F.ALT_TURNOUT_ROOT b) = root' / 4096 % 2 ^ 36 ∧
      (a ≠ b → t.get (F.ALT_TURNOUT_LEVELS a) = n % 2 ^ 2) ∧
      (o.q = p.q → ∃ m k, (t.queue o.q).out = (s.queue o.q).out ++
        [{ o.tally stDone 0 0 false m with cycle := (s.atGuard 64).wck.cycle, turn := (s.atGuard 64).wck.turn },
          { p.tally stDone 0 0 false k with cycle := (s.atGuard 64).wck.cycle, turn := (s.atGuard 64).wck.turn }])) ∧ ∀ x, t.rd x = s.rd x := by
  have hgate := h.gate
  have hu := gated_atGuard s 64
  have hstands := hgate.stands
  have hin : o ∈ (s.atGuard 64).inflight := hstands.inflight ▸ hgate.inflight
  have hinp : p ∈ (s.atGuard 64).inflight := hstands.inflight ▸ h.inflight
  have hstaged := hstands.staged.trans h.staged
  have hqueue : (s.atGuard 64).queue o.q = s.queue o.q := congrArg (fun m => smGet Queue.reset m o.q) hstands.queues
  obtain ⟨v, hstep, hv⟩ := turnout_step (root := root) (n := n) (a := a) (at_ := i) (held := []) hin hgate.op hstands.fallow hstands.relock
    ((turnPassed_congr hu.turn _).trans h.pastFirst) rfl
  have hvturn : v.wck.turn = s.wck.turn := by rw [hv.clock]; exact hu.turn
  obtain ⟨w, hstep', hw⟩ := turnout_step (root := root') (n := n') (a := b) (at_ := j) (held := []) (hv.stays p hinp h.ids) h.op
    (hv.due.1.trans hstands.fallow) (by rw [hv.clock]; exact hstands.relock) ((turnPassed_congr hvturn _).trans h.pastSecond) rfl
  have hfold : s.staged.foldl commitOne ([], s.atGuard 64) = ([], w) := by
    rw [h.staged, List.foldl_cons, List.foldl_cons, List.foldl_nil, hstep, hstep']
  obtain ⟨t, hexec, hshut, hrd⟩ := gate_from hgate hfold (hw.due.2.trans (hv.due.2.trans hstands.reopens)) (hv.untouched.trans hw.untouched)
  refine ⟨t, hexec, ⟨?_, ?_, hshut.ended hw.ended, (hshut.get _ (aside_turnout rfl)).trans hw.levels, (hshut.get _ (aside_turnout rfl)).trans hw.root,
    fun hab => (hshut.get _ (aside_turnout rfl)).trans ((hw.other a hab).trans hv.levels), fun hq => ?_⟩, hrd⟩
  · have hid : (p.id == o.id) = false := beq_eq_false_iff_ne.2 h.ids
    rw [hshut.staged, hw.staged]
    unfold State.unstage
    rw [hv.staged]
    unfold State.unstage
    rw [hstaged]
    simp [hid]
  · exact hshut.ended (hv.ended.leaves hw.leaves)
  · obtain ⟨m, hm⟩ := hv.reports
    obtain ⟨m', hm'⟩ := hw.reports
    dsimp only at hm hm'
    rw [← hq] at hm'
    refine ⟨m, m', ?_⟩
    rw [hshut.queue, hm', hm, hv.clock, hqueue, List.append_assoc]
    rfl

/-- Behind a change of its allotment that stays, a ready change stays. -/
theorem turnouts_none (h : TwoTurnouts s o p a b root n root' n' false i j) (ha : a < 16) (hab : a = b) : ∃ t, exec .headgateCommit s = .next t ∧
    (t.staged = s.staged ∧ t.inflight = s.inflight ∧ t.queues = s.queues ∧
      t.get (F.ALT_TURNOUT_LEVELS a) = s.get (F.ALT_TURNOUT_LEVELS a) ∧ t.get (F.ALT_TURNOUT_ROOT a) = s.get (F.ALT_TURNOUT_ROOT a)) ∧
      ∀ x, t.rd x = s.rd x := by
  have hturn := (gated_atGuard s 64).turn
  have hfirst := h.firstStays ha
  have hheld : [a].contains (⟨p, .turnout b root' n', true, j⟩ : Staged).allot = true :=
    List.contains_iff_mem.2 (List.mem_singleton.2 (h.second.trans hab.symm))
  have hsecond := commitOne_stays (s := s.atGuard 64) (.inr hheld)
    (late_false (x := ⟨p, .turnout b root' n', true, j⟩) h.deadlines.2 h.pastSecond hturn)
  obtain ⟨t, hexec, hst, hq, hin, hget, hrd⟩ := gate_idle h.gate (by
    rw [h.staged, List.foldl_cons, List.foldl_cons, List.foldl_nil, hfirst, hsecond])
  exact ⟨t, hexec, ⟨hst, hin, hq, hget _ (aside_turnout rfl), hget _ (aside_turnout rfl)⟩, hrd⟩

/-- Behind a change of another allotment that stays, it commits. -/
theorem turnouts_second (h : TwoTurnouts s o p a b root n root' n' false i j) (ha : a < 16) (hab : a ≠ b) : ∃ t, exec .headgateCommit s = .next t ∧
    (t.staged = [⟨o, .turnout a root n, false, i⟩] ∧ Reports (s.atGuard 64) t p stDone 0 0 ∧ Ended t p ∧
      t.get (F.ALT_TURNOUT_LEVELS b) = n' % 2 ^ 2 ∧ t.get (F.ALT_TURNOUT_LEVELS a) = s.get (F.ALT_TURNOUT_LEVELS a)) ∧ ∀ x, t.rd x = s.rd x := by
  have hgate := h.gate
  have hu := gated_atGuard s 64
  have hstands := hgate.stands
  have hinp : p ∈ (s.atGuard 64).inflight := hstands.inflight ▸ h.inflight
  have hstaged := hstands.staged.trans h.staged
  have hfirst := h.firstStays ha
  have hheld : [a].contains p.allot = false := by
    rw [h.second, List.contains_eq_mem, decide_eq_false_iff_not, List.mem_singleton]
    exact Ne.symm hab
  obtain ⟨w, hstep, hw⟩ := turnout_step (root := root') (n := n') (a := b) (at_ := j) hinp h.op hstands.fallow hstands.relock
    ((turnPassed_congr hu.turn _).trans h.pastSecond) hheld
  have hfold : s.staged.foldl commitOne ([], s.atGuard 64) = ([a], w) := by
    rw [h.staged, List.foldl_cons, List.foldl_cons, List.foldl_nil, hfirst, hstep]
  obtain ⟨t, hexec, hshut, hrd⟩ := gate_from hgate hfold (hw.due.2.trans hstands.reopens) hw.untouched
  refine ⟨t, hexec, ⟨?_, hshut.reports hw.reports, hshut.ended hw.ended, (hshut.get _ (aside_turnout rfl)).trans hw.levels,
    (hshut.get _ (aside_turnout rfl)).trans ((hw.other a hab).trans (hu.get _))⟩, hrd⟩
  have hid : (o.id == p.id) = false := beq_eq_false_iff_ne.2 (Ne.symm h.ids)
  rw [hshut.staged, hw.staged]
  unfold State.unstage
  rw [hstaged]
  simp [hid]

end

end Sys2Proof.Machine
end

section
/-! PROOFS. A change of the time sources at its headgate commit (R24, R34, R36): whatever state of the clock it brings, the staged change is gone, its
order ends and memory stands. -/

namespace Sys2Proof.Machine

/-! ## What a change of the sources' condition keeps -/

/-- The sources' settings, memory and the lists of changes stand; orders may end. -/
structure Reviewed (s t : State) : Prop where
  untouched : Untouched s t
  clock : t.wck.prio = s.wck.prio ∧ t.wck.port = s.wck.port ∧ t.wck.relock = s.wck.relock
  reg : t.reg 0x20024 = s.reg 0x20024
  due : Due s t
  inflight : Leaves s.inflight t.inflight

namespace Reviewed

theorem refl (s : State) : Reviewed s s := ⟨.refl s, ⟨rfl, rfl, rfl⟩, rfl, .refl s, .refl _⟩

variable {s t u : State}

theorem trans (h : Reviewed s t) (k : Reviewed t u) : Reviewed s u := by
  obtain ⟨hprio, hport, hrelock⟩ := h.clock
  obtain ⟨kprio, kport, krelock⟩ := k.clock
  exact ⟨h.untouched.trans k.untouched, ⟨kprio.trans hprio, kport.trans hport, krelock.trans hrelock⟩, k.reg.trans h.reg, h.due.trans k.due,
    h.inflight.trans k.inflight⟩

theorem put (h : Reviewed s t) {f : Fld} (hf : f.reg ≠ 0x20024) (v : Nat) : Reviewed s (t.put f v) :=
  h.trans ⟨(Untouched.refl t).put, ⟨rfl, rfl, rfl⟩, State.reg_put_ne t f v hf.symm, .of rfl rfl rfl, .refl _⟩

theorem setWck (h : Reviewed s t) {w : Wck} (hw : w.prio = t.wck.prio ∧ w.port = t.wck.port ∧ w.relock = t.wck.relock) :
    Reviewed s { t with wck := w } :=
  h.trans ⟨(Untouched.refl t).setWck, hw, rfl, .of rfl rfl rfl, .refl _⟩

theorem keeps {ok : Prop} (h : Reviewed s t) (k : Keeps ok t u) : Reviewed s u :=
  h.trans ⟨k.untouched, by rw [k.clock]; exact ⟨rfl, rfl, rfl⟩, k.reg _ (.inr (.inr (.inr (.inr rfl)))) (by decide), k.due, k.inflight⟩

theorem used (h : Reviewed s t) : Reviewed s { t with free := t.free + 1 } := h.trans ⟨⟨rfl, rfl, rfl⟩, ⟨rfl, rfl, rfl⟩, rfl, .of rfl rfl rfl, .refl _⟩

end Reviewed

/-! ## Doubts of allotments -/

theorem doubtLog_keeps {ok : Prop} (s : State) (d : Doubt) (a scope : Nat) (b : Bool) : Keeps ok s (s.doubtLog d a scope b) := (Keeps.refl s).logEntry _

theorem doubtAllot_keeps (s : State) {a : Nat} (ha : a < 16) (d : Doubt) : Keeps False s (s.doubtAllot a d) := by
  unfold State.doubtAllot
  split
  · exact doubtLog_keeps ..
  · dsimp only
    have hbump : Keeps False s (s.bump (F.SLU_ALLOT_DOUBTS a)) := (Keeps.refl s).bump (f := F.SLU_ALLOT_DOUBTS a) (not_calm_sluice ha) 1
    generalize s.bump (F.SLU_ALLOT_DOUBTS a) = v at *
    split
    · exact ((hbump.trans (shutAllot_keeps v ha d false)).trans (endAllot_keeps _ a d)).trans (bookFilled_keeps _ ha _)
    · refine (hbump.trans ?_).trans (reachAllot_keeps False.elim _ ha)
      split
      · exact doubtLog_keeps ..
      · exact .refl v

theorem dropPredictions_reviewed {s t : State} (h : Reviewed s t) : Reviewed s t.dropPredictions := h.setWck ⟨rfl, rfl, rfl⟩

theorem timeDoubt_reviewed (s : State) : Reviewed s s.timeDoubt := by
  have hstate : Reviewed s ((s.put F.WCK_STATE_STATE wckDoubt).put F.WCK_STATE_DOUBT_SEEN 1).dropPredictions :=
    dropPredictions_reviewed (((Reviewed.refl s).put (f := F.WCK_STATE_STATE) (by decide) _).put (f := F.WCK_STATE_DOUBT_SEEN) (by decide) _)
  unfold State.timeDoubt
  dsimp only
  refine (hstate.keeps (ppsLow_keeps (ok := False) _)).keeps (keeps_foldl (ok := False) _ (fun s a ha => ?_) _)
  split
  · exact doubtAllot_keeps s (List.mem_range.1 ha) _
  · exact .refl s

/-! ## The states of the clock -/

theorem ppsHold_reviewed {s t : State} (h : Reviewed s t) : Reviewed s t.ppsHold := by
  unfold State.ppsHold
  split
  · exact h
  · exact h.keeps (ppsLow_keeps (ok := False) t)

theorem dropStep_reviewed {s t : State} (h : Reviewed s t) : Reviewed s t.dropStep :=
  (h.put (f := F.WCK_STATE_STEP_PENDING) (by decide) 0).setWck ⟨rfl, rfl, rfl⟩

theorem putSource_reviewed {s t : State} (h : Reviewed s t) (st n : Nat) : Reviewed s ((t.put F.WCK_STATE_STATE st).put F.WCK_STATE_SOURCE n) :=
  (h.put (f := F.WCK_STATE_STATE) (by decide) _).put (f := F.WCK_STATE_SOURCE) (by decide) _

theorem freeRun_reviewed {s t : State} (h : Reviewed s t) : Reviewed s t.freeRun :=
  ppsHold_reviewed (dropPredictions_reviewed (dropStep_reviewed (putSource_reviewed h _ _)))

theorem acquire_reviewed {s t : State} (h : Reviewed s t) (n from_ : Nat) (b : Bool) : Reviewed s (t.acquire n from_ b) := by
  have hcame : Reviewed s { t with wck := { t.wck with cameFrom := from_, cameSource := t.wckSource } } := h.setWck ⟨rfl, rfl, rfl⟩
  have hfrom := putSource_reviewed hcame wckAcquire n
  unfold State.acquire
  refine ppsHold_reviewed ?_
  split
  · exact (hfrom.put (f := F.WCK_STATE_STEP_PENDING) (by decide) 1).setWck ⟨rfl, rfl, rfl⟩
  · exact hfrom

/-- The registers of a holdover that begins. -/
def State.zeroHoldover (s : State) : State :=
  ((s.put F.WCK_STATE_STATE wckHoldover).put F.WCK_HOLDOVER_ELAPSED 0).put F.WCK_HOLDOVER_TERR_EST 0

/-- What the estimate of a holdover starts from. -/
def State.startHoldover (s : State) : State :=
  { s with
    free := s.free + 1
    wck := { s.wck with
      holdE0 := (s.get F.WCK_PHASE_PHASE_ERR |> signed 32).natAbs, holdY0 := Config.anyNat s.free, holdFrom := s.wck.sec, holdNs := s.wck.ns } }

theorem holdover_eq (s : State) : s.holdover =
    if s.zeroHoldover.startHoldover.get F.WCK_HOLDOVER_LIMIT_SECONDS = 0 then s.zeroHoldover.startHoldover.timeDoubt
    else s.zeroHoldover.startHoldover.ppsHold := rfl

theorem startHoldover_reviewed {s t : State} (h : Reviewed s t) : Reviewed s t.startHoldover := h.used.setWck ⟨rfl, rfl, rfl⟩

theorem holdover_reviewed {s t : State} (h : Reviewed s t) : Reviewed s t.holdover := by
  have hstart : Reviewed s t.zeroHoldover.startHoldover := startHoldover_reviewed
    (((h.put (f := F.WCK_STATE_STATE) (by decide) _).put (f := F.WCK_HOLDOVER_ELAPSED) (by decide) _).put (f := F.WCK_HOLDOVER_TERR_EST) (by decide) _)
  rw [holdover_eq]
  split
  · exact hstart.trans (timeDoubt_reviewed _)
  · exact ppsHold_reviewed hstart

theorem backFromAcquire_reviewed {s t : State} (h : Reviewed s t) : Reviewed s t.backFromAcquire := by
  have hdrop := dropStep_reviewed h
  unfold State.backFromAcquire
  dsimp only
  split
  · have hback := putSource_reviewed hdrop wckLocked t.dropStep.wck.cameSource
    split
    · exact holdover_reviewed hback
    · exact ppsHold_reviewed hback
  · split
    · exact ppsHold_reviewed (putSource_reviewed hdrop _ _)
    · exact freeRun_reviewed hdrop

/-- A review of the sources without an event. -/
theorem review_reviewed {s t : State} (h : Reviewed s t) (rose : Bool) : Reviewed s (t.review 0 rose) := by
  have hdisagree : ∀ b : Bool, Reviewed s (if b = true then t.put F.WCK_STATE_SRC_DISAGREE 1 else t) := fun b => by
    split
    · exact h.put (f := F.WCK_STATE_SRC_DISAGREE) (by decide) 1
    · exact h
  unfold State.review
  dsimp only
  split
  · split
    · exact acquire_reviewed h _ _ _
    · exact h
  · split
    · split
      · exact backFromAcquire_reviewed h
      · exact h
    · split
      · split
        · exact holdover_reviewed h
        · split
          · exact acquire_reviewed (hdisagree _) _ _ _
          · exact hdisagree _
      · split
        · rw [if_neg (by simp)]
          exact h
        · exact h

/-! ## The commit of the sources -/

/-- The settings of a TIME_SOURCE_SET; host-set time is always enabled. -/
def State.setSources (s : State) (enable prio port : Nat) : State :=
  let s := s.put F.WCK_SRC_STATUS_ENABLED (enable / 2 * 2 + 1)
  { s with wck := { s.wck with prio := prio, port := port } }

theorem commitSources_reviewed (s : State) (enable prio port : Nat) : Reviewed (s.setSources enable prio port) (s.commitSources enable prio port) := by
  have heq : s.commitSources enable prio port = if enable / 2 % 8 = 0 then (s.setSources enable prio port).freeRun
      else (s.setSources enable prio port).review 0 ([1, 2, 3].any fun n => s.srcGood n && bit enable n && !s.srcEnabled n) := rfl
  rw [heq]
  split
  · exact freeRun_reviewed (.refl _)
  · exact review_reviewed (.refl _) _

theorem bit_enabled (e : Nat) {n : Nat} (hn : n < 4) : bit ((e / 2 * 2 + 1) % 2 ^ 4) n = (n == 0 || bit e n) := by
  rw [bit_eq_testBit, bit_eq_testBit, Nat.testBit_mod_two_pow, decide_eq_true hn, Bool.true_and]
  cases n with
  | zero =>
    rw [Nat.testBit_zero]
    exact decide_eq_true (by omega)
  | succ n =>
    rw [Nat.testBit_succ, Nat.testBit_succ, show (e / 2 * 2 + 1) / 2 = e / 2 by omega]
    rfl

/-- The sources' settings as a commit leaves them, with what else it keeps. -/
structure SourcesSet (u w : State) (enable prio port : Nat) : Prop where
  enabled : ∀ n < 4, w.srcEnabled n = (n == 0 || bit enable n)
  clock : w.wck.prio = prio ∧ w.wck.port = port ∧ w.wck.relock = u.wck.relock
  due : Due u w
  untouched : Untouched u w

theorem commitSources_set (u : State) (enable prio port : Nat) : SourcesSet u (u.commitSources enable prio port) enable prio port := by
  have hrev := commitSources_reviewed u enable prio port
  have hget : (u.setSources enable prio port).get F.WCK_SRC_STATUS_ENABLED = (enable / 2 * 2 + 1) % 2 ^ 4 :=
    State.get_put_self u F.WCK_SRC_STATUS_ENABLED _ (by decide)
  have hset : Untouched u (u.setSources enable prio port) ∧ Due u (u.setSources enable prio port) := ⟨⟨rfl, rfl, rfl⟩, .of rfl rfl rfl⟩
  have hclock : (u.setSources enable prio port).wck.prio = prio ∧ (u.setSources enable prio port).wck.port = port ∧
      (u.setSources enable prio port).wck.relock = u.wck.relock := ⟨rfl, rfl, rfl⟩
  generalize u.setSources enable prio port = v at *
  generalize u.commitSources enable prio port = w at *
  obtain ⟨hprio, hport, hrelock⟩ := hrev.clock
  refine ⟨fun n hn => ?_, ⟨hprio.trans hclock.1, hport.trans hclock.2.1, hrelock.trans hclock.2.2⟩, hset.2.trans hrev.due, hset.1.trans hrev.untouched⟩
  unfold State.srcEnabled
  rw [get_of_reg (f := F.WCK_SRC_STATUS_ENABLED) hrev.reg, hget, bit_enabled enable hn]

/-- After its final tally no order of that number is in flight, whether it was or not. -/
theorem finish_ended (s : State) (o : Ord) (st i d : Nat) (m : Bool) : Ended (s.finish o st i d m) o := by
  unfold State.finish
  split
  · intro y hy
    rw [pushTally_inflight, endOrder_inflight] at hy
    exact bne_iff_ne.1 (List.mem_filter.1 hy).2
  next hnone =>
    intro y hy h
    exact absurd (beq_iff_eq.2 h) (List.find?_eq_none.1 hnone y hy)

theorem unstage_none {s w : State} {x : Staged} (h : s.staged = [x]) (hw : ∀ y ∈ w.staged, y ∈ s.staged) : (w.unstage x).staged = [] := by
  unfold State.unstage
  refine List.filter_eq_nil_iff.2 fun y hy => ?_
  obtain rfl : y = x := List.mem_singleton.1 (h ▸ hw y hy)
  simp

theorem aside_clock {f : Fld} (h : f.reg < 0x30008) : Aside f where
  orders := by omega
  epoch := by omega
  scrub := by omega
  rights b _ := by omega
  load _ h := by omega
  busy _ _ h := by omega

theorem nil_of_mem {α : Type} {l m : List α} (hl : l = []) (hm : ∀ x ∈ m, x ∈ l) : m = [] :=
  List.eq_nil_iff_forall_not_mem.2 fun x hx => List.not_mem_nil (hl ▸ hm x hx)

/-- The commit of the sources alone, with the end of its order. -/
theorem sources_step {s : State} {o : Ord} (h : AtGate s o) {enable prio port at_ : Nat} (hpast : turnPassed s o.deadline = false)
    (hstaged : s.staged = [⟨o, .sources enable prio port, true, at_⟩]) : ∃ w v, SourcesSet (s.atGuard 64) w enable prio port ∧ Concludes w v ∧
    Ended v o ∧ v.staged = [] ∧ s.staged.foldl commitOne ([], s.atGuard 64) = ([], v) := by
  have hu := h.stands
  have hset := commitSources_set (s.atGuard 64) enable prio port
  have hpart : ((s.atGuard 64).commitSources enable prio port).partLeft o = false :=
    partLeft_false h.op (nil_of_mem hu.fallow hset.due.fallow) (hset.clock.2.2.trans hu.relock)
  obtain ⟨w, hw⟩ : ∃ w, (s.atGuard 64).commitSources enable prio port = w := ⟨_, rfl⟩
  rw [hw] at hset hpart
  have hone : commitOne ([], s.atGuard 64) ⟨o, .sources enable prio port, true, at_⟩ =
      ([], (w.unstage ⟨o, .sources enable prio port, true, at_⟩).finish o stDone 0 0) :=
    commitOne_commits (x := ⟨o, .sources enable prio port, true, at_⟩) rfl ((past_eq h rfl).trans hpast) rfl (congrArg Except.ok hw) hpart
  have hcon := unstage_concludes (finish_concludes (w.unstage ⟨o, .sources enable prio port, true, at_⟩) o stDone 0 0 false)
  have hended := finish_ended (w.unstage ⟨o, .sources enable prio port, true, at_⟩) o stDone 0 0 false
  obtain ⟨_, _, _, _, _, hfin⟩ := finish_eq (w.unstage ⟨o, .sources enable prio port, true, at_⟩) o stDone 0 0 false
  refine ⟨w, _, hset, hcon, hended, ?_, by rw [hstaged, List.foldl_cons, List.foldl_nil, hone]⟩
  rw [hfin]
  exact unstage_none (hu.staged.trans hstaged) hset.due.staged

theorem sources_commits {s : State} {o : Ord} (h : AtGate s o) {enable prio port at_ : Nat} (hpast : turnPassed s o.deadline = false)
    (hstaged : s.staged = [⟨o, .sources enable prio port, true, at_⟩]) : ∃ t, exec .headgateCommit s = .next t ∧ Ended t o ∧ t.staged = [] ∧
    (∀ n < 4, t.srcEnabled n = (n == 0 || bit enable n)) ∧ t.wck.prio = prio ∧ t.wck.port = port ∧ ∀ x, t.rd x = s.rd x := by
  obtain ⟨w, v, hset, hcon, hended, hnone, hfold⟩ := sources_step h hpast hstaged
  have hreopens : v.reopens = [] := by
    rw [hcon.rest]
    exact nil_of_mem h.stands.reopens hset.due.reopens
  obtain ⟨t, hexec, hshut, hrd⟩ := gate_from h hfold hreopens (hset.untouched.trans hcon.untouched)
  have ht := hcon.trans hshut.concludes
  refine ⟨t, hexec, hshut.ended hended, hshut.staged.trans hnone, fun n hn => ?_, ?_, ?_, hrd⟩
  · exact (congrArg (fun x => bit x n) (ht.get F.WCK_SRC_STATUS_ENABLED (aside_clock (by decide)))).trans (hset.enabled n hn)
  · exact (congrArg Wck.prio ht.wck).trans hset.clock.1
  · exact (congrArg Wck.port ht.wck).trans hset.clock.2.1

/-- Settles O32: each kind of change has its own commit, which keeps the orders and memory; what ends its order, and what follows the commits, leaves
what the change has put in force. -/
theorem headgateCommitsStagedChanges : Obligations.HeadgateCommitsStagedChanges := by
  unfold Obligations.HeadgateCommitsStagedChanges
  intro s o hs hr hi hre hin hf hrl hop u Commits noKey
  have h : AtGate s o := ⟨hs, hr, hi, hre, hf, hrl, hin, hop⟩
  refine ⟨fun q w _ hlive => weight_commits h q w hlive, fun a root n _ => turnout_commits h a root n,
    fun a es ha hheld hfull => rights_commits h ha es hheld hfull,
    fun a es g _ hheld hpast at_ hstaged => rights_refused h hheld hpast hstaged,
    fun a key kind src dst _ => keyEntry_commits h a key kind src dst, fun a key _ => keyRetire_commits h a key,
    fun a id key _ => session_commits h a id key,
    fun p slot a k act _ hslot hstate hallot => ingKey_commits h k act hslot hstate hallot, fun first l => pins_commits h first l,
    fun enable prio port at_ hpast hstaged => sources_commits h hpast hstaged,
    fun a fn party b ts ha _ hempty hfn hts => claim_commits h party b ha hempty hfn hts,
    fun q w r at_ hstaged hlate => weight_late h hstaged hlate,
    fun q w at_ hstaged hne hpast => weight_stays h hstaged hne hpast, ?_⟩
  intro p a b root n root' n' ready i j hp hid hpop ha hb hoa hpb hpast hpast' hne hne' hstaged
  have htwo : TwoTurnouts s o p a b root n root' n' ready i j := ⟨h, hp, hid, hpop, hoa, hpb, hpast, hpast', ⟨hne, hne'⟩, hstaged⟩
  cases ready with
  | true =>
    obtain ⟨t, hexec, hboth, hrd⟩ := turnouts_both htwo
    exact ⟨t, hexec, fun _ => hboth, fun h => absurd h.symm Bool.false_ne_true, fun h => absurd h.symm Bool.false_ne_true, hrd⟩
  | false =>
    by_cases hab : a = b
    · obtain ⟨t, hexec, hnone, hrd⟩ := turnouts_none htwo ha hab
      exact ⟨t, hexec, fun h => absurd h Bool.false_ne_true, fun _ _ => hnone, fun _ h => absurd hab h, hrd⟩
    · obtain ⟨t, hexec, hsecond, hrd⟩ := turnouts_second htwo ha hab
      exact ⟨t, hexec, fun h => absurd h Bool.false_ne_true, fun _ h => absurd h hab, fun _ _ => hsecond, hrd⟩

end Sys2Proof.Machine
end

section
/-! PROOFS. A plan's transports (R311, R314, R308): the events of a key read through the page map may reach the register of the engine that streams it. -/

namespace Sys2Proof.Machine

/-! ## A key beyond external memory -/

/-- An address beyond the aperture, of a stack 1016 that the part does not have. -/
def strayAddress : Nat := 1016 * stackSize

/-- A FLUME record of engine 1 with MACRO, of one group of one line, in every plan turn (Table 12-2). -/
def strayRecord : Bytes := [0x05, 0x01] ++ List.replicate 34 0 ++ [0x80, 0, 0, 0, 1, 0, 0, 0, 1, 0] ++ List.replicate 18 0

/-- A plan of that record alone, whose page map sends allotment page 0 to the stray address. -/
def strayPlan : Plan where
  meas := []
  l := 1
  repeat_ := false
  cls := 0
  geo := 0
  profile := 0
  nplan := 0
  tiles := 0
  secs := [(5, 1, strayRecord)]
  uses := []
  pages := [(0, strayAddress)]
  mods := []

/-- Allotment 0 runs the plan, and the first block of the key is poisoned. -/
def strayState : State := { State.reset with
  regs := [(0x40100, 4)], wck := { Wck.reset with running := true }, allots := [(0, { Allot.reset with active := some strayPlan })]
  blkCode := [(strayAddress / 64, .bad)] }

theorem strayState_idle : strayState.coresIdle := ⟨rfl, fun _ h => nomatch h⟩

/-- HBM_ECC_FIRST of a stack 1016 would stand where FLU_ENGINE of engine 1 stands. -/
theorem eccFirst_meets_flume : (F.HBM_ECC_FIRST_BLOCK 1016).reg = (F.FLU_ENGINE_BUSY 1).reg := rfl

/-- The event of the key's poisoned block (R308) is written over BUSY. -/
theorem flumeStart_stray : (flumeStart 0 0 strayState).get (F.FLU_ENGINE_BUSY 1) = 0 := by decide +kernel

/-- Refutes O55, in its clause of FLUME_TRANSFER_START: nothing keeps a plan's page map within external memory, and where a key
that is read through it stands at a stack 1016, the event of its poisoned block is recorded in HBM_ECC_FIRST of that stack, whose offset is that of FLU_ENGINE
of engine 1. BUSY of the engine that has started then reads 0. -/
theorem not_planTransportActs : ¬ Obligations.PlanTransportActs := by
  unfold Obligations.PlanTransportActs
  intro h
  obtain ⟨-, -, -, htransfers, -⟩ := h strayState rfl strayState_idle
  obtain ⟨hflume, -⟩ := htransfers 0 (by decide) 0 strayPlan rfl (by decide)
  have hrecord : strayPlan.resv.getD 0 [] = strayRecord := by decide
  rw [hrecord] at hflume
  obtain ⟨t, ht, hbusy, -⟩ := hflume (by decide) (by decide) (by decide) (by decide) List.nodup_nil (fun _ h => nomatch h)
  have hstart : exec (.flumeTransferStart 0 0) strayState = settle strayState (flumeStart 0 0 strayState) := rfl
  obtain rfl := Host.Outcome.next.inj (hstart.symm.trans ht)
  exact absurd (flumeStart_stray.symm.trans hbusy) (by decide)

end Sys2Proof.Machine
end

section
/-! PROOFS. External memory under the cores' accesses and under closings: a running command's writes wait among its stores, so that memory
itself stays as it is until `settle` drains them. -/

namespace Sys2Proof.Machine

/-! ## Folds -/

/-- A fold whose every step leaves external memory as it is does so too. -/
theorem foldl_mem {β : Type} {f : State → β → State} (l : List β) (h : ∀ s x, (f s x).mem = s.mem) (s : State) : (l.foldl f s).mem = s.mem :=
  foldl_keeps (R := fun s t : State => t.mem = s.mem) (fun _ => rfl) (fun h k => k.trans h) l (fun s x _ => h s x) s

/-- The same of a fold that gathers something beside the state. -/
theorem foldl_snd_mem {α β : Type} {f : α × State → β → α × State} (l : List β) (h : ∀ r x, (f r x).2.mem = r.2.mem) (r : α × State) :
    (l.foldl f r).2.mem = r.2.mem :=
  foldl_keeps (R := fun s t : α × State => t.2.mem = s.2.mem) (fun _ => rfl) (fun h k => k.trans h) l (fun s x _ => h s x) r

/-! ## Effects that are taken under a condition -/

section
variable {p : Prop} [Decidable p] {u v : State}

theorem ite_mem {m : List Host.Cell} (hu : u.mem = m) (hv : v.mem = m) : (if p then u else v).mem = m := by
  split
  · exact hu
  · exact hv

theorem then_mem (h : u.mem = v.mem) : (if p then u else v).mem = v.mem := ite_mem h rfl

theorem else_mem (h : v.mem = u.mem) : (if p then u else v).mem = u.mem := ite_mem rfl h

theorem ite_snd_mem {α : Type} {x y : α × State} {m : List Host.Cell} (hx : x.2.mem = m) (hy : y.2.mem = m) : (if p then x else y).2.mem = m := by
  split
  · exact hx
  · exact hy

theorem ite_third_mem {α β : Type} {x y : α × β × State} {m : List Host.Cell} (hx : x.2.2.mem = m) (hy : y.2.2.mem = m) :
    (if p then x else y).2.2.mem = m := by
  split
  · exact hx
  · exact hy

end

/-! ## The log and the clock -/

@[simp] theorem logEntry_mem (s : State) (e : LogEntry) : (s.logEntry e).mem = s.mem := by
  obtain ⟨_, _, h⟩ := logEntry_eq s e
  rw [h]

@[simp] theorem logCause_mem (s : State) (cause value allot subject origin : Nat) (tie : Bool) :
    (s.logCause cause value allot subject origin tie).mem = s.mem := logEntry_mem s _

@[simp] theorem logCorrected_mem (s : State) (kind idx cause value allot subject origin : Nat) :
    (s.logCorrected kind idx cause value allot subject origin).mem = s.mem := by
  unfold State.logCorrected
  exact ite_mem rfl (logCause_mem ..)

@[simp] theorem advanceTo_mem (s : State) (c : Nat) : (s.advanceTo c).mem = s.mem := by
  obtain ⟨_, h⟩ := advanceTo_eq s c
  rw [h]

/-! ## Closings (R453 to R470) -/

theorem Keeps.mem {s t : State} (h : Keeps False s t) : t.mem = s.mem := h.untouched.mem

theorem failReopen_mem (s : State) (p : Reopen → Bool) (cause : Nat) : (s.failReopen p cause).mem = s.mem := (failReopen_keeps s p cause).mem

theorem announce_mem (s : State) (scope subj allot : Nat) (d : Doubt) : (s.announce scope subj allot d).mem = s.mem :=
  (announce_keeps s scope subj allot d).mem

theorem doubtLog_mem (s : State) (d : Doubt) (allot scope : Nat) (closes : Bool) : (s.doubtLog d allot scope closes).mem = s.mem := logEntry_mem s _

theorem amend_mem (s : State) (scope subj a : Nat) (d : Doubt) : (s.amend scope subj a d).mem = s.mem := by
  unfold State.amend
  split
  · rfl
  · exact ite_mem (ite_mem rfl (ite_mem rfl rfl)) rfl

theorem endSession_mem (s : State) (a : Nat) : (s.endSession a).mem = s.mem := by
  unfold State.endSession
  simp only [State.put_mem, State.setAllot_mem]

theorem harmless_mem (s : State) (a cause : Nat) : (s.harmless a cause).mem = s.mem := by
  unfold State.harmless
  dsimp only
  refine (foldl_mem _ (fun s k => then_mem (i2cSluice_keeps s (k + 1) cause).mem) _).trans ?_
  refine (endSession_mem ..).trans ?_
  refine Keeps.mem ?_
  refine Keeps.trans ?_ (clearSlots_keeps _ _)
  refine Keeps.trans ?_ (bneStop_keeps _ _ _)
  exact (((withholdAll_keeps s a).trans
    (keeps_foldl _ (fun s p hp => keeps_ite _ (portHold_keeps s (List.mem_range.1 hp))) _)).trans
    (keeps_foldl _ (fun s p hp => keeps_ite _ (visSluice_keeps s (List.mem_range.1 hp) cause)) _)).trans
    (keeps_foldl _ (fun s b hb => keeps_ite _ (bsnSluice_keeps s (List.mem_range.1 hb) cause)) _)

theorem markClosed_mem (s : State) (scope subj : Nat) (d : Doubt) : (s.markClosed scope subj d).mem = s.mem := rfl

theorem shutAllot_mem (s : State) (a : Nat) (d : Doubt) (chip : Bool) : (s.shutAllot a d chip).mem = s.mem := by
  unfold State.shutAllot
  refine (discard_keeps ..).mem.trans ((else_mem (aqdSluice_keeps ..).mem).trans ((harmless_mem ..).trans ?_))
  simp only [State.put_mem]
  exact (markClosed_mem ..).trans (then_mem (State.setAllot_mem ..))

theorem endAllot_mem (s : State) (a : Nat) (d : Doubt) : (s.endAllot a d).mem = s.mem := (endAllot_keeps s a d).mem

theorem bookFilled_mem (s : State) (a n : Nat) : (s.bookFilled a n).mem = s.mem := by
  unfold State.bookFilled
  exact ite_mem ((amend_mem ..).trans (doubtLog_mem ..)) rfl

theorem reachAllot_mem (s : State) (a : Nat) (d : Doubt) : (s.reachAllot a d).mem = s.mem := by
  unfold State.reachAllot
  exact (amend_mem ..).trans (ite_mem (failReopen_mem ..) rfl)

theorem doubtAllot_mem (s : State) (a : Nat) (d : Doubt) : (s.doubtAllot a d).mem = s.mem := by
  unfold State.doubtAllot
  exact ite_mem (doubtLog_mem ..) (ite_mem ((bookFilled_mem ..).trans ((endAllot_mem ..).trans (shutAllot_mem ..)))
    ((reachAllot_mem ..).trans (ite_mem (doubtLog_mem ..) rfl)))

theorem closeTile_mem (s : State) (t : Nat) (d : Doubt) : (s.closeTile t d).mem = s.mem := by
  unfold State.closeTile
  exact ite_mem ((amend_mem ..).trans (failReopen_mem ..)) ((discard_keeps ..).mem.trans (ite_mem rfl rfl))

theorem doubtCore_mem (s : State) (c : Nat) (d : Doubt) : (s.doubtCore c d).mem = s.mem := by
  unfold State.doubtCore
  refine (ite_mem ((bookFilled_mem ..).trans (endAllot_mem ..)) (else_mem (reachAllot_mem ..))).trans ?_
  refine (else_mem (announce_mem ..)).trans ((else_mem (announce_mem ..)).trans ((then_mem (shutAllot_mem ..)).trans ((else_mem (State.bump_mem ..)).trans ?_)))
  exact (closeTile_mem ..).trans (ite_mem ((amend_mem ..).trans (doubtLog_mem ..)) rfl)

@[simp] theorem breach_mem (s : State) (a cause index core : Nat) : (s.breach a cause index core).mem = s.mem := doubtAllot_mem ..

/-! ## Reads and writes of the scratchpad (R209, R217 to R219) -/

theorem spmFirst_mem (s : State) (c l b kind origin : Nat) : (s.spmFirst c l b kind origin).mem = s.mem := by
  unfold State.spmFirst
  refine ite_mem rfl ?_
  simp only [State.put_mem]

theorem wordEvent_mem (s : State) (c l b kind origin : Nat) (e : Ecc) : (s.wordEvent c l b kind origin e).mem = s.mem := by
  unfold State.wordEvent
  split
  · rfl
  · exact ite_mem (logCorrected_mem ..) (logCorrected_mem ..)
  · exact ite_mem ((logCause_mem ..).trans (spmFirst_mem ..)) (spmFirst_mem ..)

theorem wideRead_mem (s : State) (c t view l origin : Nat) : (s.wideRead c t view l origin).2.2.mem = s.mem :=
  foldl_mem _ (fun s _ => wordEvent_mem s ..) s

theorem notePartial_mem (s : State) (c origin : Nat) : (s.notePartial c origin).mem = s.mem := by
  unfold State.notePartial
  split
  · rfl
  · dsimp only
    split <;> rfl

theorem putWord_mem (s : State) (c origin : Nat) (w : PutWord) : (s.putWord c origin w).mem = s.mem := by
  unfold State.putWord
  refine ite_mem rfl ?_
  dsimp only
  split
  · rfl
  · exact logCorrected_mem ..
  · exact (notePartial_mem ..).trans ((logCause_mem ..).trans (spmFirst_mem ..))

theorem lineWrite_mem (s : State) (c : Nat) (w : LineWrite) : (s.lineWrite c w).mem = s.mem :=
  foldl_mem w.words (fun s p => putWord_mem s c w.origin p) _

theorem oneClash_mem (s : State) (a c : Nat) (y : Nat × Nat × Nat × Use) : (s.oneClash a c y).mem = s.mem := by
  unfold State.oneClash
  refine (breach_mem ..).trans ((State.put_mem ..).trans (else_mem ?_))
  simp only [State.put_mem]

theorem recordClash_mem (s : State) (a c t : Nat) (us : List Use) : (s.recordClash a c t us).mem = s.mem := by
  unfold State.recordClash
  dsimp only
  split
  · rfl
  · exact foldl_mem _ (fun s z => oneClash_mem s a c z) _

/-! ## The command store (R175, R182) -/

theorem controlEcc_mem (s : State) (c i index : Nat) (parity : Bool) : (s.controlEcc c i index parity).mem = s.mem := by
  unfold State.controlEcc
  refine (doubtCore_mem ..).trans (else_mem ?_)
  simp only [State.put_mem]

theorem storeRead_mem (s : State) (c i : Nat) (e : Entry) : (s.storeRead c i e).2.mem = s.mem := by
  unfold State.storeRead
  dsimp only
  split
  · rfl
  · exact ite_mem (logCorrected_mem ..) (logCorrected_mem ..)
  · exact controlEcc_mem ..

theorem storeReads_mem (s : State) (c : Nat) (p : List Entry) (l : List Nat) : (s.storeReads c p l).2.mem = s.mem := by
  refine foldl_snd_mem l (fun r i => ?_) (false, s)
  split
  · exact storeRead_mem ..
  · rfl

theorem noteWindow_mem (s : State) (c : Nat) : (s.noteWindow c).mem = s.mem := by
  unfold State.noteWindow
  simp only [State.put_mem]

theorem readWindow_mem (s : State) (c t : Nat) : (s.readWindow c t).mem = s.mem := by
  unfold State.readWindow
  refine ite_mem rfl ((noteWindow_mem ..).trans ?_)
  exact (storeReads_mem ..).trans (State.setCore_mem ..)

/-! ## Accesses of the engines (Table 8-3) -/

theorem settleAcc_mem (s : State) (c t : Nat) : (s.settleAcc c t).mem = s.mem := by
  refine foldl_mem _ (fun s b => ?_) s
  dsimp only
  split
  · rfl
  · split <;> rfl

theorem raiseFlags_mem (s : State) (a : Nat) (f : Flg) : (s.raiseFlags a f).mem = s.mem := ite_mem rfl rfl

theorem rneEvent_mem (s : State) (a c kind origin n : Nat) : (s.rneEvent a c kind origin n).mem = s.mem := by
  unfold State.rneEvent
  refine ite_mem rfl ((else_mem ?_).trans (State.bump_mem s _ n))
  simp only [State.put_mem]

theorem portRead_mem (s : State) (c t view l origin : Nat) (made : Bool) : (s.portRead c t view l origin made).2.2.mem = s.mem := by
  unfold State.portRead
  split
  · exact wideRead_mem ..
  · rfl

theorem readWords_mem (s : State) (c t l n origin : Nat) : (s.readWords c t l n origin).2.mem = s.mem := by
  unfold State.readWords
  refine foldl_snd_mem _ (fun r i => ?_) _
  exact wideRead_mem ..

theorem someWords_mem (s : State) (c t l n origin : Nat) (made : Bool) : (s.someWords c t l n origin made).2.mem = s.mem := by
  unfold State.someWords
  split
  · exact readWords_mem ..
  · rfl

theorem addWrites_mem (s : State) (c : Nat) (l : List LineWrite) : (s.addWrites c l).mem = s.mem := rfl

theorem mmDone_mem (s : State) (a c : Nat) (r : Run) : (s.mmDone a c r).mem = s.mem := raiseFlags_mem ..

theorem mmAccess_mem (s : State) (a c t : Nat) (r : Run) (made : Nat → Bool) : (s.mmAccess a c t r made).2.mem = s.mem := by
  unfold State.mmAccess
  dsimp only
  refine (then_mem (mmDone_mem ..)).trans ?_
  exact (ite_third_mem (portRead_mem ..) rfl).trans ((portRead_mem ..).trans (portRead_mem ..))

theorem accRow_mem (s : State) (a c : Nat) (r : Run) (i : Nat) : (s.accRow a c r i).2.mem = s.mem := raiseFlags_mem ..

theorem wholeAccess_mem (s : State) (a c t : Nat) (r : Run) : (s.wholeAccess a c t r).mem = s.mem := by
  unfold State.wholeAccess
  dsimp only
  refine (foldl_mem _ (fun s k => addWrites_mem s _ _) _).trans ((then_mem (rneEvent_mem ..)).trans ((rneEvent_mem ..).trans ?_))
  refine (someWords_mem ..).trans (foldl_snd_mem _ (fun x k => ?_) _)
  exact someWords_mem ..

theorem quadRead_mem (s : State) (c t l origin : Nat) (made : Bool) : (s.quadRead c t l origin made).2.mem = s.mem := someWords_mem ..

theorem rneAccess_mem (s : State) (a c t : Nat) (r : Run) (made : Nat → Bool) : (s.rneAccess a c t r made).mem = s.mem := by
  unfold State.rneAccess
  dsimp only
  refine (addWrites_mem ..).trans ((rneEvent_mem ..).trans ?_)
  exact (ite_snd_mem (quadRead_mem ..) rfl).trans ((quadRead_mem ..).trans (quadRead_mem ..))

theorem vxeAccess_mem (s : State) (a c t : Nat) (r : Run) (made : Nat → Bool) : (s.vxeAccess a c t r made).mem = s.mem := by
  unfold State.vxeAccess
  dsimp only
  refine (addWrites_mem ..).trans ((raiseFlags_mem ..).trans ?_)
  exact (ite_third_mem (portRead_mem ..) rfl).trans ((ite_third_mem (portRead_mem ..) rfl).trans (portRead_mem ..))

theorem writeUnit_mem (s : State) (p : Nat) (ws : List (Nat × Bool)) (tag : BitVec 64) : (s.writeUnit p ws tag).mem = s.mem := by
  unfold State.writeUnit
  dsimp only
  rw [wrRaw_eq]
  rfl

theorem movAccess_mem (s : State) (a c : Nat) (r : Run) (ws : List (Nat × Bool)) (raws : List (BitVec 39)) (tag : BitVec 64) :
    (s.movAccess a c r ws raws tag).mem = s.mem := by
  unfold State.movAccess
  dsimp only
  split
  · rfl
  · exact ite_mem rfl rfl
  · exact writeUnit_mem ..
  · rfl

theorem macroReads_mem (s : State) (a c t : Nat) (r : Run) (m : MacroSet) : (s.macroReads a c t r m).2.mem = s.mem := by
  unfold State.macroReads
  dsimp only
  split
  · refine (rneEvent_mem ..).trans ((someWords_mem ..).trans (foldl_snd_mem _ (fun x k => ?_) _))
    exact someWords_mem ..
  · refine foldl_snd_mem _ (fun x k => ?_) _
    exact someWords_mem ..

theorem macroWrites_mem (s : State) (a c : Nat) (r : Run) (m : MacroSet) : (s.macroWrites a c r m).mem = s.mem := by
  unfold State.macroWrites
  dsimp only
  exact (foldl_mem _ (fun s k => addWrites_mem s _ _) _).trans (then_mem (breach_mem ..))

theorem macroAccess_mem (s : State) (a c t : Nat) (r : Run) : (s.macroAccess a c t r).2.mem = s.mem := by
  unfold State.macroAccess
  dsimp only
  split
  · rfl
  · split
    · exact macroReads_mem ..
    · exact macroWrites_mem ..

theorem access_mem (s : State) (a c t : Nat) (r : Run) (made : Nat → Bool) : (s.access a c t r made).2.mem = s.mem := by
  unfold State.access
  split
  · exact mmAccess_mem ..
  · dsimp only
    split
    · exact (addWrites_mem ..).trans (accRow_mem ..)
    · exact ite_mem (wholeAccess_mem ..) (rneAccess_mem ..)
    · exact vxeAccess_mem ..
    · split
      · rfl
      · exact (movAccess_mem ..).trans (portRead_mem ..)
    · exact macroAccess_mem ..

/-! ## Cycles -/

theorem coreCycle_mem (s : State) (c t : Nat) : (s.coreCycle c t).mem = s.mem := by
  unfold State.coreCycle
  dsimp only
  refine (foldl_mem _ (fun s p => foldl_mem _ (fun s w => lineWrite_mem s c w) s) _).trans ?_
  refine (State.setCore_mem ..).trans ?_
  refine (foldl_mem _ (fun s r => ?_) _).trans ?_
  · exact ite_mem ((State.setCore_mem ..).trans (access_mem ..)) (State.setCore_mem ..)
  refine (State.setCore_mem ..).trans ?_
  refine (recordClash_mem ..).trans ?_
  refine (settleAcc_mem ..).trans ?_
  exact then_mem (readWindow_mem ..)

theorem catchUp_mem (n lim : Nat) (s : State) : (State.catchUp n lim s).mem = s.mem := by
  induction n generalizing s with
  | zero => rfl
  | succ n ih =>
    unfold State.catchUp
    split
    · rfl
    · exact ite_mem ((ih _).trans ((foldl_mem _ (fun s c => coreCycle_mem s c _) _).trans (advanceTo_mem ..))) rfl

theorem coresTo_mem (s : State) (c : Nat) : (s.coresTo c).mem = s.mem :=
  (foldl_mem _ (fun s k => settleAcc_mem s k c) _).trans (catchUp_mem ..)

/-! ## The checks of an issue cycle (R83, R84) -/

theorem readDue_mem (s : State) (a t : Nat) : (s.readDue a t).mem = s.mem := foldl_mem _ (fun _ _ => then_mem (readWindow_mem ..)) s

theorem clashNow_mem (s : State) (a t : Nat) : (s.clashNow a t).mem = s.mem := foldl_mem _ (fun _ _ => then_mem (recordClash_mem ..)) s

theorem breaches_mem (s : State) (a c origin : Nat) (l : List Nat) : (s.breaches a c origin l).mem = s.mem := by
  unfold State.breaches
  refine foldl_mem _ (fun s k => ?_) s
  exact (breach_mem ..).trans (then_mem (State.put_mem ..))

theorem checkEntry_mem (a c t : Nat) (x : Core) (r : Round × State) (i : Nat) (e : Entry) : (State.checkEntry a c t x r i e).2.mem = r.2.mem := by
  have hread : (if x.win.held.contains i = true then (e.ecc == .uncorrectable || e.ecc == .poisoned, r.2) else r.2.storeRead c i e).2.mem = r.2.mem := by
    split
    · rfl
    · exact storeRead_mem ..
  unfold State.checkEntry
  dsimp only
  generalize (if x.win.held.contains i = true then _ else r.2.storeRead c i e) = y at *
  split
  · exact hread
  · split
    · exact (controlEcc_mem ..).trans hread
    · split
      · split
        · exact (breaches_mem ..).trans hread
        · exact hread
      · split
        · exact hread
        · have hmargins := (foldl_mem (y.2.judge a c t x e.w r.1.taken).margins
            (fun s m => logCause_mem s 0x10E m a c e.origin true) y.2).trans hread
          exact ite_snd_mem hmargins ((breaches_mem ..).trans hmargins)

theorem checkCore_mem (r : Round × State) (a j t c : Nat) : (State.checkCore r a j t c).2.mem = r.2.mem := by
  unfold State.checkCore
  refine foldl_snd_mem _ (fun r d => ?_) _
  exact checkEntry_mem ..

theorem clashAhead_mem (s : State) (a j t : Nat) (l : List (Nat × Entry)) : (s.clashAhead a j t l).mem = s.mem :=
  foldl_mem _ (fun _ _ => then_mem (recordClash_mem ..)) s

theorem checkCycle_mem (s : State) (a j t : Nat) : (s.checkCycle a j t).2.mem = s.mem := by
  unfold State.checkCycle
  split
  · rfl
  · refine (State.setAllot_mem ..).trans ((clashAhead_mem ..).trans (foldl_snd_mem _ (fun r c => ?_) _))
    split
    · rfl
    · exact checkCore_mem ..

/-- The checks of a cycle, and all that falls before it, leave external memory as it is. -/
theorem cycleChecked_mem (s : State) (a t : Nat) : (s.cycleChecked a t).2.mem = s.mem := by
  unfold State.cycleChecked
  exact (checkCycle_mem ..).trans ((clashNow_mem ..).trans ((readDue_mem ..).trans ((advanceTo_mem ..).trans (coresTo_mem ..))))

end Sys2Proof.Machine
end

section
/-! PROOFS. The issue cycle of an engine command (R77, R81, R170, R184): what it leaves in the cores, the registers and the allotments, and
that the accesses of one command do not clash with one another. -/

namespace Sys2Proof.Machine

/-! ## States that differ in registers, cores and allotments -/

/-- From `s` to `t` only registers, cores and allotments change. -/
def Inner (s t : State) : Prop := ∃ regs cores allots, t = { s with regs := regs, cores := cores, allots := allots }

theorem Inner.refl (s : State) : Inner s s := ⟨_, _, _, rfl⟩

theorem Inner.trans {s t u : State} (h : Inner s t) (k : Inner t u) : Inner s u := by
  obtain ⟨_, _, _, rfl⟩ := h
  obtain ⟨_, _, _, rfl⟩ := k
  exact ⟨_, _, _, rfl⟩

theorem Inner.setCore (s : State) (c : Nat) (x : Core) : Inner s (s.setCore c x) := ⟨_, _, _, rfl⟩

theorem Inner.put (s : State) (f : Fld) (v : Nat) : Inner s (s.put f v) := ⟨_, _, _, rfl⟩

theorem Inner.bump (s : State) (f : Fld) (n : Nat) : Inner s (s.bump f n) := ⟨_, _, _, rfl⟩

theorem Inner.setAllot (s : State) (a : Nat) (x : Allot) : Inner s (s.setAllot a x) := ⟨_, _, _, rfl⟩

/-! ## Cores changed one after another -/

theorem foldl_setCore_eq (f : Nat → Core → Core) (l : List Nat) (s : State) :
    ∃ cores, l.foldl (fun s k => s.setCore k (f k (s.core k))) s = { s with cores := cores } :=
  foldl_keeps (R := fun s t : State => ∃ cores, t = { s with cores := cores }) (fun s => ⟨s.cores, rfl⟩)
    (by rintro s _ _ ⟨x, rfl⟩ ⟨y, rfl⟩; exact ⟨y, rfl⟩) l (fun _ _ _ => ⟨_, rfl⟩) s

theorem core_foldl_setCore (f : Nat → Core → Core) {l : List Nat} (hl : l.Nodup) (s : State) (k : Nat) :
    (l.foldl (fun s k => s.setCore k (f k (s.core k))) s).core k = if k ∈ l then f k (s.core k) else s.core k := by
  induction l generalizing s with
  | nil => rfl
  | cons c l ih =>
    obtain ⟨hc, hl⟩ := List.nodup_cons.1 hl
    rw [List.foldl_cons, ih hl]
    by_cases h : k = c
    · subst h
      simp [hc]
    · simp [h]

theorem spanOf_nodup (w c : Nat) : (spanOf w c).Nodup := by
  unfold spanOf
  split
  · exact List.nodup_range.map fun i j h => Nat.add_left_cancel h
  · exact List.nodup_singleton c

theorem mem_spanOf (w c : Nat) : c ∈ spanOf w c := by
  unfold spanOf
  split
  · exact List.mem_map.2 ⟨c % 32, List.mem_range.2 (Nat.mod_lt _ (by decide)), by omega⟩
  · exact List.mem_singleton_self c

/-! ## What a core has under way -/

/-- Two cores have the same commands under way, writes booked and engines occupied. -/
structure SameLoad (x y : Core) : Prop where
  runs : x.runs = y.runs
  writes : x.writes = y.writes
  busy : x.busy = y.busy

/-- They also stand at the same entry. -/
structure SameWork (x y : Core) : Prop extends SameLoad x y where
  cursor : x.cursor = y.cursor

theorem SameWork.refl (x : Core) : SameWork x x := ⟨⟨rfl, rfl, rfl⟩, rfl⟩

theorem SameLoad.trans {x y z : Core} (h : SameLoad x y) (k : SameLoad y z) : SameLoad x z :=
  ⟨h.runs.trans k.runs, h.writes.trans k.writes, h.busy.trans k.busy⟩

theorem SameWork.trans {x y z : Core} (h : SameWork x y) (k : SameWork y z) : SameWork x z :=
  ⟨h.toSameLoad.trans k.toSameLoad, h.cursor.trans k.cursor⟩

theorem SameLoad.still {x y : Core} (h : SameLoad x y) (hy : y.still) : x.still := ⟨h.runs.trans hy.1, h.writes.trans hy.2⟩

theorem sameWork_setCore (s : State) (c : Nat) {x : Core} (h : SameWork x (s.core c)) (k : Nat) : SameWork ((s.setCore c x).core k) (s.core k) := by
  by_cases hk : k = c
  · subst hk
    rwa [State.core_setCore_self]
  · rw [State.core_setCore_ne _ _ hk]
    exact SameWork.refl _

theorem setRegister_sameWork (x : Core) (w : LateWrite) : SameWork (x.setRegister w) x := by
  unfold Core.setRegister
  dsimp only
  split <;> exact ⟨⟨rfl, rfl, rfl⟩, rfl⟩

theorem visible_sameWork (x : Core) (t : Nat) : SameWork (x.visible t) x := by
  unfold Core.visible
  exact (foldl_keeps (R := fun x y : Core => SameWork y x) SameWork.refl (fun h k => k.trans h) _ (fun x w _ => setRegister_sameWork x w) _).trans
    ⟨⟨rfl, rfl, rfl⟩, rfl⟩

theorem toNext_eq (p : List Entry) (j n : Nat) (x : Core) (l : List Nat) : ∃ loops cursor, (Core.toNext p j n x l).1 = { x with loops := loops, cursor := cursor } := by
  induction n generalizing x l with
  | zero => exact ⟨_, _, rfl⟩
  | succ n ih =>
    have hnext : ∀ (loops : List Loop) (cursor : Nat) (l : List Nat),
        ∃ m k, (Core.toNext p j n { x with loops := loops, cursor := cursor } l).1 = { x with loops := m, cursor := k } := fun loops cursor l => by
      obtain ⟨_, _, h⟩ := ih { x with loops := loops, cursor := cursor } l
      exact ⟨_, _, h⟩
    unfold Core.toNext
    split
    · exact ⟨_, _, rfl⟩
    · split
      · split
        · exact hnext _ _ _
        · split
          · exact hnext _ _ _
          · exact hnext _ _ _
      · split
        · exact hnext _ _ _
        · exact ⟨_, _, rfl⟩

/-- The core at its next entry has the commands, the writes and the occupancies it had. -/
theorem atIssue_sameLoad (x : Core) (p : List Entry) (j t : Nat) : SameLoad (x.atIssue p j t) x := by
  unfold Core.atIssue
  refine (visible_sameWork _ t).toSameLoad.trans ?_
  obtain ⟨_, _, h⟩ := toNext_eq p j (stepsOf p) x []
  rw [h]
  exact ⟨rfl, rfl, rfl⟩

/-- Past an entry that opens no loop a core stands at the next one. -/
theorem passed_takeEntry {x : Core} {e : Entry} (h : e.isLoop = false) (p q : List Entry) (i t : Nat) :
    ((Core.passed p t x e).takeEntry q i t e).cursor = x.cursor + 1 ∧ SameLoad ((Core.passed p t x e).takeEntry q i t e) x := by
  unfold Core.passed
  rw [if_neg (by simp [h])]
  exact ⟨rfl, rfl, rfl, rfl⟩

/-! ## Uses of bank ports (R82, R208) -/

theorem clashes_nil {us : List Use} (h : (us.map Use.port).Nodup) : clashes us = [] := by
  induction us with
  | nil => rfl
  | cons u us ih =>
    obtain ⟨hu, hus⟩ := List.nodup_cons.1 h
    unfold clashes
    rw [ih hus, List.append_nil, List.filterMap_eq_nil_iff]
    intro v hv
    have hne : u.port ≠ v.port := fun h => hu (h ▸ List.mem_map_of_mem hv)
    simp [Use.meets, hne]

/-- One command's accesses of a cycle use each port once. -/
theorem run_ports_nodup (r : Run) (t : Nat) : ((r.uses t).map Use.port).Nodup := by
  unfold Run.uses
  split
  · split
    · split <;> simp
    · exact List.nodup_nil
  · split
    · rw [List.map_map]
      change ((r.reads r.i).map fun x => x.1).Nodup
      unfold Run.reads
      split
      · split
        · split <;> simp
        · exact List.nodup_nil
      · split <;> simp
      · split <;> split <;> simp
      · split <;> simp
      · exact List.nodup_nil
    · exact List.nodup_nil

/-- A core that has at most one command under way and no write booked. -/
def Core.lone (x : Core) : Prop := x.runs.length ≤ 1 ∧ x.writes = []

theorem lone_no_clash {x : Core} (h : x.lone) (t : Nat) : clashes (x.uses t) = [] := by
  obtain ⟨hr, hw⟩ := h
  refine clashes_nil ?_
  unfold Core.uses
  rw [hw, List.filter_nil, List.map_nil, List.append_nil]
  match h : x.runs, hr with
  | [], _ => exact List.nodup_nil
  | [r], _ => simpa using run_ports_nodup r t

theorem recordClash_none (s : State) (a c t : Nat) {us : List Use} (h : clashes us = []) : s.recordClash a c t us = s := by
  unfold State.recordClash
  rw [h]
  rfl

/-- Where every core has at most one command under way, nothing clashes. -/
theorem clashNow_lone {s : State} (h : ∀ k, (s.core k).lone) (a t : Nat) : s.clashNow a t = s := by
  refine foldl_fixed _ s _ fun c _ => ?_
  rw [recordClash_none s a c t (lone_no_clash (h c) t)]
  exact ite_self s

end Sys2Proof.Machine
end

section
/-! PROOFS. How an engine command starts (R81, R184): the steps of its issue, and what each of them leaves. -/

namespace Sys2Proof.Machine

/-! ## The steps of `startEngine` -/

/-- The command's engines are occupied for `occ` cycles, in every core that it spans; a command of engine 5 holds the core for `lat`. -/
def State.occupy (s : State) (c t w : Nat) (ol : Nat × Nat) : State :=
  (spanOf w c).foldl (fun s k =>
    let y := s.core k
    s.setCore k { y with
      busy := (busyKeys w).foldl (fun m e => smSet 0 m e (t + ol.1)) y.busy
      macroEnd := if cmdEng w = 5 then t + ol.2 else y.macroEnd }) s

/-- The mask that the command spends is spent in its core. -/
def State.spendMask (s : State) (c : Nat) (k : Option Nat) : State :=
  match k with
  | some k => s.setCore c { s.core c with spent := (s.core c).spent ++ [k] }
  | none => s

/-- The run that the command begins with. -/
def State.firstRun (s : State) (c t : Nat) (x : Core) (w origin : Nat) (v : Verdict) (ol : Nat × Nat) : Run := {
  cmd := BitVec.ofNat 128 w, origin := origin, s := t, da := x.addrOf w 0, sa := x.addrOf w 1, sb := x.addrOf w 2, sc := x.addrOf w 3
  n := v.n, par := if cmdEng w = 5 then x.param w % 2 ^ 12 else x.param w, occ := ol.1, lat := ol.2, tag := v.tag, i := 0
  bank := s.get (F.MXE_ACC_DRAIN c), route := 0xFFFFFFFF, poison := false, xs := [], ys := [], zs := [], tags := [] }

/-- An MM gives its tag to the accumulator bank that it writes. -/
def State.tagBank (s : State) (c w : Nat) (tag : BitVec 64) : State :=
  if cmdEng w = 1 ∧ cmdOp w = 0 then
    let b := cmdField w 0
    s.setCore c ((s.core c).setAcc b { (s.core c).acc b with tag := tag })
  else s

/-- The runs join those of every core that the command spans; its accesses are those of its own core. -/
def State.joinRuns (s : State) (c w : Nat) (l : List Run) : State :=
  (spanOf w c).foldl (fun s k =>
    let z := s.core k
    s.setCore k { z with runs := z.runs ++ l.map fun q => if k = c then q else { q with i := q.total } }) s

/-- The runs of a command other than ACC_SWAP, and the state after what it does at issue beside its accesses. -/
def State.startRuns (s : State) (a c j t : Nat) (x : Core) (w origin n : Nat) (r : Run) : List Run × State :=
  if cmdEng w = 4 then s.startMov a c j t x w origin n r else ([r], s)

theorem startEngine_eq (s : State) (a c j t : Nat) (x : Core) (w origin : Nat) (v : Verdict) :
    s.startEngine a c j t x w origin v =
      let ol := occLat (s.profileOf a) w v.n 0 0
      let b := (s.occupy c t w ol).spendMask c v.spend
      if cmdEng w = 1 ∧ cmdOp w = 2 then b.put (F.MXE_ACC_DRAIN c) (1 - b.get (F.MXE_ACC_DRAIN c))
      else
        let y := b.startRuns a c j t x w origin v.n (b.firstRun c t x w origin v ol)
        (y.2.tagBank c w v.tag).joinRuns c w y.1 := rfl

/-! ## What each step leaves -/

/-- From `s` to `t` only cores change. -/
def OnlyCores (s t : State) : Prop := ∃ cores, t = { s with cores := cores }

theorem OnlyCores.trans {s t u : State} (h : OnlyCores s t) (k : OnlyCores t u) : OnlyCores s u := by
  obtain ⟨_, rfl⟩ := h
  obtain ⟨_, rfl⟩ := k
  exact ⟨_, rfl⟩

theorem OnlyCores.inner {s t : State} (h : OnlyCores s t) : Inner s t := by
  obtain ⟨_, rfl⟩ := h
  exact ⟨_, _, _, rfl⟩

theorem OnlyCores.get {s t : State} (h : OnlyCores s t) (f : Fld) : t.get f = s.get f := by
  obtain ⟨_, rfl⟩ := h
  rfl

theorem OnlyCores.allot {s t : State} (h : OnlyCores s t) (a : Nat) : t.allot a = s.allot a := by
  obtain ⟨_, rfl⟩ := h
  rfl

theorem smGet_foldl_smSet {v b : Nat} {l : List Nat} (hb : b ∈ l) (m : SMap Nat) : smGet 0 (l.foldl (fun m e => smSet 0 m e v) m) b = v := by
  induction l using List.reverseRecOn generalizing m with
  | nil => exact absurd hb List.not_mem_nil
  | append_singleton l e ih =>
    rw [List.foldl_append, List.foldl_cons, List.foldl_nil]
    by_cases h : b = e
    · subst h
      exact smGet_smSet_self ..
    · rw [smGet_smSet_ne _ _ _ _ h]
      exact ih ((List.mem_append.1 hb).resolve_right fun hm => h (List.mem_singleton.1 hm)) m

section
variable (s : State) (c t w : Nat)

theorem occupy_only (ol : Nat × Nat) : OnlyCores s (s.occupy c t w ol) := foldl_setCore_eq (fun _ y => { y with
  busy := (busyKeys w).foldl (fun m e => smSet 0 m e (t + ol.1)) y.busy
  macroEnd := if cmdEng w = 5 then t + ol.2 else y.macroEnd }) (spanOf w c) s

theorem occupy_core (ol : Nat × Nat) (k : Nat) : (s.occupy c t w ol).core k =
    if k ∈ spanOf w c then { s.core k with
      busy := (busyKeys w).foldl (fun m e => smSet 0 m e (t + ol.1)) (s.core k).busy
      macroEnd := if cmdEng w = 5 then t + ol.2 else (s.core k).macroEnd }
    else s.core k :=
  core_foldl_setCore (fun _ y => { y with
    busy := (busyKeys w).foldl (fun m e => smSet 0 m e (t + ol.1)) y.busy
    macroEnd := if cmdEng w = 5 then t + ol.2 else y.macroEnd }) (spanOf_nodup w c) s k

theorem spendMask_only (k : Option Nat) : OnlyCores s (s.spendMask c k) := by
  unfold State.spendMask
  split
  · exact ⟨_, rfl⟩
  · exact ⟨_, rfl⟩

theorem spendMask_sameWork (o : Option Nat) (k : Nat) : SameWork ((s.spendMask c o).core k) (s.core k) := by
  unfold State.spendMask
  split
  · exact sameWork_setCore s c (x := { s.core c with spent := (s.core c).spent ++ [_] }) ⟨⟨rfl, rfl, rfl⟩, rfl⟩ k
  · exact SameWork.refl _

theorem setAcc_sameWork (x : Core) (b : Nat) (y : AccBank) : SameWork (x.setAcc b y) x := by
  unfold Core.setAcc
  split <;> exact ⟨⟨rfl, rfl, rfl⟩, rfl⟩

theorem setAcc_slots (x : Core) (b : Nat) (y : AccBank) : (x.setAcc b y).slots = x.slots := by
  unfold Core.setAcc
  split <;> rfl

theorem tagBank_only (tag : BitVec 64) : OnlyCores s (s.tagBank c w tag) := by
  unfold State.tagBank
  split
  · exact ⟨_, rfl⟩
  · exact ⟨_, rfl⟩

theorem tagBank_sameWork (tag : BitVec 64) (k : Nat) : SameWork ((s.tagBank c w tag).core k) (s.core k) := by
  unfold State.tagBank
  split
  · exact sameWork_setCore s c (setAcc_sameWork ..) k
  · exact SameWork.refl _

theorem tagBank_slots (tag : BitVec 64) : ((s.tagBank c w tag).core c).slots = (s.core c).slots := by
  unfold State.tagBank
  split
  · rw [State.core_setCore_self, setAcc_slots]
  · rfl

theorem joinRuns_only (l : List Run) : OnlyCores s (s.joinRuns c w l) :=
  foldl_setCore_eq (fun k z => { z with runs := z.runs ++ l.map fun q => if k = c then q else { q with i := q.total } }) (spanOf w c) s

theorem joinRuns_core (l : List Run) (k : Nat) : (s.joinRuns c w l).core k =
    if k ∈ spanOf w c then { s.core k with runs := (s.core k).runs ++ l.map fun q => if k = c then q else { q with i := q.total } }
    else s.core k :=
  core_foldl_setCore (fun k z => { z with runs := z.runs ++ l.map fun q => if k = c then q else { q with i := q.total } }) (spanOf_nodup w c) s k

end

/-! ## The engines are occupied -/

/-- The engines of the command are occupied from cycle `t` for `occ` cycles in every core that it spans; of cores nothing else that is
under way changes. -/
structure Occupied (s b : State) (c t w occ : Nat) : Prop where
  only : OnlyCores s b
  cursor : ∀ k, (b.core k).cursor = (s.core k).cursor
  runs : ∀ k, (b.core k).runs = (s.core k).runs
  writes : ∀ k, (b.core k).writes = (s.core k).writes
  busy : ∀ k ∈ spanOf w c, ∀ e ∈ busyKeys w, smGet 0 (b.core k).busy e = t + occ

theorem occupied (s : State) (c t w : Nat) (ol : Nat × Nat) (o : Option Nat) : Occupied s ((s.occupy c t w ol).spendMask c o) c t w ol.1 := by
  have hwork := spendMask_sameWork (s.occupy c t w ol) c o
  have hcore := occupy_core s c t w ol
  refine ⟨(occupy_only ..).trans (spendMask_only ..), fun k => ?_, fun k => ?_, fun k => ?_, fun k hk e he => ?_⟩
  · rw [(hwork k).cursor, hcore]
    split <;> rfl
  · rw [(hwork k).runs, hcore]
    split <;> rfl
  · rw [(hwork k).writes, hcore]
    split <;> rfl
  · rw [(hwork k).busy, hcore, if_pos hk]
    exact smGet_foldl_smSet he _

/-! ## The row acts on the entry of its cycle (R170) -/

/-- The state in which the entry of an issue cycle has issued: `st` the core's store, `j` the plan turn, `x` the core at the entry. -/
def State.issued (u : State) (a c j t : Nat) (st : List Entry) (x : Core) (e : Entry) : State :=
  ((u.setCore c ((Core.passed st t x e).takeEntry st x.cursor t e)).issue a c j t x e).noteWindow c

theorem planRuns_of_mayIssue {s : State} {a c : Nat} (h : s.mayIssue a c = true) : s.planRuns a = true := by
  unfold State.mayIssue at h
  exact (Bool.and_eq_true_iff.1 h).1

theorem visible_cursor (x : Core) (t : Nat) : (x.visible t).cursor = x.cursor := (visible_sameWork x t).cursor

/-- Where the checks of the cycle pass, the row issues the entry. -/
theorem coreRow_issues {eng op : Nat} {s u : State} {c a t : Nat} {e : Entry} (h : Issues eng op s u c a t e) {p : Nat → Bool} (hp : p op = true) :
    let j := (s.allot a).planTurn
    coreRow eng p c s = (u.issued a c j t (s.program c) ((u.core c).atIssue (s.program c) j t) e).clashNow a t := by
  dsimp only
  have hjudges : s.judges a t = true := by
    unfold State.judges
    rw [planRuns_of_mayIssue h.may]
    rfl
  have hentry := h.entry
  rw [Core.atIssue, visible_cursor] at hentry
  have hchecked : ((((s.coresTo t).advanceTo t).readDue a t).clashNow a t).checkCycle a (s.allot a).planTurn t = (false, u) := h.passes
  have hnot : ¬ (cmdEng e.w ≠ eng ∨ p (cmdOp e.w) = false ∨ t < s.wck.cycle ∨ s.judges a t = false) := by
    obtain ⟨heng, hop⟩ := h.row
    rw [heng, hop, hp, hjudges]
    simp [Nat.not_lt.2 h.ahead.1]
  unfold coreRow
  simp only [h.owner, h.may, Bool.true_or, Bool.not_true, Bool.false_eq_true, if_false, hentry, Option.map_some, h.due, if_neg hnot, h.reach,
    hchecked, h.still.1, Bool.or_false]
  rfl

end Sys2Proof.Machine
end

section
/-! PROOFS. What an engine command's issue leaves: the state at its start, the moves between cores, dies and landing slots, and the state at
its end (R77, R81, R206, R321). -/

namespace Sys2Proof.Machine

/-! ## Before the start -/

/-- The state in which a command of core `c` starts, its engines occupied from cycle `t`: the core stands at `n`, the command counts, and no
core has anything under way. -/
structure Ready (u b : State) (c t w occ n : Nat) : Prop where
  inner : Inner u b
  allot : ∀ a, b.allot a = u.allot a
  issued : b.get (F.TIL_CORE_STATE_ISSUED c) = min (2 ^ 32 - 1) (u.get (F.TIL_CORE_STATE_ISSUED c) + 1)
  other : ∀ f : Fld, f.reg ≠ 0x51000 + 0x10 * c → b.get f = u.get f
  cursor : (b.core c).cursor = n
  idle : ∀ k, (b.core k).still
  busy : ∀ k ∈ spanOf w c, ∀ e ∈ busyKeys w, smGet 0 (b.core k).busy e = t + occ

/-- The command counts in ISSUED and its core is RUNNING. -/
def State.countIssue (s : State) (c : Nat) : State := (s.bump (F.TIL_CORE_STATE_ISSUED c)).put (F.TIL_CORE_STATE_RUNNING c) 1

theorem countIssue_issued (s : State) (c : Nat) :
    (s.countIssue c).get (F.TIL_CORE_STATE_ISSUED c) = min (2 ^ 32 - 1) (s.get (F.TIL_CORE_STATE_ISSUED c) + 1) := by
  unfold State.countIssue
  exact (State.get_put_beside _ (F.TIL_CORE_STATE_RUNNING c) (F.TIL_CORE_STATE_ISSUED c) 1 (by simp [F.TIL_CORE_STATE_RUNNING])
    (by simp [F.TIL_CORE_STATE_RUNNING, F.TIL_CORE_STATE_ISSUED])).trans (State.get_bump_self _ _ _ (by simp [F.TIL_CORE_STATE_ISSUED]))

theorem countIssue_other (s : State) {c : Nat} {f : Fld} (h : f.reg ≠ 0x51000 + 0x10 * c) : (s.countIssue c).get f = s.get f := by
  unfold State.countIssue State.bump
  exact (State.get_put_reg _ (F.TIL_CORE_STATE_RUNNING c) f 1 h).trans (State.get_put_reg _ (F.TIL_CORE_STATE_ISSUED c) f _ h)

theorem issue_engine {x : Core} {e : Entry} (heng : cmdEng e.w ≠ 0) (hcount : x.empty e.w = false) (s : State) (a c j t : Nat) :
    ∃ late, s.issue a c j t x e =
      let g := (s.countIssue c).startEngine a c j t x e.w e.origin (s.judge a c t x e.w [])
      g.setCore c { g.core c with late := late } := by
  have hloop : e.isLoop = false := by
    unfold Entry.isLoop
    rw [beq_false_of_ne heng, Bool.false_and]
  unfold State.issue
  dsimp only
  rw [if_neg (by simp [hloop, hcount]), if_neg heng]
  exact ⟨_, rfl⟩

/-! ## After the start -/

/-- From the state `g` in which the command has started to the end of the row: writes of registers booked, CURSOR, WINDOW and LOOP_DEPTH noted. -/
structure Closes (g v : State) (c : Nat) : Prop where
  inner : Inner g v
  allot : ∀ a, v.allot a = g.allot a
  issued : v.get (F.TIL_CORE_STATE_ISSUED c) = g.get (F.TIL_CORE_STATE_ISSUED c)
  other : ∀ f : Fld, f.reg ≠ 0x51000 + 0x10 * c → v.get f = g.get f
  work : ∀ k, SameWork (v.core k) (g.core k)
  slots : (v.core c).slots = (g.core c).slots

theorem noteWindow_issued (s : State) (c : Nat) : (s.noteWindow c).get (F.TIL_CORE_STATE_ISSUED c) = s.get (F.TIL_CORE_STATE_ISSUED c) := by
  unfold State.noteWindow
  refine (State.get_put_beside _ (F.TIL_CORE_STATE_LOOP_DEPTH c) _ _ ?_ ?_).trans
    ((State.get_put_beside _ (F.TIL_CORE_STATE_WINDOW c) _ _ ?_ ?_).trans (State.get_put_beside _ (F.TIL_CORE_STATE_CURSOR c) _ _ ?_ ?_)) <;>
  simp [F.TIL_CORE_STATE_LOOP_DEPTH, F.TIL_CORE_STATE_WINDOW, F.TIL_CORE_STATE_CURSOR, F.TIL_CORE_STATE_ISSUED]

theorem noteWindow_other (s : State) {c : Nat} {f : Fld} (h : f.reg ≠ 0x51000 + 0x10 * c) : (s.noteWindow c).get f = s.get f := by
  unfold State.noteWindow
  exact (State.get_put_reg _ (F.TIL_CORE_STATE_LOOP_DEPTH c) f _ h).trans
    ((State.get_put_reg _ (F.TIL_CORE_STATE_WINDOW c) f _ h).trans (State.get_put_reg _ (F.TIL_CORE_STATE_CURSOR c) f _ h))

theorem noteWindow_regs (s : State) (c : Nat) : RegsOnly s (s.noteWindow c) := (((RegsOnly.refl s).put _ _).put _ _).put _ _

theorem closes (g : State) (c : Nat) (late : List LateWrite) : Closes g ((g.setCore c { g.core c with late := late }).noteWindow c) c := by
  have hissued := noteWindow_issued (g.setCore c { g.core c with late := late }) c
  have hother := fun f => noteWindow_other (g.setCore c { g.core c with late := late }) (c := c) (f := f)
  have hwork := sameWork_setCore g c (x := { g.core c with late := late }) ⟨⟨rfl, rfl, rfl⟩, rfl⟩
  have hslots := congrArg Core.slots (State.core_setCore_self g c { g.core c with late := late })
  obtain ⟨regs, hregs⟩ := noteWindow_regs (g.setCore c { g.core c with late := late }) c
  rw [hregs] at hissued hother ⊢
  exact ⟨⟨_, _, _, rfl⟩, fun _ => rfl, hissued, hother, hwork, hslots⟩

theorem Closes.lone {g v : State} {c : Nat} (h : Closes g v c) (hg : ∀ k, (g.core k).lone) (k : Nat) : (v.core k).lone := by
  obtain ⟨hruns, hwrites⟩ := hg k
  exact ⟨(congrArg List.length (h.work k).runs).trans_le hruns, (h.work k).writes.trans hwrites⟩

/-! ## The row -/

theorem core_still {u : State} (h : ∀ x ∈ u.cores, x.2.still) (k : Nat) : (u.core k).still := smGet_forall ⟨rfl, rfl⟩ h k

/-- The core at its next entry takes the place of the core that was there. -/
theorem ready_of_still {u : State} {c t w n : Nat} {x : Core} (hx : x.cursor = n) (hidle : ∀ k, (u.core k).still) (hstill : x.still)
    (ol : Nat × Nat) (o : Option Nat) :
    Ready u ((((u.setCore c x).countIssue c).occupy c t w ol).spendMask c o) c t w ol.1 n := by
  obtain ⟨honly, hcursor, hruns, hwrites, hbusy⟩ := occupied ((u.setCore c x).countIssue c) c t w ol o
  have hcore : ∀ k, (((u.setCore c x).countIssue c).core k).still := fun k => by
    change ((u.setCore c x).core k).still
    by_cases hk : k = c
    · subst hk
      rwa [State.core_setCore_self]
    · rw [State.core_setCore_ne _ _ hk]
      exact hidle k
  refine ⟨?_, fun a => honly.allot a, ?_, fun f hf => ?_, ?_, fun k => ?_, hbusy⟩
  · exact (Inner.setCore ..).trans (((Inner.bump ..).trans (Inner.put ..)).trans honly.inner)
  · exact (honly.get _).trans (countIssue_issued ..)
  · exact (honly.get _).trans (countIssue_other _ hf)
  · rw [hcursor, ← hx]
    exact congrArg Core.cursor (State.core_setCore_self u c x)
  · obtain ⟨hr, hw⟩ := hcore k
    exact ⟨(hruns k).trans hr, (hwrites k).trans hw⟩

/-- An engine row whose checks pass starts its command in a state that is ready for it, and closes. -/
theorem coreRow_starts {eng op : Nat} {s u : State} {c a t : Nat} {e : Entry} (h : Issues eng op s u c a t e) (heng : eng ≠ 0)
    {p : Nat → Bool} (hp : p op = true) :
    let j := (s.allot a).planTurn
    let x := (u.core c).atIssue (s.program c) j t
    let ol := occLat (u.profileOf a) e.w (x.count e.w) 0 0
    ∃ b v, Ready u b c t e.w ol.1 (x.cursor + 1) ∧ v.n = x.count e.w ∧
      let g := if eng = 1 ∧ op = 2 then b.put (F.MXE_ACC_DRAIN c) (1 - b.get (F.MXE_ACC_DRAIN c))
        else
          let y := b.startRuns a c j t x e.w e.origin v.n (b.firstRun c t x e.w e.origin v ol)
          (y.2.tagBank c e.w v.tag).joinRuns c e.w y.1
      (∀ k, (g.core k).lone) → Closes g (coreRow eng p c s) c := by
  intro j x ol
  obtain ⟨hrow, hop⟩ := h.row
  have hengine : cmdEng e.w ≠ 0 := hrow.trans_ne heng
  have hloop : e.isLoop = false := by
    unfold Entry.isLoop
    rw [beq_false_of_ne hengine, Bool.false_and]
  let y := (Core.passed (s.program c) t x e).takeEntry (s.program c) x.cursor t e
  obtain ⟨hcursor, hload⟩ : y.cursor = x.cursor + 1 ∧ SameLoad y x := passed_takeEntry hloop ..
  have hidle := core_still h.still.2
  have hstill : y.still := (hload.trans (atIssue_sameLoad ..)).still (hidle c)
  obtain ⟨late, hissue⟩ := issue_engine hengine h.counts (u.setCore c y) a c j t
  let v := (u.setCore c y).judge a c t x e.w []
  refine ⟨_, v, ready_of_still hcursor hidle hstill ol v.spend, rfl, ?_⟩
  intro g hlone
  have hstart : ((u.setCore c y).countIssue c).startEngine a c j t x e.w e.origin v = g := by
    rw [startEngine_eq]
    simp only [g, hrow, hop]
    rfl
  have hclose : Closes g (u.issued a c j t (s.program c) x e) c := by
    unfold State.issued
    rw [hissue]
    dsimp only
    rw [hstart]
    exact closes ..
  have hend : coreRow eng p c s = u.issued a c j t (s.program c) x e := (coreRow_issues h hp).trans (clashNow_lone (hclose.lone hlone) a t)
  rw [hend]
  exact hclose

end Sys2Proof.Machine
end

section
/-! PROOFS. The moves of the move engine at their issue (R77, R206, R321 to R324, R340), and the state in which a started command runs. -/

namespace Sys2Proof.Machine

/-! ## What a move does beside its accesses -/

/-- From `b` to `m` no core has more under way, and of the registers only CAN_BRIDGE changes. -/
structure Carries (b m : State) : Prop where
  inner : Inner b m
  work : ∀ k, SameWork (m.core k) (b.core k)
  get : ∀ f : Fld, f.reg ≠ 0xB0010 → m.get f = b.get f

theorem Carries.refl (b : State) : Carries b b := ⟨Inner.refl b, fun _ => SameWork.refl _, fun _ _ => rfl⟩

theorem Carries.trans {b m n : State} (h : Carries b m) (k : Carries m n) : Carries b n :=
  ⟨h.inner.trans k.inner, fun i => (k.work i).trans (h.work i), fun f hf => (k.get f hf).trans (h.get f hf)⟩

theorem Carries.setAllot (b : State) (a : Nat) (x : Allot) : Carries b (b.setAllot a x) := ⟨Inner.setAllot .., fun _ => SameWork.refl _, fun _ _ => rfl⟩

theorem Carries.fly (b : State) (c n now : Nat) (tr : Transfer) : Carries b (b.setCore c ((b.core c).fly n now tr)) :=
  ⟨Inner.setCore .., sameWork_setCore b c ⟨⟨rfl, rfl, rfl⟩, rfl⟩, fun _ _ => rfl⟩

theorem Carries.bumpBridge (b : State) {f : Fld} (hf : f.reg = 0xB0010) (n : Nat) : Carries b (b.bump f n) :=
  ⟨Inner.bump .., fun _ => SameWork.refl _, fun g hg => State.get_put_reg b f g _ (hf ▸ hg)⟩

theorem between_carries (b : State) (x y : Bool) (n : Nat) : Carries b (b.between x y n) := by
  unfold State.between State.crossBridge
  split
  · exact Carries.refl b
  · split
    · exact Carries.bumpBridge b rfl n
    · exact Carries.bumpBridge b rfl n

/-- What crosses from North to South counts. -/
theorem between_ns (s : State) (x y : Bool) (n : Nat) : (s.between x y n).get F.CAN_BRIDGE_NS =
    if x = false ∧ y = true then min (2 ^ 32 - 1) (s.get F.CAN_BRIDGE_NS + n) else s.get F.CAN_BRIDGE_NS := by
  match x, y with
  | false, false => rfl
  | true, true => rfl
  | false, true => exact State.get_bump_self s F.CAN_BRIDGE_NS n (by decide)
  | true, false => exact State.get_put_beside s F.CAN_BRIDGE_SN F.CAN_BRIDGE_NS _ (by decide) (by decide)

/-- What crosses from South to North counts. -/
theorem between_sn (s : State) (x y : Bool) (n : Nat) : (s.between x y n).get F.CAN_BRIDGE_SN =
    if x = true ∧ y = false then min (2 ^ 32 - 1) (s.get F.CAN_BRIDGE_SN + n) else s.get F.CAN_BRIDGE_SN := by
  match x, y with
  | false, false => rfl
  | true, true => rfl
  | true, false => exact State.get_bump_self s F.CAN_BRIDGE_SN n (by decide)
  | false, true => exact State.get_put_beside s F.CAN_BRIDGE_NS F.CAN_BRIDGE_SN _ (by decide) (by decide)

theorem between_allot (s : State) (x y : Bool) (n a : Nat) : (s.between x y n).allot a = s.allot a := by
  unfold State.between State.crossBridge
  split
  · rfl
  · split <;> rfl

/-! ## The path of a move -/

theorem profileOf_congr {s t : State} {a : Nat} (h : t.allot a = s.allot a) : t.profileOf a = s.profileOf a := by
  unfold State.profileOf
  rw [h]

theorem tilesOf_congr {s t : State} {a : Nat} (ha : a < 16) (h : ∀ f : Fld, f.reg < 0x51000 → t.get f = s.get f) : t.tilesOf a = s.tilesOf a := by
  unfold State.tilesOf
  refine List.filter_congr fun k hk => ?_
  have hk := List.mem_range.1 hk
  unfold State.ownsTile State.mapBit
  rw [h]
  simp only [F.ALT_TILE_MAP_MAP]
  omega

theorem pathOf_congr {s t : State} {a : Nat} (hallot : t.allot a = s.allot a) (htiles : t.tilesOf a = s.tilesOf a) (c j at_ da : Nat) :
    t.pathOf a c j at_ da = s.pathOf a c j at_ da := by
  unfold State.pathOf State.logCore
  rw [hallot, htiles]

/-- The occupancy and the latency of a MOV REMOTE over `h` hops and `k` crossings (Table 3-1). -/
theorem occLat_remote {w : Nat} (heng : cmdEng w = 4) (hop : cmdOp w = 1) (p n h k : Nat) :
    occLat p w n h k = (n, n + if p = 0 then 6 + 2 * h + 24 * k else 8 + 3 * h + 32 * k) := by
  simp only [occLat, heng, hop]

/-! ## The rows of the move engine -/

section
variable (s : State) (a c j t : Nat) (x : Core) (w origin n : Nat) (r : Run)

theorem startMov_carries : Carries s (s.startMov a c j t x w origin n r).2 := by
  unfold State.startMov
  dsimp only
  split
  · split
    · exact (Carries.setAllot ..).trans (between_carries ..)
    · exact between_carries ..
  · exact Carries.fly ..
  · exact Carries.refl s
  · exact Carries.fly ..
  · exact Carries.refl s

theorem startRuns_carries : Carries s (s.startRuns a c j t x w origin n r).2 := by
  unfold State.startRuns
  split
  · exact startMov_carries ..
  · exact Carries.refl s

end

/-- The operands, the count, the start and the occupancy of two runs agree. -/
structure SameStart (q r : Run) : Prop where
  cmd : q.cmd = r.cmd
  s : q.s = r.s
  i : q.i = r.i
  n : q.n = r.n
  da : q.da = r.da
  sa : q.sa = r.sa
  sb : q.sb = r.sb
  sc : q.sc = r.sc
  occ : q.occ = r.occ

theorem SameStart.refl (r : Run) : SameStart r r := ⟨rfl, rfl, rfl, rfl, rfl, rfl, rfl, rfl, rfl⟩

section
variable {s : State} {a c j t : Nat} {x : Core} {w origin n : Nat} {r : Run}

/-- A command that is no REMOTE move and no transfer into a landing slot runs with the occupancy and latency of Table 3-1. -/
theorem startRuns_plain (h : ¬ (cmdEng w = 4 ∧ (cmdOp w = 1 ∨ cmdOp w = 2 ∨ cmdOp w = 4))) :
    ∃ q, (s.startRuns a c j t x w origin n r).1 = [q] ∧ SameStart q r ∧ q.lat = r.lat ∧ (cmdEng w = 5 → q.par = r.par) := by
  unfold State.startRuns
  split
  next heng =>
    unfold State.startMov
    dsimp only
    split
    · exact absurd ⟨heng, by omega⟩ h
    · exact absurd ⟨heng, by omega⟩ h
    · exact ⟨_, rfl, ⟨rfl, rfl, rfl, rfl, rfl, rfl, rfl, rfl, rfl⟩, rfl, fun h5 => absurd (heng.symm.trans h5) (by decide)⟩
    · exact absurd ⟨heng, by omega⟩ h
    · exact ⟨r, rfl, SameStart.refl r, rfl, fun _ => rfl⟩
  next => exact ⟨r, rfl, SameStart.refl r, rfl, fun _ => rfl⟩

/-- A REMOTE move to a core takes its path's time, and its lines count at the bridge. -/
theorem startRuns_far (heng : cmdEng w = 4) (hop : cmdOp w = 1) (hnear : aCore r.da < 4608) (hocc : r.occ = n) :
    let y := s.startRuns a c j t x w origin n r
    let h := s.pathOf a c j t r.da
    (∃ q, y.1 = [q] ∧ SameStart q r ∧
      q.lat = n + (if s.profileOf a = 0 then 6 + 2 * h.2.1 + 24 * h.2.2 else 8 + 3 * h.2.1 + 32 * h.2.2)) ∧
      y.2 = s.between (south (c / 32)) (south (aCore r.da / 32)) n := by
  dsimp only
  unfold State.startRuns State.startMov
  simp only [heng, hop, if_true, if_neg (Nat.not_le.2 hnear), occLat_remote heng hop]
  exact ⟨⟨_, rfl, ⟨rfl, rfl, rfl, rfl, rfl, rfl, rfl, rfl, hocc.symm⟩, rfl⟩, trivial⟩

/-- A REMOTE move to a gate opens a transmit buffer for its record. -/
theorem startRuns_gate (heng : cmdEng w = 4) (hop : cmdOp w = 1) (hgate : 4608 ≤ aCore r.da) :
    let y := s.startRuns a c j t x w origin n r
    (∃ q, y.1 = [q] ∧ SameStart q r ∧ q.lat = r.lat) ∧
      ∃ b : TxBuf, (y.2.allot a).txs = (s.allot a).txs ++ [b] ∧ b.record = aCore r.da - 4608 ∧
        b.at_ = t + n + (if s.profileOf a = 0 then 128 else 160) ∧ b.lines = [] ∧ b.sent_ = 0 := by
  dsimp only
  unfold State.startRuns State.startMov
  simp only [heng, hop, if_true, if_pos hgate, between_allot, State.allot_setAllot_self]
  exact ⟨⟨_, rfl, ⟨rfl, rfl, rfl, rfl, rfl, rfl, rfl, rfl, rfl⟩, rfl⟩, _, rfl, rfl, rfl, rfl, rfl⟩

/-- A transfer is under way into the slot, whose valid bit is 0. -/
theorem fly_slot (x : Core) (n now : Nat) (tr : Transfer) :
    (smGet Slot.reset (x.fly n now tr).slots n).flying = some tr ∧ (smGet Slot.reset (x.fly n now tr).slots n).valid = false := by
  unfold Core.fly
  rw [smGet_smSet_self]
  exact ⟨rfl, rfl⟩

/-- MEM_RD and HOST_RD have a transfer of the count under way into their landing slot. -/
theorem startRuns_transfer (heng : cmdEng w = 4) {kind : Nat} (hop : (cmdOp w = 2 ∧ kind = 0) ∨ (cmdOp w = 4 ∧ kind = 3)) :
    let y := s.startRuns a c j t x w origin n r
    y.1 = [] ∧ ∃ tr, (smGet Slot.reset (y.2.core c).slots (cmdSlot w)).flying = some tr ∧
      (smGet Slot.reset (y.2.core c).slots (cmdSlot w)).valid = false ∧ tr.kind = kind ∧ tr.lines = n ∧ tr.landed = 0 ∧ tr.dest = aLine r.da := by
  dsimp only
  unfold State.startRuns State.startMov
  obtain ⟨hop, rfl⟩ | ⟨hop, rfl⟩ := hop
  all_goals
    simp only [heng, hop, if_true, State.core_setCore_self, fly_slot]
    exact ⟨trivial, _, rfl, trivial, rfl, rfl, rfl, rfl⟩

end

/-! ## The command runs -/

/-- The state `v` in which a command of core `c` has started, with the runs `l`, after its move left `m`. -/
structure Started (u m v : State) (c t w occ n : Nat) (l : List Run) : Prop where
  inner : Inner u v
  issued : v.get (F.TIL_CORE_STATE_ISSUED c) = min (2 ^ 32 - 1) (u.get (F.TIL_CORE_STATE_ISSUED c) + 1)
  cursor : (v.core c).cursor = n
  runs : ∀ k ∈ spanOf w c, (v.core k).runs = l.map fun q => if k = c then q else { q with i := q.total }
  busy : ∀ k ∈ spanOf w c, ∀ b ∈ busyKeys w, smGet 0 (v.core k).busy b = t + occ
  slots : (v.core c).slots = (m.core c).slots
  allot : ∀ a, v.allot a = m.allot a
  get : ∀ f : Fld, f.reg ≠ 0x51000 + 0x10 * c → v.get f = m.get f

section
variable {u b m v : State} {c t w occ n : Nat} {l : List Run} {tag : BitVec 64}

theorem join_core_of_mem (k : Nat) (hk : k ∈ spanOf w c) : ((m.tagBank c w tag).joinRuns c w l).core k = { (m.tagBank c w tag).core k with
    runs := ((m.tagBank c w tag).core k).runs ++ l.map fun q => if k = c then q else { q with i := q.total } } := by
  rw [joinRuns_core, if_pos hk]

/-- The runs of a core once the command's have joined: theirs behind its own. -/
theorem join_runs (k : Nat) : (((m.tagBank c w tag).joinRuns c w l).core k).runs =
    (m.core k).runs ++ if k ∈ spanOf w c then l.map fun q => if k = c then q else { q with i := q.total } else [] := by
  rw [joinRuns_core, ← (tagBank_sameWork m c w tag k).runs]
  split
  · rfl
  · rw [List.append_nil]

theorem join_beside (k : Nat) : let z := ((m.tagBank c w tag).joinRuns c w l).core k
    z.cursor = (m.core k).cursor ∧ z.writes = (m.core k).writes ∧ z.busy = (m.core k).busy := by
  have htag := tagBank_sameWork m c w tag k
  dsimp only
  rw [joinRuns_core]
  split <;> exact ⟨htag.cursor, htag.writes, htag.busy⟩

theorem join_lone (hb : Ready u b c t w occ n) (hm : Carries b m) (hl : l.length ≤ 1) (k : Nat) :
    (((m.tagBank c w tag).joinRuns c w l).core k).lone := by
  obtain ⟨hruns, hwrites⟩ := (hm.work k).toSameLoad.still (hb.idle k)
  obtain ⟨-, hbeside, -⟩ := join_beside (m := m) (c := c) (w := w) (l := l) (tag := tag) k
  refine ⟨?_, hbeside.trans hwrites⟩
  rw [join_runs, hruns, List.nil_append]
  split
  · rwa [List.length_map]
  · exact Nat.zero_le _

theorem started (hc : c < 4608) (hb : Ready u b c t w occ n) (hm : Carries b m) (hv : Closes ((m.tagBank c w tag).joinRuns c w l) v c) :
    Started u m v c t w occ n l := by
  have honly : OnlyCores m ((m.tagBank c w tag).joinRuns c w l) := (tagBank_only ..).trans (joinRuns_only ..)
  have hbeside := join_beside (m := m) (c := c) (w := w) (l := l) (tag := tag)
  refine ⟨?_, ?_, ?_, fun k hk => ?_, fun k hk e he => ?_, ?_, fun a => ?_, fun f hf => ?_⟩
  · exact hb.inner.trans (hm.inner.trans (honly.inner.trans hv.inner))
  · rw [hv.issued, honly.get, hm.get _ (by simp only [F.TIL_CORE_STATE_ISSUED]; omega), hb.issued]
  · rw [(hv.work c).cursor, (hbeside c).1, (hm.work c).cursor, hb.cursor]
  · obtain ⟨hruns, -⟩ := (hm.work k).toSameLoad.still (hb.idle k)
    rw [(hv.work k).runs, join_runs, hruns, if_pos hk, List.nil_append]
  · obtain ⟨-, -, hbusy⟩ := hbeside k
    rw [(hv.work k).busy, hbusy, (hm.work k).busy]
    exact hb.busy k hk e he
  · rw [hv.slots, join_core_of_mem c (mem_spanOf w c)]
    exact tagBank_slots ..
  · exact (hv.allot a).trans (honly.allot a)
  · exact (hv.other f hf).trans (honly.get f)

end

end Sys2Proof.Machine
end

section
/-! PROOFS. What an engine row answers where the checks of its cycle pass, and the run that it begins (Table 3-1). -/

namespace Sys2Proof.Machine

/-! ## The outcome of a row -/

/-- The state `v` that a command answers shows the cores, registers and allotments of its effect `w`; the clock is that of `u`, and no tally
nor byte of memory has changed since. -/
structure Answers (u w v : State) : Prop where
  core : ∀ k, v.core k = w.core k
  get : ∀ f, v.get f = w.get f
  allot : ∀ a, v.allot a = w.allot a
  wck : v.wck = u.wck
  quiet : Quiet u v

theorem Issues.mem_eq {eng op : Nat} {s u : State} {c a t : Nat} {e : Entry} (h : Issues eng op s u c a t e) : u.mem = s.mem :=
  (congrArg (fun y => y.2.mem) h.passes).symm.trans (cycleChecked_mem s a t)

theorem exec_row {eng op : Nat} {s u : State} {c a t : Nat} {e : Entry} (h : Issues eng op s u c a t e) {i : Instr} {p : Nat → Bool}
    (hexec : exec i s = unit 4608 c s (coreRow eng p c)) (hinner : Inner u (coreRow eng p c s)) :
    ∃ v, exec i s = .next v ∧ Answers u (coreRow eng p c s) v := by
  rw [hexec, unit_of_lt h.core, run, stores_nil h.stores]
  obtain ⟨_, _, _, hrow⟩ := hinner
  rw [hrow]
  refine ⟨_, rfl, fun _ => rfl, fun _ => rfl, fun _ => rfl, rfl, fun _ => rfl, fun y => ?_⟩
  change (storedByte y []).getD (smGet memDefault (memDrain s.mem u.stores) y) = u.rd y
  rw [smGet_memDrain, ← h.mem_eq]
  rfl

/-! ## The rows that run -/

/-- The core has moved on, the command counts, and nothing is written beside. -/
def HasIssued (u v : State) (c n : Nat) : Prop := (v.core c).cursor = n ∧
  v.get (F.TIL_CORE_STATE_ISSUED c) = min (2 ^ 32 - 1) (u.get (F.TIL_CORE_STATE_ISSUED c) + 1) ∧ v.wck = u.wck ∧ Quiet u v

/-- The run `r` is that of entry `e`, with the operands and the count that core `x` gives it, the occupancy `ol.1` of Table 3-1, and the latency
`ol.2`, or where it moves to another core its path's. -/
def RunsAs (eng op : Nat) (u v : State) (c a j t : Nat) (x : Core) (e : Entry) (r : Run) : Prop :=
  let w := e.w
  let n := x.count w
  let ol := occLat (u.profileOf a) w n 0 0
  r.cmd = e.word ∧ r.s = t ∧ r.i = 0 ∧
    r.n = n ∧ r.da = x.addrOf w 0 ∧ r.sa = x.addrOf w 1 ∧ r.sb = x.addrOf w 2 ∧ r.sc = x.addrOf w 3 ∧ r.occ = ol.1 ∧
    (eng = 5 → r.par = x.param w % 2 ^ 12) ∧
    (let far := eng = 4 ∧ op = 1 ∧ aCore r.da < 4608; let h := u.pathOf a c j t r.da; let north := u.get F.CAN_BRIDGE_NS
      let sn := u.get F.CAN_BRIDGE_SN; let from_ := south (c / 32); let to_ := south (aCore r.da / 32); let top (k : Nat) := min (2 ^ 32 - 1) k
      (¬ far → r.lat = ol.2) ∧
      (far → r.lat = n + (if u.profileOf a = 0 then 6 + 2 * h.2.1 + 24 * h.2.2 else 8 + 3 * h.2.1 + 32 * h.2.2) ∧
        v.get F.CAN_BRIDGE_NS = (if from_ = false ∧ to_ = true then top (north + n) else north) ∧
        v.get F.CAN_BRIDGE_SN = (if from_ = true ∧ to_ = false then top (sn + n) else sn)) ∧
      (eng = 4 → op = 1 → 4608 ≤ aCore r.da → ∃ b : TxBuf, (v.allot a).txs = (u.allot a).txs ++ [b] ∧ b.record = aCore r.da - 4608 ∧
        b.at_ = t + n + (if u.profileOf a = 0 then 128 else 160) ∧ b.lines = [] ∧ b.sent_ = 0))

section
variable {eng op : Nat} {s u : State} {c a t : Nat} {e : Entry}

theorem Issues.owner_lt (h : Issues eng op s u c a t e) : a < 16 := by
  have howner := h.owner
  unfold State.coreOwner State.tileOwner at howner
  exact List.mem_range.1 (List.mem_of_find?_eq_some howner)

theorem Ready.profile {b : State} {w occ n : Nat} (hb : Ready u b c t w occ n) : b.profileOf a = u.profileOf a := profileOf_congr (hb.allot a)

theorem Ready.path {b : State} {w occ n : Nat} (hb : Ready u b c t w occ n) (ha : a < 16) (j da : Nat) : b.pathOf a c j t da = u.pathOf a c j t da :=
  pathOf_congr (hb.allot a) (tilesOf_congr ha fun f hf => hb.other f (by omega)) ..

theorem bridge_beside (hc : c < 4608) {f : Fld} (hf : f.reg = 0xB0010) : f.reg ≠ 0x51000 + 0x10 * c := by omega

/-- An engine row other than ACC_SWAP: its first run `r`, and the state in which its command has started. -/
theorem row_started (h : Issues eng op s u c a t e) (heng : eng ≠ 0) (hswap : ¬ (eng = 1 ∧ op = 2)) {p : Nat → Bool} (hp : p op = true) :
    let j := (s.allot a).planTurn
    let x := (u.core c).atIssue (s.program c) j t
    let n := x.count e.w
    let ol := occLat (u.profileOf a) e.w n 0 0
    ∃ b v, v.n = n ∧ Ready u b c t e.w ol.1 (x.cursor + 1) ∧
      let y := b.startRuns a c j t x e.w e.origin n (b.firstRun c t x e.w e.origin v ol)
      (y.1.length ≤ 1 → Started u y.2 (coreRow eng p c s) c t e.w ol.1 (x.cursor + 1) y.1) := by
  intro j x n ol
  obtain ⟨b, v, hb, hn, hclose⟩ := coreRow_starts h heng hp
  refine ⟨b, v, hn, hb, fun hl => ?_⟩
  rw [if_neg hswap, hn] at hclose
  have hm := startRuns_carries b a c j t x e.w e.origin n (b.firstRun c t x e.w e.origin v ol)
  exact started h.core hb hm (hclose (join_lone hb hm hl))

/-- A row that runs: it is of an engine, and neither ACC_SWAP nor a transfer into a landing slot. -/
@[reducible] def RowRuns (eng op : Nat) : Prop := eng ≠ 0 ∧ ¬ (eng = 1 ∧ op = 2) ∧ ¬ (eng = 4 ∧ (op = 2 ∨ op = 4))

/-- The run of a row, with the occupancy and latency of its command; `v` the state in which it has started. -/
theorem firstRun_runsAs {b v : State} {vd : Verdict} (h : Issues eng op s u c a t e) (hrow : RowRuns eng op) (j : Nat) (x : Core) (hn : vd.n = x.count e.w)
    {occ n : Nat} (hb : Ready u b c t e.w occ n) :
    let ol := occLat (u.profileOf a) e.w (x.count e.w) 0 0
    let y := b.startRuns a c j t x e.w e.origin (x.count e.w) (b.firstRun c t x e.w e.origin vd ol)
    (∀ k, v.allot k = y.2.allot k) → (∀ f : Fld, f.reg ≠ 0x51000 + 0x10 * c → v.get f = y.2.get f) →
    ∃ q, y.1 = [q] ∧ RunsAs eng op u v c a j t x e q := by
  intro ol y hallot hget
  obtain ⟨hengine, hoperation⟩ := h.row
  obtain ⟨-, -, hslot⟩ := hrow
  have hword : BitVec.ofNat 128 e.w = e.word := (BitVec.ofNat_toNat ..).trans (BitVec.setWidth_eq _)
  by_cases hremote : eng = 4 ∧ op = 1
  · obtain ⟨rfl, rfl⟩ := hremote
    have hocc : ol.1 = x.count e.w := congrArg (·.1) (occLat_remote hengine hoperation ..)
    rcases Nat.lt_or_ge (aCore (x.addrOf e.w 0)) 4608 with hnear | hgate
    · obtain ⟨⟨q, hq, hsame, hlat⟩, hy⟩ := startRuns_far (s := b) (a := a) (c := c) (j := j) (t := t) (x := x) (origin := e.origin)
        (r := b.firstRun c t x e.w e.origin vd ol) hengine hoperation hnear hocc
      rw [hb.path h.owner_lt, hb.profile] at hlat
      obtain ⟨hcmd, hs, hi, hqn, hda, hsa, hsb, hsc, hqocc⟩ := hsame
      refine ⟨q, hq, hcmd.trans hword, hs, hi, hqn.trans hn, hda, hsa, hsb, hsc, hqocc, fun h5 => absurd h5 (by decide), ?_⟩
      rw [hda]
      refine ⟨fun hfar => absurd ⟨rfl, rfl, hnear⟩ hfar, fun _ => ⟨hlat, ?_, ?_⟩, fun _ _ hg => absurd hg (Nat.not_le.2 hnear)⟩
      · rw [hget _ (bridge_beside h.core rfl), hy, between_ns, hb.other _ (bridge_beside h.core rfl)]
      · rw [hget _ (bridge_beside h.core rfl), hy, between_sn, hb.other _ (bridge_beside h.core rfl)]
    · obtain ⟨⟨q, hq, hsame, hlat⟩, htx⟩ := startRuns_gate (s := b) (a := a) (c := c) (j := j) (t := t) (x := x) (origin := e.origin)
        (n := x.count e.w) (r := b.firstRun c t x e.w e.origin vd ol) hengine hoperation hgate
      rw [← hallot, hb.allot, hb.profile] at htx
      obtain ⟨hcmd, hs, hi, hqn, hda, hsa, hsb, hsc, hqocc⟩ := hsame
      refine ⟨q, hq, hcmd.trans hword, hs, hi, hqn.trans hn, hda, hsa, hsb, hsc, hqocc, fun h5 => absurd h5 (by decide), ?_⟩
      rw [hda]
      exact ⟨fun _ => hlat, fun hfar => absurd hfar.2.2 (Nat.not_lt.2 hgate), fun _ _ _ => htx⟩
  · have hplain : ¬ (cmdEng e.w = 4 ∧ (cmdOp e.w = 1 ∨ cmdOp e.w = 2 ∨ cmdOp e.w = 4)) := by
      rw [hengine, hoperation]
      exact fun ⟨h4, hop⟩ => hop.elim (fun h1 => hremote ⟨h4, h1⟩) fun h24 => hslot ⟨h4, h24⟩
    obtain ⟨q, hq, hsame, hlat, hpar⟩ := startRuns_plain (s := b) (a := a) (c := c) (j := j) (t := t) (x := x) (origin := e.origin)
      (n := x.count e.w) (r := b.firstRun c t x e.w e.origin vd ol) hplain
    obtain ⟨hcmd, hs, hi, hqn, hda, hsa, hsb, hsc, hqocc⟩ := hsame
    refine ⟨q, hq, hcmd.trans hword, hs, hi, hqn.trans hn, hda, hsa, hsb, hsc, hqocc, fun h5 => ?_, ?_⟩
    · have h5 := hengine.trans h5
      exact (hpar h5).trans (if_pos h5)
    · exact ⟨fun _ => hlat, fun hfar => absurd ⟨hfar.1, hfar.2.1⟩ hremote, fun h4 h1 => absurd ⟨h4, h1⟩ hremote⟩

end

end Sys2Proof.Machine
end

section
/-! PROOFS. The rows of Tables 6-3 and 9-6: a row that runs, ACC_SWAP, and the transfers into landing slots. -/

namespace Sys2Proof.Machine

section
variable {eng op : Nat} {s u : State} {c a t : Nat} {e : Entry}

theorem Started.hasIssued {m w v : State} {k occ n : Nat} {l : List Run} (h : Started u m w c t k occ n l) (hv : Answers u w v) : HasIssued u v c n :=
  ⟨(congrArg Core.cursor (hv.core c)).trans h.cursor, (hv.get _).trans h.issued, hv.wck, hv.quiet⟩

/-- A row that runs: its command runs in its core, every core that it spans has one command under way, and its engines are occupied. -/
theorem row_runs (h : Issues eng op s u c a t e) (hrow : RowRuns eng op) {i : Instr} {p : Nat → Bool} (hp : p op = true)
    (hexec : exec i s = unit 4608 c s (coreRow eng p c)) :
    let w := e.w
    let j := (s.allot a).planTurn
    let x := (u.core c).atIssue (s.program c) j t
    let ol := occLat (u.profileOf a) w (x.count w) 0 0
    ∃ v, exec i s = .next v ∧ HasIssued u v c (x.cursor + 1) ∧ (∃ r, (v.core c).runs = [r] ∧ RunsAs eng op u v c a j t x e r) ∧
      ∀ k ∈ spanOf w c, (v.core k).runs.length = 1 ∧ ∀ b ∈ busyKeys w, smGet 0 (v.core k).busy b = t + ol.1 := by
  intro w j x ol
  obtain ⟨b, vd, hn, hb, hstart⟩ := row_started h hrow.1 hrow.2.1 hp
  let y := b.startRuns a c j t x w e.origin (x.count w) (b.firstRun c t x w e.origin vd ol)
  have hone : ∀ z : State, (∀ k, z.allot k = y.2.allot k) → (∀ f : Fld, f.reg ≠ 0x51000 + 0x10 * c → z.get f = y.2.get f) →
      ∃ q, y.1 = [q] ∧ RunsAs eng op u z c a j t x e q := fun z => firstRun_runsAs h hrow j x hn hb
  obtain ⟨q, hq, -⟩ := hone y.2 (fun _ => rfl) (fun _ _ => rfl)
  have hstarted : Started u y.2 (coreRow eng p c s) c t w ol.1 (x.cursor + 1) y.1 := hstart (le_of_eq (congrArg List.length hq))
  obtain ⟨v, hv, hans⟩ := exec_row h hexec hstarted.inner
  obtain ⟨r, hr, hruns⟩ := hone v (fun k => (hans.allot k).trans (hstarted.allot k)) (fun f hf => (hans.get f).trans (hstarted.get f hf))
  have hcore : ∀ k ∈ spanOf w c, (v.core k).runs = [if k = c then r else { r with i := r.total }] := fun k hk => by
    rw [hans.core, hstarted.runs k hk, hr]
    rfl
  refine ⟨v, hv, hstarted.hasIssued hans, ⟨r, ?_, hruns⟩, fun k hk => ⟨congrArg List.length (hcore k hk), fun b hb => ?_⟩⟩
  · rw [hcore c (mem_spanOf w c), if_pos rfl]
  · rw [hans.core]
    exact hstarted.busy k hk b hb

/-- ACC_SWAP exchanges the accumulator banks; nothing runs. -/
theorem accSwap_issues (h : Issues 1 2 s u c a t e) :
    let x := (u.core c).atIssue (s.program c) (s.allot a).planTurn t
    ∃ v, exec (.accSwap c) s = .next v ∧ HasIssued u v c (x.cursor + 1) ∧ (v.core c).runs = [] ∧
      v.get (F.MXE_ACC_DRAIN c) = 1 - u.get (F.MXE_ACC_DRAIN c) := by
  intro x
  have hc := h.core
  obtain ⟨b, vd, hb, -, hclose⟩ := coreRow_starts h (by decide) (p := (· == 2)) rfl
  rw [if_pos ⟨rfl, rfl⟩] at hclose
  have hlone : ∀ k, (b.core k).lone := fun k => by
    obtain ⟨hr, hw⟩ := hb.idle k
    exact ⟨(congrArg List.length hr).trans_le (Nat.zero_le 1), hw⟩
  have hclosed := hclose hlone
  obtain ⟨v, hv, hans⟩ := exec_row (i := .accSwap c) h rfl (hb.inner.trans ((Inner.put ..).trans hclosed.inner))
  have hwork := hclosed.work c
  refine ⟨v, hv, ⟨?_, ?_, hans.wck, hans.quiet⟩, ?_, ?_⟩
  · rw [hans.core]
    exact hwork.cursor.trans hb.cursor
  · rw [hans.get, hclosed.issued, State.get_put_reg _ _ _ _ (by simp only [F.TIL_CORE_STATE_ISSUED, F.MXE_ACC_DRAIN]; omega), hb.issued]
  · rw [hans.core]
    exact hwork.runs.trans (hb.idle c).1
  · have hdrain : (F.MXE_ACC_DRAIN c).reg ≠ 0x51000 + 0x10 * c := by
      simp only [F.MXE_ACC_DRAIN]
      omega
    rw [hans.get, hclosed.other _ hdrain, State.get_put_self _ _ _ (by simp [F.MXE_ACC_DRAIN]), hb.other _ hdrain]
    exact Nat.mod_eq_of_lt (by simp only [F.MXE_ACC_DRAIN]; omega)

/-- MEM_RD and HOST_RD: a transfer of the count is under way into the landing slot; nothing runs. -/
theorem transfer_issues (h : Issues 4 op s u c a t e) {i : Instr} {kind : Nat} (hop : (op = 2 ∧ kind = 0) ∨ (op = 4 ∧ kind = 3))
    (hexec : exec i s = unit 4608 c s (coreRow 4 (· == op) c)) :
    let w := e.w
    let x := (u.core c).atIssue (s.program c) (s.allot a).planTurn t
    ∃ v tr, exec i s = .next v ∧ HasIssued u v c (x.cursor + 1) ∧ (v.core c).runs = [] ∧
      let z := smGet Slot.reset (v.core c).slots (cmdSlot w)
      z.flying = some tr ∧ z.valid = false ∧ tr.kind = kind ∧ tr.lines = x.count w ∧ tr.landed = 0 ∧ tr.dest = aLine (x.addrOf w 0) := by
  intro w x
  obtain ⟨hengine, hoperation⟩ := h.row
  obtain ⟨b, vd, hn, hb, hstart⟩ := row_started h (by decide) (by omega) (p := (· == op)) (beq_self_eq_true op)
  obtain ⟨hnone, tr, hflying, hvalid, hkind, hlines, hlanded, hdest⟩ := startRuns_transfer (s := b) (a := a) (c := c) (j := (s.allot a).planTurn)
    (t := t) (x := x) (origin := e.origin) (n := x.count w)
    (r := b.firstRun c t x w e.origin vd (occLat (u.profileOf a) w (x.count w) 0 0)) hengine (hoperation.symm ▸ hop)
  have hstarted := hstart (le_of_eq_of_le (congrArg List.length hnone) (Nat.zero_le 1))
  obtain ⟨v, hv, hans⟩ := exec_row h hexec hstarted.inner
  refine ⟨v, tr, hv, hstarted.hasIssued hans, ?_, ?_⟩
  · rw [hans.core, hstarted.runs c (mem_spanOf w c), hnone]
    rfl
  · rw [hans.core, hstarted.slots]
    exact ⟨hflying, hvalid, hkind, hlines, hlanded, hdest⟩

end

/-! ## The rows of Tables 6-3 and 9-6 -/

/-- The instruction of `y` is the row of its engine and operation, and it runs. -/
def EngineRow (c : Nat) (y : Instr × Nat × Nat) : Prop :=
  (∃ p : Nat → Bool, p y.2.2 = true ∧ ∀ s, exec y.1 s = unit 4608 c s (coreRow y.2.1 p c)) ∧ RowRuns y.2.1 y.2.2

theorem engineRow_of {c eng op : Nat} {i : Instr} (hexec : ∀ s, exec i s = unit 4608 c s (coreRow eng (· == op) c)) (hrow : RowRuns eng op) :
    EngineRow c (i, eng, op) := ⟨⟨(· == op), beq_self_eq_true op, hexec⟩, hrow⟩

/-- The rows of the matrix engine that run (Table 6-3). -/
def matrixRows (c : Nat) : List (Instr × Nat × Nat) := [(.mm c, 1, 0x0), (.accStore c, 1, 0x1)]

/-- The rows of the ring engine (Table 10-3). -/
def ringRows (c : Nat) : List (Instr × Nat × Nat) :=
  [(.rneAdd c, 2, 0x0), (.rneSub c, 2, 0x1), (.rneNeg c, 2, 0x2), (.rneMul c, 2, 0x3), (.rneMac c, 2, 0x4), (.ntt c, 2, 0x8), (.intt c, 2, 0x9),
    (.ntt4 c, 2, 0xA), (.intt4 c, 2, 0xB), (.auto c, 2, 0xC), (.bconv c, 2, 0x10), (.rescale c, 2, 0x11), (.moddown c, 2, 0x12),
    (.gdecomp c, 2, 0x13), (.extprod c, 2, 0x14)]

/-- The rows of the vector engine that are of one operation (Table 9-6). -/
def vectorRows (c : Nat) : List (Instr × Nat × Nat) :=
  [(.vxeAdd c, 3, 0x0), (.vxeSub c, 3, 0x1), (.vxeMul c, 3, 0x2), (.fma c, 3, 0x3), (.vxeMin c, 3, 0x4), (.vxeMax c, 3, 0x5), (.abs c, 3, 0x6),
    (.vxeNeg c, 3, 0x7), (.relu c, 3, 0x8), (.clamp (some c), 3, 0x9), (.vxeShl c, 3, 0xA), (.vxeShr c, 3, 0xB), (.vxeAnd c, 3, 0xC),
    (.vxeOr c, 3, 0xD), (.vxeXor c, 3, 0xE), (.select c, 3, 0xF), (.cmplt c, 3, 0x10), (.cmple c, 3, 0x11), (.cmpeq c, 3, 0x12),
    (.zip0 c, 3, 0x14), (.zip1 c, 3, 0x15), (.unzip0 c, 3, 0x16), (.unzip1 c, 3, 0x17), (.recip c, 3, 0x18), (.rsqrt c, 3, 0x19),
    (.exp2 c, 3, 0x1A), (.log2 c, 3, 0x1B)]

/-- The rows of the move engine that run (Table 6-3). -/
def moveRows (c : Nat) : List (Instr × Nat × Nat) :=
  [(.movLocal c, 4, 0x0), (.movRemote c, 4, 0x1), (.memWr c, 4, 0x3), (.fill c, 4, 0x5), (.copy c, 4, 0x6)]

/-- The rows of Table 11-7. -/
def macroRows (c : Nat) : List (Instr × Nat × Nat) :=
  [(.refreshApprox c, 5, 0x0), (.refreshExact c, 5, 0x1), (.bitRefresh c, 5, 0x2), (.keyswitchHybrid c, 5, 0x3)]

/-- Every row that runs; `op` is the operation of a CVT. -/
def runningRows (c op : Nat) : List (Instr × Nat × Nat) :=
  matrixRows c ++ ringRows c ++ vectorRows c ++ (.cvt c, 3, max 0x20 op) :: moveRows c ++ macroRows c

theorem fixedRows_run (c : Nat) : ∀ y ∈ matrixRows c ++ (ringRows c ++ (vectorRows c ++ (moveRows c ++ macroRows c))), EngineRow c y := by
  unfold matrixRows ringRows vectorRows moveRows macroRows
  repeat' refine List.forall_mem_cons.2 ⟨engineRow_of (fun _ => rfl) (by decide), ?_⟩
  exact List.forall_mem_nil _

theorem cvt_runs (c op : Nat) : EngineRow c (.cvt c, 3, max 0x20 op) :=
  ⟨⟨_, decide_eq_true (Nat.le_max_left 0x20 op), fun _ => rfl⟩, by simp, by simp, by simp⟩

theorem runningRows_run (c op : Nat) : ∀ y ∈ runningRows c op, EngineRow c y := by
  obtain ⟨hmatrix, hrest⟩ := List.forall_mem_append.1 (fixedRows_run c)
  simp only [List.forall_mem_append] at hrest
  obtain ⟨hring, hvector, hmove, hmacro⟩ := hrest
  unfold runningRows
  simp only [List.forall_mem_append, List.forall_mem_cons]
  exact ⟨⟨⟨⟨hmatrix, hring⟩, hvector⟩, cvt_runs c op, hmove⟩, hmacro⟩

end Sys2Proof.Machine
end

section
/-! PROOFS. The ring engine's lane (R253, Table 10-3): four folds and two corrections give the canonical residue of every admitted modulus. -/

namespace Sys2Proof.Machine

/-! ## Admitted moduli (Table 10-2) -/

/-- A modulus near a power of two: q = 2^k + t, where t is at most three terms of at most 2^(k − 12). -/
structure Modulus.Near (m : Modulus) : Prop where
  low : 24 ≤ m.k
  high : m.k ≤ 32
  eq : (2 : Int) ^ m.k + m.net = m.q
  net : |m.net| ≤ 3 * 2 ^ (m.k - 12)
  word : m.q < 2 ^ 32

theorem net_le {n : Nat} (l : List (Bool × Nat)) (h : ∀ t ∈ l, t.2 ≤ n) :
    |(l.map fun t => if t.1 then -(2 ^ t.2 : Int) else 2 ^ t.2).sum| ≤ l.length * 2 ^ n := by
  induction l with
  | nil => simp
  | cons t l ih =>
    obtain ⟨ht, hl⟩ := List.forall_mem_cons.1 h
    have hterm : |if t.1 then -(2 ^ t.2 : Int) else 2 ^ t.2| ≤ 2 ^ n := by
      have hpow : (2 : Int) ^ t.2 ≤ 2 ^ n := pow_le_pow_right₀ (by decide) ht
      split
      · rwa [abs_neg, abs_of_pos (by positivity)]
      · rwa [abs_of_pos (by positivity)]
    rw [List.map_cons, List.sum_cons, List.length_cons]
    push_cast
    have hsum := abs_add_le (if t.1 then -(2 ^ t.2 : Int) else 2 ^ t.2) (l.map fun t => if t.1 then -(2 ^ t.2 : Int) else 2 ^ t.2).sum
    have hrest := ih hl
    linarith

theorem modulusOf_terms (b : Bytes) : (modulusOf b).terms.length ≤ 3 := List.length_filterMap_le ..

theorem leNat_lt (b : Bytes) : leNat b < 256 ^ b.length := by
  induction b with
  | nil => exact Nat.one_pos
  | cons x b ih =>
    have hx := x.isLt
    rw [leNat, List.length_cons, pow_succ]
    omega

theorem fieldAt_lt (b : Bytes) (off n : Nat) : fieldAt b off n < 256 ^ n :=
  (leNat_lt _).trans_eq (congrArg (256 ^ ·) (by rw [slice, List.length_map, List.length_range]))

theorem near_of_modRefusal {b : Bytes} (h : modRefusal b = none) : (modulusOf b).Near := by
  unfold modRefusal at h
  dsimp only at h
  split at h
  · exact nomatch h
  next hshape =>
    simp only [Bool.or_eq_true, decide_eq_true_eq, not_or, Bool.not_eq_true, List.any_eq_true, not_exists, not_and, Nat.not_lt, not_not] at hshape
    obtain ⟨⟨⟨⟨⟨⟨-, hlow⟩, hhigh⟩, -⟩, hterms⟩, hq⟩, -⟩ := hshape
    refine ⟨hlow, hhigh, hq, (net_le (modulusOf b).terms hterms).trans ?_, fieldAt_lt b 0 4⟩
    have hlength : ((modulusOf b).terms.length : Int) ≤ 3 := by exact_mod_cast modulusOf_terms b
    exact mul_le_mul_of_nonneg_right hlength (by positivity)

/-! ## Folds (R253) -/

/-- A fold takes away a multiple of q. -/
theorem foldOnce_eq {m : Modulus} (h : m.Near) (x : Int) : foldOnce m.k m.net x = x - x / 2 ^ m.k * m.q := by
  unfold foldOnce
  rw [← h.eq, Int.emod_def]
  ring

theorem foldOnce_emod {m : Modulus} (h : m.Near) (x : Int) : foldOnce m.k m.net x % m.q = x % m.q := by
  rw [foldOnce_eq h, Int.sub_mul_emod_self_right]

/-- What a fold adds to the low part is at most 3/4096 of its argument, or of 2^k. -/
theorem foldOnce_le {m : Modulus} (h : m.Near) (x : Int) :
    ∃ l d, foldOnce m.k m.net x = l + d ∧ 0 ≤ l ∧ l < 2 ^ m.k ∧ 4096 * |d| ≤ 3 * (|x| + 2 ^ m.k) := by
  have hpos : (0 : Int) < 2 ^ m.k := by positivity
  refine ⟨x % 2 ^ m.k, -(x / 2 ^ m.k * m.net), by rw [foldOnce, sub_eq_add_neg], Int.emod_nonneg _ hpos.ne', Int.emod_lt_of_pos _ hpos, ?_⟩
  have hpow : (4096 : Int) * 2 ^ (m.k - 12) = 2 ^ m.k := by
    rw [← pow_sub_mul_pow (2 : Int) (show 12 ≤ m.k from le_trans (by decide) h.low)]
    ring
  have hhigh : |x / 2 ^ m.k| * 2 ^ m.k ≤ |x| + 2 ^ m.k := by
    have hdiv := Int.emod_add_mul_ediv x (2 ^ m.k)
    have hl := Int.emod_nonneg x hpos.ne'
    have hu := Int.emod_lt_of_pos x hpos
    rw [← abs_of_pos hpos, ← abs_mul, abs_of_pos hpos, abs_le]
    constructor <;> cases abs_cases x <;> linarith
  calc 4096 * |-(x / 2 ^ m.k * m.net)| = |x / 2 ^ m.k| * (4096 * |m.net|) := by rw [abs_neg, abs_mul]; ring
    _ ≤ |x / 2 ^ m.k| * (3 * 2 ^ m.k) := mul_le_mul_of_nonneg_left (by linarith [h.net]) (abs_nonneg _)
    _ = 3 * (|x / 2 ^ m.k| * 2 ^ m.k) := by ring
    _ ≤ 3 * (|x| + 2 ^ m.k) := by linarith

theorem foldOnce_abs {m : Modulus} (h : m.Near) (x : Int) : 4096 * |foldOnce m.k m.net x| ≤ 4099 * 2 ^ m.k + 3 * |x| := by
  obtain ⟨l, d, heq, hl, hu, hd⟩ := foldOnce_le h x
  have hsum := abs_add_le l d
  rw [← heq, abs_of_nonneg hl] at hsum
  linarith

/-- Four folds of 64 bits leave less than half of 2^k beside a low part. -/
theorem four_folds {m : Modulus} (h : m.Near) {x : Int} (h0 : 0 ≤ x) (hx : x < 2 ^ 64) :
    let f := foldOnce m.k m.net;
    -(2 ^ m.k) < 2 * f (f (f (f x))) ∧ 2 * f (f (f (f x))) < 3 * 2 ^ m.k := by
  intro f
  have hpow : (2 : Int) ^ 24 ≤ 2 ^ m.k := pow_le_pow_right₀ (by decide) h.low
  have h1 : 4096 * |f x| ≤ 4099 * 2 ^ m.k + 3 * |x| := foldOnce_abs h x
  have h2 : 4096 * |f (f x)| ≤ 4099 * 2 ^ m.k + 3 * |f x| := foldOnce_abs h (f x)
  have h3 : 4096 * |f (f (f x))| ≤ 4099 * 2 ^ m.k + 3 * |f (f x)| := foldOnce_abs h (f (f x))
  obtain ⟨l, d, heq, hl, hu, hd⟩ := foldOnce_le h (f (f (f x)))
  change f (f (f (f x))) = l + d at heq
  rw [abs_of_nonneg h0] at h1
  have hsmall : 2 * |d| < 2 ^ m.k := by linarith
  obtain ⟨hlow, hhigh⟩ := abs_lt.1 (lt_of_le_of_lt (abs_mul 2 d).le hsmall)
  rw [heq]
  constructor <;> linarith

/-- q is within 3/4096 of 2^k. -/
theorem Modulus.Near.q_bounds {m : Modulus} (h : m.Near) : (4093 : Int) * 2 ^ m.k ≤ 4096 * m.q ∧ 4096 * m.q ≤ (4099 : Int) * 2 ^ m.k := by
  have hpow : (4096 : Int) * 2 ^ (m.k - 12) = 2 ^ m.k := by
    rw [← pow_sub_mul_pow (2 : Int) (show 12 ≤ m.k from le_trans (by decide) h.low)]
    ring
  obtain ⟨hlow, hhigh⟩ := abs_le.1 h.net
  have heq := h.eq
  constructor <;> linarith

/-- The lane gives the canonical residue of every value of 64 bits. -/
theorem reduceLane_eq_emod {m : Modulus} (h : m.Near) {x : Nat} (hx : x < 2 ^ 64) : reduceLane m x = ((x % m.q : Nat) : Int) := by
  obtain ⟨hlow, hhigh⟩ := four_folds h (x := x) (Int.natCast_nonneg x) (by exact_mod_cast hx)
  obtain ⟨hqlow, hqhigh⟩ := h.q_bounds
  have hpos : (0 : Int) < 2 ^ m.k := by positivity
  have hmod : ∀ y : Int, foldOnce m.k m.net y % m.q = y % m.q := foldOnce_emod h
  unfold reduceLane
  dsimp only at hlow hhigh ⊢
  have hy : foldOnce m.k m.net (foldOnce m.k m.net (foldOnce m.k m.net (foldOnce m.k m.net x))) % m.q = x % m.q := by simp only [hmod]
  generalize foldOnce m.k m.net (foldOnce m.k m.net (foldOnce m.k m.net (foldOnce m.k m.net x))) = y at hlow hhigh hy ⊢
  rw [Int.natCast_emod, ← hy]
  by_cases hneg : y < 0
  · rw [if_pos hneg, if_neg (by linarith), ← Int.add_emod_right, Int.emod_eq_of_lt (by linarith) (by linarith)]
  · rw [if_neg hneg]
    split
    · rw [← Int.sub_emod_right, Int.emod_eq_of_lt (by linarith) (by linarith)]
    · rw [Int.emod_eq_of_lt (by linarith) (by linarith)]

/-! ## The element operations (Table 10-3) -/

theorem reduceLane_toNat {m : Modulus} (h : m.Near) {x : Nat} (hx : x < 2 ^ 64) : (reduceLane m x).toNat = x % m.q := by
  rw [reduceLane_eq_emod h hx, Int.toNat_natCast]

/-- A product of residues, and one more residue added, fits the lane. -/
theorem mac_lt {q x y z : Nat} (hq : q < 2 ^ 32) (hx : x < q) (hy : y < q) (hz : z < q) : x * y + z < 2 ^ 64 :=
  calc x * y + z ≤ x * q + z := Nat.add_le_add_right (Nat.mul_le_mul_left x hy.le) z
    _ < x * q + q := Nat.add_lt_add_left hz _
    _ = (x + 1) * q := (Nat.succ_mul x q).symm
    _ ≤ q * q := Nat.mul_le_mul_right q hx
    _ ≤ 2 ^ 32 * 2 ^ 32 := Nat.mul_le_mul hq.le hq.le

theorem rneElem_residues {m : Modulus} (h : m.Near) {x y z : Nat} (hx : x < m.q) (hy : y < m.q) (hz : z < m.q) :
    rneElem m 0 x y z = (x + y) % m.q ∧ (rneElem m 1 x y z + y) % m.q = x ∧ (rneElem m 2 x y z + x) % m.q = 0 ∧
      rneElem m 3 x y z = x * y % m.q ∧ rneElem m 4 x y z = (x * y + z) % m.q := by
  have hq := h.word
  have hmac := mac_lt hq hx hy hz
  refine ⟨reduceLane_toNat h (by omega), ?_, ?_, reduceLane_toNat h (by omega), reduceLane_toNat h hmac⟩
  · have hsub : rneElem m 1 x y z = (x + m.q - y) % m.q := reduceLane_toNat h (by omega)
    rw [hsub, Nat.mod_add_mod, Nat.sub_add_cancel (by omega), Nat.add_mod_right, Nat.mod_eq_of_lt hx]
  · have hneg : rneElem m 2 x y z = (m.q - x) % m.q := reduceLane_toNat h (by omega)
    rw [hneg, Nat.mod_add_mod, Nat.sub_add_cancel hx.le, Nat.mod_self]

end Sys2Proof.Machine
end

section
/-! PROOFS. The vector engine's 32-bit integer lanes (R237, Table 9-6). -/

namespace Sys2Proof.Machine

theorem decodeI_int32 (x : BitVec 32) : decodeI 6 x.toNat = x.toInt := by
  have hx := x.isLt
  change signed 32 x.toNat = x.toInt
  unfold signed
  rw [Nat.mod_eq_of_lt hx, BitVec.toInt_eq_toNat_cond]
  split <;> split <;> omega

theorem encodeI_int32 (v : Int) : (encodeI 6 false v).1 = (BitVec.ofInt 32 v).toNat := by
  rw [BitVec.toNat_ofInt]
  unfold encodeI
  split
  · rfl
  · split <;> rfl

/-- A lane of one 32-bit element is that element's result. -/
theorem vxeLane_int32 {op : Nat} (hop : op ≤ 5) (x y z : BitVec 32) : (vxeLane op 6 x.toNat y.toNat z.toNat).1 = (intElem op 6 false x.toNat y.toNat z.toNat).1 := by
  have helem : ∀ v : BitVec 32, (elems 32 v.toNat).getD 0 0 = v.toNat := fun v => by
    change v.toNat / 2 ^ 0 % 2 ^ 32 = v.toNat
    rw [pow_zero, Nat.div_one, Nat.mod_eq_of_lt v.isLt]
  have hlane : (vxeLane op 6 x.toNat y.toNat z.toNat).1 =
      (intElem op 6 false ((elems 32 x.toNat).getD 0 0) ((elems 32 y.toNat).getD 0 0) ((elems 32 z.toNat).getD 0 0)).1 := by
    interval_cases op <;> rfl
  rw [hlane, helem, helem, helem]

/-- The lanes of ADD, SUB, MUL and FMA are those of 32-bit words; MIN and MAX take the signed lesser and greater. -/
theorem vxeLane_words (x y z : BitVec 32) :
    let L (op : Nat) : Nat := (vxeLane op 6 x.toNat y.toNat z.toNat).1
    L 0 = (x + y).toNat ∧ L 1 = (x - y).toNat ∧ L 2 = (x * y).toNat ∧ L 3 = (x * y + z).toNat ∧
      L 4 = (if x.sle y then x else y).toNat ∧ L 5 = (if x.sle y then y else x).toNat := by
  intro L
  have hL : ∀ op ≤ 5, ∀ v : Int, intElem op 6 false x.toNat y.toNat z.toNat = encodeI 6 false v → L op = (BitVec.ofInt 32 v).toNat :=
    fun op hop v hv => (vxeLane_int32 hop x y z).trans ((congrArg (·.1) hv).trans (encodeI_int32 v))
  have hx := decodeI_int32 x
  have hy := decodeI_int32 y
  have hz := decodeI_int32 z
  refine ⟨?_, ?_, ?_, ?_, ?_, ?_⟩
  · rw [hL 0 (by decide) (x.toInt + y.toInt) (by rw [← hx, ← hy]; rfl), BitVec.ofInt_add, BitVec.ofInt_toInt, BitVec.ofInt_toInt]
  · rw [hL 1 (by decide) (x.toInt - y.toInt) (by rw [← hx, ← hy]; rfl), Int.sub_eq_add_neg, BitVec.ofInt_add, BitVec.ofInt_neg,
      BitVec.ofInt_toInt, BitVec.ofInt_toInt, BitVec.sub_eq_add_neg]
  · rw [hL 2 (by decide) (x.toInt * y.toInt) (by rw [← hx, ← hy]; rfl), BitVec.ofInt_mul, BitVec.ofInt_toInt, BitVec.ofInt_toInt]
  · rw [hL 3 (by decide) (x.toInt * y.toInt + z.toInt) (by rw [← hx, ← hy, ← hz]; rfl), BitVec.ofInt_add, BitVec.ofInt_mul, BitVec.ofInt_toInt,
      BitVec.ofInt_toInt, BitVec.ofInt_toInt]
  · rw [hL 4 (by decide) (min x.toInt y.toInt) (by rw [← hx, ← hy]; rfl)]
    simp only [BitVec.sle_eq_decide, min_def, decide_eq_true_eq]
    split <;> rw [BitVec.ofInt_toInt]
  · rw [hL 5 (by decide) (max x.toInt y.toInt) (by rw [← hx, ← hy]; rfl)]
    simp only [BitVec.sle_eq_decide, max_def, decide_eq_true_eq]
    split <;> rw [BitVec.ofInt_toInt]

end Sys2Proof.Machine
end

section
/-! PROOFS. The engine commands of a core (R77, R81, Tables 3-1, 6-3, 9-6, 10-3). -/

namespace Sys2Proof.Machine

/-- Settles O58: a row whose checks pass issues on the state that the checks leave, where nothing is under way, so that its steps can be
followed one by one and its own accesses cannot clash. -/
theorem engineCommandsStart : Obligations.EngineCommandsStart := by
  unfold Obligations.EngineCommandsStart
  refine ⟨fun eng op s u c a t e h => ⟨fun y hy heng hop => ?_, fun heng hop => ?_, fun y hy heng hop => ?_⟩,
    fun b x y z hb hx hy hz => rneElem_residues (near_of_modRefusal hb) hx hy hz, vxeLane_words⟩
  · subst heng hop
    obtain ⟨⟨p, hp, hexec⟩, hrow⟩ := runningRows_run c _ y hy
    exact row_runs h hrow hp (hexec s)
  · subst heng hop
    exact accSwap_issues h
  · subst heng
    obtain rfl | rfl := List.mem_pair.1 hy
    · subst hop
      exact transfer_issues h (i := .memRd c) (.inl ⟨rfl, rfl⟩) rfl
    · subst hop
      exact transfer_issues h (i := .hostRd c) (.inr ⟨rfl, rfl⟩) rfl

end Sys2Proof.Machine
end

section
/-! PROOFS. The grant of an order: taken, refused with its first failure, or cancelled by a mark (R105, R106, R109, R114, R116). -/

namespace Sys2Proof.Machine

/-! ## Fields apart -/

/-- Writing a field leaves every field alone that shares no bit with it. -/
theorem State.get_put_apart (s : State) {f g : Fld} (v : Nat) (hw : f.lo + f.w ≤ 64)
    (h : g.reg = f.reg → f.lo + f.w ≤ g.lo ∨ g.lo + g.w ≤ f.lo) : (s.put f v).get g = s.get g := by
  by_cases hr : g.reg = f.reg
  · exact s.get_put_beside f g v hw (h hr)
  · exact s.get_put_reg f g v hr

/-- A field that holds the value written reads it. -/
theorem State.get_put_fits (s : State) {f : Fld} {v : Nat} (hw : f.lo + f.w ≤ 64) (hv : v < 2 ^ f.w) : (s.put f v).get f = v := by
  rw [State.get_put_self s f v hw, Nat.mod_eq_of_lt hv]

/-! ## Effects on queues -/

/-- Between two states only registers and the records of queues differ. -/
def OnQueues (s t : State) : Prop := t = { s with regs := t.regs, queues := t.queues }

namespace OnQueues

theorem refl (s : State) : OnQueues s s := rfl

variable {s t u : State}

theorem trans (h : OnQueues s t) (k : OnQueues t u) : OnQueues s u := by
  unfold OnQueues at h k ⊢
  refine k.trans ?_
  rw [h]

theorem put (h : OnQueues s t) (f : Fld) (v : Nat) : OnQueues s (t.put f v) := h.trans rfl

theorem bump (h : OnQueues s t) (f : Fld) (n : Nat) : OnQueues s (t.bump f n) := h.trans rfl

theorem setQueue (h : OnQueues s t) (q : Nat) (x : Queue) : OnQueues s (t.setQueue q x) := h.trans rfl

theorem pushTally (h : OnQueues s t) (q : Nat) (y : Tally) : OnQueues s (t.pushTally q y) := h.setQueue q _

theorem consume (h : OnQueues s t) (q : Nat) (b : Bytes) : OnQueues s (t.consume q b) := h.trans (by
  obtain ⟨_, _, hc⟩ := consume_eq t q b
  rw [hc]
  exact rfl)

theorem haltQueue (h : OnQueues s t) (q cause : Nat) : OnQueues s (t.haltQueue q cause) := ((h.setQueue q _).put _ _).put _ _

theorem untouched (h : OnQueues s t) : Untouched s t := by
  rw [h]
  exact ⟨rfl, rfl, rfl⟩

theorem inflight (h : OnQueues s t) : t.inflight = s.inflight := by rw [h]

theorem sent (h : OnQueues s t) : t.sent = s.sent := by rw [h]

theorem wck (h : OnQueues s t) : t.wck = s.wck := by rw [h]

end OnQueues

/-! ## The order in flight -/

/-- The state in which a granted order is consumed and in flight, its sealed counter not yet accepted. -/
def State.aloft (s : State) (q : Nat) (b host : Bytes) : State := (s.consume q b).launch (s.mkOrd q b host)

section
variable (s : State) (q : Nat) (b host : Bytes)

theorem aloft_eq : ∃ regs queues, s.aloft q b host =
    { s with regs := regs, queues := queues, inflight := s.inflight ++ [s.mkOrd q b host], granted := s.granted + 1 } := by
  obtain ⟨r, x, h⟩ := consume_eq s q b
  unfold State.aloft
  rw [h]
  exact ⟨_, _, rfl⟩

theorem mkOrd_mem_aloft : s.mkOrd q b host ∈ (s.aloft q b host).inflight := by
  obtain ⟨_, _, h⟩ := aloft_eq s q b host
  rw [h]
  exact List.mem_append_right _ (List.mem_singleton_self _)

theorem aloft_queue (r : Nat) : ∃ c f m p,
    (s.aloft q b host).queue r = { s.queue r with credit := c, fetched := f, tied := m, past := p } := by
  unfold State.aloft
  rw [queue_congr (launch_queues _ _)]
  exact consume_queue s q r b

theorem aloft_reg {a r : Nat} (h : r ∉ orderRegs q a) : (s.aloft q b host).reg r = s.reg r := by
  rw [← flown_reg s q b host a r h]
  exact (reg_congr (acceptCounter_regs _ _) r).symm

theorem settleCredits_get (g : Nat) (f : Fld) : (s.settleCredits g).get f = s.get f :=
  get_of_reg (reg_congr (settleCredits_regs s g) _)

/-- DR_COUNTS counts one grant more, up to its limit. -/
theorem consume_grants : (s.consume q b).get F.DR_COUNTS_GRANTS = min (2 ^ 32 - 1) (s.get F.DR_COUNTS_GRANTS + 1) := by
  unfold State.consume
  rw [State.get_bump_self _ F.DR_COUNTS_GRANTS _ (by decide)]
  rw [State.get_put_reg _ (F.DR_QSEQ_EXPECT q) _ _ (by show 0x30010 ≠ 0x31028 + 0x40 * q; omega),
    State.get_put_reg _ (F.DR_QPTR_HEAD q) _ _ (by show 0x30010 ≠ 0x31018 + 0x40 * q; omega), State.get_setQueue, settleCredits_get]
  rfl

end

/-! ## A granted order takes effect -/

/-- Settles O8: the row's body runs on the state in which the order is consumed and in flight; the rest is what the grant writes. -/
theorem grantedOrderTakesEffect : Obligations.GrantedOrderTakesEffect := by
  intro c sp q host b s hc h
  have hseq := flown_get s q b host (F.DR_QSEQ_EXPECT q) (by show 0x31028 + 0x40 * q ≠ _; omega) (by show 0x31028 + 0x40 * q ≠ _; omega)
  have hhead := flown_get s q b host (F.DR_QPTR_HEAD q) (by show 0x31018 + 0x40 * q ≠ _; omega) (by show 0x31018 + 0x40 * q ≠ _; omega)
  have hgrants := flown_get s q b host F.DR_COUNTS_GRANTS (by decide) (by show 0x30010 ≠ _; omega)
  obtain ⟨hexpect, hptr⟩ := consume_get_seq s q b
  refine ⟨⟨_, (orderRow_exec hc s).trans (exec_taken h), rfl⟩, hseq.trans hexpect, hhead.trans hptr, flown_inflight s q b host, ?_,
    hgrants.trans (consume_grants s q b), fun r => ?_⟩
  · unfold State.flown
    rw [queue_congr (acceptCounter_queues _ _), queue_congr (launch_queues _ _)]
    exact consume_fetched s q b
  · obtain ⟨_, _, _, _, hr⟩ := flown_queue s q r b host
    rw [hr]

/-! ## A queue halts -/

section
variable (s : State) (q cause : Nat)

theorem haltQueue_queue_self : (s.haltQueue q cause).queue q = { s.queue q with fetched := none, short := false, tied := false } := by
  unfold State.haltQueue
  rw [State.queue_put, State.queue_put, State.queue_setQueue_self]

theorem haltQueue_queue_ne {r : Nat} (h : r ≠ q) : (s.haltQueue q cause).queue r = s.queue r := by
  unfold State.haltQueue
  rw [State.queue_put, State.queue_put, State.queue_setQueue_ne _ _ h]

theorem haltQueue_state : (s.haltQueue q cause).get (F.DR_QSTAT_STATE q) = 2 := by
  unfold State.haltQueue
  rw [State.get_put_beside _ (F.DR_QSTAT_HALT_CAUSE q) (F.DR_QSTAT_STATE q) _ (by show 8 + 8 ≤ 64; decide) (.inr (by show 0 + 2 ≤ 8; decide))]
  exact State.get_put_fits _ (by show 0 + 2 ≤ 64; decide) (by show 2 < 2 ^ 2; decide)

theorem haltQueue_cause : (s.haltQueue q cause).get (F.DR_QSTAT_HALT_CAUSE q) = cause % 2 ^ 8 :=
  State.get_put_self _ (F.DR_QSTAT_HALT_CAUSE q) _ (by show 8 + 8 ≤ 64; decide)

end

/-! ## A refused order -/

section
variable {sp : Spec} {q : Nat} {host b : Bytes} {s : State} {w : Why}

/-- A granted order that no mark cancels and whose checks name a failure. -/
theorem order_refused (hg : s.grantable sp q = some b) (hm : s.marked q = false) (hv : sp.verdict s (s.mkOrd q b host) = some w) :
    order sp q host s = if w.ofLength then ((s.aloft q b host).fail (s.mkOrd q b host) w).haltQueue q w.cause
      else (s.aloft q b host).fail (s.mkOrd q b host) w := by
  unfold order
  simp only [hg, hm, hv]
  rfl

/-- The final tally of an order in flight is added to its queue and changes nothing else there. -/
theorem finish_queue {o : Ord} (st i d : Nat) (m : Bool) (ho : o ∈ s.inflight) :
    ∃ y, (s.finish o st i d m).queue o.q = { s.queue o.q with out := (s.queue o.q).out ++ [y] } := by
  obtain ⟨x, hx⟩ := Option.isSome_iff_exists.1 (List.find?_isSome.2 ⟨o, ho, beq_self_eq_true o.id⟩ : (s.inflight.find? (fun x => x.id == o.id)).isSome)
  refine ⟨{ o.tally st i d false (m || x.margin) with cycle := (s.endOrder o).wck.cycle, turn := (s.endOrder o).wck.turn }, ?_⟩
  unfold State.finish
  rw [hx]
  dsimp only
  rw [queue_pushTally, queue_congr (endOrder_queues s o)]

end

/-- What a refusal leaves, before the queue may halt. -/
structure Refused (s u : State) (o : Ord) (w : Why) : Prop where
  untouched : Untouched s u
  reports : Reports s u o w.status w.item (detailOf w.cause w.value)
  ended : Ended u o
  sent : u.sent = s.sent
  marks : (u.queue o.q).marks = (s.queue o.q).marks
  only : OnlyOrder s u o.q o.allot

theorem aloft_fail_refused (s : State) (q : Nat) (b host : Bytes) (w : Why) :
    Refused s ((s.aloft q b host).fail (s.mkOrd q b host) w) (s.mkOrd q b host) w := by
  have hin := mkOrd_mem_aloft s q b host
  have hq := aloft_queue s q b host
  have hreg : ∀ r, r ∉ orderRegs q (s.mkOrd q b host).allot → (s.aloft q b host).reg r = s.reg r := fun r => aloft_reg s q b host
  obtain ⟨_, _, hrest⟩ := aloft_eq s q b host
  have honly := only_of (st := w.status) (i := w.item) (d := detailOf w.cause w.value) (m := false) (o := s.mkOrd q b host) rfl rfl
    ⟨_, _, _, _, _, _, hrest⟩ hreg hq hin rfl
  obtain ⟨_, _, _, _, _, hfin⟩ := finish_eq (s.aloft q b host) (s.mkOrd q b host) w.status w.item (detailOf w.cause w.value) false
  obtain ⟨_, _, _, _, hself⟩ := hq q
  refine ⟨?_, reports_of hin ?_ ?_, (finish_spec _ _ _ _ _ _ hin).2.1, ?_, ?_, honly⟩
  · unfold State.fail
    rw [hfin, hrest]
    exact ⟨rfl, rfl, rfl⟩
  · rw [mkOrd_q, hself]
  · rw [hrest]
  · exact (finish_sent ..).trans (by rw [hrest])
  · obtain ⟨_, hy⟩ := finish_queue w.status w.item (detailOf w.cause w.value) false hin
    rw [mkOrd_q] at hy ⊢
    unfold State.fail
    rw [hy, hself]

/-- Settles O9: the order is consumed and fails in flight; LENGTH's own failure then halts its queue, which changes the queue's
record and status alone. -/
theorem refusedOrderReportsFirstFailure : Obligations.RefusedOrderReportsFirstFailure := by
  intro c sp q host b s w hc hq hs hg hm hv
  have h := aloft_fail_refused s q b host w
  have hrun := order_refused hg hm hv
  generalize (s.aloft q b host).fail (s.mkOrd q b host) w = u at h hrun
  obtain ⟨hu, ⟨m, hrep⟩, hended, hsent, hmarks, honly⟩ := h
  cases hw : w.ofLength with
  | false =>
    rw [hw, if_neg (by decide)] at hrun
    exact ⟨u, (orderRow_exec hc s).trans (unit_next hq hs hrun hu), ⟨m, hrep⟩, hended, hsent, hu.rd, fun _ => honly, by simp⟩
  | true =>
    rw [hw, if_pos rfl] at hrun
    have hhalt := (OnQueues.refl u).haltQueue q w.cause
    have hself := haltQueue_queue_self u q w.cause
    have hk : Untouched s (u.haltQueue q w.cause) := hu.trans hhalt.untouched
    refine ⟨_, (orderRow_exec hc s).trans (unit_next hq hs hrun hk), ⟨m, ?_⟩, ?_, ?_, hk.rd, by simp,
      fun _ => ⟨haltQueue_state u q _, haltQueue_cause u q _, by rw [hself], ?_, fun r hr => ?_⟩⟩
    · rw [mkOrd_q] at hrep ⊢
      rw [hself]
      exact hrep
    · unfold Ended
      rw [hhalt.inflight]
      exact hended
    · rw [hhalt.sent, hsent]
    · rw [hself]
      exact hmarks
    · rw [haltQueue_queue_ne u q w.cause hr]
      exact honly.queues r hr

/-! ## A cancelled order -/

section
variable (s : State) (q : Nat) (b : Bytes)

/-- The queue gives up the mark of its target. -/
def State.unmark : State :=
  (s.setQueue q { s.queue q with marks := (s.queue q).marks.filter fun m => m != s.get (F.DR_QSEQ_EXPECT q) }).put (F.DR_QSTAT_MARKS q)
    ((s.queue q).marks.filter fun m => m != s.get (F.DR_QSEQ_EXPECT q)).length

theorem cancelled_eq : s.cancelled q b = (((s.unmark q).consume q b).bump F.DR_COUNTS_CANCELLED).pushTally q
    ((s.mkOrd q b []).tally stCancelled 0 (detailOf 0x32 0) true (s.queue q).tied) := by
  unfold State.cancelled State.unmark
  simp only [State.queue_setQueue_self]
  have htied : ∀ t : State, (t.queue q).tied = (s.queue q).tied → (t.mkOrd q b []).margin = (s.mkOrd q b []).margin := fun t h => h
  rw [htied _ (by rw [State.queue_put, State.queue_setQueue_self])]
  rfl

theorem unmark_queue : (s.unmark q).queue q = { s.queue q with marks := (s.queue q).marks.filter fun m => m != s.get (F.DR_QSEQ_EXPECT q) } := by
  unfold State.unmark
  rw [State.queue_put, State.queue_setQueue_self]

theorem unmark_expect : (s.unmark q).get (F.DR_QSEQ_EXPECT q) = s.get (F.DR_QSEQ_EXPECT q) := by
  unfold State.unmark
  rw [State.get_put_reg _ (F.DR_QSTAT_MARKS q) _ _ (by show 0x31028 + 0x40 * q ≠ 0x31024 + 0x40 * q; omega), State.get_setQueue]

end

/-- Settles O10: the mark goes, the order is consumed, and the one tally is CANCELLED; nothing enters flight. -/
theorem markCancelsItsTarget : Obligations.MarkCancelsItsTarget := by
  intro c sp q host b s hc hq hs hg hm
  have hrun : order sp q host s = s.cancelled q b := by
    unfold order
    simp only [hg, hm]
    rfl
  have hconsume : OnQueues s ((s.unmark q).consume q b) := (((OnQueues.refl s).setQueue q _).put _ _).consume q b
  have hrest : OnQueues s (s.cancelled q b) := by
    rw [cancelled_eq]
    exact (hconsume.bump _ _).pushTally q _
  obtain ⟨_, _, _, _, hself⟩ := consume_queue (s.unmark q) q q b
  rw [unmark_queue] at hself
  obtain ⟨hexpect, -⟩ := consume_get_seq (s.unmark q) q b
  rw [unmark_expect] at hexpect
  refine ⟨_, (orderRow_exec hc s).trans (unit_next hq hs hrun hrest.untouched), ?_, ?_, ?_, hrest.inflight, hrest.untouched.rd⟩
  · rw [cancelled_eq, queue_pushTally, State.queue_bump, hself, State.bump_wck, hconsume.wck]
  · rw [cancelled_eq, queue_pushTally, State.queue_bump, hself]
  · rw [cancelled_eq, get_of_reg (pushTally_reg ..)]
    exact (get_of_reg (State.reg_bump_ne _ F.DR_COUNTS_CANCELLED _ (by show 0x31028 + 0x40 * q ≠ 0x30010; omega))).trans hexpect

end Sys2Proof.Machine
end

section
/-! PROOFS. The arbitration stage (R113): the winner and the credits that its grant leaves. -/

namespace Sys2Proof.Machine

section
variable (s : State)

theorem mem_eligibleTenants {q : Nat} : q ∈ s.eligibleTenants ↔ 1 ≤ q ∧ q < 64 ∧ s.eligible q = true := by
  unfold State.eligibleTenants
  simp only [List.mem_filter, List.mem_map, List.mem_range]
  constructor
  · rintro ⟨⟨k, hk, rfl⟩, he⟩
    exact ⟨by omega, by omega, he⟩
  · rintro ⟨h1, h64, he⟩
    exact ⟨⟨q - 1, by omega, by omega⟩, he⟩

theorem eligibleTenants_rising : s.eligibleTenants.Pairwise (· < ·) := by
  unfold State.eligibleTenants
  refine List.Pairwise.filter _ (List.pairwise_map.2 ?_)
  exact List.pairwise_lt_range.imp fun h => Nat.succ_lt_succ h

/-! ## The winner -/

theorem bestCredit_eq_none {l : List Nat} : s.bestCredit l = none ↔ l = [] := by
  cases l with
  | nil => exact ⟨fun _ => rfl, fun _ => rfl⟩
  | cons q r =>
    refine ⟨fun h => ?_, fun h => by cases h⟩
    unfold State.bestCredit at h
    split at h
    · split at h <;> cases h
    · cases h

/-- The queue chosen from a list: no other has more credit, and none before it has as much. -/
def State.Best (s : State) (l : List Nat) (g : Nat) : Prop :=
  g ∈ l ∧ ∀ q ∈ l, s.creditNow q ≤ s.creditNow g ∧ (q < g → s.creditNow q < s.creditNow g)

theorem best_head {q : Nat} {r : List Nat} (hrise : ∀ x ∈ r, q < x) (hle : ∀ x ∈ r, s.creditNow x ≤ s.creditNow q) : s.Best (q :: r) q := by
  refine ⟨List.mem_cons_self, fun x hx => ?_⟩
  obtain rfl | hx := List.mem_cons.1 hx
  · exact ⟨le_rfl, fun h => absurd h (lt_irrefl _)⟩
  · exact ⟨hle x hx, fun h => absurd h (hrise x hx).not_gt⟩

theorem best_tail {q g : Nat} {r : List Nat} (h : s.Best r g) (hlt : s.creditNow q < s.creditNow g) : s.Best (q :: r) g := by
  refine ⟨List.mem_cons_of_mem _ h.1, fun x hx => ?_⟩
  obtain rfl | hx := List.mem_cons.1 hx
  · exact ⟨hlt.le, fun _ => hlt⟩
  · exact h.2 x hx

theorem bestCredit_best {l : List Nat} (hl : l.Pairwise (· < ·)) {g : Nat} (h : s.bestCredit l = some g) : s.Best l g := by
  induction l generalizing g with
  | nil => cases h
  | cons q r ih =>
    obtain ⟨hrise, hr⟩ := List.pairwise_cons.1 hl
    unfold State.bestCredit at h
    split at h
    next g' hg' =>
      have hbest := ih hr hg'
      split at h
      next hlt => cases h; exact best_tail s hbest hlt
      next hge => cases h; exact best_head s hrise fun x hx => (hbest.2 x hx).1.trans (not_lt.1 hge)
    next hnone =>
      cases h
      obtain rfl := (bestCredit_eq_none s).1 hnone
      exact best_head s hrise (by simp)

theorem arbWinner_tenant (h : s.eligible 0 = false) : s.arbWinner = s.bestCredit s.eligibleTenants := by
  unfold State.arbWinner
  rw [if_neg (by simp [h])]

theorem arbWinner_eq_none : s.arbWinner = none ↔ ∀ q < 64, s.eligible q = false := by
  cases h0 : s.eligible 0 with
  | true =>
    unfold State.arbWinner
    rw [if_pos h0]
    exact ⟨fun h => (by cases h), fun h => (by rw [h 0 (by decide)] at h0; cases h0)⟩
  | false =>
    rw [arbWinner_tenant s h0, bestCredit_eq_none, List.eq_nil_iff_forall_not_mem]
    refine ⟨fun h q hq => ?_, fun h q hq => ?_⟩
    · rcases Nat.eq_zero_or_pos q with rfl | hpos
      · exact h0
      · exact Bool.eq_false_iff.2 fun he => h q ((mem_eligibleTenants s).2 ⟨hpos, hq, he⟩)
    · obtain ⟨-, h64, he⟩ := (mem_eligibleTenants s).1 hq
      rw [h q h64] at he
      cases he

/-! ## The credits -/

/-- Queues given their credits one after another, each its own value. -/
theorem foldl_credit_value (f : Nat → Int) (l : List Nat) (s : State) (r : Nat) :
    ((l.foldl (fun t q => t.setQueue q { t.queue q with credit := f q }) s).queue r).credit = if r ∈ l then f r else (s.queue r).credit := by
  induction l generalizing s with
  | nil => rfl
  | cons q l ih =>
    rw [List.foldl_cons, ih]
    by_cases hl : r ∈ l
    · rw [if_pos hl, if_pos (List.mem_cons_of_mem _ hl)]
    · rw [if_neg hl]
      by_cases hq : r = q
      · subst hq
        rw [State.queue_setQueue_self, if_pos List.mem_cons_self]
      · rw [State.queue_setQueue_ne _ _ hq, if_neg (by simp [hq, hl])]

end

/-- Settles O11: the winner is the first of the greatest credits among the eligible tenants, which are listed in rising order. -/
theorem arbitrationGrantsGreatestCredit : Obligations.ArbitrationGrantsGreatestCredit := by
  intro s
  refine ⟨fun h0 => if_pos h0, fun h0 g hg => ?_, arbWinner_eq_none s, fun g q _ => ?_⟩
  · obtain ⟨hmem, hbest⟩ := bestCredit_best s (eligibleTenants_rising s) ((arbWinner_tenant s h0).symm.trans hg)
    obtain ⟨h1, h64, he⟩ := (mem_eligibleTenants s).1 hmem
    exact ⟨h1, h64, he, fun q hq1 hq64 hqe => hbest q ((mem_eligibleTenants s).2 ⟨hq1, hq64, hqe⟩)⟩
  · unfold State.settleCredits
    by_cases hg : g = 0
    · rw [if_pos hg, if_pos hg]
    · rw [if_neg hg, if_neg hg]
      dsimp only
      rw [foldl_credit_value]

end Sys2Proof.Machine
end

section
/-! PROOFS. The doorbells (R96 to R100, R116 to R118): whom a write reaches, and what ORDER_TAIL, TALLY_HEAD and CANCEL do to their queue. -/

namespace Sys2Proof.Machine

/-! ## Whom a doorbell reaches -/

section
variable {s : State} {fn q off skew size : Nat} {live : Bool} {f : State → State}

theorem doorbell_reaches (hr : s.isReady = true) (hskew : skew % 4 = 0) (hown : s.ownsPage fn q = true) (hlive : live = true) :
    s.doorbell fn q off skew 4 live f = f s := by
  simp [State.doorbell, hr, hskew, hown, hlive]

theorem doorbell_stray (hr : s.isReady = true) (hskew : skew % 4 = 0) (h : (s.ownsPage fn q && live) = false) :
    s.doorbell fn q off skew 4 live f = s := by
  simp [State.doorbell, hr, hskew, h]

theorem doorbell_misshapen (hr : s.isReady = true) (h : size ≠ 4 ∨ skew % 4 ≠ 0) :
    s.doorbell fn q off skew size live f = s.logCause 0x101 (q * 0x1000 + off + skew % 4 + size * 2 ^ 56) (s.fnAllot fn) := by
  unfold State.doorbell
  rw [if_neg (by simp [hr]), if_pos h]

end

section
variable {s t : State} {fn q skew size v : Nat} (hq : q < 64) (hfn : fn < 32) (hs : s.stores = [])
include hq hfn hs

theorem orderTail_next (h : s.doorbell fn q 0 skew size (s.queueLive q) (ringTail q v) = t) (hk : Untouched s t) :
    exec (.orderTail fn q skew size v) s = .next t := (if_pos hq).trans (unit_next hfn hs h hk)

theorem tallyHead_next (h : s.doorbell fn q 4 skew size (s.queueLive q || (s.queue q).closing) (freeTallies q v) = t) (hk : Untouched s t) :
    exec (.tallyHead fn q skew size v) s = .next t := (if_pos hq).trans (unit_next hfn hs h hk)

theorem cancel_next (h : s.doorbell fn q 8 skew size (s.queueLive q) (cancelMark q v) = t) (hk : Untouched s t) :
    exec (.cancel fn q skew size v) s = .next t := (if_pos hq).trans (unit_next hfn hs h hk)

end

/-! ## Stray doorbells -/

/-- Settles O19: a doorbell that reaches no queue has no effect; one of a wrong shape is a log entry. -/
theorem strayDoorbellsChangeNoQueue : Obligations.StrayDoorbellsChangeNoQueue := by
  intro fn q v s hfn hq hs hr
  refine ⟨fun skew hskew h => ⟨?_, ?_, fun hclosed => ?_⟩, fun size skew h c hc => ?_⟩
  · exact orderTail_next hq hfn hs (doorbell_stray hr hskew h) (.refl s)
  · exact cancel_next hq hfn hs (doorbell_stray hr hskew h) (.refl s)
  · refine tallyHead_next hq hfn hs (doorbell_stray hr hskew ?_) (.refl s)
    cases hown : s.ownsPage fn q with
    | false => rfl
    | true =>
      have hlive : s.queueLive q = false := by simpa [hown] using h
      have hclosing : (s.queue q).closing = false := by simpa [hown] using hclosed
      rw [hlive, hclosing]
      rfl
  · have hlogged : ∀ value allot, ∃ t, s.logCause 0x101 value allot = t ∧ Untouched s t ∧ t.queues = s.queues ∧
        t = { s with regs := t.regs, log := t.log } ∧ ∃ e, t.log.getLast? = some e ∧ e.cause = 0x101 ∧ e.seq = s.get F.SLU_LOG_NEXT :=
      fun value allot => ⟨_, rfl, logCause_untouched s _ _ _, by rw [logCause_eq], logCause_eq s _ _ _, _, logEntry_last s _, rfl, rfl⟩
    simp only [List.mem_cons, List.not_mem_nil, or_false] at hc
    obtain rfl | rfl | rfl := hc
    · obtain ⟨t, ht, hk, hrest⟩ := hlogged (q * 0x1000 + 0 + skew % 4 + size * 2 ^ 56) (s.fnAllot fn)
      exact ⟨t, orderTail_next hq hfn hs ((doorbell_misshapen hr h).trans ht) hk, hrest⟩
    · obtain ⟨t, ht, hk, hrest⟩ := hlogged (q * 0x1000 + 4 + skew % 4 + size * 2 ^ 56) (s.fnAllot fn)
      exact ⟨t, tallyHead_next hq hfn hs ((doorbell_misshapen hr h).trans ht) hk, hrest⟩
    · obtain ⟨t, ht, hk, hrest⟩ := hlogged (q * 0x1000 + 8 + skew % 4 + size * 2 ^ 56) (s.fnAllot fn)
      exact ⟨t, cancel_next hq hfn hs ((doorbell_misshapen hr h).trans ht) hk, hrest⟩

/-! ## Halts that are no order's own refusal (R97) -/

/-- A queue halts with a tally of its own. -/
def State.haltAlone (s : State) (q cause value : Nat) : State := (s.haltTally q cause value).haltQueue q cause

section
variable (s : State) (q cause value : Nat)

theorem haltAlone_queue : (s.haltAlone q cause value).queue q = { s.queue q with
    out := (s.queue q).out ++ [⟨0, 0, stBadLength, false, false, false, 0, s.wck.cycle, detailOf cause value, s.wck.turn, (s.queue q).bound⟩]
    fetched := none, short := false, tied := false } := by
  unfold State.haltAlone State.haltTally
  rw [haltQueue_queue_self, queue_pushTally]

theorem haltAlone_queue_ne {r : Nat} (h : r ≠ q) : (s.haltAlone q cause value).queue r = s.queue r := by
  unfold State.haltAlone State.haltTally
  rw [haltQueue_queue_ne _ _ _ h, queue_pushTally_ne _ _ h]

theorem haltAlone_get {f : Fld} (h : f.reg ≠ 0x31024 + 0x40 * q) : (s.haltAlone q cause value).get f = s.get f := by
  unfold State.haltAlone State.haltQueue
  rw [State.get_put_reg _ (F.DR_QSTAT_HALT_CAUSE q) _ _ h, State.get_put_reg _ (F.DR_QSTAT_STATE q) _ _ h]
  rfl

theorem haltAlone_onQueues : OnQueues s (s.haltAlone q cause value) := ((OnQueues.refl s).pushTally q _).haltQueue q cause

end

/-! ## ORDER_TAIL -/

/-- The tail is moved, and what was published short may be whole now. -/
def State.moveTail (s : State) (q v : Nat) : State := (s.put (F.DR_QPTR_TAIL q) v).setQueue q { s.queue q with short := false }

section
variable (s : State) (q : Nat) {v : Nat}

theorem moveTail_tail (hv : v < 2 ^ 32) : (s.moveTail q v).get (F.DR_QPTR_TAIL q) = v :=
  State.get_put_fits s (by show 32 + 32 ≤ 64; decide) hv

theorem moveTail_head : (s.moveTail q v).get (F.DR_QPTR_HEAD q) = s.get (F.DR_QPTR_HEAD q) :=
  State.get_put_beside s (F.DR_QPTR_TAIL q) _ v (by show 32 + 32 ≤ 64; decide) (.inr (by show 0 + 32 ≤ 32; decide))

theorem moveTail_get {f : Fld} (h : f.reg ≠ 0x31018 + 0x40 * q) : (s.moveTail q v).get f = s.get f :=
  State.get_put_reg s (F.DR_QPTR_TAIL q) f v h

theorem moveTail_onQueues : OnQueues s (s.moveTail q v) := ((OnQueues.refl s).put _ v).setQueue q _

/-- More units than the ring holds would be published on a running queue, by a new value. -/
def State.Overrun (s : State) (q v : Nat) : Prop :=
  v ≠ s.get (F.DR_QPTR_TAIL q) ∧ s.get (F.DR_QSTAT_STATE q) = 1 ∧ s.ringSize q < (v + 2 ^ 32 - s.get (F.DR_QPTR_HEAD q)) % 2 ^ 32

theorem moveTail_published (hv : v < 2 ^ 32) : (s.moveTail q v).published q = (v + 2 ^ 32 - s.get (F.DR_QPTR_HEAD q)) % 2 ^ 32 := by
  unfold State.published
  rw [moveTail_tail s q hv, moveTail_head]

theorem moveTail_state : (s.moveTail q v).get (F.DR_QSTAT_STATE q) = s.get (F.DR_QSTAT_STATE q) :=
  moveTail_get s q (by show 0x31024 + 0x40 * q ≠ 0x31018 + 0x40 * q; omega)

theorem moveTail_ringSize : (s.moveTail q v).ringSize q = s.ringSize q :=
  congrArg (2 ^ ·) (moveTail_get s q (by show 0x31008 + 0x40 * q ≠ 0x31018 + 0x40 * q; omega))

variable {s q} {w : Nat}

theorem ringTail_overrun (h : s.Overrun q (w % 2 ^ 32)) : ringTail q w s = (s.moveTail q (w % 2 ^ 32)).haltAlone q 0x26 (w % 2 ^ 32) := by
  obtain ⟨hnew, hstate, hsize⟩ := h
  unfold ringTail
  dsimp only
  rw [if_neg hnew]
  refine if_pos ⟨(moveTail_state s q).trans hstate, ?_⟩
  change (s.moveTail q (w % 2 ^ 32)).ringSize q < (s.moveTail q (w % 2 ^ 32)).published q
  rwa [moveTail_ringSize, moveTail_published s q (Nat.mod_lt _ (by decide))]

theorem ringTail_repeated (h : w % 2 ^ 32 = s.get (F.DR_QPTR_TAIL q)) : ringTail q w s = s := if_pos h

theorem ringTail_within (hnew : w % 2 ^ 32 ≠ s.get (F.DR_QPTR_TAIL q)) (h : ¬ s.Overrun q (w % 2 ^ 32)) :
    ringTail q w s = s.moveTail q (w % 2 ^ 32) := by
  unfold ringTail
  dsimp only
  rw [if_neg hnew]
  refine if_neg fun hfull => h ⟨hnew, ?_, ?_⟩
  · exact (moveTail_state s q).symm.trans hfull.1
  · rw [← moveTail_ringSize s q (v := w % 2 ^ 32), ← moveTail_published s q (Nat.mod_lt w (by decide))]
    exact hfull.2

end

/-- What ORDER_TAIL does to a queue. -/
structure TailMoved (s t : State) (q v : Nat) : Prop where
  tail : t.get (F.DR_QPTR_TAIL q) = v
  head : t.get (F.DR_QPTR_HEAD q) = s.get (F.DR_QPTR_HEAD q)
  halts : s.Overrun q v → t.get (F.DR_QSTAT_STATE q) = 2 ∧ t.get (F.DR_QSTAT_HALT_CAUSE q) = 0x26 ∧ (t.queue q).fetched = none ∧
    (t.queue q).out = (s.queue q).out ++
      [⟨0, 0, stBadLength, false, false, false, 0, s.wck.cycle, detailOf 0x26 v, s.wck.turn, (s.queue q).bound⟩]
  stands : ¬ s.Overrun q v → t.get (F.DR_QSTAT_STATE q) = s.get (F.DR_QSTAT_STATE q) ∧ (t.queue q).out = (s.queue q).out
  others : ∀ r, r ≠ q → t.queue r = s.queue r
  rest : OnQueues s t

theorem ringTail_moved (q w : Nat) (s : State) : TailMoved s (ringTail q w s) q (w % 2 ^ 32) := by
  have hv : w % 2 ^ 32 < 2 ^ 32 := Nat.mod_lt w (by decide)
  have hself : (s.moveTail q (w % 2 ^ 32)).queue q = { s.queue q with short := false } := State.queue_setQueue_self _ q _
  have hother : ∀ r, r ≠ q → (s.moveTail q (w % 2 ^ 32)).queue r = s.queue r := fun r hr => State.queue_setQueue_ne _ _ hr
  by_cases hfull : s.Overrun q (w % 2 ^ 32)
  · have hptr : ∀ f : Fld, f.reg = 0x31018 + 0x40 * q → (s.moveTail q (w % 2 ^ 32)).get f =
        ((s.moveTail q (w % 2 ^ 32)).haltAlone q 0x26 (w % 2 ^ 32)).get f := fun f hf => (haltAlone_get _ q _ _ (by omega)).symm
    rw [ringTail_overrun hfull]
    refine ⟨?_, ?_, fun _ => ⟨haltQueue_state _ q _, haltQueue_cause _ q _, ?_, ?_⟩, fun h => absurd hfull h, fun r hr => ?_,
      (moveTail_onQueues s q).trans (haltAlone_onQueues _ q _ _)⟩
    · rw [← hptr _ rfl, moveTail_tail s q hv]
    · rw [← hptr _ rfl, moveTail_head]
    · rw [haltAlone_queue]
    · rw [haltAlone_queue, hself, (moveTail_onQueues s q).wck]
    · rw [haltAlone_queue_ne _ _ _ _ hr, hother r hr]
  · by_cases hnew : w % 2 ^ 32 = s.get (F.DR_QPTR_TAIL q)
    · rw [ringTail_repeated hnew]
      exact ⟨hnew.symm, rfl, fun h => absurd h hfull, fun _ => ⟨rfl, rfl⟩, fun _ _ => rfl, .refl s⟩
    · rw [ringTail_within hnew hfull]
      exact ⟨moveTail_tail s q hv, moveTail_head s q, fun h => absurd h hfull, fun _ => ⟨moveTail_state s q, by rw [hself]⟩, hother,
        moveTail_onQueues s q⟩

/-! ## TALLY_HEAD -/

/-- How far beyond h a number stands. -/
def State.beyondHead (s : State) (q n : Nat) : Nat := (n + 2 ^ 32 - (s.queue q).tallyHead) % 2 ^ 32

theorem freeTallies_accepted {s : State} {q w : Nat} (h : s.beyondHead q (w % 2 ^ 32) ≤ s.beyondHead q ((s.queue q).written % 2 ^ 32)) :
    freeTallies q w s = s.setQueue q { s.queue q with tallyHead := w % 2 ^ 32 } := if_pos h

theorem freeTallies_refused {s : State} {q w : Nat} (h : s.beyondHead q ((s.queue q).written % 2 ^ 32) < s.beyondHead q (w % 2 ^ 32)) :
    freeTallies q w s = s.logCause 0x103 (w % 2 ^ 32) (s.queue q).bound q := if_neg h.not_ge

/-- A log entry of a queue's doorbell. -/
theorem logCause_subject (s : State) (cause value allot subject : Nat) : let t := s.logCause cause value allot subject
    t = { s with regs := t.regs, queues := t.queues, log := t.log } ∧ t.queues = s.queues ∧ ∃ e, t.log.getLast? = some e ∧ e.cause = cause ∧ e.value = value := by
  obtain ⟨_, _, h⟩ := logEntry_eq s ⟨0, 0, 0, allot, 0, false, false, cause, subject, 0xFFFFFFFF, value⟩
  refine ⟨?_, ?_, _, logEntry_last s _, rfl, rfl⟩
  · rw [State.logCause, h]
  · rw [State.logCause, h]

/-- Between two states only registers, the records of queues and the log differ. -/
def OnQueuesAndLog (s t : State) : Prop := t = { s with regs := t.regs, queues := t.queues, log := t.log }

theorem OnQueues.andLog {s t : State} (h : OnQueues s t) : OnQueuesAndLog s t := by
  unfold OnQueuesAndLog
  rw [h]

theorem OnQueuesAndLog.untouched {s t : State} (h : OnQueuesAndLog s t) : Untouched s t := by
  rw [h]
  exact ⟨rfl, rfl, rfl⟩

/-! ## CANCEL -/

/-- The number has been passed: it stands within 2^31 below the one expected. -/
def State.isPast (s : State) (q v : Nat) : Prop := 2 ^ 31 ≤ (v + 2 ^ 32 - s.get (F.DR_QSEQ_EXPECT q)) % 2 ^ 32

section
variable {s : State} {q w : Nat}

/-- The tally of a cancel that comes late. -/
def State.lateCancel (s : State) (q v : Nat) : Tally :=
  let target := smGet (0, 255) (s.queue q).past v
  ⟨v, target.1, stTooLate, true, false, false, 0, 0, detailOf 0x31 (b2n (!(s.inflight.any fun o => o.q == q && o.seq == v))), 0, target.2⟩

theorem cancelMark_late (h : s.isPast q (w % 2 ^ 32)) :
    cancelMark q w s = (s.bump F.DR_COUNTS_TOO_LATE).pushTally q (s.lateCancel q (w % 2 ^ 32)) := if_pos h

theorem cancelMark_repeated (h : ¬ s.isPast q (w % 2 ^ 32)) (hm : w % 2 ^ 32 ∈ (s.queue q).marks) : cancelMark q w s = s :=
  (if_neg h).trans (if_pos (by simpa using hm))

theorem cancelMark_marks (h : ¬ s.isPast q (w % 2 ^ 32)) (hm : w % 2 ^ 32 ∉ (s.queue q).marks) (h8 : (s.queue q).marks.length < 8) :
    cancelMark q w s = (s.setQueue q { s.queue q with marks := (s.queue q).marks ++ [w % 2 ^ 32] }).put (F.DR_QSTAT_MARKS q)
      ((s.queue q).marks.length + 1) :=
  (if_neg h).trans ((if_neg (by simpa using hm)).trans (if_pos h8))

theorem cancelMark_full (h : ¬ s.isPast q (w % 2 ^ 32)) (hm : w % 2 ^ 32 ∉ (s.queue q).marks) (h8 : 8 ≤ (s.queue q).marks.length) :
    cancelMark q w s = s.logCause 0x104 (w % 2 ^ 32) (s.queue q).bound q :=
  (if_neg h).trans ((if_neg (by simpa using hm)).trans (if_neg h8.not_gt))

end

theorem bits_detailOf (cause value : Nat) (h : cause < 256) : bits (detailOf cause value) 32 8 = cause := by
  unfold bits detailOf
  rw [Nat.add_mul_div_left _ _ (by decide), Nat.div_eq_of_lt (Nat.mod_lt _ (by decide)), Nat.zero_add]
  exact Nat.mod_eq_of_lt h

/-- What CANCEL does to a queue. -/
structure CancelRings (s t : State) (q v : Nat) : Prop where
  late : s.isPast q v → (t.queue q).marks = (s.queue q).marks ∧ ∃ e, (t.queue q).out = (s.queue q).out ++ [e] ∧ e.seq = v ∧
    e.status = stTooLate ∧ e.cxl = true ∧ bits e.detail 32 8 = 0x31 ∧ (e.op, e.allot) = smGet (0, 255) (s.queue q).past v
  repeated : ¬ s.isPast q v → v ∈ (s.queue q).marks → t = s
  marks : ¬ s.isPast q v → v ∉ (s.queue q).marks → (s.queue q).marks.length < 8 → (t.queue q).marks = (s.queue q).marks ++ [v] ∧
    t.get (F.DR_QSTAT_MARKS q) = (s.queue q).marks.length + 1 ∧ (t.queue q).out = (s.queue q).out
  full : ¬ s.isPast q v → v ∉ (s.queue q).marks → 8 ≤ (s.queue q).marks.length →
    t.queues = s.queues ∧ ∃ e, t.log.getLast? = some e ∧ e.cause = 0x104 ∧ e.value = v
  others : ∀ r, r ≠ q → t.queue r = s.queue r
  rest : OnQueuesAndLog s t

theorem cancelMark_rings (q w : Nat) (s : State) : CancelRings s (cancelMark q w s) q (w % 2 ^ 32) := by
  by_cases hpast : s.isPast q (w % 2 ^ 32)
  · rw [cancelMark_late hpast]
    refine ⟨fun _ => ?_, fun h => absurd hpast h, fun h => absurd hpast h, fun h => absurd hpast h, fun r hr => ?_,
      (((OnQueues.refl s).bump _ _).pushTally q _).andLog⟩
    · rw [queue_pushTally, State.queue_bump]
      exact ⟨rfl, _, rfl, rfl, rfl, rfl, bits_detailOf _ _ (by decide), rfl⟩
    · rw [queue_pushTally_ne _ _ hr, State.queue_bump]
  by_cases hm : w % 2 ^ 32 ∈ (s.queue q).marks
  · rw [cancelMark_repeated hpast hm]
    exact ⟨fun h => absurd h hpast, fun _ _ => rfl, fun _ h => absurd hm h, fun _ h => absurd hm h, fun _ _ => rfl, (OnQueues.refl s).andLog⟩
  by_cases h8 : (s.queue q).marks.length < 8
  · rw [cancelMark_marks hpast hm h8]
    refine ⟨fun h => absurd h hpast, fun _ h => absurd h hm, fun _ _ _ => ⟨?_, ?_, ?_⟩, fun _ _ h => absurd h8 h.not_gt, fun r hr => ?_,
      (((OnQueues.refl s).setQueue q _).put _ _).andLog⟩
    · rw [State.queue_put, State.queue_setQueue_self]
    · refine State.get_put_fits _ (by show 24 + 4 ≤ 64; decide) ?_
      show _ < 2 ^ 4
      omega
    · rw [State.queue_put, State.queue_setQueue_self]
    · rw [State.queue_put, State.queue_setQueue_ne _ _ hr]
  · rw [cancelMark_full hpast hm (not_lt.1 h8)]
    obtain ⟨hrest, hqueues, hlast⟩ := logCause_subject s 0x104 (w % 2 ^ 32) (s.queue q).bound q
    exact ⟨fun h => absurd h hpast, fun _ h => absurd h hm, fun _ _ h => absurd h h8, fun _ _ _ => ⟨hqueues, hlast⟩,
      fun r _ => queue_congr hqueues r, hrest⟩

/-! ## O18 -/

/-- Settles O18: each doorbell reaches its queue, whose rule says what becomes of it. -/
theorem doorbellsActOnTheirQueue : Obligations.DoorbellsActOnTheirQueue := by
  intro fn q skew v s hskew hfn hq hs hr hown hlive
  refine ⟨?tail, ?head, ?cancel⟩
  case tail =>
    obtain ⟨htail, hhead, hhalts, hstands, hothers, hrest⟩ := ringTail_moved q v s
    exact ⟨_, orderTail_next hq hfn hs (doorbell_reaches hr hskew hown hlive) hrest.untouched, htail, hhead, ⟨hhalts, hstands⟩, hothers,
      hrest, hrest.untouched.rd⟩
  case head =>
    have hreach := fun t (h : freeTallies q v s = t) (hk : Untouched s t) =>
      tallyHead_next hq hfn hs ((doorbell_reaches hr hskew hown (by rw [hlive]; rfl)).trans h) hk
    rcases le_or_gt (s.beyondHead q (v % 2 ^ 32)) (s.beyondHead q ((s.queue q).written % 2 ^ 32)) with hle | hlt
    · have hrest := (OnQueues.refl s).setQueue q { s.queue q with tallyHead := v % 2 ^ 32 }
      exact ⟨_, hreach _ (freeTallies_accepted hle) hrest.untouched,
        ⟨fun _ => ⟨by rw [State.queue_setQueue_self], rfl, rfl⟩, fun h => absurd h hle.not_gt⟩,
        fun r h => State.queue_setQueue_ne _ _ h, hrest.andLog, hrest.untouched.rd⟩
    · obtain ⟨hrest, hqueues, hlast⟩ := logCause_subject s 0x103 (v % 2 ^ 32) (s.queue q).bound q
      have hk : Untouched s _ := OnQueuesAndLog.untouched hrest
      exact ⟨_, hreach _ (freeTallies_refused hlt) hk, ⟨fun h => absurd h hlt.not_ge, fun _ => ⟨hqueues, hlast⟩⟩,
        fun r _ => queue_congr hqueues r, hrest, hk.rd⟩
  case cancel =>
    obtain ⟨hlate, hrepeated, hmarks, hfull, hothers, hrest⟩ := cancelMark_rings q v s
    exact ⟨_, cancel_next hq hfn hs (doorbell_reaches hr hskew hown hlive) hrest.untouched, ⟨hlate, hrepeated, hmarks, hfull⟩, hothers,
      hrest, hrest.untouched.rd⟩

end Sys2Proof.Machine
end

section
/-! PROOFS. The controls of queues (R95, R97, R107, R113, R118, R119): resuming, queue 0, the CRC buckets, the PARTIAL timer; and the fetch
of an order (R96, R97, R113). -/

namespace Sys2Proof.Machine

/-! ## A queue starts, a queue runs again -/

/-- What a queue shows right after its start. -/
structure QueueStarts (s t : State) (q bound : Nat) : Prop where
  enable : t.get (F.DR_QCTL_ENABLE q) = 1
  state : t.get (F.DR_QSTAT_STATE q) = 1
  head : t.get (F.DR_QPTR_HEAD q) = 0
  tail : t.get (F.DR_QPTR_TAIL q) = 0
  expect : t.get (F.DR_QSEQ_EXPECT q) = 0
  self : t.queue q = { Queue.reset with bound := bound, out := (s.queue q).out }
  others : ∀ r, r ≠ q → t.queue r = s.queue r
  rest : OnQueues s t

theorem startQueue_starts (s : State) (q bound : Nat) : QueueStarts s (s.startQueue q bound) q bound := by
  have hrest : OnQueues s (s.startQueue q bound) := ((((((OnQueues.refl s).setQueue q _).put _ 0).put _ 0).put _ 0).put _ 0).put _ 1 |>.put _ 1
  refine ⟨?_, ?_, ?_, ?_, ?_, ?_, fun r hr => ?_, hrest⟩ <;> unfold State.startQueue <;> dsimp only
  iterate 5
    simp [State.get_put_apart, State.get_put_self, F.DR_QCTL_ENABLE, F.DR_QSTAT_STATE, F.DR_QPTR_HEAD, F.DR_QPTR_TAIL, F.DR_QSEQ_EXPECT,
      F.DR_QSTAT_MARKS]
  · simp only [State.queue_put, State.queue_setQueue_self]
  · simp only [State.queue_put, State.queue_setQueue_ne _ _ hr]

/-- What a halted queue shows once it runs again. -/
structure Resumed (s t : State) (q : Nat) : Prop where
  head : t.get (F.DR_QPTR_HEAD q) = s.get (F.DR_QPTR_TAIL q)
  state : t.get (F.DR_QSTAT_STATE q) = 1
  count : t.get (F.DR_QSTAT_MARKS q) = 0
  self : t.queue q = { s.queue q with fetched := none, short := false, tied := false, credit := 0, marks := [] }
  others : ∀ r, r ≠ q → t.queue r = s.queue r
  rest : OnQueues s t

theorem resumeQueue_resumed {s : State} {q : Nat} (hhalted : s.get (F.DR_QSTAT_STATE q) = 2) (hrider : s.on F.SLU_STATUS_WALKER_HALT = false) :
    Resumed s (resumeQueue q s) q := by
  have hrun : resumeQueue q s = (((s.setQueue q { s.queue q with fetched := none, short := false, tied := false, credit := 0, marks := [] }).put
      (F.DR_QPTR_HEAD q) (s.get (F.DR_QPTR_TAIL q))).put (F.DR_QSTAT_MARKS q) 0).put (F.DR_QSTAT_STATE q) 1 :=
    if_pos ⟨hhalted, by simp [hrider]⟩
  have htail : s.get (F.DR_QPTR_TAIL q) < 2 ^ 32 := s.get_lt _
  rw [hrun]
  refine ⟨?_, ?_, ?_, ?_, fun r hr => ?_, (((OnQueues.refl s).setQueue q _).put _ _).put _ _ |>.put _ _⟩
  · rw [State.get_put_reg _ (F.DR_QSTAT_STATE q) _ _ (by show 0x31018 + 0x40 * q ≠ 0x31024 + 0x40 * q; omega),
      State.get_put_reg _ (F.DR_QSTAT_MARKS q) _ _ (by show 0x31018 + 0x40 * q ≠ 0x31024 + 0x40 * q; omega)]
    exact State.get_put_fits _ (by show 0 + 32 ≤ 64; decide) htail
  · exact State.get_put_fits _ (by show 0 + 2 ≤ 64; decide) (by show 1 < 2 ^ 2; decide)
  · rw [State.get_put_beside _ (F.DR_QSTAT_STATE q) _ _ (by show 0 + 2 ≤ 64; decide) (.inl (by show 0 + 2 ≤ 24; decide))]
    exact State.get_put_fits _ (by show 24 + 4 ≤ 64; decide) (by show 0 < 2 ^ 4; decide)
  · simp only [State.queue_put, State.queue_setQueue_self]
  · simp only [State.queue_put, State.queue_setQueue_ne _ _ hr]

/-! ## Queue 0 (R95) -/

/-- Queue 0 ends its fetching and drains. -/
structure Disabled (s t : State) : Prop where
  enable : t.get (F.DR_QCTL_ENABLE 0) = 0
  state : t.get (F.DR_QSTAT_STATE 0) = 3
  fetched : (t.queue 0).fetched = none
  out : (t.queue 0).out = (s.queue 0).out
  others : ∀ r, r ≠ 0 → t.queue r = s.queue r
  rest : OnQueues s t

theorem enableQueue0_starts {s : State} (h3 : s.get (F.DR_QSTAT_STATE 0) ≠ 3) (hlive : s.queueLive 0 = false) :
    enableQueue0 s = s.startQueue 0 255 := (if_neg h3).trans (if_neg (by simp [hlive]))

theorem disableQueue0_disabled {s : State} (h3 : s.get (F.DR_QSTAT_STATE 0) ≠ 3) (hlive : s.queueLive 0 = true) :
    Disabled s (disableQueue0 s) := by
  have hrun : disableQueue0 s = ((s.setQueue 0 { s.queue 0 with fetched := none, short := false, tied := false, before := (s.queue 0).out.length }).put
      (F.DR_QCTL_ENABLE 0) 0).put (F.DR_QSTAT_STATE 0) 3 := (if_neg h3).trans (if_pos hlive)
  rw [hrun]
  refine ⟨?_, State.get_put_fits _ (by decide) (by decide), ?_, ?_, fun r hr => ?_, ((OnQueues.refl s).setQueue 0 _).put _ _ |>.put _ _⟩
  · rw [State.get_put_reg _ (F.DR_QSTAT_STATE 0) _ _ (by decide)]
    exact State.get_put_fits _ (by decide) (by decide)
  · rw [State.queue_put, State.queue_put, State.queue_setQueue_self]
  · rw [State.queue_put, State.queue_put, State.queue_setQueue_self]
  · rw [State.queue_put, State.queue_put, State.queue_setQueue_ne _ _ hr]

/-! ## CRC buckets (R107) -/

/-- The CRC bucket of one queue falls by 1. -/
def State.decay (s : State) (q : Nat) : State := s.put (F.DR_QSTAT_CRC_BUCKET q) (s.get (F.DR_QSTAT_CRC_BUCKET q) - 1)

section
variable (s : State) (q : Nat)

theorem decay_bucket : (s.decay q).get (F.DR_QSTAT_CRC_BUCKET q) = s.get (F.DR_QSTAT_CRC_BUCKET q) - 1 := by
  refine State.get_put_fits s (by show 16 + 8 ≤ 64; decide) ?_
  have := s.get_lt (F.DR_QSTAT_CRC_BUCKET q)
  omega

theorem decay_other {r : Nat} (h : r ≠ q) : (s.decay q).get (F.DR_QSTAT_CRC_BUCKET r) = s.get (F.DR_QSTAT_CRC_BUCKET r) :=
  State.get_put_reg s (F.DR_QSTAT_CRC_BUCKET q) _ _ (by show 0x31024 + 0x40 * r ≠ 0x31024 + 0x40 * q; omega)

theorem decay_state (r : Nat) : (s.decay q).get (F.DR_QSTAT_STATE r) = s.get (F.DR_QSTAT_STATE r) :=
  State.get_put_apart s _ (by show 16 + 8 ≤ 64; decide) fun _ => .inr (by show 0 + 2 ≤ 16; decide)

end

/-- The buckets of a list of queues fall, each once. -/
theorem foldl_decay {l : List Nat} (hl : l.Nodup) (s : State) (q : Nat) : (l.foldl State.decay s).get (F.DR_QSTAT_CRC_BUCKET q) =
    (if q ∈ l then s.get (F.DR_QSTAT_CRC_BUCKET q) - 1 else s.get (F.DR_QSTAT_CRC_BUCKET q)) ∧
    (l.foldl State.decay s).get (F.DR_QSTAT_STATE q) = s.get (F.DR_QSTAT_STATE q) ∧
    ∃ r, l.foldl State.decay s = { s with regs := r } := by
  induction l generalizing s with
  | nil => exact ⟨rfl, rfl, _, rfl⟩
  | cons x l ih =>
    obtain ⟨hx, hl⟩ := List.nodup_cons.1 hl
    obtain ⟨hbucket, hstate, r, hrest⟩ := ih hl (s.decay x)
    refine ⟨?_, hstate.trans (decay_state s x q), r, hrest⟩
    rw [List.foldl_cons, hbucket]
    by_cases hq : q = x
    · subst hq
      rw [if_neg hx, if_pos List.mem_cons_self, decay_bucket]
    · rw [decay_other s x hq]
      simp [hq]

/-! ## O20 -/

section
variable {s : State} {q : Nat} (hstate : s.get (F.DR_QSTAT_STATE q) = 1) (hshort : (s.queue q).short = true)
include hstate hshort

theorem partialHalt_halts : partialHalt q false s = s.haltAlone q 0x25 (s.published q) := if_pos ⟨hstate, hshort⟩

theorem partialHalt_ties : partialHalt q true s = s.setQueue q { s.queue q with tied := true } := if_pos ⟨hstate, hshort⟩

end

section
variable {s t : State} (hs : s.stores = []) (hk : Untouched s t)
include hs hk

theorem queue0Enable_next (hr : s.isReady = true) (h : enableQueue0 s = t) : exec .queue0Enable s = .next t :=
  run_next (f := fun s => if s.isReady then enableQueue0 s else s) hs ((if_pos hr).trans h) hk

theorem queue0Disable_next (hr : s.isReady = true) (h : disableQueue0 s = t) : exec .queue0Disable s = .next t :=
  run_next (f := fun s => if s.isReady then disableQueue0 s else s) hs ((if_pos hr).trans h) hk

theorem crcBucketDecay_next (h : (List.range 64).foldl State.decay s = t) : exec .crcBucketDecay s = .next t :=
  run_next (f := (List.range 64).foldl State.decay) hs h hk

end

theorem queue0DrainEnd_stops {s : State} (hs : s.stores = []) (h3 : s.get (F.DR_QSTAT_STATE 0) = 3) (hfly : s.get (F.DR_QLOAD_INFLIGHT 0) = 0)
    (hdue : (s.dueTallies 0).1 = []) : exec .queue0DrainEnd s = .next (s.put (F.DR_QSTAT_STATE 0) 0) :=
  run_next (f := fun s => if s.get (F.DR_QSTAT_STATE 0) = 3 ∧ s.get (F.DR_QLOAD_INFLIGHT 0) = 0 ∧ (s.dueTallies 0).1 = [] then
    s.put (F.DR_QSTAT_STATE 0) 0 else s) hs (if_pos ⟨h3, hfly, hdue⟩) (Untouched.refl s).put

/-- Settles O20, control by control. -/
theorem queueControlsActOnTheirQueue : Obligations.QueueControlsActOnTheirQueue := by
  intro s hs
  refine ⟨fun fn q hfn hq hr hown hhalted hrider => ?resume, fun hr h3 hlive => ?enable, fun hr h3 hlive => ?disable,
    fun h3 hfly hdue => ?drained, ?decay, fun q hq hstate hshort => ⟨?partialEnds, ?partialTies⟩⟩
  case resume =>
    obtain ⟨hhead, hstate, hcount, hself, hothers, hrest⟩ := resumeQueue_resumed hhalted hrider
    have hrun : (if s.isReady && s.ownsPage fn q then resumeQueue q s else s) = resumeQueue q s := if_pos (by rw [hr, hown]; rfl)
    exact ⟨_, (if_pos hq).trans (unit_next hfn hs hrun hrest.untouched), hhead, hstate, hcount, by rw [hself], by rw [hself], by rw [hself],
      hothers, hrest, hrest.untouched.rd⟩
  case enable =>
    obtain ⟨henable, hstate, hhead, htail, hexpect, hself, hothers, hrest⟩ := startQueue_starts s 0 255
    exact ⟨_, queue0Enable_next hs hrest.untouched hr (enableQueue0_starts h3 hlive), henable, hstate, hhead, htail, hexpect,
      by rw [hself]; rfl, by rw [hself]; rfl, by rw [hself]; rfl, hothers, hrest, hrest.untouched.rd⟩
  case disable =>
    obtain ⟨henable, hstate, hfetched, hout, hothers, hrest⟩ := disableQueue0_disabled h3 hlive
    exact ⟨_, queue0Disable_next hs hrest.untouched hr rfl, henable, hstate, hfetched, hout, hothers, hrest, hrest.untouched.rd⟩
  case drained =>
    exact ⟨_, queue0DrainEnd_stops hs h3 hfly hdue, State.get_put_fits s (by decide) (by decide), rfl, (Untouched.refl s).put.rd⟩
  case decay =>
    have hfall := foldl_decay List.nodup_range s (l := List.range 64)
    obtain ⟨_, _, r, hrest⟩ := hfall 0
    have hk : Untouched s ((List.range 64).foldl State.decay s) := by rw [hrest]; exact ⟨rfl, rfl, rfl⟩
    refine ⟨_, crcBucketDecay_next hs hk rfl, fun q hq => ?_, by rw [hrest], hk.rd⟩
    obtain ⟨hbucket, hstate, -⟩ := hfall q
    exact ⟨hbucket.trans (if_pos (List.mem_range.2 hq)), hstate⟩
  case partialEnds =>
    have hrest := haltAlone_onQueues s q 0x25 (s.published q)
    have hself := haltAlone_queue s q 0x25 (s.published q)
    exact ⟨_, unit_next hq hs (partialHalt_halts hstate hshort) hrest.untouched, haltQueue_state _ q _, haltQueue_cause _ q _,
      by rw [hself], fun r hr => haltAlone_queue_ne s q _ _ hr, hrest.untouched.rd⟩
  case partialTies =>
    exact unit_next hq hs (partialHalt_ties hstate hshort) ((OnQueues.refl s).setQueue q _).untouched

/-! ## Fetching -/

theorem slice_congr {x y : Bytes} {off n : Nat} (h : ∀ i < n, x.getD (off + i) 0 = y.getD (off + i) 0) : slice x off n = slice y off n :=
  List.map_congr_left fun i hi => h i (List.mem_range.1 hi)

/-- The bytes that are there stand in the padded first units. -/
theorem getD_padTo_take {data : Bytes} {n i : Nat} (hi : i < n) : (padTo n (data.take n)).getD i 0 = data.getD i 0 := by
  unfold padTo
  rcases Nat.lt_or_ge i data.length with hlt | hge
  · rw [List.getD_append _ _ _ _ (by rw [List.length_take]; omega)]
    simp [List.getD, hi]
  · rw [List.getD_append_right _ _ _ _ (by rw [List.length_take]; omega)]
    simp [List.getD, List.getElem?_eq_none hge, List.getElem?_replicate]
    split <;> rfl

theorem hdrLength_padTo {data : Bytes} {n : Nat} (h : 4 ≤ n) : hdrLength (padTo n (data.take n)) = hdrLength data := by
  unfold hdrLength fieldAt
  rw [slice_congr fun i hi => getD_padTo_take (by omega)]

/-- The units at the head of a ring in host memory. -/
theorem units_host {s : State} {q : Nat} (h : s.on (F.DR_QBASE_LOC q) = false) (n : Nat) (data : Bytes) :
    s.units q n data = (.ok (padTo (32 * n) (data.take (32 * n))), s) := if_pos (by rw [h]; rfl)

section
variable {s : State} {q : Nat} {data : Bytes} (hloc : s.on (F.DR_QBASE_LOC q) = false) (h1 : 1 ≤ hdrLength data) (h2048 : hdrLength data ≤ 2048)
  (hring : hdrLength data ≤ s.ringSize q)
include hloc h1 h2048 hring

/-- A whole order is fetched; the units of an order that is not whole are only noted. -/
theorem fetch_host : s.fetch q data = if s.published q < hdrLength data then s.setQueue q { s.queue q with short := true }
    else s.setQueue q { s.queue q with
      fetched := some (padTo (32 * hdrLength data) (data.take (32 * hdrLength data))), short := false } := by
  have hlen : hdrLength (padTo 32 (data.take 32)) = hdrLength data := hdrLength_padTo (by decide)
  have hneed : (if 1 ≤ hdrLength data ∧ hdrLength data ≤ 2048 ∧ hdrLength data ≤ s.ringSize q then hdrLength data else 1) = hdrLength data :=
    if_pos ⟨h1, h2048, hring⟩
  have hunits : (if 1 ≤ hdrLength data ∧ hdrLength data ≤ 2048 then hdrLength data else 1) = hdrLength data := if_pos ⟨h1, h2048⟩
  unfold State.fetch
  simp only [units_host hloc, Nat.mul_one, unitsOf, hlen, hneed, hunits]

end

/-- Nothing at the head, nothing is granted. -/
theorem grantOther_unfetched {s : State} {q : Nat} (h : (s.queue q).fetched = none) : s.grantOther q = s := by
  unfold State.grantOther
  rw [h]
  split <;> rfl

/-- An order that a row of the table serves is left to it. -/
theorem grantOther_served {s : State} {q : Nat} {b : Bytes} (h : (s.queue q).fetched = some b) (hwf : s.wellFormed q b = true)
    (hop : hdrOp b ∈ opcodes) (hbne : hdrOp b ≠ 0x0500) (hsym : hdrOp b ≠ 0x0510) : s.grantOther q = s := by
  unfold State.grantOther
  rw [h]
  simp [hwf, hop, hbne, hsym]

/-- Settles O21: the fetch notes the queue's record alone, and what it fetches is left to its row. -/
theorem orderIsFetchedWhole : Obligations.OrderIsFetchedWhole := by
  intro q data s hq hs hstate hrider hnone hloc hpub n b hlen h1 h2048 hring
  have hfetch : orderFetch q data s = (s.fetch q data).grantOther q := by
    unfold orderFetch
    rw [if_neg (by simp [hstate, hrider])]
    simp [hnone, hpub]
  rw [fetch_host hloc h1 h2048 hring] at hfetch
  have hothers : ∀ x r, r ≠ q → (s.setQueue q x).queue r = s.queue r := fun x r hr => State.queue_setQueue_ne s x hr
  refine ⟨fun hwhole hwf hop hbne hsym => ?_, fun hpart => ?_⟩
  · have hleft : ∀ x : Queue, x.fetched = some b → (s.setQueue q x).grantOther q = s.setQueue q x := fun x hx =>
      grantOther_served (by rw [State.queue_setQueue_self]; exact hx) hwf hop hbne hsym
    rw [if_neg hwhole.not_gt, hleft _ rfl] at hfetch
    exact ⟨_, unit_next hq hs hfetch ((OnQueues.refl s).setQueue q _).untouched, by rw [State.queue_setQueue_self],
      by rw [State.queue_setQueue_self], hothers _, rfl⟩
  · rw [if_pos hpart, grantOther_unfetched (by rw [State.queue_setQueue_self]; exact hnone)] at hfetch
    exact ⟨_, unit_next hq hs hfetch ((OnQueues.refl s).setQueue q _).untouched, by rw [State.queue_setQueue_self],
      by rw [State.queue_setQueue_self]; exact hnone, hothers _, rfl⟩

end Sys2Proof.Machine
end

section
/-! PROOFS. Orders that end at their grant (R104, R121, R130, R141, R483, R498, R503): those that answer, and those with nothing to change. -/

namespace Sys2Proof.Machine

section
variable {c : Instr} {sp : Spec} {q : Nat} {b : Bytes} {s : State} (hc : orderRow c = some (sp, q, [])) (ht : Taken sp q [] b s)
include hc ht

/-- An order whose effect is its DONE alone. -/
theorem exec_done (hb : sp.body (s.flown q b []) (s.mkOrd q b []) = (s.flown q b []).done (s.mkOrd q b [])) :
    ∃ t, exec c s = .next t ∧ Reports s t (s.mkOrd q b []) stDone 0 0 ∧ Ended t (s.mkOrd q b []) ∧ OnlyOrder s t q (hdrAllot b) ∧
      t.sent = s.sent := by
  obtain ⟨t, hexec, hrep, hended, honly, hsent⟩ := exec_sends hc ht [] stDone 0 0 (by rw [hb, List.append_nil]; rfl)
  exact ⟨t, hexec, hrep, hended, honly, hsent.trans (List.append_nil _)⟩

/-- An order that writes one reply to the address in its bytes 16 to 23 and is DONE. -/
theorem exec_replies (data : Bytes) (hb : sp.body (s.flown q b []) (s.mkOrd q b []) =
      ((s.flown q b []).reply (s.mkOrd q b []) (fieldAt b 16 8) data).done (s.mkOrd q b [])) :
    ∃ t, exec c s = .next t ∧ Reports s t (s.mkOrd q b []) stDone 0 0 ∧ Ended t (s.mkOrd q b []) ∧ OnlyOrder s t q (hdrAllot b) ∧
      t.sent = s.sent ++ [.hostWrite ((s.flown q b []).fnOf q) (fieldAt b 16 8) data false] :=
  exec_sends hc ht _ stDone 0 0 hb

end

/-- The switch of a unit that stands as asked has nothing to do. -/
theorem switch_of_powered_eq {s : State} {u : Nat} {v : Bool} (h : s.powered u = v) (o : Ord) : s.switch o u v = s.done o := if_pos h

/-- Settles O12: the body of each order is its reply, if it has one, and DONE. -/
theorem statusOrdersReply : Obligations.StatusOrdersReply := by
  intro q b s
  exact ⟨fun h => exec_done rfl h rfl, fun h => exec_replies rfl h _ rfl, fun h => exec_replies rfl h _ rfl, fun h => exec_replies rfl h _ rfl,
    fun h => exec_replies rfl h _ rfl,
    fun h hp => exec_done rfl h (switch_of_powered_eq ((flown_powered h.queue _).trans hp) _),
    fun h hp => exec_done rfl h (switch_of_powered_eq ((flown_powered h.queue _).trans hp) _),
    fun h hn => exec_done rfl h (if_pos hn)⟩

end Sys2Proof.Machine
end

section
/-! PROOFS. QUEUE_CREATE and QUEUE_DESTROY (R95): what passing the checks says of their operands, and the queue that they leave. -/

namespace Sys2Proof.Machine

/-! ## Checks that have passed -/

theorem checks_eq_none {l : List (Bool × Why)} : checks l = none ↔ ∀ c ∈ l, c.1 = false := by
  induction l with
  | nil => simp [checks]
  | cons c l ih =>
    obtain ⟨bad, w⟩ := c
    cases bad <;> simp [checks, ih]

theorem mem_withEnvelope {o : Ord} {l : List (Bool × Why)} {c : Bool × Why} (h : c ∈ l) : c ∈ o.withEnvelope l := by
  unfold Ord.withEnvelope
  split
  · rw [← List.takeWhile_append_dropWhile (p := fun c : Bool × Why => c.2.inParam) (l := l)] at h
    simp only [List.mem_append, List.mem_cons] at h ⊢
    tauto
  · exact h

/-- No check of the field group of an order that passes finds a fault. -/
theorem fieldChecks_pass {sp : Spec} {s : State} {o : Ord} (h : sp.verdict s o = none) : ∀ c ∈ sp.fieldChecks s o, c.1 = false := by
  refine checks_eq_none.1 ?_
  unfold Spec.verdict at h
  cases hlen : checks (sp.lengthChecks s o) <;> rw [hlen] at h
  case some => cases h
  cases hright : checks (sp.rightChecks s o) <;> rw [hright] at h
  case some => cases h
  cases hstate : checks (sp.stateChecks s o) <;> rw [hstate] at h
  case some => cases h
  cases hfield : checks (sp.fieldChecks s o) <;> rw [hfield] at h
  case some => cases h

theorem field_passes {sp : Spec} {s : State} {o : Ord} (h : sp.verdict s o = none) {c : Bool × Why} (hc : c ∈ sp.fields s o) : c.1 = false := by
  refine fieldChecks_pass h c ?_
  unfold Spec.fieldChecks
  exact List.mem_append_left _ (List.mem_append_right _ (mem_withEnvelope hc))

/-- An order that must name an allotment, and passes, names one. -/
theorem allot_passes {sp : Spec} {s : State} {o : Ord} (h : sp.verdict s o = none) (ha : sp.allot = 0) : o.allot < 16 := by
  have hallot := fieldChecks_pass h (rg (decide (16 ≤ o.allot)) 8) (by
    unfold Spec.fieldChecks
    rw [ha]
    exact List.mem_append_left _ (List.mem_append_left _ (List.mem_cons_of_mem _ List.mem_cons_self)))
  exact not_le.1 (of_decide_eq_false hallot)

theorem field_lt (o : Ord) (off n : Nat) : o.field off n < 256 ^ n := by
  unfold Ord.field
  split
  · exact fieldAt_lt _ _ _
  · exact fieldAt_lt _ _ _

/-! ## Orders of queue 0 that change another queue -/

/-- A grant from queue 0 changes the record of no other queue: it settles no credit. -/
theorem flown_queue_zero (s : State) (b host : Bytes) {r : Nat} (h : r ≠ 0) : (s.flown 0 b host).queue r = s.queue r := by
  unfold State.flown
  rw [queue_congr (acceptCounter_queues _ _), queue_congr (launch_queues _ _)]
  unfold State.consume
  dsimp only
  rw [State.queue_bump, State.queue_put, State.queue_put, State.queue_setQueue_ne _ _ h]
  rfl

theorem flown_untouched (s : State) (q : Nat) (b host : Bytes) : Untouched s (s.flown q b host) := by
  obtain ⟨_, _, _, h⟩ := flown_eq s q b host
  rw [h]
  exact ⟨rfl, rfl, rfl⟩

/-- An order of queue 0 that changes queue `n`, leaving `v`, and is DONE. -/
theorem exec_manages {c : Instr} {sp : Spec} {b : Bytes} {s v : State} {n : Nat} (hc : orderRow c = some (sp, 0, [])) (ht : Taken sp 0 [] b s)
    (hn : n ≠ 0) (h64 : n < 64) (hv : OnQueues (s.flown 0 b []) v) (hothers : ∀ r, r ≠ n → v.queue r = (s.flown 0 b []).queue r)
    (hb : sp.body (s.flown 0 b []) (s.mkOrd 0 b []) = v.done (s.mkOrd 0 b [])) :
    ∃ t, exec c s = .next t ∧ Reports s t (s.mkOrd 0 b []) stDone 0 0 ∧ Ended t (s.mkOrd 0 b []) ∧
      (∀ (f : Fld) (k : Nat), f.reg = 0x31000 + k + 0x40 * n → k < 0x40 → t.get f = v.get f) ∧ t.queue n = v.queue n ∧
      (∀ r, r ≠ n → r ≠ 0 → t.queue r = s.queue r) ∧ ∀ x, t.rd x = s.rd x := by
  have hin : s.mkOrd 0 b [] ∈ v.inflight := by rw [hv.inflight]; exact mkOrd_mem_flown s 0 b []
  obtain ⟨-, hended, hqueues, -⟩ := finish_spec v (s.mkOrd 0 b []) stDone 0 0 false hin
  obtain ⟨_, _, _, _, hzero⟩ := flown_queue s 0 0 b []
  have hk : Untouched s (v.done (s.mkOrd 0 b [])) := ((flown_untouched s 0 b []).trans hv.untouched).finish
  refine ⟨_, (orderRow_exec hc s).trans (unit_next (by decide) ht.stores ((order_taken ht).trans hb) hk), reports_of hin ?_ ?_, hended,
    fun f k hf hk64 => get_of_reg (finish_reg _ _ _ _ _ (by omega) (by rw [mkOrd_q]; omega) (by omega)), hqueues n hn, fun r hr h0 => ?_, hk.rd⟩
  · rw [mkOrd_q, hothers 0 hn.symm, hzero]
  · rw [hv.wck, flown_wck]
  · exact (hqueues r h0).trans ((hothers r hr).trans (flown_queue_zero s b [] h0))

/-! ## QUEUE_CREATE -/

/-- A queue takes rings, sizes, vector and weight from its QUEUE_CREATE. -/
def State.shapeQueue (s : State) (q : Nat) (o : Ord) : State :=
  let s := (s.put (F.DR_QBASE_LOC q) (o.field 19 1)).put (F.DR_QBASE_BASE q) (o.field 32 8 / 64)
  let s := (s.put (F.DR_QSIZE_ORDER_LOG2 q) (o.field 20 1)).put (F.DR_QSIZE_TALLY_LOG2 q) (o.field 21 1)
  let s := (s.put (F.DR_QSIZE_VECTOR q) (o.field 22 2)).put (F.DR_TBASE_BASE q) (o.field 40 8 / 64)
  s.put (F.DR_QLOAD_WEIGHT q) (o.field 18 1)

theorem createQueue_eq (s : State) (o : Ord) : createQueue s o = ((s.startQueue (o.field 16 1) (o.field 17 1)).shapeQueue (o.field 16 1) o).done o := by
  unfold createQueue State.shapeQueue
  rfl

/-- What a queue shows of the order that shapes it. -/
structure Shaped (s t : State) (q : Nat) (o : Ord) : Prop where
  weight : t.get (F.DR_QLOAD_WEIGHT q) = o.field 18 1
  place : t.get (F.DR_QBASE_LOC q) = o.field 19 1 % 2
  ring : t.get (F.DR_QBASE_BASE q) = o.field 32 8 / 64 % 2 ^ 58
  tallies : t.get (F.DR_TBASE_BASE q) = o.field 40 8 / 64 % 2 ^ 58
  orderSize : t.get (F.DR_QSIZE_ORDER_LOG2 q) = o.field 20 1 % 2 ^ 5
  tallySize : t.get (F.DR_QSIZE_TALLY_LOG2 q) = o.field 21 1 % 2 ^ 4
  vector : t.get (F.DR_QSIZE_VECTOR q) = o.field 22 2 % 2 ^ 11
  same : ∀ f ∈ [F.DR_QCTL_ENABLE q, F.DR_QSTAT_STATE q, F.DR_QPTR_HEAD q, F.DR_QPTR_TAIL q, F.DR_QSEQ_EXPECT q], t.get f = s.get f
  queues : ∀ r, t.queue r = s.queue r
  rest : OnQueues s t

theorem shapeQueue_shaped (s : State) (q : Nat) (o : Ord) : Shaped s (s.shapeQueue q o) q o := by
  have hweight : o.field 18 1 % 2 ^ 8 = o.field 18 1 := Nat.mod_eq_of_lt (field_lt o 18 1)
  refine ⟨(State.get_put_self _ (F.DR_QLOAD_WEIGHT q) _ (by show 0 + 8 ≤ 64; decide)).trans hweight, ?_, ?_, ?_, ?_, ?_, ?_, ?_, fun r => ?_, ?_⟩ <;>
    unfold State.shapeQueue <;> dsimp only
  iterate 6
    simp [State.get_put_apart, State.get_put_self, F.DR_QBASE_LOC, F.DR_QBASE_BASE, F.DR_QSIZE_ORDER_LOG2, F.DR_QSIZE_TALLY_LOG2,
      F.DR_QSIZE_VECTOR, F.DR_TBASE_BASE, F.DR_QLOAD_WEIGHT]
  · simp [State.get_put_apart, F.DR_QBASE_LOC, F.DR_QBASE_BASE, F.DR_QSIZE_ORDER_LOG2, F.DR_QSIZE_TALLY_LOG2, F.DR_QSIZE_VECTOR,
      F.DR_TBASE_BASE, F.DR_QLOAD_WEIGHT, F.DR_QCTL_ENABLE, F.DR_QSTAT_STATE, F.DR_QPTR_HEAD, F.DR_QPTR_TAIL, F.DR_QSEQ_EXPECT]
  · simp only [State.queue_put]
  · exact ((((OnQueues.refl s).put _ _).put _ _).put _ _).put _ _ |>.put _ _ |>.put _ _ |>.put _ _

/-- The queue that a QUEUE_CREATE names is a tenant queue. -/
theorem createQueue_tenant {s : State} {b : Bytes} (h : Taken specQueueCreate 0 [] b s) :
    (s.mkOrd 0 b []).field 16 1 ≠ 0 ∧ (s.mkOrd 0 b []).field 16 1 < 64 := by
  have hrange := field_passes h.passes (c := rg ((s.mkOrd 0 b []).field 16 1 == 0 || decide (63 < (s.mkOrd 0 b []).field 16 1)) 16) List.mem_cons_self
  simp only [rg, Bool.or_eq_false_iff, beq_eq_false_iff_ne, decide_eq_false_iff_not] at hrange
  omega

/-! ## QUEUE_DESTROY -/

/-- What a destroyed queue shows. -/
structure Destroyed (s t : State) (q : Nat) : Prop where
  enable : t.get (F.DR_QCTL_ENABLE q) = 0
  state : t.get (F.DR_QSTAT_STATE q) = 0
  self : t.queue q = { s.queue q with fetched := none, short := false, tied := false, marks := [], closing := true }
  others : ∀ r, r ≠ q → t.queue r = s.queue r
  rest : OnQueues s t

theorem destroyQueue_destroyed (s : State) (q : Nat) : Destroyed s (s.destroyQueue q) q := by
  have hrest : OnQueues s (s.destroyQueue q) := (((OnQueues.refl s).setQueue q _).put _ _).put _ _ |>.put _ _
  refine ⟨?_, ?_, ?_, fun r hr => ?_, hrest⟩ <;> unfold State.destroyQueue <;> dsimp only
  · simp [State.get_put_apart, State.get_put_self, F.DR_QCTL_ENABLE, F.DR_QSTAT_STATE, F.DR_QSTAT_MARKS]
  · simp [State.get_put_apart, State.get_put_self, F.DR_QSTAT_STATE, F.DR_QSTAT_MARKS]
  · simp only [State.queue_put, State.queue_setQueue_self]
  · simp only [State.queue_put, State.queue_setQueue_ne _ _ hr]

/-- The queue that a QUEUE_DESTROY names is a tenant queue. -/
theorem destroyQueue_tenant {s : State} {b : Bytes} (h : Taken specQueueDestroy 0 [] b s) :
    (s.mkOrd 0 b []).field 16 1 ≠ 0 ∧ (s.mkOrd 0 b []).field 16 1 < 64 := by
  have hbound := field_passes h.passes (c := rg (!s.boundTo ((s.mkOrd 0 b []).field 16 1) (s.mkOrd 0 b []).allot) 16) List.mem_cons_self
  simp only [rg, State.boundTo, Bool.not_eq_false', Bool.and_eq_true, decide_eq_true_eq] at hbound
  obtain ⟨⟨⟨h1, h64⟩, -⟩, -⟩ := hbound
  omega

/-! ## O16 -/

/-- Settles O16: each order changes its queue and is DONE on queue 0, which is another queue. -/
theorem queuesAreCreatedAndDestroyed : Obligations.QueuesAreCreatedAndDestroyed := by
  intro b s o n
  refine ⟨fun h => ?create, fun h => ?destroy⟩
  case create =>
    obtain ⟨hn, h64⟩ := createQueue_tenant h
    obtain ⟨henable, hstate, hhead, htail, hexpect, hself, hothers, hstart⟩ := startQueue_starts (s.flown 0 b []) n (o.field 17 1)
    obtain ⟨hweight, hplace, hring, htallies, horder, htally, hvector, hsame, hqueues, hshape⟩ :=
      shapeQueue_shaped ((s.flown 0 b []).startQueue n (o.field 17 1)) n o
    obtain ⟨t, hexec, hrep, hended, hget, hqueue, hleft, hrd⟩ := exec_manages (c := .queueCreate 0) rfl h hn h64 (hstart.trans hshape)
      (fun r hr => (hqueues r).trans (hothers r hr)) (createQueue_eq _ _)
    have hrec := hqueue.trans ((hqueues n).trans hself)
    refine ⟨t, hexec, hrep, hended, ?_, ?_, by rw [hrec], ?_, ?_, ?_, by rw [hrec]; rfl, by rw [hrec]; rfl, by rw [hrec]; rfl, ?_, ?_, ?_, ?_, ?_, ?_, ?_,
      hleft, hrd⟩
    · rw [hget (F.DR_QCTL_ENABLE n) 0x20 rfl (by decide), hsame _ (by simp), henable]
    · rw [hget (F.DR_QSTAT_STATE n) 0x24 rfl (by decide), hsame _ (by simp), hstate]
    · rw [hget (F.DR_QPTR_HEAD n) 0x18 rfl (by decide), hsame _ (by simp), hhead]
    · rw [hget (F.DR_QPTR_TAIL n) 0x18 rfl (by decide), hsame _ (by simp), htail]
    · rw [hget (F.DR_QSEQ_EXPECT n) 0x28 rfl (by decide), hsame _ (by simp), hexpect]
    · rw [hget (F.DR_QLOAD_WEIGHT n) 0x2C rfl (by decide), hweight]
    · rw [hget (F.DR_QBASE_LOC n) 0x00 rfl (by decide), hplace]
    · rw [hget (F.DR_QBASE_BASE n) 0x00 rfl (by decide), hring]
    · rw [hget (F.DR_TBASE_BASE n) 0x10 rfl (by decide), htallies]
    · rw [hget (F.DR_QSIZE_ORDER_LOG2 n) 0x08 rfl (by decide), horder]
    · rw [hget (F.DR_QSIZE_TALLY_LOG2 n) 0x08 rfl (by decide), htally]
    · rw [hget (F.DR_QSIZE_VECTOR n) 0x08 rfl (by decide), hvector]
  case destroy =>
    obtain ⟨hn, h64⟩ := destroyQueue_tenant h
    obtain ⟨henable, hstate, hself, hothers, hrest⟩ := destroyQueue_destroyed (s.flown 0 b []) n
    obtain ⟨t, hexec, hrep, hended, hget, hqueue, hleft, hrd⟩ := exec_manages (c := .queueDestroy 0) rfl h hn h64 hrest hothers rfl
    have hrec := hqueue.trans (hself.trans (by rw [flown_queue_zero s b [] hn]))
    refine ⟨t, hexec, hrep, hended, ?_, ?_, by rw [hrec], by rw [hrec], by rw [hrec], by rw [hrec], hleft, hrd⟩
    · rw [hget (F.DR_QCTL_ENABLE n) 0x20 rfl (by decide), henable]
    · rw [hget (F.DR_QSTAT_STATE n) 0x24 rfl (by decide), hstate]

end Sys2Proof.Machine
end

section
/-! PROOFS. Orders that wait for their unit (R112, R119, R395, R497): parked at the grant, some with their unit held, started when it is
free, or ended at their deadline. -/

namespace Sys2Proof.Machine

/-! ## Parked at the grant -/

theorem serve_parks {s : State} {o : Ord} {busy : Bool} (h : busy = true ∨ s.queued o = true) (f : State → State) : s.serve o busy f = s.park o :=
  if_pos ((Bool.or_eq_true _ _).mpr h)

/-- An order in flight that is parked. -/
theorem parks_park {w : State} {o : Ord} (h : o ∈ w.inflight) : Parks w (w.park o) o :=
  ⟨⟨h, fun _ => rfl, rfl, fun _ _ => rfl, fun _ => rfl⟩, rfl, rfl, rfl, rfl⟩

section
variable {s : State} {q : Nat} {b host : Bytes}

theorem flown_bne : (s.flown q b host).bne = s.bne := by obtain ⟨_, _, _, h⟩ := flown_eq s q b host; rw [h]
theorem flown_sym : (s.flown q b host).sym = s.sym := by obtain ⟨_, _, _, h⟩ := flown_eq s q b host; rw [h]
theorem flown_gau : (s.flown q b host).gau = s.gau := by obtain ⟨_, _, _, h⟩ := flown_eq s q b host; rw [h]
theorem flown_i2cs : (s.flown q b host).i2cs = s.i2cs := by obtain ⟨_, _, _, h⟩ := flown_eq s q b host; rw [h]
theorem flown_test : (s.flown q b host).test = s.test := by obtain ⟨_, _, _, h⟩ := flown_eq s q b host; rw [h]
theorem flown_testsWaiting : (s.flown q b host).testsWaiting = s.testsWaiting := by obtain ⟨_, _, _, h⟩ := flown_eq s q b host; rw [h]
theorem flown_basins : (s.flown q b host).basins = s.basins := by obtain ⟨_, _, _, h⟩ := flown_eq s q b host; rw [h]
theorem flown_viss : (s.flown q b host).viss = s.viss := by obtain ⟨_, _, _, h⟩ := flown_eq s q b host; rw [h]

theorem flown_bsnBusy (k : Nat) : (s.flown q b host).bsnBusy k = s.bsnBusy k := by
  unfold State.bsnBusy State.basin
  rw [flown_basins]

theorem flown_visBusy (k : Nat) : (s.flown q b host).visBusy k = (s.vis k).run.isSome := by
  unfold State.visBusy State.vis
  rw [flown_viss]

end

/-- An order served by a unit that is busy, or that earlier orders wait for. -/
theorem exec_waits {c : Instr} {sp : Spec} {q : Nat} {b : Bytes} {s : State} {busy : Bool} {f : State → State}
    (h : busy = true ∨ s.queued (s.mkOrd q b []) = true) (hc : orderRow c = some (sp, q, [])) (ht : Taken sp q [] b s)
    (hb : sp.body (s.flown q b []) (s.mkOrd q b []) = (s.flown q b []).serve (s.mkOrd q b []) busy f) :
    ∃ t, exec c s = .next t ∧ Parks s t (s.mkOrd q b []) :=
  exec_parks hc ht (hb.trans (serve_parks (h.imp_right fun hq => (flown_queued _).trans hq) f))

/-- An order of a row whose orders are parked while the unit is busy, or while earlier orders wait for it. -/
theorem row_waits {s : State} {q : Nat} {b : Bytes} {busy : Bool} {x : Spec × Instr} (h : busy = true ∨ s.queued (s.mkOrd q b []) = true)
    (hrow : orderRow x.2 = some (x.1, q, []) ∧ ∃ started, x.1.body (s.flown q b []) (s.mkOrd q b []) =
      if busy || (s.flown q b []).queued (s.mkOrd q b []) then (s.flown q b []).park (s.mkOrd q b []) else started)
    (ht : Taken x.1 q [] b s) : ∃ t, exec x.2 s = .next t ∧ Parks s t (s.mkOrd q b []) := by
  obtain ⟨hc, started, hb⟩ := hrow
  exact exec_waits h hc ht (f := fun _ => started) hb

/-! ## Units held from the grant -/

/-- A unit that no allotment holds is held: its state is 1, its holder named. -/
def State.holdUnit (s : State) (f g : Fld) (x : Nat) : State := if s.get f = 0 then (s.put f 1).put g x else s

section
variable {s : State} {f g : Fld} {x : Nat}

theorem holdUnit_regs : RegsOnly s (s.holdUnit f g x) := by
  unfold State.holdUnit
  split
  · exact ((RegsOnly.refl s).put _ _).put _ _
  · exact .refl s

theorem holdUnit_held (h : s.get f ≠ 0) : s.holdUnit f g x = s := if_neg h

theorem holdUnit_free (h : s.get f = 0) (hf : f.lo + f.w ≤ g.lo) (hf0 : 0 < f.w) (hg : g.lo + g.w ≤ 64) (hx : x < 2 ^ g.w) :
    (s.holdUnit f g x).get f = 1 ∧ (s.holdUnit f g x).get g = x := by
  unfold State.holdUnit
  rw [if_pos h]
  refine ⟨?_, State.get_put_fits _ hg hx⟩
  rw [State.get_put_apart _ _ hg fun _ => .inr hf]
  exact State.get_put_fits _ (by omega) (Nat.one_lt_two_pow hf0.ne')

theorem put_reg_congr {s u : State} (f : Fld) (v : Nat) {r : Nat} (hf : u.reg f.reg = s.reg f.reg) (hr : u.reg r = s.reg r) :
    (u.put f v).reg r = (s.put f v).reg r := by
  by_cases h : r = f.reg
  · subst h
    simp only [State.put, State.reg_setReg_self, hf]
  · rw [State.reg_put_ne _ _ _ h, State.reg_put_ne _ _ _ h, hr]

/-- The hold acts alike on states that agree on its register. -/
theorem holdUnit_reg_congr {u : State} (hfg : g.reg = f.reg) (hf : u.reg f.reg = s.reg f.reg) {r : Nat} (hr : u.reg r = s.reg r) :
    (u.holdUnit f g x).reg r = (s.holdUnit f g x).reg r := by
  unfold State.holdUnit
  rw [get_of_reg hf]
  split
  · exact put_reg_congr g x (by rw [hfg]; exact put_reg_congr f 1 hf hf) (put_reg_congr f 1 hf hr)
  · exact hr

variable {c : Instr} {sp : Spec} {q : Nat} {b : Bytes} {busy : Bool} {start : State → State}

/-- An order whose grant holds its unit, and which waits for it. -/
theorem exec_holds (hfg : g.reg = f.reg) (hfar : 0x51000 ≤ f.reg) (hf : f.lo + f.w ≤ g.lo) (hf0 : 0 < f.w) (hg : g.lo + g.w ≤ 64)
    (hx : x < 2 ^ g.w) (h : busy = true ∨ s.queued (s.mkOrd q b []) = true)
    (hc : orderRow c = some (sp, q, [])) (ht : Taken sp q [] b s)
    (hb : sp.body (s.flown q b []) (s.mkOrd q b []) = ((s.flown q b []).holdUnit f g x).serve (s.mkOrd q b []) busy start) :
    ∃ t, exec c s = .next t ∧ Parks (s.holdUnit f g x) t (s.mkOrd q b []) ∧ (s.get f = 0 → t.get f = 1 ∧ t.get g = x) ∧
      (s.get f ≠ 0 → t.get f = s.get f ∧ t.get g = s.get g) := by
  have hq := ht.queue
  have hsame : ∀ r, r ∉ orderRegs q (hdrAllot b) → (s.flown q b []).reg r = s.reg r := fun r => flown_reg s q b [] _ r
  have hallot : hdrAllot b < 256 := fieldAt_lt b 8 1
  have hout : f.reg ∉ orderRegs q (hdrAllot b) := by
    simp only [orderRegs, List.mem_cons, List.not_mem_nil, or_false, not_or]
    omega
  have hreg : ∀ r, r ∉ orderRegs q (hdrAllot b) → ((s.flown q b []).holdUnit f g x).reg r = (s.holdUnit f g x).reg r := fun r hr =>
    holdUnit_reg_congr hfg (hsame _ hout) (hsame r hr)
  have hqueue : ∀ r, ((s.flown q b []).queue r).out = (s.queue r).out := fun r => by
    obtain ⟨_, _, _, _, hr⟩ := flown_queue s q r b []
    rw [hr]
  obtain ⟨_, _, _, hflown⟩ := flown_eq s q b []
  obtain ⟨_, hheld⟩ := holdUnit_regs (s := s) (f := f) (g := g) (x := x)
  obtain ⟨_, hflownHeld⟩ := holdUnit_regs (s := s.flown q b []) (f := f) (g := g) (x := x)
  have hqueued : ((s.flown q b []).holdUnit f g x).queued (s.mkOrd q b []) = s.queued (s.mkOrd q b []) := by
    rw [hflownHeld]
    exact flown_queued _
  have hpark := hb.trans (serve_parks (h.imp_right fun hw => hqueued.trans hw) start)
  have hk : Untouched s (((s.flown q b []).holdUnit f g x).park (s.mkOrd q b [])) := by
    rw [hflownHeld, hflown]
    exact ⟨rfl, rfl, rfl⟩
  have hgetf := get_of_reg (f := f) (hreg _ hout)
  have hgetg := get_of_reg (f := g) (hreg _ (hfg ▸ hout))
  refine ⟨_, (orderRow_exec hc s).trans (unit_next hq ht.stores ((order_taken ht).trans hpark) hk), ⟨⟨?flies, fun r => ?silent, ?_, hreg, ?mem⟩,
    ?_, ?_, ?_, ?_⟩, fun h0 => ?free, fun h0 => ?held⟩
  case flies =>
    rw [hflownHeld]
    exact mkOrd_mem_flown s q b []
  case silent =>
    rw [hheld, hflownHeld]
    exact hqueue r
  case mem =>
    rw [hheld]
    exact hk.rd
  case free =>
    obtain ⟨h1, hx⟩ := holdUnit_free (x := x) h0 hf hf0 hg hx
    exact ⟨hgetf.trans h1, hgetg.trans hx⟩
  case held =>
    rw [holdUnit_held h0] at hgetf hgetg
    exact ⟨hgetf, hgetg⟩
  all_goals
    rw [hheld, hflownHeld, hflown]
    rfl

end

theorem bsnHold_eq (s : State) (o : Ord) : s.bsnHold o = s.holdUnit (F.BSN_STATE_STATE (bsBasin o)) (F.BSN_STATE_ALLOT (bsBasin o)) o.allot := rfl

theorem visHold_eq (s : State) (o : Ord) : s.visHold o = s.holdUnit (F.VIS_STATE_STATE (vpPipe o)) (F.VIS_STATE_ALLOT (vpPipe o)) o.allot := rfl

section
variable {s : State} {q : Nat} {b : Bytes} {c : Instr} {sp : Spec} {busy : Bool} {start : State → State}
  (h : busy = true ∨ s.queued (s.mkOrd q b []) = true) (hc : orderRow c = some (sp, q, [])) (ht : Taken sp q [] b s) (ha : sp.allot = 0)
include h hc ht ha

/-- A waiting order that holds its basin. -/
theorem exec_holdsBasin (hb : sp.body (s.flown q b []) (s.mkOrd q b []) =
      ((s.flown q b []).bsnHold (s.mkOrd q b [])).serve (s.mkOrd q b []) busy start) : let o := s.mkOrd q b []
    ∃ t, exec c s = .next t ∧ Parks (s.bsnHold o) t o ∧
      (bsState s (bsBasin o) = 0 → bsState t (bsBasin o) = 1 ∧ t.get (F.BSN_STATE_ALLOT (bsBasin o)) = o.allot) ∧
      (bsState s (bsBasin o) ≠ 0 → bsState t (bsBasin o) = bsState s (bsBasin o) ∧
        t.get (F.BSN_STATE_ALLOT (bsBasin o)) = s.get (F.BSN_STATE_ALLOT (bsBasin o))) :=
  exec_holds rfl (by show 0x51000 ≤ 0xD8000 + 0x40 * _; omega) (by show 0 + 2 ≤ 4; decide) (by show 0 < 2; decide) (by show 4 + 5 ≤ 64; decide)
    ((allot_passes ht.passes ha).trans (by show 16 < 2 ^ 5; decide)) h hc ht (hb.trans (by rw [bsnHold_eq]))

/-- A waiting order that holds its pipeline. -/
theorem exec_holdsPipeline (hb : sp.body (s.flown q b []) (s.mkOrd q b []) =
      ((s.flown q b []).visHold (s.mkOrd q b [])).serve (s.mkOrd q b []) busy start) : let o := s.mkOrd q b []
    ∃ t, exec c s = .next t ∧ Parks (s.visHold o) t o ∧
      (vpState s (vpPipe o) = 0 → vpState t (vpPipe o) = 1 ∧ t.get (F.VIS_STATE_ALLOT (vpPipe o)) = o.allot) ∧
      (vpState s (vpPipe o) ≠ 0 → vpState t (vpPipe o) = vpState s (vpPipe o) ∧
        t.get (F.VIS_STATE_ALLOT (vpPipe o)) = s.get (F.VIS_STATE_ALLOT (vpPipe o))) :=
  exec_holds rfl (by show 0x51000 ≤ 0xD0000 + 0x40 * _; omega) (by show 0 + 2 ≤ 3; decide) (by show 0 < 2; decide) (by show 3 + 5 ≤ 64; decide)
    ((allot_passes ht.passes ha).trans (by show 16 < 2 ^ 5; decide)) h hc ht (hb.trans (by rw [visHold_eq]))

end

/-! ## Units that a waiting self-test names -/

/-- Taking a power of two from a number that has its bit clears the bit alone. -/
theorem testBit_sub_two_pow {v i : Nat} (hv : v < 2 ^ 64) (h : v.testBit i = true) (hi : i < 64) (j : Nat) :
    (v - 2 ^ i).testBit j = (v.testBit j && decide (j ≠ i)) := by
  have hle : 2 ^ i ≤ v := Nat.ge_two_pow_of_testBit h
  have hclear : (v - 2 ^ i).testBit i = false := by
    have hflip := Nat.testBit_two_pow_add_eq (v - 2 ^ i) i
    rw [Nat.add_sub_cancel' hle, h] at hflip
    simpa using hflip.symm
  have hadd := testBit_add_two_pow (v := v - 2 ^ i) (lt_of_le_of_lt (Nat.sub_le _ _) hv) hclear hi j
  rw [Nat.sub_add_cancel hle, Nat.mod_eq_of_lt hv] at hadd
  by_cases hij : j = i
  · subst hij
    simp [hclear]
  · simp [hadd, hij, Ne.symm hij]

section
variable (s : State)

theorem working_congr {t : State} {k : Nat} (h : t.reg (0x110030 + 0x8 * (k / 64)) = s.reg (0x110030 + 0x8 * (k / 64))) : t.working k = s.working k :=
  congrArg (fun v => bit v (k % 64)) (get_of_reg (f := F.PWR_WORKING_MAP (k / 64)) h)

/-- A unit taken from the working units, and no other. -/
theorem setWorking_false (u k : Nat) : (s.setWorking u false).working k = (s.working k && decide (k ≠ u)) := by
  have hlt : s.get (F.PWR_WORKING_MAP (u / 64)) < 2 ^ 64 := s.get_lt _
  have hmod : u % 64 < 64 := Nat.mod_lt _ (by decide)
  have hbit : s.working u = (s.get (F.PWR_WORKING_MAP (u / 64))).testBit (u % 64) := bit_eq_testBit _ _
  unfold State.setWorking State.setMapBit
  dsimp only
  rw [bit_eq_testBit, ← hbit]
  cases hu : s.working u with
  | false =>
    rw [if_pos rfl]
    by_cases hk : k = u
    · rw [hk, hu]
      rfl
    · simp [hk]
  | true =>
    rw [if_neg (by decide), if_neg (by decide)]
    by_cases hword : k / 64 = u / 64
    · have hself : (s.put (F.PWR_WORKING_MAP (u / 64)) (s.get (F.PWR_WORKING_MAP (u / 64)) - 2 ^ (u % 64))).get (F.PWR_WORKING_MAP (u / 64)) =
          s.get (F.PWR_WORKING_MAP (u / 64)) - 2 ^ (u % 64) := State.get_put_fits s (Nat.le_of_ble_eq_true rfl) (lt_of_le_of_lt (Nat.sub_le _ _) hlt)
      have hsame : k % 64 = u % 64 ↔ k = u := by omega
      unfold State.working State.mapBit
      rw [hword, hself, bit_eq_testBit, bit_eq_testBit, testBit_sub_two_pow hlt (hbit.symm.trans hu) hmod]
      simp [hsame]
    · rw [working_congr s (State.reg_put_ne s (F.PWR_WORKING_MAP (u / 64)) _ (by show 0x110030 + 0x8 * (k / 64) ≠ 0x110030 + 0x8 * (u / 64); omega))]
      have hne : k ≠ u := fun h => hword (by rw [h])
      simp [hne]

theorem putStatus_working (f : Fld) (hf : f.reg = 0x110000) (v k : Nat) : (s.put f v).working k = s.working k :=
  working_congr s (State.reg_put_ne s f v (by omega))

theorem unitDown_working (u k : Nat) : (s.unitDown u).working k = (s.working k && decide (k ≠ u)) := by
  have hminimal : ∀ t : State, t.noteMinimal.working k = t.working k := fun t => putStatus_working t F.PWR_STATUS_MINIMAL rfl _ k
  unfold State.unitDown
  dsimp only
  split
  · rw [putStatus_working _ F.PWR_STATUS_ID_VERIFIED rfl, hminimal, setWorking_false]
  · rw [hminimal, setWorking_false]

theorem unitDown_regs (u : Nat) : RegsOnly s (s.unitDown u) := by
  have hword : RegsOnly s (s.setWorking u false) := by
    unfold State.setWorking State.setMapBit
    dsimp only
    split
    · exact .refl s
    · exact (RegsOnly.refl s).put _ _
  unfold State.unitDown
  dsimp only
  split
  · exact (hword.put _ _).put _ _
  · exact hword.put _ _

end

theorem unitsDown_working (l : List Nat) (s : State) (k : Nat) : (l.foldl State.unitDown s).working k = (s.working k && decide (k ∉ l)) := by
  induction l generalizing s with
  | nil => simp
  | cons u l ih =>
    rw [List.foldl_cons, ih, unitDown_working]
    by_cases hu : k = u <;> simp [hu]

/-- What the grant of a self-test leaves: its switched units are out of the working units, its run is noted. -/
theorem holdTest_spec (s : State) (o : Ord) : let l := s.testUnits (o.field 16 2)
    (∃ r, s.holdTest o = { s with regs := r, testsWaiting := s.testsWaiting ++ [⟨o, l, o.field 18 1 == 1⟩] }) ∧
    ∀ k, (s.holdTest o).working k = (s.working k && decide (k ∉ l.filter (· ≤ 200))) := by
  intro l
  obtain ⟨r, hr⟩ := regsOnly_foldl unitDown_regs (l.filter (· ≤ 200)) s
  refine ⟨⟨r, ?_⟩, fun k => unitsDown_working (l.filter (· ≤ 200)) s k⟩
  unfold State.holdTest
  dsimp only
  rw [hr]

/-- A self-test that waits from its grant on. -/
theorem exec_waitsTest {s : State} {q : Nat} {b : Bytes} (h : s.test.isSome = true ∨ s.queued (s.mkOrd q b []) = true)
    (ht : Taken specSelftestRun q [] b s) : let o := s.mkOrd q b []; let u := s.flown q b []; let l := u.testUnits (o.field 16 2)
    ∃ t, exec (.selftestRun q) s = .next t ∧ Parks (u.holdTest o) t o ∧ t.test = s.test ∧
      t.testsWaiting = s.testsWaiting ++ [⟨o, l, o.field 18 1 == 1⟩] ∧ (∀ k ∈ l, k ≤ 200 → t.working k = false) ∧
      ∀ k < 264, k ∉ l → t.working k = s.working k := by
  intro o u l
  obtain ⟨⟨r, hheld⟩, hworking⟩ := holdTest_spec u o
  have hqueued : (u.holdTest o).queued o = s.queued o := by
    rw [hheld]
    exact flown_queued o
  have htest : u.test = s.test := flown_test
  have hbody : specSelftestRun.body u o = (u.holdTest o).park o :=
    serve_parks (busy := u.test.isSome) (h.imp (fun hw => (congrArg Option.isSome htest).trans hw) fun hw => hqueued.trans hw) (startTest · o)
  have hk : Untouched s ((u.holdTest o).park o) := by
    obtain ⟨hmem, hfree, hstores⟩ := flown_untouched s q b []
    rw [hheld]
    exact ⟨hmem, hfree, hstores⟩
  have hstill : ∀ k, ((u.holdTest o).park o).working k = (u.working k && decide (k ∉ l.filter (· ≤ 200))) := hworking
  have hbefore : ∀ k, u.working k = s.working k := fun k => congrArg (fun v => bit v (k % 64)) (flown_get_far s q b [] (F.PWR_WORKING_MAP (k / 64))
    ht.queue (.inr (by show 0x32000 ≤ 0x110030 + 0x8 * (k / 64); omega)))
  refine ⟨_, (orderRow_exec rfl s).trans (unit_next ht.queue ht.stores ((order_taken ht).trans hbody) hk), parks_park ?_, ?_, ?_, fun k hkl h200 => ?_,
    fun k _ hkl => ?_⟩
  · rw [hheld]
    exact mkOrd_mem_flown s q b []
  · rw [hheld]
    exact htest
  · rw [hheld]
    exact congrArg (· ++ [_]) flown_testsWaiting
  · rw [hstill]
    simp [hkl, h200]
  · rw [hstill, hbefore]
    simp [hkl]

/-! ## Waiting orders start -/

section
variable {agree : Bool} {s : State} (hs : s.stores = [])
include hs

/-- No waiting order whose unit is free: nothing starts. -/
theorem busyUnitStart_idle (h : s.waiting.find? s.unitFree = none) : exec (.busyUnitStart agree) s = .next s :=
  run_same (f := busyUnitStart agree) hs (by unfold busyUnitStart; rw [h])

/-- The idle engine takes the one order that waits for it. -/
theorem busyUnitStart_takesEngine {o : Ord} (hw : s.waiting = [o]) (hop : o.op = 0x0500) (hstore : o.field 16 1 ≠ 2)
    (hdraws : (bneDraws (o.field 16 1) o && s.wellFailed) = false) (hidle : s.bne = none) :
    exec (.busyUnitStart agree) s = .next ({ s with waiting := [] }.bneBegin o (o.field 16 1) []) := by
  have hfree : s.unitFree o = true := by
    unfold State.unitFree
    rw [hop, hidle]
    rfl
  have hfind : s.waiting.find? s.unitFree = some o := by
    rw [hw]
    exact List.find?_cons_of_pos hfree
  have hrest : s.waiting.filter (fun x => x.id != o.id) = [] := by simp [hw]
  refine run_next (f := busyUnitStart agree) hs ?_ ⟨rfl, rfl, rfl⟩
  unfold busyUnitStart
  rw [hfind]
  dsimp only
  rw [hrest]
  unfold State.startWaiting
  rw [hop]
  exact (if_neg (ne_true_of_eq_false hdraws)).trans (if_neg hstore)

end

theorem bneBegin_busy (s : State) (o : Ord) (op : Nat) (dst : List (Nat × Nat × Nat)) : (s.bneBegin o op dst).get F.BNE_STATE_BUSY = 1 :=
  (State.get_put_beside _ F.BNE_STATE_ALLOT F.BNE_STATE_BUSY _ (by decide) (by decide)).trans (State.get_put_fits _ (by decide) (by decide))

/-! ## The deadline of a waiting order -/

theorem leaveTest_none {s : State} (h : s.testsWaiting = []) (o : Ord) : s.leaveTest o = s := by
  unfold State.leaveTest
  rw [h]
  exact congrArg (fun l => { s with testsWaiting := l }) h.symm

section
variable {q : Nat} {o : Ord} {s : State} (hw : s.waiting = [o]) (hoq : o.q = q) (hdue : o.deadline = s.wck.turn)
include hw hoq hdue

theorem deadline_due : s.waiting.find? (fun o => o.q == q && (turnPassed s o.deadline || o.deadline == s.wck.turn)) = some o := by
  rw [hw]
  exact List.find?_cons_of_pos (by simp [hoq, hdue])

variable (hs : s.stores = []) (hq : q < 64) (ho : o ∈ s.inflight)
include hs hq ho

/-- The one order that waits ends TIMEOUT in its deadline turn. -/
theorem deadline_ends (htests : s.testsWaiting = []) :
    ∃ t, exec (.orderDeadlineTimeout q false) s = .next t ∧ Ends s t o stTimeout 0 openTimeout ∧ t.waiting = [] := by
  have hrest : s.waiting.filter (fun x => x.id != o.id) = [] := by simp [hw]
  have hend : deadlineTimeout q false s = { s with waiting := [] }.finish o stTimeout 0 openTimeout := by
    unfold deadlineTimeout
    rw [deadline_due hw hoq hdue]
    dsimp only
    rw [if_neg Bool.false_ne_true, hrest, leaveTest_none (s := { s with waiting := [] }) htests]
  obtain ⟨hrep, hended, hout, -⟩ := finish_spec { s with waiting := [] } o stTimeout 0 openTimeout false ho
  obtain ⟨_, _, _, _, _, hfinish⟩ := finish_eq { s with waiting := [] } o stTimeout 0 openTimeout false
  have hk : Untouched s ({ s with waiting := [] }.finish o stTimeout 0 openTimeout) := by
    rw [hfinish]
    exact ⟨rfl, rfl, rfl⟩
  refine ⟨_, unit_next hq hs hend hk, ⟨hrep, hended, fun r hr => congrArg Queue.out (hout r hr), hk.rd⟩, ?_⟩
  rw [hfinish]

/-- On a tie it waits on, marked. -/
theorem deadline_ties : ∃ t, exec (.orderDeadlineTimeout q true) s = .next t ∧ t.waiting = [o] ∧
    (∀ x ∈ t.inflight, x.id = o.id → x.margin = true) ∧ t = { s with inflight := t.inflight } ∧ ∀ x, t.rd x = s.rd x := by
  have htie : deadlineTimeout q true s = s.tieOrders [o] := by
    unfold deadlineTimeout
    rw [deadline_due hw hoq hdue]
    exact if_pos rfl
  obtain ⟨-, hmarked⟩ := tieOrders_tied ho
  exact ⟨_, unit_next hq hs htie ⟨rfl, rfl, rfl⟩, hw, hmarked, rfl, fun _ => rfl⟩

end

/-- Settles O35: a unit that is busy, or that earlier orders wait for, parks the order at its grant; a free one takes it, and its deadline ends it. -/
theorem ordersWaitForTheirUnit : Obligations.OrdersWaitForTheirUnit := by
  intro q b s
  dsimp only
  have hengine : (s.flown q b []).bne.isSome = s.bne.isSome := congrArg Option.isSome flown_bne
  have hsym : (s.flown q b []).sym.isSome = s.sym.isSome := congrArg Option.isSome flown_sym
  have hgauge : (s.flown q b []).gau.isSome = s.gau.isSome := congrArg Option.isSome flown_gau
  have hbus : (s.flown q b []).i2c (ixBus (s.mkOrd q b [])) = s.i2c (ixBus (s.mkOrd q b [])) := congrArg (smGet I2cBus.reset · _) flown_i2cs
  have hbasin : (s.flown q b []).bsnBusy (bsBasin (s.mkOrd q b [])) = s.bsnBusy (bsBasin (s.mkOrd q b [])) := flown_bsnBusy _
  have hpipe : (s.flown q b []).visBusy (vpPipe (s.mkOrd q b [])) = (s.vis (vpPipe (s.mkOrd q b []))).run.isSome := flown_visBusy _
  refine ⟨fun h x hx => row_waits (h.imp_left hengine.trans) ?engine, fun h x hx => row_waits (h.imp_left hsym.trans) ?symmetric,
    fun h x hx => row_waits (h.imp_left hbasin.trans) ?basin,
    fun h ht => exec_holdsBasin (start := (startLoad · _)) (h.imp_left hbasin.trans) rfl ht rfl rfl,
    fun h x hx ht => ?pipeline, exec_waitsTest,
    fun h => row_waits (x := (specGauSample, .gauSample q)) (h.imp_left hgauge.trans) ⟨rfl, _, rfl⟩,
    fun h => row_waits (x := (specMgtI2cXfer, .mgtI2cXfer q)) (h.imp_left (congrArg (·.ord.isSome) hbus).trans) ⟨rfl, _, rfl⟩,
    fun o agree hs hw hop hstore hdraws => ⟨fun hidle => ?takes, fun hbusy => busyUnitStart_idle hs ?none⟩,
    fun agree hs hw => busyUnitStart_idle hs (by rw [hw]; rfl),
    fun o hs hq hw htests hoq hdue ho => ⟨deadline_ends hw hoq hdue hs hq ho htests, deadline_ties hw hoq hdue hs hq ho⟩⟩
  case engine => fin_cases hx <;> exact ⟨rfl, _, rfl⟩
  case symmetric => fin_cases hx <;> exact ⟨rfl, _, rfl⟩
  case basin => fin_cases hx <;> exact ⟨rfl, _, rfl⟩
  case pipeline =>
    have hbusy := h.imp_left hpipe.trans
    fin_cases hx
    · exact exec_holdsPipeline (start := (startGraph · _)) hbusy rfl ht rfl rfl
    · exact exec_holdsPipeline (start := (startVis · _)) hbusy rfl ht rfl rfl
  case takes =>
    exact ⟨_, busyUnitStart_takesEngine hs hw hop hstore hdraws hidle, rfl, rfl, bneBegin_busy _ _ _ _, rfl, fun _ => rfl, fun _ => rfl⟩
  case none =>
    have hfree : s.unitFree o = false := by
      unfold State.unitFree
      rw [hop]
      exact Option.isNone_eq_false_iff.mpr hbusy
    rw [hw]
    exact List.find?_cons_of_neg (ne_true_of_eq_false hfree)

end Sys2Proof.Machine
end

section
/-! PROOFS. RIGHTS_SET and SLUICE_REOPEN at their acceptance (R143, R147, R476). -/

namespace Sys2Proof.Machine

/-! ## Orders taken -/

/-- The grant changes no record of an allotment but its session's counter. -/
theorem flown_allot (s : State) (q : Nat) (b host : Bytes) (a : Nat) : ∃ x, (s.flown q b host).allot a = { s.allot a with session := x } := by
  obtain ⟨_, _, _, _, hlaunched⟩ := launched_eq s q b (s.mkOrd q b host)
  have hallot : ∀ a, ((s.consume q b).launch (s.mkOrd q b host)).allot a = s.allot a := fun a => by rw [hlaunched]; rfl
  unfold State.flown State.acceptCounter
  split
  · exact ⟨_, hallot a⟩
  · split
    · exact ⟨_, hallot a⟩
    · rw [hallot]
      by_cases ha : a = (s.mkOrd q b host).allot
      · subst ha
        exact ⟨_, State.allot_setAllot_self _ _ _⟩
      · exact ⟨_, (State.allot_setAllot_ne _ _ ha).trans (hallot a)⟩

/-- An order that is granted to a row is of the row's opcode. -/
theorem Taken.op {sp : Spec} {q : Nat} {host b : Bytes} {s : State} (h : Taken sp q host b s) : (s.mkOrd q b host).op = sp.op := by
  have hgranted := h.granted
  unfold State.grantable at hgranted
  split at hgranted
  · split at hgranted
    · split at hgranted
      · rename_i hrow
        cases hgranted
        exact hrow.1
      · cases hgranted
    · cases hgranted
  · cases hgranted

/-- An order that leaves queue, external memory and stores alone completes with what its body leaves. -/
theorem exec_leaves {c : Instr} {sp : Spec} {q : Nat} {host b : Bytes} {s t : State} (hc : orderRow c = some (sp, q, host))
    (ht : Taken sp q host b s) (hb : sp.body (s.flown q b host) (s.mkOrd q b host) = t) (hk : Untouched (s.flown q b host) t) :
    exec c s = .next t :=
  (orderRow_exec hc s).trans (unit_next ht.queue ht.stores ((order_taken ht).trans hb) ((flown_untouched s q b host).trans hk))

theorem flown_out (s : State) (q : Nat) (b host : Bytes) (r : Nat) : ((s.flown q b host).queue r).out = (s.queue r).out := by
  obtain ⟨_, _, _, _, h⟩ := flown_queue s q r b host
  rw [h]

/-! ## RIGHTS_SET -/

/-- An allotment whose RIGHTS_SET stands staged shows it. -/
theorem noteRights_staged {s : State} {a : Nat} {x : Staged} {es : List RightsEntry} (hx : x ∈ s.staged) (hc : x.change = .rights a es)
    (hop : x.ord.op = 0x0300) : (s.noteRights a).get (F.ALT_RIGHTS_STAGED a) = 1 := by
  unfold State.noteRights
  rw [State.get_put_beside _ (F.ALT_RIGHTS_WAITING a) (F.ALT_RIGHTS_STAGED a) _ (by decide : 10 + 1 ≤ 64) (.inr (by decide : 9 + 1 ≤ 10)),
    State.get_put_self _ _ _ (by decide : 9 + 1 ≤ 64)]
  rw [decide_eq_true]
  · rfl
  · refine List.ne_nil_of_mem (a := es) (List.mem_filterMap.2 ⟨x, hx, ?_⟩)
    rw [hc]
    exact if_pos ⟨rfl, hop⟩

theorem noteRights_reg (s : State) {a r : Nat} (h : r ≠ 0x40120 + 0x100 * a) : (s.noteRights a).reg r = s.reg r := by
  unfold State.noteRights
  exact (State.reg_put_ne _ (F.ALT_RIGHTS_WAITING a) _ h).trans
    ((State.reg_put_ne _ (F.ALT_RIGHTS_STAGED a) _ h).trans (State.reg_put_ne _ (F.ALT_RIGHTS_RANGES a) _ h))

theorem specRightsSet_body (s : State) (o : Ord) :
    specRightsSet.body s o = (s.stage o (.rights o.allot ((rsEntries o).map entryOf))).noteRights o.allot := rfl

/-! ## SLUICE_REOPEN -/

/-- What SLUICE_REOPEN leaves: its reopening listed, with the fallow turn it obtains. -/
def State.reopening (s : State) (o : Ord) : State :=
  let s := { s with
    wck := { s.wck with fallow := listed s.wck.fallow s.fallowTurn }
    reopens := s.reopens ++ [⟨o, roScope o, roSubject o, s.fallowTurn, false⟩] }
  if roScope o = 2 then s.put (F.SLU_ALLOT_STATE o.allot) 2 else s

theorem specSluiceReopen_body (s : State) (o : Ord) : specSluiceReopen.body s o = s.reopening o := by
  show (if roScope o = 2 then _ else _) = _
  rw [addFallow_eq]
  rfl

/-- The reopening of an allotment changes, besides its own lists, SLU_ALLOT of that allotment alone. -/
theorem reopening_rest (s : State) (o : Ord) : s.reopening o = { s with
      regs := (s.reopening o).regs, wck := { s.wck with fallow := listed s.wck.fallow s.fallowTurn }
      reopens := s.reopens ++ [⟨o, roScope o, roSubject o, s.fallowTurn, false⟩] } := by
  unfold State.reopening
  dsimp only
  split <;> rfl

theorem reopening_reg (s : State) (o : Ord) {r : Nat} (h : r ≠ 0x100100 + 0x20 * o.allot) : (s.reopening o).reg r = s.reg r := by
  unfold State.reopening
  dsimp only
  split
  · exact (State.reg_put_ne _ (F.SLU_ALLOT_STATE o.allot) _ h).trans (reg_congr rfl r)
  · exact reg_congr rfl r

theorem reopening_sluiceOf (s : State) (o : Ord) (h : roScope o = 2) : (s.reopening o).sluiceOf o.allot = 2 := by
  unfold State.reopening
  dsimp only
  rw [if_pos h]
  exact State.get_put_fits _ (by decide : 0 + 2 ≤ 64) (by decide : 2 < 2 ^ 2)

theorem reopening_flown {q : Nat} (b : Bytes) {s t : State} (hq : q < 64)
    (hrest : t = { s.flown q b [] with
      regs := t.regs, wck := { (s.flown q b []).wck with fallow := listed (s.flown q b []).wck.fallow (s.flown q b []).fallowTurn }
      reopens := (s.flown q b []).reopens ++ [⟨s.mkOrd q b [], roScope (s.mkOrd q b []), roSubject (s.mkOrd q b []), (s.flown q b []).fallowTurn, false⟩] }) :
    t.reopens = s.reopens ++ [⟨s.mkOrd q b [], roScope (s.mkOrd q b []), roSubject (s.mkOrd q b []), s.fallowTurn, false⟩] ∧
      s.fallowTurn ∈ t.wck.fallow ∧ t.closed = s.closed := by
  obtain ⟨_, _, _, hflown⟩ := flown_eq s q b []
  have hreopens : (s.flown q b []).reopens = s.reopens := by rw [hflown]
  have hclosed : (s.flown q b []).closed = s.closed := by rw [hflown]
  rw [flown_fallowTurn s q b [] hq, hreopens] at hrest
  rw [hrest]
  exact ⟨rfl, mem_listed _ _, hclosed⟩

section
variable {q : Nat} {b : Bytes} {s : State}

theorem rightsSet_accepted (ht : Taken specRightsSet q [] b s) : let o := s.mkOrd q b []; ∃ t, exec (.rightsSet q) s = .next t ∧
    t.staged = s.staged ++ [⟨o, .rights o.allot ((rsEntries o).map entryOf), false, s.wck.now⟩] ∧
    (∀ a, (t.allot a).rights = (s.allot a).rights) ∧ t.get (F.ALT_RIGHTS_STAGED o.allot) = 1 ∧
    o ∈ t.inflight ∧ (∀ r, (t.queue r).out = (s.queue r).out) ∧
    (∀ r, r ∉ orderRegs q o.allot → r ≠ 0x40120 + 0x100 * o.allot → t.reg r = s.reg r) ∧ ∀ x, t.rd x = s.rd x := by
  have hspec := noteRights_spec ((s.flown q b []).stage (s.mkOrd q b [])
    (.rights (s.mkOrd q b []).allot ((rsEntries (s.mkOrd q b [])).map entryOf))) (allot_passes ht.passes rfl)
  have hshown := noteRights_staged (s := (s.flown q b []).stage (s.mkOrd q b [])
    (.rights (s.mkOrd q b []).allot ((rsEntries (s.mkOrd q b [])).map entryOf))) (List.mem_append_right _ List.mem_cons_self) rfl ht.op
  obtain ⟨hrest, -⟩ := hspec
  have hk : Untouched (s.flown q b []) (((s.flown q b []).stage (s.mkOrd q b [])
      (.rights (s.mkOrd q b []).allot ((rsEntries (s.mkOrd q b [])).map entryOf))).noteRights (s.mkOrd q b []).allot) := by
    rw [hrest]
    exact ⟨rfl, rfl, rfl⟩
  refine ⟨_, exec_leaves rfl ht (specRightsSet_body _ _) hk, ?_, fun a => ?_, hshown, ?_, fun r => ?_, fun r hr hrights => ?_, ((flown_untouched s q b []).trans hk).rd⟩
  · rw [hrest]
    show (s.flown q b []).staged ++ _ = _
    rw [flown_staged, flown_wck]
  · obtain ⟨_, h⟩ := flown_allot s q b [] a
    rw [hrest]
    show ((s.flown q b []).allot a).rights = _
    rw [h]
  · rw [hrest]
    exact mkOrd_mem_flown s q b []
  · rw [hrest]
    exact flown_out s q b [] r
  · exact (noteRights_reg _ hrights).trans (flown_reg s q b [] _ r hr)

theorem sluiceReopen_accepted (ht : Taken specSluiceReopen q [] b s) : let o := s.mkOrd q b []; ∃ t, exec (.sluiceReopen q) s = .next t ∧
    t.reopens = s.reopens ++ [⟨o, roScope o, roSubject o, s.fallowTurn, false⟩] ∧ s.fallowTurn ∈ t.wck.fallow ∧
    (roScope o = 2 → t.sluiceOf o.allot = 2) ∧ o ∈ t.inflight ∧ (∀ r, (t.queue r).out = (s.queue r).out) ∧
    t.closed = s.closed ∧ (∀ r, r ∉ orderRegs q o.allot → r ≠ 0x100100 + 0x20 * o.allot → t.reg r = s.reg r) ∧
    ∀ x, t.rd x = s.rd x := by
  have hrest := reopening_rest (s.flown q b []) (s.mkOrd q b [])
  have hk : Untouched (s.flown q b []) ((s.flown q b []).reopening (s.mkOrd q b [])) := by rw [hrest]; exact ⟨rfl, rfl, rfl⟩
  have hsluice := reopening_sluiceOf (s.flown q b []) (s.mkOrd q b [])
  have hreg := fun r (h : r ≠ 0x100100 + 0x20 * (s.mkOrd q b []).allot) => reopening_reg (s.flown q b []) (s.mkOrd q b []) h
  have hexec := exec_leaves (c := .sluiceReopen q) rfl ht (specSluiceReopen_body _ _) hk
  obtain ⟨hreopens, hfallow, hclosed⟩ := reopening_flown b ht.queue hrest
  refine ⟨_, hexec, hreopens, hfallow, hsluice, ?_, fun r => ?_, hclosed,
    fun r hr hsl => (hreg r hsl).trans (flown_reg s q b [] _ r hr), ((flown_untouched s q b []).trans hk).rd⟩
  · rw [hrest]
    exact mkOrd_mem_flown s q b []
  · rw [hrest]
    exact flown_out s q b [] r

end

/-- Settles O15: RIGHTS_SET stages its entries in their order and notes them; SLUICE_REOPEN lists its reopening. -/
theorem rightsAndReopeningsAreAccepted : Obligations.RightsAndReopeningsAreAccepted := fun _ _ _ =>
  ⟨rightsSet_accepted, sluiceReopen_accepted⟩

end Sys2Proof.Machine
end

section
/-! PROOFS. The life cycle of a plan (R139, R180, R196, R198, Table 5-2): what a load's reads note, what its end and the orders that arm, stop
and unload a plan leave. -/

namespace Sys2Proof.Machine

/-! ## The end of an order -/

theorem freeLoad_allot (s : State) (o : Ord) (b : Nat) : ∃ x, (s.freeLoad o).allot b = { s.allot b with loading := x } := by
  unfold State.freeLoad
  dsimp only
  split
  · split
    · by_cases hb : b = o.allot
      · subst hb
        exact ⟨_, State.allot_setAllot_self _ _ _⟩
      · exact ⟨_, State.allot_setAllot_ne _ _ hb⟩
    · exact ⟨_, rfl⟩
  · exact ⟨_, rfl⟩

theorem freeLoad_allot_ne (s : State) {o : Ord} {b : Nat} (hb : b ≠ o.allot) : (s.freeLoad o).allot b = s.allot b := by
  unfold State.freeLoad
  dsimp only
  split
  · split
    · exact State.allot_setAllot_ne _ _ hb
    · rfl
  · rfl

theorem finish_allots (s : State) (o : Ord) (st i d : Nat) (m : Bool) :
    (s.finish o st i d m).allots = (s.freeLoad o).allots ∨ (s.finish o st i d m).allots = s.allots := by
  unfold State.finish
  split
  · show (s.endOrder o).allots = _ ∨ (s.endOrder o).allots = _
    unfold State.endOrder
    split
    · exact .inl rfl
    · exact .inr rfl
  · exact .inr rfl

theorem allot_congr {s t : State} (h : s.allots = t.allots) (a : Nat) : s.allot a = t.allot a := by
  unfold State.allot
  rw [h]

/-- The end of an order changes of an allotment's record at most the load that it was. -/
theorem finish_allot (s : State) (o : Ord) (st i d : Nat) (m : Bool) (b : Nat) :
    ∃ x, (s.finish o st i d m).allot b = { s.allot b with loading := x } := by
  rcases finish_allots s o st i d m with h | h <;> rw [allot_congr h]
  · exact freeLoad_allot s o b
  · exact ⟨_, rfl⟩

theorem finish_allot_ne (s : State) {o : Ord} (st i d : Nat) (m : Bool) {b : Nat} (hb : b ≠ o.allot) :
    (s.finish o st i d m).allot b = s.allot b := by
  rcases finish_allots s o st i d m with h | h <;> rw [allot_congr h]
  exact freeLoad_allot_ne s hb

theorem finish_altState (s : State) (o : Ord) (st i d : Nat) (m : Bool) (a : Nat) : (s.finish o st i d m).altState a = s.altState a :=
  (finish_planKept s o st i d m).state

/-- The end of an order after an effect that writes no tally and no byte. -/
theorem ends_finish {s u : State} {o : Ord} (st i d : Nat) (ho : o ∈ u.inflight) (hq : ∀ r, (u.queue r).out = (s.queue r).out)
    (hw : u.wck = s.wck) (hrd : ∀ x, u.rd x = s.rd x) : Ends s (u.finish o st i d) o st i d := by
  obtain ⟨-, hended, hother, -⟩ := finish_spec u o st i d false ho
  exact ⟨reports_of ho (hq _) hw, hended, fun r hr => (congrArg Queue.out (hother r hr)).trans (hq r),
    fun x => ((Untouched.refl u).finish (o := o) (st := st) (item := i) (detail := d) (m := false)).rd x |>.trans (hrd x)⟩

/-- Effects that leave queues, orders in flight and memory alone keep how an order has ended. -/
theorem Ends.same {s t u : State} {o : Ord} {st i d : Nat} (h : Ends s t o st i d) (hq : u.queues = t.queues) (hin : u.inflight = t.inflight)
    (hk : Untouched t u) : Ends s u o st i d := by
  obtain ⟨⟨m, hrep⟩, hended, hother, hrd⟩ := h
  exact ⟨⟨m, (congrArg Queue.out (queue_congr hq _)).trans hrep⟩, fun x hx => hended x (hin ▸ hx),
    fun r hr => (congrArg Queue.out (queue_congr hq r)).trans (hother r hr), fun x => (hk.rd x).trans (hrd x)⟩

/-! ## Cores alone -/

namespace CoresOnly

variable {s t : State} (h : CoresOnly s t)
include h

theorem untouched : Untouched s t := by rw [h.rest]; exact ⟨rfl, rfl, rfl⟩
theorem allot (a : Nat) : t.allot a = s.allot a := by rw [h.rest]; rfl
theorem queues : t.queues = s.queues := by rw [h.rest]
theorem inflight : t.inflight = s.inflight := by rw [h.rest]
theorem wck : t.wck = s.wck := by rw [h.rest]
theorem altState {a : Nat} (ha : a < 16) : t.altState a = s.altState a := get_of_reg (h.reg _ (by
  show 0x40100 + 0x100 * a < 0x50000
  omega))

end CoresOnly

theorem fillStandby_only (s : State) (a : Nat) (banks : SMap (List Entry)) : CoresOnly s (s.fillStandby a banks) :=
  foldl_keeps CoresOnly.refl CoresOnly.trans _ (fun s c _ => ((CoresOnly.refl s).setCore c _).put (coreState_ge c) _) s

theorem clearValid_only (s : State) (a : Nat) : CoresOnly s (s.clearValid a) :=
  foldl_keeps CoresOnly.refl CoresOnly.trans _ (fun s c _ => (CoresOnly.refl s).setCore c _) s

theorem dropStandby_only (s : State) (a : Nat) : CoresOnly (s.setAllot a { s.allot a with standby := none }) (s.dropStandby a) :=
  foldl_keeps CoresOnly.refl CoresOnly.trans _ (fun s c _ => ((CoresOnly.refl s).setCore c _).put (coreState_ge c) _) _

theorem dropStandby_untouched (s : State) (a : Nat) : Untouched s (s.dropStandby a) :=
  have hrecord : Untouched s (s.setAllot a { s.allot a with standby := none }) := ⟨rfl, rfl, rfl⟩
  hrecord.trans (dropStandby_only s a).untouched

theorem dropStandby_allot (s : State) (a : Nat) : (s.dropStandby a).allot a = { s.allot a with standby := none } :=
  ((dropStandby_only s a).allot a).trans (State.allot_setAllot_self _ _ _)

/-- The record of an allotment whose plans are unloaded. -/
def Allot.unloaded (x : Allot) : Allot := { x with active := none, standby := none, planTurn := 0, executed := 0, partialPoison := none }

theorem unloadPlans_only (s : State) (a : Nat) : CoresOnly (s.setAllot a (s.allot a).unloaded) (s.unloadPlans a) :=
  foldl_keeps CoresOnly.refl CoresOnly.trans _ (fun s c _ => (CoresOnly.refl s).put (coreState_ge c) _) _

/-! ## What the reads of a load note -/

/-- Between two states only what reads of blocks and walks note may differ: log, counts of blocks in error, blocks to be rewritten, cached
walks, the walk fault of allotment `a`; no record of an allotment reads otherwise. -/
structure Noted (a : Nat) (s t : State) : Prop where
  rest : t = { s with regs := t.regs, allots := t.allots, log := t.log, corrLogged := t.corrLogged, rewriteQ := t.rewriteQ, tcache := t.tcache }
  reg : ∀ r < 0xA0108, r ≠ 0x40130 + 0x100 * a → t.reg r = s.reg r
  allot : ∀ b, t.allot b = s.allot b

namespace Noted

variable {a : Nat} {s t u : State}

theorem refl (s : State) : Noted a s s := ⟨rfl, fun _ _ _ => rfl, fun _ => rfl⟩

theorem trans (h : Noted a s t) (k : Noted a t u) : Noted a s u :=
  ⟨by rw [k.rest, h.rest], fun r hr hne => (k.reg r hr hne).trans (h.reg r hr hne), fun b => (k.allot b).trans (h.allot b)⟩

theorem put (h : Noted a s t) {f : Fld} (hf : 0xA0108 ≤ f.reg ∨ f.reg = 0x40130 + 0x100 * a) (v : Nat) : Noted a s (t.put f v) :=
  h.trans ⟨rfl, fun r hr hne => State.reg_put_ne t f v (by rcases hf with hf | hf <;> omega), fun _ => rfl⟩

theorem bump (h : Noted a s t) {f : Fld} (hf : 0xA0108 ≤ f.reg) (n : Nat) : Noted a s (t.bump f n) := h.put (.inl hf) _

theorem logEntry (h : Noted a s t) (e : LogEntry) : Noted a s (t.logEntry e) := by
  obtain ⟨_, _, heq⟩ := logEntry_eq t e
  refine h.trans ⟨by rw [heq], fun r hr _ => logEntry_reg t e (by omega), fun b => by rw [heq]; rfl⟩

theorem corrects (h : Noted a s t) (l : List (Nat × Nat)) : Noted a s { t with corrLogged := l } := h.trans ⟨rfl, fun _ _ _ => rfl, fun _ => rfl⟩

theorem rewrites (h : Noted a s t) (q : SMap (List Nat)) : Noted a s { t with rewriteQ := q } := h.trans ⟨rfl, fun _ _ _ => rfl, fun _ => rfl⟩

theorem caches (h : Noted a s t) (l : List (Nat × Nat × Nat)) : Noted a s { t with tcache := l } := h.trans ⟨rfl, fun _ _ _ => rfl, fun _ => rfl⟩

/-- Fields beside those that the reads note. -/
theorem get (h : Noted a s t) {f : Fld} (hf : f.reg < 0xA0108) (hne : f.reg ≠ 0x40130 + 0x100 * a) : t.get f = s.get f :=
  get_of_reg (h.reg _ hf hne)

theorem untouched (h : Noted a s t) : Untouched s t := by rw [h.rest]; exact ⟨rfl, rfl, rfl⟩
theorem queues (h : Noted a s t) : t.queues = s.queues := by rw [h.rest]
theorem inflight (h : Noted a s t) : t.inflight = s.inflight := by rw [h.rest]
theorem wck (h : Noted a s t) : t.wck = s.wck := by rw [h.rest]

end Noted

theorem noted_foldl {a : Nat} {β : Type} {f : State → β → State} (l : List β) (h : ∀ s x, Noted a s (f s x)) (s : State) : Noted a s (l.foldl f s) :=
  foldl_keeps Noted.refl Noted.trans l (fun s x _ => h s x) s

theorem logCorrected_noted {a : Nat} {s t : State} (h : Noted a s t) (kind idx cause value allot subject origin : Nat) :
    Noted a s (t.logCorrected kind idx cause value allot subject origin) := by
  unfold State.logCorrected
  split
  · exact h
  · exact (h.logEntry _).corrects _

theorem readEvent_noted {a : Nat} (s : State) (b of_ allot : Nat) : Noted a s (s.readEvent b of_ allot) := by
  have hecc : ∀ st, 0xA0108 ≤ 0xA0108 + 0x20 * st := fun st => by omega
  have hfirst : ∀ st, 0xA0108 ≤ 0xA0110 + 0x20 * st := fun st => by omega
  unfold State.readEvent
  dsimp only
  split
  · exact .refl s
  · have hlogged := logCorrected_noted ((Noted.refl (a := a) s).bump (f := F.HBM_ECC_CORRECTED (b * 64 / stackSize)) (hecc _) 1) 1 (b * 64 / stackSize) 0x10A
      (blockIn (b * 64)) allot (b * 64 / stackSize) 0xFFFFFFFF
    split
    · exact hlogged
    · split
      · exact hlogged.rewrites _
      · exact hlogged.bump (hecc _) _
  · have hlogged : Noted a s ((s.bump (F.HBM_ECC_UNCORRECTABLE (b * 64 / stackSize))).logCause 0x10B (blockIn (b * 64)) allot (b * 64 / stackSize)) :=
      ((Noted.refl s).bump (hecc _) _).logEntry _
    split
    · exact hlogged
    · exact ((hlogged.put (.inl (hfirst _)) _).put (.inl (hfirst _)) _).put (.inl (hfirst _)) _

theorem readFor_noted {a : Nat} (s : State) (p n kind allot : Nat) : Noted a s (s.readFor p n kind allot).2.2 :=
  noted_foldl _ (fun s b => readEvent_noted s b kind allot) s

theorem readTables_noted {a : Nat} (s : State) (b root n : Nat) (ok : Nat → Bool) (l : List (Nat × Nat × Nat)) :
    Noted a s (s.readTables b root n ok l) := by
  induction l generalizing s with
  | nil => exact .refl s
  | cons x l ih =>
    have hwalk : Noted a s ((s.walkBlocks b root n x.1).foldl (fun t k => t.readEvent k 1 b) s) := noted_foldl _ (fun s k => readEvent_noted s k 1 b) s
    unfold State.readTables
    dsimp only
    split
    · exact hwalk
    · exact hwalk.trans (ih _)

/-- Rights taken for the reads of a load are given back after them. -/
theorem readTablesFor_noted {a : Nat} (s : State) (v : LoadView) (ok : Nat → Bool) (l : List (Nat × Nat × Nat)) : Noted a s (s.readTablesFor v ok l) := by
  have hreads : Noted a (s.setAllot v.ord.allot { s.allot v.ord.allot with rights := v.rights }) _ :=
    noted_foldl l (fun t g => readTables_noted t v.ord.allot v.root v.levels ok [g]) _
  obtain ⟨hrest, hreg, hallot⟩ := hreads
  refine ⟨?_, hreg, fun b => ?_⟩
  · unfold State.readTablesFor
    dsimp only
    rw [hrest]
    rfl
  · unfold State.readTablesFor
    dsimp only
    by_cases hb : b = v.ord.allot
    · subst hb
      rw [State.allot_setAllot_self, hallot, State.allot_setAllot_self]
    · rw [State.allot_setAllot_ne _ _ hb, hallot, State.allot_setAllot_ne _ _ hb]

theorem walkFault_noted (s : State) (a addr cause src : Nat) : Noted a s (s.walkFault a addr cause src) := by
  have hlogged : Noted a s (s.logCause 0x105 (addr % 2 ^ 48 + cause * 2 ^ 48) a) := (Noted.refl s).logEntry _
  unfold State.walkFault
  dsimp only
  split
  · exact hlogged
  · exact (((hlogged.put (.inr rfl) _).put (.inr rfl) _).put (.inr rfl) _).put (.inr rfl) _

theorem orderFault_noted (s : State) (a : Nat) (w : Why) : Noted a s (s.orderFault a w) := by
  unfold State.orderFault
  split
  · exact walkFault_noted s a _ _ _
  · exact .refl s

theorem readPage_noted {a : Nat} (b : Nat) (x : ImageRead × State) (g : (Nat × Nat × Nat) × Except Nat Nat) : Noted a x.2 (State.readPage b x g).2 := by
  unfold State.readPage
  dsimp only
  split
  · exact .refl _
  · exact readFor_noted _ _ _ _ _

theorem readPages_noted {a : Nat} (b : Nat) (l : List ((Nat × Nat × Nat) × Except Nat Nat)) (r : ImageRead) (s : State) :
    Noted a s (l.foldl (State.readPage b) (r, s)).2 :=
  foldl_keeps (R := fun x y : ImageRead × State => Noted a x.2 y.2) (fun x => .refl x.2) Noted.trans l (fun x g _ => readPage_noted b x g) (r, s)

theorem readImage_noted (s : State) (v : LoadView) : Noted v.ord.allot s (s.readImage v).2 := by
  unfold State.readImage
  dsimp only
  split
  · exact .refl s
  · split
    · exact (readTablesFor_noted s v _ _).trans (readPages_noted _ _ _ _)
    · split
      · exact readTablesFor_noted s v _ _
      · exact ((readTablesFor_noted s v _ _).trans (orderFault_noted _ _ _)).trans (readPages_noted _ _ _ _)

/-! ## SCHED_LOAD -/

theorem firstFlaw_singleton (f : Flaw) : firstFlaw [f] = some f := rfl

theorem verdict_ord (t : Tr) (o : Ord) (r : ImageRead) : (t.verdict o r).ord = o := by
  unfold Tr.verdict
  dsimp only
  split <;> rfl

/-- An image that is read whole and holds no header fails for its length. -/
theorem verdict_short (t : Tr) (o : Ord) {r : ImageRead} (hgaps : r.gaps = []) (hflaws : r.flaws = []) (hshort : r.bytes.length < 192) :
    ∃ d, (t.verdict o r).fail = some (stBadLength, d) := by
  have hread : t.flawsRead r = [planFlaw stBadLength 0x61] := by
    unfold Tr.flawsRead Tr.flaws
    dsimp only
    rw [if_pos hgaps, if_pos hshort]
  unfold Tr.verdict
  dsimp only
  rw [hread, hflaws, List.nil_append, firstFlaw_singleton]
  exact ⟨_, rfl⟩

theorem length_padTo {n : Nat} {b : Bytes} (h : b.length ≤ n) : (padTo n b).length = n := by
  unfold padTo
  rw [List.length_append, List.length_replicate]
  omega

/-- A load whose image is read: it is under way with the verdict of its checks. -/
theorem translateLoad_reads {s : State} {o : Ord} {v : LoadView} (hv : (s.allot o.allot).loading = some v) {r : ImageRead} (hr : (s.readImage v).1 = .ok r) :
    s.translateLoad o = { (s.readImage v).2.readTablesFor v (fun _ => true) (((s.readImage v).2.trOf v r.bytes).walked r) with
      load := some (((s.readImage v).2.trOf v r.bytes).verdict o r) } := by
  unfold State.translateLoad
  rw [hv]
  dsimp only
  generalize hx : s.readImage v = x at hr
  obtain ⟨y, t⟩ := x
  cases hr
  rfl

theorem readImage_host {s : State} {v : LoadView} (h : slLoc v.ord = false) :
    (s.readImage v).1 = .ok ⟨padTo (slBytes v.ord) (v.ord.host.take (slBytes v.ord)), [], []⟩ := by
  unfold State.readImage
  exact congrArg Prod.fst (if_pos (by rw [h]; rfl))

/-- The load that SCHED_LOAD asks for, with rights and turnout as its grant finds them. -/
def State.loadView (s : State) (o : Ord) : LoadView := ⟨o, (s.allot o.allot).rights, s.turnoutRoot o.allot, s.turnoutLevels o.allot⟩

/-- The allotment is BUSY with the load. -/
def State.takeLoad (s : State) (o : Ord) : State :=
  (s.setAllot o.allot { s.allot o.allot with loading := some (s.loadView o) }).put (F.ALT_STATE_BUSY o.allot) 1

theorem specSchedLoad_body (s : State) (o : Ord) :
    specSchedLoad.body s o = (s.takeLoad o).serve o (s.takeLoad o).load.isSome (·.translateLoad o) := rfl

section
variable (s : State) (o : Ord)

theorem takeLoad_loading : ((s.takeLoad o).allot o.allot).loading = some (s.loadView o) :=
  congrArg Allot.loading (State.allot_setAllot_self s o.allot _)

theorem takeLoad_busy : (s.takeLoad o).get (F.ALT_STATE_BUSY o.allot) = 1 := State.get_put_fits _ (by decide : 13 + 1 ≤ 64) (by decide : 1 < 2 ^ 1)

theorem takeLoad_altState : (s.takeLoad o).altState o.allot = s.altState o.allot :=
  State.get_put_beside (s.setAllot o.allot _) (F.ALT_STATE_BUSY o.allot) (F.ALT_STATE_STATE o.allot) 1 (by decide : 13 + 1 ≤ 64)
    (.inr (by decide : 0 + 3 ≤ 13))

theorem takeLoad_untouched : Untouched s (s.takeLoad o) := ⟨rfl, rfl, rfl⟩

/-- What a load under way leaves of the state that its grant acts on. -/
theorem translateLoad_loads {s : State} {o : Ord} {r : ImageRead} (hr : ((s.takeLoad o).readImage (s.loadView o)).1 = .ok r) :
    ∃ (t : State) (l : PlanLoad), (s.takeLoad o).translateLoad o = { t with load := some l } ∧ Noted o.allot (s.takeLoad o) t ∧ l.ord = o ∧
      (slLoc o = false → slBytes o < 192 → ∃ d, l.fail = some (stBadLength, d)) := by
  refine ⟨_, _, translateLoad_reads (takeLoad_loading s o) hr, (readImage_noted _ (s.loadView o)).trans (readTablesFor_noted _ _ _ _), verdict_ord _ _ _,
    fun hloc hshort => ?_⟩
  rw [readImage_host hloc] at hr
  cases hr
  refine verdict_short _ _ rfl rfl ?_
  show (padTo (slBytes o) (o.host.take (slBytes o))).length < 192
  rw [length_padTo (List.length_take_le _ _)]
  exact hshort

end

section
variable {q : Nat} {b host : Bytes} {s : State}

theorem flown_load : (s.flown q b host).load = s.load := by obtain ⟨_, _, _, h⟩ := flown_eq s q b host; rw [h]

theorem quiet_of {u t : State} (hk : Untouched s u) (hout : ∀ r, (u.queue r).out = (s.queue r).out) (hq : t.queues = u.queues) (hut : Untouched u t) :
    Quiet s t :=
  ⟨fun r => (congrArg Queue.out (queue_congr hq r)).trans (hout r), (hk.trans hut).rd⟩

theorem flown_quiet {t : State} (hq : t.queues = (s.flown q b host).queues) (hk : Untouched (s.flown q b host) t) : Quiet s t :=
  quiet_of (flown_untouched s q b host) (flown_out s q b host) hq hk

/-- The translator is free and reads the image: the load is under way. -/
theorem schedLoad_loads (ht : Taken specSchedLoad q host b s) (hfree : s.load = none) (hqueue : s.queued (s.mkOrd q b host) = false) {r : ImageRead}
    (hr : (((s.flown q b host).takeLoad (s.mkOrd q b host)).readImage ((s.flown q b host).loadView (s.mkOrd q b host))).1 = .ok r) :
    let o := s.mkOrd q b host
    ∃ t l v, exec (.schedLoad q host) s = .next t ∧ t.load = some l ∧ l.ord = o ∧
        (slLoc o = false → slBytes o < 192 → ∃ d, l.fail = some (stBadLength, d)) ∧ (t.allot o.allot).loading = some v ∧ v.ord = o ∧
        v.rights = (s.allot o.allot).rights ∧ t.get (F.ALT_STATE_BUSY o.allot) = 1 ∧ t.altState o.allot = s.altState o.allot ∧
        o ∈ t.inflight ∧ Quiet s t := by
  have ha := allot_passes ht.passes rfl
  have hbelow : 0x40100 + 0x100 * (s.mkOrd q b host).allot < 0xA0108 := by omega
  have hbeside : 0x40100 + 0x100 * (s.mkOrd q b host).allot ≠ 0x40130 + 0x100 * (s.mkOrd q b host).allot := by omega
  obtain ⟨t, l, heq, hnoted, hord, hshort⟩ := translateLoad_loads hr
  have hserve : specSchedLoad.body (s.flown q b host) (s.mkOrd q b host) = { t with load := some l } := by
    refine (specSchedLoad_body _ _).trans (Eq.trans (if_neg ?_) heq)
    have hload : ((s.flown q b host).takeLoad (s.mkOrd q b host)).load = none := flown_load.trans hfree
    have hwaits : ((s.flown q b host).takeLoad (s.mkOrd q b host)).queued (s.mkOrd q b host) = false := (flown_queued _).trans hqueue
    rw [hload, hwaits]
    decide
  have hk : Untouched (s.flown q b host) { t with load := some l } :=
    (takeLoad_untouched _ _).trans ⟨hnoted.untouched.pending, hnoted.untouched.mem, hnoted.untouched.stores⟩
  obtain ⟨_, hallot⟩ := flown_allot s q b host (s.mkOrd q b host).allot
  refine ⟨_, l, (s.flown q b host).loadView (s.mkOrd q b host), exec_leaves rfl ht hserve hk, rfl, hord, hshort, ?_, rfl, ?_, ?_, ?_, ?_, ?_⟩
  · exact (congrArg Allot.loading (hnoted.allot _)).trans (takeLoad_loading _ _)
  · show ((s.flown q b host).allot (s.mkOrd q b host).allot).rights = _
    rw [hallot]
  · exact (hnoted.get hbelow hbeside).trans (takeLoad_busy _ _)
  · exact ((hnoted.get hbelow hbeside).trans (takeLoad_altState _ _)).trans (flown_altState s q b host _ ht.queue)
  · show s.mkOrd q b host ∈ t.inflight
    rw [hnoted.inflight]
    exact mkOrd_mem_flown s q b host
  · exact flown_quiet hnoted.queues hk

/-- The translator is taken, or other loads wait for it: the load waits. -/
theorem schedLoad_waits (ht : Taken specSchedLoad q host b s) (hbusy : s.load.isSome = true ∨ s.queued (s.mkOrd q b host) = true) :
    let o := s.mkOrd q b host
    ∃ t, exec (.schedLoad q host) s = .next t ∧ t.load = s.load ∧ t.waiting = s.waiting ++ [o] ∧
        t.get (F.ALT_STATE_BUSY o.allot) = 1 ∧ o ∈ t.inflight ∧ Quiet s t := by
  have hserve : specSchedLoad.body (s.flown q b host) (s.mkOrd q b host) = ((s.flown q b host).takeLoad (s.mkOrd q b host)).park (s.mkOrd q b host) := by
    refine (specSchedLoad_body _ _).trans (if_pos ?_)
    have hload : ((s.flown q b host).takeLoad (s.mkOrd q b host)).load = s.load := flown_load
    have hwaits : ((s.flown q b host).takeLoad (s.mkOrd q b host)).queued (s.mkOrd q b host) = s.queued (s.mkOrd q b host) := flown_queued _
    rw [hload, hwaits]
    simpa using hbusy
  obtain ⟨_, _, _, hflown⟩ := flown_eq s q b host
  have hwaiting : (s.flown q b host).waiting = s.waiting := by rw [hflown]
  refine ⟨_, exec_leaves rfl ht hserve ⟨rfl, rfl, rfl⟩, flown_load, congrArg (· ++ [s.mkOrd q b host]) hwaiting, takeLoad_busy _ _,
    mkOrd_mem_flown s q b host, flown_quiet rfl ⟨rfl, rfl, rfl⟩⟩

end

/-! ## The end of a load -/

section
variable {s : State} {a : Nat} {l : PlanLoad} (ha : a < 16)
include ha

theorem planHeld_altState (p : Plan) (banks : SMap (List Entry)) :
    (s.planHeld a p banks).altState a = if s.altState a = 1 then 2 else s.altState a := by
  have hcores := (fillStandby_only (s.setAllot a { s.allot a with
    active := if s.altState a = 4 ∨ s.altState a = 5 then (s.allot a).active else none, standby := some p }) a banks).altState ha
  unfold State.planHeld
  dsimp only
  by_cases h : s.altState a = 1
  · rw [if_pos h, if_pos h]
    exact State.get_put_fits _ (by decide : 0 + 3 ≤ 64) (by decide : 2 < 2 ^ 3)
  · rw [if_neg h, if_neg h]
    exact hcores

end

/-- The plan held in standby changes its allotment's record, cores and registers alone. -/
theorem planHeld_rest (s : State) (a : Nat) (p : Plan) (banks : SMap (List Entry)) :
    s.planHeld a p banks = { s with
      regs := (s.planHeld a p banks).regs, cores := (s.planHeld a p banks).cores
      allots := (s.setAllot a { s.allot a with
        active := if s.altState a = 4 ∨ s.altState a = 5 then (s.allot a).active else none, standby := some p }).allots } := by
  have hrest := (fillStandby_only (s.setAllot a { s.allot a with
    active := if s.altState a = 4 ∨ s.altState a = 5 then (s.allot a).active else none, standby := some p }) a banks).rest
  unfold State.planHeld
  dsimp only
  split <;> rw [hrest] <;> rfl

theorem planHeld_allot (s : State) (a : Nat) (p : Plan) (banks : SMap (List Entry)) (b : Nat) : (s.planHeld a p banks).allot b =
    (s.setAllot a { s.allot a with active := if s.altState a = 4 ∨ s.altState a = 5 then (s.allot a).active else none, standby := some p }).allot b := by
  rw [planHeld_rest]
  rfl

theorem mem_took {s : State} {o : Ord} (h : o ∈ s.inflight) : ∃ x ∈ (s.took o).inflight, x.id = o.id ∧ x.took = true :=
  ⟨{ o with took := true }, List.mem_map.2 ⟨o, h, if_pos (beq_self_eq_true _)⟩, rfl, rfl⟩

/-- What the walk of a failed load records. -/
def State.noteWalk (s : State) (a : Nat) (w : Option (Nat × Nat)) : State :=
  match w with
  | some w => s.walkFault a w.1 w.2 0
  | none => s

theorem noteWalk_noted (s : State) (a : Nat) (w : Option (Nat × Nat)) : Noted a s (s.noteWalk a w) := by
  cases w with
  | none => exact .refl s
  | some w => exact walkFault_noted s a _ _ _

section
variable {s : State} {a : Nat} {l : PlanLoad} (hs : s.stores = []) (ha : a < 16) (hload : s.load = some l) (hallot : l.ord.allot = a)
  (hfly : l.ord ∈ s.inflight)
include hs ha hload hallot hfly

theorem planLoadEnd_holds (hfail : l.fail = none) : ∃ t, exec (.planLoadEnd a) s = .next t ∧
    t.altState a = (if s.altState a = 1 then 2 else s.altState a) ∧ (t.allot a).standby = some l.plan ∧
    (t.allot a).active = (if s.altState a = 4 ∨ s.altState a = 5 then (s.allot a).active else none) ∧
    Ends s t l.ord stDone 0 (fieldAt l.plan.meas 0 8) ∧ ∀ b, b ≠ a → t.allot b = s.allot b := by
  have heq : planLoadEnd a s = (s.planHeld a l.plan l.banks).done l.ord 0 (fieldAt l.plan.meas 0 8) := by
    unfold planLoadEnd
    rw [hload]
    dsimp only
    rw [if_neg (not_not.2 hallot), hfail]
  have hrest := planHeld_rest s a l.plan l.banks
  have hk : Untouched s (s.planHeld a l.plan l.banks) := by rw [hrest]; exact ⟨rfl, rfl, rfl⟩
  obtain ⟨_, hself⟩ := finish_allot (s.planHeld a l.plan l.banks) l.ord stDone 0 (fieldAt l.plan.meas 0 8) false a
  rw [planHeld_allot, State.allot_setAllot_self] at hself
  refine ⟨_, unit_next ha hs heq hk.finish, (finish_altState ..).trans (planHeld_altState ha _ _), congrArg Allot.standby hself,
    congrArg Allot.active hself, ends_finish _ _ _ ?_ (fun r => ?_) ?_ hk.rd, fun b hb => ?_⟩
  · rw [hrest]
    exact hfly
  · rw [hrest]
    rfl
  · rw [hrest]
  · exact (finish_allot_ne _ _ _ _ _ (hallot ▸ hb)).trans ((planHeld_allot s a _ _ b).trans (State.allot_setAllot_ne _ _ hb))

theorem planLoadEnd_fails {f : Nat × Nat} (hfail : l.fail = some f) : ∃ t, exec (.planLoadEnd a) s = .next t ∧ (t.allot a).standby = none ∧
    (t.allot a).active = (s.allot a).active ∧ t.altState a = s.altState a ∧ Ends s t l.ord f.1 0 f.2 := by
  have heq : planLoadEnd a s = ((s.noteWalk a l.walk).dropStandby a).finish l.ord f.1 0 f.2 := by
    unfold planLoadEnd
    rw [hload]
    dsimp only
    rw [if_neg (not_not.2 hallot), hfail]
    rfl
  have hnoted := noteWalk_noted s a l.walk
  have hdrop := dropStandby_only (s.noteWalk a l.walk) a
  have hk : Untouched s ((s.noteWalk a l.walk).dropStandby a) := hnoted.untouched.trans (dropStandby_untouched _ a)
  obtain ⟨_, hself⟩ := finish_allot ((s.noteWalk a l.walk).dropStandby a) l.ord f.1 0 f.2 false a
  rw [dropStandby_allot, hnoted.allot] at hself
  have hbelow : 0x40100 + 0x100 * a < 0xA0108 := by omega
  have hbeside : 0x40100 + 0x100 * a ≠ 0x40130 + 0x100 * a := by omega
  refine ⟨_, unit_next ha hs heq hk.finish, by rw [hself], by rw [hself],
    (finish_altState ..).trans ((hdrop.altState ha).trans (hnoted.get hbelow hbeside)), ends_finish _ _ _ ?_ (fun r => ?_) ?_ hk.rd⟩
  · rw [hdrop.inflight]
    show l.ord ∈ (s.noteWalk a l.walk).inflight
    rw [hnoted.inflight]
    exact hfly
  · exact congrArg Queue.out (queue_congr (hdrop.queues.trans hnoted.queues) r)
  · exact hdrop.wck.trans hnoted.wck

end

/-! ## SCHED_ARM, SCHED_STOP, SCHED_UNLOAD -/

/-- What SCHED_ARM leaves. -/
def State.armPlan (s : State) (o : Ord) : State :=
  let s := (s.took o).setAllot o.allot { s.allot o.allot with armed := some ⟨o, o.field 16 6⟩ }
  if s.altState o.allot = 2 then (s.clearValid o.allot).put (F.ALT_STATE_STATE o.allot) 3 else s

theorem armPlan_cases (s : State) (o : Ord) : ∃ t, CoresOnly ((s.took o).setAllot o.allot { s.allot o.allot with armed := some ⟨o, o.field 16 6⟩ }) t ∧
    s.armPlan o = (if s.altState o.allot = 2 then t.put (F.ALT_STATE_STATE o.allot) 3 else t) := by
  by_cases h : s.altState o.allot = 2
  · refine ⟨_, clearValid_only _ o.allot, ?_⟩
    rw [if_pos h]
    exact if_pos h
  · refine ⟨_, .refl _, ?_⟩
    rw [if_neg h]
    exact if_neg h

section
variable {q : Nat} {b : Bytes} {s : State}

theorem flown_armed (ht : Taken specSchedArm q [] b s) : let o := s.mkOrd q b []; let a := o.allot
    ∃ t, exec (.schedArm q) s = .next t ∧ (t.allot a).armed = some ⟨o, o.field 16 6⟩ ∧
      t.altState a = (if s.altState a = 2 then 3 else s.altState a) ∧ (∃ x ∈ t.inflight, x.id = o.id ∧ x.took = true) ∧ Quiet s t := by
  have ha := allot_passes ht.passes rfl
  have hstate := flown_altState s q b [] (s.mkOrd q b []).allot ht.queue
  obtain ⟨t, hcores, heq⟩ := armPlan_cases (s.flown q b []) (s.mkOrd q b [])
  obtain ⟨x, hx, hid, htook⟩ := mem_took (mkOrd_mem_flown s q b [])
  have harmed : (t.allot (s.mkOrd q b []).allot).armed = some ⟨s.mkOrd q b [], (s.mkOrd q b []).field 16 6⟩ := by
    rw [hcores.allot, State.allot_setAllot_self]
  have hin : x ∈ t.inflight := hcores.inflight ▸ hx
  have hkept : t.altState (s.mkOrd q b []).allot = s.altState (s.mkOrd q b []).allot := (hcores.altState ha).trans hstate
  have hk : Untouched (s.flown q b []) t := ⟨hcores.untouched.pending, hcores.untouched.mem, hcores.untouched.stores⟩
  have hquiet : ∀ v, Quiet s (t.put (F.ALT_STATE_STATE (s.mkOrd q b []).allot) v) := fun v => flown_quiet hcores.queues hk.put
  rw [hstate] at heq
  by_cases h : s.altState (s.mkOrd q b []).allot = 2
  · rw [if_pos h] at heq
    refine ⟨_, exec_leaves rfl ht heq hk.put, harmed, ?_, ⟨x, hin, hid, htook⟩, hquiet _⟩
    rw [if_pos h]
    exact State.get_put_fits _ (by decide : 0 + 3 ≤ 64) (by decide : 3 < 2 ^ 3)
  · rw [if_neg h] at heq
    exact ⟨_, exec_leaves rfl ht heq hk, harmed, hkept.trans (if_neg h).symm, ⟨x, hin, hid, htook⟩, flown_quiet hcores.queues hk⟩

theorem flown_stopped (ht : Taken specSchedStop q [] b s) : let o := s.mkOrd q b []; let a := o.allot
    ∃ t, exec (.schedStop q) s = .next t ∧ (t.allot a).stops = (s.allot a).stops ++ [(o, o.field 16 6)] ∧ t.altState a = s.altState a ∧
      (∃ x ∈ t.inflight, x.id = o.id) ∧ Quiet s t := by
  obtain ⟨_, hallot⟩ := flown_allot s q b [] (s.mkOrd q b []).allot
  refine ⟨_, exec_leaves (t := (s.flown q b []).setAllot (s.mkOrd q b []).allot { (s.flown q b []).allot (s.mkOrd q b []).allot with
      stops := ((s.flown q b []).allot (s.mkOrd q b []).allot).stops ++ [(s.mkOrd q b [], (s.mkOrd q b []).field 16 6)] }) rfl ht rfl ⟨rfl, rfl, rfl⟩,
    ?_, flown_altState s q b [] _ ht.queue, ⟨_, mkOrd_mem_flown s q b [], rfl⟩, flown_quiet rfl ⟨rfl, rfl, rfl⟩⟩
  rw [State.allot_setAllot_self, hallot]

/-- What SCHED_UNLOAD leaves before its tally. -/
def State.unloadNow (s : State) (a : Nat) : State :=
  if (s.unloadPlans a).altState a = 2 then (s.unloadPlans a).put (F.ALT_STATE_STATE a) 1 else s.unloadPlans a

theorem unloadNow_cases (s : State) {a : Nat} (ha : a < 16) :
    s.unloadNow a = if s.altState a = 2 then (s.unloadPlans a).put (F.ALT_STATE_STATE a) 1 else s.unloadPlans a := by
  have hstate : (s.unloadPlans a).altState a = s.altState a := (unloadPlans_only s a).altState ha
  unfold State.unloadNow
  rw [hstate]

theorem unloadNow_altState (s : State) {a : Nat} (ha : a < 16) : (s.unloadNow a).altState a = if s.altState a = 2 then 1 else s.altState a := by
  rw [unloadNow_cases s ha]
  split
  · exact State.get_put_fits _ (by decide : 0 + 3 ≤ 64) (by decide : 1 < 2 ^ 3)
  · exact (unloadPlans_only s a).altState ha

theorem unloadNow_rest (s : State) (a : Nat) : s.unloadNow a = { s with
    regs := (s.unloadNow a).regs, cores := (s.unloadNow a).cores, allots := (s.setAllot a (s.allot a).unloaded).allots } := by
  have hrest := (unloadPlans_only s a).rest
  unfold State.unloadNow
  split <;> rw [hrest] <;> rfl

theorem flown_unloaded (ht : Taken specSchedUnload q [] b s) : let o := s.mkOrd q b []; let a := o.allot
    ∃ t, exec (.schedUnload q) s = .next t ∧ Ends s t o stDone 0 0 ∧ (t.allot a).active = none ∧
        (t.allot a).standby = none ∧ t.altState a = (if s.altState a = 2 then 1 else s.altState a) := by
  have ha := allot_passes ht.passes rfl
  have hrest := unloadNow_rest (s.flown q b []) (s.mkOrd q b []).allot
  have hk : Untouched (s.flown q b []) ((s.flown q b []).unloadNow (s.mkOrd q b []).allot) := by rw [hrest]; exact ⟨rfl, rfl, rfl⟩
  have hself : ((s.flown q b []).unloadNow (s.mkOrd q b []).allot).allot (s.mkOrd q b []).allot =
      ((s.flown q b []).allot (s.mkOrd q b []).allot).unloaded := by
    rw [hrest]
    exact State.allot_setAllot_self _ _ _
  obtain ⟨_, hfinal⟩ := finish_allot ((s.flown q b []).unloadNow (s.mkOrd q b []).allot) (s.mkOrd q b []) stDone 0 0 false (s.mkOrd q b []).allot
  rw [hself] at hfinal
  refine ⟨_, exec_leaves (t := ((s.flown q b []).unloadNow (s.mkOrd q b []).allot).done (s.mkOrd q b [])) rfl ht rfl hk.finish,
    ends_finish _ _ _ ?_ (fun r => ?_) ?_ ((flown_untouched s q b []).trans hk).rd, congrArg Allot.active hfinal, congrArg Allot.standby hfinal, ?_⟩
  · rw [hrest]
    exact mkOrd_mem_flown s q b []
  · rw [hrest]
    exact flown_out s q b [] r
  · rw [hrest]
    exact flown_wck s q b []
  · exact (finish_altState ..).trans ((unloadNow_altState _ ha).trans (by rw [flown_altState s q b [] _ ht.queue]))

end

/-! ## DRAIN_COMPLETE -/

/-- The final tally of a run: its status and DETAIL, by whether a poisoned PARTIAL was released. -/
def Allot.runTally (x : Allot) : Nat × Nat :=
  match x.partialPoison with
  | none => (stDone, 0)
  | some p => (stEcc, planDetail 0x70 p.1 p.2)

theorem endRun_eq (s : State) (a : Nat) (o : Ord) :
    s.endRun a o = s.finish o (s.allot a).runTally.1 ((s.allot a).executed % 2 ^ 32) (s.allot a).runTally.2 := by
  unfold State.endRun Allot.runTally
  dsimp only
  split
  · rename_i h; rw [h]
  · rename_i h; rw [h]; rfl

/-- The allotment leaves DRAINING: its run is ended, a plan loaded behind it takes its place. -/
def State.drained (s : State) (a : Nat) : State :=
  let y := s.allot a
  (s.setAllot a { y with active := if y.standby.isSome then none else y.active, runOrd := none }).put (F.ALT_STATE_STATE a) 2

theorem drainComplete_run {s : State} {a : Nat} {o : Ord} (hstate : s.altState a = 5) (hnone : (s.allot a).delivs = []) (hrun : (s.allot a).runOrd = some o) :
    drainComplete a s = ((s.endRun a o).endStops a).drained a := by
  unfold drainComplete
  dsimp only
  rw [if_neg (by simp [hstate, hnone]), hrun]
  rfl

theorem endStops_none {s : State} {a : Nat} (h : (s.allot a).stops = []) : s.endStops a = s.setAllot a { s.allot a with stops := [] } := by
  unfold State.endStops
  dsimp only
  rw [h]
  rfl

section
variable {s : State} {a : Nat} {o : Ord} (hs : s.stores = []) (ha : a < 16) (hstate : s.altState a = 5) (hnone : (s.allot a).delivs = [])
  (hrun : (s.allot a).runOrd = some o) (hstops : (s.allot a).stops = []) (hfly : o ∈ s.inflight)
include hs ha hstate hnone hrun hstops hfly

theorem drainComplete_ends : ∃ t, exec (.drainComplete a) s = .next t ∧ t.altState a = 2 ∧ (t.allot a).runOrd = none ∧
    Ends s t o (s.allot a).runTally.1 ((s.allot a).executed % 2 ^ 32) (s.allot a).runTally.2 := by
  have hends : Ends s (s.finish o (s.allot a).runTally.1 ((s.allot a).executed % 2 ^ 32) (s.allot a).runTally.2) o _ _ _ :=
    ends_finish _ _ _ hfly (fun _ => rfl) rfl fun _ => rfl
  obtain ⟨_, hallot⟩ := finish_allot s o (s.allot a).runTally.1 ((s.allot a).executed % 2 ^ 32) (s.allot a).runTally.2 false a
  have hnostops := (congrArg Allot.stops hallot).trans hstops
  have heq := drainComplete_run hstate hnone hrun
  rw [endRun_eq, endStops_none hnostops] at heq
  have hk : Untouched s (s.finish o (s.allot a).runTally.1 ((s.allot a).executed % 2 ^ 32) (s.allot a).runTally.2) := (Untouched.refl s).finish
  refine ⟨_, unit_next ha hs heq ⟨hk.pending, hk.mem, hk.stores⟩, ?_, ?_, hends.same rfl rfl ⟨rfl, rfl, rfl⟩⟩
  · exact State.get_put_fits _ (by decide : 0 + 3 ≤ 64) (by decide : 2 < 2 ^ 3)
  · exact congrArg Allot.runOrd (State.allot_setAllot_self _ _ _)

end

/-- Settles O41: the load's reads only note what they find, its end holds the plan or drops it, and each order of the plan changes the record
and the state of its allotment. -/
theorem planLifeCycle : Obligations.PlanLifeCycle := by
  intro s hs
  refine ⟨fun q b host ht => ⟨fun hfree hqueue hread => ?_, schedLoad_waits ht⟩,
    fun a l ha hload hallot hfly => ⟨planLoadEnd_holds hs ha hload hallot hfly, fun f => planLoadEnd_fails hs ha hload hallot hfly⟩,
    fun a ha hload => ?_, fun q b => ⟨flown_armed, flown_stopped, flown_unloaded⟩, fun a o ha hstate hnone hrun hstops hfly => ?_, fun a ha hstays => ?_⟩
  · rcases hread with hloc | ⟨r, hr⟩
    · exact schedLoad_loads ht hfree hqueue (readImage_host hloc)
    · exact schedLoad_loads ht hfree hqueue hr
  · refine unit_next ha hs ?_ (.refl s)
    unfold planLoadEnd
    rw [hload]
  · obtain ⟨t, hexec, h2, hnorun, hends⟩ := drainComplete_ends hs ha hstate hnone hrun hstops hfly
    refine ⟨t, hexec, h2, hnorun, ?_⟩
    unfold Allot.runTally at hends
    cases hp : (s.allot a).partialPoison with
    | none => rw [hp] at hends; exact hends
    | some p => rw [hp] at hends; exact hends
  · exact unit_next ha hs (if_pos hstays) (.refl s)

end Sys2Proof.Machine
end

section
/-! PROOFS. The release of an allotment (R140): what is torn down at the grant, and what the end of the release leaves. -/

namespace Sys2Proof.Machine

/-! ## At the grant -/

/-- Between two states only the marks of orders in flight differ: every order stays, and one that has taken effect still has. -/
structure Marks (s t : State) : Prop where
  rest : t = { s with inflight := t.inflight }
  from_ : ∀ y ∈ t.inflight, ∃ x ∈ s.inflight, x.id = y.id ∧ x.allot = y.allot ∧ (x.took = true → y.took = true)
  onto : ∀ x ∈ s.inflight, ∃ y ∈ t.inflight, y.id = x.id

theorem Marks.refl (s : State) : Marks s s := ⟨rfl, fun y hy => ⟨y, hy, rfl, rfl, id⟩, fun x hx => ⟨x, hx, rfl⟩⟩

theorem Marks.trans {s t u : State} (h : Marks s t) (k : Marks t u) : Marks s u where
  rest := by rw [k.rest, h.rest]
  from_ z hz := by
    obtain ⟨y, hy, hid, hallot, htook⟩ := k.from_ z hz
    obtain ⟨x, hx, hid', hallot', htook'⟩ := h.from_ y hy
    exact ⟨x, hx, hid'.trans hid, hallot'.trans hallot, fun hx => htook (htook' hx)⟩
  onto x hx := by
    obtain ⟨y, hy, hid⟩ := h.onto x hx
    obtain ⟨z, hz, hid'⟩ := k.onto y hy
    exact ⟨z, hz, hid'.trans hid⟩

theorem Marks.allot {s t : State} (h : Marks s t) (a : Nat) : t.allot a = s.allot a := by rw [h.rest]; rfl

theorem took_marks (s : State) (o : Ord) : Marks s (s.took o) where
  rest := rfl
  from_ y hy := by
    obtain ⟨x, hx, rfl⟩ := List.mem_map.1 hy
    refine ⟨x, hx, ?_⟩
    split
    · exact ⟨rfl, rfl, fun _ => rfl⟩
    · exact ⟨rfl, rfl, id⟩
  onto x hx := ⟨_, List.mem_map_of_mem hx, by split <;> rfl⟩

theorem switchesBegun_marks (s : State) : Marks s s.switchesBegun := by
  unfold State.switchesBegun
  split
  · exact .refl s
  · refine foldl_keeps Marks.refl Marks.trans _ (fun s x _ => ?_) s
    split
    · split
      · exact took_marks s x.ord
      · exact .refl s
    · exact .refl s

/-- No order of the allotment that has yet to take effect waits, is staged, is due or reopens a sluice. -/
def State.noneWaits (s : State) (a : Nat) : Prop := ∀ x ∈ s.inflight, x.allot = a → x.took = false →
  (∀ y ∈ s.waiting, y.id ≠ x.id) ∧ (∀ y ∈ s.staged, y.ord.id ≠ x.id) ∧ (∀ y ∈ s.fallowDue, y.ord.id ≠ x.id) ∧ ∀ y ∈ s.reopens, y.ord.id ≠ x.id

/-- Then the release cancels none: it marks at most what has begun to switch. -/
theorem cancelWaiting_none {s : State} {a : Nat} (h : s.noneWaits a) : s.cancelWaiting a = s.switchesBegun := by
  obtain ⟨hrest, hfrom, -⟩ := switchesBegun_marks s
  have hlate : s.switchesBegun.inflight.filter (fun x => x.allot == a && !x.took
      && (s.switchesBegun.waiting.any (·.id == x.id) || s.switchesBegun.staged.any (·.ord.id == x.id) || s.switchesBegun.fallowDue.any (·.ord.id == x.id)
        || s.switchesBegun.reopens.any (·.ord.id == x.id))) = [] := by
    rw [List.filter_eq_nil_iff]
    intro y hy hcancelled
    obtain ⟨x, hx, hid, hallot, htook⟩ := hfrom y hy
    have hkept : s.switchesBegun.waiting = s.waiting ∧ s.switchesBegun.staged = s.staged ∧ s.switchesBegun.fallowDue = s.fallowDue ∧
        s.switchesBegun.reopens = s.reopens := by rw [hrest]; exact ⟨rfl, rfl, rfl, rfl⟩
    obtain ⟨hw, hst, hd, hr⟩ := hkept
    rw [hw, hst, hd, hr] at hcancelled
    simp only [Bool.and_eq_true, Bool.or_eq_true, Bool.not_eq_true', List.any_eq_true, beq_iff_eq] at hcancelled
    obtain ⟨⟨ha, hnot⟩, hsome⟩ := hcancelled
    obtain ⟨hnw, hns, hnd, hnr⟩ := h x hx (hallot.trans ha) (by
      cases hxt : x.took with
      | false => rfl
      | true => exact absurd (htook hxt) (ne_true_of_eq_false hnot))
    rw [hid] at hnw hns hnd hnr
    rcases hsome with ((⟨z, hz, e⟩ | ⟨z, hz, e⟩) | ⟨z, hz, e⟩) | ⟨z, hz, e⟩
    · exact hnw z hz e
    · exact hns z hz e
    · exact hnd z hz e
    · exact hnr z hz e
  unfold State.cancelWaiting
  dsimp only
  rw [hlate]
  simp

theorem unloadPlans_reg (s : State) (a : Nat) {r : Nat} (hr : 0x80000 ≤ r) : (s.unloadPlans a).reg r = s.reg r :=
  foldl_keeps (R := fun s t : State => t.reg r = s.reg r) (fun _ => rfl) (fun h k => k.trans h) (s.coresOf a) (fun s c hc =>
    State.reg_put_ne s (F.TIL_CORE_STATE_STANDBY_VALID c) 0 (by
      have hlt := coresOf_lt hc
      show r ≠ 0x51000 + 0x10 * c
      omega)) (s.setAllot a (s.allot a).unloaded)

/-- No queue is bound to the allotment: none is torn down. -/
theorem tearQueues_none {s : State} {a : Nat} (host : Bytes) (h : ∀ q, 1 ≤ q → q < 64 → s.boundTo q a = false) : s.tearQueues a host = s := by
  unfold State.tearQueues
  rw [foldl_fixed]
  intro q hq
  obtain ⟨n, hn, rfl⟩ := List.mem_map.1 hq
  have hlt := List.mem_range.1 hn
  exact if_neg (ne_true_of_eq_false (h (n + 1) (by omega) (by omega)))

/-- The allotment holds no camera port, pipeline, basin or engine. -/
structure NoUnits (s : State) (a : Nat) : Prop where
  ports : ∀ p < 8, s.get (F.ING_PORT_STATE_ALLOT p) ≠ a
  pipes : ∀ p < 4, s.get (F.VIS_STATE_ALLOT p) ≠ a
  basins : ∀ p < 2, s.get (F.BSN_STATE_ALLOT p) ≠ a
  bne : s.bne = none
  sym : s.sym = none

theorem releaseUnits_none {s : State} {a : Nat} (h : NoUnits s a) : s.releaseUnits a = (s.clearSlots (fun o => o == a)).endSession a := by
  obtain ⟨hports, hpipes, hbasins, hbne, hsym⟩ := h
  unfold State.releaseUnits
  dsimp only
  rw [foldl_fixed _ s (List.range 8) fun p hp => if_neg (hports p (List.mem_range.1 hp)),
    foldl_fixed _ s (List.range 4) fun p hp => if_neg (hpipes p (List.mem_range.1 hp)),
    foldl_fixed _ s (List.range 2) fun p hp => if_neg (hbasins p (List.mem_range.1 hp)), hbne, hsym]

/-- Between two states only registers and the slots' contents differ. -/
structure SlotsOnly (s t : State) : Prop where
  rest : t = { s with regs := t.regs, slotMem := t.slotMem }

namespace SlotsOnly

theorem refl (s : State) : SlotsOnly s s := ⟨rfl⟩

theorem trans {s t u : State} (h : SlotsOnly s t) (k : SlotsOnly t u) : SlotsOnly s u :=
  ⟨by rw [k.rest, h.rest]⟩

theorem put {s t : State} (h : SlotsOnly s t) (f : Fld) (v : Nat) : SlotsOnly s (t.put f v) := h.trans ⟨rfl⟩

theorem wipe {s t : State} (h : SlotsOnly s t) (m : SMap Nat) : SlotsOnly s { t with slotMem := m } := h.trans ⟨rfl⟩

theorem inflight {s t : State} (h : SlotsOnly s t) : t.inflight = s.inflight := by rw [h.rest]

theorem allot {s t : State} (h : SlotsOnly s t) (a : Nat) : t.allot a = s.allot a := by rw [h.rest]; rfl

end SlotsOnly

theorem undefineSlot_only (s : State) (i : Nat) : SlotsOnly s (s.undefineSlot i) := by
  unfold State.undefineSlot
  split
  · exact (((((SlotsOnly.refl s).wipe _).put _ _).put _ _).put _ _).put _ _
  · exact .refl s

theorem clearSlots_only (s : State) (p : Nat → Bool) : SlotsOnly s (s.clearSlots p) :=
  foldl_keeps SlotsOnly.refl SlotsOnly.trans (List.range 256) (fun s i _ => by
    split
    · exact undefineSlot_only s i
    · exact .refl s) s

/-- Between two states only registers, cores, slots, records of allotments and the marks of orders in flight differ. -/
structure Vacates (s t : State) : Prop where
  rest : t = { s with regs := t.regs, cores := t.cores, slotMem := t.slotMem, allots := t.allots, inflight := t.inflight }

namespace Vacates

variable {s t u : State}

theorem trans (h : Vacates s t) (k : Vacates t u) : Vacates s u :=
  ⟨by rw [k.rest, h.rest]⟩

theorem ofMarks (h : Marks s t) : Vacates s t := ⟨by rw [h.rest]⟩
theorem ofCores (h : CoresOnly s t) : Vacates s t := ⟨by rw [h.rest]⟩
theorem ofSlots (h : SlotsOnly s t) : Vacates s t := ⟨by rw [h.rest]⟩
theorem setAllot (s : State) (a : Nat) (x : Allot) : Vacates s (s.setAllot a x) := ⟨rfl⟩
theorem put (s : State) (f : Fld) (v : Nat) : Vacates s (s.put f v) := ⟨rfl⟩

theorem untouched (h : Vacates s t) : Untouched s t := by rw [h.rest]; exact ⟨rfl, rfl, rfl⟩
theorem queues (h : Vacates s t) : t.queues = s.queues := by rw [h.rest]
theorem staged (h : Vacates s t) : t.staged = s.staged := by rw [h.rest]
theorem wck (h : Vacates s t) : t.wck = s.wck := by rw [h.rest]

end Vacates

theorem endSession_vacates (s : State) (a : Nat) : Vacates s (s.endSession a) :=
  ((Vacates.setAllot s a _).trans (.put _ _ _)).trans (.put _ _ _)

/-- What the release leaves at its grant, its queues and units gone. -/
def State.tornDown (s : State) (o : Ord) : State :=
  let s := (s.clearRegs (0x90000 + 0x200 * o.allot) (0x90200 + 0x200 * o.allot)).put (F.ALT_STATE_BUSY o.allot) 1
  (s.setAllot o.allot { s.allot o.allot with keys := [], mods := [], release := some o, awaits := [] }).stage o (.rights o.allot [(0, 196608, 0, true)])

theorem releaseBody_eq (s : State) (o : Ord) :
    releaseBody s o = (((((s.took o).unloadPlans o.allot).cancelWaiting o.allot).tearQueues o.allot o.host).releaseUnits o.allot).tornDown o := by
  unfold releaseBody
  rfl

/-- The state that the release of an allotment without queues, units and waiting orders acts on. -/
def State.vacated (s : State) (o : Ord) : State :=
  (((s.took o).unloadPlans o.allot).switchesBegun.clearSlots (fun x => x == o.allot)).endSession o.allot

theorem releaseBody_vacant {s : State} {o : Ord} (hwait : ((s.took o).unloadPlans o.allot).noneWaits o.allot)
    (hqueues : ∀ q, 1 ≤ q → q < 64 → ((s.took o).unloadPlans o.allot).boundTo q o.allot = false)
    (hunits : NoUnits ((s.took o).unloadPlans o.allot) o.allot) : releaseBody s o = (s.vacated o).tornDown o := by
  have hrest := (switchesBegun_marks ((s.took o).unloadPlans o.allot)).rest
  obtain ⟨hports, hpipes, hbasins, hbne, hsym⟩ := hunits
  rw [releaseBody_eq, cancelWaiting_none hwait, tearQueues_none, releaseUnits_none]
  · rfl
  · rw [hrest]
    exact ⟨hports, hpipes, hbasins, hbne, hsym⟩
  · rw [hrest]
    exact hqueues

theorem endSession_inflight (s : State) (a : Nat) : (s.endSession a).inflight = s.inflight := by
  unfold State.endSession
  rfl

theorem endSession_allot (s : State) (a : Nat) : (s.endSession a).allot a = { s.allot a with session := none } := State.allot_setAllot_self _ _ _

section
variable (s : State) (o : Ord)

theorem unloadPlans_vacates (a : Nat) : Vacates s (s.unloadPlans a) := (Vacates.setAllot s a _).trans (.ofCores (unloadPlans_only s a))

/-- What is vacated and what stays. -/
theorem vacated_vacates : Vacates s (s.vacated o) :=
  ((((Vacates.ofMarks (took_marks s o)).trans (unloadPlans_vacates _ _)).trans (.ofMarks (switchesBegun_marks _))).trans
    (.ofSlots (clearSlots_only _ _))).trans (endSession_vacates _ _)

theorem vacated_inflight (ho : o ∈ s.inflight) : ∃ x ∈ (s.vacated o).inflight, x.id = o.id := by
  obtain ⟨x, hx, hid, -⟩ := mem_took ho
  have hunloaded := (unloadPlans_only (s.took o) o.allot).inflight
  obtain ⟨y, hy, hyid⟩ := (switchesBegun_marks ((s.took o).unloadPlans o.allot)).onto x (hunloaded ▸ hx)
  refine ⟨y, ?_, hyid.trans hid⟩
  unfold State.vacated
  rw [endSession_inflight, (clearSlots_only _ _).inflight]
  exact hy

theorem vacated_allot : (s.vacated o).allot o.allot = { (s.allot o.allot).unloaded with session := none } := by
  unfold State.vacated
  rw [endSession_allot, (clearSlots_only _ _).allot, (switchesBegun_marks _).allot, (unloadPlans_only _ _).allot, State.allot_setAllot_self]
  rfl

end

section
variable (s : State) (o : Ord)

theorem tornDown_busy : (s.tornDown o).get (F.ALT_STATE_BUSY o.allot) = 1 := by
  unfold State.tornDown
  dsimp only
  rw [State.get_stage, State.get_setAllot]
  exact State.get_put_fits _ (by decide : 13 + 1 ≤ 64) (by decide : 1 < 2 ^ 1)

theorem tornDown_allot : (s.tornDown o).allot o.allot = { s.allot o.allot with keys := [], mods := [], release := some o, awaits := [] } :=
  State.allot_setAllot_self _ _ _

theorem tornDown_staged : (s.tornDown o).staged = s.staged ++ [⟨o, .rights o.allot [(0, 196608, 0, true)], false, s.wck.now⟩] := by
  unfold State.tornDown
  rfl

theorem tornDown_queues : (s.tornDown o).queues = s.queues := by
  unfold State.tornDown
  rfl

theorem tornDown_inflight : (s.tornDown o).inflight = s.inflight := by
  unfold State.tornDown
  rfl

theorem tornDown_untouched : Untouched s (s.tornDown o) := by
  unfold State.tornDown
  exact ⟨rfl, rfl, rfl⟩

end

section
variable {q : Nat} {b host : Bytes} {s : State}

/-- The grant, its mark and the plans' end leave registers beside the riders' and the cores'. -/
theorem granted_get (o : Ord) (hq : q < 64) {f : Fld} (hf : 0x80000 ≤ f.reg) : (((s.flown q b host).took o).unloadPlans o.allot).get f = s.get f :=
  (get_of_reg (unloadPlans_reg _ _ hf)).trans (flown_get_far s q b host f hq (.inr (by omega)))

theorem granted_boundTo (o : Ord) {r : Nat} (hr : r < 64) (a : Nat) :
    (((s.flown q b host).took o).unloadPlans o.allot).boundTo r a = s.boundTo r a := by
  have hcores := unloadPlans_only ((s.flown q b host).took o) o.allot
  have hlive : (((s.flown q b host).took o).unloadPlans o.allot).queueLive r = s.queueLive r := by
    have hreg : 0x31020 + 0x40 * r < 0x50000 := by omega
    have hget : (((s.flown q b host).took o).unloadPlans o.allot).get (F.DR_QCTL_ENABLE r) = s.get (F.DR_QCTL_ENABLE r) :=
      (get_of_reg (hcores.reg _ hreg)).trans (flown_get_ne s q b host (F.DR_QCTL_ENABLE r) (by show 0x31020 + 0x40 * r ≠ _; omega)
        (by show 0x31020 + 0x40 * r ≠ _; omega) (by show 0x31020 + 0x40 * r ≠ _; omega) (by show 0x31020 + 0x40 * r ≠ _; omega)
        (by show 0x31020 + 0x40 * r ≠ _; omega))
    unfold State.queueLive State.on
    rw [hget]
  obtain ⟨_, _, _, _, hqueue⟩ := flown_queue s q r b host
  have hbound : ((((s.flown q b host).took o).unloadPlans o.allot).queue r).bound = (s.queue r).bound := by
    rw [queue_congr hcores.queues]
    show ((s.flown q b host).queue r).bound = _
    rw [hqueue]
  unfold State.boundTo
  rw [hlive, hbound]

theorem granted_noneWaits (hwaiting : s.waiting = []) {a : Nat}
    (hnone : ∀ x ∈ s.inflight, x.allot = a → (∀ y ∈ s.staged, y.ord.id ≠ x.id) ∧ (∀ y ∈ s.fallowDue, y.ord.id ≠ x.id) ∧ ∀ y ∈ s.reopens, y.ord.id ≠ x.id) :
    (((s.flown q b host).took (s.mkOrd q b host)).unloadPlans (s.mkOrd q b host).allot).noneWaits a := by
  intro x hx ha htook
  have hkept := unloadPlans_vacates ((s.flown q b host).took (s.mkOrd q b host)) (s.mkOrd q b host).allot
  obtain ⟨_, _, _, hflown⟩ := flown_eq s q b host
  rw [(unloadPlans_only _ _).inflight] at hx
  obtain ⟨y, hy, rfl⟩ := List.mem_map.1 hx
  rw [hkept.rest, hflown]
  by_cases hid : y.id = (s.mkOrd q b host).id
  · rw [if_pos (beq_iff_eq.2 hid)] at htook
    cases htook
  · rw [if_neg (mt beq_iff_eq.1 hid)] at ha ⊢
    rw [flown_inflight] at hy
    rcases List.mem_append.1 hy with hy | hy
    · exact ⟨fun z hz => absurd (hwaiting ▸ hz) List.not_mem_nil, hnone y hy ha⟩
    · exact absurd (congrArg Ord.id (List.mem_singleton.1 hy)) hid

theorem granted_noUnits (hq : q < 64) (hbne : s.bne = none) (hsym : s.sym = none) {a : Nat} (hports : ∀ p < 8, s.get (F.ING_PORT_STATE_ALLOT p) ≠ a)
    (hpipes : ∀ p < 4, s.get (F.VIS_STATE_ALLOT p) ≠ a) (hbasins : ∀ p < 2, s.get (F.BSN_STATE_ALLOT p) ≠ a) (o : Ord) :
    NoUnits (((s.flown q b host).took o).unloadPlans o.allot) a := by
  have hkept := unloadPlans_vacates ((s.flown q b host).took o) o.allot
  refine ⟨fun p hp => ?_, fun p hp => ?_, fun p hp => ?_, ?_, ?_⟩
  · rw [granted_get o hq (by show 0x80000 ≤ 0xc0100 + 0x80 * p; omega)]
    exact hports p hp
  · rw [granted_get o hq (by show 0x80000 ≤ 0xd0000 + 0x40 * p; omega)]
    exact hpipes p hp
  · rw [granted_get o hq (by show 0x80000 ≤ 0xd8000 + 0x40 * p; omega)]
    exact hbasins p hp
  · rw [hkept.rest]
    exact flown_bne.trans hbne
  · rw [hkept.rest]
    exact flown_sym.trans hsym

theorem release_begins (ht : Taken specAltRelease q host b s) (hwaiting : s.waiting = [])
    (hnone : ∀ x ∈ s.inflight, x.allot = (s.mkOrd q b host).allot →
      (∀ y ∈ s.staged, y.ord.id ≠ x.id) ∧ (∀ y ∈ s.fallowDue, y.ord.id ≠ x.id) ∧ ∀ y ∈ s.reopens, y.ord.id ≠ x.id)
    (hbne : s.bne = none) (hsym : s.sym = none) (hqueues : ∀ r, 1 ≤ r → r < 64 → s.boundTo r (s.mkOrd q b host).allot = false)
    (hports : ∀ p < 8, s.get (F.ING_PORT_STATE_ALLOT p) ≠ (s.mkOrd q b host).allot)
    (hpipes : ∀ p < 4, s.get (F.VIS_STATE_ALLOT p) ≠ (s.mkOrd q b host).allot)
    (hbasins : ∀ p < 2, s.get (F.BSN_STATE_ALLOT p) ≠ (s.mkOrd q b host).allot) : let o := s.mkOrd q b host; let a := o.allot
    ∃ t, exec (.altRelease q host) s = .next t ∧ t.get (F.ALT_STATE_BUSY a) = 1 ∧
      (t.allot a).active = none ∧ (t.allot a).standby = none ∧ (t.allot a).keys = [] ∧ (t.allot a).mods = [] ∧
      (t.allot a).release = some o ∧ t.staged = s.staged ++ [⟨o, .rights a [(0, 196608, 0, true)], false, s.wck.now⟩] ∧
      (∃ x ∈ t.inflight, x.id = o.id) ∧ Quiet s t := by
  have hbody := releaseBody_vacant (granted_noneWaits hwaiting hnone)
    (fun r h1 h64 => (granted_boundTo (s.mkOrd q b host) h64 _).trans (hqueues r h1 h64)) (granted_noUnits ht.queue hbne hsym hports hpipes hbasins _)
  have hvac := vacated_vacates (s.flown q b host) (s.mkOrd q b host)
  have hk := hvac.untouched.trans (tornDown_untouched ((s.flown q b host).vacated (s.mkOrd q b host)) (s.mkOrd q b host))
  have hallot := tornDown_allot ((s.flown q b host).vacated (s.mkOrd q b host)) (s.mkOrd q b host)
  rw [vacated_allot] at hallot
  refine ⟨_, exec_leaves rfl ht hbody hk, tornDown_busy _ _, by rw [hallot]; rfl, by rw [hallot]; rfl, by rw [hallot], by rw [hallot], by rw [hallot], ?_, ?_, ?_⟩
  · rw [tornDown_staged, hvac.staged, hvac.wck, flown_staged, flown_wck]
  · rw [tornDown_inflight]
    exact vacated_inflight _ _ (mkOrd_mem_flown s q b host)
  · exact flown_quiet ((tornDown_queues _ _).trans hvac.queues) hk

end

/-! ## The end of a release -/

/-- Between two states queues may have been reset that had no tally left: registers and these records may differ. -/
structure Reaps (s t : State) : Prop where
  rest : t = { s with regs := t.regs, queues := t.queues }
  queue : ∀ q, t.queue q = s.queue q ∨ (t.queue q = Queue.reset ∧ (s.queue q).out = [])

namespace Reaps

theorem refl (s : State) : Reaps s s := ⟨rfl, fun _ => .inl rfl⟩

variable {s t u : State}

theorem trans (h : Reaps s t) (k : Reaps t u) : Reaps s u where
  rest := by rw [k.rest, h.rest]
  queue q := by
    rcases k.queue q with hk | ⟨hk, hout⟩
    · exact (h.queue q).imp hk.trans fun ⟨hr, he⟩ => ⟨hk.trans hr, he⟩
    · refine .inr ⟨hk, ?_⟩
      rcases h.queue q with hh | ⟨-, he⟩
      · rwa [hh] at hout
      · exact he

theorem out (h : Reaps s t) (q : Nat) : (t.queue q).out = (s.queue q).out := by
  rcases h.queue q with hq | ⟨hq, hout⟩
  · rw [hq]
  · rw [hq, hout]
    rfl

theorem closing (h : Reaps s t) {q : Nat} (hc : (t.queue q).closing = true) : t.queue q = s.queue q := by
  rcases h.queue q with hq | ⟨hq, -⟩
  · exact hq
  · rw [hq] at hc
    cases hc

theorem untouched (h : Reaps s t) : Untouched s t := by rw [h.rest]; exact ⟨rfl, rfl, rfl⟩

theorem allots (h : Reaps s t) : t.allots = s.allots := by rw [h.rest]
theorem inflight (h : Reaps s t) : t.inflight = s.inflight := by rw [h.rest]
theorem staged (h : Reaps s t) : t.staged = s.staged := by rw [h.rest]
theorem wck (h : Reaps s t) : t.wck = s.wck := by rw [h.rest]

theorem quiet (h : Reaps s t) : Quiet s t := ⟨h.out, h.untouched.rd⟩

end Reaps

theorem reapQueue_reaps (s : State) (q : Nat) : Reaps s (s.reapQueue q) := by
  unfold State.reapQueue
  dsimp only
  split
  · rename_i h
    obtain ⟨-, hout, -⟩ := h
    refine ⟨rfl, fun r => ?_⟩
    by_cases hr : r = q
    · subst hr
      exact .inr ⟨(queue_congr (t := s.setQueue r Queue.reset) rfl r).trans (State.queue_setQueue_self _ _ _), hout⟩
    · exact .inl ((queue_congr (t := s.setQueue q Queue.reset) rfl r).trans (State.queue_setQueue_ne _ _ hr))
  · exact .refl s

/-- The queues of an allotment with no tally left are unused again. -/
def State.reaped (s : State) (a : Nat) : State := (List.range 64).foldl (fun s q => if (s.queue q).bound = a then s.reapQueue q else s) s

theorem reaped_reaps (s : State) (a : Nat) : Reaps s (s.reaped a) :=
  foldl_keeps Reaps.refl Reaps.trans _ (fun s q _ => by
    split
    · exact reapQueue_reaps s q
    · exact .refl s) s

/-- Resetting such queues undoes no step of a teardown. -/
theorem releaseDone_reaps {s t : State} (h : Reaps s t) {a : Nat} {o : Ord} (hdone : s.releaseDone a o = true) : t.releaseDone a o = true := by
  have hqueues : ∀ q, ((t.queue q).bound == a && (t.queue q).closing) = true → ((s.queue q).bound == a && (s.queue q).closing) = true := by
    intro q hq
    have hclosing : (t.queue q).closing = true := ((Bool.and_eq_true _ _).mp hq).2
    rwa [h.closing hclosing] at hq
  have hrights : t.allot a = s.allot a := by rw [h.rest]; rfl
  have hstaged : t.staged = s.staged := by rw [h.rest]
  have hwaits : t.waits = s.waits := by rw [h.rest]; rfl
  unfold State.releaseDone at hdone ⊢
  rw [hrights, hstaged, hwaits]
  simp only [Bool.and_eq_true, Bool.not_eq_true'] at hdone ⊢
  obtain ⟨⟨⟨h1, h2⟩, h3⟩, h4⟩ := hdone
  refine ⟨⟨⟨h1, h2⟩, ?_⟩, h4⟩
  rw [List.any_eq_false] at h3 ⊢
  exact fun q hq hbound => h3 q hq (hqueues q hbound)

theorem releaseDone_staged {s : State} {a : Nat} {o : Ord} (h : ∃ x ∈ s.staged, x.ord.id = o.id) : s.releaseDone a o = false := by
  have hany : (s.staged.any fun x => x.ord.id == o.id) = true := List.any_eq_true.2 (h.imp fun _ hx => ⟨hx.1, beq_iff_eq.2 hx.2⟩)
  unfold State.releaseDone
  rw [hany]
  rfl

/-- Between two states only registers, cores and the records of what is closed differ. -/
structure Opens (s t : State) : Prop where
  rest : t = { s with regs := t.regs, cores := t.cores, closed := t.closed }

namespace Opens

theorem refl (s : State) : Opens s s := ⟨rfl⟩

theorem trans {s t u : State} (h : Opens s t) (k : Opens t u) : Opens s u :=
  ⟨by rw [k.rest, h.rest]⟩

theorem setCore (s : State) (c : Nat) (x : Core) : Opens s (s.setCore c x) := ⟨rfl⟩
theorem setReg (s : State) (r : Nat) (v : BitVec 64) : Opens s (s.setReg r v) := ⟨rfl⟩
theorem put (s : State) (f : Fld) (v : Nat) : Opens s (s.put f v) := ⟨rfl⟩
theorem markOpen (s : State) (scope subj : Nat) : Opens s (s.markOpen scope subj) := ⟨rfl⟩
theorem setClosed (s : State) (l : List Closed) : Opens s { s with closed := l } := ⟨rfl⟩
theorem clearRegs (s : State) (lo hi : Nat) : Opens s (s.clearRegs lo hi) := ⟨rfl⟩

theorem setMapBit (s : State) (f : Nat → Fld) (t : Nat) (b : Bool) : Opens s (s.setMapBit f t b) := by
  unfold State.setMapBit
  dsimp only
  split
  · exact .refl s
  · exact .put _ _ _

theorem foldl {β : Type} {f : State → β → State} (l : List β) (h : ∀ s x, Opens s (f s x)) (s : State) : Opens s (l.foldl f s) :=
  foldl_keeps Opens.refl Opens.trans l (fun s x _ => h s x) s

variable {s t : State} (h : Opens s t)
include h

theorem allot (a : Nat) : t.allot a = s.allot a := by rw [h.rest]; rfl
theorem queues : t.queues = s.queues := by rw [h.rest]
theorem inflight : t.inflight = s.inflight := by rw [h.rest]
theorem wck : t.wck = s.wck := by rw [h.rest]
theorem untouched : Untouched s t := by rw [h.rest]; exact ⟨rfl, rfl, rfl⟩

end Opens

theorem zeroTile_opens (s : State) (t : Nat) : Opens s (s.zeroTile t) :=
  .foldl _ (fun s _ => (Opens.setCore s _ _).trans (.setReg _ _ _)) s

theorem blankTile_opens (s : State) (t : Nat) : Opens s (s.blankTile t) :=
  (zeroTile_opens s t).trans (.foldl _ (fun s _ => (Opens.setCore s _ _).trans (.setReg _ _ _)) _)

theorem clearSpent_opens (s : State) (t : Nat) : Opens s (s.clearSpent t) := .foldl _ (fun s _ => .setCore s _ _) s

/-- The tiles of an allotment are zeroed, and open unless the chip's sluice holds them. -/
def State.freeTiles (s : State) (a : Nat) : State :=
  let ts := s.tilesOf a
  let s := ts.foldl (fun s t => (s.blankTile t).clearSpent t) s
  if s.chipClosed then s else
    { ts.foldl (fun s t => (s.markOpen 1 t).setMapBit F.SLU_TILE_CLOSED_MAP t false) s with
      closed := s.closed.filter fun c => !(c.scope == 0 && ts.contains (c.subj / 32)) && !(c.scope == 1 && ts.contains c.subj) }

theorem freeTiles_opens (s : State) (a : Nat) : Opens s (s.freeTiles a) := by
  have hblank : Opens s ((s.tilesOf a).foldl (fun s t => (s.blankTile t).clearSpent t) s) :=
    .foldl _ (fun s t => (blankTile_opens s t).trans (clearSpent_opens _ t)) s
  unfold State.freeTiles
  dsimp only
  split
  · exact hblank
  · exact hblank.trans (.trans (.foldl _ (fun s t => (Opens.markOpen s 1 t).trans (.setMapBit _ _ _ _)) _) (.setClosed _ _))

/-- The record of an allotment that has ended keeps its book. -/
def State.emptyRecord (s : State) (a : Nat) : State := ((s.setAllot a { Allot.reset with ledger := (s.allot a).ledger }).markOpen 2 a).dropWalks a

/-- Its registers and those of its sluice read as after a reset. -/
def State.emptyRegs (s : State) (a : Nat) : State :=
  let s := (s.clearRegs (0x40100 + 0x100 * a) (0x40130 + 0x100 * a)).setReg (0x88000 + 8 * a) 0
  (((s.put (F.SLU_ALLOT_STATE a) 0).put (F.SLU_ALLOT_CHIP a) 0).put (F.SLU_ALLOT_CAUSE a) 0).noteScrub

theorem releaseEnd_none {s : State} {a : Nat} (h : (s.allot a).release = none) : releaseEnd a s = s := by
  unfold releaseEnd
  rw [h]

theorem releaseEnd_some {s : State} {a : Nat} {o : Ord} (h : (s.allot a).release = some o) : releaseEnd a s =
    if !(s.reaped a).releaseDone a o then s.reaped a else ((((s.reaped a).freeTiles a).emptyRecord a).emptyRegs a).finish o stDone 0 0 := by
  unfold releaseEnd
  rw [h]
  rfl

section
variable (s : State) (a : Nat)

theorem emptyRecord_allot : (s.emptyRecord a).allot a = { Allot.reset with ledger := (s.allot a).ledger } := State.allot_setAllot_self _ _ _

theorem emptyRecord_queues : (s.emptyRecord a).queues = s.queues := by
  unfold State.emptyRecord
  rfl

theorem emptyRecord_inflight : (s.emptyRecord a).inflight = s.inflight := by
  unfold State.emptyRecord
  rfl

theorem emptyRecord_wck : (s.emptyRecord a).wck = s.wck := by
  unfold State.emptyRecord
  rfl

theorem emptyRecord_untouched : Untouched s (s.emptyRecord a) := by
  unfold State.emptyRecord
  exact ⟨rfl, rfl, rfl⟩

theorem emptyRegs_opens : Opens s (s.emptyRegs a) :=
  (((((Opens.clearRegs s _ _).trans (.setReg _ _ _)).trans (.put _ _ _)).trans (.put _ _ _)).trans (.put _ _ _)).trans (.put _ _ _)

/-- Registers beside the sluice's and ALT_SCRUB after the clearing. -/
theorem emptyRegs_reg {r : Nat} (hsluice : r ≠ 0x100100 + 0x20 * a) (hscrub : r ≠ 0x40010) :
    (s.emptyRegs a).reg r = ((s.clearRegs (0x40100 + 0x100 * a) (0x40130 + 0x100 * a)).setReg (0x88000 + 8 * a) 0).reg r := by
  unfold State.emptyRegs State.noteScrub
  dsimp only
  rw [State.reg_put_ne _ F.ALT_SCRUB_PENDING _ hscrub, State.reg_put_ne _ (F.SLU_ALLOT_CAUSE a) _ hsluice, State.reg_put_ne _ (F.SLU_ALLOT_CHIP a) _ hsluice,
    State.reg_put_ne _ (F.SLU_ALLOT_STATE a) _ hsluice]

theorem clearRegs_reg {lo hi r : Nat} (h1 : lo ≤ r) (h2 : r < hi) : (s.clearRegs lo hi).reg r = regReset r :=
  (smGet_filter _ _ (fun x => !(decide (lo ≤ x) && decide (x < hi))) r).trans (if_neg (by simp [h1, h2]))

/-- A register of the allotment's block takes its reset value. -/
theorem emptyRegs_cleared (ha : a < 16) {k : Nat} (hk : k < 0x30) : (s.emptyRegs a).reg (0x40100 + 0x100 * a + k) = regReset (0x40100 + 0x100 * a + k) := by
  have hflags : 0x40100 + 0x100 * a + k ≠ 0x88000 + 8 * a := by omega
  rw [emptyRegs_reg s a (by omega) (by omega), State.reg_setReg_ne _ _ hflags]
  exact clearRegs_reg _ (by omega) (by omega)

theorem emptyRegs_flags (ha : a < 16) : (s.emptyRegs a).reg (0x88000 + 8 * a) = 0 := by
  rw [emptyRegs_reg s a (by omega) (by omega), State.reg_setReg_self]

theorem emptyRegs_sluiceOf : (s.emptyRegs a).sluiceOf a = 0 := by
  unfold State.sluiceOf State.emptyRegs State.noteScrub
  dsimp only
  rw [State.get_put_reg _ F.ALT_SCRUB_PENDING (F.SLU_ALLOT_STATE a) _ (by show 0x100100 + 0x20 * a ≠ 0x40010; omega),
    State.get_put_beside _ (F.SLU_ALLOT_CAUSE a) (F.SLU_ALLOT_STATE a) _ (by decide : 8 + 8 ≤ 64) (.inr (by decide : 0 + 2 ≤ 8)),
    State.get_put_beside _ (F.SLU_ALLOT_CHIP a) (F.SLU_ALLOT_STATE a) _ (by decide : 2 + 1 ≤ 64) (.inr (by decide : 0 + 2 ≤ 2))]
  exact State.get_put_fits _ (by decide : 0 + 2 ≤ 64) (by decide : 0 < 2 ^ 2)

end

theorem regReset_state : ∀ a < 16, regReset (0x40100 + 0x100 * a) = 0 := by decide

theorem regReset_tiles : ∀ a < 16, ∀ k < 3, regReset (0x40108 + 0x100 * a + 8 * k) = 0 := by decide

theorem emptyRegs_altState (s : State) {a : Nat} (ha : a < 16) : (s.emptyRegs a).altState a = 0 := by
  have hreg : (s.emptyRegs a).reg (0x40100 + 0x100 * a) = 0 := (emptyRegs_cleared s a ha (k := 0) (by decide)).trans (regReset_state a ha)
  show bits ((s.emptyRegs a).reg (0x40100 + 0x100 * a)).toNat 0 3 = 0
  rw [hreg]
  rfl

/-- No tile is owned whose map reads 0. -/
theorem ownsTile_zero {s : State} {a k : Nat} (h : s.reg (0x40108 + 0x100 * a + 8 * (k / 64)) = 0) : s.ownsTile a k = false := by
  have hmap : s.get (F.ALT_TILE_MAP_MAP a (k / 64)) = 0 := by
    show bits (s.reg (0x40108 + 0x100 * a + 8 * (k / 64))).toNat 0 64 = 0
    rw [h]
    rfl
  show bit (s.get (F.ALT_TILE_MAP_MAP a (k / 64))) (k % 64) = false
  rw [hmap]
  unfold bit
  simp

theorem emptyRegs_map (s : State) {a k : Nat} (ha : a < 16) (hk : k < 144) : (s.emptyRegs a).reg (0x40108 + 0x100 * a + 8 * (k / 64)) = 0 := by
  have hcleared := emptyRegs_cleared s a ha (k := 8 + 8 * (k / 64)) (by omega)
  rw [show 0x40100 + 0x100 * a + (8 + 8 * (k / 64)) = 0x40108 + 0x100 * a + 8 * (k / 64) by omega] at hcleared
  exact hcleared.trans (regReset_tiles a ha _ (by omega))

section
variable {s : State} {a : Nat} {o : Ord} (hs : s.stores = []) (ha : a < 16) (hrel : (s.allot a).release = some o)
include hs ha hrel

theorem releaseEnd_ends (hfly : o ∈ s.inflight) (hdone : s.releaseDone a o = true) (hallot : o.allot = a) :
    ∃ t, exec (.altReleaseEnd a) s = .next t ∧ t.altState a = 0 ∧ (∀ k < 144, t.ownsTile a k = false) ∧ (t.allot a).rights = [] ∧
      (t.allot a).active = none ∧ (t.allot a).ledger = (s.allot a).ledger ∧ (t.allot a).release = none ∧ t.sluiceOf a = 0 ∧
      t.reg (0x88000 + 8 * a) = 0 ∧ Ends s t o stDone 0 0 := by
  have hreaps := reaped_reaps s a
  have hopens := freeTiles_opens (s.reaped a) a
  have hregs := emptyRegs_opens (((s.reaped a).freeTiles a).emptyRecord a) a
  have heq : releaseEnd a s = ((((s.reaped a).freeTiles a).emptyRecord a).emptyRegs a).finish o stDone 0 0 :=
    (releaseEnd_some hrel).trans (if_neg (by rw [releaseDone_reaps hreaps hdone]; exact Bool.false_ne_true))
  have hk : Untouched s ((((s.reaped a).freeTiles a).emptyRecord a).emptyRegs a) :=
    ((hreaps.untouched.trans hopens.untouched).trans (emptyRecord_untouched _ a)).trans hregs.untouched
  have hrecord : ((((s.reaped a).freeTiles a).emptyRecord a).emptyRegs a).allot a = { Allot.reset with ledger := (s.allot a).ledger } := by
    rw [hregs.allot, emptyRecord_allot, hopens.allot, allot_congr hreaps.allots]
  obtain ⟨_, hfinal⟩ := finish_allot ((((s.reaped a).freeTiles a).emptyRecord a).emptyRegs a) o stDone 0 0 false a
  rw [hrecord] at hfinal
  have hreg : ∀ r, r % 8 = 0 → r ≠ 0x30008 → r ≠ 0x40100 + 0x100 * a →
      (((((s.reaped a).freeTiles a).emptyRecord a).emptyRegs a).finish o stDone 0 0).reg r = ((((s.reaped a).freeTiles a).emptyRecord a).emptyRegs a).reg r :=
    fun r h8 h1 h2 => finish_reg _ _ _ _ _ h1 (by omega) (by rw [hallot]; exact h2)
  refine ⟨_, unit_next ha hs heq hk.finish, (finish_altState ..).trans (emptyRegs_altState _ ha), fun k hk => ownsTile_zero ?_, by rw [hfinal]; rfl,
    by rw [hfinal]; rfl, by rw [hfinal], by rw [hfinal]; rfl, ?_, ?_, ends_finish _ _ _ ?_ (fun r => ?_) ?_ hk.rd⟩
  · exact (hreg _ (by omega) (by omega) (by omega)).trans (emptyRegs_map _ ha hk)
  · exact (get_of_reg (f := F.SLU_ALLOT_STATE a) (hreg (0x100100 + 0x20 * a) (by omega) (by omega) (by omega))).trans (emptyRegs_sluiceOf _ a)
  · exact (hreg _ (by omega) (by omega) (by omega)).trans (emptyRegs_flags _ a ha)
  · rw [hregs.inflight, emptyRecord_inflight, hopens.inflight, hreaps.inflight]
    exact hfly
  · rw [queue_congr (hregs.queues.trans ((emptyRecord_queues _ a).trans hopens.queues))]
    exact hreaps.out r
  · rw [hregs.wck, emptyRecord_wck, hopens.wck, hreaps.wck]

/-- While a step of the teardown is left, queues of the allotment may only be reaped. -/
theorem releaseEnd_waits (hstaged : ∃ x ∈ s.staged, x.ord.id = o.id) : ∃ t, exec (.altReleaseEnd a) s = .next t ∧
    t.allots = s.allots ∧ t.inflight = s.inflight ∧ Quiet s t := by
  have hreaps := reaped_reaps s a
  have hleft : ∃ x ∈ (s.reaped a).staged, x.ord.id = o.id := by rwa [hreaps.staged]
  have heq : releaseEnd a s = s.reaped a :=
    (releaseEnd_some hrel).trans (if_pos (by rw [releaseDone_staged hleft]; rfl))
  exact ⟨_, unit_next ha hs heq hreaps.untouched, hreaps.allots, hreaps.inflight, hreaps.quiet⟩

end

/-- Settles O42: with nothing bound, held or waiting the grant tears down plans, keys and slots alone and stages the revocation; the end clears
record and registers. -/
theorem allotmentIsReleased : Obligations.AllotmentIsReleased := by
  intro s hs
  refine ⟨fun q host b ht hwaiting hnone hbne hsym hqueues hports hpipes hbasins =>
      release_begins ht hwaiting hnone hbne hsym hqueues hports hpipes hbasins,
    fun a o ha hrel hfly hdone hallot => releaseEnd_ends hs ha hrel hfly hdone hallot, fun a ha hnone => unit_next ha hs (releaseEnd_none hnone) (.refl s),
    fun a o ha hrel hstaged => releaseEnd_waits hs ha hrel hstaged⟩

end Sys2Proof.Machine
end

section
/-! PROOFS. A chip doubt leaves the list of hot stacks as it is (R306, R453): what each step of a closing does to it. -/

namespace Sys2Proof.Machine

/-- A fold whose every step leaves the list. -/
theorem hotStacks_foldl {β : Type} {f : State → β → State} (h : ∀ s x, (f s x).hotStacks = s.hotStacks) (l : List β) (s : State) :
    (l.foldl f s).hotStacks = s.hotStacks :=
  foldl_keeps (R := fun s t : State => t.hotStacks = s.hotStacks) (fun _ => rfl) (fun h k => k.trans h) l (fun s x _ => h s x) s

/-- A step that is taken only where a condition holds. -/
theorem hotStacks_ite {s t : State} (p : Prop) [Decidable p] (h : t.hotStacks = s.hotStacks) : (if p then t else s).hotStacks = s.hotStacks := by
  split
  · exact h
  · rfl

section
variable (s : State)

@[simp] theorem finish_hotStacks (o : Ord) (st i d : Nat) (m : Bool) : (s.finish o st i d m).hotStacks = s.hotStacks := by
  obtain ⟨_, _, _, _, _, h⟩ := finish_eq s o st i d m
  rw [h]

@[simp] theorem logEntry_hotStacks (e : LogEntry) : (s.logEntry e).hotStacks = s.hotStacks := by
  obtain ⟨_, _, h⟩ := logEntry_eq s e
  rw [h]

@[simp] theorem setMapBit_hotStacks (f : Nat → Fld) (t : Nat) (b : Bool) : (s.setMapBit f t b).hotStacks = s.hotStacks := by
  unfold State.setMapBit
  dsimp only
  split <;> rfl

@[simp] theorem leaveTest_hotStacks (o : Ord) : (s.leaveTest o).hotStacks = s.hotStacks := by
  rw [(leaveTest_settles s o).rest]

@[simp] theorem planEvent_hotStacks (x : OldBlock) (a : Nat) : (s.planEvent x a).hotStacks = s.hotStacks := by
  have hread := (readEvent_noted (a := a) (s.setBlock x.blk (s.blockTag x.blk) x.code) x.blk 0 a).rest
  show ((s.setBlock x.blk (s.blockTag x.blk) x.code).readEvent x.blk 0 a).hotStacks = _
  rw [hread]
  rfl

/-! ### Units -/

@[simp] theorem portHold_hotStacks (p : Nat) : (s.portHold p).hotStacks = s.hotStacks := by
  unfold State.portHold State.abortFrames
  dsimp only
  split
  · split <;> rfl
  · rfl

@[simp] theorem visSluice_hotStacks (p cause : Nat) : (s.visSluice p cause).hotStacks = s.hotStacks := by
  unfold State.visSluice
  split
  · rfl
  · exact finish_hotStacks ..

@[simp] theorem bsnSluice_hotStacks (b cause : Nat) : (s.bsnSluice b cause).hotStacks = s.hotStacks := by
  have hrun : (match (s.basin b).run with
      | some r => s.finish r.ord stSluice r.sweep (openCause cause)
      | none => s).hotStacks = s.hotStacks := by
    split
    · exact finish_hotStacks ..
    · rfl
  unfold State.bsnSluice
  dsimp only
  split
  · exact hrun
  · exact hrun

@[simp] theorem bneStop_hotStacks (p : Nat → Bool) (cause : Nat) : (s.bneStop p cause).hotStacks = s.hotStacks := by
  have hjob : (match s.bne with
      | some j => if p (ownerCode j.ord.allot) then s.bneIdle.finish j.ord stSluice 0 (openCause cause) else s
      | none => s).hotStacks = s.hotStacks := by
    split
    · exact hotStacks_ite _ (finish_hotStacks ..)
    · rfl
  unfold State.bneStop
  dsimp only
  split
  · split
    · exact (finish_hotStacks ..).trans hjob
    · exact hjob
  · exact hjob

@[simp] theorem clearSlots_hotStacks (p : Nat → Bool) : (s.clearSlots p).hotStacks = s.hotStacks := by rw [(clearSlots_only s p).rest]

@[simp] theorem endSession_hotStacks (a : Nat) : (s.endSession a).hotStacks = s.hotStacks := by rw [(endSession_vacates s a).rest]

@[simp] theorem i2cSluice_hotStacks (b cause : Nat) : (s.i2cSluice b cause).hotStacks = s.hotStacks := by
  unfold State.i2cSluice
  split
  · refine (finish_hotStacks ..).trans ?_
    unfold State.setI2c
    dsimp only
    split <;> rfl
  · rfl

@[simp] theorem ppsLow_hotStacks : s.ppsLow.hotStacks = s.hotStacks := by
  unfold State.ppsLow
  split <;> rfl

/-! ### Deliveries and flits -/

@[simp] theorem sendBlocks_hotStacks (a : Nat) (d : Delivery) (n : Nat) : (s.sendBlocks a d n).2.hotStacks = s.hotStacks :=
  foldl_keeps (R := fun x y : Delivery × State => y.2.hotStacks = x.2.hotStacks) (fun _ => rfl) (fun h k => k.trans h) _
    (fun x _ _ => planEvent_hotStacks x.2 _ a) (d, s)

@[simp] theorem ledgerPut_hotStacks (a : Nat) (e : Ledger) : (s.ledgerPut a e).hotStacks = s.hotStacks := by
  unfold State.ledgerPut
  dsimp only
  split <;> rfl

@[simp] theorem withholdAll_hotStacks (a : Nat) : (s.withholdAll a).hotStacks = s.hotStacks :=
  hotStacks_foldl (fun s (x : Delivery × Nat) => (ledgerPut_hotStacks _ a _).trans (sendBlocks_hotStacks { s with free := s.free + 1 } a x.1 _)) _
    (s.setAllot a { s.allot a with delivs := [] })

theorem sendFull_hotStacks (p : Nat) (l : List (List Bytes)) : (s.sendFull p l).hotStacks = s.hotStacks := by
  induction l generalizing s with
  | nil => rfl
  | cons x l ih => exact ih (s.sendFrame p 0 (s.aqd p).txLast x)

@[simp] theorem sendFlits_hotStacks (p : Nat) (l : List Bytes) : (s.sendFlits p l).hotStacks = s.hotStacks := by
  unfold State.sendFlits
  exact sendFull_hotStacks _ p _

@[simp] theorem aqdSluice_hotStacks (a : Nat) : (s.aqdSluice a).hotStacks = s.hotStacks :=
  hotStacks_foldl (fun s _ => hotStacks_ite _ (sendFlits_hotStacks s _ _)) _ s

@[simp] theorem aqdChipSluice_hotStacks : s.aqdChipSluice.hotStacks = s.hotStacks :=
  hotStacks_foldl (fun s _ => hotStacks_ite _ (sendFlits_hotStacks s _ _)) _ s

/-! ### Together -/

@[simp] theorem harmless_hotStacks (a cause : Nat) : (s.harmless a cause).hotStacks = s.hotStacks := by
  unfold State.harmless
  dsimp only
  rw [hotStacks_foldl fun s k => hotStacks_ite _ (i2cSluice_hotStacks s (k + 1) cause), endSession_hotStacks, clearSlots_hotStacks, bneStop_hotStacks,
    hotStacks_foldl fun s b => hotStacks_ite _ (bsnSluice_hotStacks s b cause), hotStacks_foldl fun s p => hotStacks_ite _ (visSluice_hotStacks s p cause),
    hotStacks_foldl fun s p => hotStacks_ite _ (portHold_hotStacks s p), withholdAll_hotStacks]

@[simp] theorem harmlessChip_hotStacks (cause : Nat) : (s.harmlessChip cause).hotStacks = s.hotStacks := by
  unfold State.harmlessChip
  dsimp only
  rw [ppsLow_hotStacks, hotStacks_foldl fun s b => i2cSluice_hotStacks s b cause, clearSlots_hotStacks, bneStop_hotStacks,
    hotStacks_foldl fun s b => bsnSluice_hotStacks s b cause, hotStacks_foldl fun s p => visSluice_hotStacks s p cause,
    hotStacks_foldl fun s p => portHold_hotStacks s p]

@[simp] theorem discard_hotStacks (p : Ord → Bool) (cause : Nat) : (s.discard p cause).hotStacks = s.hotStacks := by
  have hswitches : s.switchesBegun.hotStacks = s.hotStacks := by rw [(switchesBegun_marks s).rest]
  unfold State.discard
  dsimp only
  rw [hotStacks_foldl fun s o => finish_hotStacks s o stSluice 0 (openCause cause) false]
  exact (hotStacks_foldl (fun s o => leaveTest_hotStacks s o) _ _).trans hswitches

@[simp] theorem failReopen_hotStacks (p : Reopen → Bool) (cause : Nat) : (s.failReopen p cause).hotStacks = s.hotStacks :=
  hotStacks_foldl (fun s (r : Reopen) => finish_hotStacks s r.ord stSluice 0 (openCause cause) false) _ _

@[simp] theorem announce_hotStacks (scope subj allot : Nat) (d : Doubt) : (s.announce scope subj allot d).hotStacks = s.hotStacks := logEntry_hotStacks s _

@[simp] theorem amend_hotStacks (scope subj a : Nat) (d : Doubt) : (s.amend scope subj a d).hotStacks = s.hotStacks := by
  unfold State.amend
  split
  · rfl
  · split
    · dsimp only
      split
      · rfl
      · split <;> rfl
    · rfl

@[simp] theorem bookFilled_hotStacks (a n : Nat) : (s.bookFilled a n).hotStacks = s.hotStacks := by
  unfold State.bookFilled
  split
  · exact (amend_hotStacks ..).trans (logEntry_hotStacks (s.bump (F.SLU_ALLOT_DOUBTS a)) _)
  · rfl

variable (d : Doubt)

@[simp] theorem armFinals_hotStacks (a : Nat) : (s.armFinals a d).hotStacks = s.hotStacks := by
  have hrun : (match (s.allot a).runOrd with
      | some o => s.finish o (statusOf d.cause) ((s.allot a).executed % 2 ^ 32) (planDetail d.cause d.index d.core)
      | none => s).hotStacks = s.hotStacks := by
    split
    · exact finish_hotStacks ..
    · rfl
  unfold State.armFinals
  dsimp only
  rw [State.setAllot_hotStacks, hotStacks_foldl (f := fun s (m : Ord × Nat) => s.done m.1) fun s m => finish_hotStacks s m.1 stDone 0 0 false]
  split
  · exact (finish_hotStacks ..).trans hrun
  · exact hrun

@[simp] theorem endAllot_hotStacks (a : Nat) : (s.endAllot a d).hotStacks = s.hotStacks := (announce_hotStacks ..).trans (armFinals_hotStacks s d a)

@[simp] theorem shutAllot_hotStacks (a : Nat) (chip : Bool) : (s.shutAllot a d chip).hotStacks = s.hotStacks := by
  have hran := hotStacks_ite (s.altState a = 4 ∧ s.wck.running = true ∧ s.wck.isFallow = false)
    (s.setAllot_hotStacks a { s.allot a with shutRunning := s.wck.now + 1 })
  have hbase : ∀ v : State, ((((v.markClosed 2 a d).put (F.SLU_ALLOT_STATE a) 1).put (F.SLU_ALLOT_CAUSE a) d.cause).put (F.ALT_STATE_STATE a) 6).hotStacks =
      v.hotStacks := fun _ => rfl
  unfold State.shutAllot
  dsimp only
  rw [discard_hotStacks]
  split
  · rw [harmless_hotStacks, hbase, hran]
  · rw [aqdSluice_hotStacks, harmless_hotStacks, hbase, hran]

@[simp] theorem reachAllot_hotStacks (a : Nat) : (s.reachAllot a d).hotStacks = s.hotStacks := by
  unfold State.reachAllot
  exact (amend_hotStacks ..).trans (hotStacks_ite _ (failReopen_hotStacks ..))

@[simp] theorem closeTile_hotStacks (t : Nat) : (s.closeTile t d).hotStacks = s.hotStacks := by
  unfold State.closeTile
  split
  · exact (amend_hotStacks ..).trans (failReopen_hotStacks ..)
  · exact (discard_hotStacks ..).trans (setMapBit_hotStacks ..)

/-- An allotment under a closing of the chip. -/
theorem chipAllot_hotStacks (a : Nat) (opened : Bool) : ((((if opened then s.shutAllot a d true else s.reachAllot a d).put (F.SLU_ALLOT_CHIP a) 1).put
    (F.ALT_STATE_CHIP_SLUICED a) 1).put (F.SLU_ALLOT_STATE a) 1).hotStacks = s.hotStacks := by
  simp only [State.put_hotStacks]
  split
  · exact shutAllot_hotStacks s d a true
  · exact reachAllot_hotStacks s d a

theorem doubtChip_hotStacks : (s.doubtChip d).hotStacks = s.hotStacks := by
  have hbump : ∀ l : List Nat, (l.foldl (fun s a => s.bump (F.SLU_ALLOT_DOUBTS a)) s).hotStacks = s.hotStacks := fun l => hotStacks_foldl (fun s a => s.bump_hotStacks (F.SLU_ALLOT_DOUBTS a) 1) l s
  unfold State.doubtChip
  dsimp only
  split
  · rw [amend_hotStacks, hotStacks_foldl fun s a => amend_hotStacks s 2 a a d,
      hotStacks_foldl fun s t => amend_hotStacks s 1 t ((s.tileOwner t).getD 255) d]
    exact (logEntry_hotStacks _ _).trans (hbump _)
  · rw [hotStacks_foldl fun s (x : Nat × Nat) => (bookFilled_hotStacks _ x.1 x.2).trans (endAllot_hotStacks s d x.1),
      hotStacks_foldl fun s t => announce_hotStacks s 1 t ((s.tileOwner t).getD 255) d, announce_hotStacks, discard_hotStacks, aqdChipSluice_hotStacks,
      harmlessChip_hotStacks, hotStacks_foldl fun s a => chipAllot_hotStacks s d a _, hotStacks_foldl fun s t => closeTile_hotStacks s d t,
      failReopen_hotStacks]
    exact hbump _

end

end Sys2Proof.Machine
end

section
/-! PROOFS. The services of external memory and their neighbours: BAR2 windows (R136, R151, R158), scrubs (R148), rewrites (R307), stack
temperatures (R306), ledger acknowledgements (R470) and the zeroing of a reopening (R477). -/

namespace Sys2Proof.Machine

/-! ## Writes of usable blocks -/

/-- Between two states only stores, the side information of blocks, and what accesses note may differ. -/
structure Stored (s t : State) : Prop where
  rest : t = { s with regs := t.regs, stores := t.stores, allots := t.allots, blkTag := t.blkTag, blkCode := t.blkCode, log := t.log
                      corrLogged := t.corrLogged, rewriteQ := t.rewriteQ, tcache := t.tcache }

namespace Stored

theorem refl (s : State) : Stored s s := ⟨rfl⟩

variable {s t u : State}

theorem trans (h : Stored s t) (k : Stored t u) : Stored s u := ⟨by rw [k.rest, h.rest]⟩

theorem ofNoted {a : Nat} (h : Noted a s t) : Stored s t := ⟨by rw [h.rest]⟩

theorem wrRaw (s : State) (p : Nat) (b : Bytes) : Stored s (s.wrRaw p b) := ⟨by rw [wrRaw_eq]⟩

theorem setBlock (s : State) (b : Nat) (tag : BitVec 64) (e : BlockCode) : Stored s (s.setBlock b tag e) := ⟨rfl⟩

theorem mem (h : Stored s t) : t.mem = s.mem := by rw [h.rest]
theorem queues (h : Stored s t) : t.queues = s.queues := by rw [h.rest]
theorem sent (h : Stored s t) : t.sent = s.sent := by rw [h.rest]

end Stored

/-- An effect that stores: its outcome is the state it gives, the stores drained, and every byte reads as the effect left it. -/
theorem run_drains {s w : State} {f : State → State} (hs : s.stores = []) (h : f s = w) (hm : w.mem = s.mem) :
    ∃ t, run s f = .next t ∧ t = { w with pending := t.pending, mem := t.mem, stores := t.stores } ∧ ∀ x, t.rd x = w.rd x := by
  have hself : f { s with stores := [] } = w := (congrArg f (stores_nil hs)).trans h
  refine ⟨_, run_eq s f, by rw [hself], fun x => ?_⟩
  rw [rd_run (run_eq s f) (by rw [hself]; exact hm) x, hself]

theorem noted_blockEcc {a : Nat} {s t : State} (h : Noted a s t) (k : Nat) : t.blockEcc k = s.blockEcc k := by rw [h.rest]; rfl

/-- A write to a block that can be used is taken, and leaves it without error. -/
theorem writeBlock_usable {s : State} {p : Nat} (h : (s.blockEcc (p / 64)).usable = true) (data : Bytes) (tag : BitVec 64) (a : Nat) :
    ∃ v, Noted a s v ∧ s.writeBlock p data tag a = (false, (v.wrRaw p data).setBlock (p / 64) tag .good) := by
  unfold State.writeBlock
  dsimp only
  split
  · exact ⟨s, .refl s, rfl⟩
  · split
    · exact ⟨s, .refl s, rfl⟩
    · exact ⟨_, logCorrected_noted ((Noted.refl s).bump (f := F.HBM_ECC_CORRECTED (stackOf p)) (by show 0xA0108 ≤ 0xA0108 + 0x20 * stackOf p; omega) 1) _ _ _ _ _ _ _, rfl⟩
    · rename_i hclean hcorrectable
      cases hecc : s.blockEcc (p / 64) with
      | clean => exact absurd hecc hclean
      | correctable => exact absurd hecc hcorrectable
      | poisoned => rw [hecc] at h; cases h
      | uncorrectable => rw [hecc] at h; cases h

theorem setBlock_blockEcc (s : State) (b : Nat) (tag : BitVec 64) (k : Nat) :
    (s.setBlock b tag .good).blockEcc k = if k = b then .clean else s.blockEcc k := by
  show (smGet .good (smSet .good s.blkCode b .good) k).ecc = _
  split
  next h =>
    subst h
    rw [smGet_smSet_self]
    rfl
  next h =>
    rw [smGet_smSet_ne _ _ _ _ h]
    rfl

theorem slice_getD (b : Bytes) (off n i : Nat) (h : i < n) : (slice b off n).getD i 0 = b.getD (off + i) 0 := by
  unfold slice
  rw [List.getD_eq_getElem?_getD, List.getElem?_map, List.getElem?_range h]
  rfl

theorem slice_length (b : Bytes) (off n : Nat) : (slice b off n).length = n := by simp [slice]

theorem slice_whole (b : Bytes) : slice b 0 b.length = b := by
  refine List.ext_getElem (slice_length b 0 b.length) fun i h1 h2 => ?_
  have hget := slice_getD b 0 b.length i h2
  rwa [Nat.zero_add, List.getD_eq_getElem _ _ h1, List.getD_eq_getElem _ _ h2] at hget

/-- The pieces of a byte string that starts at `p`: addresses in step with the offsets, none beyond its end. -/
def Steps (p n : Nat) (l : List (Nat × Nat × Nat)) : Prop := ∀ x ∈ l, x.1 = p + x.2.1 ∧ x.2.1 + x.2.2 ≤ n

theorem pieces_steps (p n : Nat) : Steps p n (pieces p n) := by
  intro x hx
  unfold pieces blocksOf at hx
  split at hx
  · cases hx
  · obtain ⟨b, hb, rfl⟩ := List.mem_map.1 hx
    obtain ⟨i, hi, rfl⟩ := List.mem_map.1 hb
    have hlt := List.mem_range.1 hi
    dsimp only
    omega

theorem pieces_cover {p n x : Nat} (h1 : p ≤ x) (h2 : x < p + n) : ∃ y ∈ pieces p n, y.1 ≤ x ∧ x < y.1 + y.2.2 := by
  unfold pieces blocksOf
  rw [if_neg (by omega)]
  refine ⟨_, List.mem_map_of_mem (List.mem_map_of_mem (a := x / 64 - p / 64) (List.mem_range.2 (by omega))), ?_⟩
  dsimp only
  omega

/-- One piece after the other into usable blocks: the bytes of the pieces, and no other. -/
theorem writes_usable {p : Nat} {data : Bytes} {l : List (Nat × Nat × Nat)} (hl : Steps p data.length l) (tag : BitVec 64) (a : Nat) (r : Bool × State)
    (hu : ∀ k, (r.2.blockEcc k).usable = true) :
    let t := l.foldl (fun (r : Bool × State) x =>
      let w := r.2.writeBlock x.1 (slice data x.2.1 x.2.2) tag a
      (r.1 || w.1, w.2)) r
    Stored r.2 t.2 ∧ ∀ y, t.2.rd y = if ∃ x ∈ l, x.1 ≤ y ∧ y < x.1 + x.2.2 then data.getD (y - p) 0 else r.2.rd y := by
  induction l generalizing r with
  | nil => exact ⟨.refl _, fun y => (if_neg (by simp)).symm⟩
  | cons x l ih =>
    obtain ⟨v, hv, hw⟩ := writeBlock_usable (hu (x.1 / 64)) (slice data x.2.1 x.2.2) tag a
    obtain ⟨hstep, hend⟩ := hl x List.mem_cons_self
    have hrd : ∀ y, ((v.wrRaw x.1 (slice data x.2.1 x.2.2)).setBlock (x.1 / 64) tag .good).rd y =
        if x.1 ≤ y ∧ y < x.1 + x.2.2 then data.getD (y - p) 0 else r.2.rd y := by
      intro y
      show (v.wrRaw x.1 (slice data x.2.1 x.2.2)).rd y = _
      rw [rd_wrRaw, slice_length]
      split
      next hin => rw [slice_getD _ _ _ _ (by omega), show x.2.1 + (y - x.1) = y - p by omega]
      next => exact hv.untouched.rd y
    have husable : ∀ k, (((v.wrRaw x.1 (slice data x.2.1 x.2.2)).setBlock (x.1 / 64) tag .good).blockEcc k).usable = true := by
      intro k
      rw [setBlock_blockEcc]
      split
      · rfl
      · rw [wrRaw_eq]
        exact (congrArg Ecc.usable (noted_blockEcc hv k)).trans (hu k)
    have hfirst : Stored r.2 ((v.wrRaw x.1 (slice data x.2.1 x.2.2)).setBlock (x.1 / 64) tag .good) :=
      (Stored.ofNoted hv).trans ((Stored.wrRaw _ _ _).trans (.setBlock _ _ _ _))
    rw [List.foldl_cons, hw]
    generalize (v.wrRaw x.1 (slice data x.2.1 x.2.2)).setBlock (x.1 / 64) tag .good = w at hrd husable hfirst
    obtain ⟨hstored, hbytes⟩ := ih (fun y hy => hl y (List.mem_cons_of_mem _ hy)) (r.1 || false, w) husable
    refine ⟨hfirst.trans hstored, fun y => (hbytes y).trans ?_⟩
    rw [hrd]
    simp only [List.mem_cons, exists_eq_or_imp]
    by_cases hlater : ∃ z ∈ l, z.1 ≤ y ∧ y < z.1 + z.2.2
    · rw [if_pos hlater, if_pos (.inr hlater)]
    · rw [if_neg hlater]
      by_cases hnow : x.1 ≤ y ∧ y < x.1 + x.2.2
      · rw [if_pos hnow, if_pos (.inl hnow)]
      · rw [if_neg hnow, if_neg (not_or.2 ⟨hnow, hlater⟩)]

/-- A write over usable blocks: its bytes stand there, no other byte changes. -/
theorem write_usable {s : State} (hu : ∀ k, (s.blockEcc k).usable = true) (p : Nat) (data : Bytes) (tag : BitVec 64) (a : Nat) :
    Stored s (s.write p data tag a).2 ∧
      ∀ x, (s.write p data tag a).2.rd x = if p ≤ x ∧ x < p + data.length then data.getD (x - p) 0 else s.rd x := by
  obtain ⟨hstored, hbytes⟩ := writes_usable (pieces_steps p data.length) tag a (false, s) hu
  refine ⟨hstored, fun x => (hbytes x).trans ?_⟩
  by_cases h : p ≤ x ∧ x < p + data.length
  · rw [if_pos h, if_pos (pieces_cover h.1 h.2)]
  · rw [if_neg h, if_neg]
    rintro ⟨y, hy, h1, h2⟩
    have hstep := pieces_steps p data.length y hy
    omega

/-! ## BAR2 windows -/

theorem bar2Page_noted (s : State) (a addr b : Nat) : Noted a s (s.bar2Page a addr b).2 := by
  unfold State.bar2Page
  dsimp only
  generalize s.tcache.find? (fun x => x.1 == a && x.2.1 == addr / pageSize) = hit
  have hread : Noted a s (if hit.isSome then s else s.readTable a (addr / pageSize * pageSize) 1 (fun v => bit v b || bit v permSealed)) := by
    split
    · exact .refl s
    · exact readTables_noted _ _ _ _ _ _
  split
  · exact hread
  · split
    · exact hread
    · split
      next h => rwa [if_pos h] at hread
      next h =>
        rw [if_neg h] at hread
        exact hread.caches _

theorem bar2Pieces_noted (s : State) (a b : Nat) (l : List (Nat × Nat × Nat)) : Noted a s (s.bar2Pieces a b l).2 := by
  induction l generalizing s with
  | nil => exact .refl s
  | cons x l ih =>
    obtain ⟨lo, off, len⟩ := x
    have hpage := bar2Page_noted s a lo b
    unfold State.bar2Pieces
    generalize s.bar2Page a lo b = r at hpage
    obtain ⟨c | p, t⟩ := r
    · exact hpage
    · have hrest := ih t
      dsimp only
      generalize t.bar2Pieces a b l = r at hrest
      obtain ⟨e | k, u⟩ := r
      · exact hpage.trans hrest
      · exact hpage.trans hrest

/-- A window that has an allotment has one of the 16. -/
theorem noted_of_pieces {s u : State} {a b : Nat} {l : List (Nat × Nat × Nat)} {r : Except (Nat × Nat) (List (Nat × Nat × Nat × Bool))}
    (h : s.bar2Pieces a b l = (r, u)) : Noted a s u := by
  have hpieces := bar2Pieces_noted s a b l
  rwa [h] at hpieces

theorem window_lt {s : State} {fn a : Nat} (h : s.window fn = some a) : a < 16 := by
  unfold State.window at h
  split at h
  · dsimp only at h
    split at h
    next hin =>
      cases h
      exact hin.1
    next => cases h
  · exact List.mem_range.1 (List.mem_of_find?_eq_some h)

section
variable {s u : State} {fn a addr : Nat} (hup : s.bar2Up fn = true) (hwin : s.window fn = some a)
include hup hwin

theorem bar2Write_pieces {data : Bytes} {l : List (Nat × Nat × Nat × Bool)}
    (h : s.bar2Pieces a permHostWrite (pagesOf addr data.length) = (.ok l, u)) : bar2Write fn addr data s =
      l.foldl (fun s x => if x.2.2.2 then s else (s.write x.1 (slice data x.2.1 x.2.2.1) 0 a).2) (u.noteSealed a addr 1 l) := by
  unfold bar2Write
  rw [hup, hwin]
  dsimp only
  rw [h]
  rfl

theorem bar2Write_faults {data : Bytes} {e : Nat × Nat} (h : s.bar2Pieces a permHostWrite (pagesOf addr data.length) = (.error e, u)) :
    bar2Write fn addr data s = (u.walkFault a e.1 e.2 3).bump (F.ALT_BAR2_COUNTS_FAULTS a) := by
  unfold bar2Write
  rw [hup, hwin]
  dsimp only
  rw [h]
  rfl

theorem bar2Read_pieces {len : Nat} {l : List (Nat × Nat × Nat × Bool)} (h : s.bar2Pieces a permHostRead (pagesOf addr len) = (.ok l, u)) :
    bar2Read fn addr len s =
      let s := u.noteSealed a addr 0 l
      let data := l.flatMap fun x => if x.2.2.2 then List.replicate x.2.2.1 0 else s.bar2Bytes x.1 x.2.2.1
      let bad := l.any fun x => !x.2.2.2 && (blocksOf x.1 x.2.2.1).any fun b => !(s.blockEcc b).usable
      let s := l.foldl (fun s x => if x.2.2.2 then s else (s.readFor x.1 x.2.2.1 1 a).2.2) s
      s.emit (if bad then .completionEp fn data else .completion fn data) := by
  unfold bar2Read
  rw [linkLost_of_bar2Up hup, hup, hwin]
  dsimp only
  rw [h]
  rfl

theorem bar2Read_faults {len : Nat} {e : Nat × Nat} (h : s.bar2Pieces a permHostRead (pagesOf addr len) = (.error e, u)) :
    bar2Read fn addr len s = ((u.walkFault a e.1 e.2 2).bump (F.ALT_BAR2_COUNTS_FAULTS a)).emit (.completerAbort fn) := by
  unfold bar2Read
  rw [linkLost_of_bar2Up hup, hup, hwin]
  dsimp only
  rw [h]
  rfl

end

section
variable (s : State) (a addr w p n : Nat)

theorem noteSealed_open : s.noteSealed a addr w [(p, 0, n, false)] = s := rfl

theorem noteSealed_sealed : s.noteSealed a addr w [(p, 0, n, true)] =
    (s.logCause 0x106 ((addr + 0) % 2 ^ 48 + w * 2 ^ 56) a).bump (F.ALT_BAR2_COUNTS_SEALED a) := rfl

/-- A walk fault is the last entry of the log. -/
theorem walkFault_last (addr cause src : Nat) : ∃ e, (s.walkFault a addr cause src).log.getLast? = some e ∧ e.cause = 0x105 := by
  obtain ⟨e, he, hcause⟩ := logCause_last s 0x105 (addr % 2 ^ 48 + cause * 2 ^ 48) a
  refine ⟨e, ?_, hcause⟩
  unfold State.walkFault
  dsimp only
  split
  · exact he
  · exact he

end

/-- An access that leaves no store: its outcome is the state it gives. -/
theorem noted_quiet {a : Nat} {s t : State} (h : Noted a s t) : Quiet s t :=
  ⟨fun r => congrArg Queue.out (queue_congr h.queues r), h.untouched.rd⟩

/-- A count that an access's notes leave alone, counted up. -/
theorem noted_bump {a : Nat} {s t : State} (h : Noted a s t) {f : Fld} (hf : f.reg = 0x40138 + 0x100 * a) (ha : a < 16) (hw : f.lo + f.w ≤ 64) :
    (t.bump f).get f = min (2 ^ f.w - 1) (s.get f + 1) := by
  rw [State.get_bump_self t f 1 hw, h.get (by omega) (by omega)]

section
variable {s u : State} {fn a addr : Nat} (hs : s.stores = []) (hfn : fn < 32) (hup : s.bar2Up fn = true) (hwin : s.window fn = some a)
include hs hfn hup hwin

theorem bar2Write_stores {data : Bytes} {p : Nat} (h : s.bar2Pieces a permHostWrite (pagesOf addr data.length) = (.ok [(p, 0, data.length, false)], u))
    (hu : ∀ k, (s.blockEcc k).usable = true) : ∃ t, exec (.bar2Write fn addr data) s = .next t ∧ t.sent = s.sent ∧
      (∀ r, (t.queue r).out = (s.queue r).out) ∧ ∀ x, t.rd x = if p ≤ x ∧ x < p + data.length then data.getD (x - p) 0 else s.rd x := by
  have hnoted := noted_of_pieces h
  have heq := bar2Write_pieces hup hwin h
  rw [noteSealed_open, List.foldl_cons, List.foldl_nil, if_neg Bool.false_ne_true] at heq
  dsimp only at heq
  rw [slice_whole] at heq
  obtain ⟨hstored, hbytes⟩ := write_usable (fun k => (congrArg Ecc.usable (noted_blockEcc hnoted k)).trans (hu k)) p data 0 a
  have hkept := (Stored.ofNoted hnoted).trans hstored
  rw [← heq] at hkept hbytes
  obtain ⟨t, hrun, hrest, hrd⟩ := run_drains hs rfl hkept.mem
  refine ⟨t, (unit_of_lt hfn s _).trans hrun, ?_, fun r => ?_, fun x => ?_⟩
  · rw [hrest]
    exact hkept.sent
  · rw [hrest]
    exact congrArg Queue.out (queue_congr hkept.queues r)
  · rw [hrd, hbytes]
    split
    · rfl
    · exact hnoted.untouched.rd x

theorem bar2Write_refused {data : Bytes} {p : Nat} (h : s.bar2Pieces a permHostWrite (pagesOf addr data.length) = (.ok [(p, 0, data.length, true)], u)) :
    ∃ t e, exec (.bar2Write fn addr data) s = .next t ∧ t.log.getLast? = some e ∧ e.cause = 0x106 ∧ Quiet s t ∧
      t.get (F.ALT_BAR2_COUNTS_SEALED a) = min (2 ^ 32 - 1) (s.get (F.ALT_BAR2_COUNTS_SEALED a) + 1) := by
  have hnoted := noted_of_pieces h
  have heq := bar2Write_pieces hup hwin h
  rw [noteSealed_sealed, List.foldl_cons, List.foldl_nil, if_pos rfl] at heq
  obtain ⟨e, he, hcause⟩ := logCause_last u 0x106 ((addr + 0) % 2 ^ 48 + 1 * 2 ^ 56) a
  have hlogged : Noted a s (u.logCause 0x106 ((addr + 0) % 2 ^ 48 + 1 * 2 ^ 56) a) := hnoted.logEntry _
  obtain ⟨hout, hrd⟩ := noted_quiet hlogged
  exact ⟨_, e, unit_next hfn hs heq hlogged.untouched.bump, he, hcause, ⟨hout, hrd⟩,
    noted_bump hlogged rfl (window_lt hwin) (by decide : 0 + 32 ≤ 64)⟩

theorem bar2Write_fault {data : Bytes} {x : Nat × Nat} (h : s.bar2Pieces a permHostWrite (pagesOf addr data.length) = (.error x, u)) :
    ∃ t e, exec (.bar2Write fn addr data) s = .next t ∧ t.log.getLast? = some e ∧ e.cause = 0x105 ∧ Quiet s t ∧
      t.get (F.ALT_BAR2_COUNTS_FAULTS a) = min (2 ^ 32 - 1) (s.get (F.ALT_BAR2_COUNTS_FAULTS a) + 1) := by
  have hnoted := noted_of_pieces h
  obtain ⟨e, he, hcause⟩ := walkFault_last u a x.1 x.2 3
  have hfault := hnoted.trans (walkFault_noted u a x.1 x.2 3)
  obtain ⟨hout, hrd⟩ := noted_quiet hfault
  exact ⟨_, e, unit_next hfn hs (bar2Write_faults hup hwin h) hfault.untouched.bump, he, hcause, ⟨hout, hrd⟩,
    noted_bump hfault rfl (window_lt hwin) (by decide : 32 + 32 ≤ 64)⟩

theorem bar2Read_returns {len p : Nat} (h : s.bar2Pieces a permHostRead (pagesOf addr len) = (.ok [(p, 0, len, false)], u))
    (hu : ∀ k, (s.blockEcc k).usable = true) :
    ∃ t, exec (.bar2Read fn addr len) s = .next t ∧ t.sent = s.sent ++ [.completion fn (s.rdBytes p len)] ∧ Quiet s t := by
  have hnoted := noted_of_pieces h
  have husable : ∀ k, (u.blockEcc k).usable = true := fun k => (congrArg Ecc.usable (noted_blockEcc hnoted k)).trans (hu k)
  have hdata : u.bar2Bytes p len = s.rdBytes p len := List.map_congr_left fun i _ => by
    rw [if_pos (husable _)]
    exact hnoted.untouched.rd _
  have hgood : ((blocksOf p len).any fun b => !(u.blockEcc b).usable) = false := List.any_eq_false.2 fun b _ => by rw [husable]; decide
  have heq := bar2Read_pieces hup hwin h
  rw [noteSealed_open] at heq
  simp only [List.flatMap_cons, List.flatMap_nil, List.any_cons, List.any_nil, List.foldl_cons, List.foldl_nil, Bool.false_eq_true, if_false, Bool.not_false,
    Bool.true_and, hgood, Bool.or_false, List.append_nil, hdata] at heq
  have hread := hnoted.trans (readFor_noted u p len 1 a)
  have hsent : (u.readFor p len 1 a).2.2.sent = s.sent := by rw [hread.rest]
  obtain ⟨hout, hrd⟩ := noted_quiet hread
  obtain ⟨hpending, hmem, hstores⟩ := hread.untouched
  exact ⟨_, unit_next hfn hs heq ⟨hpending, hmem, hstores⟩, congrArg (· ++ _) hsent, ⟨hout, hrd⟩⟩

theorem bar2Read_zeros {len p : Nat} (h : s.bar2Pieces a permHostRead (pagesOf addr len) = (.ok [(p, 0, len, true)], u)) :
    ∃ t, exec (.bar2Read fn addr len) s = .next t ∧ t.sent = s.sent ++ [.completion fn (List.replicate len 0)] ∧ Quiet s t := by
  have hnoted := noted_of_pieces h
  have heq := bar2Read_pieces hup hwin h
  rw [noteSealed_sealed] at heq
  simp only [List.flatMap_cons, List.flatMap_nil, List.any_cons, List.any_nil, List.foldl_cons, List.foldl_nil, if_true, Bool.not_true, Bool.false_and,
    Bool.or_false, Bool.false_eq_true, if_false, List.append_nil] at heq
  have hlogged : Noted a s (u.logCause 0x106 ((addr + 0) % 2 ^ 48 + 0 * 2 ^ 56) a) := hnoted.logEntry _
  have hsent : (u.logCause 0x106 ((addr + 0) % 2 ^ 48 + 0 * 2 ^ 56) a).sent = s.sent := by rw [hlogged.rest]
  obtain ⟨hout, hrd⟩ := noted_quiet hlogged
  obtain ⟨hpending, hmem, hstores⟩ := hlogged.untouched
  exact ⟨_, unit_next hfn hs heq ⟨hpending, hmem, hstores⟩, congrArg (· ++ _) hsent, ⟨hout, hrd⟩⟩

theorem bar2Read_fault {len : Nat} {x : Nat × Nat} (h : s.bar2Pieces a permHostRead (pagesOf addr len) = (.error x, u)) :
    ∃ t, exec (.bar2Read fn addr len) s = .next t ∧ t.sent = s.sent ++ [.completerAbort fn] ∧ Quiet s t := by
  have hnoted := noted_of_pieces h
  have hfault := hnoted.trans (walkFault_noted u a x.1 x.2 2)
  have hsent : (u.walkFault a x.1 x.2 2).sent = s.sent := by rw [hfault.rest]
  obtain ⟨hout, hrd⟩ := noted_quiet hfault
  obtain ⟨hpending, hmem, hstores⟩ := hfault.untouched
  exact ⟨_, unit_next hfn hs (bar2Read_faults hup hwin h) ⟨hpending, hmem, hstores⟩, congrArg (· ++ _) hsent, ⟨hout, hrd⟩⟩

end

/-- A function that is not served: a write is dropped, a read is an Unsupported Request. -/
theorem bar2_unserved {s : State} {fn : Nat} (hs : s.stores = []) (hfn : fn < 32) (hdown : s.bar2Up fn = false) (addr len : Nat) (data : Bytes) :
    exec (.bar2Write fn addr data) s = .next s ∧
      (s.perst = false → s.tripped = false → exec (.bar2Read fn addr len) s = .next { s with sent := s.sent ++ [.unsupported fn] }) := by
  refine ⟨unit_next hfn hs (if_pos (by rw [hdown]; rfl)) (.refl s), fun hperst htripped => unit_next hfn hs ?_ ⟨rfl, rfl, rfl⟩⟩
  have hlink : s.linkLost = false := by
    unfold State.linkLost
    rw [hperst, htripped]
    rfl
  exact (if_neg (by rw [hlink]; decide)).trans (if_pos (by rw [hdown]; rfl))

/-! ## Scrubs and rewrites -/

theorem storedByte_zero (x first n : Nat) (l : List Store) :
    storedByte x (.zero first n :: l) = if first ≤ x ∧ x < first + n then some 0 else storedByte x l := rfl

/-- Zeroed bytes read 0, the others as before. -/
theorem rd_zeroMem (s : State) (first n x : Nat) : (s.zeroMem first n).rd x = if first ≤ x ∧ x < first + n then 0 else s.rd x := by
  show (storedByte x (.zero first n :: s.stores)).getD (smGet memDefault s.mem x) = _
  rw [storedByte_zero]
  split <;> rfl

/-- What the scrub of a granule leaves, before the registers of the rights follow. -/
def State.scrubFirst (s : State) (g n : Nat) : State :=
  ({ s with scrubs := if n = 1 then [] else [(g + 1, n - 1)] }.zeroMem (g * pageSize) pageSize).bump F.ALT_SCRUB_DONE

theorem rampOf_none {s : State} (h : s.ramps = []) (u stage : Nat) : s.rampOf u stage = none := by
  unfold State.rampOf
  rw [h]
  rfl

/-- Where no unit is being switched on, a scrub is its granule zeroed and counted, and the registers of the rights follow. -/
theorem granuleScrubbed_some {s : State} {st : Nat} {x : Nat × Nat} (hramps : s.ramps = [])
    (hfind : (if s.working (144 + st) || (s.rampOf (144 + st) 2).isSome then s.scrubs.find? fun x => x.1 / 24576 == st else none) = some x) :
    granuleScrubbed st s = (({ s with scrubs := s.scrubs.filterMap fun y => if y = x then (if y.2 ≤ 1 then none else some (y.1 + 1, y.2 - 1)) else some y }.zeroMem
      (x.1 * pageSize) pageSize).bump F.ALT_SCRUB_DONE).noteAllRights := by
  have hnone : ∀ l, ((({ s with scrubs := l } : State).zeroMem (x.1 * pageSize) pageSize).bump F.ALT_SCRUB_DONE).rampOf (144 + st) 2 = none :=
    fun l => rampOf_none hramps _ _
  unfold granuleScrubbed
  rw [hfind]
  dsimp only
  rw [hnone]

theorem granuleScrubbed_first {s : State} {st g n : Nat} (hscrubs : s.scrubs = [(g, n)]) (hst : g / 24576 = st) (hn : 1 ≤ n) (hramps : s.ramps = [])
    (hworks : s.working (144 + st) = true) : granuleScrubbed st s = (s.scrubFirst g n).noteAllRights := by
  have hrest : (s.scrubs.filterMap fun y => if y = (g, n) then (if y.2 ≤ 1 then none else some (y.1 + 1, y.2 - 1)) else some y) =
      if n = 1 then [] else [(g + 1, n - 1)] := by
    rw [hscrubs, List.filterMap_cons, if_pos rfl]
    by_cases h : n = 1
    · rw [if_pos h, if_pos (by omega)]
      rfl
    · rw [if_neg h, if_neg (by omega)]
      rfl
  have hfind : (if s.working (144 + st) || (s.rampOf (144 + st) 2).isSome then s.scrubs.find? fun x => x.1 / 24576 == st else none) = some (g, n) := by
    rw [hworks, if_pos (Bool.true_or _), hscrubs]
    exact List.find?_cons_of_pos (by simp [hst])
  rw [granuleScrubbed_some hramps hfind, hrest]
  unfold State.scrubFirst
  rfl

section
variable (s : State) (g n : Nat)

theorem scrubFirst_scrubs : (s.scrubFirst g n).scrubs = if n = 1 then [] else [(g + 1, n - 1)] := by
  unfold State.scrubFirst
  rfl

theorem scrubFirst_queues : (s.scrubFirst g n).queues = s.queues := by
  unfold State.scrubFirst
  rfl

theorem scrubFirst_mem : (s.scrubFirst g n).mem = s.mem := by
  unfold State.scrubFirst
  rfl

theorem scrubFirst_rd (x : Nat) : (s.scrubFirst g n).rd x = if g * pageSize ≤ x ∧ x < (g + 1) * pageSize then 0 else s.rd x := by
  unfold State.scrubFirst
  rw [State.rd_bump, rd_zeroMem, Nat.add_mul, Nat.one_mul]
  rfl

theorem scrubFirst_done : (s.scrubFirst g n).get F.ALT_SCRUB_DONE = min (2 ^ 32 - 1) (s.get F.ALT_SCRUB_DONE + 1) := by
  unfold State.scrubFirst
  exact State.get_bump_self _ F.ALT_SCRUB_DONE 1 (by decide)

/-- The registers of the rights follow beside the count of scrubs. -/
theorem noteAllRights_done : s.noteAllRights.get F.ALT_SCRUB_DONE = s.get F.ALT_SCRUB_DONE := by
  have hnotes : ∀ l : List Nat, (l.foldl State.noteRights s).get F.ALT_SCRUB_DONE = s.get F.ALT_SCRUB_DONE := fun l =>
    foldl_keeps (R := fun s t : State => t.get F.ALT_SCRUB_DONE = s.get F.ALT_SCRUB_DONE) (fun _ => rfl) (fun h k => k.trans h) l
      (fun s a _ => get_of_reg (noteRights_reg s (by show 0x40010 ≠ _; omega))) s
  exact (State.get_put_beside _ F.ALT_SCRUB_PENDING F.ALT_SCRUB_DONE _ (by decide) (by decide)).trans (hnotes _)

end

section
variable {s : State} {st : Nat} (hs : s.stores = []) (hst : st < 8)
include hs hst

theorem granuleScrub_zeroes {g n : Nat} (hscrubs : s.scrubs = [(g, n)]) (hg : g / 24576 = st) (hn : 1 ≤ n) (hramps : s.ramps = [])
    (hworks : s.working (144 + st) = true) : ∃ t, exec (.granuleScrubEnd st) s = .next t ∧
      t.scrubs = (if n = 1 then [] else [(g + 1, n - 1)]) ∧
      t.get F.ALT_SCRUB_DONE = min (2 ^ 32 - 1) (s.get F.ALT_SCRUB_DONE + 1) ∧ (∀ r, (t.queue r).out = (s.queue r).out) ∧
      ∀ x, t.rd x = if g * pageSize ≤ x ∧ x < (g + 1) * pageSize then 0 else s.rd x := by
  have hnotes := noteAllRights_spec (s.scrubFirst g n)
  have hdone := noteAllRights_done (s.scrubFirst g n)
  have heq := granuleScrubbed_first hscrubs hg hn hramps hworks
  have hscrub := scrubFirst_scrubs s g n
  have hcount := scrubFirst_done s g n
  have hqueues := scrubFirst_queues s g n
  have hmem := scrubFirst_mem s g n
  have hbytes := scrubFirst_rd s g n
  generalize (s.scrubFirst g n).noteAllRights = w at hnotes hdone heq
  generalize s.scrubFirst g n = v at hnotes hdone hscrub hcount hqueues hmem hbytes
  obtain ⟨hrest, -⟩ := hnotes
  obtain ⟨t, hrun, ht, hrd⟩ := run_drains hs heq ((congrArg State.mem hrest).trans hmem)
  refine ⟨t, (unit_of_lt hst s _).trans hrun, ?_, ?_, fun r => ?_, fun x => ?_⟩
  · rw [ht, hrest]
    exact hscrub
  · rw [ht]
    exact hdone.trans hcount
  · rw [ht, hrest]
    exact congrArg Queue.out (queue_congr hqueues r)
  · rw [hrd, hrest]
    exact hbytes x

theorem granuleScrub_idle (h : (∀ x ∈ s.scrubs, x.1 / 24576 ≠ st) ∨ (s.ramps = [] ∧ s.working (144 + st) = false)) :
    exec (.granuleScrubEnd st) s = .next s := by
  refine unit_next hst hs ?_ (.refl s)
  have hnone : (if s.working (144 + st) || (s.rampOf (144 + st) 2).isSome then s.scrubs.find? fun x => x.1 / 24576 == st else none) = none := by
    rcases h with h | ⟨hramps, hidle⟩
    · split
      · exact List.find?_eq_none.2 fun x hx e => h x hx (beq_iff_eq.1 e)
      · rfl
    · rw [hidle, rampOf_none hramps]
      rfl
  unfold granuleScrubbed
  rw [hnone]

end

end Sys2Proof.Machine
end

section
/-! PROOFS. Rewrites (R307), stack temperatures (R306) and ledger acknowledgements (R470). -/

namespace Sys2Proof.Machine

/-! ## Rewrites -/

section
variable (s : State) (b : Nat)

theorem setBlock_blockTag (tag : BitVec 64) (e : BlockCode) : (s.setBlock b tag e).blockTag b = tag := smGet_smSet_self 0 s.blkTag b tag

/-- A correctable block is written back corrected; another stays as it is. -/
def State.rewritten : State := if s.blockEcc b = .correctable then s.setBlock b (s.blockTag b) .good else s

theorem rewritten_blockEcc : (s.rewritten b).blockEcc b = if s.blockEcc b = .correctable then .clean else s.blockEcc b := by
  unfold State.rewritten
  by_cases h : s.blockEcc b = .correctable
  · rw [if_pos h, if_pos h]
    exact (setBlock_blockEcc s b _ b).trans (if_pos rfl)
  · rw [if_neg h, if_neg h]

theorem rewritten_blockTag : (s.rewritten b).blockTag b = s.blockTag b := by
  unfold State.rewritten
  split
  · exact setBlock_blockTag s b _ _
  · rfl

theorem rewritten_rest : s.rewritten b = { s with blkTag := (s.rewritten b).blkTag, blkCode := (s.rewritten b).blkCode } := by
  unfold State.rewritten
  split <;> rfl

end

theorem rewriteBlock_nil {s : State} {st : Nat} (h : smGet [] s.rewriteQ st = []) : rewriteBlock st s = s := by
  unfold rewriteBlock
  rw [h]

theorem rewriteBlock_cons {s : State} {st b : Nat} {r : List Nat} (h : smGet [] s.rewriteQ st = b :: r) :
    rewriteBlock st s = ({ s with rewriteQ := smSet [] s.rewriteQ st r } : State).rewritten b := by
  unfold rewriteBlock State.rewritten
  rw [h]
  dsimp only
  split
  · rename_i hecc
    rw [if_pos hecc]
  · rename_i hecc
    rw [if_neg hecc]

theorem hbmRewrite_first {s : State} (hs : s.stores = []) {st b : Nat} {r : List Nat} (hst : st < 8) (h : smGet [] s.rewriteQ st = b :: r) :
    ∃ t, exec (.hbmRewrite st) s = .next t ∧ smGet [] t.rewriteQ st = r ∧
      t.blockEcc b = (if s.blockEcc b = .correctable then .clean else s.blockEcc b) ∧ t.blockTag b = s.blockTag b ∧
      t = { s with rewriteQ := t.rewriteQ, blkTag := t.blkTag, blkCode := t.blkCode } := by
  have heq := rewriteBlock_cons h
  have hecc := rewritten_blockEcc { s with rewriteQ := smSet [] s.rewriteQ st r } b
  have htag := rewritten_blockTag { s with rewriteQ := smSet [] s.rewriteQ st r } b
  have hrest := rewritten_rest { s with rewriteQ := smSet [] s.rewriteQ st r } b
  generalize ({ s with rewriteQ := smSet [] s.rewriteQ st r } : State).rewritten b = t at heq hecc htag hrest
  have hq : t.rewriteQ = smSet [] s.rewriteQ st r := by rw [hrest]
  refine ⟨t, unit_next hst hs heq ?_, ?_, hecc, htag, ?_⟩
  · rw [hrest]
    exact ⟨rfl, rfl, rfl⟩
  · rw [hq]
    exact smGet_smSet_self [] _ _ _
  · rw [hq]
    exact hrest

theorem hbmRewrite_idle {s : State} (hs : s.stores = []) {st : Nat} (hst : st < 8) (h : smGet [] s.rewriteQ st = []) :
    exec (.hbmRewrite st) s = .next s := unit_next hst hs (rewriteBlock_nil h) (.refl s)

/-! ## Ledger acknowledgements -/

section
variable {s : State} {a fn v : Nat}

theorem writeLedgerAck_served (hup : s.bar2Up fn = true) (hown : fn = 0 ∨ s.allotOfFn fn = some a) : writeLedgerAck fn a v s = ledgerAck fn a v s :=
  if_pos ⟨hup, hown⟩

theorem writeLedgerAck_foreign (hfn : 0 < fn) (hown : s.allotOfFn fn ≠ some a) : writeLedgerAck fn a v s = s :=
  if_neg fun ⟨_, h⟩ => h.elim (by omega) hown

theorem ledgerAck_inRange (hv : v < 2 ^ 32) (h : (v + 2 ^ 32 - s.get (F.SLU_LEDGER_ACK a)) % 2 ^ 32 ≤ s.unacked a) :
    ledgerAck fn a v s = s.put (F.SLU_LEDGER_ACK a) v := by
  unfold ledgerAck
  rw [Nat.mod_eq_of_lt hv]
  exact if_pos h

theorem ledgerAck_outOfRange (hv : v < 2 ^ 32) (h : s.unacked a < (v + 2 ^ 32 - s.get (F.SLU_LEDGER_ACK a)) % 2 ^ 32) :
    ledgerAck fn a v s = s.rangeLog fn (0x100108 + 0x20 * a) v := by
  unfold ledgerAck
  rw [Nat.mod_eq_of_lt hv]
  exact if_neg (Nat.not_le.2 h)

theorem sluLedgerAck_of_lt (ha : a < 16) : exec (.sluLedgerAck fn a v) s = unit 32 fn s (writeLedgerAck fn a v) := if_pos ha

variable (hs : s.stores = []) (ha : a < 16) (hfn : fn < 32)
include hs ha hfn

theorem sluLedgerAck_inForce (hv : v < 2 ^ 32) (hup : s.bar2Up fn = true) (hown : fn = 0 ∨ s.allotOfFn fn = some a)
    (h : (v + 2 ^ 32 - s.get (F.SLU_LEDGER_ACK a)) % 2 ^ 32 ≤ s.unacked a) : ∃ t, exec (.sluLedgerAck fn a v) s = .next t ∧
      t.get (F.SLU_LEDGER_ACK a) = v ∧ t.get (F.SLU_LEDGER_NEXT a) = s.get (F.SLU_LEDGER_NEXT a) ∧
      (∀ r, r ≠ 0x100108 + 0x20 * a → t.reg r = s.reg r) ∧ t = { s with regs := t.regs } :=
  ⟨_, (sluLedgerAck_of_lt ha).trans (unit_next hfn hs ((writeLedgerAck_served hup hown).trans (ledgerAck_inRange hv h)) (Untouched.refl s).put),
    State.get_put_fits s (f := F.SLU_LEDGER_ACK a) (of_decide_eq_true rfl) hv,
    State.get_put_beside s (F.SLU_LEDGER_ACK a) (F.SLU_LEDGER_NEXT a) v (of_decide_eq_true rfl) (of_decide_eq_true rfl),
    fun _ hr => State.reg_put_ne s (F.SLU_LEDGER_ACK a) v hr, rfl⟩

theorem sluLedgerAck_logged (hv : v < 2 ^ 32) (hup : s.bar2Up fn = true) (hown : fn = 0 ∨ s.allotOfFn fn = some a)
    (h : s.unacked a < (v + 2 ^ 32 - s.get (F.SLU_LEDGER_ACK a)) % 2 ^ 32) : ∃ t e, exec (.sluLedgerAck fn a v) s = .next t ∧
      t.log.getLast? = some e ∧ e.cause = 0x102 ∧ (∀ r, r ≠ 0x100010 → t.reg r = s.reg r) ∧ Quiet s t := by
  obtain ⟨e, hlast, hcause⟩ := logCause_last s 0x102 (0x100108 + 0x20 * a + v % 2 ^ 32 * 2 ^ 32) (s.fnAllot fn)
  refine ⟨_, e, (sluLedgerAck_of_lt ha).trans
    (unit_next hfn hs ((writeLedgerAck_served hup hown).trans (ledgerAck_outOfRange hv h)) (logCause_untouched ..)), hlast, hcause,
    fun r hr => logCause_reg _ _ _ _ hr, fun r => ?_, (logCause_untouched ..).rd⟩
  exact congrArg Queue.out (queue_congr (congrArg State.queues (logCause_eq s 0x102 _ _)) r)

theorem sluLedgerAck_foreign (hpos : 0 < fn) (hown : s.allotOfFn fn ≠ some a) : exec (.sluLedgerAck fn a v) s = .next s :=
  (sluLedgerAck_of_lt ha).trans (unit_next hfn hs (writeLedgerAck_foreign hpos hown) (.refl s))

end

/-! ## Stack temperatures -/

/-- Between two states of a stack's sample only its own register, a notice and the count of free values differ. -/
structure Sampled (k : Nat) (s t : State) : Prop where
  rest : t = { s with regs := t.regs, queues := t.queues, free := t.free }
  reg : ∀ r, r ≠ 0xA0100 + 0x20 * k → t.reg r = s.reg r

namespace Sampled
variable {k : Nat} {s t u : State}

theorem refl (k : Nat) (s : State) : Sampled k s s := ⟨rfl, fun _ _ => rfl⟩

theorem trans (h : Sampled k s t) (g : Sampled k t u) : Sampled k s u :=
  ⟨by rw [g.rest, h.rest], fun r hr => (g.reg r hr).trans (h.reg r hr)⟩

theorem put {f : Fld} (h : Sampled k s t) (hf : f.reg = 0xA0100 + 0x20 * k) (v : Nat) : Sampled k s (t.put f v) :=
  h.trans ⟨rfl, fun _ hr => State.reg_put_ne t f v fun e => hr (e.trans hf)⟩

theorem pushTally (h : Sampled k s t) (q : Nat) (y : Tally) : Sampled k s (t.pushTally q y) := h.trans ⟨rfl, fun _ _ => rfl⟩

theorem drawn (h : Sampled k s t) (n : Nat) : Sampled k s { t with free := n } := h.trans ⟨rfl, fun _ _ => rfl⟩

theorem untouched (h : Sampled k s t) : Untouched s t := by
  rw [h.rest]
  exact ⟨rfl, rfl, rfl⟩

theorem hotStacks (h : Sampled k s t) : t.hotStacks = s.hotStacks := by rw [h.rest]

theorem get (h : Sampled k s t) {f : Fld} (hf : f.reg ≠ 0xA0100 + 0x20 * k) : t.get f = s.get f := get_of_reg (h.reg _ hf)

theorem chipClosed (h : Sampled k s t) (hk : k < 8) : t.chipClosed = s.chipClosed := by
  have hreg : F.SLU_STATUS_CHIP_CLOSED.reg ≠ 0xA0100 + 0x20 * k := by
    show 0x100000 ≠ 0xA0100 + 0x20 * k
    omega
  exact congrArg (fun x => decide (x = 1)) (h.get hreg)

end Sampled

section
variable (s : State) (k temp : Nat)

/-- The refreshes inserted since the last sample are counted. -/
def State.countInserted : State :=
  if s.on (F.HBM_STACK_INSERTING k) then { s.bump (F.HBM_STACK_INSERTED k) (Config.anyNat s.free % 2 ^ 32) with free := s.free + 1 } else s

/-- The notice at 80 °C, armed again below 75 °C. -/
def State.noticeHeat : State :=
  if 80 ≤ temp ∧ s.on (F.HBM_STACK_NOTICE_ARMED k) then (s.notice 0x0CF0 k 255).put (F.HBM_STACK_NOTICE_ARMED k) 0
  else if temp < 75 then s.put (F.HBM_STACK_NOTICE_ARMED k) 1 else s

/-- Refreshes are inserted above 85 °C in the cold class, until the stack is below 83 °C. -/
def State.paceRefresh : State :=
  if s.on F.HBM_CLASS_CLASS then s.put (F.HBM_STACK_INSERTING k) 0
  else if 85 < temp then s.put (F.HBM_STACK_INSERTING k) 1
  else if temp < 83 then s.put (F.HBM_STACK_INSERTING k) 0 else s

/-- The sample before the limit of 95 °C is judged. -/
def State.sampled : State := (((s.countInserted k).put (F.HBM_STACK_TEMP k) temp).noticeHeat k temp).paceRefresh k temp

theorem stackTemp_eq (ht : s.tripped = false) : stackTemp k temp s =
    if 95 < temp then
      if (s.sampled k temp).hotStacks.contains k then s.sampled k temp
      else ({ s.sampled k temp with hotStacks := (s.sampled k temp).hotStacks ++ [k] } : State).doubtChip { cause := cTemperature, subject := k }
    else { s.sampled k temp with hotStacks := (s.sampled k temp).hotStacks.filter (· != k) } := by
  unfold stackTemp
  rw [ht, if_neg Bool.false_ne_true]
  rfl

theorem countInserted_sampled : Sampled k s (s.countInserted k) := by
  unfold State.countInserted
  split
  · exact ((Sampled.refl k s).put (f := F.HBM_STACK_INSERTED k) rfl _).drawn _
  · exact .refl k s

theorem countInserted_idle (h : s.get (F.HBM_STACK_INSERTING k) = 0) : s.countInserted k = s :=
  if_neg (by simp [State.on, h])

theorem noticeHeat_sampled : Sampled k s (s.noticeHeat k temp) := by
  unfold State.noticeHeat
  split
  · exact ((Sampled.refl k s).pushTally 0 _).put rfl _
  · split
    · exact (Sampled.refl k s).put rfl _
    · exact .refl k s

theorem paceRefresh_sampled : Sampled k s (s.paceRefresh k temp) := by
  unfold State.paceRefresh
  split
  · exact (Sampled.refl k s).put rfl _
  · split
    · exact (Sampled.refl k s).put rfl _
    · split
      · exact (Sampled.refl k s).put rfl _
      · exact .refl k s

theorem sampled_sampled : Sampled k s (s.sampled k temp) :=
  (((countInserted_sampled s k).put rfl temp).trans (noticeHeat_sampled _ k temp)).trans (paceRefresh_sampled _ k temp)

/-- A field of the register below the one that arms the notice, or above it, is not changed by the notice. -/
theorem noticeHeat_get {f : Fld} (h : 8 + 1 ≤ f.lo ∨ f.lo + f.w ≤ 8) : (s.noticeHeat k temp).get f = s.get f := by
  unfold State.noticeHeat
  split
  · exact State.get_put_beside (s.notice 0x0CF0 k 255) (F.HBM_STACK_NOTICE_ARMED k) f 0 (of_decide_eq_true rfl) h
  · split
    · exact State.get_put_beside s (F.HBM_STACK_NOTICE_ARMED k) f 1 (of_decide_eq_true rfl) h
    · rfl

theorem paceRefresh_get {f : Fld} (h : 9 + 1 ≤ f.lo ∨ f.lo + f.w ≤ 9) : (s.paceRefresh k temp).get f = s.get f := by
  have hput : ∀ v, (s.put (F.HBM_STACK_INSERTING k) v).get f = s.get f := fun v =>
    State.get_put_beside s (F.HBM_STACK_INSERTING k) f v (of_decide_eq_true rfl) h
  unfold State.paceRefresh
  split
  · exact hput 0
  · split
    · exact hput 1
    · split
      · exact hput 0
      · rfl

theorem paceRefresh_queues : (s.paceRefresh k temp).queues = s.queues := by
  unfold State.paceRefresh
  split
  · rfl
  · split
    · rfl
    · split <;> rfl

/-! ### What the notice does -/

theorem noticeHeat_sends (htemp : 80 ≤ temp) (h : s.get (F.HBM_STACK_NOTICE_ARMED k) = 1) :
    (s.noticeHeat k temp).get (F.HBM_STACK_NOTICE_ARMED k) = 0 ∧
      ∃ m, ((s.noticeHeat k temp).queue 0).out = (s.queue 0).out ++ [m] ∧ m.notice = true ∧ m.op = 0x0CF0 ∧ m.detail = k := by
  have heq : s.noticeHeat k temp = (s.notice 0x0CF0 k 255).put (F.HBM_STACK_NOTICE_ARMED k) 0 := if_pos ⟨htemp, decide_eq_true h⟩
  rw [heq]
  refine ⟨State.get_put_self _ (F.HBM_STACK_NOTICE_ARMED k) 0 (of_decide_eq_true rfl), _, congrArg Queue.out (queue_pushTally s 0 _), rfl, rfl, rfl⟩

theorem noticeHeat_silent (h : temp < 80 ∨ s.get (F.HBM_STACK_NOTICE_ARMED k) = 0) : (s.noticeHeat k temp).queues = s.queues := by
  unfold State.noticeHeat
  rw [if_neg fun ⟨hhot, harmed⟩ => by
    have := of_decide_eq_true harmed
    omega]
  split <;> rfl

theorem noticeHeat_arms (htemp : temp < 75) : (s.noticeHeat k temp).get (F.HBM_STACK_NOTICE_ARMED k) = 1 := by
  unfold State.noticeHeat
  rw [if_neg fun h => by omega, if_pos htemp]
  exact State.get_put_self s (F.HBM_STACK_NOTICE_ARMED k) 1 (of_decide_eq_true rfl)

/-! ### When refreshes are inserted -/

theorem paceRefresh_cold (h : s.get (F.HBM_STACK_INSERTING k) = 0) (hclass : s.get F.HBM_CLASS_CLASS = 0) :
    (s.paceRefresh k temp).get (F.HBM_STACK_INSERTING k) = 1 ↔ 85 < temp := by
  have hput : ∀ v, (s.put (F.HBM_STACK_INSERTING k) v).get (F.HBM_STACK_INSERTING k) = v % 2 := fun v =>
    State.get_put_self s (F.HBM_STACK_INSERTING k) v (of_decide_eq_true rfl)
  unfold State.paceRefresh
  rw [if_neg (by simp [State.on, hclass])]
  by_cases hhot : 85 < temp
  · rw [if_pos hhot, hput]
    exact iff_of_true rfl hhot
  · rw [if_neg hhot]
    split
    · rw [hput]
      exact iff_of_false (by decide) hhot
    · rw [h]
      exact iff_of_false (by decide) hhot

theorem paceRefresh_hot (hclass : s.get F.HBM_CLASS_CLASS = 1) : (s.paceRefresh k temp).get (F.HBM_STACK_INSERTING k) = 0 := by
  unfold State.paceRefresh
  rw [if_pos (show s.on F.HBM_CLASS_CLASS = true from decide_eq_true hclass)]
  exact State.get_put_self s (F.HBM_STACK_INSERTING k) 0 (of_decide_eq_true rfl)

end

/-! ### The command -/

section
variable {s : State} {k temp : Nat} (hs : s.stores = []) (hk : k < 8)
include hs hk

theorem stackTempSample_tripped (ht : s.tripped = true) : exec (.stackTempSample k temp) s = .next s :=
  unit_next hk hs (if_pos ht) (.refl s)

theorem stackTempSample_warm (ht : s.tripped = false) (htemp : temp ≤ 95) (hins : s.get (F.HBM_STACK_INSERTING k) = 0) :
    ∃ t, exec (.stackTempSample k temp) s = .next t ∧ t.get (F.HBM_STACK_TEMP k) = temp ∧
      (80 ≤ temp → s.get (F.HBM_STACK_NOTICE_ARMED k) = 1 → t.get (F.HBM_STACK_NOTICE_ARMED k) = 0 ∧
        ∃ m, (t.queue 0).out = (s.queue 0).out ++ [m] ∧ m.notice = true ∧ m.op = 0x0CF0 ∧ m.detail = k) ∧
      (temp < 80 ∨ s.get (F.HBM_STACK_NOTICE_ARMED k) = 0 → (t.queue 0).out = (s.queue 0).out) ∧
      (temp < 75 → t.get (F.HBM_STACK_NOTICE_ARMED k) = 1) ∧
      (s.get F.HBM_CLASS_CLASS = 0 → (t.get (F.HBM_STACK_INSERTING k) = 1 ↔ 85 < temp)) ∧
      (s.get F.HBM_CLASS_CLASS = 1 → t.get (F.HBM_STACK_INSERTING k) = 0) ∧ k ∉ t.hotStacks ∧ ∀ x, t.rd x = s.rd x := by
  have heq := stackTemp_eq s k temp ht
  rw [if_neg (by omega)] at heq
  have hsampled := sampled_sampled s k temp
  have hut : Untouched s { s.sampled k temp with hotStacks := (s.sampled k temp).hotStacks.filter (· != k) } :=
    hsampled.untouched.trans ⟨rfl, rfl, rfl⟩
  unfold State.sampled at heq hut
  rw [countInserted_idle s k hins] at heq hut
  have htemp' : (s.put (F.HBM_STACK_TEMP k) temp).get (F.HBM_STACK_TEMP k) = temp :=
    State.get_put_fits s (f := F.HBM_STACK_TEMP k) (v := temp) (of_decide_eq_true rfl) (by show temp < 256; omega)
  have harmed : (s.put (F.HBM_STACK_TEMP k) temp).get (F.HBM_STACK_NOTICE_ARMED k) = s.get (F.HBM_STACK_NOTICE_ARMED k) :=
    State.get_put_beside s (F.HBM_STACK_TEMP k) (F.HBM_STACK_NOTICE_ARMED k) temp (of_decide_eq_true rfl) (of_decide_eq_true rfl)
  have hins' : (s.put (F.HBM_STACK_TEMP k) temp).get (F.HBM_STACK_INSERTING k) = s.get (F.HBM_STACK_INSERTING k) :=
    State.get_put_beside s (F.HBM_STACK_TEMP k) (F.HBM_STACK_INSERTING k) temp (of_decide_eq_true rfl) (of_decide_eq_true rfl)
  have hclass : (s.put (F.HBM_STACK_TEMP k) temp).get F.HBM_CLASS_CLASS = s.get F.HBM_CLASS_CLASS :=
    State.get_put_reg s (F.HBM_STACK_TEMP k) F.HBM_CLASS_CLASS temp (show 0xA0000 ≠ 0xA0100 + 0x20 * k by omega)
  have hqueues : (s.put (F.HBM_STACK_TEMP k) temp).queues = s.queues := rfl
  generalize s.put (F.HBM_STACK_TEMP k) temp = u at heq hut htemp' harmed hins' hclass hqueues
  have hclassv := (noticeHeat_sampled u k temp).get (f := F.HBM_CLASS_CLASS) (show 0xA0000 ≠ 0xA0100 + 0x20 * k by omega)
  have hinsv := noticeHeat_get u k temp (f := F.HBM_STACK_INSERTING k) (.inl (of_decide_eq_true rfl))
  have htempv := noticeHeat_get u k temp (f := F.HBM_STACK_TEMP k) (.inr (of_decide_eq_true rfl))
  have hsends := noticeHeat_sends u k temp
  have hsilent := noticeHeat_silent u k temp
  have harms := noticeHeat_arms u k temp
  generalize u.noticeHeat k temp = v at heq hut hclassv hinsv htempv hsends hsilent harms
  have hcold := paceRefresh_cold v k temp (hinsv.trans (hins'.trans hins))
  have hhot := paceRefresh_hot v k temp
  have htempw := paceRefresh_get v k temp (f := F.HBM_STACK_TEMP k) (.inr (of_decide_eq_true rfl))
  have harmedw := paceRefresh_get v k temp (f := F.HBM_STACK_NOTICE_ARMED k) (.inr (of_decide_eq_true rfl))
  have hqueuesw := paceRefresh_queues v k temp
  generalize v.paceRefresh k temp = w at heq hut hcold hhot htempw harmedw hqueuesw
  refine ⟨_, unit_next hk hs heq hut, htempw.trans (htempv.trans htemp'), fun h80 harm => ?_, fun h => ?_, fun h75 => harmedw.trans (harms h75),
    fun hc => hcold (hclassv.trans (hclass.trans hc)), fun hc => hhot (hclassv.trans (hclass.trans hc)), ?_, hut.rd⟩
  · obtain ⟨hoff, m, hm, hkind⟩ := hsends h80 (harmed.trans harm)
    exact ⟨harmedw.trans hoff, m, (congrArg Queue.out (queue_congr hqueuesw 0)).trans (hm.trans (by rw [queue_congr hqueues 0])), hkind⟩
  · exact congrArg Queue.out (queue_congr (hqueuesw.trans ((hsilent (h.imp_right harmed.trans)).trans hqueues)) 0)
  · exact fun hmem => bne_iff_ne.1 (List.mem_filter.1 hmem).2 rfl

theorem stackTempSample_closes (ht : s.tripped = false) (htemp : 95 < temp) (hnew : k ∉ s.hotStacks) (hopen : s.chipClosed = false) :
    ∃ t, exec (.stackTempSample k temp) s = .next t ∧ t.chipClosed = true ∧ t.get F.SLU_STATUS_CHIP_CAUSE = 0xFA ∧ k ∈ t.hotStacks := by
  have heq := stackTemp_eq s k temp ht
  have hsampled := sampled_sampled s k temp
  generalize s.sampled k temp = v at heq hsampled
  rw [if_pos htemp, if_neg (by rw [List.contains_iff_mem, hsampled.hotStacks]; exact hnew)] at heq
  obtain ⟨hraised, hby⟩ := doubtChip_raises { v with hotStacks := v.hotStacks ++ [k] } (d := { cause := cTemperature, subject := k }) (show 0xFA < 256 by decide)
  have hhot := doubtChip_hotStacks { v with hotStacks := v.hotStacks ++ [k] } { cause := cTemperature, subject := k }
  generalize ({ v with hotStacks := v.hotStacks ++ [k] } : State).doubtChip { cause := cTemperature, subject := k } = t at heq hraised hby hhot
  obtain ⟨hcause, -⟩ := hraised.closes ((hsampled.chipClosed hk).trans hopen)
  have hut : Untouched s t := hsampled.untouched.trans ⟨hby.untouched.pending, hby.untouched.mem, hby.untouched.stores⟩
  refine ⟨t, unit_next hk hs heq hut, hraised.shut, hcause, ?_⟩
  rw [hhot]
  exact List.mem_append_right _ (List.mem_singleton_self k)

end

end Sys2Proof.Machine
end

section
/-! PROOFS. The zeroing at the start of a reopening's fallow turn (R477). -/

namespace Sys2Proof.Machine

/-! ## What zeroing does to a core -/

/-- What the zeroing of its tile leaves of a core. -/
def Core.cleared (x : Core) : Core := { Core.reset with bank0 := x.bank0, bank1 := x.bank1, cursor := x.cursor, spent := x.spent }

/-- What the zeroing with the command stores leaves of a core. -/
def Core.blanked (x : Core) : Core := { Core.reset with spent := x.spent }

theorem Core.cleared_cleared (x : Core) : x.cleared.cleared = x.cleared := rfl

/-- A fold whose steps either rewrite a core, always the same way, or leave it. -/
theorem core_foldl {β : Type} {f : State → β → State} {c : Nat} {p : β → Prop} [DecidablePred p] {z : Core → Core} (hz : ∀ x, z (z x) = z x)
    (h : ∀ s x, (f s x).core c = if p x then z (s.core c) else s.core c) (l : List β) (s : State) :
    (l.foldl f s).core c = if ∃ x ∈ l, p x then z (s.core c) else s.core c := by
  induction l generalizing s with
  | nil => exact (if_neg fun ⟨_, hx, _⟩ => nomatch hx).symm
  | cons y l ih =>
    rw [List.foldl_cons, ih, h]
    by_cases hy : p y
    · have hex : ∃ x ∈ y :: l, p x := ⟨y, List.mem_cons_self, hy⟩
      rw [if_pos hy, if_pos hex, hz, ite_self]
    · have hiff : (∃ x ∈ l, p x) ↔ ∃ x ∈ y :: l, p x := by simp [hy]
      rw [if_neg hy]
      exact if_congr hiff rfl rfl

/-- The write of one core, whatever register is set with it. -/
theorem core_setCore_setReg (s : State) (k r c : Nat) (v : BitVec 64) (x : Core) :
    ((s.setCore k x).setReg r v).core c = if c = k then x else s.core c := by
  show (s.setCore k x).core c = _
  split
  · rename_i h
    rw [h, State.core_setCore_self]
  · rename_i h
    rw [State.core_setCore_ne s x h]

section
variable (s : State) (t c : Nat)

theorem zeroTile_core : (s.zeroTile t).core c = if c / 32 = t then (s.core c).cleared else s.core c := by
  have hmem : (∃ i ∈ List.range 32, c = 32 * t + i) ↔ c / 32 = t := by
    constructor
    · rintro ⟨i, hi, rfl⟩
      have := List.mem_range.1 hi
      omega
    · exact fun h => ⟨c % 32, List.mem_range.2 (by omega), by omega⟩
  unfold State.zeroTile
  refine (core_foldl Core.cleared_cleared (p := fun i => c = 32 * t + i) (fun s i => ?_) _ s).trans (if_congr hmem rfl rfl)
  refine (core_setCore_setReg s (32 * t + i) _ c 1 _).trans ?_
  split
  · rename_i h
    rw [h]
    rfl
  · rfl

theorem blankTile_core {i : Nat} (hi : i < 32) : (s.blankTile t).core (32 * t + i) = (s.core (32 * t + i)).blanked := by
  unfold State.blankTile
  refine (core_foldl (z := fun _ => (s.core (32 * t + i)).blanked) (fun _ => rfl) (p := fun j => 32 * t + i = 32 * t + j) (fun u j => ?_) _ _).trans
    (if_pos ⟨i, List.mem_range.2 hi, rfl⟩)
  refine (core_setCore_setReg u (32 * t + j) _ (32 * t + i) 0 _).trans ?_
  split
  · rename_i h
    rw [h]
    rfl
  · rfl

theorem zeroTiles_core (l : List Nat) : (l.foldl State.zeroTile s).core c = if c / 32 ∈ l then (s.core c).cleared else s.core c := by
  refine (core_foldl Core.cleared_cleared (p := fun t => c / 32 = t) (fun s t => zeroTile_core s t c) l s).trans (if_congr ?_ rfl rfl)
  exact ⟨fun ⟨_, hx, he⟩ => he ▸ hx, fun h => ⟨_, h, rfl⟩⟩

end

/-! ## The reopening of one subject -/

/-- What is zeroed for one reopening. -/
def State.reopenTiles (s : State) (scope subj : Nat) : State :=
  if scope = 1 then s.reopenZero true subj else (s.tilesOf subj).foldl (fun s t => s.reopenZero false t) s

theorem reopenTiles_one (s : State) (subj : Nat) : s.reopenTiles 1 subj = s.blankTile subj := rfl

theorem reopenTiles_other (s : State) {scope : Nat} (h : scope ≠ 1) (subj : Nat) :
    s.reopenTiles scope subj = (s.tilesOf subj).foldl State.zeroTile s := if_neg h

theorem reopenTiles_opens (s : State) (scope subj : Nat) : Opens s (s.reopenTiles scope subj) := by
  by_cases h : scope = 1
  · rw [h, reopenTiles_one]
    exact blankTile_opens s subj
  · rw [reopenTiles_other s h]
    exact .foldl _ zeroTile_opens s

theorem reopenTiles_tile (s : State) (subj : Nat) {i : Nat} (hi : i < 32) :
    (s.reopenTiles 1 subj).core (32 * subj + i) = (s.core (32 * subj + i)).blanked := blankTile_core s subj hi

theorem reopenTiles_allot (s : State) {scope subj k i : Nat} (hscope : scope ≠ 1) (hk : k ∈ s.tilesOf subj) (hi : i < 32) :
    (s.reopenTiles scope subj).core (32 * k + i) = (s.core (32 * k + i)).cleared := by
  have hdiv : (32 * k + i) / 32 = k := by omega
  rw [reopenTiles_other s hscope, zeroTiles_core, hdiv, if_pos hk]

theorem reopenStart_idle {s : State} (h : s.wck.cycle ≠ 0 ∨ s.wck.isFallow = false) : reopenStart s = s :=
  if_pos (h.imp_right fun e => by rw [e]; exact Bool.false_ne_true)

theorem reopenStart_one {s : State} {o : Ord} {scope subj : Nat} (hcycle : s.wck.cycle = 0) (hfallow : s.wck.isFallow = true)
    (h : s.reopens = [⟨o, scope, subj, s.wck.turn, false⟩]) :
    reopenStart s = { (s.reopenTiles scope subj).took o with reopens := [⟨o, scope, subj, s.wck.turn, true⟩] } := by
  have hlist : (s.reopensNow.filter fun r => !r.zeroed) = [⟨o, scope, subj, s.wck.turn, false⟩] := by
    simp [State.reopensNow, h]
  have hopens := reopenTiles_opens s scope subj
  have hwck := hopens.wck
  have hreopens : (s.reopenTiles scope subj).reopens = s.reopens := by rw [hopens.rest]
  have hmap : (((s.reopenTiles scope subj).took o).reopens.map fun r =>
      if r.turn = ((s.reopenTiles scope subj).took o).wck.turn then { r with zeroed := true } else r) = [⟨o, scope, subj, s.wck.turn, true⟩] := by
    show ((s.reopenTiles scope subj).reopens.map fun r => if r.turn = (s.reopenTiles scope subj).wck.turn then { r with zeroed := true } else r) = _
    rw [hreopens, hwck, h, List.map_cons, if_pos rfl]
    rfl
  rw [← hmap]
  unfold reopenStart
  rw [if_neg (by simp [hcycle, hfallow]), hlist]
  rfl

/-! ## The command -/

section
variable {s : State} (hs : s.stores = [])
include hs

theorem reopenFallowStart_zeroes {o : Ord} {scope subj : Nat} (hcycle : s.wck.cycle = 0) (hfallow : s.wck.isFallow = true)
    (h : s.reopens = [⟨o, scope, subj, s.wck.turn, false⟩]) :
    ∃ t, exec .reopenFallowStart s = .next t ∧ t.reopens = [⟨o, scope, subj, s.wck.turn, true⟩] ∧ Quiet s t ∧
      (scope = 1 → ∀ i < 32, t.core (32 * subj + i) = { Core.reset with spent := (s.core (32 * subj + i)).spent }) ∧
      (scope ≠ 1 → ∀ k ∈ s.tilesOf subj, ∀ i < 32, let x := s.core (32 * k + i)
        t.core (32 * k + i) = { Core.reset with bank0 := x.bank0, bank1 := x.bank1, cursor := x.cursor, spent := x.spent }) := by
  have heq := reopenStart_one hcycle hfallow h
  have hopens := reopenTiles_opens s scope subj
  have htile := fun (e : scope = 1) i (hi : i < 32) => e ▸ reopenTiles_tile s subj hi
  have hallot := fun (e : scope ≠ 1) k (hk : k ∈ s.tilesOf subj) i (hi : i < 32) => reopenTiles_allot s e hk hi
  generalize s.reopenTiles scope subj = u at heq hopens htile hallot
  have hut : Untouched s { u.took o with reopens := [⟨o, scope, subj, s.wck.turn, true⟩] } := hopens.untouched.trans ⟨rfl, rfl, rfl⟩
  exact ⟨_, run_next hs heq hut, rfl, ⟨fun r => congrArg Queue.out (queue_congr hopens.queues r), hut.rd⟩, htile, hallot⟩

theorem reopenFallowStart_idle (h : s.wck.cycle ≠ 0 ∨ s.wck.isFallow = false) : exec .reopenFallowStart s = .next s :=
  run_same hs (reopenStart_idle h)

end

end Sys2Proof.Machine
end

section
/-! PROOFS. The services of external memory and their neighbours, together (R136, R148, R151, R158, R306, R307, R470, R477). -/

namespace Sys2Proof.Machine

/-- Settles O54: each command's effect is read off its own equation; an access of BAR2 only notes itself beside its bytes, and what a
sample, an acknowledgement or a zeroing does not name stays by the frame of its steps. -/
theorem memoryServicesAct : Obligations.MemoryServicesAct := by
  unfold Obligations.MemoryServicesAct
  intro s hs
  refine ⟨fun fn a addr u hfn hup hwin => ⟨fun data p h hu => bar2Write_stores hs hfn hup hwin h hu,
      fun data p h => bar2Write_refused hs hfn hup hwin h, fun data x h => bar2Write_fault hs hfn hup hwin h,
      fun len p h hu => bar2Read_returns hs hfn hup hwin h hu, fun len p h => bar2Read_zeros hs hfn hup hwin h,
      fun len x h => bar2Read_fault hs hfn hup hwin h⟩,
    fun fn addr len data hfn hdown => bar2_unserved hs hfn hdown addr len data,
    fun st hst => ⟨fun g n hscrubs hg hn hramps hworks => granuleScrub_zeroes hs hst hscrubs hg hn hramps hworks, granuleScrub_idle hs hst⟩,
    fun st hst => ⟨fun b r h => hbmRewrite_first hs hst h, hbmRewrite_idle hs hst⟩,
    fun k hk temp => ⟨stackTempSample_tripped hs hk, stackTempSample_warm hs hk, stackTempSample_closes hs hk⟩,
    fun a ha fn v hfn hv hup hown => ⟨sluLedgerAck_inForce hs ha hfn hv hup hown, sluLedgerAck_logged hs ha hfn hv hup hown⟩,
    fun a ha fn v hpos hfn hown => sluLedgerAck_foreign hs ha hfn hpos hown,
    fun o scope subj hcycle hfallow h => reopenFallowStart_zeroes hs hcycle hfallow h, reopenFallowStart_idle hs⟩

end Sys2Proof.Machine
end
